-- ==== Sys2Proof/Word.lean ====
section
/-! DEFINITION. The word types of the part (R17, R20): registers are 32 or 64 bits, memory is bytes, BAR0 offsets are
26 bits (64 MiB). -/

namespace Sys2Proof

/-- A byte of a record or of device memory (R17). -/
abbrev Byte := BitVec 8
/-- A 16-bit word. -/
abbrev W16 := BitVec 16
/-- A 32-bit register or word (R20). -/
abbrev W32 := BitVec 32
/-- A 64-bit register (R20, R21). -/
abbrev W64 := BitVec 64
/-- A BAR0 byte offset: BAR0 is 64 MiB (R522). -/
abbrev Off := BitVec 26

end Sys2Proof
end

