-- ==== Sys2Proof/Syntax.lean ====
section
/-! DEFINITION. The commands of the part: one constructor per row of the opcode table, with the row's operands and what
the environment supplies with it. Physical units are numbered: core 18 * cluster + core (0 to 2,015), engine
17 * core + engine (0 to 34,271), plane 65 * engine + plane (0 to 2,227,679, the plane index of R508). -/

namespace Sys2Proof

/-- Who makes an access: the management block, the control core of a physical cluster, or the host (R415, Table 13.1). -/
inductive Master where
  | mgmt
  | core (p : Fin 112)
  | host
  deriving DecidableEq, Repr

/-- A word of a mailbox that its sender writes beside GO (Table 13.2). -/
inductive SenderWord where
  | data (i : Fin 16)
  | ackTime
  deriving DecidableEq, Repr

/-- What else happens on a mailbox in the cycle of a receiver's write (R407): a data write, a GO, and the acknowledgement timer's
expiry. -/
structure SameCycle where
  data   : Option (Master × Fin 16 × W32) := none
  go     : Option Master := none
  expiry : Bool := false
  deriving DecidableEq, Repr

/-- A receiver's write of REL_SEQ or of the status word with COLLISION (Table 13.2). -/
inductive RelWrite where
  | release (v : W32) (w : SameCycle)
  | status (v : W32) (w : SameCycle)
  deriving DecidableEq, Repr

/-- A receiver's write of ACK_SEQ with ACK_GO (Table 13.2). -/
structure AckWrite where
  v    : W32
  same : SameCycle := {}
  deriving DecidableEq, Repr

/-- The accesses to one lock register in one cycle (R415): the writes, by master, and the masters that read. -/
structure LockCycle where
  writes  : List (Master × W32) := []
  readers : List Master
  deriving DecidableEq, Repr

/-- The two SPDM transports of R436. -/
inductive SpdmPort where
  | doe
  | mctp
  deriving DecidableEq, Repr

/-- The algorithm sets that NEGOTIATE_ALGORITHMS offers (R436): signatures, hashes, key exchange and session protection, as bits of the
published standard. -/
structure AlgOffer where
  port : SpdmPort
  asym : W32
  hash : W32
  dhe  : W16
  aead : W16
  deriving DecidableEq, Repr

/-- A host command as a packet carries it (Tables 12.4, 12.6): ring, TAG, BINDING, RECORD and the payload bytes P. -/
structure Cmd where
  ring    : Fin 256
  tag     : W32
  binding : BitVec 12
  record  : W32
  payload : List Byte
  deriving DecidableEq, Repr

/-- What host memory holds for a command (the host's side of R366): the plan image, the core map bytes, the prompt tokens
at TOKENS_ADDR, and whether an address translation failed. -/
structure CmdData where
  plan    : List Byte
  map     : List Byte
  tokens  : List W32
  badAddr : Bool
  deriving DecidableEq, Repr

/-- Which path asked for a limit set (R467, Table 16.3). -/
inductive Source where
  | hostMsg
  | mgmtMsg
  deriving DecidableEq, Repr

/-- A beat word's fields (Table 10.2). -/
structure BeatWord where
  beat    : W64
  toPoint : W16
  toEnd   : BitVec 24
  token   : Bool
  check   : Byte
  deriving DecidableEq, Repr

/-- What phase 1 reads of one image slot: its bytes from the start of the slot on, whether every read succeeded, and the version that its
firmware reports. -/
structure ImageFact where
  readable  : Bool
  bytes     : List Byte
  fwVersion : W32
  deriving DecidableEq, Repr

/-- What the JESD251 discovery of a start finds (R417): a flash device, its parameters, its octal DTR mode, and its size in bytes. -/
structure FlashFact where
  found : Bool
  octal : Bool
  size  : Nat
  deriving DecidableEq, Repr

/-- One measured failure of a start-up phase: the item of Table 14.7 and its detail word (R427). -/
structure Failure where
  item   : Byte
  detail : W32
  deriving DecidableEq, Repr

/-- One converter's self-calibration: the means z and b of R441 at each gain, as sums of 1,000 samples. -/
structure SelfCal where
  zs : List Int
  bs : List Int
  deriving DecidableEq, Repr

/-- One input vector of an engine test (R488, R489) from the test kernels: its row codes and drive levels, and 64 times the stored ideal
sum of each logical weight column. -/
structure KatVec where
  xs    : List Int
  ks    : List Nat
  ideal : List Int
  deriving DecidableEq, Repr

/-- A known-answer test (R488, R492): the vectors of the test kernels section, and each attention and path result beside its stored answer,
at the first run and at the rerun of a failed part. -/
structure KatResult where
  vecs  : List KatVec
  att1  : List (W32 × W32)
  path1 : List (W32 × W32)
  att2  : List (W32 × W32)
  path2 : List (W32 × W32)
  deriving DecidableEq, Repr

/-- What the environment shows a start-up phase: the flash and its two image slots, and whether the larder can produce a version floor
(phase 1), failures the phase measures (phases 2 to 5), the known-answer tests of the cores (phase 5), the converters' self-calibration
sums (phase 3), and the microseconds the phase took. -/
structure PhaseFacts where
  flash    : FlashFact
  noFloor  : Bool
  slotA    : ImageFact
  slotB    : ImageFact
  failures : List Failure
  tests    : List (Fin 2016 × KatResult)
  copyB    : Bool
  torn     : Nat
  selfcal  : List SelfCal
  micros   : W32
  deriving DecidableEq, Repr

/-- One cluster's readings at a window end (R446, R468 to R470, R477): 1,024-beat average power in mW and least slack. -/
structure ClWindow where
  cluster : Fin 112
  power   : W16
  slack   : Byte
  deriving DecidableEq, Repr

/-- The environment's readings at a window end: the module's power (units of 1/8 W), the 54 V input (10 mV) and the
clusters' readings. -/
structure WindowData where
  powerAvg  : W16
  powerPeak : W16
  inputV    : W16
  clusters  : List ClWindow
  deriving DecidableEq, Repr

/-- The stretch request a control word carries (R318): beat, length and raising position. -/
structure StretchReq where
  beat : W64
  len  : W16
  pos  : BitVec 9
  deriving DecidableEq, Repr

/-- The formation word of R300: DOMAIN_ID, MAP_DIGEST and the sender's position. -/
structure FormWord where
  domainId : W32
  digest   : W32
  pos      : BitVec 9
  deriving DecidableEq, Repr

/-- What a plan part tells plan part 0, or is told by it (R311, R312): the plan, the plan part, and the reason and detail
of a refusal or the epoch named. -/
structure PlanMsg where
  planId : W64
  part   : BitVec 9
  reason : Byte
  detail : W32
  epoch  : W64
  deriving DecidableEq, Repr

/-- What a finished re-plan measured for a cluster (R481): the cause of R480, and the delta the voltage stepping found (in 5 mV steps,
signed). -/
structure ReplanData where
  cause : Byte
  steps : Int
  deriving DecidableEq, Repr

/-- What the checks of the datapath and of the memories find while a command runs (R485, R487): a duplicated unit of the kind of
Table 17.2's DETAIL0 that disagrees, with its lane; a corrected or an uncorrectable read of device memory, by frame and block or
byte; one of core or cluster SRAM, by byte address; and an uncorrectable read of a context record or of a prefix node of its
sequence. -/
inductive UnitFault where
  | datapath (unit : Fin 5) (lane : W32)
  | memCorrected (frame : BitVec 24) (block : Byte)
  | memBad (frame : BitVec 24) (byte : W16)
  | sramCorrected (cluster : Bool) (addr : W32)
  | sramBad (cluster : Bool) (addr : W32)
  | ctxBad (rec : Fin 262144)
  deriving DecidableEq, Repr

/-- One op record as the sequencer reads it from cluster SRAM (R179): its index, its variant, its 32 bytes as one
little-endian number, whether a word of it was uncorrectable, and what the checks find while it runs (R485, R487). -/
structure RecRead where
  idx    : BitVec 14
  wide   : Bool
  bits   : BitVec 256
  bad    : Bool
  faults : List UnitFault := []
  deriving DecidableEq, Repr

/-- A core's status of a layer step (R117): dirty, and the sequence slots implicated (R141). -/
structure CoreStatus where
  dirty : Bool
  impl  : BitVec 4
  deriving DecidableEq, Repr

/-- A column block's running sums on a chain hop (R163, R165): `s`, and `c` in compensated mode, for each output. -/
structure ChainMsg where
  layer  : W16
  col    : BitVec 12
  vec    : W16
  comp   : Bool
  s      : List W32
  c      : List W32
  last   : Bool
  status : CoreStatus
  deriving DecidableEq, Repr

/-- One query row's online-softmax state on a MERGE hop (R248, R251). -/
structure SoftRow where
  m     : W32
  l     : W32
  empty : Bool
  o     : List W32
  deriving DecidableEq, Repr

/-- A MERGE state from the preceding core, with its status (R251); or the finished result of a ring split layer (R258). -/
structure MergeMsg where
  rows   : List SoftRow
  status : CoreStatus
  final  : Bool := false
  deriving DecidableEq, Repr

/-- A cross-core REDUCE partial or the final core's broadcast (R162): kind, value, total of LEN, whether every value that went in was
zero (R103), and TOPK candidates. -/
structure ReduceMsg where
  layer : W16
  kind  : BitVec 2
  value : W32
  count : W32
  zero  : Bool
  cands : List (W32 × W32)
  final : Bool
  deriving DecidableEq, Repr

/-- Outputs that a TAIL of another part of the plan sends to a core's staging (R180): the core, the operand there, and the values. -/
structure TailMsg where
  core : Fin 2016
  off  : W32
  vals : List W32
  deriving DecidableEq, Repr

/-- A rotation-mode ring block (R257): the round it is for, page descriptors with page images, and whether its link check passed
(R259). -/
structure RingBlk where
  round  : Nat
  pages  : List (BitVec 128 × List Byte)
  linkOk : Bool
  deriving DecidableEq, Repr

/-- One sensed cell: physical row and column pair, which cell of the pair, and its level (R194). -/
structure CellRead where
  row   : Nat
  col   : Nat
  neg   : Bool
  level : Nat
  deriving DecidableEq, Repr

/-- What the verify reads and the probe passes of an adoption found (R209): cells whose level differs from the block's
nominal one, and the drift sums M, X, Z and A as FP32 words. -/
structure AdoptData where
  cells : List CellRead
  m     : W32
  x     : W32
  z     : W32
  a     : W32
  deriving DecidableEq, Repr

/-- The part that a message comes from, by its ring position, and whether the message travelled downstream. -/
structure Sender where
  pos  : BitVec 9
  down : Bool
  deriving DecidableEq, Repr

/-- What a received transaction carries: its tag, and what a TAIL of another part sends to a core's staging (R180). -/
structure TxnData where
  tag  : BitVec 24
  tail : Option TailMsg
  deriving DecidableEq, Repr

/-- A flit lost at a port (R324): at the receiving port; or, with the source and tag of each transaction that has flits in the port's
replay buffer, at the sending port that the retry is asked of. `seq` is the SEQ of the lost flit, the one that the receiving port
expected; `sent` that of the last flit that the link's sending port has sent. -/
structure PortLoss where
  port  : Fin 8
  asked : Option (List (BitVec 9 × BitVec 24))
  seq   : W32
  sent  : W32
  deriving DecidableEq, Repr

/-- A sending port, with the source and tag of each transaction in its replay buffer (R325) and the SEQ of the flit that its episode could
not bring across. -/
structure PortHeld where
  port : Fin 8
  seq  : W32
  held : List (BitVec 9 × BitVec 24)
  deriving DecidableEq, Repr

/-- A slot of an engine's grid (R67): the physical engine, and which of the grid's present 64 slots. -/
structure EngineSlot where
  eng  : Fin 34272
  slot : Fin 64
  deriving DecidableEq, Repr

/-- A program to start: the physical plane's plane index (R508), and the faults of reading its master copy (R487). -/
structure ProgStart where
  plane  : Fin 2227680
  faults : List UnitFault
  deriving DecidableEq, Repr

/-- The commands and events of the part, one constructor per row of the opcode table. -/
inductive Instr where
  /-- REGISTER_WRITE (R22): a naturally aligned host write, 32 or 64 bits wide. -/
  | registerWrite (off : Off) (v : W64) (wide : Bool)
  /-- BAD_ACCESS (R20). -/
  | badAccess (m : Master) (off : Off) (bytes : BitVec 4) (write : Bool)
  /-- REG64_LOW_READ (R21). -/
  | reg64LowRead (off : Off)
  /-- REG64_LOW_WRITE (R21). -/
  | reg64LowWrite (off : Off) (lo : W32)
  /-- REG64_HIGH_WRITE (R21); `off` is the offset of the low word. -/
  | reg64HighWrite (off : Off) (hi : W32)
  /-- ENABLE (R431). -/
  | enable (v : W32)
  /-- MAILBOX_DATA_WRITE (R403). Mailbox 0 is host-to-firmware, 1 firmware-to-host, 2 + p inter-core of cluster p. -/
  | mailboxDataWrite (mb : Fin 114) (m : Master) (i : SenderWord) (v : W32)
  /-- GO (R404). -/
  | go (mb : Fin 114) (m : Master) (v : W32)
  /-- REL_SEQ (R405, R407), and the write of COLLISION beside it. -/
  | relSeq (mb : Fin 114) (m : Master) (v : RelWrite)
  /-- ACK_GO (R406, R407). -/
  | ackGo (mb : Fin 114) (m : Master) (v : AckWrite)
  /-- MAILBOX_ACK_TIMEOUT (R403). -/
  | mailboxAckTimeout (mb : Fin 114)
  /-- LOCK_TAKE (R415): the masters that read the lock in one cycle, and the writes of that cycle. -/
  | lockTake (k : Fin 64) (readers : LockCycle)
  /-- LOCK_RELEASE (R414). -/
  | lockRelease (k : Fin 64) (m : Master) (v : W32)
  /-- SQ_ENABLE (R369): a write of the submission control register. -/
  | sqEnable (r : Fin 256) (v : W32)
  /-- RING_FLUSH (R379): a write of the submission control register with FLUSH. -/
  | ringFlush (r : Fin 256) (v : W32)
  /-- SQ_TAIL (R372). -/
  | sqTail (r : Fin 256) (v : W32)
  /-- CQ_ENABLE (R386): a write of the completion control register. -/
  | cqEnable (r : Fin 256) (v : W32)
  /-- CQ_HEAD (R389). -/
  | cqHead (r : Fin 256) (v : W32)
  /-- QUIESCE (R396). -/
  | quiesce (v : W32)
  /-- D3HOT_WRITE (R363). -/
  | d3hotWrite
  /-- QUIESCE_COMPLETE (R396). -/
  | quiesceComplete
  /-- HOST_TIMERS_WRITE (R393). -/
  | hostTimersWrite (v : W32)
  /-- TRANSACTION_TIMERS_WRITE (R327). -/
  | transactionTimersWrite (m : Master) (v : W32)
  /-- ER_ENABLE (R499): a write of the error ring control register. -/
  | erEnable (v : W32)
  /-- ER_HEAD (R499). -/
  | erHead (v : W32)
  /-- SNAP (R445). -/
  | snap (v : W32)
  /-- MAP_WRITE (R298): a write of a domain map register. -/
  | mapWrite (m : Master) (off : Off) (v : W32)
  /-- JOIN (R302): a write of the fabric control register. -/
  | join (m : Master) (v : W32)
  /-- LEAVE (R308): a write of the fabric control register. -/
  | leave (m : Master) (v : W32)
  /-- PACKET_FETCH (R373): the ring's entries from SQ_HEAD on, as host memory holds them. -/
  | packetFetch (r : Fin 256) (entries : List (BitVec 512))
  /-- PACKET_DISPATCH (R375); `fault` is a pointer mismatch or a bad spill slot (R378). -/
  | packetDispatch (r : Fin 256) (fault : Bool) (d : CmdData)
  /-- BIND_LOAD (R336). -/
  | bindLoad (c : Cmd) (d : CmdData)
  /-- BIND_SWITCH (R338). -/
  | bindSwitch (c : Cmd)
  /-- UNBIND (R348). -/
  | unbind (c : Cmd)
  /-- UNBIND_BY_TENANT (R350). -/
  | unbindByTenant (c : Cmd)
  /-- PREFILL_OPEN (R262). -/
  | prefillOpen (c : Cmd) (d : CmdData)
  /-- PREFILL_EXTEND (R382). -/
  | prefillExtend (c : Cmd) (d : CmdData)
  /-- GENERATE (R382). -/
  | generate (c : Cmd) (d : CmdData)
  /-- CANCEL (R383). -/
  | cancel (c : Cmd)
  /-- FLUSH (R384). -/
  | flush (c : Cmd)
  /-- QUERY_BINDING (R385). -/
  | queryBinding (c : Cmd) (d : CmdData)
  /-- QUERY_CONTEXT (R385). -/
  | queryContext (c : Cmd) (d : CmdData)
  /-- QUERY_PLANES (R385). -/
  | queryPlanes (c : Cmd) (d : CmdData)
  /-- QUERY_CELL_MAP (R385). -/
  | queryCellMap (c : Cmd) (d : CmdData)
  /-- COALESCE_TIMEOUT (R392). -/
  | coalesceTimeout (vec : Fin 260)
  /-- HOST_READ_COMPLETE (R364); `ok` is false when the address translation failed (R366). -/
  | hostReadComplete (id : Nat) (ok : Bool)
  /-- HOST_READ_TIMEOUT (R394). -/
  | hostReadTimeout (id : Nat)
  /-- LINK_REPLAY_EPISODE (R393). -/
  | linkReplayEpisode
  /-- LINK_RECOVERY_ENTRY (R393). -/
  | linkRecoveryEntry
  /-- LINK_RECOVERY_EXIT (R393). -/
  | linkRecoveryExit
  /-- LINK_DOWN (R397). -/
  | linkDown
  /-- FUNCTION_LEVEL_RESET (R368). -/
  | functionLevelReset
  /-- HOT_RESET (R368). -/
  | hotReset
  /-- PERST_DEASSERT (R429): the link trains to this width and speed code. -/
  | perstDeassert (width : BitVec 5) (speed : BitVec 4)
  /-- IDE_FAILURE (R367). -/
  | ideFailure (cache : Bool)
  /-- IDE_REKEY (R367). -/
  | ideRekey
  /-- TOKEN_FILL (R272). -/
  | tokenFill (rec : Fin 262144) (tokens : List W32)
  /-- ERROR_RING_WRITE (R499). -/
  | errorRingWrite
  /-- PING (R413): firmware handles the message waiting in the host-to-firmware mailbox. -/
  | ping
  /-- CALENDAR_SET (R515). -/
  | calendarSet
  /-- CALENDAR_GET (R413). -/
  | calendarGet
  /-- POWER_LIMIT_SET (R467): from the host mailbox, or over MCTP with this value. -/
  | powerLimitSet (src : Source) (watts : W32)
  /-- POWER_LIMIT_GET (R413). -/
  | powerLimitGet
  /-- GET_RECORDS (R500). -/
  | getRecords (n : Byte)
  /-- ACK_RECORDS (R500). -/
  | ackRecords (seq : W32)
  /-- GET_CPER (R503). -/
  | getCper (slot : Byte)
  /-- GET_COUNTS (R500). -/
  | getCounts
  /-- GET_LARDER (R520). -/
  | getLarder
  /-- GET_EVENTS (R520). -/
  | getEvents (idx : W16) (count : Byte)
  /-- GET_AGEING (R520). -/
  | getAgeing (idx : W16) (count : Byte)
  /-- GET_PLANES (R520). -/
  | getPlanes (first : W32) (count : Byte)
  /-- SET_CALENDAR (R515). -/
  | setCalendar (secs : W64) (frac : W32)
  /-- I3C_ADDRESS_ASSIGN (R500). -/
  | i3cAddressAssign (addr : BitVec 7)
  /-- SPDM GET_VERSION (R436). -/
  | getVersion (p : SpdmPort)
  /-- SPDM GET_CAPABILITIES (R436). -/
  | getCapabilities (p : SpdmPort)
  /-- SPDM NEGOTIATE_ALGORITHMS (R436). -/
  | negotiateAlgorithms (p : AlgOffer)
  /-- SPDM GET_DIGESTS (R436). -/
  | getDigests (p : SpdmPort)
  /-- SPDM GET_CERTIFICATE (R436). -/
  | getCertificate (p : SpdmPort) (slot : Byte) (offset length : W16)
  /-- SPDM CHALLENGE (R436). -/
  | challenge (p : SpdmPort) (slot : Byte) (nonce : BitVec 256)
  /-- SPDM GET_MEASUREMENTS (R437): index 0 asks for the count, 0xFF for all. -/
  | getMeasurements (p : SpdmPort) (index : Byte) (nonce : BitVec 256)
  /-- SPDM KEY_EXCHANGE (R436). -/
  | keyExchange (p : SpdmPort) (slot : Byte) (session : W16)
  /-- SPDM FINISH (R436). -/
  | finish (p : SpdmPort) (session : W16)
  /-- SPDM END_SESSION (R436). -/
  | endSession (p : SpdmPort) (session : W16)
  /-- COPY_COMPLETE (R279). -/
  | copyComplete (rec : Fin 262144)
  /-- BEAT_EDGE (R303). -/
  | beatEdge
  /-- BEAT_WORD_RECEIVED (R305); `onTime` is arrival within 32 ns of the expected time. -/
  | beatWordReceived (w : BeatWord) (onTime : Bool)
  /-- BEAT_LOSS (R305). -/
  | beatLoss
  /-- BEAT_LOCK (R300). -/
  | beatLock
  /-- FORMATION_WORD (R300). -/
  | formationWord (w : FormWord)
  /-- FORMATION_TIMEOUT (R301). -/
  | formationTimeout
  /-- PORT_TRAINING_COMPLETE (R294): the raw latency in ns and whether the lanes arrived in order. -/
  | portTrainingComplete (k : Fin 8) (raw : Nat) (lanesOk : Bool)
  /-- DOMAIN_FAULT_NOTICE (R307): the cause and the position the notice carries, and whether it travels downstream. -/
  | domainFaultNotice (cause : BitVec 4) (src : Sender)
  /-- CABLE_DISCONNECT (R542). -/
  | cableDisconnect (down : Bool)
  /-- BOND_DOWN (R307). -/
  | bondDown (down : Bool)
  /-- STRETCH_REQUEST_WORD (R318). -/
  | stretchRequestWord (q : StretchReq)
  /-- STRETCH_RESOLVE (R318): the master resolves the requests raised in this beat. -/
  | stretchResolve (beat : W64)
  /-- STRETCH_START (R319). -/
  | stretchStart
  /-- STRETCH_END (R321). -/
  | stretchEnd
  /-- FLIT_LOST (R324): at the receiving port; or, with the source and tag of each transaction that has flits in the port's replay
  buffer, at the sending port that the retry is asked of. -/
  | flitLost (x : PortLoss)
  /-- EPISODE_EXHAUSTED (R325): at the sending port, with the source and tag of each transaction in its replay buffer. -/
  | episodeExhausted (x : PortHeld)
  /-- RETRY_NOTICE (R326). -/
  | retryNotice (txn : BitVec 24)
  /-- ERROR_COMPLETION (R325). -/
  | errorCompletion (txn : BitVec 24)
  /-- TRANSACTION_RECEIVED (R323): its source and tag, whether it travelled downstream, and what a TAIL of another part sends to a core's
  staging (R180). -/
  | transactionReceived (src : Sender) (txn : TxnData)
  /-- ACKNOWLEDGEMENT (R326). -/
  | acknowledgement (txn : BitVec 24)
  /-- TRANSACTION_TIMEOUT (R326). -/
  | transactionTimeout (txn : BitVec 24)
  /-- READY_MESSAGE (R311). -/
  | readyMessage (q : PlanMsg)
  /-- REFUSAL_MESSAGE (R312). -/
  | refusalMessage (q : PlanMsg)
  /-- EPOCH_MESSAGE (R311). -/
  | epochMessage (q : PlanMsg)
  /-- ABORT_MESSAGE (R312). -/
  | abortMessage (q : PlanMsg)
  /-- READY_WAIT_TIMEOUT (R312). -/
  | readyWaitTimeout
  /-- EPOCH_WAIT_TIMEOUT (R312). -/
  | epochWaitTimeout
  /-- SWITCH_EPOCH (R339). -/
  | switchEpoch
  /-- SCRUB_COMPLETE (R344): the core and whether its read-back failed. -/
  | scrubComplete (core : Fin 2016) (fail : Bool)
  /-- SWITCH_HANDOVER (R343). -/
  | switchHandover
  /-- MONITOR_SAMPLE (R444): converter, entry and the sampled voltage in units of 2^-20 V. -/
  | monitorSample (conv : Fin 14) (entry : Fin 16) (volts : Int)
  /-- WINDOW_END (R468). -/
  | windowEnd (d : WindowData)
  /-- POWER_WINDOW_END (R470): the cluster's 64-beat average power in mW. -/
  | powerWindowEnd (cluster : Fin 112) (power : W16)
  /-- POINT_SETTLE (R464). -/
  | pointSettle (cluster : Fin 112)
  /-- REPLAN_COMPLETE (R481). -/
  | replanComplete (cluster : Fin 112) (d : ReplanData)
  /-- CLUSTER_POWER_GATE (R466). -/
  | clusterPowerGate (cluster : Fin 112)
  /-- TRIVET_TRIP (R472): the diode, or none for a firmware request. -/
  | trivetTrip (diode : Option (Fin 112))
  /-- TRIVET_RELEASE (R473). -/
  | trivetRelease
  /-- INPUT_LOSS (R461). -/
  | inputLoss
  /-- INPUT_RESTORE (R461). -/
  | inputRestore
  /-- PWR_SENSE_OPEN (R536). -/
  | pwrSenseOpen
  /-- MOD_RESET_LOW (R539). -/
  | modResetLow
  /-- MOD_RESET_HIGH (R539). -/
  | modResetHigh
  /-- FLASH_OWN_ASSERT (R540). -/
  | flashOwnAssert
  /-- FLASH_OWN_DEASSERT (R540). -/
  | flashOwnDeassert
  /-- COLD_START (R426). -/
  | coldStart
  /-- STARTUP_PHASE_END (R426). -/
  | startupPhaseEnd (f : PhaseFacts)
  /-- CLUSTER_WAKE (R408). -/
  | clusterWake (cluster : Fin 112)
  /-- FOLD (R511). -/
  | fold
  /-- COUNTER_RECORD_TIMER (R514). -/
  | counterRecordTimer
  /-- EVENT_TOKEN_RESTORE (R517). -/
  | eventTokenRestore
  /-- FLASH_PAGE_WRITE_COMPLETE (R519). -/
  | flashPageWriteComplete
  /-- LARDER_VIEW_UPDATE (R521). -/
  | larderViewUpdate
  /-- CALENDAR_TICK (R515). -/
  | calendarTick
  /-- HOLD_UP_END (R461). -/
  | holdUpEnd
  /-- SNOOP (R364). -/
  | snoop (addr : W64)
  /-- CONVENTIONAL_RESET (R368). -/
  | conventionalReset
  /-- NOP (R181). -/
  | nop (k : Fin 2016) (r : RecRead)
  /-- LSTEP (R181). -/
  | lstep (k : Fin 2016) (r : RecRead)
  /-- STEPEND (R265). -/
  | stepend (k : Fin 2016) (r : RecRead)
  /-- SELECT (R273). -/
  | select (k : Fin 2016) (r : RecRead)
  /-- MWIN (R189). -/
  | mwin (k : Fin 2016) (r : RecRead)
  /-- MAINTENANCE_WINDOW_END (R95). -/
  | maintenanceWindowEnd (k : Fin 2016)
  /-- QUANT (R125). -/
  | quant (k : Fin 2016) (r : RecRead)
  /-- PASS (R188). -/
  | pass (k : Fin 2016) (r : RecRead)
  /-- PASS_SLOT (R68): the engine's next queued pass runs in this slot of the grid's present 64 (R67). -/
  | passSlot (e : EngineSlot)
  /-- SPLIT_HALF (R75), in this slot of the grid's present 64. -/
  | splitHalf (e : EngineSlot)
  /-- SIEVE (R106). -/
  | sieve (k : Fin 2016) (r : RecRead)
  /-- CHAIN (R163). -/
  | chain (k : Fin 2016) (r : RecRead)
  /-- CHAIN_ARRIVAL (R164). -/
  | chainArrival (k : Fin 2016) (d : ChainMsg)
  /-- TAIL (R99). -/
  | tail (k : Fin 2016) (r : RecRead)
  /-- LAYER_STEP_STATUS (R117): the combined status of this binding's layer step, with the other parts' share. -/
  | layerStepStatus (b : Fin 4096) (remote : CoreStatus)
  /-- REDUCE (R162). -/
  | reduce (k : Fin 2016) (r : RecRead)
  /-- REDUCE_RESULT_ARRIVAL (R162). -/
  | reduceResultArrival (k : Fin 2016) (d : ReduceMsg)
  /-- ACT (R101). -/
  | act (k : Fin 2016) (r : RecRead)
  /-- POOL (R104). -/
  | pool (k : Fin 2016) (r : RecRead)
  /-- SCORE (R169). -/
  | score (k : Fin 2016) (r : RecRead)
  /-- SMAX (R249). -/
  | smax (k : Fin 2016) (r : RecRead)
  /-- VALUE (R170). -/
  | value (k : Fin 2016) (r : RecRead)
  /-- MERGE (R251). -/
  | merge (k : Fin 2016) (r : RecRead)
  /-- MERGE_STATE_ARRIVAL (R251). -/
  | mergeStateArrival (k : Fin 2016) (d : MergeMsg)
  /-- OVF (R171). -/
  | ovf (k : Fin 2016) (r : RecRead)
  /-- WALK (R234). -/
  | walk (k : Fin 2016) (r : RecRead)
  /-- KVFETCH (R246). -/
  | kvfetch (k : Fin 2016) (r : RecRead)
  /-- KVAPPEND (R242). -/
  | kvappend (k : Fin 2016) (r : RecRead)
  /-- GATHER (R548). -/
  | gather (k : Fin 2016) (r : RecRead)
  /-- LOAD (R181). -/
  | load (k : Fin 2016) (r : RecRead)
  /-- STORE (R181). -/
  | store (k : Fin 2016) (r : RecRead)
  /-- OVERRUN (R316): the record at the core's sequencer is unissued at the end of its beat. -/
  | overrun (k : Fin 2016)
  /-- RING_BLOCK_ARRIVAL (R257). -/
  | ringBlockArrival (k : Fin 2016) (d : RingBlk)
  /-- PROGRAM_START (R193): of the physical plane with this plane index (R508); `faults` of reading its master copy (R487). -/
  | programStart (n : ProgStart)
  /-- ERASE_COMPLETE (R193): the cells that read above level 0. -/
  | eraseComplete (e : Fin 34272) (cells : List CellRead)
  /-- ROW_ITERATION (R194): the levels sensed for the row in progress. -/
  | rowIteration (e : Fin 34272) (cells : List CellRead)
  /-- PROGRAM_ATTEMPT_END (R215). -/
  | programAttemptEnd (e : Fin 34272)
  /-- ADOPTION_COMPLETE (R209). -/
  | adoptionComplete (n : Fin 2227680) (d : AdoptData)
  /-- CALIBRATION_START (R448). -/
  | calibrationStart (e : Fin 34272)
  /-- CALIBRATION_MEASUREMENT_COMPLETE (R452): `volts` are the sense line's voltages, in units of 2^-20 V, at the 16 samples of each of the
  six reference cells that a reselection reads (R453); none where there is none. -/
  | calibrationMeasurementComplete (e : Fin 34272) (volts : List (List Int))
  /-- TEST_DUE (R490). -/
  | testDue (k : Fin 2016)
  /-- TEST_FORCE (R491). -/
  | testForce (k : Fin 2016)
  /-- KAT_START (R488). -/
  | katStart (k : Fin 2016)
  /-- KAT_COMPLETE (R492). -/
  | katComplete (k : Fin 2016) (r : KatResult)
  deriving DecidableEq, Repr

end Sys2Proof
end

