-- ==== Sys2Proof/Decode.lean ====
section
/-! DEFINITION. The command a word of the opcode table spells. No row of this table gives bits: commands are register
accesses, messages, packets, timers and records, not words. The encodings the spec does give (packets, op records, beat
words, plan images) are read by the meanings that take them. -/

namespace Sys2Proof

/-- The command that `w` spells by the table's bits: none, since no row gives bits. -/
def decodeTableWord (_nbits _w : Nat) : Option Instr := none

end Sys2Proof
end

