-- ==== Sys2Proof/Config.lean ====
section
/-! DEFINITION. What an implementation fixes and the spec leaves open: free values, each an opaque constant with no body,
so that nothing proved in terms of the model rests on a value of it. Each is named in the assumption log. -/

namespace Sys2Proof.Config

/-- A fresh open byte, by the state's free-value counter (log entry 1). -/
opaque freeByte : Nat → Byte
/-- A fresh open 32-bit word (log entry 1). -/
opaque freeWord : Nat → W32
/-- A fresh open number (log entry 1). -/
opaque freeNat : Nat → Nat
/-- A fresh open integer (log entry 1). -/
opaque freeInt : Nat → Int
/-- A byte of a frame whose present owner has not written it and whose earlier owner wrote under another key, by the moment of
the change and the address (R354; log entry 5). -/
opaque staleByte : Nat → Nat → Byte
/-- The first free frame firmware's allocator looks at (log entry 6). -/
opaque framePick : Nat → Nat
/-- The part's serial number, from the format record (R531; log entry 7). -/
opaque serialNumber : W64
/-- The bytes of a signature slot before the vendor section: the UEFI header and section descriptor (R502; log entry 8). -/
opaque cperHeader : Bool → W64 → Nat → Byte
/-- Bytes of one frame owner table entry (R351; log entry 9). -/
opaque ownerEntryBytes : Nat
/-- kd of the operating tables, in 2^-16 degrees per code (R446; log entry 10). -/
opaque diodeSlope : Int
/-- d25[p] of the operating tables, in 2^-16 codes (R446; log entry 10). -/
opaque diodeCode25 : Nat → Int
/-- The operating tables' voltage of point k of cluster p, in mV (R463; log entry 10). -/
opaque tableVolt : Nat → Nat → Nat
/-- The operating tables' START_STEP of an engine (R481; log entry 10). -/
opaque tableStartStep : Nat → BitVec 4
/-- P_BASE of the operating tables, in W (R469; log entry 10). -/
opaque tablePBase : BitVec 10
/-- The target code of the reference cells (R453; log entry 10). -/
opaque refTarget : Int
/-- The value that the test kernels carry for TEST_INTERVAL, in beats (R490; log entry 10). -/
opaque testBeats : Nat
/-- TEST_INTERVAL: from 60 s to 86,400 s, in beats (R490). -/
def testInterval : Nat := max 58593750 (min testBeats 84375000000)
/-- SHA-512 (R422, R435, R437): the published standard's function, left open here (log entry 11). -/
opaque sha512 : List Byte → BitVec 512
/-- The public key of the image's maker, whose digest is one of the four in the mask ROM (R422; log entry 11). -/
opaque makerKey : List Byte
/-- The maker's ECDSA P-521 signature of a digest (R422; log entry 11). -/
opaque makerSign : BitVec 512 → List Byte
/-- Any other signature that ECDSA P-521 accepts of a digest under a public key (R422; log entry 11). -/
opaque otherSignature : List Byte → BitVec 512 → List Byte → Bool
/-- The other three signing-key digests of the mask ROM (R422; log entry 11). -/
opaque romKey : Nat → BitVec 512
/-- The bytes of the security block's mask ROM (measurement 1; log entry 11). -/
opaque romCode : List Byte
/-- The identity certificate that the larder holds since manufacture (R435; log entry 11). -/
opaque identityCert : List Byte
/-- The alias certificate that a start makes of an image's digest, SECURITY_VERSION and DEBUG flag (R435; log entry 11). -/
opaque aliasCert : BitVec 512 → W32 → Bool → Nat → List Byte
/-- A signature over an SPDM transcript (R436; log entry 11). -/
opaque signature : Nat → Nat
/-- Converter j's analogue gain on an engine and stage, in units of 2^-24, before the limits of R73 (log entry 12). -/
opaque columnGain : Nat → Nat → Nat → Int
/-- Its analogue offset, in quanta of 2^-24, before the limits of R73 (log entry 12). -/
opaque columnOffset : Nat → Nat → Nat → Int
/-- The systematic analogue error of a column in units of 2^-24, before the bound of R74: one value for one plane, range shift,
column, input (row codes and drive levels) and calibration (correction table) (log entry 12). -/
opaque systematicError : Nat → Nat → Nat → List Int → List Nat → List (Nat × W16) → List (Nat × W16) → Int
/-- The random part of a column's reading in one pass, in quanta (R74; log entry 12). -/
opaque randomError : Nat → Nat → Int
/-- The fixed algorithm's value of exp before the bound of R249 (log entry 13). -/
opaque expValue : W32 → W32
/-- The fixed algorithms' values of the activation unit before the bounds of Table 3.1, by function and operands (R101; log
entry 14). -/
opaque actValue : Nat → List W32 → W32
/-- Network cycles of the path between two logical clusters, beyond the rate of Table 5.3 (R164; log entry 10). -/
opaque pathLatency : Nat → Nat → Nat
/-- The schedule beat of the CHAIN record with which another part's plan part feeds a column block of this part, by plan identifier,
plan part, plan core, layer, column block and vector; none where none does (R164; log entry 128). -/
opaque otherPartChain : W64 → Nat → Nat → Nat → Nat → Nat → Option Nat
/-- Another part's plan part sends a plan core of this part the partial of a reduction, by plan identifier, plan part, plan core, kind
and layer (R162; log entry 128). -/
opaque otherPartReduce : W64 → Nat → Nat → Nat → Nat → Bool
/-- The working ports of the downstream bond of another part, by its ring position and the beat (R310; log entry 136). -/
opaque farPorts : Nat → W64 → BitVec 3
/-- The divisor of a standard deviation is one less than the number of terms, which R451 does not state (log entry 140). -/
opaque sdSample : Bool
/-- Which neighbour of the nearest FP32 number a standard deviation is rounded to, which R451 does not state (log entry 140). -/
opaque sdStep : List W32 → Nat
/-- The result of an FP32 operation on an operand that is not finite, where the spec states none (log entry 15). -/
opaque nonFinite : Nat → W32 → W32 → W32

end Sys2Proof.Config
end

