-- ==== Sys2Proof/Machine/Bits.lean ====
section
/-! DEFINITION. Bit fields, little-endian bytes (R17), integer rounding and the CRCs of the part (R176, R303, R509). -/

namespace Sys2Proof.Machine

/-- Bits [lo + n - 1 : lo] of a number. -/
def fld (x lo n : Nat) : Nat := x / 2 ^ lo % 2 ^ n

/-- Bit `i` of a number. -/
def bitOf (x i : Nat) : Bool := x / 2 ^ i % 2 == 1

/-- A Bool as a bit. -/
def bit (b : Bool) : Nat := if b then 1 else 0

/-- Fields packed from bit 0 upward: (value, width) pairs. -/
def packBits : List (Nat × Nat) → Nat
  | [] => 0
  | (v, w) :: t => v % 2 ^ w + 2 ^ w * packBits t

/-- The low `n` bytes of a number, little-endian (R17). -/
def leBytes : Nat → Nat → List Byte
  | 0, _ => []
  | n + 1, x => BitVec.ofNat 8 x :: leBytes n (x / 256)

/-- The number that little-endian bytes spell (R17). -/
def ofLe : List Byte → Nat
  | [] => 0
  | b :: t => b.toNat + 256 * ofLe t

/-- `n` bytes of a list from byte `i` on, as a little-endian number; bytes past the end read 0. -/
def leAt (bs : List Byte) (i n : Nat) : Nat := ofLe ((bs.drop i).take n)

/-- A 32-bit word of a byte list. -/
def w32At (bs : List Byte) (i : Nat) : W32 := BitVec.ofNat 32 (leAt bs i 4)

/-- The four bytes of each word in turn. -/
def wordsBytes (ws : List W32) : List Byte := ws.flatMap fun w => leBytes 4 w.toNat

/-- round_even: the integer nearest num / den, ties to even (R125). -/
def roundEven (num : Int) (den : Nat) : Int :=
  let q := num / (den : Int)
  let r := num - q * den
  if 2 * r < den then q else if 2 * r > den then q + 1 else if q % 2 = 0 then q else q + 1

/-- clamp (R12's pseudocode). -/
def clampI (x lo hi : Int) : Int := max lo (min x hi)

/-- ceil of a quotient of naturals. -/
def ceilDiv (a b : Nat) : Nat := (a + b - 1) / b

/-- A bounded signed value as a word of `n` bits. -/
def toWord (n : Nat) (x : Int) : BitVec n := BitVec.ofInt n x

/-- `f` of a number that is worked out first. -/
def eager {α : Type} (n : Nat) (f : Nat → α) : α :=
  match n with
  | 0 => f 0
  | k + 1 => f (k + 1)

/-- Bits of a reflected CRC-32 (IEEE 802.3 polynomial, R176). -/
def crc32Bit : Nat → Nat → Nat
  | 0, c => c
  | k + 1, c => eager (if c % 2 = 1 then Nat.xor (c / 2) 0xEDB88320 else c / 2) (crc32Bit k)

/-- CRC-32 register after the bytes. -/
def crc32Go (c : Nat) : List Byte → Nat
  | [] => c
  | b :: t => eager (crc32Bit 8 (Nat.xor c b.toNat)) fun d => crc32Go d t

/-- CRC-32, IEEE 802.3 polynomial (R176). -/
def crc32 (bs : List Byte) : W32 := BitVec.ofNat 32 (Nat.xor (crc32Go 0xFFFFFFFF bs) 0xFFFFFFFF)

/-- Steps of an unreflected CRC of `w` bits with polynomial `p`. -/
def crcBit (w p : Nat) : Nat → Nat → Nat
  | 0, c => c
  | k + 1, c => crcBit w p k (if bitOf c (w - 1) then Nat.xor (2 * c % 2 ^ w) p else 2 * c % 2 ^ w)

/-- The CRC-8 of a beat word (polynomial 0x07), over bytes most significant first of [119:0] taken little-endian (R303). -/
def crc8 (bs : List Byte) : Byte :=
  BitVec.ofNat 8 (bs.foldl (fun c b => crcBit 8 0x07 8 (Nat.xor c b.toNat)) 0)

/-- CRC-16, polynomial 0x1021 (R509). -/
def crc16 (bs : List Byte) : W16 :=
  BitVec.ofNat 16 (bs.foldl (fun c b => crcBit 16 0x1021 8 (Nat.xor c (256 * b.toNat))) 0)

/-- The list with element `i` replaced. -/
def setAt {α : Type} : List α → Nat → α → List α
  | [], _, _ => []
  | _ :: t, 0, v => v :: t
  | a :: t, i + 1, v => a :: setAt t i v

/-- Element `i` of a list of numbers-like data, or the given value past its end. -/
def getAt {α : Type} (d : α) (l : List α) (i : Nat) : α := l.getD i d

/-- Fold a function over 0 .. n - 1, ascending. -/
def upto {σ : Type} (n : Nat) (f : Nat → σ → σ) (s : σ) : σ :=
  (List.range n).foldl (fun s i => f i s) s

end Sys2Proof.Machine
end

