-- ==== Sys2Proof/Machine/Num.lean ====
section
/-! DEFINITION. The floating-point formats of the part and their exact arithmetic with one rounding (R16, R155 to R157): FP32,
FP16, BF16, FP8 E4M3 and E5M2. Subnormals are kept; a result beyond the range is the largest finite value of its sign. -/

namespace Sys2Proof.Machine

/-- A format: width, precision with the hidden bit, least normal exponent, and the bits of the largest finite value. -/
structure Fmt where
  w    : Nat
  p    : Nat
  emin : Int
  top  : Nat

/-- FP32. -/
def f32 : Fmt := { w := 32, p := 24, emin := -126, top := 0x7F7FFFFF }
/-- FP16. -/
def f16 : Fmt := { w := 16, p := 11, emin := -14, top := 0x7BFF }
/-- BF16. -/
def bf16 : Fmt := { w := 16, p := 8, emin := -126, top := 0x7F7F }
/-- FP8 E4M3: its largest finite value is 448. -/
def e4m3 : Fmt := { w := 8, p := 4, emin := -6, top := 0x7E }
/-- FP8 E5M2: its largest finite value is 57,344. -/
def e5m2 : Fmt := { w := 8, p := 3, emin := -14, top := 0x7B }

/-- The magnitude bits of an encoding. -/
def magOf (f : Fmt) (x : Nat) : Nat := x % 2 ^ (f.w - 1)
/-- The sign bit of an encoding. -/
def negOf (f : Fmt) (x : Nat) : Bool := bitOf x (f.w - 1)
/-- The encoding is a finite value. -/
def finiteF (f : Fmt) (x : Nat) : Bool := magOf f x ≤ f.top
/-- The encoding is a zero. -/
def zeroF (f : Fmt) (x : Nat) : Bool := magOf f x == 0

/-- A finite magnitude as (mantissa, exponent): its value is mantissa × 2^exponent. -/
def magVal (f : Fmt) (x : Nat) : Nat × Int :=
  let m := magOf f x
  let b := m / 2 ^ (f.p - 1)
  let fr := m % 2 ^ (f.p - 1)
  if b = 0 then (fr, f.emin - (f.p - 1)) else (fr + 2 ^ (f.p - 1), f.emin - (f.p - 1) + (b - 1))

/-- An exact dyadic number m × 2^e. -/
structure Dy where
  m : Int
  e : Int
  deriving DecidableEq, Repr

/-- The exact value of a finite encoding. -/
def dyOf (f : Fmt) (x : Nat) : Dy :=
  let v := magVal f x
  { m := if negOf f x then -(v.1 : Int) else v.1, e := v.2 }

/-- Two numbers over one exponent. -/
def align (a b : Dy) : Int × Int × Int :=
  if a.e ≤ b.e then (a.m, b.m * 2 ^ (b.e - a.e).toNat, a.e) else (a.m * 2 ^ (a.e - b.e).toNat, b.m, b.e)

/-- Exact sum. -/
def dyAdd (a b : Dy) : Dy := let t := align a b; { m := t.1 + t.2.1, e := t.2.2 }
/-- Exact product. -/
def dyMul (a b : Dy) : Dy := { m := a.m * b.m, e := a.e + b.e }
/-- Exact negation. -/
def dyNeg (a : Dy) : Dy := { a with m := -a.m }
/-- Exact absolute value. -/
def dyAbs (a : Dy) : Dy := { a with m := a.m.natAbs }
/-- Exact order. -/
def dyLe (a b : Dy) : Bool := let t := align a b; decide (t.1 ≤ t.2.1)
/-- Strict exact order. -/
def dyLt (a b : Dy) : Bool := !dyLe b a
/-- An integer as a dyadic number. -/
def dyInt (n : Int) : Dy := { m := n, e := 0 }

/-- num / den × 2^s as numerator and denominator of naturals. -/
def scaled (num den : Nat) (s : Int) : Nat × Nat :=
  if 0 ≤ s then (num * 2 ^ s.toNat, den) else (num, den * 2 ^ (-s).toNat)

/-- How a magnitude is rounded: to nearest with ties to even, or up. -/
def roundNat (up : Bool) (num den : Nat) : Nat :=
  if up then ceilDiv num den else (roundEven num den).toNat

/-- The positive magnitude num / den × 2^e rounded once to a format: the magnitude bits, and whether they exceed the range
under R16; where they do, the largest finite value stands. -/
def roundMag (f : Fmt) (up : Bool) (num den : Nat) (e : Int) : Nat × Bool :=
  if num = 0 then (0, false)
  else
    let l : Int := (Nat.log2 num : Int) - Nat.log2 den
    let t := scaled num den (-l)
    let top := (if t.2 ≤ t.1 then l else l - 1) + e
    let least := f.emin - (f.p - 1)
    let q := max (top - (f.p - 1)) least
    let v := scaled num den (e - q)
    let k := roundNat up v.1 v.2
    let bits := ((q - least).toNat + 1) * 2 ^ (f.p - 1) + k - 2 ^ (f.p - 1)
    if f.top < bits then (f.top, true) else (bits, false)

/-- A sign and magnitude as an encoding. -/
def signed (f : Fmt) (neg : Bool) (mag : Nat) : Nat := mag + bit neg * 2 ^ (f.w - 1)

/-- An exact number rounded once, with the sign its zero takes. -/
def roundDy (f : Fmt) (zneg : Bool) (d : Dy) : Nat × Bool :=
  if d.m = 0 then (signed f zneg 0, false)
  else let r := roundMag f false d.m.natAbs 1 d.e; (signed f (decide (d.m < 0)) r.1, r.2)

/-- An encoding converted between formats with one rounding, saturating (R16, R135). -/
def convF (a b : Fmt) (x : Nat) : Nat × Bool := roundDy b (negOf a x) (dyOf a x)

/-- An FP32 word as a number. -/
def fv (x : W32) : Dy := dyOf f32 x.toNat
/-- The FP32 word is finite. -/
def fin32 (x : W32) : Bool := finiteF f32 x.toNat

/-- FP32 sum, and whether it was clamped (R155 to R157). -/
def faddC (a b : W32) : W32 × Bool :=
  if fin32 a ∧ fin32 b then
    let z := negOf f32 a.toNat && negOf f32 b.toNat && zeroF f32 a.toNat && zeroF f32 b.toNat
    let r := roundDy f32 z (dyAdd (fv a) (fv b))
    (BitVec.ofNat 32 r.1, r.2)
  else (Config.nonFinite 0 a b, false)

/-- FP32 product, and whether it was clamped. -/
def fmulC (a b : W32) : W32 × Bool :=
  if fin32 a ∧ fin32 b then
    let r := roundDy f32 (negOf f32 a.toNat != negOf f32 b.toNat) (dyMul (fv a) (fv b))
    (BitVec.ofNat 32 r.1, r.2)
  else (Config.nonFinite 1 a b, false)

/-- FP32 sum. -/
def fadd (a b : W32) : W32 := (faddC a b).1
/-- FP32 product. -/
def fmul (a b : W32) : W32 := (fmulC a b).1
/-- FP32 sign change. -/
def fneg (a : W32) : W32 := a ^^^ 0x80000000
/-- FP32 difference. -/
def fsub (a b : W32) : W32 := fadd a (fneg b)
/-- FP32 absolute value. -/
def fabs (a : W32) : W32 := a &&& 0x7FFFFFFF

/-- FP32 quotient rounded once; a quotient by zero, or of a value not finite, is open (log entry 15). -/
def fdiv (a b : W32) : W32 :=
  if fin32 a ∧ fin32 b ∧ !zeroF f32 b.toNat then
    let neg := negOf f32 a.toNat != negOf f32 b.toNat
    let x := magVal f32 a.toNat
    let y := magVal f32 b.toNat
    BitVec.ofNat 32 (signed f32 neg (roundMag f32 false x.1 y.1 (x.2 - y.2)).1)
  else Config.nonFinite 2 a b

/-- FP32 order of finite words. -/
def fle (a b : W32) : Bool := dyLe (fv a) (fv b)
/-- The larger of two finite words. -/
def fmax (a b : W32) : W32 := if fle a b then b else a

/-- An exact ratio rounded once to FP32. -/
def fratio (num : Int) (den : Nat) : W32 :=
  BitVec.ofNat 32 (signed f32 (decide (num < 0)) (roundMag f32 false num.natAbs den 0).1)

/-- A dyadic number rounded once to FP32. -/
def f32Of (d : Dy) : W32 := BitVec.ofNat 32 (roundDy f32 false d).1

/-- An FP16 word widened exactly to FP32. -/
def h2f (x : W16) : W32 := BitVec.ofNat 32 (convF f16 f32 x.toNat).1
/-- FP32 to FP16, rounded once. -/
def f2h (x : W32) : W16 := BitVec.ofNat 16 (convF f32 f16 x.toNat).1
/-- A non-negative ratio rounded up to FP16, saturating at 65,504 (R125). -/
def f16Up (num den : Nat) (e : Int) : W16 := BitVec.ofNat 16 (roundMag f16 true num den e).1
/-- An FP8 byte widened exactly to FP32. -/
def b2f (f : Fmt) (x : Byte) : W32 := BitVec.ofNat 32 (convF f f32 x.toNat).1

/-- A sum of FP32 words from left to right, starting from +0.0, with clamps. -/
def fsumC (l : List W32) : W32 × Bool :=
  l.foldl (fun a x => let r := faddC a.1 x; (r.1, a.2 || r.2)) (0, false)

/-- Adjacent pairs added (one level of the tree of R169). -/
def pairUp : List W32 → List (W32) × Bool
  | a :: b :: t => let r := faddC a b; let u := pairUp t; (r.1 :: u.1, r.2 || u.2)
  | l => (l, false)

/-- The pairwise tree of R169 over 2^n leaves. -/
def treeSum : Nat → List W32 → W32 × Bool
  | 0, l => (l.headD 0, false)
  | n + 1, l => let u := pairUp l; let r := treeSum n u.1; (r.1, u.2 || r.2)

end Sys2Proof.Machine
end

