-- ==== Sys2Proof/Machine/Exact.lean ====
section
/-! DEFINITION. The defining formulas of the activation unit and of exp (R101, R102, R249) to about 2^-240, and results held to
their bounds in units in the last place: a result is the fixed algorithm's free value where that lies within the bound, else the
exact value rounded. -/

namespace Sys2Proof.Machine

/-! ### Fixed point with 256 fractional bits -/

/-- A dyadic number as a fixed-point one, rounded down. -/
def fxOf (a : Dy) : Int :=
  if 0 ≤ a.e + 256 then a.m * 2 ^ (a.e + 256).toNat else a.m / 2 ^ (-(a.e + 256)).toNat

/-- A fixed-point number as a dyadic one. -/
def dyFx (x : Int) : Dy := { m := x, e := -256 }

/-- ln 2. -/
def ln2Fx : Int := 0xb17217f7d1cf79abc9e3b39803f2f6af40f343267298b62d8a0d175b8baafa2c

/-- pi. -/
def piFx : Int := 0x3243f6a8885a308d313198a2e03707344a4093822299f31d0082efa98ec4e6c89

/-- The square root of 2 / pi. -/
def rootTwoOverPiFx : Int := 0xcc42299ea1b284687e59e2805d5c717fa7053e60a24e0db1808e369004c73a5d

/-- exp of a fixed-point number. -/
def expReal (x : Int) : Dy :=
  let n := x / ln2Fx
  let r := x - n * ln2Fx
  { m := (List.range 70).foldl (fun a i => 2 ^ 256 + r * a / (2 ^ 256 * (70 - i))) (2 ^ 256), e := n - 256 }

/-- A quotient of dyadic numbers to 256 bits, for a divisor above 0. -/
def dyDiv (a b : Dy) : Dy :=
  let k := 257 + Nat.log2 b.m.natAbs - Nat.log2 a.m.natAbs
  { m := a.m * 2 ^ k / b.m, e := a.e - b.e - k }

/-- The integer square root of a number below 2^(2 n). -/
def isqrt : Nat → Nat → Nat
  | 0, _ => 0
  | n + 1, x => let r := 2 * isqrt n (x / 4); if (r + 1) * (r + 1) ≤ x then r + 1 else r

/-- The square root of a dyadic number of at least 0, to 256 bits. -/
def dySqrt (a : Dy) : Dy :=
  let k := 512 - Nat.log2 a.m.natAbs
  let k := if (a.e - k) % 2 = 0 then k else k + 1
  { m := isqrt (258 + Nat.log2 a.m.natAbs) (a.m.natAbs * 2 ^ k), e := (a.e - k) / 2 }

/-- 1 / (1 + exp(-t)); beyond 400 in magnitude the value at 400 stands, which no FP32 result tells apart. -/
def sigmoid (t : Dy) : Dy :=
  dyDiv (dyInt 1) (dyAdd (dyInt 1) (expReal (clampI (-(fxOf t)) (-400 * 2 ^ 256) (400 * 2 ^ 256))))

/-- erf(x / sqrt 2) for a magnitude of at most 16, by the series x sqrt(2/pi) exp(-x^2/2) (1 + x^2/3 + x^4/15 + ...). Its factors keep
their own exponents, so that 1 + erf stays good to 2^-50 of itself where it is as small as 2^-189. -/
def erfRoot (x : Int) : Dy :=
  let q := x * x / 2 ^ 256
  let s := (List.range 700).foldl (fun (a : Int × Int) n => (a.1 + a.2, a.2 * q / (2 ^ 256 * (2 * n + 3)))) (0, 2 ^ 256)
  dyMul (dyMul (dyFx x) (dyFx rootTwoOverPiFx)) (dyMul (expReal (-(q / 2))) (dyFx s.1))

/-- The cosine and the sine of a fixed-point number, by their series. -/
def cosSin (t : Int) : Int × Int :=
  let q := t * t / 2 ^ 256
  let go (odd : Nat) : Int := (List.range 60).foldl (fun a i =>
    let k := 2 * (60 - i) + odd
    2 ^ 256 - q * a / (2 ^ 256 * (k * (k - 1)))) (2 ^ 256)
  (go 0, t * go 1 / 2 ^ 256)

/-! ### The formulas of Table 3.1 -/

/-- SiLU. -/
def siluReal (x : Dy) : Dy := dyMul x (sigmoid x)

/-- GELU, erf form; below -16 it is nearer 0 than any FP32 value, and above 16 it is x. -/
def geluReal (x : Dy) : Dy :=
  if dyLt (dyInt 16) x then x
  else if dyLt x (dyInt (-16)) then { m := -1, e := -400 }
  else dyMul (dyMul x { m := 1, e := -1 }) (dyAdd (dyInt 1) (erfRoot (fxOf x)))

/-- GELU, tanh form: 0.5 (1 + tanh w) is 1 / (1 + exp(-2 w)). -/
def geluTanhReal (x : Dy) : Dy :=
  let cube := dyDiv (dyMul (dyInt 44715) (dyMul x (dyMul x x))) (dyInt 1000000)
  dyMul x (sigmoid (dyDiv (dyMul (dyInt 15957691216) (dyAdd x cube)) (dyInt 10000000000)))

/-- (v + eps)^(-1/2) as a factor, for v + eps above 0. -/
def rsqrtReal (v : Dy) : Dy := dyDiv (dyInt 1) (dySqrt v)

/-- The cosine and sine of an angle in turns of 2^-32 (R102). -/
def turnReal (a : Nat) : Dy × Dy :=
  let r := cosSin (2 * piFx * (a % 2 ^ 32) / 2 ^ 32)
  (dyFx r.1, dyFx r.2)

/-! ### Results within a bound -/

/-- An FP32 unit in the last place of a number. -/
def ulpOf (d : Dy) : Dy :=
  { m := 1, e := if d.m = 0 then -149 else max (Nat.log2 d.m.natAbs + d.e - 23) (-149) }

/-- A result for the exact value `d`: the free value where it is finite and within `u` ulp, else the exact value rounded. One whose
exact value exceeds the range under R16 is the largest finite value of its sign, and clamped (R103). -/
def within (u : Nat) (d : Dy) (free : W32) : W32 × Bool :=
  let r := roundDy f32 false d
  if r.2 then (BitVec.ofNat 32 r.1, true)
  else if fin32 free && dyLe (dyAbs (dyAdd (fv free) (dyNeg d))) (dyMul (dyInt u) (ulpOf d)) then (free, false)
  else (BitVec.ofNat 32 r.1, false)

/-- exp of R249: 1.0 at zero, +0.0 below -104.0, within 2 ulp of the exact value between and above (log entry 13). -/
def fexp (x : W32) : W32 :=
  if zeroF f32 x.toNat then 0x3F800000
  else if !fin32 x then Config.nonFinite 12 x 0
  else if dyLt (fv x) (dyInt (-104)) then 0
  else
    let r := (within 2 (expReal (fxOf (fv x))) (Config.expValue x)).1
    if negOf f32 r.toNat then 0 else r

end Sys2Proof.Machine
end

