-- ==== Sys2Proof/Machine/Sparse.lean ====
section
/-! DEFINITION. Sparse maps from numbers to plain data, in one canonical form: keys strictly rising, and no entry equal
to what an unlisted key reads as. Device memory and every large array of the part is held in this form. -/

namespace Sys2Proof.Machine

/-- A sparse map: (key, value) pairs. -/
abbrev SMap (α : Type) := List (Nat × α)

/-- The value at key `k`; an unlisted key reads as `d k`. -/
def look {α : Type} (d : Nat → α) : SMap α → Nat → α
  | [], k => d k
  | p :: t, k => if p.1 = k then p.2 else look d t k

/-- The map without key `k`. -/
def dropKey {α : Type} (k : Nat) : SMap α → SMap α
  | [] => []
  | p :: t => if p.1 = k then dropKey k t else p :: dropKey k t

/-- The map with the pair (k, v) placed before the first larger key. -/
def insKey {α : Type} (k : Nat) (v : α) : SMap α → SMap α
  | [] => [(k, v)]
  | p :: t => if k < p.1 then (k, v) :: p :: t else p :: insKey k v t

/-- The map with value `v` at key `k`, kept canonical: writing the unlisted value removes the entry. -/
def put {α : Type} [DecidableEq α] (d : Nat → α) (m : SMap α) (k : Nat) (v : α) : SMap α :=
  if v = d k then dropKey k m else insKey k v (dropKey k m)

/-- The values `vs` written from key `k` upward. -/
def putAll {α : Type} [DecidableEq α] (d : Nat → α) (m : SMap α) (k : Nat) : List α → SMap α
  | [] => m
  | v :: t => putAll d (put d m k v) (k + 1) t

/-- The `n` values from key `k` upward. -/
def lookAll {α : Type} (d : Nat → α) (m : SMap α) (k : Nat) : Nat → List α
  | 0 => []
  | n + 1 => look d m k :: lookAll d m (k + 1) n

/-- Every key of the map is above `b`, and keys rise strictly. -/
def rising {α : Type} : Option Nat → SMap α → Bool
  | _, [] => true
  | b, p :: t => (match b with | none => true | some x => decide (x < p.1)) && rising (some p.1) t

/-- The canonical form: keys strictly rising and no value equal to the unlisted one. -/
def SMapWf {α : Type} [DecidableEq α] (d : Nat → α) (m : SMap α) : Bool :=
  rising none m && m.all fun p => decide (p.2 ≠ d p.1)

/-- The lowest key at or above `k` that a map with rising keys does not list. -/
def gapFrom {α : Type} (k : Nat) : SMap α → Nat
  | [] => k
  | p :: t => if p.1 < k then gapFrom k t else if p.1 = k then gapFrom (k + 1) t else k

end Sys2Proof.Machine
end

