-- ==== Sys2Proof/Machine/State.lean ====
section
/-! DEFINITION. The state of the part as plain data: one structure per block of the spec, every field at its reset value
by default, and the state right after reset. -/

namespace Sys2Proof.Machine

/-- The ordering variant (R2, Table 0.1). -/
inductive Variant where
  | h
  | c
  deriving DecidableEq, Repr

/-- Identity and global status fields (Table 19.3) that are not views of other state, and the word latches of R21. -/
structure Ident where
  variant        : Variant := .h
  serial         : W64 := 0
  fwVersion      : W32 := 0
  clustersFailed : BitVec 7 := 0
  coresFailed    : BitVec 11 := 0
  scratch        : W32 := 0
  i3cAddr        : BitVec 7 := 0
  addrValid      : Bool := false
  mctpMessages   : W32 := 0
  debug          : Bool := false
  aliasReady     : Bool := false
  /-- High words latched by low-word reads, by register offset (R21). -/
  highLatch      : SMap (Option W32) := []
  /-- Low-word latches loaded by low-word writes; none: the register's present low word (R21). -/
  lowLatch       : SMap (Option W32) := []
  deriving DecidableEq, Repr

/-- A mailbox (Table 13.2), its acknowledgement timer and its receiver's interrupt. -/
structure Mailbox where
  data       : SMap W32 := []
  full       : Bool := false
  collision  : Bool := false
  ack        : Bool := false
  unacked    : Bool := false
  seq        : Byte := 0
  ackTime    : BitVec 24 := 10000
  sent       : W32 := 0
  collisions : W32 := 0
  stale      : W32 := 0
  timer      : Bool := false
  irq        : Bool := false
  /-- A message has been sent since reset (R411). -/
  gone       : Bool := false
  deriving DecidableEq, Repr

/-- A lock register (Table 13.7). -/
structure Lock where
  held  : Bool := false
  taker : Byte := 0xFE
  deriving DecidableEq, Repr

/-- Mailboxes, host mailbox control (Table 13.4), locks, and firmware's messages waiting to be sent (R411). -/
structure Mail where
  boxes    : SMap Mailbox := []
  irqEn    : BitVec 3 := 7
  irqCause : BitVec 3 := 0
  lead     : BitVec 7 := 0x7F
  outQ     : List (List W32) := []
  /-- Host messages that firmware has copied and released and not yet handled, with their SEQ, oldest first (R410). -/
  inQ      : List (Byte × List W32) := []
  locks    : SMap Lock := []
  deriving DecidableEq, Repr

/-- An error record (Table 17.1). -/
structure ErrRec where
  typ         : W16
  severity    : BitVec 2
  mgmtOnly    : Bool
  coalesced   : Bool
  phase       : Bool
  loss        : Bool
  cper        : Bool
  seq         : W32
  beat        : W64
  time        : W64
  pos         : BitVec 9
  cluster     : BitVec 7
  core        : BitVec 5
  engine      : BitVec 5
  plane       : BitVec 7
  cls         : BitVec 7
  inst        : Byte
  tenant      : BitVec 12
  layer       : W16
  step        : W32
  record      : BitVec 14
  wide        : Bool
  recordValid : Bool
  temp        : BitVec 12
  volt        : W16
  count       : W16
  context     : W32
  d0          : W32
  d1          : W32
  d2          : W32
  deriving DecidableEq, Repr

/-- A record in the management queue, and whether GET_RECORDS has returned it (R498). -/
structure MgmtRec where
  er       : ErrRec
  returned : Bool
  deriving DecidableEq, Repr

/-- A failure signature as a slot keeps it (R502): the record's severity word, its time and the 256-byte vendor section. -/
structure Cper where
  fatal   : Bool
  time    : W64
  section_ : List Byte
  deriving DecidableEq, Repr

/-- Error reporting (Table 17.3), the two queues (R498) and the frames of R487. -/
structure ErrState where
  hostQ          : List ErrRec := []
  mgmtQ          : List MgmtRec := []
  hostLoss       : Bool := false
  mgmtLoss       : Bool := false
  nextSeq        : W32 := 0
  erBase         : BitVec 52 := 0
  erEnable       : Bool := false
  erLog2         : BitVec 5 := 6
  erHead         : W16 := 0
  erTail         : W16 := 0
  erPhase        : Bool := true
  coCount        : Byte := 1
  coTime         : W16 := 0
  unsignalled    : Nat := 0
  raised         : W32 := 0
  hostDropped    : W32 := 0
  mgmtDropped    : W32 := 0
  merged         : W32 := 0
  memCorrected   : W32 := 0
  memUncorrected : W32 := 0
  framesRetired  : BitVec 24 := 0
  cperCount      : W32 := 0
  lastSeq        : W32 := 0
  slots          : SMap (Option Cper) := []
  /-- Uncorrectable reads per frame since start (R487). -/
  badReads       : SMap Nat := []
  /-- Frames retired for this start (R487). -/
  retired        : List Nat := []
  deriving DecidableEq, Repr

/-- An open SPDM session (R436). -/
structure Session where
  port     : SpdmPort
  id       : W16
  finished : Bool
  deriving DecidableEq, Repr

/-- The protocol chosen at discovery (R417). -/
inductive FlashMode where
  | octal
  | serial
  deriving DecidableEq, Repr

/-- The digests of the running image that R437 reports: the image, its control and management firmware, and its settings and operating
tables. -/
structure Measured where
  image    : BitVec 512
  control  : BitVec 512
  mgmt     : BitVec 512
  settings : BitVec 512
  deriving DecidableEq, Repr

/-- What the alias key of a start is derived from beside the identity key (R435), and the start that it was made at. -/
structure AliasKey where
  digest  : BitVec 512
  version : W32
  debug   : Bool
  start   : Nat
  deriving DecidableEq, Repr

/-- Start-up, enable and check (Table 14.9), the settings of the running image (Table 14.5) and the SPDM responder. -/
structure StartUp where
  phase        : BitVec 4 := 0
  enableBit    : Bool := false
  enabled      : Bool := false
  checkBusy    : Bool := false
  auto         : Bool := false
  slotB        : Bool := false
  reason       : Byte := 0
  restartCause : BitVec 3 := 0
  detail       : W32 := 0
  checks       : W32 := 0
  refused      : W32 := 0
  secVersion   : W32 := 0
  floor        : W32 := 0
  buildId      : W64 := 0
  startupUs    : W32 := 0
  /-- Microseconds counted since the start of phase 0 or 1. -/
  elapsed      : Nat := 0
  /-- Phase 0 has ended, and start-up holds for FLASH_OWN# (R540). -/
  phase0Done   : Bool := false
  /-- Failures recorded for the enable check, by item (R427). -/
  failures     : SMap (Option W32) := []
  outlierGib   : Byte := 4
  i3cStatic    : BitVec 7 := 0
  /-- The version floor as it stood at this start (measurement 6, R437). -/
  floorAtStart : W32 := 0
  /-- PERST# is deasserted, and the width and speed code the link then trains to (R429). -/
  perst        : Bool := false
  trainWidth   : BitVec 5 := 0
  trainSpeed   : BitVec 4 := 0
  monitors     : List W32 := []
  sessions     : List Session := []
  negotiated   : List SpdmPort := []
  flash        : Option FlashMode := none
  measured     : Option Measured := none
  aliasKey     : Option AliasKey := none
  deriving DecidableEq, Repr

/-- The larder's counter record (Table 18.3). -/
structure CounterRec where
  version  : W32 := 0
  powerOn  : W64 := 0
  calendar : W64 := 0
  boots    : W32 := 0
  floor    : W32 := 1
  trips    : W16 := 0
  fwShut   : W16 := 0
  replans  : W32 := 0
  folds    : W32 := 0
  histo    : SMap W64 := []
  deriving DecidableEq, Repr

/-- A journal entry (Table 18.2). -/
structure JEntry where
  plane   : BitVec 22
  kind    : Byte
  value   : W16
  payload : W64
  deriving DecidableEq, Repr

/-- A plane word and its detail (R508). -/
structure PlaneRec where
  count    : W16 := 0
  resident : Bool := false
  slot     : BitVec 12 := 0
  crc      : W32 := 0
  block    : BitVec 21 := 0
  deriving DecidableEq, Repr

/-- An event log entry (R517). -/
structure EventEntry where
  er    : ErrRec
  boots : W32
  deriving DecidableEq, Repr

/-- An ageing history entry (R518). -/
structure AgeEntry where
  cluster  : BitVec 7
  cause    : Byte
  vDelta   : Byte
  valid    : Byte
  maxStart : BitVec 4
  raised   : BitVec 9
  calendar : W64
  powerOn  : W64
  boots    : W32
  deriving DecidableEq, Repr

/-- The repair maps (R35): what is retired, unusable, failed or disabled, and the selections of R454. -/
structure Repair where
  clRetired : SMap Bool := []
  coreBad   : SMap Bool := []
  engBad    : SMap Bool := []
  rowsOff   : SMap (List Nat) := []
  colsOff   : SMap (List Nat) := []
  stage     : SMap Bool := []
  refCells  : SMap (List Nat) := []
  /-- Engine substitutions by core (R85): the failed physical engine and its spare. -/
  subst     : SMap (Option (Nat × Nat)) := []
  deriving DecidableEq, Repr

/-- What one flash page write carries (R519). -/
inductive FlashJob where
  | journal (e : JEntry)
  | counters (r : CounterRec)
  | repair (r : Repair)
  | event (e : EventEntry)
  | ageing (e : AgeEntry)
  | foldTable
  | foldMarker
  deriving DecidableEq, Repr

/-- A queued page write: its priority in R519's order, its copy and its job. -/
structure FlashWrite where
  prio  : Nat
  copyB : Bool
  job   : FlashJob
  deriving DecidableEq, Repr

/-- The larder view registers (Table 18.5). -/
structure LarderView where
  powerOn    : W64 := 0
  calendar   : W64 := 0
  calRest    : Bool := false
  copyB      : Bool := false
  boots      : W32 := 0
  folds      : W32 := 0
  maxErases  : W32 := 0
  torn       : W32 := 0
  suppressed : W32 := 0
  waiting    : W16 := 0
  histo      : SMap W64 := []
  events     : List EventEntry := []
  ages       : List AgeEntry := []
  deriving DecidableEq, Repr

/-- The larder (R507 to R521): what stands in flash, the working counters, the calendar and the write queue. -/
structure Larder where
  /-- The counter record as flash holds it. -/
  flash      : CounterRec := {}
  /-- The working counters since the last write. -/
  live       : CounterRec := {}
  /-- The plane table in flash with every standing journal entry applied. -/
  planes     : SMap PlaneRec := []
  /-- Tenant slots in flash: TENANT_ID and PLAN_ID (R508). -/
  slots      : SMap (W64 × W64) := []
  /-- Firmware's working plane table and tenant slots, with the entries still waiting to be written. -/
  planesNow  : SMap PlaneRec := []
  slotsNow   : SMap (W64 × W64) := []
  /-- The active table copy: planes and slots as the last fold left them (R511). -/
  foldPlanes : SMap PlaneRec := []
  foldSlots  : SMap (W64 × W64) := []
  /-- Standing journal entries since the fold point, oldest first. -/
  journal    : List JEntry := []
  /-- Entries appended since the last fold began. -/
  appended   : Nat := 0
  /-- Entries that a fold in progress covers, or none. -/
  folding    : Option Nat := none
  /-- The repair maps as firmware works with them, and as flash holds them. -/
  repair     : Repair := {}
  repairFlash : Repair := {}
  events     : List EventEntry := []
  ages       : List AgeEntry := []
  tokens     : Nat := 64
  queue      : List FlashWrite := []
  calendar   : W64 := 0
  calRest    : Bool := false
  calSets    : List W64 := []
  copyB      : Bool := false
  torn       : W32 := 0
  suppressed : W32 := 0
  /-- Erase counts by larder sector, 0 to 1,023 (R507). -/
  erases     : SMap Nat := []
  /-- Entries ever appended to the journal, and its position at the last fold marker (R511). -/
  jpos       : Nat := 0
  foldPos    : Nat := 0
  /-- Entries ever appended to the event log and to the ageing history (R517, R518). -/
  evPos      : Nat := 0
  agePos     : Nat := 0
  view       : LarderView := {}
  deriving DecidableEq, Repr

/-- A command waiting for its final completion: ring, TAG, and the completion entries still reserved for it (R389). -/
structure CmdRef where
  ring : Nat
  tag  : W32
  deriving DecidableEq, Repr

/-- A completion entry (Table 12.8), before PHASE and SQ_HEAD are set. -/
structure Compl where
  tag     : W32
  status  : Byte
  kind    : BitVec 2
  reason  : Byte
  detail  : W32
  record  : W32
  count   : W32
  length  : W32
  binding : BitVec 12
  deriving DecidableEq, Repr

/-- A packet in a ring's internal queue (R377): the command, its ring indices, and its entry reservation. -/
structure Packet where
  opcode : Byte
  cmd    : Cmd
  first  : W16
  past   : W16
  resv   : Nat
  /-- Its place in the order of acceptance over all rings (R384). -/
  no     : Nat := 0
  /-- The queue sequence number that its slot carries (R377). -/
  seq    : W16 := 0
  deriving DecidableEq, Repr

/-- Ring registers (Table 12.3), the internal queue, and the ring's bookkeeping (R379, R389, R392). -/
structure Ring where
  sqBase      : BitVec 52 := 0
  sqEnable    : Bool := false
  flush       : Bool := false
  priv        : Bool := false
  sqLog2      : BitVec 5 := 6
  sqTail      : W16 := 0
  cqBase      : BitVec 52 := 0
  cqEnable    : Bool := false
  cqLog2      : BitVec 5 := 6
  vector      : BitVec 9 := 4
  cqHead      : W16 := 0
  sqHead      : W16 := 0
  outstanding : Nat := 0
  cqTail      : W16 := 0
  phase       : Bool := true
  tailInvalid : Bool := false
  badPacket   : Bool := false
  fetchFault  : Bool := false
  queueReset  : Bool := false
  cqDropped   : Bool := false
  coCount     : Byte := 1
  coTime      : W16 := 0
  accepted    : W32 := 0
  notices     : W32 := 0
  finals      : W32 := 0
  queue       : List Packet := []
  reserved    : Nat := 0
  /-- Entries of a packet discarded by a flush still to be discarded as they are submitted. -/
  discard     : Nat := 0
  /-- The packet that was being read when FLUSH was written is taken before the flush takes effect (R379). -/
  readFirst   : Bool := false
  /-- Entries from SQ_HEAD up to the flush tail of a flush that has taken effect (R379). -/
  flushLeft   : Nat := 0
  /-- The packet being read when SQ_ENABLE was cleared or QUIESCE was written, the last one taken (Tables 12.3, 12.12). -/
  last        : Bool := false
  /-- Entries from SQ_HEAD on that the ladle has read (R370). -/
  buf         : List (BitVec 512) := []
  /-- FLUSH commands whose discard waits for this ring's next packet boundary, with their place of acceptance (R384). -/
  pendFlush   : List (Cmd × Nat) := []
  /-- The internal queue's pointers, each held true and inverted (R378). -/
  qHead       : W16 := 0
  qHeadInv    : W16 := 0xFFFF
  qTail       : W16 := 0
  qTailInv    : W16 := 0xFFFF
  unsignalled : Nat := 0
  deriving DecidableEq, Repr

/-- An MSI-X table entry (R391). -/
structure MsixEntry where
  addrLo : W32 := 0
  addrHi : W32 := 0
  data   : W32 := 0
  ctl    : W32 := 1
  deriving DecidableEq, Repr

/-- What an outstanding ladle read is for (R394). -/
inductive ReadFor where
  | entries (ring : Nat)
  | tokens (rec : Nat)
  | load (binding : Nat)
  deriving DecidableEq, Repr

/-- An outstanding ladle read: beats left on its timer, whether it was reissued (R393, R394), its ladle by cluster, and its 64-byte
lines (R364). -/
structure HostRead where
  id       : Nat
  what     : ReadFor
  left     : Nat
  reissued : Bool
  ladle    : Nat := 0
  lines    : Nat := 1
  deriving DecidableEq, Repr

/-- A write to host memory that waits for the IDE stream to be re-keyed (R367): data, or a completion entry with the reserved entries
and the packets it releases (R389). -/
inductive HeldOut where
  | data (addr : W64) (bytes : List Byte)
  | entry (ring resv done : Nat) (c : Compl)
  deriving DecidableEq, Repr

/-- The command a context record's work belongs to (R382, R387, R388). -/
structure Work where
  cmd      : CmdRef
  outAddr  : W64
  outCap   : W32
  count    : Nat
  progress : Bool
  tokensAddr : W64
  /-- The command opened its record (R382). -/
  opening  : Bool := false
  deriving DecidableEq, Repr

/-- The host interface (Tables 12.3, 12.14), rings, MSI-X, ladle reads and commands in flight. -/
structure HostIf where
  rings      : SMap Ring := []
  msix       : SMap MsixEntry := []
  pba        : SMap Bool := []
  quiesce    : Bool := false
  quiesced   : Bool := false
  degraded   : Bool := false
  ideActive  : Bool := false
  width      : BitVec 5 := 0
  speed      : BitVec 4 := 0
  ht         : W16 := 64
  hext       : W16 := 16
  timeouts   : W32 := 0
  replays    : W32 := 0
  recoveries : W32 := 0
  resets     : W32 := 0
  ideFails   : W32 := 0
  recovery   : Bool := false
  ideHold    : Bool := false
  /-- Writes held until the IDE stream is re-keyed, in order (R367). -/
  held       : List HeldOut := []
  reads      : List HostRead := []
  /-- Reads that wait for their ladle, oldest first (R364). -/
  readQ      : List ReadFor := []
  nextRead   : Nat := 0
  /-- Packets accepted on all rings, in order (R384). -/
  packetNo   : Nat := 0
  /-- The command whose work each context record carries. -/
  work       : SMap (Option Work) := []
  deriving DecidableEq, Repr

/-- A granted stretch [x0, e0) (R318). -/
structure Stretch where
  x0 : W64
  e0 : W64
  deriving DecidableEq, Repr

/-- A stretch request a core of this part has outstanding (R321). -/
structure OwnReq where
  core : Nat
  beat : W64
  len  : W16
  deriving DecidableEq, Repr

/-- A Miotor port (Table 10.11) and its retry episode (R324). -/
structure Port where
  st          : BitVec 2 := 0
  rawLat      : Byte := 0
  flits       : W64 := 0
  episodes    : W32 := 0
  retransmits : W32 := 0
  exhausted   : W32 := 0
  /-- SEQ of the next flit to send (Table 10.1). -/
  seq         : W32 := 0
  /-- Retransmissions asked for in the episode, and SEQ of the last flit sent up to its first request (R324). -/
  used        : Nat := 0
  upTo        : W32 := 0
  /-- The same of the sending direction: retransmissions sent in the episode (R324, R325). -/
  sentAgain   : Nat := 0
  sentUpTo    : W32 := 0
  deriving DecidableEq, Repr

/-- A Miotor flit (Table 10.1): TYPE, SRC, DST, TXN, SEQ, LEN and the payload bytes used. -/
structure Flit where
  kind : Byte
  src  : BitVec 9
  dst  : BitVec 9
  txn  : BitVec 24
  seq  : W32
  len  : W32
  data : List Byte
  deriving DecidableEq, Repr

/-- An outstanding Miotor transaction of this part (R323, R326). -/
structure Txn where
  tag    : BitVec 24
  dst    : BitVec 9
  down   : Bool
  expiry : W64
  ext    : W16
  resent : Bool
  /-- Its payload, which a re-send sends whole (R325). -/
  data   : List Byte := []
  deriving DecidableEq, Repr

/-- A multi-part operation in hand (R311, R312): what plan part 0 has gathered, and what a member has sent. -/
structure MultiOp where
  planId  : W64
  parts   : Nat
  lead    : Bool
  ready   : List (BitVec 9)
  since   : Option W64
  sent    : Option W64
  epoch   : Option W64
  deriving DecidableEq, Repr

/-- The Miotor fabric (Tables 10.8 to 10.11). -/
structure Fabric where
  st          : BitVec 2 := 0
  cause       : BitVec 4 := 0
  mapRefused  : Bool := false
  joinRefused : Bool := false
  leaveRefused : Bool := false
  locked      : Bool := false
  domainId    : W32 := 0
  ringSize    : BitVec 10 := 1
  myPos       : BitVec 9 := 0
  mySeat      : BitVec 10 := 0
  seats       : BitVec 10 := 1
  seatTab     : SMap W16 := []
  join        : Bool := false
  lead        : BitVec 9 := 2
  digest      : W32 := 0
  beat        : W64 := 0
  sched       : W64 := 0
  tt          : W16 := 64
  ext         : W16 := 9
  stretches   : W32 := 0
  inserted    : W64 := 0
  requests    : W32 := 0
  badRequests : W32 := 0
  timeouts    : W32 := 0
  errCompl    : W32 := 0
  grant       : Option Stretch := none
  /-- Stretches granted behind the present one (R318). -/
  later       : List Stretch := []
  /-- Requests at the master, waiting to be resolved. -/
  waiting     : List StretchReq := []
  own         : List OwnReq := []
  misses      : Nat := 0
  raised      : Bool := false
  /-- The faults this part has raised since JOIN, by the cause and position of their notice (R307). -/
  noticed     : List (BitVec 4 × BitVec 9) := []
  /-- The next beat whose word a member awaits (R305). -/
  wordNext    : W64 := 0
  started     : Bool := false
  ports       : SMap Port := []
  txns        : List Txn := []
  nextTag     : BitVec 24 := 0
  ops         : List MultiOp := []
  deriving DecidableEq, Repr

/-- One accumulator bank of a monitor entry (R444). -/
structure Bank where
  acc   : W64 := 0
  count : W32 := 0
  mn    : W16 := 0
  mx    : W16 := 0
  clips : W32 := 0
  deriving DecidableEq, Repr

/-- A monitor converter (Table 15.3): state, factors, entries and the three banks per entry. -/
structure Conv where
  st      : BitVec 2 := 0
  entries : BitVec 5 := 0
  cycle   : BitVec 24 := 0
  off     : SMap W16 := []
  gf      : SMap W16 := []
  cfg     : SMap W32 := []
  fw      : SMap Bank := []
  host    : SMap Bank := []
  snap    : SMap Bank := []
  /-- The entry converted last (R443). -/
  pos     : Option Nat := none
  deriving DecidableEq, Repr

/-- Monitor converters and their global registers (Table 15.3, Table 15.4's CAL_DELTA). -/
structure Monitor where
  conv       : SMap Conv := []
  snapSeq    : W32 := 0
  snapBeat   : W64 := 0
  selfFailed : BitVec 14 := 0
  calDelta   : BitVec 5 := 4
  deriving DecidableEq, Repr

/-- A trivet trip record (R475): diode (0x7F for a request), beat count and tick count; and where this trip latched the die rails off
(R474), the tick of the first of its four trips. -/
structure TripRec where
  diode : BitVec 7
  beat  : W64
  tick  : Nat
  latch : Option Nat := none
  deriving DecidableEq, Repr

/-- Thermal and power (Table 16.4), rails, trivet and pins. -/
structure Power where
  limitSet   : BitVec 10 := 850
  limitForce : BitVec 10 := 850
  step       : BitVec 5 := 0
  hot        : Bool := false
  hotCluster : BitVec 7 := 0x7F
  avg        : W16 := 0
  peak       : W16 := 0
  tMax       : BitVec 12 := 0
  inputV     : W16 := 0
  stepUps    : W32 := 0
  stepDowns  : W32 := 0
  trips      : W16 := 0
  fwShut     : W16 := 0
  lastReplan : W64 := 0
  replans    : W32 := 0
  pBase      : BitVec 10 := 170
  /-- A limit set accepted and not yet in effect, with its source (R467). -/
  nextLimit  : Option (BitVec 10 × Source) := none
  /-- Last window's rail readings in mV, by monitor input code. -/
  rails      : SMap W16 := []
  railsUp    : Bool := true
  inputGood  : Bool := true
  /-- The rails are off after a trip (R473). -/
  tripped    : Bool := false
  latched    : Bool := false
  tripTick   : Nat := 0
  tripTimes  : List Nat := []
  tripRecs   : List TripRec := []
  ticks      : Nat := 0
  /-- MOD_RESET# is low. -/
  modReset   : Bool := false
  /-- FLASH_OWN# is low. -/
  flashOwn   : Bool := false
  /-- The larder interface has released the flash bus (R418). -/
  flashFree  : Bool := false
  pwrSense   : Bool := true
  deriving DecidableEq, Repr

/-- A cluster's power registers (Table 16.5) and gating (R466). -/
structure ClPow where
  point     : BitVec 3 := 0
  valid     : Byte := 0xFF
  volt      : W16 := 0
  share     : W16 := 0
  power     : W16 := 0
  current   : W16 := 0
  minSlack  : Byte := 0
  vDelta    : Byte := 0
  /-- The raises of R479 at each point, in 5 mV, since the last re-plan. -/
  raises    : SMap Nat := []
  tP        : BitVec 12 := 0
  drops     : W32 := 0
  below     : W64 := 0
  emergency : W32 := 0
  maxStart  : BitVec 4 := 0
  raised    : BitVec 9 := 0
  /-- The cluster's clock domain is gated: that of a cluster that is not enabled always (R49), else with its power (R466). -/
  clkGated  : Bool := true
  gated     : Bool := false
  idle      : Nat := 0
  settle    : Option W64 := none
  /-- The beat edge of the last move down (R470). -/
  dropAt    : Option W64 := none
  /-- A re-plan that has completed and takes effect at the end of a window of this core (R480). -/
  replan    : Option (Nat × ReplanData) := none
  /-- A move event was recorded in this window (Table 16.3). -/
  moved     : Bool := false
  due       : Bool := false
  deriving DecidableEq, Repr

/-- A cluster's calibration status (Table 15.4). -/
structure ClCal where
  runs     : W32 := 0
  fails    : W32 := 0
  lastTime : W64 := 0
  lastBeat : W64 := 0
  tLast    : BitVec 12 := 0
  due      : Bool := false
  running  : Bool := false
  left     : BitVec 9 := 0
  refs     : W16 := 0
  stages   : W16 := 0
  /-- Engines whose calibration in the run in progress has been accepted or rejected (R456). -/
  done     : List Nat := []
  deriving DecidableEq, Repr

/-- A physical cluster (Table 1.7): its state, its per-cluster window words by offset (Table 19.6) and its power and
calibration registers. -/
structure Cluster where
  st     : BitVec 2 := 1
  logical : BitVec 7 := 0x7F
  usable : BitVec 5 := 0
  win    : SMap W64 := []
  pow    : ClPow := {}
  cal    : ClCal := {}
  deriving DecidableEq, Repr

/-- A binding entry (Table 11.1). -/
structure BEntry where
  st       : BitVec 3 := 0
  reserved : Bool := false
  peer     : BitVec 12 := 0
  tenant   : W64 := 0
  planId   : W64 := 0
  planFrame : BitVec 24 := 0
  planLen  : W32 := 0
  mapFrame : BitVec 24 := 0
  planPart : BitVec 9 := 0
  baseSeat : BitVec 10 := 0
  pageQuota : BitVec 24 := 0
  pageUsed : BitVec 24 := 0
  ctxQuota : BitVec 18 := 0
  ctxUsed  : BitVec 18 := 0
  ovfFrames : BitVec 24 := 0
  prefixFrames : BitVec 24 := 0
  actFrames : BitVec 24 := 0
  embFrames : BitVec 24 := 0
  tsOvf    : BitVec 11 := 0
  ring     : Byte := 0
  cores    : BitVec 11 := 0
  epoch    : W32 := 0
  steps    : W32 := 0
  keyGen   : W32 := 0
  lastReason : Byte := 0
  lastDetail : W32 := 0
  mapCrc   : W32 := 0
  deriving DecidableEq, Repr

/-- A prefix-tree node (Table 9.6) with its tokens and its streams' frames (R275). -/
structure Node where
  parent   : Nat
  count    : Nat
  pins     : Nat
  inTree   : Bool
  lastUsed : W32
  setFrame : Nat
  tokens   : List W32
  hash     : W32
  /-- Stream number and frame, for every stream of the page. -/
  frames   : List (Nat × Nat)
  deriving DecidableEq, Repr

/-- A CANCEL or FLUSH waiting for stage 2 of the next boundary (R383, R384). -/
structure StageReq where
  cmd    : CmdRef
  isFlush : Bool
  target : Option Nat
  deriving DecidableEq, Repr

/-- One cell map entry (Table 7.6). -/
structure CellEntry where
  plane    : Nat
  layer    : W16
  intended : Byte
  realised : Byte
  channel  : W32
  output   : W32
  cause    : Byte
  deriving DecidableEq, Repr

/-- A plane of a binding (R203, R204): plan core, logical engine and tenant plane number, the block, its physical plane,
and whether it is a shadow. -/
structure PlaneUse where
  pcore  : Nat
  engine : Nat
  tplane : Nat
  block  : Nat
  plane  : Nat
  shadow : Bool
  deriving DecidableEq, Repr

/-- What firmware keeps with a binding beside its entry: the plan image and core map, the command waiting on it, the
planes it holds, its slots and balancer (R270, R282, R283), its prefix tree (R275) and its pending work. -/
structure BRun where
  plan     : List Byte := []
  coreMap  : List Nat := []
  loadCmd  : Option CmdRef := none
  unbindCmd : Option CmdRef := none
  /-- The state held before a switch named the binding (R312). -/
  prev     : BitVec 3 := 0
  planes   : List PlaneUse := []
  cellMap  : List CellEntry := []
  cellFull : Bool := false
  slots    : List (Option Nat) := [none, none, none, none]
  nd       : Nat := 2
  dc       : Nat := 0
  pc       : Nat := 0
  roleEpoch : Nat := 0
  sumEpoch : Nat := 0
  tree     : SMap (Option Node) := []
  stageReqs : List StageReq := []
  /-- Frames returned at the next stage 5 (R267, R281). -/
  returns  : List Nat := []
  /-- Schedule beat of the first beat of its first step. -/
  since    : W64 := 0
  /-- Schedule beat of the step in progress. -/
  stepAt   : W64 := 0
  /-- Faulted by a domain fault (R306). -/
  fabricFault : Bool := false
  /-- Slots whose vectors are removed from the rest of the step (R147). -/
  removed  : BitVec 4 := 0
  /-- Slots implicated in every layer that carried them so far, and slots carried (R150). -/
  allImpl  : BitVec 4 := 0
  carried  : BitVec 4 := 0
  /-- The step in progress has ended without a token (R62, R191): records but LSTEP, STEPEND and MWIN do nothing. -/
  dead     : Bool := false
  /-- Slots implicated in the final run of an abandoned layer step (R147, R150). -/
  finalImpl : BitVec 4 := 0
  /-- First frames of its fixed regions: activations, embedding, overflow, prefix tree. -/
  actBase  : List Nat := []
  embBase  : List Nat := []
  ovfBase  : List Nat := []
  treeBase : List Nat := []
  fixed    : Nat := 0
  /-- The overflow share of the translation store, oldest first (R239): key, frame, shared. -/
  ovfShare : List (Nat × Nat × Nat × Nat × Bool) := []
  /-- Queue order of QUEUED records, earliest first (R285). -/
  queued   : List Nat := []
  deriving DecidableEq, Repr

/-- A switch operation (R338, R339). -/
structure SwitchOp where
  incoming : Option Nat
  outgoing : List Nat
  cmd      : Option CmdRef
  /-- Bindings that become RELEASING at E (R348). -/
  release  : List Nat
  accept   : W64
  epoch    : Option W64
  /-- The switch epoch has begun. -/
  begun    : Bool
  /-- A core that failed its scrub (R344). -/
  failed   : Option Nat
  /-- Cores whose scrub is not yet verified (Table 11.5). -/
  scrubs   : List Nat
  planId   : W64
  /-- The cores of the switch, once it has begun (Table 11.5). -/
  cores    : List Nat := []
  /-- The pair partner that comes in with the incoming binding (R341, log entry 166). -/
  mate     : Option Nat := none
  /-- The maintenance window of its epoch has opened on its cores (Table 11.5). -/
  opened   : Bool := false
  deriving DecidableEq, Repr

/-- Owner of a frame of device memory (R351). -/
inductive FrameOwner where
  | nobody
  | firmware
  | tenant (b : Nat)
  deriving DecidableEq, Repr

/-- Tenancy: the binding table (R330), switches, frame ownership (R351) and the counters of Table 11.9. -/
structure Tenancy where
  entries  : SMap BEntry := []
  runs     : SMap BRun := []
  switches : List SwitchOp := []
  /-- Frame owners; an unlisted frame has none (R351). -/
  owner    : SMap FrameOwner := []
  /-- Frames below this one are firmware's: protected region, frame owner table, queue spill (phase 4 of Table 14.6). -/
  fwEnd    : Nat := 0
  /-- Free frames, less those held back (Table 11.9). -/
  free     : BitVec 24 := 0
  provisioned : Bool := true
  /-- Generation of the last memory key of each binding index (R353). -/
  keys     : SMap W32 := []
  /-- The part key of this start, by the free value that it was made of; none before phase 4 (R353, R426). -/
  partKey  : Option Nat := none
  nSwitch  : W32 := 0
  nPreempt : W32 := 0
  nScrub   : W32 := 0
  nOwner   : W32 := 0
  nRefusal : W32 := 0
  deriving DecidableEq, Repr

/-- A context record (Table 9.1). -/
structure Ctx where
  st       : BitVec 3 := 0
  wide     : Bool := false
  role     : BitVec 2 := 0
  share    : Bool := false
  sampled  : Bool := false
  slot     : BitVec 2 := 0
  inSlot   : Bool := false
  suspended : Bool := false
  keep     : Bool := false
  copying  : Bool := false
  tenant   : BitVec 12 := 0
  length   : BitVec 23 := 0
  keyFloor : BitVec 23 := 0
  root     : BitVec 24 := 0
  qstate   : BitVec 24 := 0
  tokbuf   : BitVec 24 := 0
  topk     : BitVec 4 := 0
  temp     : W16 := 0
  inputEnd : BitVec 23 := 0
  genLeft  : BitVec 24 := 0
  limit    : BitVec 23 := 0
  stop0    : W32 := 0
  stop1    : W32 := 0
  draftLen : BitVec 6 := 0
  rejects  : BitVec 5 := 0
  suspSteps : W16 := 0
  peer     : BitVec 18 := 0
  wideAt   : W32 := 0
  prefNode : W32 := 0
  seed     : W32 := 0
  deriving DecidableEq, Repr

/-- One draft proposal with the draft's normalised weights over its candidates (R287). -/
structure Draft where
  token   : W32
  weights : List (W32 × W32)
  deriving DecidableEq, Repr

/-- An extending command accepted for a record and waiting for stage 6 (R382); `behind` is how many of the binding's waiting CANCELs
and FLUSHes were dispatched before it (R375). -/
structure Extension where
  tokens : Nat
  gen    : Nat
  keep   : Bool
  floor  : Option Nat
  behind : Nat
  deriving DecidableEq, Repr

/-- What firmware keeps with a context record beside Table 9.1: the prompt's length and match, pins and references held,
the round of drafting, and the end decided within a step. -/
structure CtxRun where
  prompt   : Nat := 0
  matched  : List Nat := []
  copyFrom : Option Nat := none
  refs     : List Nat := []
  walked   : List Nat := []
  inserting : Bool := true
  drafts   : List Draft := []
  yToks    : List (W32 × List (W32 × W32)) := []
  /-- Tokens this record fed in the step in progress. -/
  fed      : Nat := 0
  /-- The status that ends its command at the next boundary (R266, R274). -/
  endWith  : Option Byte := none
  extend   : Option Extension := none
  /-- First position of its newest command's prompt tokens, one past the last, and the next that its ring lacks (R272). -/
  fillFrom : Nat := 0
  fillEnd  : Nat := 0
  filled   : Nat := 0
  /-- Fed prompt tokens that no tree page holds yet, and the position of the first of them (R277). -/
  shareFrom : Nat := 0
  shareToks : List W32 := []
  /-- State frames of the quantisation state block (R134). -/
  qframes  : List Nat := []
  deriving DecidableEq, Repr

/-- Serving: context records, quantisation state (R128, R132, R138) and the prompt tokens waiting on the host. -/
structure Serving where
  ctx      : SMap Ctx := []
  run      : SMap CtxRun := []
  /-- Activation carries by (record, layer, channel); +0.0 when unlisted (R132). -/
  carry    : SMap W16 := []
  /-- Scale states by (record, layer, channel group); none: the start scale (R128). -/
  scale    : SMap (Option W16) := []
  /-- Key-value carries by (record, layer, element) (R138). -/
  kvCarry  : SMap W16 := []
  /-- Carries and scale states of a step, kept for a rollback (R133, R147): by record, kind, vector and key; vector 64 is the
  value at the start of the step, and the inner option a scale state that is none. -/
  hist     : SMap (Option (Option W16)) := []
  deriving DecidableEq, Repr

/-- A page descriptor (Table 8.4). -/
structure PageDesc where
  frame  : Nat
  shared : Bool
  last   : Bool
  first  : Nat
  count  : Nat
  pos    : Nat
  head   : Nat
  heads  : Nat
  slot   : Nat
  tenant : BitVec 12
  /-- A received ring block's page image (R257), in place of device memory. -/
  image  : Option (List Byte)
  /-- Tokens already read as keys, and as values (R246). -/
  kRead  : Nat
  vRead  : Nat
  deriving DecidableEq, Repr

/-- A slot's walk cursor within a layer step (R234). -/
structure WalkCur where
  layer : Nat
  next  : Nat
  dir   : Option (Nat × Nat)
  deriving DecidableEq, Repr

/-- A translation-store entry (R238): context, stream, page; frame, shared, binding. -/
structure TsEntry where
  ctx    : Nat
  stream : Nat
  page   : Nat
  frame  : Nat
  shared : Bool
  tenant : BitVec 12
  deriving DecidableEq, Repr

/-- One contribution to a chain total waiting at an engine's adder (R159, R164): vector, column block, order key of Table 5.2,
compensated, the 256 partials. -/
structure Contrib where
  vec    : Nat
  col    : Nat
  key    : Nat
  comp   : Bool
  vals   : List W32
  deriving DecidableEq, Repr

/-- Running sums on a core: those received for a vector and column block, or those formed (R160, R165). -/
structure RunSum where
  vec   : Nat
  col   : Nat
  comp  : Bool
  s     : List W32
  c     : List W32
  clamp : List Bool
  deriving DecidableEq, Repr

/-- A write held until the layer step commits (R117): the operand it goes to and the byte from there on, TAIL's OPND_B, and its
bytes. -/
structure TailOut where
  dest : W32
  peer : W32
  byte : Nat := 0
  data : List Byte
  deriving DecidableEq, Repr

/-- A low nibble pass's values waiting for its high pass (R81). -/
structure Nibble where
  engine : Nat
  plane  : Nat
  rb     : Nat
  col    : Nat
  vec    : Nat
  vals   : List W32
  deriving DecidableEq, Repr

/-- The layer step in progress on a core (R139 to R147). -/
structure LayerRun where
  opened   : Bool := false
  layer    : Nat := 0
  /-- 0 first run; k replay k; allowance + 1 and + 2 stretched replays. -/
  run      : Nat := 0
  start    : W64 := 0
  /-- Narrow index of its LSTEP, and that record's BEAT (R185). -/
  lstep    : Nat := 0
  beat     : Nat := 0
  /-- The stretch point x of a stretched replay (R146). -/
  point    : W64 := 0
  clamps   : Nat := 0
  sats     : Nat := 0
  misses   : Nat := 0
  impl     : BitVec 4 := 0
  carried  : BitVec 4 := 0
  /-- Engine and plane indices that missed in this run and in the run before (R119). -/
  missNow  : List Nat := []
  missPrev : List Nat := []
  /-- Status received along the chain (R117). -/
  inDirty  : Bool := false
  inImpl   : BitVec 4 := 0
  tails    : List TailOut := []
  /-- Candidates that SELECT handed over for a sequence, held until the layer step commits (R48, R117). -/
  picks    : List (Nat × List (W32 × W32)) := []
  /-- Outputs that TAIL left in the core's own spaces in this run: space, byte and length (R118, R242). -/
  outs     : List (Nat × Nat × Nat) := []
  /-- What records left in the core's own spaces in this run: space, byte and length (R242). -/
  leaves   : List (Nat × Nat × Nat) := []
  /-- Finished results of a ring split layer, held for the other members until the layer step commits (R117, R258). -/
  finals   : List MergeMsg := []
  /-- Rotation mode (R257): the core's own block has been sent on; rounds begun; and what the fetcher still lacks of this round's
  block. -/
  sentOwn  : Bool := false
  round    : Nat := 0
  blkLeft  : List PageDesc := []
  /-- The run has been counted in COMP_STEPS (R161). -/
  comp     : Bool := false
  /-- Observed maxima mx[g] of the groups that were not zero (R126), by (64 * slot + token) * 2^32 + channel group. -/
  maxima   : SMap (Option W32) := []
  /-- Staged carries (R129) by (64 * slot + token) * 2^32 + channel, and key-value carries (R138) by element. -/
  carry    : SMap (Option W16) := []
  kvCarry  : SMap (Option W16) := []
  /-- Row codes by (256 * vector + row block) * 256 + row: sign and magnitude; pass scales by 256 * vector + row block, and
  drive levels by eight times that plus the group (R124, R125). -/
  codes    : SMap (Bool × Nat) := []
  passS    : SMap W32 := []
  drive    : SMap Nat := []
  /-- Row blocks with a non-finite input (R131), by (vector, row block). -/
  badBlk   : List (Nat × Nat) := []
  /-- Sieve totals by vector * 2^20 + output (R106). -/
  sieve    : SMap W32 := []
  contrib  : List Contrib := []
  nibbles  : List Nibble := []
  sums     : List RunSum := []
  /-- Reduction results of the layer step: S, S2, S3 and their counts (R547). -/
  redS     : W32 := 0
  redS2    : W32 := 0
  redS3    : W32 := 0
  redC     : W32 := 0
  redC2    : W32 := 0
  redC3    : W32 := 0
  /-- Every value that the most recent sum, and sum of squares, took in was zero (R103). -/
  redZ     : Bool := false
  redZ2    : Bool := false
  deriving DecidableEq, Repr

/-- A REDUCE that has sent its partial on and waits for the final core's broadcast (R162): where its result goes. -/
structure RedWait where
  kind  : BitVec 2
  layer : Nat
  dest  : W32
  deriving DecidableEq, Repr

/-- A MERGE that sent its state on in a ring split layer, and whose finished result is to come (R258): its tiles and its layer. -/
structure MergeOut where
  tile  : Nat
  cnt   : Nat
  layer : Nat
  deriving DecidableEq, Repr

/-- Running sums that reached a core before the LSTEP of their layer (R158, R164), with the outputs that have clamped. -/
structure EarlySum where
  msg   : ChainMsg
  clamp : List Bool
  deriving DecidableEq, Repr

/-- A MERGE waiting for the preceding core's state (R251). -/
structure MergeWait where
  tile : Nat
  cnt  : Nat
  peer : W32
  /-- The record's index, variant, stream of the sequencer and schedule beat (R184, R187). -/
  idx    : Nat := 0
  wide   : Bool := false
  stream : Nat := 0
  due    : Nat := 0
  deriving DecidableEq, Repr

/-- A core's known-answer test state (R490 to R493). -/
structure Kat where
  due      : Option W64 := none
  /-- The due test is treated as 60 s overdue (R493). -/
  late     : Bool := false
  forced   : Bool := false
  running  : Bool := false
  lastDone : W64 := 0
  cleanBeat : W64 := 0
  cleanTime : W64 := 0
  winNo    : W64 := 0
  winCount : Nat := 0
  deriving DecidableEq, Repr

/-- A physical core (Table 1.3): its maps, bound-tenant register (R333), SRAM, tiles and units. -/
structure Core where
  usable   : Bool := false
  failed   : Bool := false
  logical  : BitVec 5 := 0x1F
  bound    : Option (Nat × W64) := none
  inUse    : BitVec 17 := 0
  subPhys  : BitVec 5 := 0x1F
  subLog   : BitVec 5 := 0x1F
  /-- A failed engine whose substitution waits for the end of a maintenance window (R37, R85). -/
  subWait  : Option Nat := none
  /-- Core SRAM: staging is bytes 0 to 262,143 (R116), the rest follows (Table 6.5). -/
  sram     : SMap Byte := []
  /-- The core's share of cluster SRAM outside the recipe area (Table 6.5, space 3). -/
  cshare   : SMap Byte := []
  /-- The recipes in the cluster SRAM share (R177) are loaded, and hold the plan copy's records. -/
  recipes  : Bool := false
  tiles    : SMap W32 := []
  tileUse  : W32 := 0
  /-- Tiles that records of the layer step have named: a later record that names one may have waited for it (R173, log entry 155). -/
  tileSeen : W32 := 0
  /-- Visibility masks by 256 * tile + 16 * row + key (R247). -/
  mask     : SMap Bool := []
  /-- Sequence slot and position of each key row and of each query row of a tile, as 4 * (position + 1) + slot, 0 absent
  (R245, R246), by 16 * tile + row. -/
  keyPos   : SMap Nat := []
  qryPos   : SMap Nat := []
  /-- Scale of each 16 codes of a 4-bit operand tile (R245), by (1024 * tile + code byte) / 16. -/
  opScales : SMap W16 := []
  ls       : LayerRun := {}
  walks    : SMap (Option WalkCur) := []
  fetchQ   : List PageDesc := []
  ts       : SMap (Option TsEntry) := []
  /-- Ways of each set, least recently used first (R238). -/
  lru      : SMap (List Nat) := []
  redWaits : List RedWait := []
  /-- Partials received from the preceding core and not yet used (R162). -/
  redIn    : List ReduceMsg := []
  mergeIn  : List MergeMsg := []
  mergeWait : Option MergeWait := none
  /-- MERGE records of a ring split layer that await the finished result, oldest first (R258). -/
  mergeOuts : List MergeOut := []
  /-- Ring blocks that have arrived and whose round has not begun, in order (R257). -/
  ringBlks : List RingBlk := []
  /-- Running sums that arrived before their layer step opened, in order (R158). -/
  early    : List EarlySum := []
  /-- First failures of records treated as damaged: index, variant, epoch (R191). -/
  damaged  : List (Nat × Bool × Nat) := []
  /-- Schedule beat at which the step in progress began on this core: its own STEPEND ends it (R187). -/
  stepAt   : W64 := 0
  /-- The next record to issue of the narrow variant, and of the first and second period of the wide variant (R184, R187). -/
  ptr      : Nat := 0
  ptrLow   : Nat := 0
  ptrHigh  : Nat := 0
  /-- The record at issue has waited on the scoreboard, or for a busy unit (R175, R192). -/
  sbWait   : Bool := false
  unitWait : Bool := false
  /-- Unissued records already counted as overruns: stream (0 narrow, 1 and 2 the wide periods) and index (R187). -/
  overran  : List (Nat × Nat) := []
  /-- An open maintenance window (R189): its flags and its last schedule beat + 1. -/
  window   : Option (Byte × W64) := none
  kat      : Kat := {}
  deriving DecidableEq, Repr

/-- A PASS in an engine's pass queue (R188), with the plane it was translated to. -/
structure QPass where
  bits   : BitVec 256
  idx    : BitVec 14
  wide   : Bool
  plane  : Nat
  shadow : Bool
  prim   : Nat
  /-- The pass slot it names, counted in slots of 80 ns from beat 0 (R186). -/
  at_    : Nat
  deriving DecidableEq, Repr

/-- A split in progress (R75): the pass, the half to run next, half 0's corrected values (256 columns, the checksum column
and the three reference columns), its saturated columns, and whether a reference column saturated or a value was not
finite. -/
structure Split where
  pass   : QPass
  half   : Nat
  vals   : List W32
  sats   : Nat
  refSat : Bool
  bad    : Bool
  deriving DecidableEq, Repr

/-- A program attempt in progress (R193 to R195). -/
structure Prog where
  plane    : Nat
  /-- 0 first program, 1 refresh or rewrite, 2 migration, 3 substitution copy. -/
  purpose  : Nat
  old      : Nat
  attempt  : Nat
  erasing  : Bool
  row      : Nat
  iter     : Nat
  extending : Bool
  exts     : Nat
  /-- Targets beside the block's own, by 2 * (264 * row + column) + (1 for the negative cell): those of partners, of cells that
  failed, and of adjusted weights. -/
  target   : SMap (Option Nat)
  /-- The physical row and column of each unrepairable cell found in the attempt: a pair stands twice when both of its cells failed
  (R215). -/
  faults   : List (Nat × Nat)
  /-- Pairs whose weight the attempt adjusts, and by how much (R217): physical row and column. -/
  adjusted : List (Nat × Nat × Int)
  /-- The next attempt has not begun. -/
  waiting  : Bool
  late     : Nat
  wanted   : Nat
  failedCells : Nat
  held     : Bool
  /-- The failed cells of the row in extension: physical column, and whether the negative cell. -/
  rowOff   : List (Nat × Bool) := []
  deriving DecidableEq, Repr

/-- A calibration in progress on an engine (R452). -/
structure CalRun where
  second  : Bool
  failed  : List Nat
  stages  : List Nat
  deriving DecidableEq, Repr

/-- An accepted calibration that takes effect at the window end (R454): O and G by physical column, the band coefficients, the
converters whose stage changes, and reference cells newly chosen. -/
structure CalNext where
  table  : List (W16 × W16)
  cCs    : W16
  cIn    : W16
  cA     : W16
  cB     : W16
  stages : List Nat
  refs   : Option (List Nat)
  deriving DecidableEq, Repr

/-- A physical engine: its correction table (R91), bands (R114), pass queue and programs. -/
structure Engine where
  failed  : Bool := false
  oTab    : SMap W16 := []
  gTab    : SMap W16 := []
  prior   : Bool := false
  cCs     : W16 := 0x4200
  cA      : W16 := 0x3400
  cIn     : W16 := 0x4200
  cB      : W16 := 0x3266
  queue   : List QPass := []
  split   : Option Split := none
  prog    : Option Prog := none
  cal     : Option CalRun := none
  calNext : Option CalNext := none
  /-- The correction table before its last change, with the beat of the change (R92). -/
  oldTab  : Option (W64 × SMap W16 × SMap W16) := none
  /-- The last pass slot in which the engine ran a pass or a half, counted from beat 0 (R67). -/
  lastSlot : Option Nat := none
  /-- Beat of the last pass that ran on the engine (R196). -/
  passBeat : Option W64 := none
  /-- Columns that a periphery fault disables in every plane's map, as each plane is rewritten (R82, R83). -/
  spareCols : List Nat := []
  /-- A reselection waiting for its calibration (R453). -/
  refNext : Option (List Nat) := none
  /-- The reselection was chosen in a window that is still open: its calibration waits for the next one (R453). -/
  refHeld : Bool := false
  startStep : BitVec 4 := 0
  /-- Its highest late fraction since its last re-plan, as late cells and cells programmed (R478, R481). -/
  lateMax : Nat × Nat := (0, 1)
  deriving DecidableEq, Repr

/-- A physical plane (R60 to R62, R94, R112): state, owner, cell levels, drift and residuals. -/
structure Plane where
  st     : BitVec 3 := 0
  owner  : W64 := 0
  /-- Levels by 2 * (264 * row + column) + (1 for the negative cell). -/
  cells  : SMap Nat := []
  /-- The plane has been erased since manufacture: an unlisted cell of plane 64 is at level 0, and not at its pattern's (R59). -/
  blank  : Bool := false
  dp     : W16 := 0x3C00
  /-- The drift trim before its last change, with the beat of the change (R92). -/
  oldDp  : Option (W64 × W16) := none
  n      : Nat := 0
  m      : W32 := 0
  x      : W32 := 0
  z      : W32 := 0
  a      : W32 := 0
  /-- Row residuals by logical row, signed 8-bit (R112). -/
  resid  : SMap (BitVec 8) := []
  /-- Beat count at which the plane became STALE (R210). -/
  staleAt : W64 := 0
  /-- A transition that takes effect at the window end (R61), or none. -/
  next   : Option (BitVec 3) := none
  /-- The tenant plane whose map moves here at the window end (R221), by old plane. -/
  moveOf : Option Nat := none
  /-- Binding, block, layer, row block, column block of the weights held. -/
  home   : Option (Nat × Nat × Nat × Nat × Nat) := none
  /-- Its adoption is in progress (R209). -/
  adopting : Bool := false
  /-- It waits for its copy on a substituting spare engine, or is being copied (R85). -/
  subst    : Bool := false
  /-- Program attempts of the present program or refresh (R215). -/
  tries  : Nat := 0
  deriving DecidableEq, Repr

/-- A block's master copy in the protected region (R201): its bytes, its CRC-32, and the master copy of the plane's row
residuals (R112). -/
structure MasterCopy where
  data  : List Byte
  crc   : W32
  resid : SMap (BitVec 8) := []
  /-- It has failed its check, and is not used until host software binds the plan image again (R202). -/
  bad   : Bool := false
  deriving DecidableEq, Repr

/-- A layer's outlier rows in the protected region (R105, R107, R201): the owner tag, the bytes and their CRC-32. -/
structure OutlierCopy where
  owner : W64
  data  : List Byte
  crc   : W32
  deriving DecidableEq, Repr

/-- The arrays and cores: clusters, cores, engines, planes, and the protected region's master copies and outlier rows. -/
structure Hw where
  clusters : SMap Cluster := []
  cores    : SMap Core := []
  engines  : SMap Engine := []
  planes   : SMap Plane := []
  /-- Master copies by physical plane (R201). -/
  masters  : SMap (Option MasterCopy) := []
  /-- Outlier rows by 65,536 * binding + layer (R105, R107). -/
  outliers : SMap (Option OutlierCopy) := []
  /-- Cell map entries kept in all (R219). -/
  cellUsed : Nat := 0
  /-- Planes for which a pass is held for a stretch (R212). -/
  held     : List Nat := []
  /-- The planes that were held as the stretch in progress began, which it serves as a window (R212). -/
  stretchPlanes : List Nat := []
  deriving DecidableEq, Repr

/-- What leaves the part: the model's own log of host writes, signals, messages and replies. -/
inductive Out where
  | completion (ring : Nat) (slot : Nat) (phase : Bool) (head : W16) (e : Compl) (addr : W64) (data : List Byte)
  | msix (vector : Nat)
  | hostWrite (addr : W64) (data : List Byte)
  | errEntry (slot : Nat) (r : ErrRec)
  | read64 (off : Off) (v : W64)
  | readBad (off : Off) (bytes : BitVec 4)
  | lockRead (m : Master) (k : Nat) (v : W32)
  | doorbell (mb : Nat)
  | wake (cluster : Nat)
  | mgmt (code : Byte) (status : Byte) (words : List W32) (records : List ErrRec)
  | mgmtCper (slot : Nat) (c : Option Cper)
  | mgmtEvents (es : List EventEntry)
  | mgmtAges (es : List AgeEntry)
  | spdm (p : SpdmPort) (code : Byte) (words : List W32) (digests : List Nat) (bytes : List Byte)
  | beatWord (w : BeatWord)
  | formWord (w : FormWord)
  | faultNotice (cause : BitVec 4) (pos : BitVec 9)
  | reqWord (q : StretchReq)
  | planMsg (code : Nat) (dst : BitVec 9) (q : PlanMsg)
  | ack (src : BitVec 9) (txn : BitVec 24)
  | retry (port : Nat)
  | resend (old new : BitVec 24)
  | errCompl (src : BitVec 9) (txn : BitVec 24)
  | retryNotice (src : BitVec 9) (txns : List (BitVec 24))
  | flit (port : Nat) (f : Flit)
  | chain (core : Nat) (peer : W32) (d : ChainMsg)
  | merge (core : Nat) (peer : W32) (d : MergeMsg)
  | reduce (core : Nat) (peer : W32) (d : ReduceMsg)
  | tailOut (core : Nat) (peer : W32) (off : W32) (vals : List W32)
  | ringBlk (core : Nat) (d : RingBlk)
  | token (rec : Nat) (t : W32)
  | snoopMiss (addr : W64)
  | railsCut
  deriving DecidableEq, Repr

/-- The memory key that a frame's data were last written under (R353): the binding and KEY_GEN; `stale` where bytes that have not
been written since are an earlier owner's (R354), with the count of free values at the moment of the change. -/
structure FrameKey where
  binding : Nat
  gen     : W32
  stale   : Option Nat
  deriving DecidableEq, Repr

/-- What stops the machine with a fault. -/
inductive Fault where
  /-- Raised by no meaning of this model: every command has an effect the spec gives. Kept so that a list of host-supplied
  data of the wrong shape has a name to fail under. Safe: the machine would stop where the part goes on. -/
  | illFormed
  deriving DecidableEq, Repr

/-- What the model refuses. -/
inductive Refusal where
  /-- An instruction whose meaning is not written yet, by its mnemonic; raised by exec's arms only. Safe: the machine stops
  where the part goes on. -/
  | notModelled (mnemonic : String)
  deriving DecidableEq, Repr

/-- The state of the part: every register, FIFO, buffer, counter, mode and pin the spec gives it, the queue of commands
waiting (oldest first), and the model's own output log and free-value counter. -/
structure State where
  pending : List Instr := []
  ident   : Ident := {}
  mail    : Mail := {}
  err     : ErrState := {}
  su      : StartUp := {}
  lar     : Larder := {}
  host    : HostIf := {}
  fab     : Fabric := {}
  mon     : Monitor := {}
  pow     : Power := {}
  ten     : Tenancy := {}
  srv     : Serving := {}
  hw      : Hw := {}
  /-- Device memory by 65,536 * frame + byte; an unlisted byte reads 0 (DESIGN CHOICE, log entry 5), or what R354 leaves of an
  earlier owner's data. -/
  mem     : List Host.Cell := []
  /-- The key of each frame's data (R353, R354); none: nothing has been written since power-up. -/
  memKeys : SMap (Option FrameKey) := []
  out     : List Out := []
  /-- The model's own field: how many free values have been taken (log entry 1). -/
  fresh   : Nat := 0
  deriving DecidableEq, Repr

/-- The part right after power-up, in phase 0 with nothing loaded: every field at its reset value (R23, R531). -/
def State.reset : State := {}

end Sys2Proof.Machine
end

