-- ==== Sys2Proof/Machine/RegMap.lean ====
section
/-! DEFINITION. What the registers of BAR0 read as (Tables 19.1 to 19.6): one function for the 64-bit registers and one for
32-bit words, over the whole map. -/

namespace Sys2Proof.Machine

/-- A ring's state before anything wrote it (Table 12.3): VECTOR 4 + r, PRIV set on ring 0. -/
def ringReset (r : Nat) : Ring := { vector := BitVec.ofNat 9 (4 + r), priv := r == 0 }
/-- Ring `r` (R369). -/
def ring (s : State) (r : Nat) : Ring := look ringReset s.host.rings r
/-- Mailbox `m` (Table 13.1). -/
def mbox (s : State) (m : Nat) : Mailbox := look (fun _ => {}) s.mail.boxes m
/-- Lock register `k` (R414). -/
def lockReg (s : State) (k : Nat) : Lock := look (fun _ => {}) s.mail.locks k
/-- Physical cluster `p`. -/
def cluster (s : State) (p : Nat) : Cluster := look (fun _ => {}) s.hw.clusters p
/-- Physical core `k` = 18 * cluster + core. -/
def core (s : State) (k : Nat) : Core := look (fun _ => {}) s.hw.cores k
/-- Physical engine `e` = 17 * core + engine. -/
def engine (s : State) (e : Nat) : Engine := look (fun _ => {}) s.hw.engines e
/-- A plane's state before anything wrote it: plane 64 of an engine is TEST, the others FREE (R60, R544). -/
def planeReset (n : Nat) : Plane := { st := if n % 65 = 64 then 6 else 0 }
/-- Plane index `n` (R508). -/
def plane (s : State) (n : Nat) : Plane := look planeReset s.hw.planes n
/-- Binding entry `b` (R330). -/
def entry (s : State) (b : Nat) : BEntry := look (fun _ => {}) s.ten.entries b
/-- What firmware keeps with binding `b`. -/
def brun (s : State) (b : Nat) : BRun := look (fun _ => {}) s.ten.runs b
/-- Context record `c` (R261). -/
def ctx (s : State) (c : Nat) : Ctx := look (fun _ => {}) s.srv.ctx c
/-- What firmware keeps with context record `c`. -/
def ctxRun (s : State) (c : Nat) : CtxRun := look (fun _ => {}) s.srv.run c
/-- Monitor converter `m` (R439). -/
def conv (s : State) (m : Nat) : Conv := look (fun _ => {}) s.mon.conv m
/-- Miotor port `k` (R292). -/
def port (s : State) (k : Nat) : Port := look (fun _ => {}) s.fab.ports k
/-- The seat table's value of a seat before anything wrote it (Table 10.8). -/
def seatReset (i : Nat) : W16 := if i = 0 then 0 else 0xFFFF
/-- Ring position of a seat (R298). -/
def seatPos (s : State) (i : Nat) : W16 := look seatReset s.fab.seatTab i
/-- MSI-X entry `v` (R391). -/
def msixEntry (s : State) (v : Nat) : MsixEntry := look (fun _ => {}) s.host.msix v

/-- F of R41: frames per bridge. -/
def framesPerBridge (s : State) : Nat := match s.ident.variant with | .h => 3145728 | .c => 2359296

/-- A cluster is enabled only while its STATE is 0b00 (R523). -/
def enabledCl (s : State) (p : Nat) : Bool := (cluster s p).st == 0

/-- The part is below phase 7 (R429). -/
def below7 (s : State) : Bool := s.su.phase != 7

/-- An error record as 64 bytes (Table 17.1), as one number. -/
def errNat (r : ErrRec) : Nat :=
  packBits [(r.typ.toNat, 16), (r.severity.toNat, 2), (0, 6), (bit r.mgmtOnly, 1), (bit r.coalesced, 1), (bit r.phase, 1),
    (bit r.loss, 1), (bit r.cper, 1), (0, 3), (r.seq.toNat, 32), (r.beat.toNat, 64), (r.time.toNat, 64), (r.pos.toNat, 9),
    (r.cluster.toNat, 7), (r.core.toNat, 5), (r.engine.toNat, 5), (r.plane.toNat, 7), (r.cls.toNat, 7), (r.inst.toNat, 8),
    (0, 16), (r.tenant.toNat, 12), (0, 4), (r.layer.toNat, 16), (r.step.toNat, 32), (r.record.toNat, 14), (bit r.wide, 1),
    (bit r.recordValid, 1), (r.temp.toNat, 12), (0, 4), (r.volt.toNat, 16), (r.count.toNat, 16), (r.context.toNat, 32),
    (r.d0.toNat, 32), (r.d1.toNat, 32), (r.d2.toNat, 32)]

/-- An error record's bytes. -/
def errBytes (r : ErrRec) : List Byte := leBytes 64 (errNat r)

/-- The 512 bytes of a signature slot (R502, R503): UEFI header and section descriptor, then the vendor section. -/
def cperBytes (c : Cper) : List Byte :=
  (List.range 200).map (Config.cperHeader c.fatal c.time) ++ c.section_ ++ List.replicate 56 0

/-- A binding entry as 128 bytes (Table 11.1), as one number. -/
def entryNat (b : BEntry) : Nat :=
  packBits [(b.st.toNat, 3), (bit b.reserved, 1), (0, 12), (b.peer.toNat, 12), (0, 4), (b.tenant.toNat, 64),
    (b.planId.toNat, 64), (b.planFrame.toNat, 32), (b.planLen.toNat, 32), (b.mapFrame.toNat, 32), (b.planPart.toNat, 16),
    (b.baseSeat.toNat, 16), (b.pageQuota.toNat, 32), (b.pageUsed.toNat, 32), (b.ctxQuota.toNat, 32), (b.ctxUsed.toNat, 32),
    (b.ovfFrames.toNat, 32), (b.prefixFrames.toNat, 32), (b.actFrames.toNat, 32), (b.embFrames.toNat, 32),
    (b.tsOvf.toNat, 16), (b.ring.toNat, 8), (0, 8), (b.cores.toNat, 32), (b.epoch.toNat, 32), (b.steps.toNat, 32),
    (b.keyGen.toNat, 32), (b.lastReason.toNat, 8), (0, 24), (b.lastDetail.toNat, 32), (b.mapCrc.toNat, 32)]

/-- A context record as 64 bytes (Table 9.1), as one number. -/
def ctxNat (c : Ctx) : Nat :=
  packBits [(c.st.toNat, 3), (bit c.wide, 1), (c.role.toNat, 2), (bit c.share, 1), (bit c.sampled, 1), (c.slot.toNat, 2),
    (bit c.inSlot, 1), (bit c.suspended, 1), (bit c.keep, 1), (bit c.copying, 1), (0, 2), (c.tenant.toNat, 16),
    (c.length.toNat, 32), (c.keyFloor.toNat, 32), (c.root.toNat, 24), (c.qstate.toNat, 24), (c.tokbuf.toNat, 24),
    (c.topk.toNat, 8), (c.temp.toNat, 16), (c.inputEnd.toNat, 32), (c.genLeft.toNat, 32), (c.limit.toNat, 32),
    (c.stop0.toNat, 32), (c.stop1.toNat, 32), (c.draftLen.toNat, 8), (c.rejects.toNat, 8), (c.suspSteps.toNat, 16),
    (c.peer.toNat, 32), (c.wideAt.toNat, 32), (c.prefNode.toNat, 32), (c.seed.toNat, 32)]

/-- An ageing entry's 32 bytes (R518), as one number; the order of its fields is the model's (log entry 16). -/
def ageNat (a : AgeEntry) : Nat :=
  packBits [(a.cluster.toNat, 8), (a.cause.toNat, 8), (a.vDelta.toNat, 8), (a.valid.toNat, 8), (a.maxStart.toNat, 16),
    (a.raised.toNat, 16), (a.calendar.toNat, 64), (a.powerOn.toNat, 64), (a.boots.toNat, 32)]

/-- The reset word of a per-cluster window offset that the window map holds (Table 19.6). -/
def winReset (off : Nat) : W64 := if 0x100 ≤ off ∧ off < 0x148 then 0x07FE0000 else 0

/-- The 64-bit registers of the per-cluster windows held in the window map. -/
def win64 : List Nat :=
  [0x190, 0x210, 0x400, 0x500, 0x620, 0x700, 0x708, 0x808, 0x810, 0x828, 0x830, 0x850, 0xB08]

/-- The 32-bit registers of the per-cluster windows held in the window map. -/
def win32 (o : Nat) : Bool :=
  (0x100 ≤ o && o < 0x148) || [0x180, 0x184, 0x198, 0x19C, 0x200, 0x204, 0x208, 0x20C, 0x218, 0x21C, 0x220, 0x224].contains o
  || (0x300 ≤ o && o ≤ 0x324) || [0x408, 0x40C, 0x410, 0x414, 0x508, 0x50C, 0x510, 0x514].contains o
  || (0x600 ≤ o && o ≤ 0x61C) || (0x628 ≤ o && o ≤ 0x638) || (0x710 ≤ o && o ≤ 0x734)
  || [0x800, 0x804, 0x818, 0x81C, 0x820, 0x824, 0x838, 0x83C, 0x840, 0x844, 0x848, 0x858].contains o
  || [0xB00, 0xB04, 0xB10, 0xB14, 0xB18].contains o

/-- A window word of cluster `p` as the map holds it. -/
def winWord (s : State) (p off : Nat) : W64 := look winReset (cluster s p).win off

/-- The lock summary (Table 13.7): bit k is LOCK of register k. -/
def lockSummary (s : State) : Nat :=
  (List.range 64).foldl (fun a k => a + bit (lockReg s k).held * 2 ^ k) 0

/-- Beats to the end of the current or pending stretch (Table 10.10). -/
def toEnd (s : State) : Nat :=
  match s.fab.grant with | none => 0 | some g => g.e0.toNat - s.fab.beat.toNat

/-- The current beat is inserted (R319). -/
def inserted (s : State) : Bool :=
  match s.fab.grant with
  | none => false
  | some g => g.x0.toNat ≤ s.fab.beat.toNat && s.fab.beat.toNat < g.e0.toNat

/-- The epoch that an event of this beat belongs to (R186): in an inserted beat, that of the next schedule beat (R328). -/
def eventEpoch (s : State) : Nat := (s.fab.sched.toNat + if inserted s then 1 else 0) / 1024

/-- MOD_PG is released (Table 20.6): the module is ready for an enable request, or enabled. -/
def modPg (s : State) : Bool := s.su.phase == 6 || s.su.phase == 7

/-- The alert pin (R500): a record not yet returned stands in the management queue. -/
def alert (s : State) : Bool := s.err.mgmtQ.any fun m => !m.returned

/-- GLOBAL_STATUS (Table 19.3, R528): a view of the fields it mirrors. -/
def globalStatus (s : State) : Nat :=
  packBits [(bit s.su.enabled, 1), (bit (!s.err.hostQ.isEmpty), 1), (s.fab.st.toNat, 2), (bit s.pow.hot, 1),
    (bit s.host.quiesced, 1), (bit (s.ident.clustersFailed != 0 || s.ident.coresFailed != 0), 1), (bit s.host.degraded, 1)]

/-- The 64-bit registers outside the per-cluster windows (Tables 19.3 to 19.5), by offset of the low word. -/
def glob64 (s : State) (o : Nat) : Option W64 :=
  if o = 0x8 then some s.ident.serial
  else if o = 0x10020 then some s.su.buildId
  else if o = 0x30100 then some (BitVec.ofNat 64 (lockSummary s))
  else if 0x40000 ≤ o ∧ o < 0x44000 ∧ o % 0x40 = 0 then
    some ((ring s ((o - 0x40000) / 0x40)).sqBase ++ (0 : BitVec 12))
  else if 0x40000 ≤ o ∧ o < 0x44000 ∧ o % 0x40 = 0x10 then
    some ((ring s ((o - 0x40000) / 0x40)).cqBase ++ (0 : BitVec 12))
  else if 0x68000 ≤ o ∧ o < 0x68028 ∧ o % 8 = 0 then
    some (BitVec.ofNat 64 ((List.range 64).foldl
      (fun a i => a + bit (look (fun _ => false) s.host.pba ((o - 0x68000) * 8 + i)) * 2 ^ i) 0))
  else if o = 0x80000 then some (s.err.erBase ++ (0 : BitVec 12))
  else if o = 0x80048 then some 0x8A413C075E920B6D
  else if o = 0x80050 then some 0xC2E419F07D3658B1
  else if 0xA0000 ≤ o ∧ o < 0xA3800 ∧ 0x100 ≤ o % 0x400 ∧ o % 0x400 < 0x300 ∧ o % 0x20 = 0 then
    some (look (fun _ => ({} : Bank)) (conv s ((o - 0xA0000) / 0x400)).snap ((o % 0x400 - 0x100) / 0x20)).acc
  else if o = 0xA8008 then some s.mon.snapBeat
  else if o = 0xC0020 then some s.pow.lastReplan
  else if o = 0xE0000 then some s.lar.view.powerOn
  else if o = 0xE0008 then some s.lar.view.calendar
  else if 0xE0100 ≤ o ∧ o < 0xE0180 ∧ o % 8 = 0 then
    some (look (fun _ => 0) s.lar.view.histo ((o - 0xE0100) / 8))
  else if o = 0x400020 then some s.fab.beat
  else if o = 0x400028 then some s.fab.sched
  else if o = 0x400038 then some s.fab.inserted
  else if 0x400100 ≤ o ∧ o < 0x400200 ∧ o % 0x20 = 4 then some (port s ((o - 0x400100) / 0x20)).flits
  else if 0x500000 ≤ o ∧ o < 0x500E00 ∧ o % 0x20 = 8 then
    some (if enabledCl s ((o - 0x500000) / 0x20) then (cluster s ((o - 0x500000) / 0x20)).cal.lastTime else 0)
  else if 0x500000 ≤ o ∧ o < 0x500E00 ∧ o % 0x20 = 0x10 then
    some (if enabledCl s ((o - 0x500000) / 0x20) then (cluster s ((o - 0x500000) / 0x20)).cal.lastBeat else 0)
  else none

/-- The 64-bit registers of the per-cluster windows. -/
def cl64 (s : State) (p o : Nat) : Option W64 :=
  if o = 0xA18 then some (if enabledCl s p then (cluster s p).pow.below else 0)
  else if win64.contains o then some (if enabledCl s p then winWord s p o else 0)
  else none

/-- The 64-bit register whose low word lies at offset `o`, if one does (R20, R529). -/
def val64 (s : State) (o : Nat) : Option W64 :=
  if 0x200000 ≤ o ∧ o < 0x270000 then cl64 s ((o - 0x200000) / 0x1000) (o % 0x1000) else glob64 s o

/-- A mailbox word by its offset (Table 13.2). -/
def mbWord (m : Mailbox) (o : Nat) : Nat :=
  if o < 0x40 ∧ o % 4 = 0 then (look (fun _ => (0 : W32)) m.data (o / 4)).toNat
  else if o = 0x44 then packBits [(bit m.full, 1), (bit m.collision, 1), (bit m.ack, 1), (bit m.unacked, 1), (0, 4),
    (m.seq.toNat, 8)]
  else if o = 0x50 then m.ackTime.toNat
  else if o = 0x54 then m.sent.toNat
  else if o = 0x58 then m.collisions.toNat
  else if o = 0x5C then m.stale.toNat
  else 0

/-- A lock register's word (Table 13.7). -/
def lockWord (l : Lock) : Nat := packBits [(bit l.held, 1), (0, 7), (l.taker.toNat, 8)]

/-- A ring's 32-bit words (Table 12.3). -/
def ringWord (g : Ring) (o : Nat) : Nat :=
  if o = 0x08 then packBits [(bit g.sqEnable, 1), (bit g.flush, 1), (bit g.priv, 1), (0, 5), (g.sqLog2.toNat, 5)]
  else if o = 0x0C then g.sqTail.toNat
  else if o = 0x18 then packBits [(bit g.cqEnable, 1), (0, 7), (g.cqLog2.toNat, 5), (0, 3), (g.vector.toNat, 9)]
  else if o = 0x1C then g.cqHead.toNat
  else if o = 0x20 then packBits [(g.sqHead.toNat, 16), (min 65535 g.outstanding, 16)]
  else if o = 0x24 then packBits [(g.cqTail.toNat, 16), (bit g.phase, 1)]
  else if o = 0x28 then packBits [(bit g.tailInvalid, 1), (bit g.badPacket, 1), (bit g.fetchFault, 1), (bit g.queueReset, 1),
    (bit g.cqDropped, 1), (bit (g.discard != 0), 1)]
  else if o = 0x2C then packBits [(g.coCount.toNat, 8), (g.coTime.toNat, 16)]
  else if o = 0x30 then g.accepted.toNat
  else if o = 0x34 then g.notices.toNat
  else if o = 0x38 then g.finals.toNat
  else 0

/-- A monitor converter's 32-bit words (Table 15.3). -/
def convWord (c : Conv) (o : Nat) : Nat :=
  if o = 0 then packBits [(c.st.toNat, 2), (c.entries.toNat, 5)]
  else if o = 4 then c.cycle.toNat
  else if 0x10 ≤ o ∧ o < 0x24 ∧ o % 4 = 0 then
    packBits [((look (fun _ => (0 : W16)) c.off ((o - 0x10) / 4)).toNat, 16),
      ((look (fun _ => (0x8000 : W16)) c.gf ((o - 0x10) / 4)).toNat, 16)]
  else if 0x40 ≤ o ∧ o < 0x80 ∧ o % 4 = 0 then (look (fun _ => (0 : W32)) c.cfg ((o - 0x40) / 4)).toNat
  else if 0x100 ≤ o ∧ o < 0x300 then
    let b := look (fun _ => ({} : Bank)) c.snap ((o - 0x100) / 0x20)
    if o % 0x20 = 8 then b.count.toNat
    else if o % 0x20 = 0xC then packBits [(b.mn.toNat, 16), (b.mx.toNat, 16)]
    else if o % 0x20 = 0x10 then b.clips.toNat
    else 0
  else 0

/-- The 32-bit words of the identity, enable, mailbox, lock and ring blocks (Tables 19.3, 19.4). -/
def low32 (s : State) (o : Nat) : Nat :=
  if o = 0x0 then packBits [(0x9624, 16), (bit (s.ident.variant == .c), 1), (0, 7), (1, 8)]
  else if o = 0x4 then 1
  else if o = 0x10 then
    (match s.ident.variant with
     | .h => packBits [(768, 16), (32, 6), (24, 5)]
     | .c => packBits [(576, 16), (24, 6), (24, 5)])
  else if o = 0x14 then framesPerBridge s
  else if o = 0x18 then s.ident.fwVersion.toNat
  else if o = 0x20 then globalStatus s
  else if o = 0x24 then packBits [(s.ident.clustersFailed.toNat, 8), (s.ident.coresFailed.toNat, 11)]
  else if o = 0x28 then s.ident.scratch.toNat
  else if o = 0x100 then packBits [(s.ident.i3cAddr.toNat, 7), (bit s.ident.addrValid, 1), (bit (alert s), 1)]
  else if o = 0x104 then s.ident.mctpMessages.toNat
  else if o = 0x108 then packBits [(bit s.ident.debug, 1), (bit s.ident.aliasReady, 1),
    (min 7 (s.su.sessions.filter (·.finished)).length, 3)]
  else if o = 0x10000 then bit s.su.enableBit
  else if o = 0x10004 then packBits [(bit s.su.enabled, 1), (bit s.su.checkBusy, 1), (bit s.su.auto, 1), (bit s.su.slotB, 1),
    (s.su.phase.toNat, 4), (s.su.reason.toNat, 8), (s.su.restartCause.toNat, 3)]
  else if o = 0x10008 then s.su.detail.toNat
  else if o = 0x1000C then s.su.checks.toNat
  else if o = 0x10010 then s.su.refused.toNat
  else if o = 0x10014 then s.su.secVersion.toNat
  else if o = 0x10018 then s.su.floor.toNat
  else if o = 0x10028 then s.su.startupUs.toNat
  else if 0x20000 ≤ o ∧ o < 0x20080 then mbWord (mbox s 0) (o - 0x20000)
  else if 0x20080 ≤ o ∧ o < 0x20100 then mbWord (mbox s 1) (o - 0x20080)
  else if o = 0x20100 then s.mail.irqEn.toNat
  else if o = 0x20104 then s.mail.irqCause.toNat
  else if o = 0x20108 then s.mail.lead.toNat
  else if 0x30000 ≤ o ∧ o < 0x30100 ∧ o % 4 = 0 then lockWord (lockReg s ((o - 0x30000) / 4))
  else if 0x40000 ≤ o ∧ o < 0x44000 then ringWord (ring s ((o - 0x40000) / 0x40)) (o % 0x40)
  else if o = 0x44000 then bit s.host.quiesce
  else if o = 0x44004 then packBits [(bit s.host.quiesced, 1), (bit s.host.degraded, 1), (bit s.host.ideActive, 1),
    (s.host.width.toNat, 5), (s.host.speed.toNat, 4)]
  else if o = 0x44008 then packBits [(s.host.ht.toNat, 16), (s.host.hext.toNat, 16)]
  else if o = 0x4400C then s.host.timeouts.toNat
  else if o = 0x44010 then s.host.replays.toNat
  else if o = 0x44014 then s.host.recoveries.toNat
  else if o = 0x44018 then s.host.resets.toNat
  else if o = 0x4401C then s.host.ideFails.toNat
  else if 0x60000 ≤ o ∧ o < 0x61040 then
    let m := msixEntry s ((o - 0x60000) / 16)
    if o % 16 = 0 then m.addrLo.toNat else if o % 16 = 4 then m.addrHi.toNat
    else if o % 16 = 8 then m.data.toNat else if o % 16 = 12 then m.ctl.toNat else 0
  else 0

/-- The 32-bit words of the error, monitor, power, larder and tenancy blocks (Tables 19.4, 19.5). -/
def mid32 (s : State) (o : Nat) : Nat :=
  if o = 0x80008 then packBits [(bit s.err.erEnable, 1), (0, 7), (s.err.erLog2.toNat, 5)]
  else if o = 0x8000C then s.err.erHead.toNat
  else if o = 0x80010 then packBits [(s.err.erTail.toNat, 16), (bit s.err.erPhase, 1)]
  else if o = 0x80014 then packBits [(s.err.coCount.toNat, 8), (s.err.coTime.toNat, 16)]
  else if o = 0x80018 then packBits [(s.err.hostQ.length, 16), (s.err.mgmtQ.length, 16)]
  else if o = 0x8001C then s.err.raised.toNat
  else if o = 0x80020 then s.err.hostDropped.toNat
  else if o = 0x80024 then s.err.mgmtDropped.toNat
  else if o = 0x80028 then s.err.merged.toNat
  else if o = 0x8002C then s.err.memCorrected.toNat
  else if o = 0x80030 then s.err.memUncorrected.toNat
  else if o = 0x80034 then s.err.framesRetired.toNat
  else if o = 0x80038 then s.err.cperCount.toNat
  else if o = 0x80040 then s.err.lastSeq.toNat
  else if 0x81000 ≤ o ∧ o < 0x83000 ∧ o % 4 = 0 then
    (match look (fun _ => (none : Option Cper)) s.err.slots ((o - 0x81000) / 0x200) with
     | none => 0
     | some c => leAt (cperBytes c) (o % 0x200) 4)
  else if 0xA0000 ≤ o ∧ o < 0xA3800 then convWord (conv s ((o - 0xA0000) / 0x400)) (o % 0x400)
  else if o = 0xA8004 then s.mon.snapSeq.toNat
  else if o = 0xA8010 then s.mon.selfFailed.toNat
  else if o = 0xC0000 then packBits [(s.pow.limitSet.toNat, 16), (s.pow.limitForce.toNat, 16)]
  else if o = 0xC0004 then packBits [(s.pow.step.toNat, 5), (bit s.pow.hot, 1), (s.pow.hotCluster.toNat, 7)]
  else if o = 0xC0008 then packBits [(s.pow.avg.toNat, 16), (s.pow.peak.toNat, 16)]
  else if o = 0xC000C then s.pow.tMax.toNat
  else if o = 0xC0010 then s.pow.inputV.toNat
  else if o = 0xC0014 then s.pow.stepUps.toNat
  else if o = 0xC0018 then s.pow.stepDowns.toNat
  else if o = 0xC001C then packBits [(s.pow.trips.toNat, 16), (s.pow.fwShut.toNat, 16)]
  else if o = 0xC0028 then s.pow.replans.toNat
  else if o = 0xC002C then s.pow.pBase.toNat
  else if o = 0xE0010 then packBits [(bit s.lar.view.calRest, 1), (bit s.lar.view.copyB, 1)]
  else if o = 0xE0014 then s.lar.view.boots.toNat
  else if o = 0xE0018 then s.lar.view.folds.toNat
  else if o = 0xE001C then s.lar.view.maxErases.toNat
  else if o = 0xE0020 then s.lar.view.torn.toNat
  else if o = 0xE0024 then s.lar.view.suppressed.toNat
  else if o = 0xE0028 then s.lar.view.waiting.toNat
  else if 0xE0200 ≤ o ∧ o < 0xE1200 ∧ o % 4 = 0 then
    (match s.lar.view.events[(o - 0xE0200) / 0x40]? with
     | none => 0
     | some e => leAt (errBytes e.er) (o % 0x40) 4)
  else if 0xE1200 ≤ o ∧ o < 0xE1400 ∧ o % 4 = 0 then
    (match s.lar.view.ages[(o - 0xE1200) / 0x20]? with
     | none => 0
     | some a => leAt (leBytes 28 (ageNat a) ++ leBytes 4 (crc32 (leBytes 28 (ageNat a))).toNat) (o % 0x20) 4)
  else if 0x100000 ≤ o ∧ o < 0x180000 ∧ o % 4 = 0 then
    fld (entryNat (entry s ((o - 0x100000) / 128))) (o % 128 * 8) 32
  else if o = 0x180000 then
    packBits [((s.ten.entries.filter fun p => p.2.st != 0).length, 13), ((s.ten.entries.filter fun p => p.2.st == 3).length, 13)]
  else if o = 0x180004 then packBits [(s.ten.free.toNat, 24),
    ((s.ten.entries.filter fun p => p.2.st != 0 && p.2.reserved).length, 7), (bit s.ten.provisioned, 1)]
  else if o = 0x180008 then s.ten.nSwitch.toNat
  else if o = 0x18000C then s.ten.nPreempt.toNat
  else if o = 0x180010 then s.ten.nScrub.toNat
  else if o = 0x180014 then s.ten.nOwner.toNat
  else if o = 0x180018 then s.ten.nRefusal.toNat
  else 0

/-- The 32-bit words of the Miotor and calibration blocks (Table 19.5). -/
def high32 (s : State) (o : Nat) : Nat :=
  if o = 0x400000 then packBits [(s.fab.st.toNat, 2), (0, 6), (s.fab.cause.toNat, 4), (bit s.fab.mapRefused, 1),
    (bit s.fab.joinRefused, 1), (bit s.fab.leaveRefused, 1), (bit s.fab.locked, 1)]
  else if o = 0x400004 then s.fab.domainId.toNat
  else if o = 0x400008 then packBits [(s.fab.ringSize.toNat, 16), (s.fab.myPos.toNat, 9)]
  else if o = 0x40000C then packBits [(s.fab.mySeat.toNat, 16), (s.fab.seats.toNat, 10)]
  else if o = 0x400010 then bit s.fab.join
  else if o = 0x400014 then s.fab.lead.toNat
  else if o = 0x400018 then s.fab.digest.toNat
  else if o = 0x400030 then packBits [(bit (toEnd s != 0 && !inserted s), 1), (bit (inserted s), 1), (toEnd s, 24)]
  else if o = 0x400034 then s.fab.stretches.toNat
  else if o = 0x400040 then packBits [(s.fab.tt.toNat, 16), (s.fab.ext.toNat, 16)]
  else if o = 0x400044 then s.fab.requests.toNat
  else if o = 0x400048 then s.fab.badRequests.toNat
  else if o = 0x40004C then s.fab.timeouts.toNat
  else if o = 0x400050 then s.fab.errCompl.toNat
  else if 0x400100 ≤ o ∧ o < 0x400200 then
    let q := port s ((o - 0x400100) / 0x20)
    if o % 0x20 = 0 then packBits [(q.st.toNat, 2), (0, 6), (q.rawLat.toNat, 8)]
    else if o % 0x20 = 0xC then q.episodes.toNat
    else if o % 0x20 = 0x10 then q.retransmits.toNat
    else if o % 0x20 = 0x14 then q.exhausted.toNat
    else 0
  else if 0x401000 ≤ o ∧ o < 0x401400 ∧ o % 4 = 0 then
    packBits [((seatPos s ((o - 0x401000) / 2)).toNat, 16), ((seatPos s ((o - 0x401000) / 2 + 1)).toNat, 16)]
  else if 0x500000 ≤ o ∧ o < 0x500E00 then
    let p := (o - 0x500000) / 0x20
    let c := (cluster s p).cal
    if !enabledCl s p then 0
    else if o % 0x20 = 0 then c.runs.toNat
    else if o % 0x20 = 4 then c.fails.toNat
    else if o % 0x20 = 0x18 then packBits [(c.tLast.toNat, 12), (bit c.due, 1), (bit c.running, 1), (c.left.toNat, 9)]
    else if o % 0x20 = 0x1C then packBits [(c.refs.toNat, 16), (c.stages.toNat, 16)]
    else 0
  else if o = 0x501000 then s.mon.calDelta.toNat
  else 0

/-- The 32-bit words of a per-cluster window (Table 19.6). -/
def cl32 (s : State) (p o : Nat) : Nat :=
  let c := cluster s p
  if o = 0 then packBits [(c.st.toNat, 8), (c.logical.toNat, 8), (p / 28, 8), (c.usable.toNat, 5)]
  else if !enabledCl s p then 0
  else if 0x900 ≤ o ∧ o < 0x960 then mbWord (mbox s (2 + p)) (o - 0x900)
  else if o = 0xA00 then packBits [(c.pow.point.toNat, 3),
    (bit (c.pow.point != 0 && (List.range 18).any fun i => (core s (18 * p + i)).bound.isSome), 1), (c.pow.valid.toNat, 8)]
  else if o = 0xA04 then packBits [(c.pow.volt.toNat, 16), (c.pow.share.toNat, 16)]
  else if o = 0xA08 then packBits [(c.pow.power.toNat, 16), (c.pow.current.toNat, 16)]
  else if o = 0xA0C then packBits [(c.pow.minSlack.toNat, 8), (c.pow.vDelta.toNat, 8)]
  else if o = 0xA10 then c.pow.tP.toNat
  else if o = 0xA14 then c.pow.drops.toNat
  else if o = 0xA20 then c.pow.emergency.toNat
  else if o = 0xA24 then packBits [(c.pow.maxStart.toNat, 8), (c.pow.raised.toNat, 9)]
  else if win32 o then (winWord s p o).toNat % 2 ^ 32
  else 0

/-- The 32-bit register word at an aligned offset that is no word of a 64-bit register; reserved offsets read 0 (R19). -/
def val32 (s : State) (o : Nat) : W32 :=
  BitVec.ofNat 32 (
    if o < 0x80000 then low32 s o
    else if o < 0x200000 then mid32 s o
    else if o < 0x270000 then cl32 s ((o - 0x200000) / 0x1000) (o % 0x1000)
    else high32 s o)

/-- Below phase 7 only the identity, enable and error reporting blocks answer (R429). -/
def openBlock (s : State) (o : Nat) : Bool :=
  !below7 s || o < 0x20000 || (0x80000 ≤ o && o < 0xA0000)

/-- What a naturally aligned 32-bit host read returns (R19, R21, R429), locks apart (R414): the word of a 32-bit register,
the present low word of a 64-bit register, or its latched or present high word. A latched high word is returned until the next low-word
read: no row of the table is a high-word read, so none takes it (DESIGN CHOICE, log entry 118). -/
def hostRead32 (s : State) (o : Nat) : W32 :=
  if !openBlock s o then 0
  else match val64 s o with
    | some v => BitVec.ofNat 32 v.toNat
    | none =>
      if 4 ≤ o then
        match val64 s (o - 4) with
        | some v => (look (fun _ => none) s.ident.highLatch (o - 4)).getD (BitVec.ofNat 32 (v.toNat / 2 ^ 32))
        | none => val32 s o
      else val32 s o

end Sys2Proof.Machine
end

