-- ==== Sys2Proof/Machine/Ops.lean ====
section
/-! DEFINITION. The shared operations: one writer per kind of state, window counters, error records and their routing
(R494 to R503), larder writes (R517, R519), completions and interrupts (R386 to R392), the frame owner table and device
memory (R351, R352), and marking a core or cluster failed in service (R36). -/

namespace Sys2Proof.Machine

/-! ### One writer per kind of state -/

/-- Ring `r` replaced. -/
def setRing (s : State) (r : Nat) (g : Ring) : State :=
  { s with host := { s.host with rings := put ringReset s.host.rings r g } }
/-- Mailbox `m` replaced. -/
def setMbox (s : State) (m : Nat) (b : Mailbox) : State :=
  { s with mail := { s.mail with boxes := put (fun _ => {}) s.mail.boxes m b } }
/-- Lock register `k` replaced. -/
def setLock (s : State) (k : Nat) (l : Lock) : State :=
  { s with mail := { s.mail with locks := put (fun _ => {}) s.mail.locks k l } }
/-- Physical cluster `p` replaced. -/
def setCluster (s : State) (p : Nat) (c : Cluster) : State :=
  { s with hw := { s.hw with clusters := put (fun _ => {}) s.hw.clusters p c } }
/-- Physical core `k` replaced. -/
def setCore (s : State) (k : Nat) (c : Core) : State :=
  { s with hw := { s.hw with cores := put (fun _ => {}) s.hw.cores k c } }
/-- Physical engine `e` replaced. -/
def setEngine (s : State) (e : Nat) (g : Engine) : State :=
  { s with hw := { s.hw with engines := put (fun _ => {}) s.hw.engines e g } }
/-- Plane index `n` replaced. -/
def setPlane (s : State) (n : Nat) (p : Plane) : State :=
  { s with hw := { s.hw with planes := put planeReset s.hw.planes n p } }
/-- Binding entry `b` replaced. -/
def setEntry (s : State) (b : Nat) (e : BEntry) : State :=
  { s with ten := { s.ten with entries := put (fun _ => {}) s.ten.entries b e } }
/-- Firmware's data of binding `b` replaced. -/
def setBrun (s : State) (b : Nat) (e : BRun) : State :=
  { s with ten := { s.ten with runs := put (fun _ => {}) s.ten.runs b e } }
/-- Context record `c` replaced. -/
def setCtx (s : State) (c : Nat) (x : Ctx) : State :=
  { s with srv := { s.srv with ctx := put (fun _ => {}) s.srv.ctx c x } }
/-- Firmware's data of context record `c` replaced. -/
def setCtxRun (s : State) (c : Nat) (x : CtxRun) : State :=
  { s with srv := { s.srv with run := put (fun _ => {}) s.srv.run c x } }
/-- Monitor converter `m` replaced. -/
def setConv (s : State) (m : Nat) (c : Conv) : State :=
  { s with mon := { s.mon with conv := put (fun _ => {}) s.mon.conv m c } }
/-- Miotor port `k` replaced. -/
def setPort (s : State) (k : Nat) (p : Port) : State :=
  { s with fab := { s.fab with ports := put (fun _ => {}) s.fab.ports k p } }

/-- Cluster `p` changed by `f`. -/
def modCluster (p : Nat) (f : Cluster → Cluster) (s : State) : State := setCluster s p (f (cluster s p))
/-- Core `k` changed by `f`. -/
def modCore (k : Nat) (f : Core → Core) (s : State) : State := setCore s k (f (core s k))
/-- The clock and the power of cluster `p` restored (R408, R466). -/
def ungate (p : Nat) (s : State) : State :=
  modCluster p (fun c => { c with pow := { c.pow with clkGated := false, gated := false, idle := 0 } }) s
/-- Engine `e` changed by `f`. -/
def modEngine (e : Nat) (f : Engine → Engine) (s : State) : State := setEngine s e (f (engine s e))
/-- Plane `n` changed by `f`. -/
def modPlane (n : Nat) (f : Plane → Plane) (s : State) : State := setPlane s n (f (plane s n))
/-- Binding entry `b` changed by `f`. -/
def modEntry (b : Nat) (f : BEntry → BEntry) (s : State) : State := setEntry s b (f (entry s b))
/-- Firmware's data of binding `b` changed by `f`. -/
def modBrun (b : Nat) (f : BRun → BRun) (s : State) : State := setBrun s b (f (brun s b))
/-- Context record `c` changed by `f`. -/
def modCtx (c : Nat) (f : Ctx → Ctx) (s : State) : State := setCtx s c (f (ctx s c))
/-- Firmware's data of record `c` changed by `f`. -/
def modCtxRun (c : Nat) (f : CtxRun → CtxRun) (s : State) : State := setCtxRun s c (f (ctxRun s c))
/-- Ring `r` changed by `f`. -/
def modRing (r : Nat) (f : Ring → Ring) (s : State) : State := setRing s r (f (ring s r))

/-- The output log with one more entry. -/
def emit (o : Out) (s : State) : State := { s with out := s.out ++ [o] }

/-- One more free value taken (log entry 1). -/
def tickFresh (s : State) : State := { s with fresh := s.fresh + 1 }

/-- A state changed where a condition holds. -/
def when (c : Bool) (f : State → State) (s : State) : State := if c then f s else s

/-- A state changed by each element of a list in turn. -/
def forAll {α : Type} (l : List α) (f : α → State → State) (s : State) : State := l.foldl (fun s a => f a s) s

/-! ### Window counters (Table 19.6) -/

/-- A counter of cluster `p`'s window raised by `n`, wrapping at its width; a cluster that is not enabled counts nothing
(R39, R523). -/
def bump (p off n : Nat) (s : State) : State :=
  if enabledCl s p then
    modCluster p (fun c =>
      let v := look winReset c.win off
      { c with win := put winReset c.win off
                        (if win64.contains off then v + BitVec.ofNat 64 n else BitVec.ofNat 64 ((v.toNat + n) % 2 ^ 32)) }) s
  else s

/-- A word of cluster `p`'s window written by firmware. -/
def setWin (p off : Nat) (v : W64) (s : State) : State :=
  if enabledCl s p then modCluster p (fun c => { c with win := put winReset c.win off v }) s else s

/-- The cluster of physical core `k`. -/
def clOf (k : Nat) : Nat := k / 18
/-- The core of physical engine `e`. -/
def coreOf (e : Nat) : Nat := e / 17
/-- The engine of plane index `n`. -/
def engOf (n : Nat) : Nat := n / 65

/-! ### Larder writes -/

/-- A page write queued behind the page in progress, in priority order and in order of submission within a priority
(R519). -/
def insWrite (w : FlashWrite) : List FlashWrite → List FlashWrite
  | [] => [w]
  | x :: t => if w.prio < x.prio then w :: x :: t else x :: insWrite w t

/-- A page write submitted: the head of the queue is the page in progress. -/
def queueWrite (w : FlashWrite) : List FlashWrite → List FlashWrite
  | [] => [w]
  | x :: t => x :: insWrite w t

/-- A job written to copy A and then to copy B (R509, R514, R519). -/
def submitJob (prio : Nat) (j : FlashJob) (s : State) : State :=
  let q := queueWrite { prio := prio, copyB := false, job := j } s.lar.queue
  { s with lar := { s.lar with queue := queueWrite { prio := prio, copyB := true, job := j } q } }

/-- The counter record as a write of this moment would carry it (R514). -/
def counterNow (s : State) : CounterRec :=
  { s.lar.live with version := s.lar.flash.version + 1, calendar := s.lar.calendar }

/-- A new version of the counter record submitted (R514). -/
def writeCounters (s : State) : State :=
  let r := counterNow s
  submitJob 2 (.counters r) { s with lar := { s.lar with live := r } }

/-- The repair maps submitted, as they stand (R519). -/
def writeRepair (s : State) : State := submitJob 3 (.repair s.lar.repair) s

/-- A journal entry submitted: KIND 0 first (R519). -/
def writeJournal (e : JEntry) (s : State) : State := submitJob (if e.kind = 0 then 0 else 1) (.journal e) s

/-- An event entry under the token budget of R517: `always` for class T events and severity 2 or 3. -/
def logEvent (always : Bool) (r : ErrRec) (s : State) : State :=
  if s.lar.tokens = 0 ∧ always = false then
    { s with lar := { s.lar with suppressed := s.lar.suppressed + 1 } }
  else
    submitJob 4 (.event { er := r, boots := s.lar.live.boots })
      { s with lar := { s.lar with tokens := s.lar.tokens - 1 } }

/-! ### Error records -/

/-- A record whose fields all hold their "none" value (R494, Table 17.1). -/
def errNone : ErrRec :=
  { typ := 0, severity := 0, mgmtOnly := false, coalesced := false, phase := false, loss := false, cper := false, seq := 0,
    beat := 0, time := 0, pos := 0, cluster := 0x7F, core := 0x1F, engine := 0x1F, plane := 0x7F, cls := 0, inst := 0,
    tenant := 0xFFF, layer := 0xFFFF, step := 0xFFFFFFFF, record := 0, wide := false, recordValid := false, temp := 0,
    volt := 0, count := 1, context := 0xFFFFFFFF, d0 := 0, d1 := 0, d2 := 0 }

/-- A record of a type, severity and three detail words. -/
def err (typ sev : Nat) (d0 d1 d2 : Nat) : ErrRec :=
  { errNone with typ := BitVec.ofNat 16 typ, severity := BitVec.ofNat 2 sev, d0 := BitVec.ofNat 32 d0,
                 d1 := BitVec.ofNat 32 d1, d2 := BitVec.ofNat 32 d2 }

/-- The record names a physical cluster. -/
def ErrRec.atCluster (r : ErrRec) (p : Nat) : ErrRec := { r with cluster := BitVec.ofNat 7 p }
/-- The record names a physical core (R494). -/
def ErrRec.atCore (r : ErrRec) (k : Nat) : ErrRec :=
  { r with cluster := BitVec.ofNat 7 (k / 18), core := BitVec.ofNat 5 (k % 18) }
/-- The record names a physical engine. -/
def ErrRec.atEngine (r : ErrRec) (e : Nat) : ErrRec :=
  { r with cluster := BitVec.ofNat 7 (e / 17 / 18), core := BitVec.ofNat 5 (e / 17 % 18), engine := BitVec.ofNat 5 (e % 17) }
/-- The record names a physical plane. -/
def ErrRec.atPlane (r : ErrRec) (n : Nat) : ErrRec :=
  { r.atEngine (n / 65) with plane := BitVec.ofNat 7 (n % 65) }

/-- CLASS by type (Table 17.6); a BAD_ACCESS record and a type the table lacks keep the class given. -/
def errClass (r : ErrRec) : BitVec 7 :=
  let t := r.typ.toNat
  if t = 0x10 ∨ t = 0x20 ∨ t = 0x21 ∨ t = 0x22 ∨ t = 0x32 ∨ t = 0x33 ∨ t = 0x41 then 0
  else if t = 0x11 then 2
  else if t = 0x12 ∨ t = 0x23 ∨ t = 0x24 then 1
  else if t = 0x13 ∨ t = 0x27 ∨ t = 0x28 then 7
  else if t = 0x25 then (if r.d0 = 0 ∨ r.d0 = 1 then 1 else if r.d0 = 3 then 2 else 0)
  else if t = 0x26 ∨ t = 0x30 ∨ t = 0x42 then 3
  else if t = 0x29 ∨ t = 0x2A then 16
  else if t = 0x31 ∨ t = 0x43 ∨ t = 0x50 ∨ t = 0x90 then 4
  else if t = 0x34 ∨ t = 0x35 ∨ t = 0x80 then 12
  else if t = 0x40 then (if r.d0 = 1 then 1 else 0)
  else if t = 0x60 then 15
  else if t = 0x61 then 5
  else if t = 0x62 then 8
  else if t = 0x63 then 14
  else if t = 0x70 ∨ t = 0x71 ∨ t = 0x72 then 9
  else if t = 0x91 then (if r.d0 = 1 then 13 else 11)
  else r.cls

/-- The monitor input of the rail that feeds a unit outside the clusters (Tables 16.1, 17.1); log entry 17. -/
def railOf (r : ErrRec) : Nat :=
  let c := (errClass r).toNat
  if c = 7 then 0x80 + 8 * (r.inst.toNat / 6 % 4) + 4
  else if c = 6 then 0x84
  else if c = 5 ∨ c = 8 ∨ c = 9 ∨ c = 13 ∨ c = 15 then 0xA1
  else 0xA2

/-- The 32-bit word of the register map at an offset, gates apart. -/
def regWord (s : State) (o : Nat) : W32 :=
  match val64 s o with
  | some v => BitVec.ofNat 32 v.toNat
  | none =>
    match (if 4 ≤ o then val64 s (o - 4) else none) with
    | some v => BitVec.ofNat 32 (v.toNat / 2 ^ 32)
    | none => val32 s o

/-- Base and length in words of the register block of a unit outside the clusters (R502; log entry 17). -/
def unitBlock (r : ErrRec) : Nat × Nat :=
  let c := (errClass r).toNat
  if c = 5 ∨ c = 8 then (0x44000, 8)
  else if c = 9 then (0x400000, 21)
  else if c = 10 then (0x100, 3)
  else if c = 11 then (0x10000, 11)
  else if c = 12 then (0xC0000, 12)
  else if c = 13 then (0xE0000, 11)
  else if c = 14 then (0x20000, 24)
  else if c = 15 then (0x40000 + 0x40 * r.inst.toNat, 15)
  else if c = 7 then (0x80000, 17)
  else (0, 0)

/-- Bytes 80 to 255 of a vendor section (R502): the unit's words, zero where shorter. -/
def unitState (s : State) (r : ErrRec) : List Byte :=
  let ws := if (errClass r).toNat ≤ 4 then
      (if r.cluster.toNat < 112 then (List.range 44).map fun i => regWord s (0x200200 + 0x1000 * r.cluster.toNat + 4 * i)
       else [])
    else (List.range (unitBlock r).2).map fun i => regWord s ((unitBlock r).1 + 4 * i)
  (wordsBytes ws ++ List.replicate 176 0).take 176

/-- The failure signature of a record (R502). -/
def cperOf (s : State) (r : ErrRec) : Cper :=
  { fatal := r.severity == 3, time := r.time,
    section_ := leBytes 2 1 ++ leBytes 2 0x9624 ++ leBytes 4 256 ++ List.replicate 8 0 ++ errBytes r ++ unitState s r }

/-- The key of R498: TYPE, the UNIT field (bytes 24 to 31) and TENANT. -/
def sameKey (a b : ErrRec) : Bool :=
  a.typ == b.typ && a.pos == b.pos && a.cluster == b.cluster && a.core == b.core && a.engine == b.engine
  && a.plane == b.plane && a.cls == b.cls && a.inst == b.inst && a.tenant == b.tenant

/-- A waiting record with one more occurrence merged (R495). -/
def mergeErr (old new : ErrRec) : ErrRec :=
  { old with count := if old.count = 0xFFFF then 0xFFFF else old.count + 1, coalesced := true, d0 := new.d0, d1 := new.d1,
             d2 := new.d2, severity := if old.severity.toNat < new.severity.toNat then new.severity else old.severity,
             cper := old.cper || new.cper }

/-- The host queue with a record merged, or none where none is waiting with its key (R498). -/
def mergeHost (r : ErrRec) : List ErrRec → Option (List ErrRec)
  | [] => none
  | q :: t => if sameKey q r then some (mergeErr q r :: t) else (mergeHost r t).map (q :: ·)

/-- The management queue with a record merged into one not yet returned, or none (R498). -/
def mergeMgmt (r : ErrRec) : List MgmtRec → Option (List MgmtRec)
  | [] => none
  | q :: t => if !q.returned && sameKey q.er r then some ({ q with er := mergeErr q.er r } :: t)
              else (mergeMgmt r t).map (q :: ·)

/-- A record entered in the host queue: merged, appended, or dropped and counted (R498). -/
def enterHost (r : ErrRec) (e : ErrState) : ErrState :=
  match mergeHost r e.hostQ with
  | some q => { e with hostQ := q }
  | none =>
    if e.hostQ.length < 512 then { e with hostQ := e.hostQ ++ [r] }
    else { e with hostDropped := e.hostDropped + 1, hostLoss := true }

/-- A record entered in the management queue (R498). -/
def enterMgmt (r : ErrRec) (e : ErrState) : ErrState :=
  match mergeMgmt r e.mgmtQ with
  | some q => { e with mgmtQ := q }
  | none =>
    if e.mgmtQ.length < 512 then { e with mgmtQ := e.mgmtQ ++ [{ er := r, returned := false }] }
    else { e with mgmtDropped := e.mgmtDropped + 1, mgmtLoss := true }

/-- The record as it is raised now (R494, R495, R497): its number, times, position, class, temperature and voltage. -/
def stamp (s : State) (r : ErrRec) : ErrRec :=
  { r with seq := s.err.nextSeq, beat := s.fab.beat, time := s.lar.calendar, pos := s.fab.myPos, cls := errClass r,
           mgmtOnly := below7 s, coalesced := false, phase := false, loss := false, count := 1,
           cper := decide (2 ≤ r.severity.toNat),
           temp := if r.cluster.toNat < 112 then (cluster s r.cluster.toNat).pow.tP else s.pow.tMax,
           volt := if r.cluster.toNat < 112 then (cluster s r.cluster.toNat).pow.volt
                   else look (fun _ => 0) s.pow.rails (railOf r) }

/-- Routing of a stamped record: to the management queue, and in phase 7 to the host queue as well (R497). An occurrence
that merges in either queue counts once in MERGED (log entry 18). -/
def route (r : ErrRec) (s : State) : State :=
  let m := (mergeMgmt r s.err.mgmtQ).isSome || (!below7 s && (mergeHost r s.err.hostQ).isSome)
  let e := { s.err with merged := if m then s.err.merged + 1 else s.err.merged }
  { s with err := enterMgmt r (if below7 s then e else enterHost r e) }

/-- An error record raised (R495 to R503): numbered, counted, given its signature at severity 2 or 3, and routed; without
the event log entry of R501. -/
def raiseOnly (r0 : ErrRec) (s : State) : State :=
  let r := stamp s r0
  let e := { s.err with nextSeq := s.err.nextSeq + 1, raised := s.err.raised + 1, lastSeq := s.err.nextSeq }
  let e := if r.cper then
      { e with slots := put (fun _ => none) e.slots (r.seq.toNat % 16) (some (cperOf s r)), cperCount := e.cperCount + 1 }
    else e
  route r { s with err := e }

/-- An error record raised; severity 2 and 3 are also written to the event log (R501). -/
def raise (r : ErrRec) (s : State) : State :=
  let t := raiseOnly r s
  if 2 ≤ r.severity.toNat then logEvent true (stamp s r) t else t

/-- An event of Table 16.3 raised: TYPE POWER_THERMAL with its row, and the event log entry (R475, R517); `always` for
class T. -/
def raiseEvent (always : Bool) (r : ErrRec) (s : State) : State :=
  logEvent (always || decide (2 ≤ r.severity.toNat)) (stamp s r) (raiseOnly r s)

/-! ### Interrupts and completions -/

/-- MSI-X vector `v` signalled: sent, or pending while its entry is masked (R391). -/
def msix (v : Nat) (s : State) : State :=
  if (msixEntry s v).ctl.toNat % 2 = 1 then
    { s with host := { s.host with pba := put (fun _ => false) s.host.pba v true } }
  else emit (.msix v) s

/-- The entries written and not yet signalled start again on every ring that shares vector `v` (R392). -/
def restartVector (v : Nat) (s : State) : State :=
  forAll (List.range 256) (fun r s =>
    if (ring s r).vector.toNat = v ∧ (ring s r).unsignalled ≠ 0 then modRing r (fun g => { g with unsignalled := 0 }) s
    else s) s

/-- A ring whose unsignalled entries reach CO_COUNT signals its vector (R392). -/
def signalRing (r : Nat) (s : State) : State :=
  let g := ring s r
  if max 1 g.coCount.toNat ≤ g.unsignalled then restartVector g.vector.toNat (msix g.vector.toNat s) else s

/-- Completion entries in use and not yet read by host software. -/
def cqUsed (g : Ring) : Nat := (g.cqTail.toNat + 2 ^ g.cqLog2.toNat - g.cqHead.toNat) % 2 ^ g.cqLog2.toNat

/-- Completion entries free beyond those written: the ring is full one short of its size (log entry 19). -/
def cqFree (g : Ring) : Nat := 2 ^ g.cqLog2.toNat - 1 - cqUsed g

/-- The 32 bytes of a completion entry (Table 12.8). -/
def complBytes (c : Compl) (phase : Bool) (head : W16) : List Byte :=
  leBytes 32 (packBits [(c.tag.toNat, 32), (c.status.toNat, 8), (c.kind.toNat, 8), (c.reason.toNat, 8), (bit phase, 8),
    (c.detail.toNat, 32), (c.record.toNat, 32), (c.count.toNat, 32), (c.length.toNat, 32), (c.binding.toNat, 16),
    (head.toNat, 16), (0, 32)])

/-- The write of a completion entry at a ring's CQ_TAIL (R386). -/
def complOut (r : Nat) (g : Ring) (c : Compl) : Out :=
  .completion r g.cqTail.toNat g.phase g.sqHead c (BitVec.ofNat 64 (g.cqBase.toNat * 4096 + 32 * g.cqTail.toNat))
    (complBytes c g.phase g.sqHead)

/-- A completion entry written at CQ_TAIL (R386). -/
def putCompl (r : Nat) (c : Compl) (s : State) : State :=
  let g := ring s r
  let next := (g.cqTail.toNat + 1) % 2 ^ g.cqLog2.toNat
  let s := emit (complOut r g c) s
  signalRing r (setRing s r { g with cqTail := BitVec.ofNat 16 next, phase := if next = 0 then !g.phase else g.phase,
                                     unsignalled := g.unsignalled + 1 })

/-- A write to host memory that waits for the IDE stream to be re-keyed (R367). -/
def hold (h : HeldOut) (s : State) : State := { s with host := { s.host with held := s.host.held ++ [h] } }

/-- Bytes cut into posted writes of at most 512 bytes, at 512-byte boundaries (R365; log entry 169). -/
def chunks : Nat → W64 → List Byte → List (W64 × List Byte)
  | 0, _, _ => []
  | _, _, [] => []
  | fuel + 1, a, bs =>
    let n := 512 - a.toNat % 512
    (a, bs.take n) :: chunks fuel (a + BitVec.ofNat 64 n) (bs.drop n)

/-- Data written to host memory (R365), held while the IDE stream is broken (R367). -/
def writeHost (addr : W64) (bs : List Byte) (s : State) : State :=
  if s.host.ideHold then hold (.data addr bs) s
  else forAll (chunks (bs.length / 512 + 2) addr bs) (fun x => emit (.hostWrite x.1 x.2)) s

/-- Entries reserved and packets outstanding on a ring lowered (R389). -/
def releaseResv (r resv done : Nat) (s : State) : State :=
  if resv = 0 ∧ done = 0 then s
  else modRing r (fun g => { g with reserved := g.reserved - resv, outstanding := g.outstanding - done }) s

/-- A completion entry due on ring `r` (R386, R389, R390): written; dropped while CQ_ENABLE is 0; progress and notice
entries written only beyond every reservation. -/
def putDue (r : Nat) (c : Compl) (s : State) : State :=
  let g := ring s r
  if !g.cqEnable then
    (if c.kind = 0 then setRing s r { g with cqDropped := true, finals := g.finals + 1 } else s)
  else if (c.kind = 1 ∨ c.kind = 3) ∧ cqFree g ≤ g.reserved then setRing s r { g with notices := g.notices + 1 }
  else putCompl r c s

/-- A completion entry due, with the `resv` reserved entries and the `done` packets that it releases as it is written (R389); held while
the IDE stream is broken (R367). -/
def completeWith (r resv done : Nat) (c : Compl) (s : State) : State :=
  if s.host.ideHold then hold (.entry r resv done c) s else putDue r c (releaseResv r resv done s)

/-- A completion entry due that releases nothing. -/
def complete (r : Nat) (c : Compl) (s : State) : State := completeWith r 0 0 c s

/-- A final completion: `resv` reserved entries are released with it, and the packet is no longer outstanding (R389). -/
def finish (r resv : Nat) (c : Compl) (s : State) : State := completeWith r resv 1 { c with kind := 0 } s

/-- A completion entry with a status and every other field empty. -/
def compl (tag : W32) (status : Nat) : Compl :=
  { tag := tag, status := BitVec.ofNat 8 status, kind := 0, reason := 0, detail := 0, record := 0xFFFFFFFF, count := 0,
    length := 0, binding := 0xFFF }

/-! ### Frames and device memory -/

/-- Owner of a frame (R351). -/
def owner (s : State) (f : Nat) : FrameOwner := if f < s.ten.fwEnd then .firmware else look (fun _ => .nobody) s.ten.owner f

/-- The owner as an error record has it (Table 17.2). -/
def ownerWord : FrameOwner → Nat
  | .nobody => 0xFFF
  | .firmware => 0xFFE
  | .tenant b => b

/-- A frame's owner written (R351). -/
def setOwner (f : Nat) (o : FrameOwner) (s : State) : State :=
  { s with ten := { s.ten with owner := put (fun _ => .nobody) s.ten.owner f o } }

/-- What an unlisted byte of device memory reads as: 0, or in a frame taken over from another key an earlier owner's data as
the present key decrypts them, which is open (R354; log entry 5). -/
def memDefault (keys : SMap (Option FrameKey)) (a : Nat) : Byte :=
  match look (fun _ => none) keys (a / 65536) with
  | some q => (match q.stale with | some k => Config.staleByte k a | none => 0)
  | none => 0

/-- A byte of device memory. -/
def memByte (s : State) (a : Nat) : Byte := look (memDefault s.memKeys) s.mem a

/-- `n` bytes of device memory. -/
def memBytes (s : State) (a n : Nat) : List Byte := lookAll (memDefault s.memKeys) s.mem a n

/-- The canonical form of device memory: addresses strictly rising, and no entry equal to what an unlisted byte reads
as. -/
def Memory.wf (s : State) : Bool := SMapWf (memDefault s.memKeys) s.mem

/-- Bytes written to device memory. -/
def memPut (a : Nat) (bs : List Byte) (s : State) : State := { s with mem := putAll (memDefault s.memKeys) s.mem a bs }

/-- The key of a frame's data set, with every byte of it unwritten. -/
def setFrameKey (f : Nat) (q : FrameKey) (s : State) : State :=
  { s with memKeys := put (fun _ => none) s.memKeys f (some q), mem := s.mem.filter fun x => x.1 / 65536 != f }

/-- A frame comes under the present key of a binding (R353). One that held data under another key reads as those data decrypted
under this one (R354); one of the same binding keeps its data. -/
def keyFrame (f b : Nat) (s : State) : State :=
  let g := look (fun _ => 0) s.ten.keys b
  match look (fun _ => none) s.memKeys f with
  | none => { s with memKeys := put (fun _ => none) s.memKeys f (some { binding := b, gen := g, stale := none }) }
  | some q => if q.binding = b ∧ q.gen = g then s else setFrameKey f { binding := b, gen := g, stale := some s.fresh } s

/-- A frame that firmware has written with zeros, as a new page-table frame is (R230, R231; log entry 117). -/
def clearFrame (f : Nat) (s : State) : State :=
  match look (fun _ => none) s.memKeys f with
  | none => { s with mem := s.mem.filter fun x => x.1 / 65536 != f }
  | some q => setFrameKey f { q with stale := none } s

/-- The stack that holds 256-byte block `b` of frame `n` (R42), numbered over the part as six for each quadrant in turn (DEDUCED,
log entry 129). -/
def stackOf (s : State) (n b : Nat) : Nat := 6 * (n / framesPerBridge s % 4) + (256 * n + b) % 6

/-- `n` bytes of one frame read for binding `b` under the frame owner check: zeros from a frame of another owner (R352). -/
def memOf (s : State) (b a n : Nat) : List Byte := if owner s (a / 65536) = .tenant b then memBytes s a n else List.replicate n 0

/-- The frame owner check failed (R352): counted, and recorded with the frame, both bindings and the stack of the block accessed. -/
def ownerFault (b f blk : Nat) (write : Bool) (r : ErrRec) (s : State) : State :=
  raise { r with typ := 0x13, severity := 1, tenant := BitVec.ofNat 12 b, inst := BitVec.ofNat 8 (stackOf s f blk),
                 d0 := BitVec.ofNat 32 f, d1 := BitVec.ofNat 32 (ownerWord (owner s f)), d2 := if write then 1 else 0 }
    { s with ten := { s.ten with nOwner := s.ten.nOwner + 1 } }

/-- A memory error found by a code (R487): counted, and recorded beside what `r` names; a frame's second uncorrectable read of a start
retires it. -/
def memFault (r : ErrRec) (u : UnitFault) (s : State) : State :=
  let e := s.err
  match u with
  | .memCorrected f b =>
    raise { r with typ := 0x27, severity := 0, inst := BitVec.ofNat 8 (stackOf s f.toNat b.toNat), d0 := f.setWidth 32,
                   d1 := b.setWidth 32, d2 := 0 } { s with err := { e with memCorrected := e.memCorrected + 1 } }
  | .memBad f q =>
    let n := look (fun _ => 0) e.badReads f.toNat + 1
    let r1 := { r with typ := 0x28, severity := 1, inst := BitVec.ofNat 8 (stackOf s f.toNat (q.toNat / 256)),
                       d0 := f.setWidth 32, d1 := q.setWidth 32, d2 := if n = 2 then 1 else 0 }
    raise r1 { s with err := { e with
      memUncorrected := e.memUncorrected + 1, badReads := put (fun _ => 0) e.badReads f.toNat n,
      retired := if n = 2 then e.retired ++ [f.toNat] else e.retired,
      framesRetired := if n = 2 then e.framesRetired + 1 else e.framesRetired } }
  | .sramCorrected c a =>
    raise { r with typ := 0x2A, severity := 0, d0 := if c then 1 else 0, d1 := a, d2 := 0 }
      { s with err := { e with memCorrected := e.memCorrected + 1 } }
  | .sramBad c a =>
    raise { r with typ := 0x29, severity := 1, d0 := if c then 1 else 0, d1 := a, d2 := 0 }
      { s with err := { e with memUncorrected := e.memUncorrected + 1 } }
  | .datapath _ _ | .ctxBad _ => s

/-- The lowest free frame at or above a starting place of quadrant `q`, that quadrant first and then the others; the
starting place is free (log entry 6). -/
def pickFrame (s : State) (q : Nat) : Option Nat :=
  let n := framesPerBridge s
  let inQuad (q : Nat) : Option Nat :=
    let a := gapFrom (max s.ten.fwEnd (q * n + Config.framePick s.fresh % n)) s.ten.owner
    if a < (q + 1) * n then some a
    else
      let b := gapFrom (max s.ten.fwEnd (q * n)) s.ten.owner
      if b < (q + 1) * n then some b else none
  (inQuad (q % 4)).orElse fun _ => (inQuad ((q + 1) % 4)).orElse fun _ => (inQuad ((q + 2) % 4)).orElse fun _ =>
    inQuad ((q + 3) % 4)

/-- A frame returned to the free pool; a retired one leaves it (R351, R487). A frame of a reserved binding's page quota
was held back and stays so (R357). -/
def returnFrame (b : Nat) (paged : Bool) (f : Nat) (s : State) : State :=
  let s1 := if paged then modEntry b (fun e => { e with pageUsed := e.pageUsed - 1 }) s else s
  if s.err.retired.contains f then setOwner f .firmware s1
  else
    let s2 := setOwner f .nobody s1
    if paged ∧ (entry s b).reserved then s2 else { s2 with ten := { s2.ten with free := s2.ten.free + 1 } }

/-- A frame allocated to binding `b` in quadrant `q` (R351): `paged` frames are charged against PAGE_QUOTA (R232, R357). -/
def allocFrame (b q : Nat) (paged : Bool) (s : State) : Option (Nat × State) :=
  let e := entry s b
  if paged ∧ e.pageQuota.toNat ≤ e.pageUsed.toNat then none
  else if !(paged && e.reserved) && s.ten.free = 0 then none
  else
    match pickFrame s q with
    | none => none
    | some f =>
      let s1 := tickFresh (keyFrame f b (setOwner f (.tenant b) s))
      let s2 := if paged then modEntry b (fun e => { e with pageUsed := e.pageUsed + 1 }) s1 else s1
      some (f, if paged && e.reserved then s2 else { s2 with ten := { s2.ten with free := s2.ten.free - 1 } })

/-- `n` frames allocated one after another, newest last, or none. -/
def allocFrames (b q : Nat) (paged : Bool) : Nat → List Nat → State → Option (List Nat × State)
  | 0, fs, s => some (fs, s)
  | n + 1, fs, s =>
    match allocFrame b q paged s with
    | none => none
    | some (f, s1) => allocFrames b q paged n (fs ++ [f]) s1

/-! ### Cores, clusters and engines -/

/-- The physical cluster with a logical index, if one has it (R32, R36). -/
def physCluster (s : State) (l : Nat) : Option Nat :=
  (List.range 112).find? fun p => (cluster s p).logical.toNat = l && ((cluster s p).st == 0 || (cluster s p).st == 3)

/-- The physical core with a logical cluster and core index, if one has it. -/
def physCore (s : State) (lc l : Nat) : Option Nat :=
  match physCluster s lc with
  | none => none
  | some p => ((List.range 18).find? fun i => (core s (18 * p + i)).logical.toNat = l).map (18 * p + ·)

/-- The physical engine that a logical engine index of a core selects: the core's maps of R87, substitution included. -/
def physEngine (s : State) (k l : Nat) : Option Nat :=
  let c := core s k
  if c.subLog.toNat = l then some (17 * k + c.subPhys.toNat)
  else
    let used := (List.range 17).filter fun i => bitOf c.inUse.toNat i && !(c.subLog.toNat ≠ 0x1F && c.subPhys.toNat = i)
    -- the failed engine keeps its place in the numbering of R32
    (used[if c.subLog.toNat ≠ 0x1F ∧ c.subLog.toNat < l then l - 1 else l]?).map (17 * k + ·)

/-- The physical core of plan core `i` of a binding (R331). -/
def planCore (s : State) (b i : Nat) : Option Nat :=
  match (brun s b).coreMap[i]? with
  | none => none
  | some w => physCore s (w % 128) (w / 128 % 16)

/-- The physical cores of a binding's map, in plan order. -/
def mapCores (s : State) (b : Nat) : List Nat :=
  (List.range (brun s b).coreMap.length).filterMap (planCore s b)

/-- The cores a binding holds. -/
def heldBy (s : State) (b : Nat) : List Nat :=
  (mapCores s b).filter fun k => match (core s k).bound with | some (x, _) => x == b | none => false

/-- The binding that holds core `k`, if one does. -/
def boundOf (s : State) (k : Nat) : Option Nat := (core s k).bound.map (·.1)

/-- Listed binding indices whose entries are not EMPTY. -/
def liveBindings (s : State) : List Nat := (s.ten.entries.filter fun p => p.2.st != 0).map (·.1)

/-- The home cluster of a binding: that of plan core 0 (R241). -/
def homeCluster (s : State) (b : Nat) : Nat := ((planCore s b 0).getD 0) / 18

/-- A binding ends as FAILED: it runs nothing and holds no core (Table 11.2). -/
def failBinding (b : Nat) (s : State) : State :=
  forAll (heldBy s b) (fun k => modCore k fun c => { c with bound := none })
    (modEntry b (fun e => { e with st := 6 }) s)

/-- Every ENABLED binding whose map names a failed core becomes FAILED (Table 11.3). -/
def failBindingsOn (bad : Nat → Bool) (s : State) : State :=
  forAll (liveBindings s) (fun b s =>
    if (entry s b).st = 3 ∧ (mapCores s b).any bad then failBinding b s else s) s

/-- Cores of an enabled cluster that take tests and calibrations: usable and not failed. -/
def liveCores (s : State) (p : Nat) : List Nat :=
  ((List.range 18).map (18 * p + ·)).filter fun k => (core s k).usable && !(core s k).failed && (core s k).logical != 0x1F

/-- In-use engines of a cluster's cores that are not failed in service (R447). -/
def liveEngines (s : State) (p : Nat) : List Nat :=
  (liveCores s p).flatMap fun k => ((List.range 17).filter fun e => bitOf (core s k).inUse.toNat e).map (17 * k + ·)

/-- The engines of a cluster's calibration run that have had no calibration accepted or rejected. -/
def calLeft (s : State) (p : Nat) : List Nat := (liveEngines s p).filter fun e => !(cluster s p).cal.done.contains e

/-- A calibration run in progress judged (R456): ENGINES_LEFT, and its completion when every engine that it covers is done. -/
def calJudge (p : Nat) (s : State) : State :=
  if !(cluster s p).cal.running then s
  else
    let left := (calLeft s p).length
    modCluster p (fun c => { c with cal :=
      if left == 0 then
        { c.cal with left := 0, running := false, done := [], runs := c.cal.runs + 1, lastTime := s.lar.calendar, lastBeat := s.fab.beat }
      else { c.cal with left := BitVec.ofNat 9 left } }) s

/-- A core marked failed in service (R36): a calibration run no longer covers its engines (R447, R456), its index stays, the replacement
selection goes to the repair map, and the record carries the cause of Table 17.2. -/
def failCore (k cause : Nat) (s : State) : State :=
  if (core s k).failed then s
  else
    calJudge (clOf k) <| raise ((err 0x42 2 cause 0 0).atCore k)
      (writeRepair
        (failBindingsOn (· == k)
          (let s1 := modCore k (fun c => { c with failed := true }) s
           { s1 with
             ident := { s1.ident with coresFailed := s1.ident.coresFailed + 1 },
             lar := { s1.lar with repair := { s1.lar.repair with
               coreBad := put (fun _ => false) s1.lar.repair.coreBad k true } } })))

/-- The offset lies in the window or the calibration status of physical cluster `p` (R523). -/
def inCluster (p o : Nat) : Bool :=
  decide (0x200000 + 0x1000 * p ≤ o ∧ o < 0x200000 + 0x1000 * (p + 1)) || decide (0x500000 + 0x20 * p ≤ o ∧ o < 0x500000 + 0x20 * (p + 1))

/-- A cluster marked failed in service (R36, R523): its window clears, words latched from it with it (R21, R39), and its failed cores
leave the count of Table 19.3. -/
def failCluster (p cause : Nat) (s : State) : State :=
  if (cluster s p).st ≠ 0 then s
  else
    let inside := ((List.range 18).filter fun i => (core s (18 * p + i)).failed).length
    let s1 := raise ((err 0x43 2 cause 0 0).atCluster p) s
    let s2 := failBindingsOn (fun k => k / 18 == p) s1
    let s3 := forAll (List.range 18) (fun i => modCore (18 * p + i) fun c => { c with failed := true }) s2
    let s4 := modCluster p (fun c => { c with st := 3, win := [], cal := {}, pow := { c.pow with clkGated := true } }) s3
    writeRepair
      { s4 with
        ident := { s4.ident with clustersFailed := s4.ident.clustersFailed + 1,
                                 highLatch := s4.ident.highLatch.filter fun x => !inCluster p x.1,
                                 lowLatch := s4.ident.lowLatch.filter fun x => !inCluster p x.1,
                                 coresFailed := s4.ident.coresFailed - BitVec.ofNat 11 inside },
        lar := { s4.lar with repair := { s4.lar.repair with
          clRetired := put (fun _ => false) s4.lar.repair.clRetired p true } } }

end Sys2Proof.Machine
end

