-- ==== Sys2Proof/Machine/PlanImage.lean ====
section
/-! DEFINITION. The plan image (R176 to R178, R199, R226, R269, R309), the op record's fields (Table 6.4), and the checks of
binding enable on the image and its records (Tables 6.7, 8.1, 8.2, 9.5). -/

namespace Sys2Proof.Machine

/-! ### Fields -/

/-- OPCODE of a record. -/
def rOp (x : Nat) : Nat := fld x 0 8
/-- FLAGS. -/
def rFlags (x : Nat) : Nat := fld x 8 8
/-- LAYER. -/
def rLayer (x : Nat) : Nat := fld x 16 16
/-- BEAT. -/
def rBeat (x : Nat) : Nat := fld x 32 24
/-- SLOT: the pass slot. -/
def rSlot (x : Nat) : Nat := fld x 56 4
/-- ENGINE. -/
def rEngine (x : Nat) : Nat := fld x 60 4
/-- TILE_A. -/
def rTileA (x : Nat) : Nat := fld x 64 5
/-- CNT_A. -/
def rCntA (x : Nat) : Nat := fld x 69 5
/-- TILE_B. -/
def rTileB (x : Nat) : Nat := fld x 74 5
/-- CNT_B. -/
def rCntB (x : Nat) : Nat := fld x 79 5
/-- TILE_D. -/
def rTileD (x : Nat) : Nat := fld x 84 5
/-- CNT_D. -/
def rCntD (x : Nat) : Nat := fld x 89 5
/-- PLANE: the tenant plane number. -/
def rPlane (x : Nat) : Nat := fld x 96 6
/-- RSHIFT. -/
def rShift (x : Nat) : Nat := fld x 102 3
/-- ROW_BLOCK. -/
def rRow (x : Nat) : Nat := fld x 105 8
/-- COL_BLOCK. -/
def rCol (x : Nat) : Nat := fld x 113 12
/-- OPND_A. -/
def rOpA (x : Nat) : Nat := fld x 128 32
/-- OPND_B. -/
def rOpB (x : Nat) : Nat := fld x 160 32
/-- IMM. -/
def rImm (x : Nat) : Nat := fld x 192 16
/-- LEN. -/
def rLen (x : Nat) : Nat := fld x 208 16
/-- SEQ_MASK. -/
def rMask (x : Nat) : Nat := fld x 224 4
/-- RSEQ. -/
def rSeq (x : Nat) : Nat := fld x 240 16

/-- The sequence slots a record serves, ascending. -/
def maskSlots (x : Nat) : List Nat := (List.range 4).filter fun i => bitOf (rMask x) i
/-- The one slot of a record that serves one. -/
def oneSlot (x : Nat) : Nat := (maskSlots x).headD 0

/-- Bits lo .. lo + n - 1 as a mask. -/
def maskAt (lo n : Nat) : Nat := (2 ^ n - 1) * 2 ^ lo

/-- The bits that an opcode uses (Table 6.6); the others are reserved (R179). -/
def recordBits (op imm : Nat) : Nat :=
  let layer := maskAt 16 16
  let ta := maskAt 64 10
  let tb := maskAt 74 10
  let td := maskAt 84 10
  let rb := maskAt 105 8
  let cb := maskAt 113 12
  let oa := maskAt 128 32
  let ob := maskAt 160 32
  let len := maskAt 208 16
  let seq := maskAt 224 4
  let im := maskAt 192
  let fl := maskAt 8
  let act := imm % 16
  maskAt 0 8 + maskAt 32 24 + maskAt 240 16 +
  (if op = 0x00 ∨ op = 0x02 then 0
   else if op = 0x01 then layer
   else if op = 0x03 then oa + im 4 + seq
   else if op = 0x04 then len + fl 4
   else if op = 0x10 then layer + rb + oa + im 16 + seq + fl 1
   else if op = 0x11 then layer + maskAt 56 8 + maskAt 96 9 + rb + cb + im 16 + seq + fl 4
   else if op = 0x20 then layer + cb + oa + im 16 + seq
   else if op = 0x30 then layer + cb + ob + im 16 + fl 2
   else if op = 0x31 then layer + cb + oa + ob + im 16 + fl 1
   else if op = 0x32 then layer + oa + ob + len + fl 2
   else if op = 0x40 then
     ta + tb + td + oa + ob + len + im 4 +
     (if act = 5 ∨ act = 6 then layer + cb
      else if act = 7 then layer + seq + maskAt 200 8 + fl 1 else 0)
   else if op = 0x41 then ta + oa + len + td + im 6
   else if op = 0x50 then ta + tb + td + im 9 + fl 1
   else if op = 0x51 then ta + td + seq
   else if op = 0x52 then ta + tb + td + im 9
   else if op = 0x53 then ta + ob + len
   else if op = 0x54 then layer + ta + ob + td + im 9 + len
   else if op = 0x60 then layer + seq + len
   else if op = 0x61 then td + oa + len + seq
   else if op = 0x62 then layer + oa + seq
   else if op = 0x70 ∨ op = 0x71 ∨ op = 0x72 then oa + ob + len
   else 0)

/-- The opcodes of Table 6.6. -/
def opcodes : List Nat :=
  [0, 1, 2, 3, 4, 0x10, 0x11, 0x20, 0x30, 0x31, 0x32, 0x40, 0x41, 0x50, 0x51, 0x52, 0x53, 0x54, 0x60, 0x61, 0x62, 0x70, 0x71, 0x72]

/-- Every bit outside the used ones is zero, and the nibble code 3 is reserved (Table 6.6). -/
def recordClean (x : Nat) : Bool :=
  Nat.land x (recordBits (rOp x) (rImm x)) == x && !(rOp x == 0x11 && fld (rFlags x) 1 2 == 3)

/-! ### The image -/

/-- CORES of a plan image (Table 6.2). -/
def plCores (p : List Byte) : Nat := leAt p 6 2
/-- LAYERS. -/
def plLayers (p : List Byte) : Nat := leAt p 8 4
/-- PERIOD. -/
def plPeriod (p : List Byte) : Nat := leAt p 12 4
/-- LT_OFF. -/
def plLt (p : List Byte) : Nat := leAt p 16 4
/-- RD_OFF. -/
def plRd (p : List Byte) : Nat := leAt p 20 4
/-- PD_OFF. -/
def plPd (p : List Byte) : Nat := leAt p 24 4
/-- WD_OFF. -/
def plWd (p : List Byte) : Nat := leAt p 28 4
/-- PLAN_ID. -/
def plId (p : List Byte) : W64 := BitVec.ofNat 64 (leAt p 40 8)

/-- A field of layer entry `l` (Table 6.3): byte offset and length. -/
def lyr (p : List Byte) (l o n : Nat) : Nat := leAt p (plLt p + 64 * l + o) n
/-- W of a layer. -/
def lyW (p : List Byte) (l : Nat) : Nat := lyr p l 0 4
/-- N of a layer. -/
def lyN (p : List Byte) (l : Nat) : Nat := lyr p l 4 4
/-- The replay allowance a. -/
def lyA (p : List Byte) (l : Nat) : Nat := lyr p l 15 1 % 4
/-- CARRY. -/
def lyCarry (p : List Byte) (l : Nat) : Bool := bitOf (lyr p l 15 1) 2
/-- The layer is an attention layer. -/
def lyAttn (p : List Byte) (l : Nat) : Bool := bitOf (lyr p l 15 1) 3
/-- Key-value format: 0 E4M3, 1 E5M2, 2 4-bit. -/
def lyKv (p : List Byte) (l : Nat) : Nat := fld (lyr p l 15 1) 4 2
/-- KV_CARRY. -/
def lyKvCarry (p : List Byte) (l : Nat) : Bool := bitOf (lyr p l 15 1) 6
/-- B. -/
def lyB (p : List Byte) (l : Nat) : Nat := lyr p l 16 2
/-- P, the replay span. -/
def lySpan (p : List Byte) (l : Nat) : Nat := lyr p l 18 2
/-- HEAD. -/
def lyHead (p : List Byte) (l : Nat) : Nat := lyr p l 30 2 % 512

/-- PARTS (Table 10.3): the fabric block follows the serving block at the start of parameter data. -/
def plPartsOf (p : List Byte) : Nat := leAt p (plPd p + 64) 2

/-- An absent pointer (R178). -/
def absent : Nat := 0xFFFFFFFF

/-- The named channels of a layer (R105). -/
def lyNamed (p : List Byte) (l : Nat) : List Nat :=
  if lyr p l 24 4 = absent then [] else (List.range (lyr p l 28 2)).map fun i => leAt p (lyr p l 24 4 + 4 * i) 4

/-- A parameter-data value: the byte offset from a layer's pointer, which counts from the start of the image (R176). -/
def param (p : List Byte) (ptr o n : Nat) : Nat := leAt p (ptr + o) n

/-- A field of a layer's attention descriptor (Table 8.1). -/
def attn (p : List Byte) (l o n : Nat) : Nat := param p (lyr p l 52 4) o n
/-- HQ. -/
def atHq (p : List Byte) (l : Nat) : Nat := attn p l 0 2
/-- HKV. -/
def atHkv (p : List Byte) (l : Nat) : Nat := attn p l 2 2
/-- DH. -/
def atDh (p : List Byte) (l : Nat) : Nat := attn p l 4 2
/-- T, tokens per page. -/
def atT (p : List Byte) (l : Nat) : Nat := 2 ^ attn p l 6 1
/-- G, heads per page. -/
def atG (p : List Byte) (l : Nat) : Nat := attn p l 7 1
/-- QFMT. -/
def atQf (p : List Byte) (l : Nat) : Nat := attn p l 8 1
/-- S, the split width. -/
def atS (p : List Byte) (l : Nat) : Nat := attn p l 10 2
/-- WINDOW. -/
def atWindow (p : List Byte) (l : Nat) : Nat := attn p l 12 4
/-- Ring members. -/
def atRing (p : List Byte) (l : Nat) : Nat := attn p l 25 1
/-- PART. -/
def atPart (p : List Byte) (l : Nat) : Nat := attn p l 30 2

/-- The attention layers of a plan, ascending. -/
def attnLayers (p : List Byte) : List Nat := (List.range (plLayers p)).filter (lyAttn p)

/-- The stream base B_a of an attention layer (R228). -/
def streamBase (p : List Byte) (l : Nat) : Nat :=
  ((attnLayers p).filter (· < l)).foldl (fun a i => a + atHkv p i / max 1 (atG p i)) 0

/-- The ring-offset field of the chain order key for a plan part (R309). -/
def ringOffset (p : List Byte) (l o : Nat) : Nat := (o + plPartsOf p - lyHead p l) % max 1 (plPartsOf p)

/-- The streams of a plan (R228): (stream, layer, head set), ascending. -/
def streams (p : List Byte) : List (Nat × Nat × Nat) :=
  (attnLayers p).flatMap fun l =>
    (List.range (atHkv p l / max 1 (atG p l))).map fun h => (streamBase p l + h, l, h)

/-- A field of the serving block (Table 9.5). -/
def srvBlk (p : List Byte) (o n : Nat) : Nat := leAt p (plPd p + o) n
/-- VEC. -/
def plVec (p : List Byte) : Nat := srvBlk p 0 1
/-- K_MAX. -/
def plKmax (p : List Byte) : Nat := srvBlk p 1 1
/-- ROLE. -/
def plRole (p : List Byte) : Nat := srvBlk p 2 1
/-- REARM. -/
def plRearm (p : List Byte) : Nat := srvBlk p 4 2
/-- PEER_PLAN. -/
def plPeer (p : List Byte) : Nat := srvBlk p 8 8
/-- VOCAB. -/
def plVocab (p : List Byte) : Nat := srvBlk p 16 4
/-- PARTS (Table 10.3). -/
def plParts (p : List Byte) : Nat := plPartsOf p
/-- HOPS_MAX. -/
def plHops (p : List Byte) : Nat := srvBlk p 66 1
/-- BOND_MIN. -/
def plBond (p : List Byte) : Nat := srvBlk p 67 1

/-- Record count of a core's variant (R177). -/
def recCount (p : List Byte) (c : Nat) (wide : Bool) : Nat := leAt p (plRd p + 16 * c + (if wide then 12 else 4)) 4
/-- Record offset of a core's variant. -/
def recOff (p : List Byte) (c : Nat) (wide : Bool) : Nat := leAt p (plRd p + 16 * c + (if wide then 8 else 0)) 4
/-- Record `i` of a core's variant, as one number. -/
def recAt (p : List Byte) (c : Nat) (wide : Bool) (i : Nat) : Nat := leAt p (recOff p c wide + 32 * i) 32
/-- All records of a core's variant. -/
def recsOf (p : List Byte) (c : Nat) (wide : Bool) : List Nat := (List.range (recCount p c wide)).map (recAt p c wide)

/-- Blocks of the weight data section (R199). -/
def plBlocks (p : List Byte) : Nat := leAt p (plWd p) 4
/-- STATS_OFF. -/
def plStats (p : List Byte) : Nat := leAt p (plWd p + 4) 4

/-- A block entry (Table 7.4). -/
structure Block where
  layer   : Nat
  kind    : Nat
  shadow  : Bool
  core    : Nat
  engine  : Nat
  sEngine : Nat
  plane   : Nat
  sPlane  : Nat
  row     : Nat
  col     : Nat
  off     : Nat
  rsvd    : Nat
  deriving DecidableEq, Repr

/-- Block entry `i`. -/
def blockAt (p : List Byte) (i : Nat) : Block :=
  let x := leAt p (plWd p + 16 + 16 * i) 16
  { layer := fld x 0 16, kind := fld x 16 8, shadow := bitOf x 24, core := fld x 32 11, engine := fld x 48 4,
    sEngine := fld x 52 4, plane := fld x 56 6, sPlane := fld x 64 6, row := fld x 72 8, col := fld x 80 12,
    off := fld x 96 32, rsvd := fld x 25 7 + fld x 43 5 + fld x 62 2 + fld x 70 2 + fld x 92 4 }

/-- All block entries in order. -/
def blocks (p : List Byte) : List Block := (List.range (plBlocks p)).map (blockAt p)

/-- The bytes of a block's data. -/
def blockLen (p : List Byte) (b : Block) : Nat :=
  if b.kind = 0 then 32768
  else if b.kind = 1 then lyW p b.layer * lyN p b.layer
  else if b.kind = 2 then 2 * lyr p b.layer 28 2 + lyr p b.layer 28 2 * lyN p b.layer
  else 16 + leAt p b.off 4 * leAt p (b.off + 4) 4

/-- The data of a block. -/
def blockData (p : List Byte) (b : Block) : List Byte := (p.drop b.off).take (blockLen p b)

/-- The embedding table's block, if the plan has one (R548). -/
def embBlock (p : List Byte) : Option Block := (blocks p).find? (·.kind == 3)

/-- The order key of a block entry: LAYER, KIND, PLAN_CORE, ROW_BLOCK, COL_BLOCK (R199). -/
def blockKey (b : Block) : Nat := (((b.layer * 256 + b.kind) * 2048 + b.core) * 256 + b.row) * 4096 + b.col

/-- A refusal: reason and detail word. -/
abbrev Refuse := Nat × Nat

/-- The detail word of a malformed plan (R190). -/
def malformed (check rec core : Nat) (wide : Bool) : Refuse :=
  (0x20, rec % 2 ^ 14 + bit wide * 2 ^ 14 + core * 2 ^ 15 + check * 2 ^ 26)

/-- A failure of the image as a whole. -/
def whole (check : Nat) : Refuse := malformed check 0x3FFF 0 false

/-- The start of the recipes section: the lowest recipe offset, 0 where no variant holds a record. -/
def recipesOff (p : List Byte) : Nat :=
  let os := (List.range (plCores p)).flatMap fun c => ([false, true].filter fun w => recCount p c w != 0).map (recOff p c)
  os.foldl min (os.headD 0)

/-- The header checks of R176 in their order. -/
def checkHeader (p : List Byte) (len : Nat) : Option Refuse :=
  let n := p.length
  if leAt p 0 4 ≠ 0x5350414E then some (whole 0)
  else if leAt p 32 4 ≠ len ∨ len < 64 ∨ n ≠ len then some (whole 0)
  else if (crc32 (p.take 36 ++ [0, 0, 0, 0] ++ p.drop 40)).toNat ≠ leAt p 36 4 then some (whole 0)
  else if leAt p 4 2 ≠ 1 then some (0x21, leAt p 4 2 + 0xFFFF * 2 ^ 16)
  else if plCores p = 0 ∨ 1536 < plCores p ∨ plLayers p = 0 ∨ 65535 < plLayers p ∨ plPeriod p = 0 ∨ 8388608 < plPeriod p
      ∨ leAt p 48 16 ≠ 0 ∨ plLt p % 64 ≠ 0 ∨ plRd p % 64 ≠ 0 ∨ plPd p % 64 ≠ 0 ∨ plWd p % 64 ≠ 0
      ∨ plLt p < 64 ∨ plRd p < plLt p + 64 * plLayers p ∨ plPd p < plRd p + 16 * plCores p ∨ plWd p < plPd p + 128
      ∨ n < plWd p + 16 ∨ n < plWd p + 16 + 16 * plBlocks p
      ∨ recipesOff p % 64 ≠ 0
      ∨ (List.range (plCores p)).any (fun c => [false, true].any fun w =>
          recCount p c w ≠ 0 && (recOff p c w < plRd p + 16 * plCores p || plPd p < recOff p c w + 32 * recCount p c w))
  then some (whole 0)
  else none

/-- Adjacent block entries rise strictly (R199). -/
def ascending : List Nat → Bool
  | a :: b :: t => a < b && ascending (b :: t)
  | _ => true

/-- The layout of the weight data section: order, kinds and reserved fields (R199, check 0). A kind 0 block whose PLAN_CORE is at or
above CORES fails it too: the spec names no check for that (DESIGN CHOICE, log entry 160). -/
def checkBlocks (p : List Byte) : Option Refuse :=
  let bs := blocks p
  let clean (b : Block) : Bool :=
    b.rsvd == 0 && b.kind ≤ 3
    && (if b.kind = 0 then (if b.shadow then b.sEngine ≠ b.engine else b.sEngine = 0 ∧ b.sPlane = 0) && b.core < plCores p
        else !b.shadow && b.core == 0 && b.engine == 0 && b.sEngine == 0 && b.plane == 0 && b.sPlane == 0 && b.row == 0 && b.col == 0)
  if leAt p (plWd p + 8) 8 ≠ 0 ∨ !bs.all clean then some (whole 0)
  else if !ascending ((bs.filter fun b => b.kind ≤ 1).map blockKey) ∨ !(List.range (bs.length - 1)).all (fun i =>
      decide (blockKey (blockAt p i) ≤ blockKey (blockAt p (i + 1)))) then some (whole 0)
  else none

/-- FP16 lies between two encodings of positive values. -/
def f16In (x lo hi : Nat) : Bool := lo ≤ x && x ≤ hi

/-- A parameter pointer is absent or 4-aligned with its data inside parameter data (R178). -/
def ptrOk (p : List Byte) (ptr n : Nat) : Bool :=
  ptr == absent || (ptr % 4 == 0 && plPd p ≤ ptr && ptr + n ≤ plWd p)

/-- Bytes of a page's used part (R229). -/
def pageUsed (p : List Byte) (l : Nat) : Nat :=
  let eb := if lyKv p l = 2 then atDh p l / 2 else atDh p l
  2 * atG p l * atT p l * (eb + (if lyKv p l = 2 then atDh p l / 16 else 0))

/-- D of an attention descriptor's TILE (R182). -/
def tileD (p : List Byte) (l : Nat) : Nat := 32 * 2 ^ fld (attn p l 24 1) 4 2

/-- The descriptor of an attention layer is in the ranges and relations of Tables 8.1, 8.2 and 8.6 and R254, R255 (R226). -/
def attnOk (p : List Byte) (l : Nat) : Bool :=
  let ptr := lyr p l 52 4
  let hq := atHq p l
  let hkv := atHkv p l
  let dh := atDh p l
  let g := atG p l
  let part := atPart p l
  let s := atS p l
  let split := attn p l 9 1
  let tau := attn p l 16 4
  let tl := attn p l 24 1
  let kv := lyKv p l
  ptr != absent && ptr % 4 == 0 && plPd p ≤ ptr && ptr + 32 ≤ plWd p
  && 1 ≤ hq && hq ≤ 1024 && 1 ≤ hkv && hkv ≤ hq && hq % hkv == 0
  && 32 ≤ dh && dh ≤ 256 && dh % 32 == 0 && 3 ≤ attn p l 6 1 && attn p l 6 1 ≤ 8
  && 1 ≤ g && g ≤ 16 && hkv % g == 0 && atQf p l ≤ 2
  && (if kv = 2 then atQf p l != 0 else atQf p l == 0) && pageUsed p l ≤ 65536
  && split ≤ 1 && (if split = 0 then s == 1 else 2 ≤ s && s ≤ 1536)
  && atWindow p l ≤ 4194304 && finiteF f32 tau && !negOf f32 tau && !zeroF f32 tau
  && 1 ≤ attn p l 20 4 && attn p l 20 4 ≤ 4194304
  && fld tl 0 2 ≤ 1 && fld tl 2 2 ≤ 1 && fld tl 6 2 == 0 && dh % tileD p l == 0
  && (atRing p l == 0 || (2 ≤ atRing p l && atRing p l ≤ 64)) && attn p l 26 1 ≤ 1 && attn p l 27 1 == 0
  && attn p l 28 2 < 512 && 1 ≤ part && part ≤ 1536
  && (if part ≤ 8 then split == 0 else if 64 ≤ part then split == 1 else true)
  && (if split = 0 then hkv % part == 0 || (part % hkv == 0 && hq % part == 0)
      else part % s == 0 && (hq * s) % part == 0 && 0 < hq * s / part && (hq / hkv) % (hq * s / part) == 0)
  && streamBase p l + hkv / g ≤ 8192

/-- The ACT records of a plan that name a layer with a function code (R547). -/
def actsOf (p : List Byte) (l fn : Nat) : List Nat :=
  (List.range (plCores p)).flatMap fun c => [false, true].flatMap fun w =>
    (recsOf p c w).filter fun x => rOp x == 0x40 && rImm x % 16 == fn && rLayer x == l

/-- Bytes of norm parameters: γ for every output, and β where a LayerNorm record reads it (R547). -/
def normBytes (p : List Byte) (l : Nat) : Nat := if (actsOf p l 6).isEmpty then 4 * lyN p l else 8 * lyN p l

/-- Bytes of rotary fractions: one for each pair that a rotary record or the layer's heads rotate (R102, R547). -/
def ropeBytes (p : List Byte) (l : Nat) : Nat :=
  (actsOf p l 7).foldl (fun a x => max a (8 * (rLen x / 2)))
    (if lyAttn p l ∧ lyr p l 52 4 ≠ absent then 8 * (attn p l 4 2 / 2) else 0)

/-- The blocks of a layer agree with its entry (R199). -/
def layerBlocks (p : List Byte) (l : Nat) : Bool :=
  let bs := (blocks p).filter fun b => b.layer == l && b.kind != 3
  let k (i : Nat) : Nat := (bs.filter fun b => b.kind == i).length
  (if lyr p l 28 2 = 0 then k 2 == 0 else k 2 == 1) && !(0 < k 0 && 0 < k 1)
  && bs.all fun b => decide (b.off + blockLen p b ≤ p.length)

/-- A layer entry is in the ranges of Table 4.1, with pointers that obey R178, an outlier list that obeys R105, an ε that obeys
R103 where the layer has norm parameters, and overflow blocks as R224 has them (R122, R226): check 7. A key-value format is accepted on
a layer that is no attention layer (DESIGN CHOICE, log entry 126). -/
def layerOk (p : List Byte) (l : Nat) : Bool :=
  let w := lyW p l
  let n := lyN p l
  let fl := lyr p l 15 1
  let k (i : Nat) : Nat := ((blocks p).filter fun b => b.layer == l && b.kind == i).length
  let named := lyNamed p l
  let outl := lyr p l 28 2
  w % 32 == 0
  && f16In (lyr p l 8 2) 0x3C00 0x4400 && f16In (lyr p l 10 2) 0x0001 0x3C00
  && fld fl 4 2 != 3 && !bitOf fl 7 && (!bitOf fl 6 || fld fl 4 2 == 2) && 1 ≤ lyB p l && 1 ≤ lySpan p l
  && lyr p l 30 2 < 512 && lyHead p l < plParts p && lyr p l 56 8 == 0
  && ptrOk p (lyr p l 20 4) (w / 16) && ptrOk p (lyr p l 24 4) (4 * outl) && ptrOk p (lyr p l 32 4) (4 * n)
  && ptrOk p (lyr p l 36 4) (2 * ceilDiv w 256 * n) && ptrOk p (lyr p l 40 4) (normBytes p l) && ptrOk p (lyr p l 48 4) (ropeBytes p l)
  && (lyr p l 40 4 == absent || (0x2B800000 ≤ lyr p l 44 4 && lyr p l 44 4 ≤ 0x7F800000))
  && (lyr p l 20 4 != absent || k 0 == 0)
  && (lyr p l 20 4 == absent || (List.range (w / 32)).all fun i =>
        f16In (param p (lyr p l 20 4) (2 * i) 2) 0x0001 0x7BFF)
  && (lyr p l 24 4 != absent || outl == 0) && ascending named && named.all (· < w) && outl ≤ 64 * ceilDiv w 4096
  && (if lyAttn p l then attnOk p l else lyr p l 52 4 == absent)
  && (k 1 == 0 || (lyA p l == 0 && w % 256 == 0 && n % 16 == 0 && outl == 0))

/-- The embedding table and the records that read it obey R548. -/
def embOk (p : List Byte) : Bool :=
  let es := (blocks p).filter (·.kind == 3)
  let uses := (List.range (plCores p)).any fun c => [false, true].any fun w => (recsOf p c w).any fun x => rOp x == 0x70
  match es with
  | [] => !uses
  | [b] =>
    b.layer == 0xFFFF && leAt p b.off 4 == plVocab p && leAt p (b.off + 4) 4 % 32 == 0 && 0 < leAt p (b.off + 4) 4
    && leAt p (b.off + 8) 1 ≤ 1 && leAt p (b.off + 9) 7 == 0 && b.off + blockLen p b ≤ p.length
  | _ => false

/-- The serving block and fabric block are in their ranges (R269, R309). -/
def servingOk (p : List Byte) : Bool :=
  1 ≤ plVec p && plVec p ≤ 64 && plKmax p < plVec p && plRole p ≤ 2 && (plRole p == 1 || plKmax p == 0)
  && srvBlk p 3 1 == 0 && plRearm p ≤ 16383 && srvBlk p 6 2 == 0 && (plRole p != 0 || plPeer p == 0)
  && 2 ≤ plVocab p && plVocab p ≤ 16777216 && (List.range 44).all (fun i => srvBlk p (20 + i) 1 == 0)
  && 1 ≤ plParts p && plParts p ≤ 512 && 1 ≤ plHops p && plHops p ≤ 8 && 1 ≤ plBond p && plBond p ≤ 4
  && (List.range 60).all fun i => srvBlk p (68 + i) 1 == 0

/-! ### Record checks (Table 6.7) -/

/-- Space of an operand reference (Table 6.5). -/
def opSpace (o : Nat) : Nat := o / 2 ^ 28
/-- Offset of an operand reference. -/
def opOff (o : Nat) : Nat := o % 2 ^ 28

/-- What the operand judgment needs of a plan: recipe area bytes of a core, region bytes, rows, the peers, the plan parts, and
the plan part that this part binds. -/
structure Regions where
  cshare : Nat
  act    : Nat
  rows   : Nat
  ovf    : Nat
  map    : List Nat
  parts  : Nat
  part   : Nat

/-- The chain peer is a core of the binding (Table 6.5): of its map where it names this part's plan part. -/
def peerOk (g : Regions) (o : Nat) : Bool :=
  let off := opOff o
  opSpace o == 7 && fld off 20 8 == 0 && off % 512 < g.parts
  && (off % 512 != g.part || g.map.any fun w => w % 2048 == fld off 9 7 + fld off 16 4 * 128)

/-- An operand of `n` bytes lies inside its space and region (Table 6.5, R545): its offset is one of the space's even where `n` is 0. -/
def opndOk (g : Regions) (o n : Nat) : Bool :=
  let off := opOff o
  let within (first n size : Nat) : Bool := decide (first < size ∧ first + n ≤ size)
  match opSpace o with
  | 0 => off == 0
  | 1 => off % 4 == 0 && within off n 262144
  | 2 => off % 4 == 0 && within off n 1310720
  | 3 => off % 4 == 0 && within off n g.cshare
  | 4 => within (256 * off) n g.act
  | 5 => off < g.rows
  | 6 => within (256 * off) n g.ovf
  | _ => false

/-- Q of a shape code (R182). -/
def shQ (i : Nat) : Nat := 8 * 2 ^ fld i 0 2
/-- K of a shape code. -/
def shK (i : Nat) : Nat := 8 * 2 ^ fld i 2 2
/-- D of a shape code. -/
def shD (i : Nat) : Nat := 32 * 2 ^ fld i 4 2

/-- Key-value heads of a page that a core serves, at most (HEADS of Table 8.4, R254, R255). -/
def fetchHeads (p : List Byte) (l : Nat) : Nat :=
  if attn p l 9 1 = 1 then 1 else min (max 1 (atG p l)) (max 1 (atHkv p l / max 1 (atPart p l)))

/-- Bytes of weights that an OVF of `len` D-tiles reaches from OPND_B: tiles of 4,096 bytes, of the last one the columns it uses. -/
def ovfBytes (imm len : Nat) : Nat :=
  let tiles := ceilDiv (len * shD imm) 256
  if tiles = 0 then 0 else 4096 * (tiles - 1) + 256 * shK imm

/-- The bytes a record's OPND_A and OPND_B reach, where `l` is the layer of the layer step it belongs to: a fetch reads up to K
token rows (R246), a rotary record of queries Q rows (R547), and an OVF of K columns the first K of the 16 columns of its last tile
(R223). -/
def opndLens (p : List Byte) (l x : Nat) : Nat × Nat :=
  let len := rLen x
  match rOp x with
  | 0x03 => (64, 0)
  | 0x10 => (4 * lyW p (rLayer x), 0)
  | 0x20 => (4 * lyW p (rLayer x), 0)
  | 0x31 => (1024, 0)
  | 0x32 => (if rFlags x % 4 = 2 then 64 else 4 * len, 0)
  | 0x40 =>
    if rImm x % 16 = 8 then (4 * len, 4)
    else if rImm x % 16 = 7 ∧ bitOf (rFlags x) 0 then (4 * len * shQ (attn p (rLayer x) 24 1), 0)
    else (4 * len, 4 * len)
  | 0x41 => (4 * len, 0)
  | 0x54 => (0, ovfBytes (rImm x) len)
  | 0x61 => (4 * atDh p l * min (len % 2 ^ 15) (shK (attn p l 24 1)) * fetchHeads p l, 0)
  | 0x62 => (8 * atHkv p (rLayer x) * atDh p (rLayer x) * plVec p, 0)
  | 0x70 => (if opSpace (rOpA x) = 5 then 0 else len, 4 * len)
  | 0x71 => (len, len)
  | 0x72 => (len, len)
  | _ => (0, 0)

/-- The operands of a record lie inside their spaces (check 10); only CHAIN, TAIL, REDUCE and MERGE name a peer. An operand in another
space than the one Table 6.6's words have for its opcode is accepted, and the record uses that space (DESIGN CHOICE, log entry 161). -/
def recordOpnds (p : List Byte) (g : Regions) (l x : Nat) : Bool :=
  let n := opndLens p l x
  let op := rOp x
  if op = 0x31 ∧ opSpace (rOpA x) = 7 then peerOk g (rOpA x) && opSpace (rOpB x) == 1 && opndOk g (rOpB x) 1024
  else
    opndOk g (rOpA x) n.1
    && (if op = 0x30 then peerOk g (rOpB x)
        else if op = 0x32 ∨ op = 0x53 then rOpB x == 0 || peerOk g (rOpB x)
        else if op = 0x31 then rOpB x == 0
        else opndOk g (rOpB x) n.2)

/-- The tiles a record names (R173, R183). -/
def tilesNamed (x : Nat) : List Nat :=
  let run (t n : Nat) : List Nat := (List.range n).map (t + ·)
  run (rTileA x) (rCntA x) ++ run (rTileB x) (rCntB x) ++ run (rTileD x) (rCntD x)

/-- A tile range ends at or before tile 31, with at most 16 tiles (check 8). -/
def tilesOk (t c : Nat) : Bool := c == 0 || (c ≤ 16 && t + c ≤ 32)

/-- Tiles of the online-softmax state of an attention layer: the state tile and the output tiles of its Q query rows (R248). -/
def softTiles (p : List Byte) (l : Nat) : Nat := 1 + shQ (attn p l 24 1) * atDh p l / 256

/-- Check 8: ranges and counts. On an attention layer `l`, SMAX takes one score tile and SMAX and MERGE name the state tiles (R248,
R251). -/
def recordTiles (p : List Byte) (l : Option Nat) (x : Nat) : Bool :=
  let soft := match l with | some l => lyAttn p l | none => false
  let state := softTiles p (l.getD 0)
  tilesOk (rTileA x) (rCntA x) && tilesOk (rTileB x) (rCntB x) && tilesOk (rTileD x) (rCntD x)
  && (rOp x != 0x50 || rCntD x == 1)
  && (!(rOp x == 0x52 || rOp x == 0x54) || rCntD x == shQ (rImm x) * shD (rImm x) / 256)
  && (!(soft && rOp x == 0x51) || (rCntA x == 1 && rCntD x == state))
  && (!(soft && rOp x == 0x53) || rCntA x == state)

/-- IMM [8:6] of the operand pair that a layer's key-value format and QFMT select (Tables 5.1, 8.2). -/
def layerPair (p : List Byte) (l : Nat) : Nat := if lyKv p l ≠ 2 then 0 else if atQf p l = 2 then 7 else 3

/-- Check 9: shapes and function codes; on an attention layer SCORE and VALUE name the layer's operand pair (R227). -/
def recordShape (p : List Byte) (l : Option Nat) (x : Nat) : Bool :=
  let i := rImm x
  let shape := fld i 0 2 ≤ 1 && fld i 2 2 ≤ 1 && (fld i 6 2 == 3 || !bitOf i 8)
  match rOp x with
  | 0x50 | 0x52 => shape && (match l with | some l => !lyAttn p l || fld i 6 3 == layerPair p l | none => true)
  | 0x54 => shape
  | 0x40 => i % 16 ≤ 8
  | 0x41 => fld i 0 2 != 3 || (1 ≤ fld i 2 4 && fld i 2 4 ≤ 8)
  | _ => true

/-- The forms of Table 1.10 that the part runs (R46): an overflow layer's operands are FP8. -/
def recordForm (x : Nat) : Bool := rOp x != 0x54 || fld (rImm x) 6 2 == 0

/-- The opcode names a layer. -/
def usesLayer (x : Nat) : Bool :=
  let op := rOp x
  [0x01, 0x10, 0x11, 0x20, 0x30, 0x31, 0x32, 0x54, 0x60, 0x62].contains op
  || (op == 0x40 && (rImm x % 16 == 5 || rImm x % 16 == 6 || rImm x % 16 == 7))

/-- Check 6: the plane is the tenant's on that engine, and blocks lie inside the layer's widths. -/
def recordBlocks (p : List Byte) (c x : Nat) : Bool :=
  let op := rOp x
  let l := rLayer x
  (op != 0x11 || (blocks p).any fun b => b.kind == 0 && b.core == c && b.engine == rEngine x && b.plane == rPlane x)
  && (!(op == 0x10 || op == 0x11) || 256 * rRow x < lyW p l)
  && (!([0x11, 0x20, 0x30, 0x31].contains op || (op == 0x40 && (rImm x % 16 == 5 || rImm x % 16 == 6))) || 256 * rCol x < lyN p l)

/-- The plan cores that hold a WALK record naming a layer, ascending: the layer's partition (R254). -/
def partCores (p : List Byte) (l : Nat) : List Nat :=
  (List.range (plCores p)).filter fun c => [false, true].any fun w => (recsOf p c w).any fun x => rOp x == 0x60 && rLayer x == l

/-- An attention layer's partition has PART cores (R254). -/
def partOk (p : List Byte) (l : Nat) : Bool := !lyAttn p l || (partCores p l).length == atPart p l

/-- Check 7 for the layer a record names. -/
def recordLayer (p : List Byte) (x : Nat) : Bool :=
  !usesLayer x ||
  (rLayer x < plLayers p && layerOk p (rLayer x) && partOk p (rLayer x)
   && (!(rOp x == 0x40 && (rImm x % 16 == 5 || rImm x % 16 == 6)) || lyr p (rLayer x) 40 4 != absent)
   && (!(rOp x == 0x40 && rImm x % 16 == 7) || lyr p (rLayer x) 48 4 != absent))

/-- The start of the layer step a record belongs to: the last LSTEP at or before it. -/
def openStep (rs : List Nat) (i : Nat) : Option Nat :=
  ((List.range (i + 1)).reverse.find? fun j => rOp (rs.getD j 0) == 1).bind fun j =>
    if (List.range (i - j)).any fun k => rOp (rs.getD (j + 1 + k) 0) == 2 then none else some j

/-- Check 15 for record `i`: its offset in its layer step, windows, WALK after KVAPPEND, statistics after their REDUCE, and the
lengths that R547 fixes. -/
def recordTiming (p : List Byte) (rs : List Nat) (i : Nat) : Bool :=
  let x := rs.getD i 0
  let op := rOp x
  let norm (fn : Nat) : Bool := op == 0x40 && rImm x % 16 == fn
  let centred := op == 0x32 && rFlags x % 4 == 3
  let lens := (!(norm 5 || norm 6) || (1 ≤ rLen x && rLen x ≤ 256))
    && (!(norm 7 && bitOf (rFlags x) 0) || (lyAttn p (rLayer x) && rLen x == atDh p (rLayer x)))
  lens &&
  match openStep rs i with
  | none => !norm 5 && !norm 6 && !centred
  | some j =>
    let s := rs.getD j 0
    let l := rLayer s
    let from0 := rBeat x - rBeat s
    let prior := (List.range (i - j)).map fun k => rs.getD (j + k) 0
    let sums (kind : Nat) : Bool := prior.any fun y => rOp y == 0x32 && rFlags y % 4 == kind
    if op = 1 then
      lyB p l ≤ lySpan p l &&
      (match (List.range (rs.length - i - 1)).find? fun k => rOp (rs.getD (i + 1 + k) 0) == 1 with
       | none => true
       | some k => rBeat x + lyB p l + lyA p l * lySpan p l ≤ rBeat (rs.getD (i + 1 + k) 0))
    else if op = 2 then lyB p l + lyA p l * lySpan p l ≤ from0
    else if op = 4 then lyB p l + lyA p l * lySpan p l ≤ from0
    else if from0 < lyB p l then
      (!(op == 0x62) || prior.all fun y => !(rOp y == 0x60 && Nat.land (rMask y) (rMask x) != 0))
      && (!norm 5 || sums 1) && (!norm 6 || (sums 0 && sums 3)) && (!centred || sums 0)
    else false

/-- A record serves one sequence slot, and is then taken from the variant of the slot's mode (R184). -/
def oneSlotted (x : Nat) : Bool := (maskSlots x).length == 1

/-- Two records are the same in every field but BEAT and RSEQ. -/
def sameBut (x y : Nat) : Bool := y % 2 ^ 240 / 2 ^ 56 == x % 2 ^ 240 / 2 ^ 56 && y % 2 ^ 32 == x % 2 ^ 32

/-- The beat of the narrow variant that a beat of a variant corresponds to (R184). -/
def corrBeat (p : List Byte) (wide : Bool) (x : Nat) : Nat := if wide then rBeat x % max 1 (plPeriod p) else rBeat x

/-- Check 13 for record `i` of a variant (R184): a record that serves several slots or none stands once in the narrow variant for
each time it stands in either period of the wide one, but that the STEPEND of the wide one stands only in its second, where it ends the
variant (check 16); a wide record for one slot uses only engines, pass slots and tiles that
narrow records for that slot use in the corresponding beat. -/
def recordVariants (p : List Byte) (c : Nat) (wide : Bool) (i : Nat) : Bool :=
  let x := recAt p c wide i
  let ns := recsOf p c false
  let times (rs : List Nat) (beat : Nat) : Nat := (rs.filter fun y => rBeat y == beat && sameBut x y).length
  let base := if wide ∧ plPeriod p ≤ rBeat x then rBeat x - plPeriod p else rBeat x
  if rOp x = 2 then 0 < (if wide then times ns base else times (recsOf p c true) (rBeat x + plPeriod p)) && (!wide || plPeriod p ≤ rBeat x)
  else if !oneSlotted x then
    let n := times ns base
    times (recsOf p c true) base == n && times (recsOf p c true) (base + plPeriod p) == n
  else if !wide then true
  else
    let mates := ns.filter fun y => rMask y == rMask x && rBeat y == base
    (rOp x != 0x11 || mates.any fun y => rOp y == 0x11 && rEngine y == rEngine x && rSlot y == rSlot x)
    && (tilesNamed x).all fun t => mates.any fun y => (tilesNamed y).contains t

/-- Check 14 for the PASS at index `i`: one chain mode for all PASSes of its layer, in every core and variant (R165); and in recipe
order within its layer step exactly one low pass before a high one, and exactly one high pass after a low one (R81). -/
def recordNibble (p : List Byte) (rs : List Nat) (i : Nat) : Bool :=
  let x := rs.getD i 0
  let nib := fld (rFlags x) 1 2
  let first := (openStep rs i).getD 0
  let mine := (rs.drop (first + 1)).takeWhile fun y => rOp y != 1 && rOp y != 2
  let partner (y : Nat) : Bool :=
    rOp y == 0x11 && fld (rFlags y) 1 2 == 3 - nib && rLayer y == rLayer x && rEngine y == rEngine x
    && rPlane y == rPlane x && rRow y == rRow x && rCol y == rCol x && rImm y == rImm x
  rOp x != 0x11 ||
  ((List.range (plCores p)).all fun c => [false, true].all fun w => (recsOf p c w).all fun y =>
    rOp y != 0x11 || rLayer y != rLayer x || bitOf (rFlags y) 3 == bitOf (rFlags x) 3) &&
  (nib == 0 ||
    (let at_ := i - first - 1
     if nib = 2 then ((mine.take at_).filter partner).length == 1 else ((mine.drop (at_ + 1)).filter partner).length == 1))

/-- The engine, beat and slot that each PASS takes, shadows included (check 5, R211). -/
def slotUses (p : List Byte) (c : Nat) (rs : List Nat) : List (Nat × Nat × Nat) :=
  (rs.filter fun x => rOp x == 0x11).flatMap fun x =>
    (rEngine x, rBeat x, rSlot x) ::
    ((blocks p).filter fun b => b.kind == 0 && b.core == c && b.engine == rEngine x && b.plane == rPlane x && b.shadow).map
      fun b => (b.sEngine, rBeat x, rSlot x)

/-! ### Pending column blocks (R164) -/

/-- The logical cluster of plan core `c`, by the core map. -/
def mapCluster (map : List Nat) (c : Nat) : Nat := map.getD c 0 % 128

/-- The place of plan core `c` in chain order within its part: its logical cluster, then core. -/
def mapPlace (map : List Nat) (c : Nat) : Nat := let w := map.getD c 0; (w % 128) * 16 + w / 128 % 16

/-- The peer operand names plan core `c` of this part. -/
def peerIs (g : Regions) (o c : Nat) : Bool :=
  opSpace o == 7 && opOff o % 512 == g.part && fld (opOff o) 9 7 * 16 + fld (opOff o) 16 4 == mapPlace g.map c

/-- Times of check 11, in units of 1/150 ns: a beat, a cluster cycle, a network cycle, a flit time and a hop between parts
(Tables 1.12, 5.3, 10.5). -/
def uBeat : Nat := 153600
/-- A cluster cycle of 5/6 ns. -/
def uCycle : Nat := 125
/-- A network cycle of 0.5 ns. -/
def uNet : Nat := 75

/-- The time of a chain hop from a core of cluster `a` to one of cluster `b` of the part (Table 5.3). -/
def coreHop (a b : Nat) (comp : Bool) : Nat :=
  if a = b then (if comp then 40 else 20) * uCycle
  else ((if comp then 16 else 8) + Config.pathLatency a b) * uNet

/-- The time of a chain hop between plan parts, at HOPS_MAX and BOND_MIN (R313). -/
def partHop (p : List Byte) (comp : Bool) : Nat :=
  plHops p * 38400 + ceilDiv (if comp then 9 else 5) (max 1 (plBond p)) * 384

/-- The time at which a pass's partial reaches its chain adder (Table 3.2), from the start of the step period. The static check puts
pass slot 0 at the beat edge, where R304 lets it start up to 64 ns later: this decides the beat of slots 10 and 11 (DESIGN CHOICE, log
entry 162). -/
def partialTime (x : Nat) : Nat := uBeat * rBeat x + 12000 * rSlot x + 30000

/-- When the plan's schedule has the incoming running sum of a column block reach plan core `c`: by the CHAIN of the core before in
the same layer step, or of another part (log entry 128); none where the core's contribution comes first. -/
def chainArrival (p : List Byte) (g : Regions) (c : Nat) (wide : Bool) (x from0 stop : Nat) : Option Nat :=
  let comp := bitOf (rFlags x) 3
  let ins := (List.range (plCores p)).findSome? fun d =>
    ((recsOf p d wide).find? fun y => d != c && rOp y == 0x30 && rLayer y == rLayer x && rCol y == rCol x && rImm y == rImm x
        && decide (from0 ≤ rBeat y ∧ rBeat y < stop) && peerIs g (rOpB y) c).map
      fun y => uBeat * rBeat y + coreHop (mapCluster g.map d) (mapCluster g.map c) comp
  ins.orElse fun _ =>
    if 1 < g.parts ∧ ringOffset p (rLayer x) g.part ≠ 0 then
      (Config.otherPartChain (plId p) g.part c (rLayer x) (rCol x) (rImm x)).map fun beat => uBeat * beat + partHop p comp
    else none

/-- The passes of one column block on a core, engine by engine in ascending order: for each engine the span from its first partial
to the arrival of its incoming running sum, as beats. An engine behind another of its core takes over 16 cycles for each partial of
that one and 20 more after the later of its last partial and its own incoming sum, at 5/6 ns a cycle at every operating point: no CHAIN
record gives that hop its beat (DESIGN CHOICE, log entry 162). -/
def pendingSpans (comp : Bool) (xs : List Nat) : Nat → Nat → Option Nat → List (Nat × Nat × Nat)
  | 0, _, _ => []
  | n + 1, e, arr =>
    let mine := xs.filter fun x => rEngine x == e
    match mine.map partialTime with
    | [] => pendingSpans comp xs n (e + 1) arr
    | t :: ts =>
      let first := ts.foldl min t
      let last := ts.foldl max t
      let go := max (arr.getD 0) last + (if comp then 2 else 1) * (16 * ts.length + 20) * uCycle
      (match arr with | some a => [(e, first / uBeat, a / uBeat)] | none => []) ++ pendingSpans comp xs n (e + 1) (some go)

/-- Column blocks pending on the engine of PASS `i` in its beat (check 11). A low nibble pass sends no partial of its own: the pair's
goes with the high pass (R81, R98). -/
def pendingAt (p : List Byte) (g : Regions) (c : Nat) (wide : Bool) (rs : List Nat) (i : Nat) : Nat :=
  let x := rs.getD i 0
  let adds (y : Nat) : Bool := rOp y == 0x11 && fld (rFlags y) 1 2 != 1
  let ps := ((List.range rs.length).filter fun j => adds (rs.getD j 0)).map fun j => ((openStep rs j).getD rs.length, rs.getD j 0)
  let keys := (ps.map fun y => (y.1, rLayer y.2, rCol y.2, rImm y.2)).dedup
  let at_ := partialTime x / uBeat
  (keys.filter fun k =>
    let mine := (ps.filter fun y => (y.1, rLayer y.2, rCol y.2, rImm y.2) == k).map (·.2)
    let y := mine.headD 0
    let from0 := rBeat (rs.getD k.1 0)
    let arr := chainArrival p g c wide y from0 (from0 + lyB p k.2.1)
    (pendingSpans (bitOf (rFlags y) 3) mine 16 0 arr).any fun z =>
      z.1 == rEngine x && decide (z.2.1 ≤ at_ ∧ at_ < z.2.2)).length

/-! ### Merge chains (R251) -/

/-- The MERGE records of a layer step on a core that begins at a beat of a variant. -/
def mergesOf (p : List Byte) (c : Nat) (wide : Bool) (l beat : Nat) : List Nat :=
  let rs := recsOf p c wide
  ((List.range rs.length).filter fun i => rOp (rs.getD i 0) == 0x53 &&
    (match openStep rs i with | some j => rLayer (rs.getD j 0) == l && rBeat (rs.getD j 0) == beat | none => false)).map (rs.getD · 0)

/-- The place of a core in merge order: its part counted from RING_HEAD (R256, R258), then its logical cluster and core. -/
def mergePlace (p : List Byte) (l o place : Nat) : Nat :=
  ((o + plParts p - (if lyAttn p l then attn p l 28 2 % 512 else 0)) % max 1 (plParts p)) * 65536 + place

/-- A MERGE record names a core behind its own in merge order; and LEN is the number of cores before this one: one more than that
of the record of this part that names this core, or 0 where none does. A record whose preceding core can lie in another part, one
that comes before this part in merge order, is held to no count (log entry 128). -/
def mergeOk (p : List Byte) (g : Regions) (c : Nat) (wide : Bool) (rs : List Nat) (i : Nat) : Bool :=
  let x := rs.getD i 0
  let o := rOpB x
  match openStep rs i with
  | none => o == 0 && rLen x == 0
  | some j =>
    let l := rLayer (rs.getD j 0)
    let beat := rBeat (rs.getD j 0)
    let mine := mergesOf p c wide l beat
    let before := ((List.range (i - j)).filter fun n => rOp (rs.getD (j + n) 0) == 0x53 && rLen (rs.getD (j + n) 0) != 0).length
    let ins := (List.range (plCores p)).flatMap fun d =>
      if d = c then [] else (mergesOf p d wide l beat).filter fun y => peerIs g (rOpB y) c
    let waits := (mine.filter fun y => rLen y != 0).length
    (o == 0 || decide (mergePlace p l g.part (mapPlace g.map c)
        < mergePlace p l (opOff o % 512) (fld (opOff o) 9 7 * 16 + fld (opOff o) 16 4)))
    && (if ins.isEmpty then rLen x == 0 || (1 < g.parts && mergePlace p l g.part 0 != 0)
        else ins.length == waits && (rLen x == 0 || rLen x == rLen (ins.getD before 0) + 1))

/-! ### Staging (R116, R134) -/

/-- Bytes of a layer's quantisation state block for one sequence slot (R134). -/
def stateBlock (p : List Byte) (l : Nat) : Nat := (if lyCarry p l then 2 * lyW p l else 0) + lyW p l / 16

/-- One past the highest byte of space 1 that an operand reaches. -/
def stagingTop (o n : Nat) : Nat := if opSpace o = 1 ∧ n ≠ 0 then opOff o + n else 0

/-- The staging need of the layer step that record `i` opens on a core: the highest staging byte that its records reach, or that a
peer's TAIL of the layer writes meanwhile, and the state blocks of the slots they serve. -/
def stagingNeed (p : List Byte) (g : Regions) (c : Nat) (wide : Bool) (rs : List Nat) (i : Nat) : Nat :=
  let l := rLayer (rs.getD i 0)
  let from0 := rBeat (rs.getD i 0)
  let mine := (rs.drop (i + 1)).takeWhile fun y => rOp y != 1 && rOp y != 2
  let own := mine.foldl (fun a x =>
    let n := opndLens p l x
    max a (max (stagingTop (rOpA x) n.1) (if rOp x = 0x31 then 0 else stagingTop (rOpB x) n.2))) 0
  let peers := (List.range (plCores p)).foldl (fun a d => (recsOf p d wide).foldl (fun a y =>
    if rOp y = 0x31 ∧ rLayer y = l ∧ from0 ≤ rBeat y ∧ rBeat y < from0 + lyB p l ∧ peerIs g (rOpA y) c then
      max a (opOff (rOpB y) + 1024) else a) a) own
  let slots := (List.range 4).filter fun s => mine.any fun x => bitOf (rMask x) s
  peers + slots.length * stateBlock p l

/-- What record `i` of a variant of plan core `c` is refused for, if it is: the first check of Table 6.7 that it fails, or a form
outside Table 1.10 (R46). A LAYER beyond the table is found before a bad engine or plane (DESIGN CHOICE, log entry 127). -/
def checkRecord (p : List Byte) (gs : Nat → Regions) (c : Nat) (wide : Bool) (rs : List Nat) (i : Nat) : Option Refuse :=
  let x := rs.getD i 0
  let g := gs c
  let bad (k : Nat) : Option Refuse := some (malformed k i c wide)
  let ly := (openStep rs i).map fun j => rLayer (rs.getD j 0)
  if !opcodes.contains (rOp x) then bad 1
  else if !recordClean x then bad 2
  else if rSeq x ≠ i % 65536 then bad 3
  else if plPeriod p * (if wide then 2 else 1) < rBeat x ∨ (0 < i ∧ rBeat x < rBeat (rs.getD (i - 1) 0)) then bad 4
  else if rOp x = 0x11 ∧ (11 < rSlot x ∨ 1 < ((slotUses p c rs).filter (· == (rEngine x, rBeat x, rSlot x))).length) then bad 5
  else if usesLayer x ∧ plLayers p ≤ rLayer x then bad 7
  else if !recordBlocks p c x then bad 6
  else if !recordLayer p x then bad 7
  else if !recordTiles p ly x then bad 8
  else if !recordShape p ly x then bad 9
  else if !recordForm x then some (0x21, 1 + rLayer x * 2 ^ 16)
  else if !recordOpnds p g (ly.getD 0) x ∨ (rOp x = 0x53 ∧ !mergeOk p g c wide rs i) then bad 10
  else if rOp x = 0x11 ∧ 4 < pendingAt p g c wide rs i then bad 11
  else if rOp x = 1 ∧ 262144 < stagingNeed p g c wide rs i then bad 12
  else if !recordVariants p c wide i then bad 13
  else if !recordNibble p rs i then bad 14
  else if !recordTiming p rs i then bad 15
  else if (rOp x = 2) ≠ (i + 1 = rs.length) then bad 16
  else none

/-- The records of one variant of one core: the first failure, as a refusal. -/
def checkVariant (p : List Byte) (g : Nat → Regions) (c : Nat) (wide : Bool) : Option Refuse :=
  let rs := recsOf p c wide
  if rs.isEmpty ∨ 16384 < recCount p c false + recCount p c true then some (malformed 16 0x3FFF c wide)
  else (List.range rs.length).findSome? fun i => checkRecord p g c wide rs i

/-- The checks of Table 11.4, orders 2 and 3, on an image: header, weight data, serving and fabric blocks, embedding table,
records in ascending plan core with the narrow variant first, and layers that no record names. -/
def checkImage (p : List Byte) (len : Nat) (g : Nat → Regions) : Option Refuse :=
  (checkHeader p len).orElse fun _ =>
  (checkBlocks p).orElse fun _ =>
  (if !servingOk p then some (whole 7) else none).orElse fun _ =>
  (if (blocks p).any fun b => b.kind != 3 && decide (plLayers p ≤ b.layer) then some (whole 7) else none).orElse fun _ =>
  (if !(List.range (plLayers p)).all (layerBlocks p) ∨ !embOk p then some (whole 7) else none).orElse fun _ =>
  ((List.range (plCores p)).findSome? fun c =>
    (checkVariant p g c false).orElse fun _ => checkVariant p g c true).orElse fun _ =>
  if (List.range (plLayers p)).any fun l => !(layerOk p l && partOk p l) then some (whole 7) else none

/-- Bytes of the activations region: the highest byte that a space 4 operand reaches (R545). -/
def actBytes (p : List Byte) : Nat :=
  (List.range (plCores p)).foldl (fun a c => [false, true].foldl (fun a w =>
    let rs := recsOf p c w
    (List.range rs.length).foldl (fun a i =>
      let x := rs.getD i 0
      let n := opndLens p (((openStep rs i).map fun j => rLayer (rs.getD j 0)).getD 0) x
      let one (o n : Nat) : Nat := if opSpace o = 4 then 256 * opOff o + n else 0
      max a (max (one (rOpA x) n.1) (one (rOpB x) n.2))) a) a) 0

/-- The regions of a binding with this image (R545). -/
def regionsOf (p : List Byte) (ovfFrames : Nat) (map : List Nat) (part c : Nat) : Regions :=
  { cshare := 524288 - 32 * (recCount p c false + recCount p c true),
    act := ceilDiv (actBytes p) 65536 * 65536,
    rows := match embBlock p with | some b => leAt p b.off 4 | none => 0,
    ovf := ovfFrames * 65536, map := map, parts := plParts p, part := part }

end Sys2Proof.Machine
end

