-- ==== Sys2Proof/Machine/Rings.lean ====
section
/-! DEFINITION. Ring registers, doorbells, packet fetch and acceptance, ring flush, interrupts, ladle timers and the CXL link
(R363 to R379, R386 to R394). -/

namespace Sys2Proof.Machine

/-- A ring's size in submission entries. -/
def sqSize (g : Ring) : Nat := 2 ^ g.sqLog2.toNat

/-- Entries submitted and not yet passed by SQ_HEAD (R370). -/
def sqAvail (g : Ring) : Nat := (g.sqTail.toNat + sqSize g - g.sqHead.toNat) % sqSize g

/-- SQ_HEAD moved on by `n` entries. -/
def headOn (g : Ring) (n : Nat) : Ring := { g with sqHead := BitVec.ofNat 16 ((g.sqHead.toNat + n) % sqSize g) }

/-! ### Ladle reads (R364, R393) -/

/-- The clusters that are enabled, ascending. -/
def enabledList (s : State) : List Nat := (List.range 112).filter (enabledCl s)

/-- The ladle, by cluster, that carries out a read: a binding's reads are its home cluster's, and the rings are shared out over the
enabled clusters (DESIGN CHOICE, log entry 169). -/
def ladleOf (s : State) (w : ReadFor) : Nat :=
  match w with
  | .entries r => (enabledList s).getD (r % max 1 (enabledList s).length) 0
  | .tokens c => homeCluster s (ctx s c).tenant.toNat
  | .load b => homeCluster s b

/-- The 64-byte lines that a read wants at once (R364; DESIGN CHOICE, log entry 169). -/
def wantedLines (s : State) (w : ReadFor) : Nat :=
  match w with
  | .entries r => max 1 (min 8 (sqAvail (ring s r) - (ring s r).buf.length))
  | .tokens _ => 16
  | .load _ => 1

/-- The lines that a ladle has outstanding. -/
def linesOut (s : State) (k : Nat) : Nat := ((s.host.reads.filter fun x => x.ladle == k).map (·.lines)).foldl (· + ·) 0

/-- A ladle read started: its timer runs HT beats (R393). A ladle with 64 lines outstanding, and every ladle while the IDE stream is
broken, has it wait (R364, R367). -/
def startRead (w : ReadFor) (s : State) : State :=
  let k := ladleOf s w
  let room := 64 - linesOut s k
  if s.host.ideHold ∨ room = 0 then { s with host := { s.host with readQ := s.host.readQ ++ [w] } }
  else
    { s with host := { s.host with
        reads := s.host.reads ++ [{ id := s.host.nextRead, what := w, left := s.host.ht.toNat, reissued := false, ladle := k,
                                    lines := min room (wantedLines s w) }]
        nextRead := s.host.nextRead + 1 } }

/-- The reads that wait started, oldest first, as far as their ladles have room (R364). -/
def startReads (s : State) : State := forAll s.host.readQ startRead { s with host := { s.host with readQ := [] } }

/-- The reads for `p` are over or no longer wanted; others may leave. -/
def dropReads (p : ReadFor → Bool) (s : State) : State :=
  startReads { s with host := { s.host with
    reads := s.host.reads.filter fun x => !p x.what, readQ := s.host.readQ.filter fun w => !p w } }

/-- A read of ring `r`'s entries is outstanding: the ladle is reading the packet at SQ_HEAD on (R372). -/
def reading (r : Nat) (s : State) : Bool := s.host.reads.any fun x => x.what == .entries r

/-! ### Packets (R371 to R374) -/

/-- An entry's header fields (Table 12.4): opcode, COUNT, FIRST, INDEX, the reserved bits of bytes 1 to 3, TAG. -/
structure EntryHead where
  opcode : Nat
  count  : Nat
  first  : Bool
  index  : Nat
  rsvd   : Nat
  tag    : W32

/-- The header of an entry. -/
def entryHead (e : BitVec 512) : EntryHead :=
  let x := e.toNat
  { opcode := fld x 0 8, count := fld x 8 3, first := bitOf x 11, index := fld x 16 3,
    rsvd := fld x 12 4 + fld x 19 5 + fld x 24 8, tag := BitVec.ofNat 32 (fld x 32 32) }

/-- The length of the packet at the head of these entries: an entry with FIRST = 0 is taken alone (R373). -/
def packetLen (entries : List (BitVec 512)) : Nat :=
  match entries with
  | [] => 1
  | e :: _ => if (entryHead e).first then (entryHead e).count + 1 else 1

/-- The ladle lacks entries of the packet at SQ_HEAD: it has not read its first, or has and lacks others that lie before SQ_TAIL (R370,
R372). A packet read whole that waits for room keeps it from reading on (R374). -/
def wantsRead (g : Ring) : Bool :=
  match g.buf with
  | [] => sqAvail g != 0
  | e :: t => g.flushLeft == 0 && decide (packetLen (e :: t) ≤ sqAvail g ∧ (e :: t).length < packetLen (e :: t))

/-- Entries of the ring are to be read: it is enabled, a flush has packets to discard, or the packet being read is not complete
(R379, Tables 12.3, 12.12). -/
def readsOn (s : State) (g : Ring) : Bool := g.last || (!s.host.quiesce && (g.sqEnable || g.flushLeft != 0))

/-- A read of the ring's entries may start (R372). -/
def mayRead (r : Nat) (s : State) : Bool :=
  readsOn s (ring s r) && wantsRead (ring s r) && !s.host.ideHold && !reading r s && !s.host.readQ.contains (.entries r)

/-- The ladle reads on: a read of the ring's entries is outstanding while they are to be read (R372, R379). -/
def fetchOn (r : Nat) (s : State) : State := if mayRead r s then startRead (.entries r) s else s

/-- The payload P of a packet's entries (R371). -/
def packetPayload : List (BitVec 512) → List Byte
  | [] => []
  | e :: t => (leBytes 64 e.toNat).drop 16 ++ t.flatMap fun c => (leBytes 64 c.toNat).drop 8

/-- The entry counts that Table 12.5 gives an opcode. -/
def entriesOk (op n : Nat) : Bool :=
  if op = 0x01 ∨ op = 0x10 then n == 2
  else if op = 0x02 then 1 ≤ n && n ≤ 8
  else if op = 0x03 ∨ op = 0x11 ∨ op = 0x12 ∨ op = 0x13 ∨ op = 0x20 then n == 1
  else false

/-- The bits of payload byte `i` that a command uses (Table 12.6); the others are reserved. -/
def usedBits (op : Nat) (p : List Byte) (i : Nat) : Nat :=
  if op = 0x01 then (if i < 56 then 0xFF else if i = 56 then 1 else if i = 57 then 0xFF else 0)
  else if op = 0x02 then
    (if i < 2 then 0xFF else if 4 ≤ i ∧ i < 4 + 2 * leAt p 0 2 then (if i % 2 = 0 then 0xFF else 0x0F) else 0)
  else if op = 0x03 then (if i = 0 then 1 else if 8 ≤ i ∧ i < 16 then 0xFF else 0)
  else if op = 0x10 then
    (if bitOf (leAt p 0 1) 0 then (if i = 0 then 0x1F else if i < 48 then 0xFF else 0)
     else if i = 0 then 0x15 else if (8 ≤ i ∧ i < 24) ∨ (36 ≤ i ∧ i < 48) then 0xFF else 0)
  else if op = 0x11 then
    (if i = 0 then 0x34 else if (4 ≤ i ∧ i < 12) ∨ (16 ≤ i ∧ i < 28) then 0xFF else 0)
  else if op = 0x12 ∨ op = 0x13 then (if i = 0 then 1 else 0)
  else if op = 0x20 then (if i = 0 then 0xFF else if 8 ≤ i ∧ i < 20 then 0xFF else 0)
  else 0

/-- Every reserved payload bit is zero (R18). -/
def payloadClean (op : Nat) (p : List Byte) : Bool :=
  (List.range p.length).all fun i => Nat.land (leAt p i 1) (255 - usedBits op p i) == 0

/-- The packet is well formed (R373). -/
def packetOk (es : List (BitVec 512)) : Bool :=
  match es with
  | [] => false
  | e :: t =>
    let h := entryHead e
    h.first && h.rsvd == 0 && h.index == 0 && fld e.toNat 76 4 == 0 && fld e.toNat 80 16 == 0
    && entriesOk h.opcode es.length && payloadClean h.opcode (packetPayload es)
    && (List.range t.length).all fun i =>
        let c := entryHead (t.getD i 0)
        c.opcode == 0xFF && !c.first && c.count == h.count && c.index == i + 1 && c.tag == h.tag && c.rsvd == 0

/-- The command of a well-formed packet on ring `r`. -/
def packetCmd (r : Fin 256) (es : List (BitVec 512)) : Cmd :=
  let x := (es.headD 0).toNat
  { ring := r, tag := BitVec.ofNat 32 (fld x 32 32), binding := BitVec.ofNat 12 (fld x 64 12),
    record := BitVec.ofNat 32 (fld x 96 32), payload := packetPayload es }

/-- Completion entries a packet reserves (R389): two for an opening PREFILL. -/
def packetResv (op : Nat) (p : List Byte) : Nat := if op = 0x10 ∧ bitOf (leAt p 0 1) 0 then 2 else 1

/-! ### The internal queue (R377, R378) -/

/-- A queue's pointers agree with their inverted copies (R378). -/
def pointersOk (g : Ring) : Bool := g.qHeadInv == ~~~g.qHead && g.qTailInv == ~~~g.qTail

/-- The slots of a queue that are spilled to device memory: all but the 8 at the head and the 8 at the tail (R377). -/
def spilled (g : Ring) : List Packet := (g.queue.drop 8).take (g.queue.length - 16)

/-- The spilled slots, numbered from the head pointer, carry their queue sequence numbers (R377). -/
def numbersOk (g : Ring) (ps : List Packet) : Bool :=
  (ps.zip (List.range ps.length)).all fun x => x.1.seq == g.qHead + 8 + BitVec.ofNat 16 x.2

/-- A queue's pointers moved: both copies of each are written (R378). -/
def movePointers (hd tl : W16) (g : Ring) : Ring := { g with qHead := hd, qHeadInv := ~~~hd, qTail := tl, qTailInv := ~~~tl }

/-- A ring's internal queue reset (R378): one RING_FAULT completion stands for every packet in it. -/
def resetQueue (r : Nat) (s : State) : State :=
  let g := ring s r
  let n := g.queue.length
  let resv := g.queue.foldl (fun a p => a + p.resv) 0
  let first := (g.queue.head?.map (·.first.toNat)).getD 0
  let past := (g.queue.getLast?.map (·.past.toNat)).getD 0
  let s1 := setRing s r { movePointers g.qTail g.qTail g with queue := [], queueReset := true }
  let s2 := if n = 0 then s1 else
    completeWith r 1 n { compl 0xFFFFFFFF 0x15 with detail := BitVec.ofNat 32 (first + past * 2 ^ 16), count := BitVec.ofNat 32 n }
      (releaseResv r (resv - 1) 0 s1)
  msix 2 (raise { err 0x60 1 r n 0 with inst := BitVec.ofNat 8 r }
    { s2 with host := { s2.host with resets := s2.host.resets + 1 } })

/-- A queue's pointers compared before a use or an update (R378). -/
def checkQueue (r : Nat) (s : State) : State := if pointersOk (ring s r) then s else resetQueue r s

/-- The head packet leaves a ring's queue, and the oldest spilled slot is refilled into the on-die head; one that fails its check resets
the queue behind the packet (R377, R378). -/
def popQueue (r : Nat) (s : State) : State :=
  let g := ring s r
  let s1 := setRing s r { movePointers (g.qHead + 1) g.qTail g with queue := g.queue.drop 1 }
  if numbersOk g ((spilled g).take 1) then s1 else resetQueue r s1

/-- Packets taken out of a queue by a FLUSH: the others close up and are numbered again from the head pointer (DESIGN CHOICE, log entry
170). -/
def keepPackets (keep : Packet → Bool) (g : Ring) : Ring :=
  let ps := g.queue.filter keep
  { movePointers g.qHead (g.qHead + BitVec.ofNat 16 ps.length) g with
    queue := (ps.zip (List.range ps.length)).map fun x => { x.1 with seq := g.qHead + BitVec.ofNat 16 x.2 } }

/-- A final completion of a command that names a binding and a record, with the record's LENGTH (Table 12.8). -/
def replyRec (c : Cmd) (resv status : Nat) (s : State) : State :=
  finish c.ring resv { compl c.tag status with
    binding := c.binding, record := c.record
    length := if c.record.toNat < 262144 then BitVec.ofNat 32 (ctx s c.record.toNat).length.toNat else 0 } s

/-- Every packet in ring `r`'s internal queue completes with REMOVED (Table 12.12). -/
def removeQueued (r : Nat) (s : State) : State :=
  let g := ring (checkQueue r s) r
  forAll g.queue (fun p => replyRec p.cmd p.resv 0x16)
    (setRing (checkQueue r s) r { movePointers g.qTail g.qTail g with queue := [] })

/-- Undispatched packets of a ring that a FLUSH reaches complete with FLUSHED (R384 item 1). -/
def flushRing (c : Cmd) (no r : Nat) (s : State) : State :=
  let hit (p : Packet) : Bool :=
    p.cmd.binding == c.binding && decide (p.no < no)
    && (bitOf (leAt c.payload 0 1) 0 || p.cmd.record == c.record)
  let g := ring s r
  if !(g.queue.any hit) then s
  else if !pointersOk g ∨ !numbersOk g (spilled g) then resetQueue r s
  else forAll (g.queue.filter hit) (fun p => replyRec p.cmd p.resv 4) (setRing s r (keepPackets (fun p => !hit p) g))

/-- Every internal queue flushed (R384 item 1). -/
def flushQueues (c : Cmd) (no : Nat) (s : State) : State := forAll (s.host.rings.map (·.1)) (flushRing c no) s

/-- The packet boundary that the FLUSH commands of a ring wait for (R384). -/
def flushBoundary (r : Nat) (s : State) : State :=
  if reading r s then s
  else forAll (ring s r).pendFlush (fun x => flushQueues x.1 x.2) (modRing r (fun g => { g with pendFlush := [] }) s)

/-! ### Taking packets (R372 to R374, R379) -/

/-- Entries of a packet that a flush discarded, discarded as they are submitted (R379). -/
def discardEntries (r : Nat) (s : State) : State :=
  modRing r (fun g => let k := min g.discard (sqAvail g); { headOn g k with discard := g.discard - k }) s

/-- A packet refused (R373): one final completion with BAD_PACKET, where the completion ring has room for it; the ring goes on as `g`. -/
def refusePacket (r : Nat) (tag : W32) (g : Ring) (s : State) : State :=
  if cqFree (ring s r) ≤ (ring s r).reserved then s
  else complete r (compl tag 0x06) (setRing s r { g with badPacket := true })

/-- The ring past the packet at its head, which has been read whole. -/
def pastPacket (g : Ring) (len : Nat) : Ring := { headOn g len with buf := g.buf.drop len, last := false, readFirst := false }

/-- The packet read whole at SQ_HEAD (R372 to R374): refused, accepted into the internal queue, or left where the completion ring or the
queue has no room. -/
def takePacket (r : Fin 256) (s : State) : State :=
  let g := ring s r
  let len := packetLen g.buf
  let es := g.buf.take len
  match es with
  | [] => s
  | e :: _ =>
    let h := entryHead e
    if sqAvail g < len ∨ es.length < len then s
    else if !packetOk es then refusePacket r.val h.tag (pastPacket g len) s
    else
      let cmd := packetCmd r es
      let k := packetResv h.opcode cmd.payload
      if cqFree g < g.reserved + k ∨ 4096 ≤ g.queue.length then s
      else
        let s1 := checkQueue r s
        let g0 := ring s1 r
        let g1 := pastPacket g0 len
        setRing { s1 with host := { s1.host with packetNo := s1.host.packetNo + 1 } } r.val { movePointers g0.qHead (g0.qTail + 1) g1 with
          accepted := g0.accepted + 1, outstanding := g0.outstanding + 1, reserved := g0.reserved + k,
          queue := g0.queue ++ [{ opcode := BitVec.ofNat 8 h.opcode, cmd := cmd, first := g0.sqHead, past := g1.sqHead, resv := k,
                                  no := s1.host.packetNo, seq := g0.qTail }] }

/-- A flush takes effect at a packet boundary (R379): the flush tail is SQ_TAIL as it stands. -/
def flushNow (g : Ring) : Ring := { g with flush := false, flushLeft := sqAvail g }

/-- The packet at SQ_HEAD discarded whole by a flush, with one final completion once the ring has room for it; entries of it still to
come are discarded as they are submitted (R379). -/
def flushPacket (r : Nat) (s : State) : State :=
  let g := ring s r
  match g.buf with
  | [] => s
  | e :: t =>
    if g.cqEnable ∧ cqFree g ≤ g.reserved then s
    else
      let len := packetLen (e :: t)
      let k := min len (sqAvail g)
      complete r (compl (entryHead e).tag 0x04)
        (setRing s r { headOn g k with buf := (e :: t).drop len, flushLeft := g.flushLeft - len, discard := len - k })

/-- What the ring does next with the entries read: a pending flush takes effect, a packet is discarded, or one is taken. A packet with
entries still to come was not being read when FLUSH was written (R372, R379). -/
def pumpOnce (r : Fin 256) (s : State) : State :=
  let g := ring s r
  if g.flush ∧ !g.readFirst then setRing s r (flushNow g)
  else if g.flushLeft ≠ 0 then (if s.host.quiesce then s else flushPacket r s)
  else if g.readFirst ∧ sqAvail g < packetLen g.buf then setRing s r { g with readFirst := false }
  else if g.last ∨ g.readFirst ∨ (g.sqEnable ∧ !s.host.quiesce) then takePacket r s
  else s

/-- The ring goes on with the entries read until it must wait. -/
def pump (r : Fin 256) : Nat → State → State
  | 0, s => s
  | fuel + 1, s =>
    let t := pumpOnce r s
    if (ring t r).sqHead = (ring s r).sqHead ∧ (ring t r).flush = (ring s r).flush ∧ (ring t r).readFirst = (ring s r).readFirst then t
    else pump r fuel t

/-- The ring goes on with the entries read, the FLUSH commands that waited for its packet boundary act, and the ladle reads on. -/
def ringOn (r : Fin 256) (s : State) : State := fetchOn r (flushBoundary r (pump r (2 * (ring s r).buf.length + 4) s))

/-- A ring with entries read goes on where something it may have waited for has changed. -/
def retryRing (r : Fin 256) (s : State) : State := if (ring s r).buf.isEmpty then s else ringOn r s

/-- PACKET_FETCH (R373): the ladle has read the ring's next entries, each once (R370). A packet that was being read when SQ_ENABLE
was cleared is still taken (Table 12.3), and one that was being read when QUIESCE was written completes with REMOVED (Table
12.12). -/
def execPacketFetch (r : Fin 256) (entries : List (BitVec 512)) (s : State) : Host.Outcome State Fault Refusal :=
  .next (
    if !(reading r.val s || mayRead r s) ∨ s.host.ideHold ∨ below7 s then s
    else
      let s1 := modRing r.val (fun g => { g with buf := g.buf ++ entries.take (sqAvail g - g.buf.length) })
        (dropReads (· == .entries r.val) s)
      if s.host.quiesce then removeQueued r.val (ringOn r s1) else ringOn r s1)

/-! ### Ring registers (Table 12.3) -/

/-- A write of the submission control register (Table 12.3). SQ_ENABLE acts where it goes from 0 to 1 (log entry 20). A flush takes
effect at once at a packet boundary, and after the packet being read otherwise (R379). -/
def sqControl (r : Fin 256) (v : W32) (s : State) : State :=
  let g := ring s r
  let x := v.toNat
  let lg := fld x 8 5
  let g1 := { g with sqLog2 := BitVec.ofNat 5 lg, priv := if g.sqEnable then g.priv else bitOf x 2,
                     flush := g.flush || bitOf x 1,
                     readFirst := g.readFirst || (bitOf x 1 && !g.flush && reading r s) }
  let ok := decide (6 ≤ lg ∧ lg ≤ 16)
  let starts := bitOf x 0 && ok && !g.sqEnable
  let g2 :=
    if !bitOf x 0 then { g1 with sqEnable := false, last := g.last || (g.sqEnable && reading r s) }
    else if !ok then { g1 with tailInvalid := true }
    else if g.sqEnable then g1
    else { g1 with sqEnable := true, sqHead := 0, sqTail := 0, discard := 0, readFirst := false, flushLeft := 0, last := false, buf := [] }
  let s1 := if starts then dropReads (· == .entries r.val) s else s
  ringOn r (setRing s1 r g2)

/-- A write of SQ_TAIL (Table 12.3). -/
def sqTailWrite (r : Fin 256) (v : W32) (s : State) : State :=
  let g := ring s r
  let t := fld v.toNat 0 16
  if !g.sqEnable ∨ sqSize g ≤ t then setRing s r { g with tailInvalid := true }
  else ringOn r (discardEntries r (setRing s r { g with sqTail := BitVec.ofNat 16 t }))

/-- A write of the completion control register (Table 12.3). -/
def cqControl (r : Fin 256) (v : W32) (s : State) : State :=
  let g := ring s r
  let x := v.toNat
  let lg := fld x 8 5
  let vec := fld x 16 9
  let g1 := { g with cqLog2 := BitVec.ofNat 5 lg,
                     vector := if 4 ≤ vec ∧ vec ≤ 259 then BitVec.ofNat 9 vec else g.vector }
  retryRing r (setRing s r (
    if !bitOf x 0 then { g1 with cqEnable := false }
    else if lg < 6 ∨ 16 < lg then { g1 with tailInvalid := true }
    else if g.cqEnable then g1
    else { g1 with cqEnable := true, cqTail := 0, phase := true, unsignalled := 0 }))

/-- A write of CQ_HEAD (Table 12.3). -/
def cqHeadWrite (r : Fin 256) (v : W32) (s : State) : State :=
  let g := ring s r
  let h := fld v.toNat 0 16
  if 2 ^ g.cqLog2.toNat ≤ h then s else retryRing r (setRing s r { g with cqHead := BitVec.ofNat 16 h })

/-- A write of the ring status register: W1C flags. -/
def ringStatusWrite (r : Nat) (v : W32) (s : State) : State :=
  let x := v.toNat
  modRing r (fun g => { g with
    tailInvalid := g.tailInvalid && !bitOf x 0, badPacket := g.badPacket && !bitOf x 1,
    fetchFault := g.fetchFault && !bitOf x 2, queueReset := g.queueReset && !bitOf x 3,
    cqDropped := g.cqDropped && !bitOf x 4 }) s

/-- A write of the coalescing register. -/
def coalesceWrite (r : Nat) (v : W32) (s : State) : State :=
  signalRing r (modRing r (fun g => { g with coCount := BitVec.ofNat 8 (fld v.toNat 0 8),
                                             coTime := BitVec.ofNat 16 (fld v.toNat 8 16) }) s)

/-- A write of a ring base: discarded while the side is enabled. -/
def baseWrite (r : Nat) (sq : Bool) (v : W64) (s : State) : State :=
  modRing r (fun g =>
    if sq then (if g.sqEnable then g else { g with sqBase := BitVec.ofNat 52 (v.toNat / 2 ^ 12) })
    else if g.cqEnable then g else { g with cqBase := BitVec.ofNat 52 (v.toNat / 2 ^ 12) }) s

/-- A write of a word of the MSI-X table; unmasking a pending vector sends it, as the capability defines (R391; log entry
21). -/
def msixWrite (v i : Nat) (w : W32) (s : State) : State :=
  let m := msixEntry s v
  let m1 :=
    if i = 0 then { m with addrLo := BitVec.ofNat 32 (w.toNat / 4 * 4) } else if i = 1 then { m with addrHi := w }
    else if i = 2 then { m with data := w } else { m with ctl := BitVec.ofNat 32 (w.toNat % 2) }
  let s1 := { s with host := { s.host with msix := put (fun _ => {}) s.host.msix v m1 } }
  if m1.ctl = 0 ∧ look (fun _ => false) s.host.pba v then
    emit (.msix v) { s1 with host := { s1.host with pba := put (fun _ => false) s1.host.pba v false } }
  else s1

/-- SQ_ENABLE (R369): a write of the submission control register; below phase 7 it is discarded (R429). -/
def execSqEnable (r : Fin 256) (v : W32) (s : State) : Host.Outcome State Fault Refusal :=
  .next (if below7 s then s else sqControl r v s)

/-- RING_FLUSH (R379): a write of the submission control register with FLUSH. -/
def execRingFlush (r : Fin 256) (v : W32) (s : State) : Host.Outcome State Fault Refusal :=
  .next (if below7 s then s else sqControl r v s)

/-- SQ_TAIL (R372). -/
def execSqTail (r : Fin 256) (v : W32) (s : State) : Host.Outcome State Fault Refusal :=
  .next (if below7 s then s else sqTailWrite r v s)

/-- CQ_ENABLE (R386): a write of the completion control register. -/
def execCqEnable (r : Fin 256) (v : W32) (s : State) : Host.Outcome State Fault Refusal :=
  .next (if below7 s then s else cqControl r v s)

/-- CQ_HEAD (R389). -/
def execCqHead (r : Fin 256) (v : W32) (s : State) : Host.Outcome State Fault Refusal :=
  .next (if below7 s then s else cqHeadWrite r v s)

/-- HOST_TIMERS_WRITE (R393): HT is at least 16 beats and HEXT at least 8. -/
def hostTimers (v : W32) (s : State) : State :=
  { s with host := { s.host with ht := BitVec.ofNat 16 (max 16 (fld v.toNat 0 16)),
                                 hext := BitVec.ofNat 16 (max 8 (fld v.toNat 16 16)) } }

/-- HOST_TIMERS_WRITE (R393). -/
def execHostTimersWrite (v : W32) (s : State) : Host.Outcome State Fault Refusal :=
  .next (if below7 s then s else hostTimers v s)

/-- COALESCE_TIMEOUT (R392): a vector whose rings have unsignalled entries and a timer is signalled; vector 0 serves the
error ring (R499). -/
def execCoalesceTimeout (vec : Fin 260) (s : State) : Host.Outcome State Fault Refusal :=
  .next (
    if vec.val = 0 then
      (if s.err.unsignalled ≠ 0 ∧ s.err.coTime ≠ 0 then
        msix 0 { s with err := { s.err with unsignalled := 0 } } else s)
    else if (List.range 256).any fun r =>
        (ring s r).vector.toNat == vec.val && (ring s r).unsignalled != 0 && (ring s r).coTime != 0 then
      restartVector vec (msix vec s)
    else s)

/-- LINK_REPLAY_EPISODE (R393): every timer of a read outstanding is extended by HEXT. -/
def execLinkReplayEpisode (s : State) : Host.Outcome State Fault Refusal :=
  .next { s with host := { s.host with
    replays := s.host.replays + 1
    reads := s.host.reads.map fun x => { x with left := x.left + s.host.hext.toNat } } }

/-- LINK_RECOVERY_ENTRY (R393): every timer is frozen while the link is in Recovery. -/
def execLinkRecoveryEntry (s : State) : Host.Outcome State Fault Refusal :=
  .next { s with host := { s.host with recovery := true, recoveries := s.host.recoveries + 1 } }

/-- LINK_RECOVERY_EXIT (R393): the link returns to L0 and the timers resume. -/
def execLinkRecoveryExit (s : State) : Host.Outcome State Fault Refusal :=
  .next { s with host := { s.host with recovery := false } }

/-- SNOOP (R364): answered as a miss; the part holds no host line. -/
def execSnoop (addr : W64) (s : State) : Host.Outcome State Fault Refusal := .next (emit (.snoopMiss addr) s)

/-- The host link trains (R429), at 16 or 8 lanes and 64 or 32 GT/s and at nothing else (R363): narrower or slower than 16 lanes at 64
GT/s sets LINK_DEGRADED (Table 12.14), and a change of it signals vector 2 (Table 12.10). With another width or speed offered no link
comes up. -/
def trainLink (s : State) : State :=
  let w := s.su.trainWidth.toNat
  let v := s.su.trainSpeed.toNat
  let up : Bool := decide ((w = 8 ∨ w = 16) ∧ (v = 5 ∨ v = 6))
  let bad : Bool := up && decide (w = 8 ∨ v = 5)
  let s1 := { s with host := { s.host with
    width := if up then s.su.trainWidth else 0, speed := if up then s.su.trainSpeed else 0, degraded := bad, recovery := false } }
  if bad ≠ s.host.degraded then msix 2 s1 else s1

/-- PERST_DEASSERT (R429): the link trains at once from phase 1 on, and at entry to phase 1 before it. -/
def execPerstDeassert (width : BitVec 5) (speed : BitVec 4) (s : State) : Host.Outcome State Fault Refusal :=
  let s1 := { s with su := { s.su with perst := true, trainWidth := width, trainSpeed := speed } }
  .next (if s.su.phase = 0 then s1 else trainLink s1)

end Sys2Proof.Machine
end

