-- ==== Sys2Proof/Machine/ServingOps.lean ====
section
/-! DEFINITION. Context records, page tables, prefix trees and step boundaries (R230 to R232, R261 to R290, R382 to R384). -/

namespace Sys2Proof.Machine

/-- The records of a binding that are not FREE, ascending (R264). -/
def recordsOf (s : State) (b : Nat) : List Nat :=
  (s.srv.ctx.filter fun p => p.2.st != 0 && p.2.tenant.toNat == b).map (·.1)

/-- The command a record's work belongs to. -/
def workOf (s : State) (r : Nat) : Option Work := look (fun _ => none) s.host.work r

/-- The work of a record replaced. -/
def setWork (r : Nat) (w : Option Work) (s : State) : State :=
  { s with host := { s.host with work := put (fun _ => none) s.host.work r w } }

/-- An entry for record `r`'s command with a status and kind. -/
def recordCompl (s : State) (r : Nat) (w : Work) (status kind : Nat) : Compl :=
  { compl w.cmd.tag status with
    kind := BitVec.ofNat 2 kind, record := BitVec.ofNat 32 r, count := BitVec.ofNat 32 w.count,
    length := BitVec.ofNat 32 (ctx s r).length.toNat, binding := (ctx s r).tenant,
    detail := if w.opening ∧ (ctx s r).role = 1 then BitVec.ofNat 32 (ctx s r).peer.toNat else 0 }

/-- The command of a record's work ends with a status (R382); the reads of its prompt, for the record and for its partner, are no longer
wanted. -/
def endWork (r status : Nat) (s : State) : State :=
  match workOf s r with
  | none => s
  | some w =>
    dropReads (fun x => x == .tokens r || ((ctx s r).role != 0 && x == .tokens (ctx s r).peer.toNat))
      (setWork r none (finish w.cmd.ring 1 (recordCompl s r w status 0) s))

/-- A notice for a record: its work goes on (R387). -/
def noticeWork (r status : Nat) (s : State) : State :=
  match workOf s r with
  | none => s
  | some w => complete w.cmd.ring (recordCompl s r w status 3) s

/-- The plan image of a binding. -/
def planOf (s : State) (b : Nat) : List Byte := (brun s b).plan

/-- The binding of a record. -/
def tenantOf (s : State) (r : Nat) : Nat := (ctx s r).tenant.toNat

/-- The longest sequence a plan's schedule covers: the least MAX_CTX of its attention layers (Table 8.1). -/
def maxCtx (p : List Byte) : Nat := (attnLayers p).foldl (fun a l => min a (attn p l 20 4)) 4194304

/-- A counter of a binding's home cluster raised (R291). -/
def bumpHome (b off n : Nat) (s : State) : State := bump (homeCluster s b) off n s

/-- What the step kept of a record for one vector: kind 0 carries, 1 scale states, 2 key-value carries, as (key, value). The
key of an entry is record × 2^64 + kind × 2^62 + vector × 2^54 + key. -/
def kept (s : State) (c kind v : Nat) : List (Nat × Option W16) := s.srv.hist.filterMap fun p =>
  if p.1 / 2 ^ 64 = c ∧ p.1 / 2 ^ 62 % 4 = kind ∧ p.1 / 2 ^ 54 % 256 = v then p.2.map fun w => (p.1 % 2 ^ 54, w) else none

/-- A record's carries and scale states set to what the step kept of one vector. -/
def putKept (c v : Nat) (s : State) : State :=
  let key (k : Nat) : Nat := c * 2 ^ 64 + k
  { s with srv := { s.srv with
    carry := (kept s c 0 v).foldl (fun m q => put (fun _ => 0) m (key q.1) (q.2.getD 0)) s.srv.carry
    scale := (kept s c 1 v).foldl (fun m q => put (fun _ => none) m (key q.1) q.2) s.srv.scale
    kvCarry := (kept s c 2 v).foldl (fun m q => put (fun _ => 0) m (key q.1) (q.2.getD 0)) s.srv.kvCarry } }

/-- A record's carries and scale states as they were before the step (R147): those of the pseudo-vector 64. -/
def restoreSeq (c : Nat) (s : State) : State := putKept c 64 s

/-- The sequences of a binding's step in progress end it without a token and with what they held before it (R147, items 1 to 3;
R62; R340): nothing of the layer steps in progress on its cores is committed. -/
def abandonStep (b : Nat) (s : State) : State :=
  forAll ((brun s b).slots.filterMap id) (fun c s => modCtxRun c (fun r => { r with fed := 0, yToks := [] }) (restoreSeq c s))
    (forAll (heldBy s b) (fun k => modCore k fun q => { q with ls := {}, mergeWait := none, mergeOuts := [], tileUse := 0, tileSeen := 0 }) s)

/-- The tenant's step ends on every core of its binding without committing any result (R62): the sequences end it without a
token, queued passes are gone, and the records up to the STEPEND do nothing. -/
def endStep (b : Nat) (s : State) : State :=
  let s1 := forAll (heldBy s b) (fun k s =>
    forAll (List.range 17) (fun e => modEngine (17 * k + e) fun g => { g with queue := [], split := none })
      (modCore k (fun q => { q with early := [], redIn := [], mergeIn := [], ringBlks := [] }) s)) s
  modBrun b (fun r => { r with dead := true }) (abandonStep b s1)

/-! ### Sequence slots and vectors -/

/-- An access of the control core or the ladle that the frame owner check turns away (R352): recorded at the binding's home cluster, and
the tenant's step ends as R62 ends it. -/
def servingFault (b f blk : Nat) (write : Bool) (s : State) : State :=
  endStep b (ownerFault b f blk write { (err 0x13 1 0 0 0).atCluster (homeCluster s b) with step := (entry s b).steps } s)

/-- Bytes of one frame written for binding `b`: into a frame of another owner they are discarded (R352). -/
def putOf (b a : Nat) (bs : List Byte) (s : State) : State :=
  if owner s (a / 65536) = .tenant b then memPut a bs s else servingFault b (a / 65536) (a % 65536 / 256) true s

/-- A frame about to be read for binding `b` passes the frame owner check, or the read is a fault (R352). -/
def readChecked (b f : Nat) (s : State) : State := if owner s f = .tenant b then s else servingFault b f 0 false s

/-! ### Page tables (R230, R231) -/

/-- An entry of a page-table frame of binding `b`. -/
def pte (s : State) (b f i : Nat) : Nat := leAt (memOf s b (65536 * f + 8 * i) 8) 0 8

/-- An entry of a page-table frame written. -/
def setPte (b f i v : Nat) (s : State) : State := putOf b (65536 * f + 8 * i) (leBytes 8 v) s

/-- FRAME of an entry. -/
def pteFrame (v : Nat) : Nat := fld v 0 24
/-- VALID of an entry. -/
def pteValid (v : Nat) : Bool := bitOf v 24
/-- SHARED of an entry. -/
def pteShared (v : Nat) : Bool := bitOf v 25

/-- The table frame that holds page `p` of a stream, if the directories name one. -/
def tableFrame (s : State) (b root stream p : Nat) : Option Nat :=
  let r := pte s b root stream
  if !pteValid r then none
  else
    let d := pte s b (pteFrame r) (p / 8192)
    if pteValid d then some (pteFrame d) else none

/-- The page-table entry of page `p` of a stream; 0 where none exists. -/
def pageEntry (s : State) (b root stream p : Nat) : Nat :=
  match tableFrame s b root stream p with
  | none => 0
  | some t => pte s b t (p % 8192)

/-- Translations of a page invalidated in every core share of the binding's cores and in its overflow share (R231). -/
def dropTranslation (b c stream p : Nat) (s : State) : State :=
  let hit (e : Option TsEntry) : Bool :=
    match e with | some t => t.ctx == c && t.stream == stream && t.page == p | none => false
  let s1 := forAll (mapCores s b) (fun k s =>
    let n := ((core s k).ts.filter fun x => hit x.2).length
    if n = 0 then s
    else bump (clOf k) 0x718 n (modCore k (fun q => { q with ts := q.ts.filter fun x => !hit x.2 }) s)) s
  let o := (brun s1 b).ovfShare
  let keep := o.filter fun x => !(x.1 == c && x.2.1 == stream && x.2.2.1 == p)
  if keep.length = o.length then s1
  else bumpHome b 0x718 (o.length - keep.length) (modBrun b (fun r => { r with ovfShare := keep }) s1)

/-- A frame to be returned at the next stage 5 (R267, R281). -/
def returnLater (b f : Nat) (s : State) : State := modBrun b (fun r => { r with returns := r.returns ++ [f] }) s

/-! ### Prefix trees (R275 to R281) -/

/-- A node of a binding's tree. -/
def node (s : State) (b n : Nat) : Option Node := look (fun _ => none) (brun s b).tree n

/-- The children of a node that stand in the tree, by ascending index. -/
def children (s : State) (b n : Nat) : List Nat :=
  ((brun s b).tree.filter fun p => match p.2 with | some x => x.inTree && x.parent == n && p.1 != 0 | none => false).map (·.1)

/-- The first of a list of node indices, 0xFFFF_FFFF for none. -/
def firstOf (l : List Nat) : Nat := l.headD 0xFFFFFFFF

/-- The 32 bytes of node `n` (Table 9.6): a node's children stand in a chain by ascending index (log entry 133). -/
def nodeEntry (s : State) (b n : Nat) : List Byte :=
  let first := firstOf (children s b n)
  match node s b n with
  | none => if n = 0 then leBytes 32 (packBits [(0, 32), (first, 32), (0xFFFFFFFF, 32), (0, 56), (1, 8), (0, 96)]) else leBytes 32 0
  | some x =>
    let next := if x.inTree then firstOf ((children s b x.parent).filter fun i => decide (n < i)) else 0xFFFFFFFF
    leBytes 32 (packBits [(x.parent, 32), (first, 32), (next, 32), (x.count, 32), (x.pins, 16), (x.tokens.length - 1, 8),
      (bit x.inTree, 8), (x.lastUsed.toNat, 32), (x.setFrame, 24), (0, 8), (x.hash.toNat, 32)])

/-- A node's bytes laid in the binding's prefix-tree region (R275, R201). -/
def layNode (b n : Nat) (s : State) : State :=
  match (brun s b).treeBase[n / 2048]? with
  | none => s
  | some f => putOf b (65536 * f + 32 * (n % 2048)) (nodeEntry s b n) s

/-- A node replaced, and its bytes, its parent's and its siblings' laid again. -/
def setNode (b n : Nat) (x : Option Node) (s : State) : State :=
  let up (s : State) : List Nat := match node s b n with | none => [] | some y => y.parent :: children s b y.parent
  let s1 := modBrun b (fun r => { r with tree := put (fun _ => none) r.tree n x }) s
  forAll ((n :: up s ++ up s1).dedup) (layNode b) s1

/-- A node changed. -/
def modNode (b n : Nat) (f : Node → Node) (s : State) : State :=
  match node s b n with
  | none => s
  | some x => setNode b n (some (f x)) s

/-- Depth of a node: 0 for the root. -/
def depthOf (s : State) (b : Nat) : Nat → Nat → Nat
  | 0, _ => 0
  | fuel + 1, n => if n = 0 then 0 else match node s b n with | none => 0 | some x => 1 + depthOf s b fuel x.parent

/-- Depth of a node of a binding's tree. -/
def nodeDepth (s : State) (b n : Nat) : Nat := depthOf s b ((brun s b).tree.length + 1) n

/-- A record's reference on the node of its shared page `p` dropped, once its page table names none of the node's frames (R268,
R278); `stream` and `frame` are the entry that was cleared. -/
def dropReference (b c p stream frame : Nat) (s : State) : State :=
  match (ctxRun s c).refs.find? fun n => match node s b n with | some x => x.frames.contains (stream, frame) | none => false with
  | none => s
  | some n =>
    let named := match node s b n with
      | none => false
      | some x => x.frames.any fun q =>
          let e := pageEntry s b (ctx s c).root.toNat q.1 p
          pteValid e && pteFrame e == q.2
    if named then s
    else modCtxRun c (fun r => { r with refs := r.refs.filter (· != n) }) (modNode b n (fun x => { x with count := x.count - 1 }) s)

/-- A page of a record given back: its entry is cleared, and a private page's frame returns at stage 5 (R267, R268). -/
def dropPage (b c stream p : Nat) (s : State) : State :=
  match tableFrame s b (ctx s c).root.toNat stream p with
  | none => s
  | some t =>
    let e := pte s b t (p % 8192)
    if !pteValid e then s
    else
      let s1 := dropTranslation b c stream p (setPte b t (p % 8192) 0 s)
      if pteShared e then dropReference b c p stream (pteFrame e) s1 else returnLater b (pteFrame e) s1

/-- A node with no holder and no pin gives its frames back, and its slot becomes free (R281). -/
def freeNode (b n : Nat) (s : State) : State :=
  match node s b n with
  | none => s
  | some x =>
    if x.count = 0 ∧ x.pins = 0 ∧ n ≠ 0 then
      forAll (x.setFrame :: x.frames.map (·.2)) (fun f => returnFrame b true f) (setNode b n none s)
    else s

/-- The leaf of a binding's tree that eviction takes: COUNT 1, lowest LAST_USED, lowest index (R280). -/
def evictable (s : State) (b : Nat) : Option Nat :=
  let c := (brun s b).tree.filterMap fun p => match p.2 with
    | some x => if x.inTree ∧ x.count = 1 ∧ p.1 ≠ 0 ∧ (children s b p.1).isEmpty then some (x.lastUsed.toNat, p.1) else none
    | none => none
  (c.foldl (fun (a : Option (Nat × Nat)) p => match a with
    | none => some p
    | some q => if p.1 < q.1 then some p else some q) none).map (·.2)

/-- One leaf evicted (R280). -/
def evictOne (b : Nat) (s : State) : Option State :=
  (evictable s b).map fun n =>
    freeNode b n (bumpHome b 0x820 1 (modNode b n (fun x => { x with inTree := false, count := 0 }) s))

/-- Every leaf that eviction may take, evicted in turn: what a shortage that stands leaves behind (R280). -/
def evictAll (b : Nat) (s : State) : State :=
  upto (brun s b).tree.length (fun _ s => (evictOne b s).getD s) s

/-- A frame charged to the binding, with eviction when short (R280). -/
def allocEvict (b : Nat) : Nat → State → Option (Nat × State)
  | 0, s => allocFrame b (homeCluster s b / 28) true s
  | fuel + 1, s =>
    match allocFrame b (homeCluster s b / 28) true s with
    | some r => some r
    | none => match evictOne b s with
      | none => none
      | some s1 => allocEvict b fuel s1

/-- A frame with eviction of as many leaves as the tree has. -/
def allocCharged (b : Nat) (s : State) : Option (Nat × State) := allocEvict b (brun s b).tree.length s

/-- An entry of a page-table frame made valid with a newly allocated frame, or left as it stands. -/
def ensureEntry (b f i : Nat) (s : State) : Option (Nat × State) :=
  let e := pte s b f i
  if pteValid e then some (pteFrame e, s)
  else (allocCharged b s).map fun r => (r.1, setPte b f i (r.1 + 2 ^ 24) r.2)

/-- The same for an entry that names a directory or table frame, which has no valid entry when it is new. -/
def ensureTable (b f i : Nat) (s : State) : Option (Nat × State) :=
  let e := pte s b f i
  if pteValid e then some (pteFrame e, s)
  else (allocCharged b s).map fun r => (r.1, setPte b f i (r.1 + 2 ^ 24) (clearFrame r.1 r.2))

/-- Page `p` of a stream of a record made valid, with its directories (R232). -/
def ensurePage (b c stream p : Nat) (s : State) : Option State :=
  match ensureTable b (ctx s c).root.toNat stream s with
  | none => none
  | some (d, s1) =>
    match ensureTable b d (p / 8192) s1 with
    | none => none
    | some (t, s2) => (ensureEntry b t (p % 8192) s2).map (·.2)

/-- A list of pages made valid in turn, or none. -/
def ensurePages (b c : Nat) : List (Nat × Nat) → State → Option State
  | [], s => some s
  | x :: t, s => match ensurePage b c x.1 x.2 s with | none => none | some s1 => ensurePages b c t s1

/-- The page of a stream that ring membership places on this part (R256). -/
def holdsPage (s : State) (b l p : Nat) : Bool :=
  let n := atRing (planOf s b) l
  n == 0 || p % n == ((entry s b).planPart.toNat + plParts (planOf s b) - attn (planOf s b) l 28 2 % 512) % max 1 (plParts (planOf s b))

/-- The ladle's read of prompt tokens for a record (R272). -/
def readTokens (r : Nat) (s : State) : State := startRead (.tokens r) s

/-- The pages that hold positions lo .. hi - 1, per stream, that this part holds. -/
def pagesFor (s : State) (b lo hi : Nat) : List (Nat × Nat) :=
  (streams (planOf s b)).flatMap fun x =>
    let t := atT (planOf s b) x.2.1
    ((List.range (ceilDiv hi t - lo / t)).map fun i => lo / t + i).filterMap fun p =>
      if holdsPage s b x.2.1 p then some (x.1, p) else none

/-- One past the last token that a record's ring holds: the prompt tokens filled from the host, then INPUT_END (R272). -/
def filledTo (s : State) (c : Nat) : Nat :=
  let r := ctxRun s c
  if r.filled < r.fillEnd then r.filled else (ctx s c).inputEnd.toNat

/-- A token of a record's token buffer (R272). -/
def tokenAt (s : State) (c p : Nat) : W32 := 
  BitVec.ofNat 32 (leAt (memOf s (tenantOf s c) (65536 * (ctx s c).tokbuf.toNat + 4 * (p % 16384)) 4) 0 4)

/-- A token written to a record's token buffer. -/
def setToken (c p : Nat) (t : W32) (s : State) : State :=
  putOf (tenantOf s c) (65536 * (ctx s c).tokbuf.toNat + 4 * (p % 16384)) (leBytes 4 t.toNat) s

/-- The record is in prefill phase (R270). -/
def prefilling (s : State) (c : Nat) : Bool := decide ((ctx s c).length.toNat + 2 ≤ (ctx s c).inputEnd.toNat)

/-- A draft round's length k (R287). -/
def roundLen (s : State) (c : Nat) : Nat :=
  let x := ctx s c
  if x.role ≠ 1 ∨ x.suspended ∨ x.genLeft = 0 then 0
  else min x.draftLen.toNat (min (x.genLeft.toNat - 1) (x.limit.toNat - x.length.toNat - 1))

/-- A draft's main holds its pending token and its round has room for one more proposal (R287). -/
def roundOpen (s : State) (m : Nat) : Bool :=
  !prefilling s m && decide ((ctx s m).length < (ctx s m).inputEnd) && decide ((ctxRun s m).drafts.length < roundLen s m)

/-- Tokens a slot's record feeds in a step (R270, R272, R287). A main record waits for its round's proposals; a draft goes on with its
main's prompt, and past it while its round is open (log entry 22). A record whose end is decided feeds nothing more. -/
def feedCount (s : State) (c : Nat) : Nat :=
  let x := ctx s c
  let m := x.peer.toNat
  let held := filledTo s c - x.length.toNat
  if x.st ≠ 2 ∨ x.copying ∨ (ctxRun s c).endWith.isSome then 0
  else if x.role = 2 ∧ ((ctx s m).suspended ∨ (!prefilling s m ∧ !roundOpen s m)) then 0
  else if prefilling s c then min (plVec (planOf s (tenantOf s c))) held
  else if held = 0 then 0
  else if x.role = 1 then
    let k := roundLen s c
    if k ≤ (ctxRun s c).drafts.length then 1 + k else 0
  else if x.role = 2 then bit (roundOpen s m)
  else 1

/-! ### Records -/

/-- A record written with zeros, and its binding's count lowered (R267). -/
def clearRecord (c : Nat) (s : State) : State :=
  let b := tenantOf s c
  let s1 := modBrun b (fun r => { r with slots := r.slots.map fun x => if x = some c then none else x,
                                         queued := r.queued.filter (· != c) }) s
  let s2 := setCtxRun (setCtx s1 c {}) c {}
  let clean {α : Type} (m : SMap α) : SMap α := m.filter fun p => p.1 / 2 ^ 64 != c
  let s3 := { s2 with srv := { s2.srv with carry := clean s2.srv.carry, scale := clean s2.srv.scale,
                                           kvCarry := clean s2.srv.kvCarry, hist := clean s2.srv.hist } }
  modEntry b (fun e => { e with ctxUsed := e.ctxUsed - 1 }) s3

/-- A record's prompt tokens from position `lo` on, as it fed them. -/
def nodeTokens (s : State) (c lo n : Nat) : List W32 :=
  ((ctxRun s c).shareToks.drop (lo - (ctxRun s c).shareFrom)).take n

/-- The tokens of T at a position of the plan's pages: the page length of its first attention layer. -/
def pageTokens (p : List Byte) : Nat := match attnLayers p with | [] => 8 | l :: _ => atT p l

/-- A page of a record entered in the tree below a node, with `n` tokens from position `lo` and these holders (R277). A page whose entry
in a window's layer was released before is inserted with the streams that remain (DESIGN CHOICE, log entry 164). -/
def insertNode (b c parent lo n count : Nat) (s : State) : Option (Nat × State) :=
  match allocFrame b (homeCluster s b / 28) true s with
  | none => none
  | some (f, s1) =>
    let cap := (entry s b).prefixFrames.toNat * 2048
    let idx := gapFrom 1 (brun s1 b).tree
    if cap ≤ idx then none
    else
      let toks := nodeTokens s1 c lo n
      let t := pageTokens (planOf s1 b)
      let fr := (streams (planOf s1 b)).filterMap fun x =>
        let e := pageEntry s1 b (ctx s1 c).root.toNat x.1 (lo / t)
        if pteValid e then some (x.1, pteFrame e) else none
      let s2 := forAll fr (fun y => putOf b (65536 * f + 1024 + 8 * y.1) (leBytes 8 (y.2 + 2 ^ 24)))
        (putOf b (65536 * f) (wordsBytes toks) s1)
      some (idx, setNode b idx (some
        { parent := parent, count := count, pins := 0, inTree := true, lastUsed := (entry s b).steps, setFrame := f,
          tokens := toks, hash := crc32 (wordsBytes toks), frames := fr }) s2)

/-- A node stands in the tree; the root always does (R275). -/
def inTree (s : State) (b n : Nat) : Bool := n == 0 || (match node s b n with | some x => x.inTree | none => false)

/-- Whether a child of a node already holds these tokens (R277). -/
def hasChild (s : State) (b n : Nat) (toks : List W32) : Bool :=
  (children s b n).any fun i => match node s b i with | some x => x.tokens == toks | none => false

/-- A record's partial last prompt page offered to the tree at release (R267, R277). -/
def offerPartial (c : Nat) (s : State) : State :=
  let b := tenantOf s c
  let x := ctx s c
  let r := ctxRun s c
  let t := pageTokens (planOf s b)
  let lo := r.prompt / t * t
  let at_ := if x.prefNode = 0xFFFFFFFF then 0 else x.prefNode.toNat
  let n := r.prompt - lo
  if !x.share ∨ n = 0 ∨ x.length.toNat < r.prompt ∨ !r.inserting ∨ nodeDepth s b at_ ≠ lo / t ∨ lo < r.shareFrom ∨ !inTree s b at_
     ∨ hasChild s b at_ (nodeTokens s c lo n) then s
  else
    match insertNode b c at_ lo n 1 s with
    | none => s
    | some (_, s1) =>
      -- the record's reference passes to the tree: its entries of the page are cleared and keep their frames
      forAll (streams (planOf s1 b)) (fun y s => match tableFrame s b x.root.toNat y.1 (lo / t) with
        | none => s
        | some tf => dropTranslation b c y.1 (lo / t) (setPte b tf (lo / t % 8192) 0 s)) s1

/-- Everything a record holds is given back (R267): pages, references, pins (`matched` names the node of a copy that has not completed),
page-table, token-buffer and state frames. -/
def releaseRecord (c : Nat) (s : State) : State :=
  let b := tenantOf s c
  let s0 := offerPartial c s
  let x := ctx s0 c
  let r := ctxRun s0 c
  let p := planOf s0 b
  let hi := max x.length.toNat x.inputEnd.toNat + plVec p + 1
  let s1 := forAll (streams p) (fun y s =>
    let root := pte s b x.root.toNat y.1
    if !pteValid root then s
    else
      let last := hi / atT p y.2.1
      let s := forAll (List.range (last + 1)) (fun q => dropPage b c y.1 q) s
      let s := forAll (List.range (last / 8192 + 1)) (fun i s =>
        let d := pte s b (pteFrame root) i
        if pteValid d then returnLater b (pteFrame d) s else s) s
      returnLater b (pteFrame root) s) s0
  let s2 := forAll (ctxRun s1 c).refs (fun n => modNode b n fun y => { y with count := y.count - 1 }) s1
  let s3 := forAll r.walked (fun n => modNode b n fun y => { y with pins := y.pins - 1 }) s2
  let s4 := forAll r.matched (fun n => modNode b n fun y => { y with pins := y.pins - 1 }) s3
  let s5 := forAll ([x.root.toNat, x.qstate.toNat, x.tokbuf.toNat] ++ r.qframes) (returnLater b) s4
  bumpHome b 0x804 1 (clearRecord c s5)

/-- A record leaves its slot. -/
def vacate (c : Nat) (s : State) : State :=
  modBrun (tenantOf s c) (fun r => { r with slots := r.slots.map fun x => if x = some c then none else x })
    (modCtx c (fun x => { x with inSlot := false, slot := 0 }) s)

/-- A record goes IDLE with what it holds kept and its pending work discarded (Table 9.3). -/
def idleRecord (c : Nat) (s : State) : State :=
  let s1 := modCtxRun c (fun r => { r with extend := none }) (vacate c s)
  modBrun (tenantOf s c) (fun r => { r with queued := r.queued.filter (· != c) })
    (modCtx c (fun x => { x with st := 3, genLeft := 0, inputEnd := BitVec.ofNat 23 (min x.inputEnd.toNat (x.length.toNat + 1)) })
      (modCtxRun c (fun r => { r with filled := r.fillEnd, drafts := [] }) s1))

/-- A record's end is decided: ENDING, released at the next stage 2 (R266). -/
def endRecord (c : Nat) (s : State) : State :=
  modBrun (tenantOf s c) (fun r => { r with queued := r.queued.filter (· != c) })
    (modCtx c (fun x => { x with st := 4 }) (vacate c s))

/-- The paired record of a main or draft, if it has one (R286). -/
def partner (s : State) (c : Nat) : Option Nat :=
  let x := ctx s c
  let y := ctx s x.peer.toNat
  if x.role = 0 ∨ y.st = 0 ∨ y.role = 0 ∨ y.peer.toNat ≠ c then none else some x.peer.toNat

/-- The record whose command a record's work belongs to: a draft works for its main (R286). -/
def ownerOf (s : State) (c : Nat) : Nat := if (ctx s c).role = 2 then (partner s c).getD c else c

/-- A status that ends the sequence whatever KEEP says (R266, R383, R396). -/
def endsAlways (status : Nat) : Bool := status == 2 || status == 3 || status == 0x0F || status == 0x16

/-- A status that leaves KEEP to decide: work exhausted, a stop token, and input that cannot be fed (R274, R272). -/
def keepDecides (status : Nat) : Bool := status == 0 || status == 1 || status == 7

/-- The end of a record's work is decided with a status: it takes effect at a boundary of the record's binding (R264). The first
decision stands (R383). -/
def decideEnd (c status : Nat) (s : State) : State :=
  modCtxRun c (fun r => { r with endWith := r.endWith.orElse fun _ => some (BitVec.ofNat 8 status) }) s

/-- The partner of a record whose work has ended learns of it, while it has work or an end of its own to come (R286). -/
def tellPartner (c status : Nat) (ends : Bool) (s : State) : State :=
  match partner s c with
  | none => s
  | some d =>
    if (ctx s d).st = 4 ∨ ((ctx s d).st = 3 ∧ !ends) then s
    else if ends then modCtxRun d (fun r => { r with endWith := some (BitVec.ofNat 8 status) }) s
    else decideEnd d status s

/-- A decided end takes effect at a boundary of the record's binding (R264, R266, R274): its command completes, and the record goes
IDLE or ENDING. A QUEUED record goes IDLE by a flush alone (R384); its other ends wait for its slot (Table 9.3). -/
def settleEnd (c : Nat) (s : State) : State :=
  match (ctxRun s c).endWith with
  | none => s
  | some e =>
    let x := ctx s c
    let ends := endsAlways e.toNat || (keepDecides e.toNat && !x.keep)
    if x.st = 0 ∨ x.st = 4 ∨ (x.st = 1 ∧ !ends ∧ e ≠ 4) then s
    else
      let s1 := tellPartner c e.toNat ends (endWork c e.toNat (modCtxRun c (fun r => { r with endWith := none }) s))
      if ends then endRecord c s1 else idleRecord c s1

/-- A record's work is ended at a boundary, after the ends decided within the step have taken effect (R383, R384, R396). -/
def cancelRecord (c status : Nat) (s : State) : State :=
  settleEnd c (modCtxRun c (fun r => { r with endWith := some (BitVec.ofNat 8 status) }) s)

/-- The command of a record's work fails at once; the record, and its partner with it, follow at a boundary (R264, R306, R394). -/
def failWork (c status : Nat) (s : State) : State :=
  forAll (c :: (partner s c).toList) (decideEnd · status) (endWork (ownerOf s c) status s)

/-! ### Emission (R273, R274, R287 to R290) -/

/-- One Philox4x32 round. -/
def philoxRound (k0 k1 : Nat) (c : Nat × Nat × Nat × Nat) : Nat × Nat × Nat × Nat :=
  let m0 := 0xD2511F53 * c.1
  let m1 := 0xCD9E8D57 * c.2.2.1
  (Nat.xor (Nat.xor (m1 / 2 ^ 32) c.2.1) k0, m1 % 2 ^ 32, Nat.xor (Nat.xor (m0 / 2 ^ 32) c.2.2.2) k1, m0 % 2 ^ 32)

/-- Philox4x32-10: word 0 of the output for a key and counter (R273). -/
def philox : Nat → Nat → Nat → Nat × Nat × Nat × Nat → Nat
  | 0, _, _, c => c.1
  | n + 1, k0, k1, c => philox n ((k0 + 0x9E3779B9) % 2 ^ 32) ((k1 + 0xBB67AE85) % 2 ^ 32) (philoxRound k0 k1 c)

/-- draw(p, d) of R273, in units of 2^-24. -/
def draw (s : State) (c p d : Nat) : Nat :=
  philox 10 (ctx s c).seed.toNat (c % 2 ^ 32) (p % 2 ^ 32, d, 0, 0) / 2 ^ 8

/-- draw as an FP32 word, exact. -/
def draw32 (n : Nat) : W32 := f32Of { m := n, e := -24 }

/-- (a - b) / t rounded once (R273); of a value not finite the result is open (log entry 15). -/
def fquotDiff (a b t : W32) : W32 :=
  if fin32 a ∧ fin32 b ∧ fin32 t ∧ !zeroF f32 t.toNat then
    let d := dyAdd (fv a) (dyNeg (fv b))
    let y := magVal f32 t.toNat
    BitVec.ofNat 32 (signed f32 (decide (d.m < 0) != negOf f32 t.toNat) (roundMag f32 false d.m.natAbs y.1 (d.e - y.2)).1)
  else Config.nonFinite 2 a b

/-- The weights of R273 over candidates (value, index). -/
def weights (temp : W32) (cs : List (W32 × W32)) : List W32 :=
  cs.map fun x => fexp (fquotDiff x.1 (cs.headD (0, 0)).1 temp)

/-- The lowest index whose left-to-right partial sum exceeds a bound, or the last index (R273). -/
def pickIndex (bound : W32) : Nat → W32 → List W32 → Nat
  | i, _, [] => i - 1
  | i, a, w :: t => let a1 := fadd a w; if !fle a1 bound then i else pickIndex bound (i + 1) a1 t

/-- Selection over weights with a draw (R273). -/
def pickWeighted (u : Nat) (ws : List W32) : Nat :=
  let total := ws.foldl fadd 0
  pickIndex (fmul (draw32 u) total) 0 0 ws

/-- Token selection of R273 for position `p` from candidates. -/
def selectToken (s : State) (c p : Nat) (cs : List (W32 × W32)) : W32 :=
  let x := ctx s c
  if !x.sampled then (cs.headD (0, 0)).2
  else
    let n := min x.topk.toNat cs.length
    let t := h2f x.temp
    (cs.getD (pickWeighted (draw s c p 0) (weights t (cs.take n))) (0, 0)).2

/-- Candidates with normalised weights (R287). -/
def normal (s : State) (c : Nat) (cs : List (W32 × W32)) : List (W32 × W32) :=
  let x := ctx s c
  let u := cs.take (min (max 1 x.topk.toNat) cs.length)
  let ws := weights (h2f x.temp) u
  let total := ws.foldl fadd 0
  (u.zip ws).map fun q => (q.1.2, fdiv q.2 total)

/-- A token's weight: 0 outside the candidates. -/
def weightOf (l : List (W32 × W32)) (t : W32) : W32 := ((l.find? fun q => q.1 == t).map (·.2)).getD 0

/-- The accepted count and the main's last token of a round (R287). -/
def acceptRound (s : State) (c lpos : Nat) : Nat → List Draft → List (W32 × List (W32 × W32)) → Nat × W32
  | i, d :: ds, y :: ys =>
    let x := ctx s c
    if !x.sampled then
      if d.token = y.1 then acceptRound s c lpos (i + 1) ds ys else (i, y.1)
    else
      let pm := normal s c y.2
      let m := weightOf pm d.token
      let q := weightOf d.weights d.token
      let u := draw32 (draw s c (lpos + i + 1) 1)
      -- accepted when u < min(1, pm / pd): exactly, u * pd < pm, or pd is zero
      if dyLt (dyMul (fv u) (fv q)) (fv m) then acceptRound s c lpos (i + 1) ds ys
      else
        let rest := pm.map fun z => (z.1, let v := fsub z.2 (weightOf d.weights z.1); if fle v 0 then (0 : W32) else v)
        (i, (rest.getD (pickWeighted (draw s c (lpos + i + 1) 2) (rest.map (·.2))) (0, 0)).1)
  | i, [], y :: _ => (i, y.1)
  | i, _, [] => (i, 0)

/-- One token emitted (R274, R388): in the buffer at the next position, and to the host. A length at LIMIT ends the sequence before a
stop token is looked at (R266). Answers whether emission goes on. -/
def emitToken (c : Nat) (t : W32) (s : State) : State × Bool :=
  let x := ctx s c
  let pos := x.length.toNat
  let b := tenantOf s c
  let s1 := setToken c pos t (modCtx c (fun y => { y with inputEnd := BitVec.ofNat 23 (pos + 1), genLeft := y.genLeft - 1 }) s)
  let s2 := if x.role = 2 then s1 else
    match workOf s1 c with
    | none => s1
    | some w =>
      bumpHome b 0x808 1 (emit (.token c t) (writeHost (w.outAddr + BitVec.ofNat 64 (4 * w.count)) (leBytes 4 t.toNat)
        (setWork c (some { w with count := w.count + 1 }) s1)))
  let status : Option Byte :=
    if x.limit.toNat ≤ pos then some 2
    else if t = x.stop0 ∧ x.stop0 ≠ 0xFFFFFFFF then some 1
    else if t = x.stop1 ∧ x.stop1 ≠ 0xFFFFFFFF then some 1
    else if x.genLeft.toNat ≤ 1 then some 0 else none
  match status with
  | none => (s2, true)
  | some st => (decideEnd c st.toNat s2, false)

/-- Tokens emitted in turn, each moving LENGTH on first where it is not the first (R274). -/
def emitTokens (c : Nat) : Bool → List W32 → State → State
  | _, [], s => s
  | first, t :: ts, s =>
    let s1 := if first then s else modCtx c (fun y => { y with length := y.length + 1 }) s
    let r := emitToken c t s1
    if r.2 then emitTokens c false ts r.1 else r.1

/-- A step of a main record while its drafting is suspended (R289, R290). -/
def countSuspended (c : Nat) (s : State) : State :=
  let b := tenantOf s c
  let x := ctx s c
  if x.role ≠ 1 ∨ !x.suspended then s
  else
    let n := x.suspSteps + 1
    if plRearm (planOf s b) ≠ 0 ∧ plRearm (planOf s b) ≤ n.toNat then
      bumpHome b 0x840 1 (modCtx c (fun y =>
        { y with suspended := false, rejects := 0, draftLen := BitVec.ofNat 6 (plKmax (planOf s b)), suspSteps := n }) s)
    else modCtx c (fun y => { y with suspSteps := n }) s

/-- The bookkeeping of a drafting round (R289). -/
def afterRound (c k a : Nat) (s : State) : State :=
  let b := tenantOf s c
  let kmax := BitVec.ofNat 6 (plKmax (planOf s b))
  let x := ctx s c
  if k = 0 then s
  else
    let s1 := bumpHome b 0x830 a s
    if 0 < a then modCtx c (fun y => { y with rejects := 0, draftLen := if y.draftLen = 1 then kmax else y.draftLen }) s1
    else
      let n := x.rejects + 1
      let s2 := bumpHome b 0x838 1 (modCtx c (fun y => { y with rejects := n, draftLen := if n = 4 then 1 else y.draftLen }) s1)
      if n = 20 then bumpHome b 0x83C 1 (modCtx c (fun y => { y with suspended := true, suspSteps := 0 }) s2) else s2

/-- The carries and scale states as vector `v` of the step left them, which a rollback keeps (R133, R288). -/
def keepVector (c v : Nat) (s : State) : State := upto (v + 1) (putKept c) (restoreSeq c s)

/-- What the step kept of a record dropped. -/
def dropKept (c : Nat) (s : State) : State :=
  { s with srv := { s.srv with hist := s.srv.hist.filter fun p => p.1 / 2 ^ 64 != c } }

/-- The fed prompt tokens of a sharing record kept until its pages enter the tree (R277). -/
def keepPrompt (c n : Nat) (s : State) : State :=
  let x := ctx s c
  let r := ctxRun s c
  let lo := x.length.toNat
  if !x.share ∨ !r.inserting then s
  else modCtxRun c (fun q => { q with
    shareToks := q.shareToks.take (lo - q.shareFrom) ++ (List.range (min n (r.prompt - lo))).map fun i => tokenAt s c (lo + i) }) s

/-- The draft follows its main once the main holds a pending token: its length is the lesser of the two, and its input ends with the
main's (R288). Its own carries and scale states stay as its steps left them (DESIGN CHOICE, log entry 142). -/
def draftFollows (c : Nat) (s : State) : State :=
  let y := ctx s c
  match partner s c with
  | none => s
  | some d =>
    if y.role ≠ 1 ∨ prefilling s c then s
    else modCtx d (fun z => { z with length := BitVec.ofNat 23 (min z.length.toNat y.length.toNat), inputEnd := y.inputEnd,
                                     genLeft := y.genLeft }) s

/-- The end of a main's or plain record's step that selects (R273, R274, R287, R288): the round is judged, its tokens are emitted, and
the carries and scale states are those of the last token that stays. -/
def endEmitting (c k lEnd : Nat) (r : CtxRun) (s : State) : State :=
  let l := (ctx s c).length.toNat
  let y := r.yToks.getD (min r.fed r.yToks.length - 1) (0, [])
  let ys := if k = 0 then [(selectToken s c lEnd y.2, y.2)] else r.yToks.take r.fed
  let acc := acceptRound s c l 0 (r.drafts.take k) ys
  let toks := ((r.drafts.take acc.1).map (·.token)) ++ [acc.2]
  let s1 := emitTokens c true toks (modCtx c (fun y => { y with length := BitVec.ofNat 23 (lEnd - k) }) s)
  let s2 := if 0 < k then keepVector c ((ctx s1 c).length.toNat - (l + 1)) s1 else s1
  draftFollows c (afterRound c k acc.1 (countSuspended c s2))

/-- The end of a draft's step that proposes (R287): its token goes to the main's round with its normalised weights, and counts in
DRAFTED of the main's home cluster, beside ACCEPTED (R291). -/
def endProposing (c lEnd : Nat) (r : CtxRun) (s : State) : State :=
  match r.yToks[min r.fed r.yToks.length - 1]? with
  | none => modCtx c (fun y => { y with length := BitVec.ofNat 23 lEnd }) s
  | some q =>
    let t := selectToken s c lEnd q.2
    let m := (ctx s c).peer.toNat
    let s1 := modCtx c (fun y => { y with length := BitVec.ofNat 23 lEnd, inputEnd := BitVec.ofNat 23 (lEnd + 1) }) (setToken c lEnd t s)
    bumpHome (tenantOf s m) 0x828 1 (modCtxRun m (fun y => { y with drafts := y.drafts ++ [{ token := t, weights := normal s c q.2 }] })
      (setToken m ((ctx s m).length.toNat + (ctxRun s m).drafts.length + 1) t s1))

/-- The end of a step that selects nothing: LENGTH moves on, and the record's work may be over: LENGTH reaches LIMIT (R266), or a
prompt with nothing to generate has been fed (R382). -/
def endSilent (c lEnd : Nat) (s : State) : State :=
  let x := ctx s c
  let s1 := modCtx c (fun y => { y with length := BitVec.ofNat 23 lEnd }) s
  let s2 :=
    if x.limit.toNat ≤ lEnd then decideEnd c 2 s1
    else if x.inputEnd.toNat ≤ lEnd ∧ x.genLeft = 0 ∧ x.role ≠ 2 then decideEnd c 0 s1
    else s1
  draftFollows c (countSuspended c s2)

/-- The end of a step for one record that fed tokens (R271, R274, R287, R288): LENGTH moves on, a decided token is emitted, a
round is judged, and an end decided within the step stands. -/
def endStepRecord (c : Nat) (s : State) : State :=
  let x := ctx s c
  let r := ctxRun s c
  let b := tenantOf s c
  if x.st ≠ 2 ∨ r.fed = 0 then s
  else
    let lEnd := x.length.toNat + r.fed
    let k := if x.role = 1 ∧ !prefilling s c then r.fed - 1 else 0
    let m := x.peer.toNat
    let proposes := x.role == 2 && roundOpen s m && lEnd == (ctx s m).length.toNat + (ctxRun s m).drafts.length + 1
    let selects := x.role != 2 && decide (x.inputEnd.toNat ≤ x.length.toNat + (r.fed - k)) && x.genLeft != 0
    let s0 := modCtxRun c (fun q => { q with fed := 0, yToks := [], drafts := [] }) (keepPrompt c r.fed s)
    let prompt := min lEnd r.fillEnd - max x.length.toNat r.fillFrom
    let s0 := if prefilling s c then bumpHome b 0x810 prompt s0 else s0
    if r.yToks.isEmpty || !(proposes || selects) then endSilent c lEnd s0
    else if proposes then endProposing c lEnd r s0
    else endEmitting c k lEnd r s0

/-- A progress entry for tokens written at this boundary under a command with PROGRESS (R387). -/
def progressEntry (c before : Nat) (s : State) : State :=
  match workOf s c with
  | none => s
  | some w => if w.progress ∧ before < w.count then complete w.cmd.ring (recordCompl s c w 0 1) s else s

/-! ### Step boundary (R265) -/

/-- Stage 1: walk pins of the ended step dropped (R278). -/
def stage1 (b : Nat) (s : State) : State :=
  forAll (recordsOf s b) (fun c s =>
    modCtxRun c (fun r => { r with walked := [] })
      (forAll (ctxRun s c).walked (fun n => modNode b n fun y => { y with pins := y.pins - 1 }) s)) s

/-- A record has work: its command, or for a draft its main's, has not completed. -/
def hasWork (s : State) (c : Nat) : Bool := (workOf s (ownerOf s c)).isSome

/-- Every record with work cancelled at the boundary of a quiesced part (R396, Table 12.12). -/
def quiesceRecords (b : Nat) (s : State) : State :=
  if s.host.quiesce then forAll (recordsOf s b) (fun c s => if hasWork s c then cancelRecord c 0x16 s else s) s else s

/-- The record has work that was dispatched before the binding's waiting request number `i` (R375): a pending extension may have been
dispatched after it. -/
def workBefore (s : State) (i c : Nat) : Bool :=
  hasWork s c && (match (ctxRun s (ownerOf s c)).extend with | some e => decide (e.behind ≤ i) | none => true)

/-- Stage 2: cancels and flushes applied in record order, and ENDING records released (R265, R267, R383, R384). A flush leaves work that
was dispatched after it. -/
def stage2 (b : Nat) (s : State) : State :=
  let reqs := (brun s b).stageReqs
  let s1 := forAll (reqs.zip (List.range reqs.length)) (fun x s =>
    let q := x.1
    let hit := (recordsOf s b).filter fun c => match q.target with | none => true | some t => t == c
    if q.isFlush then forAll hit (fun c s => if workBefore s x.2 c then cancelRecord c 0x04 s else s) s
    else forAll hit (cancelRecord · 0x03) s) s
  let s1 := quiesceRecords b s1
  let s2 := forAll (recordsOf s1 b) (fun c s => if (ctx s c).st = 4 then releaseRecord c s else
    modCtxRun c (fun r => { r with extend := r.extend.map fun e => { e with behind := 0 } }) s) s1
  forAll reqs (fun q s => finish q.cmd.ring 1
      { compl q.cmd.tag 0 with
        binding := BitVec.ofNat 12 b, record := match q.target with | some r => BitVec.ofNat 32 r | none => 0xFFFFFFFF
        length := match q.target with | some r => BitVec.ofNat 32 (ctx s r).length.toNat | none => 0 } s)
    (modBrun b (fun r => { r with stageReqs := [] }) s2)

/-- A wide sequence's step spans two step periods (R184): step `n` of the binding is the first of them. -/
def firstHalf (s : State) (c : Nat) (n : W32) : Bool := (ctx s c).wide && (n - (ctx s c).wideAt).toNat % 2 == 0

/-- The step in progress is the second of a wide sequence's two periods. -/
def secondHalf (s : State) (c : Nat) (n : W32) : Bool := (ctx s c).wide && (n - (ctx s c).wideAt).toNat % 2 == 1

/-- Stage 3: pages wholly at or beyond the length, below the floor, or below the window are released (R268, R288); between the two
periods of a wide sequence's token the pages that it appends to stay (R184). -/
def stage3 (b : Nat) (s : State) : State :=
  let p := planOf s b
  forAll (recordsOf s b) (fun c s =>
    let x := ctx s c
    let len := x.length.toNat
    let halfway : Bool := firstHalf s c (entry s b).steps && (ctxRun s c).fed != 0
    forAll (streams p) (fun y s =>
      let t := atT p y.2.1
      forAll (List.range (ceilDiv (max x.inputEnd.toNat len + plVec p) t + 1)) (fun q s =>
        let w := atWindow p y.2.1
        if (len ≤ q * t ∧ !halfway) ∨ (q + 1) * t ≤ x.keyFloor.toNat ∨ (w ≠ 0 ∧ (q + 1) * t ≤ len - w + 1 ∧ w ≤ len) then
          dropPage b c y.1 q s else s) s) s) s

/-- Stage 4 for one record: wholly committed prompt pages enter the tree, in ascending order (R277). The prompt is the opening command's:
the tokens of a later extension do not count as prompt (DESIGN CHOICE, log entry 164). SHARED is set in every stream's entry of the
page, a released one too. -/
def insertPrompt (b c : Nat) : Nat → State → State
  | 0, s => s
  | fuel + 1, s =>
    let x := ctx s c
    let r := ctxRun s c
    let t := pageTokens (planOf s b)
    let at_ := if x.prefNode = 0xFFFFFFFF then 0 else x.prefNode.toNat
    let d := nodeDepth s b at_
    let lo := d * t
    if !x.share ∨ !r.inserting ∨ r.prompt < lo + t ∨ x.length.toNat < lo + t ∨ lo < r.shareFrom ∨ !inTree s b at_ then s
    else if hasChild s b at_ (nodeTokens s c lo t) then modCtxRun c (fun q => { q with inserting := false }) s
    else
      match insertNode b c at_ lo t 2 s with
      | none => s
      | some (n, s1) =>
        let s2 := forAll (streams (planOf s1 b)) (fun y s => match tableFrame s b x.root.toNat y.1 d with
          | none => s
          | some tf => dropTranslation b c y.1 d (setPte b tf (d % 8192) (pte s b tf (d % 8192) % 2 ^ 25 + 2 ^ 25) s)) s1
        insertPrompt b c fuel (modCtxRun c (fun q => { q with
          refs := q.refs ++ [n], shareFrom := lo + t, shareToks := q.shareToks.drop (lo + t - q.shareFrom) })
          (modCtx c (fun y => { y with prefNode := BitVec.ofNat 32 n }) s2))

/-- Stage 4: prefix insertions (R277). -/
def stage4 (b : Nat) (s : State) : State :=
  forAll (recordsOf s b) (fun c s => if (ctx s c).share then insertPrompt b c ((ctxRun s c).prompt / 8 + 1) s else s) s

/-- Stage 5: frames given back, and nodes with no holder and no pin freed (R281). -/
def stage5 (b : Nat) (s : State) : State :=
  let s1 := forAll (brun s b).returns (fun f => returnFrame b true f) s
  let s2 := modBrun b (fun r => { r with returns := [] }) s1
  forAll ((brun s2 b).tree.map (·.1)) (freeNode b) s2

/-- A page's entries of every stream of a node named as shared by a record's page table, with the directories they need, or none when
short of frames (R277, R280). -/
def nameShared (b c p : Nat) : List (Nat × Nat) → State → Option State
  | [], s => some s
  | q :: t, s =>
    match ensureTable b (ctx s c).root.toNat q.1 s with
    | none => none
    | some (d, s1) =>
      match ensureTable b d (p / 8192) s1 with
      | none => none
      | some (f, s2) => nameShared b c p t (setPte b f (p % 8192) (q.2 + 2 ^ 24 + 2 ^ 25) s2)

/-- The pages of a record's full matched nodes named in turn from page `p` on. -/
def namePages (b c : Nat) : Nat → List Nat → State → Option State
  | _, [], s => some s
  | p, n :: t, s =>
    match nameShared b c p (((node s b n).map (·.frames)).getD []) s with
    | none => none
    | some s1 => namePages b c (p + 1) t s1

/-- The frames that an admission needs: its page table for the shared pages, and the private page of a copy-on-write (R279); none when
they cannot be had. -/
def admitFrames (b c : Nat) (full : List Nat) (copy : Bool) (s : State) : Option State :=
  match namePages b c 0 full s with
  | none => none
  | some s1 =>
    if !copy then some s1
    else
      let t := pageTokens (planOf s1 b)
      let lo := (ctx s1 c).length.toNat / t * t
      ensurePages b c (pagesFor s1 b lo (lo + t)) s1

/-- A record not admitted for want of frames gives up its match and what of its prompt the match covered, and goes IDLE with PAGE_QUOTA
(R280, log entry 134). -/
def giveUpMatch (b c : Nat) (s : State) : State :=
  let s1 := forAll (ctxRun s c).matched (fun n => modNode b n fun y => { y with pins := y.pins - 1 }) s
  let s2 := modCtx c (fun x => { x with length := 0, inputEnd := 0, copying := false, prefNode := 0xFFFFFFFF })
    (modCtxRun c (fun r => { r with matched := [], copyFrom := none, inserting := false, fillEnd := 0, filled := 0 }) s1)
  settleEnd c (decideEnd c 0x0E (modCtx c (fun x => { x with st := 2 }) s2))

/-- A record that cannot be admitted, its frames or its draft's being short (R280, R286): its command completes with PAGE_QUOTA, and a
draft follows at a boundary of its own binding (`draftIn`). The evictions made in binding `e`, which is short, stand. -/
def admissionShort (b c e : Nat) (s : State) : State := giveUpMatch b c (bumpHome b 0x824 1 (evictAll e s))

/-- A record given a slot with the frames that its admission needs (R279, R285): references for its matched nodes, and copy-on-write
begun; none where the frames cannot be had. -/
def giveSlot (b c slot : Nat) (s : State) : Option State :=
  let r := ctxRun s c
  let full := r.matched.filter fun n => r.copyFrom != some n
  let s0 := modBrun b (fun q => { q with slots := setAt q.slots slot (some c), queued := q.queued.filter (· != c) })
    (modCtx c (fun x => { x with inSlot := true, slot := BitVec.ofNat 2 slot }) s)
  (admitFrames b c full r.copyFrom.isSome s0).map fun s1 =>
    modCtxRun c (fun q => { q with matched := q.matched.filter fun n => q.copyFrom == some n, refs := q.refs ++ full })
      (forAll full (fun n => modNode b n fun y => { y with pins := y.pins - 1, count := y.count + 1 }) s1)

/-- A record leaves the queue without a slot. -/
def unqueue (b c : Nat) (s : State) : State := modBrun b (fun q => { q with queued := q.queued.filter (· != c) }) s

/-- A record admitted to a vacant slot (R285). -/
def takeIn (b c slot : Nat) (s : State) : State :=
  match giveSlot b c slot s with
  | none => admissionShort b c b (unqueue b c s)
  | some s1 => modCtx c (fun x => { x with st := 2 }) s1

/-- A main record admitted together with its draft, or neither (R286): the draft has its slot and frames at once, and becomes ACTIVE at
a boundary of its own binding (R264). -/
def takePair (b c slot db d dslot : Nat) (s : State) : State :=
  match giveSlot b c slot s with
  | none => admissionShort b c b (unqueue b c s)
  | some s1 =>
    match giveSlot db d dslot s1 with
    | none => admissionShort b c db (unqueue b c s)
    | some s2 => modCtx c (fun x => { x with st := 2 }) s2

/-- The vacant slots of a binding, ascending. -/
def vacantSlots (s : State) (b : Nat) : List Nat :=
  (List.range 4).filter fun i => ((brun s b).slots.getD i none).isNone

/-- Slot `i` has role D: it lies below the decode slot count (R282). -/
def roleD (s : State) (b i : Nat) : Bool := decide (i < (brun s b).nd)

/-- The slot that a record's draft takes with it: none where it has a draft that cannot be admitted (R286). -/
def draftSlot (s : State) (d : Nat) : Option Nat :=
  if (entry s (tenantOf s d)).st ≠ 3 ∨ (ctx s d).st ≠ 1 then none else (vacantSlots s (tenantOf s d)).head?

/-- The earliest queued record of a phase that can take a slot, or of the other phase; a reserved binding takes decode records first
(R284, R285). A main whose draft cannot be admitted takes none (R286), and a later record may. -/
def nextQueued (s : State) (b slot : Nat) : Option Nat :=
  let q := (brun s b).queued.filter fun c => (ctx s c).st == 1 && (ctx s c).role != 2
    && (match partner s c with | none => true | some d => (draftSlot s d).isSome)
  let dec := q.find? fun c => !prefilling s c
  let pre := q.find? fun c => prefilling s c
  if (entry s b).reserved ∨ roleD s b slot then dec.orElse fun _ => pre else pre.orElse fun _ => dec

/-- One vacant slot filled; a main record is admitted only together with its draft (R285, R286). -/
def fillSlot (b i : Nat) (s : State) : State :=
  match nextQueued s b i with
  | none => s
  | some c =>
    match partner s c with
    | none => takeIn b c i s
    | some d => takePair b c i (tenantOf s d) d ((draftSlot s d).getD 0) s

/-- Vacant slots filled in ascending order (R285); a record that is short of frames leaves its slot to the next. -/
def fillSlots (b : Nat) (is : List Nat) (s : State) : State :=
  forAll is (fun i s => upto ((brun s b).queued.length) (fun _ s =>
    if ((brun s b).slots.getD i none).isNone then fillSlot b i s else s) s) s

/-- An extending command's tokens and settings taken at stage 6 (R382); its record goes to QUEUED. -/
def takeExtend (b c : Nat) (s : State) : State :=
  match (ctxRun s c).extend with
  | none => s
  | some e =>
    let x := ctx s c
    let again := decide (e.tokens = 0 ∧ x.inputEnd.toNat ≤ x.length.toNat ∧ 0 < x.length.toNat)
    let lo := max x.inputEnd.toNat x.length.toNat
    let s1 := modCtx c (fun y => { y with
      st := 1, keep := e.keep, genLeft := BitVec.ofNat 24 e.gen,
      length := if again then y.length - 1 else y.length,
      inputEnd := BitVec.ofNat 23 (lo + e.tokens),
      keyFloor := match e.floor with
        | none => y.keyFloor
        | some f => if y.keyFloor.toNat < f ∧ f ≤ y.length.toNat then BitVec.ofNat 23 f else y.keyFloor }) s
    modBrun b (fun r => { r with queued := r.queued ++ [c] })
      (modCtxRun c (fun r => { r with extend := none, fillFrom := lo, fillEnd := lo + e.tokens, filled := lo }) s1)

/-- A draft that is IDLE while its main has work takes that work up: the main's input, settings and floor, and the lesser length (R286,
R288). -/
def draftTakesUp (c : Nat) (s : State) : State :=
  match partner s c with
  | none => s
  | some m =>
    let y := ctx s m
    let r := ctxRun s m
    if (ctx s c).role ≠ 2 ∨ (ctx s c).st ≠ 3 ∨ (y.st ≠ 1 ∧ y.st ≠ 2) ∨ r.endWith.isSome then s
    else
      let s1 := modCtxRun c (fun q => { q with fillFrom := r.fillFrom, fillEnd := r.fillEnd, filled := r.fillFrom })
        (modCtx c (fun z => { z with
          st := 1, keep := y.keep, genLeft := y.genLeft, inputEnd := y.inputEnd, keyFloor := y.keyFloor,
          length := BitVec.ofNat 23 (min z.length.toNat y.length.toNat) }) s)
      if r.fillFrom < r.fillEnd then readTokens c s1 else s1

/-- An ACTIVE record whose partner has lost its slot is moved out of its own, and waits for both (R286, Table 9.3). -/
def pairOut (b c : Nat) (s : State) : State :=
  match partner s c with
  | none => s
  | some d =>
    if (ctx s c).st = 2 ∧ (ctx s d).st = 1 ∧ !(ctx s d).inSlot then
      let s1 := modCtx c (fun x => { x with st := 1 }) (vacate c s)
      if (ctx s c).role = 2 then s1 else modBrun b (fun r => { r with queued := r.queued ++ [c] }) s1
    else s

/-- At its own binding's boundary a draft that was given its slot with its main becomes ACTIVE, and one whose main was short of frames
goes IDLE with it (R264, R280, R286). -/
def draftIn (b c : Nat) (s : State) : State :=
  let x := ctx s c
  if x.role ≠ 2 ∨ x.st ≠ 1 then s
  else if x.inSlot then modCtx c (fun x => { x with st := 2 }) s
  else if (ctxRun s c).endWith = some 0x0E then giveUpMatch b c s
  else s

/-- The move of R285: where a D slot is vacant, a decode-phase record holds a P slot and a prefill-phase record waits, the
record moves to the D slot and its P slot takes the waiting one. -/
def moveSlot (b : Nat) (s : State) : State :=
  let slots := (brun s b).slots
  let d := (vacantSlots s b).find? (roleD s b)
  let p := (List.range 4).find? fun i => !roleD s b i && match slots.getD i none with | some c => !prefilling s c | none => false
  let waits := (brun s b).queued.any fun c => (ctx s c).st == 1 && (ctx s c).role != 2 && prefilling s c
  match d, p with
  | some i, some j =>
    match slots.getD j none with
    | some c =>
      if waits then
        fillSlots b [j] (modCtx c (fun x => { x with slot := BitVec.ofNat 2 i })
          (modBrun b (fun r => { r with slots := setAt (setAt r.slots j none) i (some c) }) s))
      else s
    | none => s
  | _, _ => s

/-- Stage 6: extensions taken, pairs kept together, slots filled, and the move of R285. -/
def stage6 (b : Nat) (s : State) : State :=
  let s1 := forAll (recordsOf s b) (fun c s => pairOut b c (draftTakesUp c (takeExtend b c s))) s
  if (entry s1 b).st = 3 then
    let s2 := forAll (recordsOf s1 b) (draftIn b) s1
    moveSlot b (fillSlots b (vacantSlots s2 b) s2)
  else s1

/-- Stage 7 for one record: the pages of the next step's appends, or a page-quota refusal (R232); the evictions stand (R280). -/
def pagesOrRefuse (b c : Nat) (s : State) : State :=
  let n := feedCount s c
  let len := (ctx s c).length.toNat
  match (if n = 0 then some s else ensurePages b c (pagesFor s b len (len + n)) s) with
  | some s1 => s1
  | none => settleEnd c (decideEnd c 0x0E (bumpHome b 0x824 1 (evictAll b s)))

/-- Stage 7: the records that hold slots, by ascending index (R265). -/
def stage7 (b : Nat) (s : State) : State :=
  forAll ((recordsOf s b).filter fun c => (brun s b).slots.contains (some c)) (pagesOrRefuse b) s

/-- The decode slot count of a new epoch (R283, R284). Of a reserved binding's records in decode phase those count that are ACTIVE or
QUEUED, as in R283 (DESIGN CHOICE, log entry 163). -/
def newNd (s : State) (b : Nat) : Nat :=
  let r := brun s b
  if (entry s b).reserved then
    min 4 ((recordsOf s b).filter fun c => ((ctx s c).st == 1 || (ctx s c).st == 2) && !prefilling s c).length
  else if r.dc + r.pc = 0 then r.nd
  else
    let v := (8 * r.dc + r.dc + r.pc) / (2 * (r.dc + r.pc))
    let v := if 0 < r.dc then max 1 v else v
    if 0 < r.pc then min 3 v else v

/-- Slots of the cluster's home bindings: ACTIVE records, and slots with role P (Table 9.7). -/
def slotStatus (s : State) (p : Nat) : Nat :=
  let bs := (liveBindings s).filter fun b => (entry s b).st == 3 && homeCluster s b == p
  let act := bs.foldl (fun a b => a + ((brun s b).slots.filter fun x => match x with | some c => (ctx s c).st == 2 | none => false).length) 0
  let ps := bs.foldl (fun a b => a + (4 - min 4 (brun s b).nd)) 0
  min 64 act + min 64 ps * 2 ^ 8

/-- Sequence slots of a cluster's cores whose sequence is in wide mode (Table 4.6). -/
def wideSlots (s : State) (p : Nat) : Nat :=
  (List.range 18).foldl (fun a i => match boundOf s (18 * p + i) with
    | none => a
    | some b => a + ((brun s b).slots.filter fun x => match x with | some c => (ctx s c).wide | none => false).length) 0

/-- The records whose slots were implicated so in the step that ends that they switch to wide mode (R147, R150). -/
def switchers (s : State) (b : Nat) : List Nat :=
  let r := brun s b
  (List.range 4).filterMap fun i =>
    if bitOf r.finalImpl.toNat i || (bitOf r.carried.toNat i && bitOf r.allImpl.toNat i) then r.slots.getD i none else none

/-- Stage 8: mode switches of the records `sw` (R150), slot roles of a new epoch (R282, R283), and the status words (R291, Table 4.6). -/
def stage8 (b : Nat) (sw : List Nat) (s : State) : State :=
  let r := brun s b
  let s1 := forAll sw (fun c s =>
    if (ctx s c).wide ∨ (ctx s c).st = 0 then s
    else
      let s' := modCtx c (fun x => { x with wide := true, wideAt := (entry s b).steps + 1 }) s
      forAll ((mapCores s' b).map clOf).dedup (fun p => bump p 0x318 1) s') s
  let epoch := eventEpoch s1
  let s2 :=
    if epoch ≠ r.roleEpoch then
      let nd := newNd s1 b
      let s' := modBrun b (fun q => { q with nd := nd, roleEpoch := epoch, dc := 0, pc := 0 }) s1
      if nd ≠ r.nd then bumpHome b 0x844 1 s' else s'
    else s1
  let count (pre : Bool) : Nat :=
    ((recordsOf s2 b).filter fun c => ((ctx s2 c).st == 1 || (ctx s2 c).st == 2) && prefilling s2 c == pre).length
  let s3 := modBrun b (fun q => { q with dc := q.dc + count false, pc := q.pc + count true, finalImpl := 0, carried := 0,
                                         allImpl := 0xF, removed := 0 }) s2
  let home := homeCluster s3 b
  let s4 := setWin home 0x848 (BitVec.ofNat 64 (slotStatus s3 home)) s3
  forAll ((mapCores s4 b).map clOf).dedup (fun p s => setWin p 0x31C (BitVec.ofNat 64 (wideSlots s p)) s) s4

/-- A prefill step that runs its slot with fewer tokens because they are not yet in the ring (R272). -/
def ringShort (s : State) (c : Nat) : Bool :=
  let x := ctx s c
  let v := plVec (planOf s (tenantOf s c))
  let idle := x.st != 2 || x.copying || (ctxRun s c).endWith.isSome || (x.role == 2 && (ctx s x.peer.toNat).suspended)
  !idle && prefilling s c && decide (min v (filledTo s c - x.length.toNat) < min v (x.inputEnd.toNat - x.length.toNat))

/-- The tokens that a draft feeds beside its own prompt come from its main's token buffer (R287, R288). -/
def fromMain (c n : Nat) (s : State) : State :=
  let x := ctx s c
  let r := ctxRun s c
  if x.role ≠ 2 then s
  else
    forAll ((List.range n).map (x.length.toNat + ·)) (fun p s =>
      if r.fillFrom ≤ p ∧ p < r.fillEnd then s else setToken c p (tokenAt s x.peer.toNat p) s) s

/-- The tokens each slot feeds in the step that begins: short prefill steps count (R270, R272). A wide sequence goes on with
its token in the second period (R184). The control core reads the record's token buffer under the frame owner check (R352). -/
def beginStep (b : Nat) (s : State) : State :=
  forAll (((brun s b).slots.filterMap id)) (fun c s0 =>
    if secondHalf s0 c (entry s0 b).steps then s0
    else
      let s := dropKept c s0
      let n := feedCount s c
      let s1 := if ringShort s c then bumpHome b 0x858 1 s else s
      let s2 := modCtxRun c (fun r => { r with fed := n, yToks := [] }) (fromMain c n s1)
      if n = 0 then s2 else readChecked b (ctx s c).tokbuf.toNat s2) (modBrun b (fun r => { r with dead := false }) s)

/-- Stages 1 to 5, which run for a binding in any state but EMPTY and RELEASING (R335). The ends decided before the boundary take effect
before stage 2 (R383). -/
def stagesTo5 (b : Nat) (s : State) : State :=
  let s1 := stage1 b s
  stage5 b (stage4 b (stage3 b (stage2 b (forAll (recordsOf s1 b) settleEnd s1))))

/-- Stages 6 to 8; `sw` switch to wide mode. -/
def stagesFrom6 (b : Nat) (sw : List Nat) (s : State) : State := stage8 b sw (stage7 b (stage6 b s))

/-- The step boundary of a binding at its STEPEND (R265): the step's tokens are settled, the stages run, and the next step's
tokens are fed; its period begins PERIOD schedule beats after the last one's (R177). -/
def stepBoundary (b : Nat) (s : State) : State :=
  let active := ((brun s b).slots.filterMap id).filter fun c => !firstHalf s c (entry s b).steps
  let before := active.map fun c => (c, ((workOf s c).map (·.count)).getD 0)
  let s1 := forAll active endStepRecord s
  let s2 := forAll before (fun q s => progressEntry q.1 q.2 s) s1
  let s4 := stagesFrom6 b (switchers s b) (stagesTo5 b s2)
  beginStep b (modBrun b (fun r => { r with stepAt := r.stepAt + BitVec.ofNat 64 (plPeriod r.plan) })
    (modEntry b (fun e => { e with steps := e.steps + 1 }) s4))

end Sys2Proof.Machine
end

