-- ==== Sys2Proof/Machine/Sparing.lean ====
section
/-! DEFINITION. Applying the repair maps: cluster states, logical indices, engine map registers, sparing and plane summaries,
and the substitution of a failed engine (R32 to R39, R82 to R88, R225). -/

namespace Sys2Proof.Machine

/-- The engine map register of a core written from its maps (R87, Table 2.6). -/
def writeEngineMap (k : Nat) (s : State) : State :=
  let c := core s k
  let v := packBits [(c.inUse.toNat, 17), (c.subPhys.toNat, 5), (c.subLog.toNat, 5)]
  modCluster (clOf k) (fun q => { q with win := put winReset q.win (0x100 + 4 * (k % 18)) (BitVec.ofNat 64 v) }) s

/-- The engines of a core in its numbering: the first 16 that are neither bad nor a substituting spare (R32, R85; which 16 of 17 is
the model's choice, log entry 121). -/
def numbered (s : State) (k : Nat) : List Nat :=
  let sub := look (fun _ => none) s.lar.repair.subst k
  ((List.range 17).filter fun e =>
    !look (fun _ => false) s.lar.repair.engBad (17 * k + e) && !(match sub with | some x => x.2 == e | none => false)).take 16

/-- A usable core's engine map from the repair maps. -/
def mapEngines (k : Nat) (s : State) : State :=
  let l := numbered s k
  let c := match look (fun _ => none) s.lar.repair.subst k with
    | none => { core s k with inUse := BitVec.ofNat 17 (l.foldl (fun a e => a + 2 ^ e) 0), subPhys := 0x1F, subLog := 0x1F }
    | some x =>
      { core s k with
        inUse := BitVec.ofNat 17 (((l.filter (· != x.1)) ++ [x.2]).foldl (fun a e => a + 2 ^ e) 0)
        subPhys := BitVec.ofNat 5 x.2
        subLog := BitVec.ofNat 5 (l.idxOf x.1) }
  writeEngineMap k (setCore s k c)

/-- Usable physical cores of a cluster by the repair map, ascending. -/
def usableCores (s : State) (p : Nat) : List Nat :=
  (List.range 18).filter fun i => !look (fun _ => false) s.lar.repair.coreBad (18 * p + i)

/-- A cluster that may be enabled: neither retired nor with an unreadable map, with 16 usable cores (R34, R38). -/
def goodCluster (s : State) (badMaps : List Nat) (p : Nat) : Bool :=
  !look (fun _ => false) s.lar.repair.clRetired p && !badMaps.contains p && 16 ≤ (usableCores s p).length

/-- A cluster stands in service: one of the first 24 of its quadrant that the repair map does not retire. An idle spare does not (R34,
R434's example; log entry 121). -/
def inService (s : State) (p : Nat) : Bool :=
  let live (i : Nat) : Bool := !look (fun _ => false) s.lar.repair.clRetired i
  live p && decide (((List.range (p % 28)).filter fun i => live (p / 28 * 28 + i)).length < 24)

/-- The repair maps applied to one cluster: its state register, its cores' indices and their engine maps (R32, R39, R87), and its
clock gated unless it is enabled (R49). Where more units are usable than R32 enables, the lowest physical ones are taken (DESIGN
CHOICE, log entry 121); a cluster that the map does not retire and that cannot be enabled for want of cores or of a readable map
reads 0b10 (DESIGN CHOICE, log entry 122). -/
def applyCluster (badMaps : List Nat) (p : Nat) (s : State) : State :=
  let good := goodCluster s badMaps p
  let before := ((List.range (p % 28)).filter fun i => inService s (p / 28 * 28 + i) && goodCluster s badMaps (p / 28 * 28 + i)).length
  let on := inService s p && good
  let us := usableCores s p
  let s1 := modCluster p (fun c => { c with
    st := if on then 0 else if !inService s p && !look (fun _ => false) s.lar.repair.clRetired p then 1 else 2
    logical := if on then BitVec.ofNat 7 (24 * (p / 28) + before) else 0x7F
    usable := BitVec.ofNat 5 us.length
    pow := { c.pow with clkGated := !on } }) s
  if !on then s1
  else
    forAll us (fun i s =>
      let j := us.idxOf i
      mapEngines (18 * p + i) (modCore (18 * p + i) (fun c => { c with
        usable := true, logical := if j < 16 then BitVec.ofNat 5 j else 0x1F }) s)) s1

/-- Clusters of a quadrant in service with 16 usable cores (R38). -/
def quadrantGood (s : State) (badMaps : List Nat) (q : Nat) : Nat :=
  ((List.range 28).filter fun i => inService s (28 * q + i) && goodCluster s badMaps (28 * q + i)).length

/-- The in-use physical engines of a cluster. -/
def inUseEngines (s : State) (p : Nat) : List Nat :=
  (List.range 18).flatMap fun i =>
    ((List.range 17).filter fun e => bitOf (core s (18 * p + i)).inUse.toNat e).map (17 * (18 * p + i) + ·)

/-- Spares in use under a map: disabled positions among the first 256 (R82). -/
def sparesUsed (l : List Nat) : Nat := (l.filter (· < 256)).dedup.length

/-- The sparing summaries of a cluster (Tables 2.7, 2.8). -/
def sparingSummary (p : Nat) (s : State) : State :=
  let es := inUseEngines s p
  let count (m : SMap (List Nat)) (f : Nat → Bool) : Nat :=
    (m.filter fun x => es.contains (engOf x.1) && f (sparesUsed x.2)).length
  let r := s.lar.repair
  setWin p 0x184 (BitVec.ofNat 64 (count r.colsOff (4 ≤ ·)))
    (setWin p 0x180 (BitVec.ofNat 64 (packBits [(count r.rowsOff (0 < ·), 16), (count r.colsOff (0 < ·), 16)])) s)

/-- The plane summaries of a cluster (Table 7.8): planes 0 to 63 of its in-use engines. -/
def planeSummary (p : Nat) (s : State) : State :=
  let es := inUseEngines s p
  let mine := s.hw.planes.filter fun x => x.1 % 65 != 64 && es.contains (engOf x.1)
  let n (st : BitVec 3) : Nat := (mine.filter fun x => x.2.st == st).length
  let counts := (s.lar.planesNow.filter fun x => x.1 % 65 != 64 && es.contains (engOf x.1)).map fun x => x.2.count.toNat
  let w (a b : Nat) : W64 := BitVec.ofNat 64 (packBits [(a, 16), (b, 16)])
  setWin p 0x634 (w (counts.foldl max 0) (counts.filter (10000 ≤ ·)).length)
    (setWin p 0x630 (w (n 1) (n 5))
      (setWin p 0x62C (w (n 3) (n 4))
        (setWin p 0x628 (w (64 * es.length - (mine.filter fun x => x.2.st != 0).length) (n 2)) s)))

/-- The drift summary of a cluster, with `marks` more planes marked stale (Table 3.5). -/
def driftSummary (marks p : Nat) (s : State) : State :=
  let es := inUseEngines s p
  let trims := (s.hw.planes.filter fun x => x.1 % 65 != 64 && x.2.st == 2 && es.contains (engOf x.1)).map (·.2.dp.toNat)
  let old := fld (look winReset (cluster s p).win 0x218).toNat 16 16
  setWin p 0x218 (BitVec.ofNat 64 (packBits [(trims.foldl max 0, 16), (old + marks, 16)])) s

/-- The band summaries of a cluster (Tables 3.6, 3.7). -/
def bandSummary (p : Nat) (s : State) : State :=
  let es := inUseEngines s p
  let top (f : Engine → W16) : Nat := (es.map fun e => (f (engine s e)).toNat).foldl max 0
  setWin p 0x224 (BitVec.ofNat 64 (packBits [(top (·.cA), 16), (top (·.cB), 16)]))
    (setWin p 0x220 (BitVec.ofNat 64 (packBits [(top (·.cCs), 16), (top (·.cIn), 16)])) s)

/-! ### Planes that may be taken (R204) -/

/-- Program count of a plane (R220). -/
def planeCount (s : State) (n : Nat) : Nat := (look (fun _ => ({} : PlaneRec)) s.lar.planesNow n).count.toNat

/-- A plane that may be allocated (R204): FREE and not already given to a block. -/
def planeFree (s : State) (n : Nat) : Bool := (plane s n).st == 0 && (plane s n).home.isNone && n % 65 != 64

/-- The FREE plane of an engine with the lowest program count, ties to the lowest index (R204). -/
def pickPlane (s : State) (e : Nat) : Option Nat :=
  (((List.range 64).map (65 * e + ·)).filter (planeFree s)).foldl (fun a n => match a with
    | none => some n
    | some m => if planeCount s n < planeCount s m then some n else some m) none

/-- The core of a plane is held by no binding, so its transitions take effect at once (R61). -/
def unheld (s : State) (k : Nat) : Bool := (boundOf s k).isNone

/-- A core that no binding holds is free for firmware's work of a number of beats (R196); in the epoch of a switch of it, from beat 64 to
beat 1,015 (Table 11.5). -/
def freeFor (s : State) (k beats : Nat) : Bool :=
  unheld s k && match s.ten.switches.find? fun o => o.begun && o.cores.contains k with
    | none => true
    | some o =>
      let b := 1024 * (o.epoch.getD 0).toNat
      decide (b + 64 ≤ s.fab.sched.toNat ∧ s.fab.sched.toNat + beats ≤ b + 1016)

/-- An open window with a use permitted and a number of beats left (R189). -/
def windowOpen (s : State) (k use beats : Nat) : Bool :=
  match (core s k).window with
  | some w => bitOf w.1.toNat use && decide (s.fab.sched.toNat + beats ≤ w.2.toNat)
  | none => false

/-- A window in which a use may start: no use starts in an inserted beat but as R212 has it (R320). -/
def windowHas (s : State) (k use beats : Nat) : Bool := !inserted s && windowOpen s k use beats

/-- The spare engine of a core that may substitute: neither in use, nor bad, nor failed (R85). -/
def spareOf (s : State) (k : Nat) : Option Nat :=
  (List.range 17).find? fun e =>
    !bitOf (core s k).inUse.toNat e && !look (fun _ => false) s.lar.repair.engBad (17 * k + e) && !(engine s (17 * k + e)).failed

/-- A plane's entries taken out of the cell map of a binding (R219). -/
def dropCells (b n : Nat) (s : State) : State :=
  let old := (brun s b).cellMap
  let keep := old.filter (·.plane != n)
  let s1 := modBrun b (fun r => { r with cellMap := keep }) s
  { s1 with hw := { s1.hw with cellUsed := s1.hw.cellUsed - (old.length - keep.length) } }

/-- The passes queued on a failed engine follow the plane to the spare (R85). -/
def movePasses (e spare n m : Nat) (s : State) : State :=
  let mine := (engine s e).queue.filter (·.plane == n)
  modEngine spare (fun g => { g with queue := g.queue ++ mine.map fun q => { q with plane := m, prim := if q.prim = n then m else q.prim } })
    (modEngine e (fun g => { g with queue := g.queue.filter (·.plane != n) }) s)

/-- One plane of a failed engine moved to the spare: the spare's plane of the same number, or the one R204 picks, waits for
its copy from the master (R85). -/
def moveToSpare (spare n : Nat) (s : State) : State :=
  let q := plane s n
  match q.home with
  | none => s
  | some h =>
    let same := 65 * spare + n % 65
    match (if planeFree s same then some same else pickPlane s spare) with
    | none => s
    | some m =>
      let s1 := modPlane m (fun x => { x with home := some h, owner := q.owner, subst := true })
        (modPlane n (fun x => { x with home := none, adopting := false, subst := false }) s)
      let s2 := { s1 with hw := { s1.hw with
        masters := put (fun _ => none) (put (fun _ => none) s1.hw.masters m (look (fun _ => none) s1.hw.masters n)) n none } }
      movePasses (engOf n) spare n m (dropCells h.1 n
        (modBrun h.1 (fun r => { r with planes := r.planes.map fun u => if u.plane = n then { u with plane := m } else u }) s2))

/-- A calibration run of a cluster becomes due (R447). -/
def calDue (p : Nat) (s : State) : State :=
  if enabledCl s p then modCluster p (fun c => { c with cal := { c.cal with due := true } }) s else s

/-- A core's spare engine takes the logical index of its failed engine `e` (R85): the substitution is recorded in the repair map,
the planes of the failed engine wait for their copies on the spare, and the engine map register is written. -/
def substitute (k e : Nat) (s : State) : State :=
  match spareOf s k with
  | none => failCore k 1 s
  | some sp =>
    let s1 := { s with lar := { s.lar with repair := { s.lar.repair with
      subst := put (fun _ => none) s.lar.repair.subst k (some (e, sp)) } } }
    let s2 := raise ((err 0x41 2 e sp 0).atEngine (17 * k + e)) (mapEngines k s1)
    let s3 := forAll ((List.range 64).map (65 * (17 * k + e) + ·)) (moveToSpare (17 * k + sp)) s2
    calDue (clOf k) (writeRepair s3)

/-- A failed engine stops: what it was programming is abandoned, and the pass it was splitting starts again. -/
def stopEngine (e : Nat) (s : State) : State :=
  let s1 := match (engine s e).prog with
    | none => s
    | some g => modPlane g.plane (fun q => { q with st := if q.st = 1 then 0 else q.st }) s
  modEngine e (fun g => { g with
    failed := true, queue := (g.split.map (·.pass)).toList ++ g.queue, split := none, prog := none, cal := none }) s1

/-- An engine fails (R84 to R86, R428, R492): its core's spare takes its logical index, at once on a core that no binding holds (DEDUCED,
log entry 152) and else at the end of the next maintenance window or at a rebind (R37, R203), until when passes to its planes wait; a core
with no spare left is marked failed in service. -/
def failEngine (e : Nat) (s : State) : State :=
  let k := coreOf e
  if (engine s e).failed then s
  else
    let s0 := stopEngine e s
    if !bitOf (core s k).inUse.toNat (e % 17) then s0
    else if (core s k).subLog ≠ 0x1F ∨ (core s k).subWait.isSome ∨ (spareOf s0 k).isNone then failCore k 1 s0
    else if unheld s0 k then substitute k (e % 17) s0
    else
      forAll ((List.range 64).map (65 * e + ·)) (fun n s =>
        if (plane s n).home.isSome then modPlane n (fun q => { q with subst := true }) s else s)
        (modCore k (fun c => { c with subWait := some (e % 17) }) s0)

end Sys2Proof.Machine
end

