-- ==== Sys2Proof/Machine/TenancyOps.lean ====
section
/-! DEFINITION. Binding load, core switches, multi-part operations, release and unbind (R203 to R209, R310 to R312, R330 to
R361), and the meanings of their rows. -/

namespace Sys2Proof.Machine

/-! ### Frames and the larder's plane records -/

/-- Bytes placed by the ladle in a region's frames, from its start on, for the binding they belong to (R352). -/
def putFrames (b : Nat) : List Nat → List Byte → State → State
  | [], _, s => s
  | f :: t, bs, s => if bs.isEmpty then s else putFrames b t (bs.drop 65536) (putOf b (65536 * f) (bs.take 65536) s)

/-- `n` fixed frames of a binding. -/
def takeFrames (b n : Nat) (s : State) : List Nat × State :=
  (allocFrames b (homeCluster s b / 28) false n [] s).getD ([], s)

/-- A plane table and slot table with a journal entry applied (R508, Table 18.2). -/
def applyEntry (e : JEntry) (p : SMap PlaneRec) (t : SMap (W64 × W64)) : SMap PlaneRec × SMap (W64 × W64) :=
  let n := e.plane.toNat
  let v := e.value.toNat
  let r := look (fun _ => ({} : PlaneRec)) p n
  let u := look (fun _ => ((0 : W64), (0 : W64))) t v
  if e.kind = 0 then (put (fun _ => {}) p n { r with count := e.value, resident := false }, t)
  else if e.kind = 1 then
    (put (fun _ => {}) p n { r with resident := true, slot := BitVec.ofNat 12 v,
                                    crc := BitVec.ofNat 32 e.payload.toNat,
                                    block := BitVec.ofNat 21 (e.payload.toNat / 2 ^ 32) }, t)
  else if e.kind = 2 then (put (fun _ => {}) p n { r with resident := false }, t)
  else if e.kind = 3 then (p, put (fun _ => (0, 0)) t v (e.payload, u.2))
  else if e.kind = 4 then (p, put (fun _ => (0, 0)) t v (u.1, e.payload))
  else if e.kind = 5 then
    (p.filterMap fun x =>
        let y := if x.2.resident ∧ x.2.slot.toNat = v then { x.2 with resident := false } else x.2
        if y = {} then none else some (x.1, y),
     put (fun _ => (0, 0)) t v (0, 0))
  else (p, t)

/-- A journal entry made: firmware's tables take it, and it waits to be written to both copies (R509). A slot release frees
its slot only once the entry stands in both copies (R510). -/
def journal (e : JEntry) (s : State) : State :=
  let a := applyEntry e s.lar.planesNow s.lar.slotsNow
  writeJournal e { s with lar := { s.lar with planesNow := a.1, slotsNow := if e.kind = 5 then s.lar.slotsNow else a.2 } }

/-- A KIND 5 entry for a slot waits to be written. -/
def slotReleasing (s : State) (k : Nat) : Bool :=
  s.lar.queue.any fun w => match w.job with | .journal e => e.kind == 5 && e.value.toNat == k | _ => false

/-- The tenant slot that holds a TENANT_ID (R508). -/
def slotOf (s : State) (tid : W64) : Option Nat :=
  (s.lar.slotsNow.find? fun x => x.2.1 == tid && tid != 0 && !slotReleasing s x.1).map (·.1)

/-! ### Completions of commands -/

/-- The final completion of a command that names a binding. -/
def replyCmd (c : CmdRef) (b status reason detail : Nat) (s : State) : State :=
  finish c.ring 1 { compl c.tag status with reason := BitVec.ofNat 8 reason, detail := BitVec.ofNat 32 detail,
                                            binding := BitVec.ofNat 12 b } s

/-- The same where a command is waiting. -/
def replyOpt (c : Option CmdRef) (b status reason detail : Nat) (s : State) : State :=
  match c with
  | none => s
  | some r => replyCmd r b status reason detail s

/-- A load or switch refused (R336, R338, R381): LAST_REASON and LAST_DETAIL of the binding named, if one is, and the counter. -/
def refuse (c : Option CmdRef) (b : Option Nat) (r : Refuse) (s : State) : State :=
  let s1 := match b with
    | some b => modEntry b (fun e => { e with lastReason := BitVec.ofNat 8 r.1, lastDetail := BitVec.ofNat 32 r.2 }) s
    | none => s
  replyOpt c (b.getD 0xFFF) 5 r.1 r.2 { s1 with ten := { s1.ten with nRefusal := s1.ten.nRefusal + 1 } }

/-- A command reference of a packet. -/
def cmdRef (c : Cmd) : CmdRef := { ring := c.ring, tag := c.tag }

/-- A command row stands for its packet of opcode `op` accepted and dispatched at once (R374, R389); with no room for its reserved
entries, below phase 7, once the part is quiesced or while the IDE stream is broken (R367), the packet is not read. A reserved payload
bit that is not zero has it refused (R18, R373). -/
def asPacket (op : Nat) (c : Cmd) (k : Nat) (f : State → State) (s : State) : State :=
  let g := ring s c.ring
  if below7 s ∨ s.host.quiesce ∨ s.host.ideHold then s
  else if !payloadClean op c.payload then refusePacket c.ring c.tag g s
  else if cqFree g < g.reserved + k then s
  else f (setRing { s with host := { s.host with packetNo := s.host.packetNo + 1 } } c.ring
    { g with accepted := g.accepted + 1, outstanding := g.outstanding + 1, reserved := g.reserved + k })

/-! ### Pool (R357, R361) -/

/-- Frames of the pool: device memory less firmware's regions and retired frames. -/
def poolFrames (s : State) : Nat := 4 * framesPerBridge s - s.ten.fwEnd - s.err.retired.length

/-- The quota of context records: an 18-bit 0 stands for 262,144 (log entry 23). -/
def ctxQuota (s : State) (b : Nat) : Nat := if (entry s b).ctxQuota = 0 then 262144 else (entry s b).ctxQuota.toNat

/-- PROVISIONED recomputed (R361): the quotas of frames with the fixed regions, and those of context records, fit their pools. -/
def provision (s : State) : State :=
  let need := (liveBindings s).foldl (fun a b => a + (entry s b).pageQuota.toNat + (brun s b).fixed) 0
  let records := (liveBindings s).foldl (fun a b => a + ctxQuota s b) 0
  { s with ten := { s.ten with provisioned := decide (need ≤ poolFrames s ∧ records ≤ 262144) } }

/-- Context records free for ordinary bindings: those that no reserved binding, while it is not RELEASING, holds back (R357). -/
def sharedRecords (s : State) : Nat :=
  262144 - (s.srv.ctx.filter fun p => p.2.st != 0).length
    - ((liveBindings s).filter fun x => (entry s x).reserved && (entry s x).st != 5).foldl
        (fun n x => n + (ctxQuota s x - (recordsOf s x).length)) 0

/-! ### Load (R336, R337) -/

/-- Fields of a BIND_LOAD payload (Table 12.6). -/
def ldTid (p : List Byte) : W64 := BitVec.ofNat 64 (leAt p 0 8)
/-- PLAN_LEN. -/
def ldLen (p : List Byte) : Nat := leAt p 16 4
/-- MAP_CRC. -/
def ldCrc (p : List Byte) : Nat := leAt p 20 4
/-- PAGE_QUOTA. -/
def ldPages (p : List Byte) : Nat := leAt p 32 4
/-- CTX_QUOTA. -/
def ldCtx (p : List Byte) : Nat := leAt p 36 4
/-- OVF_FRAMES. -/
def ldOvf (p : List Byte) : Nat := leAt p 40 4
/-- PREFIX_FRAMES. -/
def ldPrefix (p : List Byte) : Nat := leAt p 44 4
/-- TS_OVF. -/
def ldTs (p : List Byte) : Nat := leAt p 48 2
/-- PLAN_PART. -/
def ldPart (p : List Byte) : Nat := leAt p 50 2
/-- BASE_SEAT. -/
def ldSeat (p : List Byte) : Nat := leAt p 52 2
/-- PEER. -/
def ldPeer (p : List Byte) : Nat := leAt p 54 2
/-- RESERVED. -/
def ldReserved (p : List Byte) : Bool := bitOf (leAt p 56 1) 0

/-- Every field of a BIND_LOAD is in its range (R380, Table 11.1). -/
def loadRanges (c : Cmd) : Bool :=
  let p := c.payload
  c.record == 0xFFFFFFFF && ldPages p < 2 ^ 24 && 1 ≤ ldCtx p && ldCtx p ≤ 262144 && ldOvf p < 2 ^ 24 && ldPrefix p < 2 ^ 24
  && ldTs p ≤ 1024 && ldPart p < 512 && ldSeat p < 1024 && ldPeer p < 4096

/-- The core map as words (R331). -/
def mapWords (bs : List Byte) : List Nat := (List.range (bs.length / 2)).map fun i => leAt bs (2 * i) 2

/-- The planes a plan needs, in block entry order with each shadow after its primary (R204). -/
def wants (p : List Byte) : List PlaneUse :=
  ((List.range (plBlocks p)).map fun i => (i, blockAt p i)).flatMap fun x =>
    let b := x.2
    if b.kind ≠ 0 then []
    else
      { pcore := b.core, engine := b.engine, tplane := b.plane, block := x.1, plane := 0, shadow := false } ::
      (if b.shadow then
        [{ pcore := b.core, engine := b.sEngine, tplane := b.sPlane, block := x.1, plane := 0, shadow := true }] else [])

/-- The physical engine of a plane a plan needs, through a core map. -/
def wantEngine (s : State) (map : List Nat) (u : PlaneUse) : Option Nat :=
  let w := map.getD u.pcore 0
  (physCore s (w % 128) (w / 128 % 16)).bind fun k => physEngine s k u.engine

/-- The READY plane that a block adopts (R209): tenant, PLAN_ID, block index and CRC-32 match. -/
def adoptable (s : State) (p : List Byte) (tid : W64) (u : PlaneUse) (e : Nat) : Option Nat :=
  let crc := crc32 (blockData p (blockAt p u.block))
  (List.range 64).map (65 * e + ·) |>.find? fun n =>
    let r := look (fun _ => ({} : PlaneRec)) s.lar.planesNow n
    (plane s n).st == 2 && (plane s n).owner == tid && (plane s n).home.isNone && r.resident && r.block.toNat == u.block
    && r.crc == crc && look (fun _ => ((0 : W64), (0 : W64))) s.lar.slotsNow r.slot.toNat == (tid, plId p)

/-- The plane shortfall of R205 over the engines of the map, if there is one. -/
def planeShort (s : State) (p : List Byte) (tid : W64) (map : List Nat) : Option Refuse :=
  let us := (wants p).map fun u => (u, wantEngine s map u)
  let need := us.filter fun x => match x.2 with | none => true | some e => (adoptable s p tid x.1 e).isNone
  let engines := (need.map (·.2)).dedup
  let short (e : Option Nat) : Nat :=
    (need.filter fun x => x.2 == e).length - (match e with
      | none => 0
      | some k => ((List.range 64).filter fun i => planeFree s (65 * k + i)).length)
  let total := engines.foldl (fun a e => a + short e) 0
  let cores := ((need.filter fun x => short x.2 != 0).map fun x => x.1.pcore).dedup.length
  if total = 0 then none else some (0x31, total % 2 ^ 24 + min 255 cores * 2 ^ 24)

/-- Frames each region of a load needs, with the region codes of Table 14.7. -/
def loadFrames (p pay : List Byte) : List Nat :=
  [ceilDiv p.length 65536, ceilDiv (2 * plCores p) 65536, ceilDiv (actBytes p) 65536,
   (match embBlock p with | none => 0 | some b => ceilDiv (blockLen p b) 65536),
   ldOvf pay, ldPrefix pay, if ldReserved pay then ldPages pay else 0]

/-- The memory shortfall of R206 and check 7, if there is one. -/
def memoryShort (s : State) (p pay : List Byte) : Option Refuse :=
  let go := (loadFrames p pay).foldl (fun (a : Nat × Nat × Option Refuse) n =>
    let t := a.2.1 + n
    (a.1 + 1, t, match a.2.2 with
      | some r => some r
      | none => if s.ten.free.toNat < t then some (0x32, min (t - s.ten.free.toNat) 0xFFFFFF + a.1 * 2 ^ 24) else none)) (0, 0, none)
  let k1 := ((blocks p).filter (·.kind == 1)).foldl (fun a b => a + ceilDiv (blockLen p b) 65536) 0
  let k2 := ((blocks p).filter (·.kind == 2)).foldl (fun a b => a + blockLen p b) 0
  let used := s.hw.outliers.foldl (fun a x => a + (match x.2 with | none => 0 | some y => y.data.length)) 0
  let area := s.su.outlierGib.toNat * 2 ^ 30
  match go.2.2 with
  | some r => some r
  | none =>
    if ldOvf pay < k1 then some (0x32, k1 - ldOvf pay + 4 * 2 ^ 24)
    else if area < used + k2 then some (0x32, min (ceilDiv (used + k2 - area) 65536) 0xFFFFFF + 7 * 2 ^ 24)
    else none

/-- Check 4: the core map (R331, R332). -/
def mapCheck (s : State) (p : List Byte) (bs : List Byte) (crc : Nat) : Option Refuse :=
  let ws := mapWords bs
  let usable (w : Nat) : Bool := match physCore s (w % 128) (w / 128 % 16) with
    | none => false
    | some k => (core s k).usable && !(core s k).failed
  if (crc32 bs).toNat ≠ crc then some (0x37, 2 ^ 12)
  else if ws.length ≠ plCores p then some (0x37, min ws.length (plCores p) + 2 ^ 11)
  else
    (List.range ws.length).findSome? fun i =>
      let w := ws.getD i 0
      if (ws.take i).any fun x => x % 2048 == w % 2048 then some (0x37, i)
      else if 2048 ≤ w ∨ !usable w then some (0x37, i + 2 ^ 11) else none

/-- Check 5: the speculative pairing (R341, R286): a pair name each other, so no other binding may name the entry either. -/
def pairCheck (s : State) (b peer : Nat) (p : List Byte) : Option Refuse :=
  let q := entry s peer
  match (liveBindings s).find? fun x => b != 0xFFF && (entry s x).peer.toNat == b && x != peer with
  | some x => some (0x36, x)
  | none =>
  if peer = 0xFFF then none
  else if peer = b ∨ plRole p = 0 ∨ (q.st ≠ 0 ∧ (q.peer.toNat ≠ b ∨ plRole (planOf s peer) + plRole p ≠ 3
      ∨ q.planId ≠ BitVec.ofNat 64 (plPeer p) ∨ BitVec.ofNat 64 (plPeer (planOf s peer)) ≠ plId p)) then some (0x36, peer)
  else none

/-- The checks of Table 11.4 in their order. A reserved binding whose CTX_QUOTA records cannot be held back is refused under check 9
(DEDUCED, log entry 167). -/
def loadCheck (s : State) (b : Nat) (c : Cmd) (d : CmdData) : Option Refuse :=
  let pay := c.payload
  let p := d.plan
  let tid := ldTid pay
  let live := liveBindings s
  let map := mapWords d.map
  (if (entry s b).st ≠ 0 then some (0x30, b + (entry s b).st.toNat * 2 ^ 12)
   else if tid = 0 then some (0x30, b)
   else (live.find? fun x => (entry s x).tenant == tid).map fun x => (0x30, x + (entry s x).st.toNat * 2 ^ 12)).orElse fun _ =>
  (checkImage p (ldLen pay) (regionsOf p (ldOvf pay) map (ldPart pay))).orElse fun _ =>
  (mapCheck s p d.map (ldCrc pay)).orElse fun _ =>
  (pairCheck s b (ldPeer pay) p).orElse fun _ =>
  (planeShort s p tid map).orElse fun _ =>
  (memoryShort s p pay).orElse fun _ =>
  (let t := 64 * (ldTs pay + live.foldl (fun a x => a + (entry s x).tsOvf.toNat) 0)
   if 65536 < t then some (0x33, t - 65536) else none).orElse fun _ =>
  (let n := (live.filter fun x => (entry s x).reserved).length
   if ldReserved pay ∧ (64 ≤ n ∨ sharedRecords s < ldCtx pay) then some (0x35, n) else none).orElse fun _ =>
  if (slotOf s tid).isNone ∧ 4096 ≤ gapFrom 0 s.lar.slotsNow then some (0x30, b) else none

/-- A plane given to a block: adopted where a resident record matches, else the plane of R204; its master copy is kept
(R201). -/
def assignPlane (b : Nat) (p : List Byte) (tid : W64) (map : List Nat) (u : PlaneUse) (s : State) : State :=
  match wantEngine s map u with
  | none => s
  | some e =>
    let blk := blockAt p u.block
    let data := blockData p blk
    let found := adoptable s p tid u e
    match found.orElse fun _ => pickPlane s e with
    | none => s
    | some n =>
      let s1 := modPlane n (fun q => { q with home := some (b, u.block, blk.layer, blk.row, blk.col), adopting := found.isSome }) s
      let s2 := { s1 with hw := { s1.hw with masters := put (fun _ => none) s1.hw.masters n (some { data := data, crc := crc32 data }) } }
      modBrun b (fun r => { r with planes := r.planes ++ [{ u with plane := n }] }) s2

/-- The slot a load takes, with its journal entries (R510). -/
def takeSlot (tid pid : W64) (s : State) : State :=
  match slotOf s tid with
  | some k =>
    if (look (fun _ => ((0 : W64), (0 : W64))) s.lar.slotsNow k).2 = pid then s
    else journal { plane := 0, kind := 4, value := BitVec.ofNat 16 k, payload := pid } s
  | none =>
    let k := BitVec.ofNat 16 (gapFrom 0 s.lar.slotsNow)
    journal { plane := 0, kind := 4, value := k, payload := pid } (journal { plane := 0, kind := 3, value := k, payload := tid } s)

/-- A LOADING binding whose planes are all READY becomes RESIDENT, and its load completes (R337): the reads of its image and blocks are
over. -/
def checkResident (b : Nat) (s : State) : State :=
  let r := brun s b
  if (entry s b).st = 1 ∧ r.planes.all fun u => (plane s u.plane).st == 2 && !(plane s u.plane).adopting then
    dropReads (· == .load b)
      (replyOpt r.loadCmd b 0 0 0 (modBrun b (fun q => { q with loadCmd := none }) (modEntry b (fun e => { e with st := 2 }) s)))
  else s

/-- A load accepted (R337, R545): the entry is LOADING with its key, regions, planes and slot. -/
def acceptLoad (b : Nat) (c : Cmd) (d : CmdData) (s : State) : State :=
  let pay := c.payload
  let p := d.plan
  let map := mapWords d.map
  let key := look (fun _ => (0 : W32)) s.ten.keys b + 1
  let n := loadFrames p pay
  let hold := n.getD 6 0
  let s1 := setBrun s b { plan := p, coreMap := map, loadCmd := some (cmdRef c), roleEpoch := s.fab.sched.toNat / 1024,
                          fixed := (n.take 6).foldl (· + ·) 0 }
  let s2 := { s1 with ten := { s1.ten with keys := put (fun _ => 0) s1.ten.keys b key, free := s1.ten.free - BitVec.ofNat 24 hold } }
  let f0 := takeFrames b (n.getD 0 0) s2
  let f1 := takeFrames b (n.getD 1 0) f0.2
  let f2 := takeFrames b (n.getD 2 0) f1.2
  let f3 := takeFrames b (n.getD 3 0) f2.2
  let f4 := takeFrames b (n.getD 4 0) f3.2
  let f5 := takeFrames b (n.getD 5 0) f4.2
  let s3 := modBrun b (fun r => { r with actBase := f2.1, embBase := f3.1, ovfBase := f4.1, treeBase := f5.1 }) f5.2
  let s4 := setEntry s3 b
    { st := 1, reserved := ldReserved pay, peer := BitVec.ofNat 12 (ldPeer pay), tenant := ldTid pay, planId := plId p,
      planFrame := BitVec.ofNat 24 (f0.1.headD 0), planLen := BitVec.ofNat 32 p.length,
      mapFrame := BitVec.ofNat 24 (f1.1.headD 0), planPart := BitVec.ofNat 9 (ldPart pay),
      baseSeat := BitVec.ofNat 10 (ldSeat pay), pageQuota := BitVec.ofNat 24 (ldPages pay),
      ctxQuota := BitVec.ofNat 18 (ldCtx pay), ovfFrames := BitVec.ofNat 24 (ldOvf pay),
      prefixFrames := BitVec.ofNat 24 (ldPrefix pay), actFrames := BitVec.ofNat 24 (n.getD 2 0),
      embFrames := BitVec.ofNat 24 (n.getD 3 0), tsOvf := BitVec.ofNat 11 (ldTs pay), ring := BitVec.ofNat 8 (leAt pay 57 1),
      cores := BitVec.ofNat 11 (plCores p), keyGen := key, lastReason := (entry s b).lastReason,
      lastDetail := (entry s b).lastDetail, mapCrc := BitVec.ofNat 32 (ldCrc pay) }
  let s5 := putFrames b f1.1 d.map (putFrames b f0.1 p s4)
  let s6 := match embBlock p with | none => s5 | some x => putFrames b f3.1 (blockData p x) s5
  let s7 := (((blocks p).filter (·.kind == 1)).foldl (fun (a : List Nat × State) x =>
    (a.1.drop (ceilDiv (blockLen p x) 65536), putFrames b a.1 (blockData p x) a.2)) (f4.1, s6)).2
  let s8 := forAll ((blocks p).filter (·.kind == 2)) (fun x s =>
    let rows : OutlierCopy := { owner := ldTid pay, data := blockData p x, crc := crc32 (blockData p x) }
    { s with hw := { s.hw with outliers := put (fun _ => none) s.hw.outliers (b * 65536 + x.layer) (some rows) } }) s7
  let s9 := takeSlot (ldTid pay) (plId p) s8
  let s10 := forAll (wants p) (assignPlane b p (ldTid pay) map) s9
  checkResident b (provision (startRead (.load b) s10))

/-- A command that names a binding in SWITCHING or RELEASING (R335). -/
def bindingBusy (s : State) (b : Nat) : Bool := (entry s b).st == 4 || (entry s b).st == 5

/-- BIND_LOAD dispatched (R336, R376, R380, R381). -/
def doBindLoad (c : Cmd) (d : CmdData) (s : State) : State :=
  let b := c.binding.toNat
  if !(ring s c.ring).priv then replyCmd (cmdRef c) b 9 0 0 s
  else if !loadRanges c then replyCmd (cmdRef c) b 7 0 0 s
  else if d.badAddr ∨ leAt c.payload 8 8 % 64 ≠ 0 ∨ leAt c.payload 24 8 % 64 ≠ 0 then replyCmd (cmdRef c) b 8 0 0 s
  else if bindingBusy s b then replyCmd (cmdRef c) b 0x0C 0 0 s
  else
    match loadCheck s b c d with
    | some r => refuse (some (cmdRef c)) (some b) r s
    | none => acceptLoad b c d s

/-! ### Release (R347 to R349) -/

/-- A released plane: FREE, or RETIRED at 10,000 programs (R221, Table 2.3), with its owner tag, drift state, residuals and
cell map gone. -/
def freedPlane (n : Nat) (s : State) : State :=
  let st := if 10000 ≤ planeCount s n then 5 else 0
  let s1 := modPlane n (fun q => { q with st := st, owner := if st = 5 then q.owner else 0, next := none, home := none,
                                          adopting := false, subst := false, moveOf := none, resid := [], tries := 0,
                                          dp := 0x3C00, oldDp := none, n := 0, m := 0, x := 0, z := 0, a := 0 }) s
  { s1 with hw := { s1.hw with masters := put (fun _ => none) s1.hw.masters n none } }

/-- A plane released (R348): at once on an unheld core, else at the next window end; a plane being written leaves it at its
next row boundary. -/
def releasePlane (n : Nat) (s : State) : State :=
  let q := plane s n
  let writing := match (engine s (engOf n)).prog with | some g => g.plane == n || (g.old == n && g.purpose == 2) | none => false
  if writing then s
  else if q.st = 0 then modPlane n (fun q => { q with home := none, adopting := false }) s
  else if q.st = 1 then modPlane n (fun q => { q with st := 0, owner := 0, home := none, adopting := false, tries := 0 }) s
  else if q.st = 2 ∨ q.st = 3 ∨ q.st = 4 then
    (if unheld s (coreOf (engOf n)) then freedPlane n s
     else modPlane n (fun q => { q with next := some (if 10000 ≤ planeCount s n then 5 else 0), home := none }) s)
  else s

/-- The planes whose owner tag names a tenant. -/
def ownedPlanes (s : State) (tid : W64) : List Nat := (s.hw.planes.filter fun x => x.2.owner == tid).map (·.1)

/-- A tenant's residency records removed: one KIND 5 entry (R510). -/
def dropResidency (tid : W64) (s : State) : State :=
  match slotOf s tid with
  | none => s
  | some k => journal { plane := 0, kind := 5, value := BitVec.ofNat 16 k, payload := 0 } s

/-- The overflow share of a binding cleared (R240, R347). -/
def clearOverflow (b : Nat) (s : State) : State :=
  let n := (brun s b).ovfShare.length
  if n = 0 then s else bumpHome b 0x718 n (modBrun b (fun r => { r with ovfShare := [] }) s)

/-- Release complete (R349): every plane of the binding is FREE or RETIRED, so the entry becomes EMPTY. -/
def checkReleased (b : Nat) (s : State) : State :=
  let e := entry s b
  let busy := (ownedPlanes s e.tenant).any fun n => (plane s n).st != 0 && (plane s n).st != 5
  if e.st ≠ 5 ∨ busy then s
  else provision (replyOpt (brun s b).unbindCmd b 0 0 0 (setBrun (setEntry s b {}) b {}))

/-- Every record of a binding cancelled and released at once (R348). -/
def releaseRecords (b status : Nat) (s : State) : State :=
  forAll (recordsOf s b) (fun c s => bumpHome b 0x804 1 (clearRecord c (endWork c status s))) s

/-- Every frame of a binding back to the pool, its held-back quota with it (R347, R351, R357): none is charged to it any longer. -/
def releaseFrames (b : Nat) (s : State) : State :=
  let e := entry s b
  let mine := (s.ten.owner.filter fun x => x.2 == .tenant b).map (·.1)
  let s1 := modEntry b (fun e => { e with pageUsed := 0 }) (forAll mine (returnFrame b false) s)
  if e.reserved then { s1 with ten := { s1.ten with free := s1.ten.free + (e.pageQuota - e.pageUsed) } } else s1

/-- RELEASING (R347, R348): records, requests, load, frames, tree, residency and planes. -/
def startRelease (b : Nat) (s : State) : State :=
  let tid := (entry s b).tenant
  let r := brun s b
  let s1 := modEntry b (fun e => { e with st := 5 }) s
  let s2 := releaseRecords b 3 s1
  let s3 := forAll r.stageReqs (fun q s => replyCmd q.cmd b 0 0 0 s) s2
  let s4 := dropReads (· == .load b) (replyOpt r.loadCmd b 3 0 0 s3)
  let s5 := releaseFrames b (clearOverflow b s4)
  let s6 := modBrun b (fun q => { q with stageReqs := [], loadCmd := none, tree := [], returns := [], slots := [none, none, none, none],
                                         queued := [], cellMap := [], cellFull := false }) s5
  let s7 := { s6 with hw := { s6.hw with outliers := s6.hw.outliers.filter fun x => x.1 / 65536 != b
                                         cellUsed := s6.hw.cellUsed - r.cellMap.length } }
  let s8 := dropResidency tid s7
  let s9 := forAll ((r.planes.map (·.plane)) ++ ownedPlanes s8 tid).dedup releasePlane s8
  checkReleased b s9

/-! ### Multi-part operations (R309 to R312) -/

/-- Ring position of plan part `o` of a plan whose part 0 has seat `base` (R309). -/
def partPos (s : State) (base o : Nat) : Nat := (seatPos s ((base + o) % max 1 s.fab.seats.toNat)).toNat

/-- Hops downstream from one position to another (R297). -/
def hops (s : State) (a c : Nat) : Nat := (c + max 1 s.fab.ringSize.toNat - a % max 1 s.fab.ringSize.toNat) % max 1 s.fab.ringSize.toNat

/-- Working ports of a bond: the downstream bond is ports 0 to 3 (R292). -/
def bondPorts (s : State) (down : Bool) : Nat :=
  ((List.range 4).filter fun i => (port s (if down then i else i + 4)).st == 2).length

/-- The next transaction tag that no outstanding transaction has (Table 10.1). -/
def freeTag (s : State) : Nat → BitVec 24 → BitVec 24
  | 0, t => t
  | n + 1, t => if s.fab.txns.any fun x => x.tag == t then freeTag s n (t + 1) else t

/-- N. -/
def ringN (s : State) : Nat := max 1 s.fab.ringSize.toNat

/-- The payloads of a message's flits: 240 bytes each (Table 10.1). -/
def flitData (bs : List Byte) : List (List Byte) :=
  (List.range (max 1 (ceilDiv bs.length 240))).map fun i => (bs.drop (240 * i)).take 240

/-- One flit leaves on a port; SEQ counts the port's flits, a retransmitted one keeping its own. -/
def sendFlit (k kind src dst txn : Nat) (bs : List Byte) (s : State) : State :=
  let p := port s k
  emit (.flit k { kind := BitVec.ofNat 8 kind, src := BitVec.ofNat 9 src, dst := BitVec.ofNat 9 dst, txn := BitVec.ofNat 24 txn,
                  seq := p.seq, len := BitVec.ofNat 32 bs.length, data := bs })
    (setPort s k { p with flits := p.flits + 1, seq := p.seq + 1 })

/-- The flits of one message sent on a bond, striped over its working ports in ascending order, round-robin (R293); a part alone in its
ring has no bond. -/
def sendFlits (down : Bool) (kind src dst txn : Nat) (bs : List Byte) (s : State) : State :=
  let ps := ((List.range 4).map fun i => if down then i else i + 4).filter fun k => (port s k).st == 2
  if ringN s = 1 ∨ ps.isEmpty then s
  else
    let fs := flitData bs
    forAll ((List.range fs.length).zip fs) (fun x => sendFlit (ps.getD (x.1 % ps.length) 0) kind src dst txn x.2) s

/-- The neighbour on a bond. -/
def neighbour (s : State) (down : Bool) : Nat :=
  (s.fab.myPos.toNat + (if down then 1 else ringN s - 1)) % ringN s

/-- A control word sent to the neighbour on a bond (TYPE 1); it is no transaction (R323). -/
def sendWord (down : Bool) (bs : List Byte) (s : State) : State :=
  sendFlits down 1 s.fab.myPos.toNat (neighbour s down) 0 bs s

/-- A transaction started (R323, R326): its timer expires TT beats on. -/
def startTxn (dst : Nat) (down resent : Bool) (data : List Byte) (s : State) : State :=
  let t := freeTag s s.fab.txns.length s.fab.nextTag
  { s with fab := { s.fab with
      nextTag := t + 1
      txns := s.fab.txns ++ [{ tag := t, dst := BitVec.ofNat 9 dst, down := down, data := data,
                               expiry := s.fab.beat + BitVec.ofNat 64 s.fab.tt.toNat, ext := s.fab.ext, resent := resent }] } }

/-- A message sent as a transaction (R323): its data flits leave on the bond. -/
def sendTxn (dst : Nat) (down resent : Bool) (data : List Byte) (s : State) : State :=
  sendFlits down 0 s.fab.myPos.toNat dst (freeTag s s.fab.txns.length s.fab.nextTag).toNat data (startTxn dst down resent data s)

/-- A message other than those of R296's list goes the shorter way, downstream on a tie. -/
def goesDown (s : State) (dst : Nat) : Bool :=
  decide (hops s s.fab.myPos.toNat dst ≤ hops s dst s.fab.myPos.toNat)

/-- The payload of a plan message (log entry 135). -/
def planBytes (code : Nat) (q : PlanMsg) : List Byte :=
  leBytes 24 (packBits [(code, 8), (q.planId.toNat, 64), (q.part.toNat, 16), (q.reason.toNat, 8), (q.detail.toNat, 32), (q.epoch.toNat, 64)])

/-- A plan message sent as a transaction; code 0 ready, 1 refusal, 2 epoch, 3 abort. -/
def sendPlan (code dst : Nat) (q : PlanMsg) (s : State) : State :=
  sendTxn dst (goesDown s dst) false (planBytes code q) (emit (.planMsg code (BitVec.ofNat 9 dst) q) s)

/-- Messages of a binding's step sent to plan part `o`: those of R296's list always travel downstream. -/
def sendPart (b o : Nat) (always : Bool) (msgs : List (List Byte)) (s : State) : State :=
  let dst := partPos s (entry s b).baseSeat.toNat o
  forAll msgs (fun bs s => sendTxn dst (always || goesDown s dst) false bs s) s

/-- Messages sent to every other plan part. -/
def sendParts (b : Nat) (always : Bool) (msgs : List (List Byte)) (s : State) : State :=
  forAll ((List.range (plParts (planOf s b))).filter (· != (entry s b).planPart.toNat)) (fun o => sendPart b o always msgs) s

/-- Working ports of the downstream bond of the part at position `q`: this part knows its own two bonds; another part's are open
(log entry 136). -/
def bondAt (s : State) (q : Nat) : Nat :=
  if q = s.fab.myPos.toNat then bondPorts s true
  else if (q + 1) % ringN s = s.fab.myPos.toNat then bondPorts s false
  else (Config.farPorts q s.fab.beat).toNat % 5

/-- The fabric checks of Table 10.4 for a binding (R310). -/
def fabricCheck (s : State) (b : Nat) : Option Refuse :=
  let p := planOf s b
  let e := entry s b
  let n := plParts p
  let me := s.fab.myPos.toNat
  let pos (o : Nat) : Nat := partPos s e.baseSeat.toNat o
  let no (part check : Nat) : Option Refuse := some (0x40, part + check * 2 ^ 12)
  -- a bond on the path from part o to part o + 1
  let thin (o : Nat) : Bool :=
    (List.range (hops s (pos o) (pos (o + 1)))).any fun i => decide (bondAt s ((pos o + i) % ringN s) < plBond p)
  if s.fab.st ≠ 2 then no 0x1FF 1
  else if s.fab.seats.toNat < n ∨ n ≤ e.planPart.toNat ∨ pos e.planPart.toNat ≠ me then no e.planPart.toNat 2
  else
    (((List.range (n - 1)).find? fun o => decide (plHops p < hops s (pos o) (pos (o + 1)))).bind fun o => no o 3).orElse fun _ =>
    (((List.range (n - 1)).find? thin).bind fun o => no o 4).orElse fun _ =>
    if (attnLayers p).any fun l => atRing p l != 0 && decide (n < attn p l 28 2 % 512 + atRing p l) then no 0x1FF 5 else none

/-- The bindings that a switch brings in: the incoming one, and its pair partner with it (R341). -/
def switchIns (o : SwitchOp) : List Nat := o.incoming.toList ++ o.mate.toList

/-- Every binding a switch names goes back to the state it held before (R312). -/
def restoreStates (o : SwitchOp) (s : State) : State :=
  forAll (switchIns o ++ o.outgoing) (fun b s => modEntry b (fun e => { e with st := (brun s b).prev }) s) s

/-- A switch aborted before its epoch: the states before it, and the command refused (R312). -/
def abortSwitch (o : SwitchOp) (r : Refuse) (s : State) : State :=
  refuse o.cmd o.incoming r
    (restoreStates o { s with ten := { s.ten with switches := s.ten.switches.filter (· != o) } })

/-- A member of a multi-part operation is told its epoch (R311). -/
def memberEpoch (q : PlanMsg) (s : State) : State :=
  { s with
    ten := { s.ten with switches := s.ten.switches.map fun o =>
      if o.epoch.isNone ∧ o.planId = q.planId then { o with epoch := some q.epoch } else o }
    fab := { s.fab with ops := s.fab.ops.filter fun x => x.lead || x.planId != q.planId } }

/-- A member of a multi-part operation is told of its abort (R312): check 6 of Table 10.4 and the plan part. -/
def memberAbort (planId : W64) (part : BitVec 9) (s : State) : State :=
  let s1 := { s with fab := { s.fab with ops := s.fab.ops.filter fun x => x.lead || x.planId != planId } }
  forAll (s.ten.switches.filter fun o => o.epoch.isNone && o.planId == planId)
    (fun o s => abortSwitch o (0x40, part.toNat + 6 * 2 ^ 12) s) s1

/-- The part holding plan part 0 tells a plan part, itself included. -/
def tellPart (code : Nat) (q : PlanMsg) (o : Nat) (s : State) : State :=
  let dst := partPos s s.fab.mySeat.toNat o
  if dst = s.fab.myPos.toNat then (if code = 2 then memberEpoch q s else memberAbort q.planId q.part s)
  else sendPlan code dst q s

/-- The plan parts that the part holding plan part 0 tells: all of a plan it knows, else those it has heard of. -/
def toldParts (s : State) (o : MultiOp) : List Nat :=
  if 0 < o.parts then List.range o.parts
  else match (liveBindings s).find? fun b => (entry s b).planId == o.planId with
    | some b => List.range (plParts (planOf s b))
    | none => o.ready.map (·.toNat)

/-- An operation aborted by the part holding plan part 0 (R312). -/
def leadAbort (o : MultiOp) (part : BitVec 9) (s : State) : State :=
  let q : PlanMsg := { planId := o.planId, part := part, reason := 0x40, detail := BitVec.ofNat 32 (part.toNat + 6 * 2 ^ 12), epoch := 0 }
  forAll (toldParts s o) (tellPart 3 q) { s with fab := { s.fab with ops := s.fab.ops.filter (· != o) } }

/-- The operation of a plan at the part holding plan part 0, begun where there is none. -/
def leadOp (s : State) (planId : W64) : MultiOp :=
  (s.fab.ops.find? fun o => o.lead && o.planId == planId).getD
    { planId := planId, parts := 0, lead := true, ready := [], since := some s.fab.sched, sent := none, epoch := none }

/-- The part holding plan part 0 holds one more ready message (R311): with all of them it names the epoch. -/
def leadReady (planId : W64) (part : BitVec 9) (parts : Nat) (s : State) : State :=
  let o := leadOp s planId
  let o1 := { o with ready := if o.ready.contains part then o.ready else o.ready ++ [part], parts := max o.parts parts }
  let rest := s.fab.ops.filter fun x => !(x.lead && x.planId == planId)
  if 0 < o1.parts ∧ o1.parts ≤ o1.ready.length then
    let e := ceilDiv (s.fab.sched.toNat + s.fab.lead.toNat + 2) 1024
    let q : PlanMsg := { planId := planId, part := 0, reason := 0, detail := 0, epoch := BitVec.ofNat 64 e }
    forAll (List.range o1.parts) (tellPart 2 q) { s with fab := { s.fab with ops := rest } }
  else { s with fab := { s.fab with ops := rest ++ [o1] } }

/-- A refusal at the part holding plan part 0 (R312). -/
def leadRefusal (planId : W64) (part : BitVec 9) (s : State) : State :=
  let o := leadOp s planId
  leadAbort { o with ready := if o.ready.contains part then o.ready else o.ready ++ [part] } part
    { s with fab := { s.fab with ops := s.fab.ops.filter fun x => !(x.lead && x.planId == planId) } }

/-- This part's own acceptance or refusal of a multi-part operation goes to the part holding plan part 0 (R311, R312). -/
def tellLead (b : Nat) (refused : Option Refuse) (s : State) : State :=
  let e := entry s b
  let dst := partPos s e.baseSeat.toNat 0
  let here := decide (dst = s.fab.myPos.toNat)
  match refused with
  | some r =>
    if here then leadRefusal e.planId e.planPart s
    else sendPlan 1 dst { planId := e.planId, part := e.planPart, reason := BitVec.ofNat 8 r.1, detail := BitVec.ofNat 32 r.2, epoch := 0 } s
  | none =>
    if here then leadReady e.planId e.planPart (plParts (planOf s b)) s
    else
      sendPlan 0 dst { planId := e.planId, part := e.planPart, reason := 0, detail := 0, epoch := 0 }
        { s with fab := { s.fab with ops := s.fab.ops ++
            [{ planId := e.planId, parts := plParts (planOf s b), lead := false, ready := [], since := none,
               sent := some s.fab.sched, epoch := none }] } }

/-! ### Switching cores (R338 to R345) -/

/-- A binding holds the cores of its map (R338, R339): ENABLED, or named as outgoing by a switch not yet begun. -/
def holds (s : State) (b : Nat) : Bool := (entry s b).st == 3 || ((entry s b).st == 4 && (brun s b).prev == 3)

/-- The binding that holds a core. -/
def holder (s : State) (k : Nat) : Option Nat := (liveBindings s).find? fun b => holds s b && (mapCores s b).contains k

/-- A core's place in a detail word: logical cluster and core (Table 14.7). -/
def coreWord (s : State) (k : Nat) : Nat := (cluster s (k / 18)).logical.toNat + (core s k).logical.toNat * 2 ^ 7

/-- The pair partner of a binding, by PEER. -/
def mateOf (s : State) (b : Nat) : Option Nat := if (entry s b).peer = 0xFFF then none else some (entry s b).peer.toNat

/-- A switch accepted (R339): the named bindings enter SWITCHING; a single-part switch names its epoch at once. -/
def startSwitch (inc : Option Nat) (outs : List Nat) (cmd : Option CmdRef) (rel : List Nat) (s : State) : State :=
  let multi := match inc with | some b => decide (1 < plParts (planOf s b)) | none => false
  let mate := inc.bind (mateOf s)
  let s1 := forAll (inc.toList ++ mate.toList ++ outs) (fun b s =>
    modEntry b (fun e => { e with st := 4 }) (modBrun b (fun r => { r with prev := (entry s b).st }) s)) s
  let o : SwitchOp :=
    { incoming := inc, outgoing := outs, cmd := cmd, release := rel, accept := s.fab.sched,
      epoch := if multi then none else some (BitVec.ofNat 64 (ceilDiv (s.fab.sched.toNat + s.fab.lead.toNat + 2) 1024)),
      begun := false, failed := none, scrubs := [], planId := match inc with | some b => (entry s b).planId | none => 0
      mate := mate }
  let s2 := { s1 with ten := { s1.ten with switches := s1.ten.switches ++ [o] } }
  match inc with
  | some b => if multi then tellLead b none s2 else s2
  | none => s2

/-- Why a switch is refused at acceptance, if it is (R338, R339, R341). The one incoming binding that a switch can name brings its pair
partner in with it, which must be RESIDENT and name it (DEDUCED, log entry 166). -/
def switchCheck (s : State) (inc : Option Nat) (outs : List Nat) : Option Refuse :=
  let mate := inc.bind (mateOf s)
  let own := match inc with | some b => mapCores s b | none => []
  let other := match mate with | some b => mapCores s b | none => []
  let map := own ++ other
  let state (b want : Nat) : Option Refuse :=
    if (entry s b).st.toNat = want then none else some (0x30, b + (entry s b).st.toNat * 2 ^ 12)
  let pair (b : Nat) (other : List Nat) : Option Refuse :=
    let q := (entry s b).peer.toNat
    if q = 0xFFF ∨ other.contains q then none else some (0x36, q)
  let mated (b q : Nat) : Option Refuse := if (entry s q).st = 2 ∧ (entry s q).peer.toNat = b then none else some (0x36, q)
  (inc.bind fun b => state b 2).orElse fun _ =>
  (outs.findSome? fun b => state b 3).orElse fun _ =>
  (inc.bind fun b => mate.bind (mated b)).orElse fun _ =>
  (outs.findSome? fun b => pair b outs).orElse fun _ =>
  ((own.find? other.contains).map fun k => (0x34, coreWord s k + mate.getD 0xFFF * 2 ^ 11)).orElse fun _ =>
  (map.findSome? fun k =>
    if (core s k).failed then some (0x34, coreWord s k + 0xFFF * 2 ^ 11)
    else match holder s k with
      | none => none
      | some h => if outs.contains h then none else some (0x34, coreWord s k + h * 2 ^ 11)).orElse fun _ =>
  (if inc.isNone then none
   else (outs.find? fun b => !(mapCores s b).any map.contains).map fun b => (0x30, b + (entry s b).st.toNat * 2 ^ 12)).orElse fun _ =>
  (inc.toList ++ mate.toList).findSome? fun b => if 1 < plParts (planOf s b) then fabricCheck s b else none

/-- The outgoing list of a BIND_SWITCH payload (Table 12.6). -/
def outList (p : List Byte) : List Nat := (List.range (leAt p 0 2)).map fun i => leAt p (4 + 2 * i) 2 % 4096

/-- BIND_SWITCH dispatched (R338, R339, R376, R381). -/
def doBindSwitch (c : Cmd) (s : State) : State :=
  let b := c.binding.toNat
  let inc := if b = 0xFFF then none else some b
  let outs := outList c.payload
  let named := inc.toList ++ (inc.bind (mateOf s)).toList ++ outs
  if !(ring s c.ring).priv ∨ (inc.isSome ∧ (entry s b).st = 0) then replyCmd (cmdRef c) b 9 0 0 s
  else if c.record ≠ 0xFFFFFFFF ∨ 218 < leAt c.payload 0 2 ∨ c.payload.length < 4 + 2 * outs.length ∨ !named.Nodup
      ∨ named.isEmpty then replyCmd (cmdRef c) b 7 0 0 s
  else if named.any (bindingBusy s) then replyCmd (cmdRef c) b 0x0C 0 0 s
  else
    match switchCheck s inc outs with
    | none => startSwitch inc outs (some (cmdRef c)) [] s
    | some r =>
      let s1 := refuse (some (cmdRef c)) inc r s
      match inc with
      | some i => if 1 < plParts (planOf s i) ∧ s.fab.st = 2 then tellLead i (some r) s1 else s1
      | none => s1

/-- The records of a binding that has lost its cores leave their slots: QUEUED with work, IDLE without (R340). -/
def unslot (b : Nat) (s : State) : State :=
  forAll ((brun s b).slots.filterMap id) (fun c s =>
    let x := ctx s c
    let work := hasWork s c
    let s1 := modCtxRun c (fun r => { r with fed := 0, yToks := [] }) (vacate c s)
    if x.st ≠ 2 then s1
    else if work then modBrun b (fun r => { r with queued := r.queued ++ [c] }) (modCtx c (fun y => { y with st := 1 }) s1)
    else modCtx c (fun y => { y with st := 3 }) s1) s

/-- The final step boundary of an outgoing binding, which is no longer ENABLED (R340): its extensions are taken, it admits nothing, and
every slot is vacated. -/
def finalBoundary (b : Nat) (s : State) : State :=
  unslot b (stage8 b (switchers s b) (stage6 b (stagesTo5 b s)))

/-- Step boundary of a binding at a schedule beat (R340): a whole number of step periods since it took effect, with no wide
sequence between its two periods. -/
def atBoundary (s : State) (b : Nat) : Bool :=
  decide ((s.fab.sched.toNat - (brun s b).since.toNat) % max 1 (plPeriod (planOf s b)) = 0)
  && ((brun s b).slots.filterMap id).all fun c => !(secondHalf s c (entry s b).steps && (ctxRun s c).fed != 0)

/-- Everything of Table 11.6 on a core set to zero (R345). -/
def scrubCore (k : Nat) (s : State) : State :=
  let n := (core s k).ts.length
  let s1 := bump (clOf k) 0x718 n s
  let s2 := modCore k (fun q => { q with
    sram := [], cshare := [], recipes := false, tiles := [], tileUse := 0, tileSeen := 0, mask := [], keyPos := [], qryPos := [],
    opScales := [], ls := {}, walks := [], fetchQ := [], ts := [], lru := [], redWaits := [], redIn := [], mergeIn := [],
    mergeWait := none, mergeOuts := [], ringBlks := [], early := [], ptr := 0, ptrLow := 0, ptrHigh := 0,
    overran := [], sbWait := false, unitWait := false, window := none }) s1
  forAll (List.range 17) (fun i => modEngine (17 * k + i) fun g => { g with queue := [], split := none }) s2

/-- The plane transitions of a core that wait for a window end or a rebind take effect (R61, R203). -/
def settlePlane (n : Nat) (s : State) : State :=
  let q := plane s n
  let s1 := match q.next with
    | none => s
    | some st =>
      if st = 0 ∨ (st = 5 ∧ q.home.isNone) then freedPlane n s
      else modPlane n (fun q => { q with st := st, next := none, staleAt := if st = 3 then s.fab.beat else q.staleAt }) s
  match q.moveOf with
  | none => s1
  | some old =>
    -- the map moves to the new plane, and the old one becomes RETIRED (R221, R510)
    let s2 := modPlane n (fun q => { q with moveOf := none }) s1
    let b := (q.home.map (·.1)).getD 4096
    let s3 := modEngine (engOf n) (fun g => { g with queue := g.queue.map fun q => if q.plane = old then { q with plane := n } else q })
      (modBrun b (fun r => { r with planes := r.planes.map fun u => if u.plane = old then { u with plane := n } else u }) s2)
    let s4 := dropCells b old (modPlane old (fun q => { q with st := 5, next := none, home := none, resid := [] }) s3)
    journal { plane := BitVec.ofNat 22 old, kind := 2, value := BitVec.ofNat 16 ((slotOf s q.owner).getD 0), payload := 0 }
      { s4 with hw := { s4.hw with masters := put (fun _ => none) s4.hw.masters old none } }

/-- The planes of a core that the state lists. -/
def listedPlanes (s : State) (k : Nat) : List Nat := (s.hw.planes.filter fun x => x.1 / 65 / 17 == k).map (·.1)

/-- Every waiting plane transition of a core, a substitution that waits (R37, R203), and the releases that they let complete. -/
def settleCore (k : Nat) (s : State) : State :=
  let s1 := forAll (listedPlanes s k) settlePlane s
  let s2 := match (core s1 k).subWait with
    | none => s1
    | some e => substitute k e (modCore k (fun c => { c with subWait := none }) s1)
  forAll (liveBindings s2) checkReleased s2

/-- An outgoing binding stops at the first beat of E (R339, R340): where that is no step boundary of it, the step in progress is cut and
counted, and each sequence fed in it receives a notice. -/
def stopOutgoing (rel : List Nat) (b : Nat) (s : State) : State :=
  let active := ((brun s b).slots.filterMap id).filter fun c => (ctxRun s c).fed != 0
  let s1 := if !atBoundary s b then forAll active (fun c => noticeWork c 0x12) { s with ten := { s.ten with nPreempt := s.ten.nPreempt + 1 } } else s
  let s2 := abandonStep b s1
  let s3 := forAll (heldBy s2 b) (fun k => modCore k fun q => { q with bound := none }) s2
  let s4 := finalBoundary b (modEntry b (fun e => { e with st := 2 }) s3)
  if rel.contains b then startRelease b s4 else s4

/-- A switch begins at the first schedule beat of its epoch (R339, Table 11.5). -/
def beginSwitch (o : SwitchOp) (s : State) : State :=
  let cores := ((o.outgoing.flatMap (heldBy s)) ++ (switchIns o).flatMap (mapCores s)).dedup
  let s1 := forAll o.outgoing (stopOutgoing o.release) s
  let s2 := forAll (o.release.filter fun b => !o.outgoing.contains b) (fun b s => if (entry s b).st = 5 then s else startRelease b s) s1
  let s3 := forAll cores (fun k s => settleCore k (scrubCore k s)) s2
  let s4 := forAll (switchIns o) (fun b => modEntry b fun e => { e with st := 3, epoch := BitVec.ofNat 32 (o.epoch.getD 0).toNat }) s3
  { s4 with ten := { s4.ten with
    switches := s4.ten.switches.map fun x => if x = o then { o with begun := true, scrubs := cores, cores := cores } else x } }

/-- SWITCH_EPOCH (R339): every switch whose epoch's first schedule beat has come begins. -/
def execSwitchEpoch (s : State) : Host.Outcome State Fault Refusal :=
  .next (forAll (s.ten.switches.filter fun o => !o.begun && match o.epoch with
      | none => false
      | some e => decide (1024 * e.toNat ≤ s.fab.sched.toNat)) beginSwitch s)

/-- SCRUB_COMPLETE (R344): counted; a failed read-back marks the core failed in service, and an incoming binding whose map
names it is not enabled. -/
def execScrubComplete (core : Fin 2016) (fail : Bool) (s : State) : Host.Outcome State Fault Refusal :=
  let k := core.val
  .next (
    match s.ten.switches.find? fun o => o.begun && o.scrubs.contains k with
    | none => s
    | some o =>
      let hit := fail && (switchIns o).any fun b => (mapCores s b).contains k
      let o1 := { o with scrubs := o.scrubs.filter (· != k), failed := if hit ∧ o.failed.isNone then some k else o.failed }
      let s1 := { s with ten := { s.ten with switches := s.ten.switches.map fun x => if x = o then o1 else x } }
      if fail then
        failCore k 4 (if hit then
            forAll (switchIns o) (fun b s => modBrun b (fun r => { r with prev := 2 }) (modEntry b (fun e => { e with st := 4 }) s)) s1
          else s1)
      else { s1 with ten := { s1.ten with nScrub := s1.ten.nScrub + 1 } })

/-- A switch ends at the first schedule beat of epoch E + 1 (R344, R381). -/
def endSwitch (o : SwitchOp) (s : State) : State :=
  let s1 := { s with ten := { s.ten with nSwitch := s.ten.nSwitch + 1, switches := s.ten.switches.filter (· != o) } }
  let b := o.incoming.getD 0xFFF
  match o.failed with
  | none => replyOpt o.cmd b 0 0 0 s1
  | some k =>
    let w := coreWord s k + 0xFFF * 2 ^ 11
    replyOpt o.cmd b 0x13 0 w
      (forAll (switchIns o) (fun b => modEntry b fun e =>
        { e with st := if e.st = 4 then 2 else e.st, lastReason := 0x34, lastDetail := BitVec.ofNat 32 w }) s1)

/-- Switches whose epoch has passed end (R339 item 4, R381). -/
def endSwitches (s : State) : State :=
  forAll (s.ten.switches.filter fun o => o.begun && decide (1024 * ((o.epoch.getD 0).toNat + 1) ≤ s.fab.sched.toNat)) endSwitch s

/-! ### Unbind (R348 to R350) -/

/-- A binding unbound, its pair partner with it (R348). -/
def unbindEntry (b : Nat) (cmd : CmdRef) (s : State) : State :=
  let q := (entry s b).peer.toNat
  let mate := if q ≠ 0xFFF ∧ (entry s q).st ≠ 0 ∧ !bindingBusy s q ∧ (entry s q).peer.toNat = b then [q] else []
  let s1 := modBrun b (fun r => { r with unbindCmd := some cmd }) s
  let on := (b :: mate).filter fun x => (entry s x).st == 3
  if on.isEmpty then forAll (b :: mate) startRelease s1
  else startSwitch none on none (b :: mate) s1

/-- UNBIND of a binding index dispatched (R348, R376, R381). -/
def doUnbind (c : Cmd) (s : State) : State :=
  let b := c.binding.toNat
  if !(ring s c.ring).priv then replyCmd (cmdRef c) b 9 0 0 s
  else if c.record ≠ 0xFFFFFFFF then replyCmd (cmdRef c) b 7 0 0 s
  else if (entry s b).st = 0 then replyCmd (cmdRef c) b 9 0 0 s
  else if bindingBusy s b then replyCmd (cmdRef c) b 0x0C 0 0 s
  else unbindEntry b (cmdRef c) s

/-- UNBIND with BY_TENANT dispatched (R350): restored planes and their residency records are released; a bound tenant's entry
is unbound. -/
def doUnbindByTenant (c : Cmd) (s : State) : State :=
  let tid := BitVec.ofNat 64 (leAt c.payload 8 8)
  if !(ring s c.ring).priv then replyCmd (cmdRef c) c.binding.toNat 9 0 0 s
  else if c.record ≠ 0xFFFFFFFF ∨ tid = 0 ∨ c.binding ≠ 0xFFF then replyCmd (cmdRef c) c.binding.toNat 7 0 0 s
  else
    match (liveBindings s).find? fun b => (entry s b).tenant == tid with
    | some b => if bindingBusy s b then replyCmd (cmdRef c) b 0x0C 0 0 s else unbindEntry b (cmdRef c) s
    | none => replyCmd (cmdRef c) 0xFFF 0 0 0 (forAll (ownedPlanes s tid) releasePlane (dropResidency tid s))

/-- BIND_LOAD (R336). -/
def execBindLoad (c : Cmd) (d : CmdData) (s : State) : Host.Outcome State Fault Refusal :=
  .next (asPacket 0x01 c 1 (doBindLoad c d) s)

/-- BIND_SWITCH (R338). -/
def execBindSwitch (c : Cmd) (s : State) : Host.Outcome State Fault Refusal := .next (asPacket 0x02 c 1 (doBindSwitch c) s)

/-- UNBIND (R348). -/
def execUnbind (c : Cmd) (s : State) : Host.Outcome State Fault Refusal := .next (asPacket 0x03 c 1 (doUnbind c) s)

/-- UNBIND_BY_TENANT (R350). -/
def execUnbindByTenant (c : Cmd) (s : State) : Host.Outcome State Fault Refusal :=
  .next (asPacket 0x03 c 1 (doUnbindByTenant c) s)

end Sys2Proof.Machine
end

