-- ==== Sys2Proof/Machine/FabricOps.lean ====
section
/-! DEFINITION. The beat, formation, domain faults, stretches and Miotor transactions (R292 to R329), and the meanings of their
rows. -/

namespace Sys2Proof.Machine

/-! ### Geometry -/

/-- lam_r of R317 for a ring of `n` parts. -/
def lamR (n : Nat) : Nat := ceilDiv ((n - 1) * 256 + 1024) 1024

/-- The stretch lead of R317 for a ring of `n` parts. -/
def lamOf (n : Nat) : Nat := lamR n + ceilDiv ((n - 1) * 256) 1024 + 1

/-- A member at a position other than 0 takes its stretches from the master (R318, R319). -/
def follows (s : State) : Bool := s.fab.st == 2 && s.fab.myPos != 0

/-- MAP_DIGEST (R299). -/
def mapDigest (s : State) : W32 :=
  crc32 (wordsBytes [s.fab.domainId, BitVec.ofNat 32 s.fab.ringSize.toNat, BitVec.ofNat 32 s.fab.seats.toNat]
    ++ (List.range s.fab.seats.toNat).flatMap fun i => leBytes 2 (seatPos s i).toNat)

/-- The map is valid (R301, cause 6). -/
def mapValid (s : State) : Bool :=
  let n := s.fab.ringSize.toNat
  let k := s.fab.seats.toNat
  let ps := (List.range k).map fun i => (seatPos s i).toNat
  1 ≤ n && n ≤ 512 && s.fab.myPos.toNat < n && 1 ≤ k && k ≤ n && (s.fab.mySeat == 0x3FF || s.fab.mySeat.toNat < k)
  && ps.all (· < n) && decide ps.Nodup && seatPos s 0 == 0

/-- The seat table agrees with the part's own position and seat (R300 step 4). -/
def seatedRight (s : State) : Bool :=
  let ps := (List.range s.fab.seats.toNat).map fun i => (seatPos s i).toNat
  if s.fab.mySeat = 0x3FF then !ps.contains s.fab.myPos.toNat
  else (seatPos s s.fab.mySeat.toNat).toNat == s.fab.myPos.toNat

/-! ### Faults (R301, R306, R307) -/

/-- A domain fault notice passed to the neighbour on one bond; its payload is the cause and the position (log entry 135). -/
def passNotice (cause : BitVec 4) (pos : BitVec 9) (down : Bool) (s : State) : State :=
  sendWord down (leBytes 4 (packBits [(cause.toNat, 16), (pos.toNat, 16)])) (emit (.faultNotice cause pos) s)

/-- A domain fault notice of this part sent both ways round the ring; the part has raised that fault (R307). -/
def sendNotice (cause : BitVec 4) (pos : BitVec 9) (s : State) : State :=
  passNotice cause pos false (passNotice cause pos true
    { s with fab := { s.fab with noticed := (cause, pos) :: s.fab.noticed } })

/-- The part enters FAULT with its first cause (Table 10.9). -/
def enterFault (cause : Nat) (s : State) : State :=
  { s with fab := { s.fab with st := 3, cause := if s.fab.cause = 0 then BitVec.ofNat 4 cause else s.fab.cause, join := false,
                               raised := true, locked := true, misses := 0 } }

/-- A binding whose plan has PARTS above 1 is ended by a domain fault (R306): the sequences of its step end with
FABRIC_FAULT, an ENABLED one becomes FAILED, and it takes no further work. -/
def faultBinding (b : Nat) (s : State) : State :=
  let s1 := modBrun b (fun r => { r with fabricFault := true }) s
  if (entry s b).st = 3 ∨ ((entry s b).st = 4 ∧ (brun s b).prev = 3) then
    (let s2 := forAll ((brun s1 b).slots.filterMap id) (fun c s => failWork c 0x11 s) (abandonStep b s1)
     if (entry s b).st = 3 then failBinding b s2 else modBrun b (fun r => { r with prev := 6 }) s2)
  else s1

/-- Bindings whose plans have PARTS above 1. -/
def multiParts (s : State) : List Nat := (liveBindings s).filter fun b => decide (1 < plParts (planOf s b))

/-- A domain fault raised for the first time (R306); `src` is the position that sent the first notice, 0x1FF if raised
here. -/
def domainFault (cause src : Nat) (s : State) : State :=
  if s.fab.st ≠ 2 ∧ s.fab.st ≠ 1 then s
  else
    let s1 := enterFault cause (sendNotice (BitVec.ofNat 4 cause) s.fab.myPos s)
    let s2 := { s1 with fab := { s1.fab with ops := [], txns := [] } }
    let s3 := forAll (s2.ten.switches.filter (·.epoch.isNone)) (fun o s => abortSwitch o (0x40, 0x1FF + 6 * 2 ^ 12) s) s2
    let s4 := forAll (multiParts s3) faultBinding s3
    raise (err 0x71 3 cause src 0) s4

/-- A formation fails (R301). -/
def formFail (cause : Nat) (s : State) : State :=
  if s.fab.st ≠ 1 then s
  else raise (err 0x70 1 cause 0 0) (enterFault cause (sendNotice (BitVec.ofNat 4 cause) s.fab.myPos s))

/-- Ports of a bond that leave it. -/
def loseBond (down : Bool) (s : State) : State :=
  domainFault 9 0x1FF ((List.range 4).foldl (fun s i =>
    let k := if down then i else i + 4
    setPort s k { port s k with st := 3 }) s)

/-! ### Formation and leaving (R298 to R302, R308) -/

/-- A binding of the part is enabled (R302). -/
def anyEnabled (s : State) : Bool := (liveBindings s).any (holds s)

/-- The part forms or leaves nothing now: the map may be written (R298). -/
def mapOpen (s : State) : Bool := s.fab.st == 0 || s.fab.st == 3

/-- The first beat of a domain: both counts start at 0 (R302), and the part is a member. -/
def firstBeat (s : State) : State :=
  { s with fab := { s.fab with
      st := 2, join := false, locked := true, beat := 0, sched := 0, grant := none, later := [], waiting := [], own := []
      started := false, misses := 0 } }

/-- A JOIN (R300 to R302). -/
def doJoin (s : State) : State :=
  if !mapOpen s ∨ anyEnabled s then
    { s with fab := { s.fab with joinRefused := true } }
  else
    let n := ringN s
    let s1 := { s with fab := { s.fab with
      st := 1, join := true, cause := 0, raised := false, noticed := [], misses := 0, digest := mapDigest s,
      lead := BitVec.ofNat 9 (lamOf (min n 512)), locked := s.fab.myPos == 0 } }
    if !mapValid s1 then formFail 6 s1
    else if n = 1 then firstBeat s1
    else (List.range 8).foldl (fun s k => setPort s k { port s k with st := 1 }) s1

/-- A LEAVE (R308): the part is ALONE and keeps its counts; the others see a domain fault for a LEAVE. -/
def doLeave (s : State) : State :=
  if (liveBindings s).any fun b => holds s b && decide (1 < plParts (planOf s b)) then
    { s with fab := { s.fab with leaveRefused := true } }
  else
    -- the part raises the fault: its notice, the refusal of further work and the error record of R306 (log entry 137)
    let s1 := if s.fab.st = 1 ∨ s.fab.st = 2 then
        raise (err 0x71 3 11 0x1FF 0) (forAll (multiParts s) faultBinding (sendNotice 11 s.fab.myPos s))
      else s
    let s2 := { s1 with fab := { s1.fab with st := 0, join := false, locked := true, ops := [], txns := [] } }
    forAll (s2.ten.switches.filter (·.epoch.isNone)) (fun o s => abortSwitch o (0x40, 0x1FF + 6 * 2 ^ 12) s) s2

/-- A write of the fabric control register (Table 10.9). -/
def fabricControl (v : W32) (s : State) : State :=
  let s1 := if bitOf v.toNat 0 then doJoin s else s
  if bitOf v.toNat 1 then doLeave s1 else s1

/-- A write of a domain map register (R298). -/
def mapWriteAt (o : Nat) (v : W32) (s : State) : State :=
  let x := v.toNat
  if o ≠ 0x400004 ∧ o ≠ 0x400008 ∧ o ≠ 0x40000C ∧ !(0x401000 ≤ o ∧ o < 0x401400 ∧ o % 4 = 0) then s
  else if !mapOpen s then { s with fab := { s.fab with mapRefused := true } }
  else if o = 0x400004 then { s with fab := { s.fab with domainId := v } }
  else if o = 0x400008 then
    { s with fab := { s.fab with ringSize := BitVec.ofNat 10 (fld x 0 10), myPos := BitVec.ofNat 9 (fld x 16 9) } }
  else if o = 0x40000C then
    { s with fab := { s.fab with mySeat := BitVec.ofNat 10 (fld x 0 10), seats := BitVec.ofNat 10 (fld x 16 10) } }
  else
    let i := (o - 0x401000) / 2
    { s with fab := { s.fab with
      seatTab := put seatReset (put seatReset s.fab.seatTab i (BitVec.ofNat 16 (fld x 0 16))) (i + 1) (BitVec.ofNat 16 (fld x 16 16)) } }

/-- The transaction timers (R327): TT is at least 16 and EXT at least 9. -/
def txnTimers (v : W32) (s : State) : State :=
  { s with fab := { s.fab with tt := BitVec.ofNat 16 (max 16 (fld v.toNat 0 16)),
                               ext := BitVec.ofNat 16 (max 9 (fld v.toNat 16 16)) } }

/-- A register of the Miotor block is open to a master: the host from phase 7 on (R429). -/
def fabricOpen (s : State) (m : Master) : Bool := m != .host || !below7 s

/-- A register write that the management controller makes over MCTP (R298) is a message received (Table 19.3). -/
def byMgmt (m : Master) (s : State) : State :=
  if m = .mgmt then { s with ident := { s.ident with mctpMessages := s.ident.mctpMessages + 1 } } else s

/-- The W1C flags of the fabric state register, which only the management block clears (R524). -/
def clearRefused (v : W32) (s : State) : State :=
  let x := v.toNat
  { s with fab := { s.fab with mapRefused := s.fab.mapRefused && !bitOf x 12
                               joinRefused := s.fab.joinRefused && !bitOf x 13
                               leaveRefused := s.fab.leaveRefused && !bitOf x 14 } }

/-- MAP_WRITE (R298). A management block write at the fabric state register clears its W1C flags (R524). -/
def execMapWrite (m : Master) (off : Off) (v : W32) (s : State) : Host.Outcome State Fault Refusal :=
  .next (
    if m = .mgmt ∧ off.toNat = 0x400000 then clearRefused v (byMgmt m s)
    else if fabricOpen s m then mapWriteAt off.toNat v (byMgmt m s) else s)

/-- JOIN (R302): a write of the fabric control register. -/
def execJoin (m : Master) (v : W32) (s : State) : Host.Outcome State Fault Refusal :=
  .next (if fabricOpen s m then fabricControl v (byMgmt m s) else s)

/-- LEAVE (R308): a write of the fabric control register. -/
def execLeave (m : Master) (v : W32) (s : State) : Host.Outcome State Fault Refusal :=
  .next (if fabricOpen s m then fabricControl v (byMgmt m s) else s)

/-- TRANSACTION_TIMERS_WRITE (R327). -/
def execTransactionTimersWrite (m : Master) (v : W32) (s : State) : Host.Outcome State Fault Refusal :=
  .next (if fabricOpen s m then txnTimers v (byMgmt m s) else s)

/-- A formation word sent downstream (R300); its payload is the identifier, the digest and the position (log entry 135). -/
def sendForm (w : FormWord) (s : State) : State :=
  sendWord true (leBytes 12 (packBits [(w.domainId.toNat, 32), (w.digest.toNat, 32), (w.pos.toNat, 32)])) (emit (.formWord w) s)

/-- PORT_TRAINING_COMPLETE (R294): the raw latency is kept; a port over 240 ns or with lanes out of order fails and leaves
its bond. With the last port trained, position 0 sends its formation word (R300), and a bond left with no port ends the
formation (log entry 24). -/
def execPortTrainingComplete (k : Fin 8) (raw : Nat) (lanesOk : Bool) (s : State) : Host.Outcome State Fault Refusal :=
  .next (
    if (port s k).st ≠ 1 then s
    else
      let ok := decide (raw ≤ 240) && lanesOk
      let s1 := setPort s k { port s k with st := if ok then 2 else 3, rawLat := BitVec.ofNat 8 (min 255 raw) }
      let mine := (List.range 4).map fun i => if k.val < 4 then i else i + 4
      if mine.all fun j => (port s1 j).st == 3 then formFail (if 240 < raw then 4 else 9) s1
      else if s1.fab.st = 1 ∧ s1.fab.myPos = 0 ∧ (List.range 8).all fun j => (port s1 j).st != 1 then
        sendForm { domainId := s1.fab.domainId, digest := s1.fab.digest, pos := 0 } s1
      else s1)

/-- The 15 bytes of a beat word that CHECK covers (Table 10.2). -/
def beatBytes (w : BeatWord) : List Byte :=
  leBytes 15 (packBits [(w.beat.toNat, 64), (w.toPoint.toNat, 16), (w.toEnd.toNat, 24), (bit w.token, 1), (0, 15)])

/-- A beat word sent downstream: bytes 16 to 31 of its flit (Table 10.2). -/
def sendBeat (w : BeatWord) (s : State) : State := sendWord true (beatBytes w ++ [w.check]) (emit (.beatWord w) s)

/-- FORMATION_WORD (R300): checked, and forwarded with the part's own position; at position 0 the domain's beat starts. -/
def execFormationWord (w : FormWord) (s : State) : Host.Outcome State Fault Refusal :=
  let me := s.fab.myPos.toNat
  .next (
    if s.fab.st ≠ 1 then s
    else if w.domainId ≠ s.fab.domainId then formFail 1 s
    else if w.digest ≠ s.fab.digest then formFail 3 s
    else if w.pos.toNat ≠ (me + ringN s - 1) % ringN s ∨ !seatedRight s then formFail 2 s
    else if me = 0 then
      sendBeat ⟨0, 0, 0, false, crc8 (List.replicate 15 0)⟩ (firstBeat s)
    else sendForm { w with pos := s.fab.myPos } s)

/-- FORMATION_TIMEOUT (R301): 100 ms have passed since JOIN. -/
def execFormationTimeout (s : State) : Host.Outcome State Fault Refusal := .next (formFail 5 s)

/-- BEAT_LOCK (R300, R303): a forming member has locked to the beat. -/
def execBeatLock (s : State) : Host.Outcome State Fault Refusal :=
  .next (if s.fab.st = 1 ∧ s.fab.myPos ≠ 0 then
    { s with fab := { s.fab with st := 2, join := false, locked := true, misses := 0 } } else s)

/-- DOMAIN_FAULT_NOTICE (R301, R306, R307): forwarded the way it travels by a part that has not raised the same fault; a member, or a
part that forms, raises the fault, with cause 11 for a LEAVE and else 7. -/
def execDomainFaultNotice (cause : BitVec 4) (src : Sender) (s : State) : Host.Outcome State Fault Refusal :=
  .next (
    let pos := src.pos
    if s.fab.noticed.contains (cause, pos) then s
    else
      let s1 := passNotice cause pos src.down s
      if s.fab.st = 1 ∨ s.fab.st = 2 then
        domainFault (if cause = 11 then 11 else 7) pos.toNat { s1 with fab := { s1.fab with noticed := (cause, pos) :: s1.fab.noticed } }
      else s1)

/-- CABLE_DISCONNECT (R542): the bond goes down. -/
def execCableDisconnect (down : Bool) (s : State) : Host.Outcome State Fault Refusal := .next (loseBond down s)

/-- BOND_DOWN (R307): the neighbour has lost power. -/
def execBondDown (down : Bool) (s : State) : Host.Outcome State Fault Refusal := .next (loseBond down s)

/-! ### The beat (R303 to R305) -/

/-- The beat word of the present beat (R303, R319). -/
def beatNow (s : State) : BeatWord :=
  let b := s.fab.beat.toNat
  let w : BeatWord := match s.fab.grant with
    | none => { beat := s.fab.beat, toPoint := 0, toEnd := 0, token := false, check := 0 }
    | some g => { beat := s.fab.beat, toPoint := BitVec.ofNat 16 (g.x0.toNat - b), toEnd := BitVec.ofNat 24 (g.e0.toNat - b),
                  token := decide (b < g.e0.toNat), check := 0 }
  { w with check := crc8 (beatBytes w) }

/-- A stretch request sent downstream (R318); its payload is the beat, the length and the position (log entry 135). -/
def sendRequest (q : StretchReq) (s : State) : State :=
  sendWord true (leBytes 12 (packBits [(q.beat.toNat, 64), (q.len.toNat, 16), (q.pos.toNat, 16)])) (emit (.reqWord q) s)

/-- The requests of the beat that ends are combined and sent (R316). -/
def sendRequests (s : State) : State :=
  match s.fab.own.filter fun x => x.beat == s.fab.beat with
  | [] => s
  | x :: t =>
    let r := t.foldl (fun a y => max a y.len.toNat) x.len.toNat
    let q : StretchReq := { beat := s.fab.beat, len := BitVec.ofNat 16 r, pos := s.fab.myPos }
    let s1 := { s with fab := { s.fab with requests := s.fab.requests + 1 } }
    if follows s then sendRequest q s1
    else { s1 with fab := { s1.fab with waiting := s1.fab.waiting ++ [q] } }

/-- Both counts at a beat edge (R304): the schedule beat count stands still at the edges of inserted beats. -/
def countBeat (s : State) : State :=
  let b := s.fab.beat + 1
  let ins := match s.fab.grant with
    | none => false
    | some g => decide (g.x0.toNat ≤ b.toNat ∧ b.toNat < g.e0.toNat)
  { s with fab := { s.fab with beat := b, sched := if ins then s.fab.sched else s.fab.sched + 1,
                               inserted := if ins then s.fab.inserted + 1 else s.fab.inserted } }

/-- The timers of ladle reads count beats, but not while the link is in Recovery (R393). -/
def countReads (s : State) : State :=
  if s.host.recovery then s
  else { s with host := { s.host with reads := s.host.reads.map fun x => { x with left := x.left - 1 } } }

/-- A load of a quiesced part completes with REMOVED, and what it took is released (R396). -/
def removeLoad (b : Nat) (s : State) : State :=
  if s.host.quiesce ∧ (entry s b).st = 1 then
    startRelease b (replyOpt (brun s b).loadCmd b 0x16 0 0 (modBrun b (fun r => { r with loadCmd := none }) s))
  else s

/-- What a schedule epoch boundary brings: stages 1 to 5 of every binding that holds no cores (R335), and the end of the
loads of a quiesced part. -/
def epochStages (s : State) : State :=
  if s.fab.sched.toNat % 1024 = 0 then
    forAll ((liveBindings s).filter fun b => !holds s b && (entry s b).st != 5) (fun b s => removeLoad b (stagesTo5 b s)) s
  else s

/-- A member whose beat generator runs. -/
def beats (s : State) : Bool := s.fab.locked || s.fab.st == 1

/-- A beat counted by every enabled cluster that runs below point 0 while a binding holds cores of it (R465). -/
def countBelow (s : State) : State :=
  forAll (s.hw.clusters.filter fun x => x.2.st == 0 && x.2.pow.point != 0) (fun x s =>
    if (List.range 18).any fun i => (core s (18 * x.1 + i)).bound.isSome then
      modCluster x.1 (fun c => { c with pow := { c.pow with below := c.pow.below + 1 } }) s else s) s

/-- A cluster that R466 lets idle: no core of it is bound, and no program, calibration or test is in progress. -/
def clusterIdle (s : State) (p : Nat) : Bool :=
  enabledCl s p && !(cluster s p).cal.running && (List.range 18).all fun i =>
    (core s (18 * p + i)).bound.isNone && !(core s (18 * p + i)).kat.running &&
    (List.range 17).all fun e => (engine s (17 * (18 * p + i) + e)).prog.isNone && (engine s (17 * (18 * p + i) + e)).cal.isNone

/-- The gating of an enabled cluster at a beat edge (R466): an idle one is clock-gated, and counts its idle beats from then on; any other
has its clock and its power. -/
def gateCluster (p : Nat) (s : State) : State :=
  let c := (cluster s p).pow
  if clusterIdle s p then
    modCluster p (fun q => { q with pow := { q.pow with clkGated := true, idle := if c.clkGated then c.idle + 1 else 0 } }) s
  else if c.clkGated ∨ c.gated then ungate p s
  else s

/-- Every enabled cluster's gating. -/
def gateClusters (s : State) : State :=
  forAll (s.hw.clusters.filter fun x => x.2.st == 0) (fun x s => gateCluster x.1 s) s

/-- A miss (R305): the fourth in a row is beat loss. -/
def beatMiss (s : State) : State :=
  if 3 ≤ s.fab.misses then domainFault 8 0x1FF s
  else { s with fab := { s.fab with misses := s.fab.misses + 1 } }

/-- Whole beats that a word takes to reach this part's position, 256 ns a hop (R303). -/
def wordLag (s : State) : Nat := s.fab.myPos.toNat / 4

/-- At a member's edge, a word whose beat of arrival has passed is missing (R305). -/
def missingWord (s : State) : State :=
  if s.fab.st = 2 ∧ s.fab.myPos ≠ 0 ∧ s.fab.wordNext.toNat + wordLag s + 1 ≤ s.fab.beat.toNat then
    beatMiss { s with fab := { s.fab with wordNext := s.fab.wordNext + 1 } }
  else s

/-- A granted stretch extended by a request at point `x` of length `r`, where the point meets it (R318). -/
def extendStretch (x r : Nat) (g : Stretch) : Option Stretch :=
  if g.x0.toNat ≤ x ∧ x ≤ g.e0.toNat then some { g with e0 := BitVec.ofNat 64 (max g.e0.toNat (x + r)) } else none

/-- A grant for stretch point `x` and length `r` (R318). -/
def grantStretch (x r : Nat) (s : State) : State :=
  let new : Stretch := { x0 := BitVec.ofNat 64 x, e0 := BitVec.ofNat 64 (x + r) }
  let counted := { s with fab := { s.fab with stretches := s.fab.stretches + 1 } }
  match s.fab.grant with
  | none => { counted with fab := { counted.fab with grant := some new } }
  | some g =>
    match extendStretch x r g with
    | some h => { s with fab := { s.fab with grant := some h } }
    | none =>
      if s.fab.later.any fun y => (extendStretch x r y).isSome then
        { s with fab := { s.fab with later := s.fab.later.map fun y => (extendStretch x r y).getD y } }
      else { counted with fab := { counted.fab with later := counted.fab.later ++ [new] } }

/-- Every request raised in a beat resolved (R318). -/
def resolveBeat (beat : W64) (s : State) : State :=
  match s.fab.waiting.filter fun q => q.beat == beat with
  | [] => s
  | q :: t =>
    grantStretch (beat.toNat + s.fab.lead.toNat) (t.foldl (fun a y => max a y.len.toNat) q.len.toNat)
      { s with fab := { s.fab with waiting := s.fab.waiting.filter fun q => q.beat != beat } }

/-- At its edge the master resolves the requests raised lam_r beats before, so that the word of this beat carries the grant (R318,
R319). -/
def resolveDue (s : State) : State := if follows s then s else resolveBeat (s.fab.beat - BitVec.ofNat 64 (lamR (ringN s))) s

/-- The stretch that a beat word gives to a member that holds none (R319). -/
def newStretch (w : BeatWord) : Option Stretch :=
  if w.token ∧ w.toPoint ≠ 0 then
    some { x0 := w.beat + BitVec.ofNat 64 w.toPoint.toNat, e0 := w.beat + BitVec.ofNat 64 w.toEnd.toNat }
  else none

/-- The newest stretch values of a beat word (R319); a member that has reached the point without the token is in beat loss. -/
def takeToken (w : BeatWord) (s : State) : State :=
  let x := w.beat + BitVec.ofNat 64 w.toPoint.toNat
  let e := w.beat + BitVec.ofNat 64 w.toEnd.toNat
  if !w.token then s
  else
    match s.fab.grant with
    | none =>
      if w.toPoint = 0 ∨ x.toNat ≤ s.fab.beat.toNat then domainFault 8 0x1FF s
      else { s with fab := { s.fab with grant := some { x0 := x, e0 := e } } }
    | some g => { s with fab := { s.fab with grant := some { x0 := if w.toPoint = 0 then g.x0 else x, e0 := e } } }

/-- A word carries the count that a member expects of it: its own less the beats of the word's way; a word that comes with an edge may
be read on either side of it (R303, R305). -/
def countsAgree (s : State) (w : BeatWord) : Bool :=
  let p := s.fab.myPos.toNat
  let own := s.fab.beat.toNat
  let at_ := w.beat.toNat + wordLag s
  own == at_ || (p % 4 == 0 && own + 1 == at_)

/-- A beat word taken by a part that forms: its own counts are those of the word and of its way (R302, R303). -/
def formBeat (w : BeatWord) (s : State) : State :=
  let n := w.beat + BitVec.ofNat 64 (wordLag s)
  { s with fab := { s.fab with beat := n, sched := n, grant := newStretch w, later := [], waiting := [], own := [], started := false,
                               wordNext := w.beat + 1 } }

/-- BEAT_WORD_RECEIVED (R300, R303, R305): forwarded, compared with the member's own count and edge, and its stretch values
taken; a forming member takes its counts from it. -/
def execBeatWordReceived (w : BeatWord) (onTime : Bool) (s : State) : Host.Outcome State Fault Refusal :=
  let good := w.check == crc8 (beatBytes w)
  let fwd (s : State) : State := if s.fab.myPos.toNat + 1 < ringN s then sendBeat w s else s
  .next (
    if s.fab.myPos = 0 then s
    else if s.fab.st = 1 then (if good then fwd (formBeat w s) else s)
    else if s.fab.st ≠ 2 then s
    else if !good || !countsAgree s w || !onTime then
      beatMiss (fwd { s with fab := { s.fab with wordNext := s.fab.wordNext + 1 } })
    else takeToken w (fwd { s with fab := { s.fab with misses := 0, wordNext := w.beat + 1 } }))

/-- BEAT_LOSS (R305): four misses in a row, words that never came among them. -/
def execBeatLoss (s : State) : Host.Outcome State Fault Refusal :=
  .next (if s.fab.st = 2 ∧ s.fab.myPos ≠ 0 then domainFault 8 0x1FF s else s)

/-! ### Stretches (R316 to R321) -/

/-- A core's stretch request (R316). -/
def requestStretch (k len : Nat) (s : State) : State :=
  { s with fab := { s.fab with own := s.fab.own ++ [{ core := k, beat := s.fab.beat, len := BitVec.ofNat 16 (min 65535 len) }] } }

/-- A core has a request of its own outstanding (R321). -/
def hasRequest (s : State) (k : Nat) : Bool := s.fab.own.any fun x => x.core == k

/-- STRETCH_REQUEST_WORD (R318): forwarded, or held by the master; a bad one is counted and discarded. -/
def execStretchRequestWord (q : StretchReq) (s : State) : Host.Outcome State Fault Refusal :=
  .next (
    if s.fab.st ≠ 2 then s
    else if s.fab.myPos ≠ 0 then sendRequest q s
    else if q.len = 0 ∨ ringN s ≤ q.pos.toNat then { s with fab := { s.fab with badRequests := s.fab.badRequests + 1 } }
    else { s with fab := { s.fab with waiting := s.fab.waiting ++ [q] } })

/-- STRETCH_RESOLVE (R318): the master resolves every request raised in a beat, at its edge lam_r beats on; of a beat whose edge has
resolved what was there, those that came since. -/
def execStretchResolve (beat : W64) (s : State) : Host.Outcome State Fault Refusal :=
  .next (if follows s ∨ s.fab.beat.toNat < beat.toNat + lamR (ringN s) then s else resolveBeat beat s)

/-- STRETCH_START (R319): the stretch point is reached; the stretch serves as a maintenance window for the planes held now
(R212). -/
def execStretchStart (s : State) : Host.Outcome State Fault Refusal :=
  .next (if inserted s ∧ !s.fab.started then
      { s with fab := { s.fab with started := true }, hw := { s.hw with stretchPlanes := s.hw.held } }
    else s)

/-- STRETCH_END (R321): the stretch's requests are no longer outstanding, and held planes take their new state (R212). -/
def execStretchEnd (s : State) : Host.Outcome State Fault Refusal :=
  .next (
    match s.fab.grant with
    | none => s
    | some g =>
      if s.fab.beat.toNat < g.e0.toNat then s
      else
        let s1 := { s with fab := { s.fab with
          grant := s.fab.later.head?, later := s.fab.later.drop 1, started := false
          own := s.fab.own.filter fun x => decide (g.e0.toNat < x.beat.toNat + s.fab.lead.toNat) } }
        let done := s.hw.held.filter fun n => (plane s n).next == some 2 || (plane s n).st == 2
        let s2 := { s1 with hw := { s1.hw with held := s1.hw.held.filter (fun n => !done.contains n), stretchPlanes := [] } }
        forAll done settlePlane s2)

/-! ### Links and transactions (R323 to R327) -/

/-- A link sequence number stands at or before another (Table 10.1). -/
def seqLe (a b : W32) : Bool := decide ((b - a).toNat < 2 ^ 31)

/-- A loss of flit `seq` falls in the episode in progress: the flits before it have arrived intact and in order, so the episode has ended
exactly where `seq` was sent after its first request (R324). -/
def inEpisode (used : Nat) (upTo seq : W32) : Bool := used != 0 && seqLe seq upTo

/-- Flits of a retransmission by go-back-N: the lost one and all sent after it (R324). -/
def goBack (p : Port) (seq : W32) : Nat := if seqLe seq p.seq then (p.seq - seq).toNat else 0

/-- A message back towards the source of a transaction that leaves on port `k`, on the other bond (R296). -/
def sendBack (k : Fin 8) (kind : Nat) (src : BitVec 9) (txn : BitVec 24) (bs : List Byte) (s : State) : State :=
  if src = s.fab.myPos then s else sendFlits (decide (4 ≤ k.val)) kind s.fab.myPos.toNat src.toNat txn.toNat bs s

/-- The retry notices of an episode that starts: one to each source, with its transactions (R324). -/
def sendNotices (k : Fin 8) (held : List (BitVec 9 × BitVec 24)) (s : State) : State :=
  forAll (held.map (·.1)).dedup (fun src s =>
    let ts := (held.filter fun x => x.1 == src).map (·.2)
    sendBack k 3 src (ts.headD 0) (ts.flatMap fun t => leBytes 3 t.toNat) (emit (.retryNotice src ts) s)) s

/-- FLIT_LOST (R324): the receiving port asks for a retry, in a new episode where the last one has ended; the sending port that is
asked sends again from the lost flit, and at the start of an episode notifies the sources of the flits it holds. An episode whose 8
retransmissions are spent takes no other: what follows is its exhaustion (R325). -/
def execFlitLost (x : PortLoss) (s : State) : Host.Outcome State Fault Refusal :=
  let k := x.port
  let p := port s k
  .next (
    if p.st ≠ 2 then s
    else
      match x.asked with
      | none =>
        if !inEpisode p.used p.upTo x.seq then
          emit (.retry k) (setPort s k { p with used := 1, upTo := x.sent, episodes := p.episodes + 1 })
        else if p.used < 8 then emit (.retry k) (setPort s k { p with used := p.used + 1 })
        else s
      | some held =>
        let again := { p with retransmits := p.retransmits + 1, flits := p.flits + BitVec.ofNat 64 (goBack p x.seq) }
        if !inEpisode p.sentAgain p.sentUpTo x.seq then
          sendNotices k held (setPort s k { again with sentAgain := 1, sentUpTo := p.seq - 1 })
        else if p.sentAgain < 8 then setPort s k { again with sentAgain := p.sentAgain + 1 }
        else s)

/-- EPISODE_EXHAUSTED (R325): the port leaves its bond and sends an error completion to the source of each transaction in its replay
buffer; a bond with no working port is down. The episode's 8 retransmissions have been sent. -/
def execEpisodeExhausted (x : PortHeld) (s : State) : Host.Outcome State Fault Refusal :=
  let k := x.port
  let p := port s k
  .next (
    if p.st ≠ 2 then s
    else
      let s1 := setPort s k { p with
        st := 3, used := 0, sentAgain := 0, exhausted := p.exhausted + 1, retransmits := p.retransmits + BitVec.ofNat 32 (8 - p.sentAgain),
        flits := p.flits + BitVec.ofNat 64 ((8 - p.sentAgain) * goBack p x.seq) }
      let s2 := forAll x.held (fun y s => sendBack k 4 y.1 y.2 (leBytes 3 y.2.toNat) (emit (.errCompl y.1 y.2) s)) s1
      if bondPorts s2 (decide (k.val < 4)) = 0 then domainFault 9 0x1FF s2 else s2)

/-- An outstanding transaction by its tag. -/
def txnOf (s : State) (t : BitVec 24) : Option Txn := s.fab.txns.find? fun x => x.tag == t

/-- A transaction no longer outstanding. -/
def dropTxn (t : BitVec 24) (s : State) : State :=
  { s with fab := { s.fab with txns := s.fab.txns.filter fun x => x.tag != t } }

/-- RETRY_NOTICE (R326): the timer is extended by the EXT that held when it started. -/
def execRetryNotice (txn : BitVec 24) (s : State) : Host.Outcome State Fault Refusal :=
  .next { s with fab := { s.fab with txns := s.fab.txns.map fun x =>
    if x.tag = txn then { x with expiry := x.expiry + BitVec.ofNat 64 x.ext.toNat } else x } }

/-- ERROR_COMPLETION (R325): the transaction is sent once more with a new tag, or is unrecoverable. -/
def execErrorCompletion (txn : BitVec 24) (s : State) : Host.Outcome State Fault Refusal :=
  let s1 := { s with fab := { s.fab with errCompl := s.fab.errCompl + 1 } }
  .next (
    match txnOf s txn with
    | none => s1
    | some x =>
      let s2 := dropTxn txn s1
      if x.resent ∨ bondPorts s x.down = 0 then domainFault 10 0x1FF s2
      else sendTxn x.dst.toNat x.down true x.data (emit (.resend txn (freeTag s2 s2.fab.txns.length s2.fab.nextTag)) s2))

/-- ACKNOWLEDGEMENT (R326): the timer stops. -/
def execAcknowledgement (txn : BitVec 24) (s : State) : Host.Outcome State Fault Refusal := .next (dropTxn txn s)

/-- TRANSACTION_TIMEOUT (R326): counted, recorded, and a domain fault. -/
def execTransactionTimeout (txn : BitVec 24) (s : State) : Host.Outcome State Fault Refusal :=
  .next (
    match txnOf s txn with
    | none => s
    | some x =>
      if s.fab.beat.toNat < x.expiry.toNat then s
      else
        let s1 := dropTxn txn { s with fab := { s.fab with timeouts := s.fab.timeouts + 1 } }
        domainFault 10 0x1FF (raise (err 0x72 1 txn.toNat x.dst.toNat 0) s1))

/-! ### Multi-part operations (R311, R312) -/

/-- READY_MESSAGE (R311) at the part that holds plan part 0. -/
def execReadyMessage (q : PlanMsg) (s : State) : Host.Outcome State Fault Refusal :=
  .next (if s.fab.st = 2 then leadReady q.planId q.part 0 s else s)

/-- REFUSAL_MESSAGE (R312) at the part that holds plan part 0. -/
def execRefusalMessage (q : PlanMsg) (s : State) : Host.Outcome State Fault Refusal :=
  .next (if s.fab.st = 2 then leadRefusal q.planId q.part s else s)

/-- EPOCH_MESSAGE (R311). -/
def execEpochMessage (q : PlanMsg) (s : State) : Host.Outcome State Fault Refusal :=
  .next (if s.fab.st = 2 then memberEpoch q s else s)

/-- ABORT_MESSAGE (R312). -/
def execAbortMessage (q : PlanMsg) (s : State) : Host.Outcome State Fault Refusal :=
  .next (if s.fab.st = 2 then memberAbort q.planId q.part s else s)

/-- READY_WAIT_TIMEOUT (R312): 65,536 schedule beats have passed. -/
def execReadyWaitTimeout (s : State) : Host.Outcome State Fault Refusal :=
  .next (forAll (s.fab.ops.filter fun o => o.lead && match o.since with
      | some t => decide (t.toNat + 65536 ≤ s.fab.sched.toNat)
      | none => false) (fun o => leadAbort o 0x1FF) s)

/-- EPOCH_WAIT_TIMEOUT (R312): neither an epoch nor an abort within 131,072 schedule beats. -/
def execEpochWaitTimeout (s : State) : Host.Outcome State Fault Refusal :=
  .next (forAll (s.fab.ops.filter fun o => !o.lead && match o.sent with
      | some t => decide (t.toNat + 131072 ≤ s.fab.sched.toNat)
      | none => false) (fun o => memberAbort o.planId 0x1FF) s)

end Sys2Proof.Machine
end

