-- ==== Sys2Proof/Machine/RecordOps.lean ====
section
/-! DEFINITION. What every op record shares: issue and its checks (R184 to R191), operand references (R180, Table 6.5) with
their frame owner checks (R352), the vectors of a step (R129, R270), and a step that ends without committing (R62). -/

namespace Sys2Proof.Machine

/-- An issued record: physical core, binding, plan core, the record, its index, its variant, and what the checks find while it runs
(R485, R487). -/
structure Iss where
  k      : Nat
  b      : Nat
  i      : Nat
  x      : Nat
  idx    : Nat
  wide   : Bool
  faults : List UnitFault := []

/-- The plan of an issued record's binding. -/
def Iss.plan (c : Iss) (s : State) : List Byte := planOf s c.b

/-- The plan core that a physical core is in a binding (R177, R331). -/
def planIndex (s : State) (b k : Nat) : Option Nat :=
  (List.range (plCores (planOf s b))).find? fun i => planCore s b i == some k

/-- The layer step of a core changed. -/
def modLs (k : Nat) (f : LayerRun → LayerRun) (s : State) : State := modCore k (fun q => { q with ls := f q.ls }) s

/-- The layer step in progress on a core. -/
def lsOf (s : State) (k : Nat) : LayerRun := (core s k).ls

/-- An error record that names a core, its tenant and its step (R494). -/
def coreErr (s : State) (k b : Nat) (layer : Option Nat) (typ sev d0 d1 d2 : Nat) : ErrRec :=
  { (err typ sev d0 d1 d2).atCore k with
    tenant := BitVec.ofNat 12 b, step := (entry s b).steps,
    layer := match layer with | some l => BitVec.ofNat 16 l | none => 0xFFFF }

/-- An error record that names an op record. -/
def recErr (s : State) (c : Iss) (typ sev d0 d1 d2 : Nat) : ErrRec :=
  { coreErr s c.k c.b (if usesLayer c.x then some (rLayer c.x) else none) typ sev d0 d1 d2 with
    record := BitVec.ofNat 14 c.idx, wide := c.wide, recordValid := true }

/-! ### A step that ends without committing -/

/-- The record in a slot of a binding. -/
def slotRec (s : State) (b i : Nat) : Option Nat := (brun s b).slots.getD i none

/-- The sequence of a slot is in wide mode (R151). -/
def slotWide (s : State) (b i : Nat) : Bool := match slotRec s b i with | some c => (ctx s c).wide | none => false

/-- Tokens a slot feeds in the step, none once its vectors are removed (R147, R270). -/
def slotFed (s : State) (b i : Nat) : Nat :=
  if bitOf (brun s b).removed.toNat i then 0 else match slotRec s b i with | some c => (ctxRun s c).fed | none => 0

/-- The token of its slot that a vector carries: vectors of a slot are numbered from 0 in token order (R129), and a vector
index beyond VEC counts on from the slot's (DEDUCED, log entry 31). -/
def vecToken (s : State) (b v : Nat) : Nat := v % max 1 (plVec (planOf s b))

/-- The slot whose vector a record works on, if it serves one. -/
def vecSlot (c : Iss) : Option Nat := (maskSlots c.x).head?

/-- The vector of a record carries a token of the step (R270). -/
def vecUsed (s : State) (c : Iss) (v : Nat) : Bool :=
  match vecSlot c with
  | none => false
  | some i => decide (vecToken s c.b v < slotFed s c.b i)

/-- A slot's bit. -/
def slotBit (i : Nat) : BitVec 4 := BitVec.ofNat 4 (2 ^ i)

/-- A slot is implicated in the run in progress on a core (R141). -/
def implicate (k : Nat) (slot : Option Nat) (s : State) : State :=
  match slot with
  | none => s
  | some i => modLs k (fun l => { l with impl := l.impl ||| slotBit i }) s

/-- A checksum miss of the layer step on a core (Table 4.2). -/
def addMiss (k : Nat) (s : State) : State := modLs k (fun l => { l with misses := l.misses + 1 }) s

/-- Slots of a list implicated in the run in progress on a core (R141). -/
def implicateAll (k : Nat) (slots : List Nat) (s : State) : State := forAll slots (fun i => implicate k (some i)) s

/-- A sequence's vectors removed from the rest of the step (R147, items 1 to 3). -/
def removeSlot (b i : Nat) (s : State) : State :=
  match slotRec s b i with
  | none => s
  | some c =>
    modCtxRun c (fun r => { r with fed := 0, yToks := [] })
      (restoreSeq c (modBrun b (fun r => { r with removed := r.removed ||| slotBit i }) s))

/-! ### Known-answer tests brought forward (R119, R490, R493) -/

/-- DUE_CORES of a cluster (Table 17.5). -/
def dueCores (p : Nat) (s : State) : State :=
  setWin p 0xB14 (BitVec.ofNat 64 (packBits ((List.range 18).map fun i => (bit (core s (18 * p + i)).kat.due.isSome, 1)))) s

/-- A core's test falls due at a beat. -/
def katDueAt (k : Nat) (beat : W64) (s : State) : State :=
  dueCores (clOf k) (modCore k (fun q => { q with kat := { q.kat with due := some beat } }) s)

/-- A core's test falls due now, unless it is due already. -/
def katDue (k : Nat) (s : State) : State := katDueAt k ((core s k).kat.due.getD s.fab.beat) s

/-- A REPEAT_MISS or DATAPATH_CHECK record of a core counted in its window of 2^20 beats (R493): at 4 the test is due and treated as
60 s overdue, at 16 the core is marked failed in service. -/
def katCount (k : Nat) (s : State) : State :=
  let w := BitVec.ofNat 64 (s.fab.beat.toNat / 1048576)
  let q := (core s k).kat
  let n := if q.winNo = w then q.winCount + 1 else 1
  let s1 := modCore k (fun c => { c with kat := { c.kat with winNo := w, winCount := n } }) s
  let s2 := if n = 4 then
      modCore k (fun c => { c with kat := { c.kat with late := true } }) (katDue k s1)
    else s1
  if n = 16 then failCore k 5 s2 else s2

/-! ### Checks of the datapath and of the memories while a record runs (R485, R487) -/

/-- A checksum miss on a core for what a record did in its layer step, with the slots it serves; none outside a layer step. -/
def missOf (c : Iss) (s : State) : State :=
  if (lsOf s c.k).opened then implicateAll c.k (maskSlots c.x) (addMiss c.k s) else s

/-- The sequence of a context record ends with PAGE_FAULT, as R237 ends it (R487). -/
def ctxFault (b rec : Nat) (s : State) : State :=
  match (List.range 4).find? fun i => slotRec s b i == some rec with
  | none => s
  | some i => removeSlot b i (modCtxRun rec (fun r => { r with endWith := some 0x0F }) s)

/-- One finding while a record runs: a datapath check failure is counted, recorded and a miss (R485); an uncorrectable read is a miss
of its layer step, but of a page-table entry it is a page fault of the walk, and of a context record it ends the sequence (R487). -/
def recordFault (c : Iss) (u : UnitFault) (s : State) : State :=
  match u with
  | .datapath unit lane =>
    katCount c.k (missOf c (raise (recErr s c 0x25 0 unit.val lane.toNat 0) (bump (clOf c.k) 0xB18 1 s)))
  | .ctxBad rec => ctxFault c.b rec.val s
  | .memBad _ _ => let t := memFault (recErr s c 0 0 0 0 0) u s; if rOp c.x = 0x60 then t else missOf c t
  | .sramBad _ _ => missOf c (memFault (recErr s c 0 0 0 0 0) u s)
  | .memCorrected _ _ | .sramCorrected _ _ => memFault (recErr s c 0 0 0 0 0) u s

/-! ### Recipe order (R184, R187) -/

/-- The stream of the sequencer that a record lies in: 0 the narrow variant, 1 and 2 the first and second period of the wide one. -/
def streamOf (p : List Byte) (wide : Bool) (x : Nat) : Nat := if !wide then 0 else if plPeriod p ≤ rBeat x then 2 else 1

/-- The next record of a stream to issue on a core. -/
def ptrOf (q : Core) (st : Nat) : Nat := if st = 0 then q.ptr else if st = 1 then q.ptrLow else q.ptrHigh

/-- The next record of a stream set. -/
def setPtr (st v : Nat) (q : Core) : Core :=
  if st = 0 then { q with ptr := v } else if st = 1 then { q with ptrLow := v } else { q with ptrHigh := v }

/-- The stream that a slot's records come from in the step in progress: the narrow variant, or the period of the wide one that the
parity of the steps since the switch gives (R151, R184). -/
def slotStream (s : State) (b i : Nat) : Nat :=
  match slotRec s b i with
  | none => 0
  | some c => if firstHalf s c (entry s b).steps then 1 else if secondHalf s c (entry s b).steps then 2 else 0

/-- The sequencer takes a record (R184): one that serves one slot from the stream of its slot, every other from the narrow variant. In
a step that has ended (R62, R191) only LSTEP, STEPEND and MWIN are taken. -/
def takes (s : State) (b : Nat) (wide : Bool) (x : Nat) : Bool :=
  if oneSlotted x then !(brun s b).dead && slotStream s b (oneSlot x) == streamOf (planOf s b) wide x
  else !wide && (!(brun s b).dead || rOp x == 1 || rOp x == 2 || rOp x == 4)

/-- The records of a stream that a core has still to issue in the step, by index. -/
def unissued (s : State) (k b i st : Nat) : List (Nat × Nat) :=
  let p := planOf s b
  let rs := recsOf p i (st != 0)
  ((List.range rs.length).map fun n => (n, rs.getD n 0)).filter fun y =>
    decide (ptrOf (core s k) st ≤ y.1) && streamOf p (st != 0) y.2 == st && takes s b (st != 0) y.2

/-- Every earlier record of the recipe has issued (R187): those before it in its own stream, and those of the other streams with an
earlier corresponding beat; a STEPEND follows every record, and a wide record follows the LSTEP of its beat. -/
def orderOk (s : State) (c : Iss) : Bool :=
  let p := planOf s c.b
  let st := streamOf p c.wide c.x
  let at_ := corrBeat p c.wide c.x
  decide (ptrOf (core s c.k) st ≤ c.idx) && (unissued s c.k c.b c.i st).all (fun y => decide (c.idx ≤ y.1))
  && ([0, 1, 2].filter (· != st)).all fun u => (unissued s c.k c.b c.i u).all fun y =>
      let other := corrBeat p (u != 0) y.2
      rOp c.x != 2 && decide (at_ ≤ other) && !(at_ == other && rOp y.2 == 1)

/-- LSTEP records of a stream up to an index: the number of the layer step it lies in. -/
def stepNo (p : List Byte) (i st idx : Nat) : Nat :=
  (((recsOf p i (st != 0)).take (idx + 1)).filter fun x => rOp x == 1 && streamOf p (st != 0) x == st).length

/-- The first record of layer step `n` of a stream: its LSTEP. -/
def stepStart (p : List Byte) (i st n : Nat) : Nat :=
  let rs := recsOf p i (st != 0)
  ((List.range rs.length).find? fun j =>
    rOp (rs.getD j 0) == 1 && streamOf p (st != 0) (rs.getD j 0) == st && stepNo p i st j == n).getD rs.length

/-- The core's sequencer goes back to the LSTEP of the layer step in progress (R185). -/
def rewind (p : List Byte) (i : Nat) (q : Core) : Core :=
  let n := stepNo p i 0 q.ls.lstep
  { q with ptr := q.ls.lstep, ptrLow := stepStart p i 1 n, ptrHigh := stepStart p i 2 n, overran := [] }

/-- A record belongs to the layer step in progress on its core. -/
def inLayer (s : State) (c : Iss) : Bool :=
  let q := lsOf s c.k
  let p := planOf s c.b
  q.opened && !(rOp c.x == 2 || rOp c.x == 4)
  && stepNo p c.i (streamOf p c.wide c.x) c.idx == stepNo p c.i 0 q.lstep

/-- Records of the layer step in progress that a core has still to issue. -/
def stepLeft (s : State) (k b i : Nat) : List (Iss × Nat) :=
  [0, 1, 2].flatMap fun st => ((unissued s k b i st).map fun y =>
    (({ k := k, b := b, i := i, x := y.2, idx := y.1, wide := st != 0 } : Iss), st)).filter fun y => inLayer s y.1

/-! ### Beats (R179, R184 to R186) -/

/-- A record is issued again in a replay of the layer step in progress on its core (R185). -/
def replaying (s : State) (c : Iss) : Bool := (lsOf s c.k).run != 0 && inLayer s c

/-- The replay is a stretched one (R146). -/
def stretched (s : State) (c : Iss) : Bool := replaying s c && decide (lyA (c.plan s) (lsOf s c.k).layer < (lsOf s c.k).run)

/-- The schedule beat of a record (R179, R184, R185): BEAT from the start of the step period, and B + (k - 1) x P later in allowed
replay k. -/
def dueAt (s : State) (c : Iss) : Nat :=
  let p := c.plan s
  let q := lsOf s c.k
  (core s c.k).stepAt.toNat + corrBeat p c.wide c.x
    + (if replaying s c then lyB p q.layer + (q.run - 1) * lySpan p q.layer else 0)

/-- The beat count at which a record of a stretched replay issues: its offset from the LSTEP, from the stretch point (R146, R185). -/
def stretchedAt (s : State) (c : Iss) : Nat :=
  (lsOf s c.k).point.toNat + (corrBeat (c.plan s) c.wide c.x - (lsOf s c.k).beat)

/-- The record's beat has come (R187): for a stretched replay that of the beat count (R320). -/
def beatDue (s : State) (c : Iss) : Bool :=
  if stretched s c then decide (stretchedAt s c ≤ s.fab.beat.toNat) else decide (dueAt s c ≤ s.fab.sched.toNat)

/-- The beat count of a record's beat: for a late one, as many beats back as it is late (DEDUCED, log entry 130). -/
def beatOf (s : State) (c : Iss) : Nat :=
  if stretched s c then stretchedAt s c else s.fab.beat.toNat - (s.fab.sched.toNat - dueAt s c)

/-! ### Issue (R187 to R191) -/

/-- The cause of Table 17.2 for which a record is damaged at issue (R191); an uncorrectable recipe word is damage whose
cause is open (R487). -/
def damageOf (s : State) (op : Nat) (r : RecRead) : Option Nat :=
  let x := r.bits.toNat
  if rOp x ≠ op ∨ !opcodes.contains (rOp x) then some 0
  else if rSeq x ≠ r.idx.toNat % 65536 then some 1
  else if !recordClean x then some 2
  else if r.bad then some (Config.freeNat s.fresh % 4)
  else none

/-- A record treated as damaged (R191): the step ends, the fault is recorded, and firmware reloads the recipes; a second
failure of one record within an epoch fails the core (R36). -/
def treatDamaged (c : Iss) (cause : Nat) (s : State) : State :=
  let ep := eventEpoch s
  let key := (c.idx, c.wide, ep)
  let again := (core s c.k).damaged.contains key
  let s1 := raise (recErr s c 0x30 1 (c.idx + bit c.wide * 2 ^ 14) cause 0) (endStep c.b (bump (clOf c.k) 0x50C 1 s))
  if again then failCore c.k 3 s1
  else bump (clOf c.k) 0x510 1 (modCore c.k (fun q => { q with damaged := (q.damaged.filter (·.2.2 == ep)) ++ [key] }) s1)

/-- The uncorrectable word of a recipe counted and recorded; its byte address in the recipe area is open (R487). -/
def badRecipeWord (c : Iss) (s : State) : State :=
  tickFresh (memFault (recErr s c 0 0 0 0 0) (.sramBad true (Config.freeWord s.fresh)) s)

/-- The records of the layer step that an LSTEP of the narrow variant opens, of every stream. -/
def stepRecords (p : List Byte) (i idx : Nat) : List Nat :=
  let n := stepNo p i 0 idx
  [0, 1, 2].flatMap fun st =>
    ((recsOf p i (st != 0)).drop (stepStart p i st n + 1)).takeWhile fun x => rOp x != 1 && rOp x != 2

/-- The state tiles with their output tiles that an LSTEP sets to empty: those of the SMAX records of its layer step (R248). -/
def stateTiles (p : List Byte) (i idx : Nat) : List (Nat × Nat) :=
  (((stepRecords p i idx).filter fun x => rOp x == 0x51 && rCntD x != 0).map fun x => (rTileD x, rCntD x)).dedup

/-- A tile that a record names, or that an LSTEP writes (R248), is in use (R173). -/
def tilesBusy (s : State) (c : Iss) : Bool :=
  let ts := tilesNamed c.x ++ (if rOp c.x = 1 then (stateTiles (planOf s c.b) c.i c.idx).flatMap fun t => (List.range t.2).map (t.1 + ·)
                               else [])
  ts.any fun t => bitOf (core s c.k).tileUse.toNat t

/-- The regions that operands of a binding's records reach, as binding enable fixed them (R180, R545). -/
def boundRegions (s : State) (b i : Nat) : Regions :=
  let p := planOf s b
  let e := entry s b
  { cshare := 524288 - 32 * (recCount p i false + recCount p i true), act := 65536 * e.actFrames.toNat,
    rows := match embBlock p with | some x => leAt p x.off 4 | none => 0,
    ovf := 65536 * e.ovfFrames.toNat, map := (brun s b).coreMap, parts := plParts p, part := e.planPart.toNat }

/-- The sequencer moves past a record (R187). -/
def advance (c : Iss) (s : State) : State :=
  let st := streamOf (planOf s c.b) c.wide c.x
  modCore c.k (fun q => setPtr st (c.idx + 1) { q with overran := q.overran.filter (· != (st, c.idx)) }) s

/-- A scoreboard wait, counted once for the record that waits (R173 to R175). -/
def sbWaits (k : Nat) (s : State) : State :=
  if (core s k).sbWait then s else bump (clOf k) 0x408 1 (modCore k (fun q => { q with sbWait := true }) s)

/-- A wait that ends counts its cycles: at least one, and otherwise open (log entry 79). -/
def endWait (k off : Nat) (s : State) : State := tickFresh (bump (clOf k) off (1 + Config.freeNat s.fresh) s)

/-- A wait within the beat on a tile that an earlier record of the layer step named: the commands carry no cycles, so whether the
record waited, and for how many, is open (DESIGN CHOICE, log entry 155). -/
def openWait (k : Nat) (s : State) : State :=
  let n := Config.freeNat s.fresh
  tickFresh (if n = 0 then s else bump (clOf k) 0x400 n (bump (clOf k) 0x408 1 s))

/-- A set of tiles as bits. -/
def tileBits (ts : List Nat) : W32 := BitVec.ofNat 32 (ts.foldl (fun a t => a ||| 2 ^ t) 0)

/-- The waits of a record that issues (R175, R192), and the tiles that it names. -/
def endWaits (k : Nat) (ts : List Nat) (s : State) : State :=
  let q := core s k
  let seen := q.tileSeen &&& tileBits ts != 0
  modCore k (fun q => { q with sbWait := false, unitWait := false, tileSeen := q.tileSeen ||| tileBits ts })
    (when q.unitWait (endWait k 0x500) (if q.sbWait then endWait k 0x400 s else when seen (openWait k) s))

/-- The slots that a record of the layer step in progress serves and that feed tokens: the layer carries their vectors (R150). -/
def markCarried (c : Iss) (s : State) : State :=
  if (lsOf s c.k).opened ∧ inLayer s c then
    let m := ((maskSlots c.x).filter fun i => slotFed s c.b i != 0).foldl (fun a i => a ||| slotBit i) 0
    modLs c.k (fun l => { l with carried := l.carried ||| m }) s
  else s

/-- The effect of an issued record: its operands judged again (R191), then `f`, and what the checks found. -/
def runRecord (f : Iss → State → State) (c : Iss) (s : State) : State :=
  let s1 := advance c (markCarried c (endWaits c.k (tilesNamed c.x) (bump (clOf c.k) 0x514 1 s)))
  if !recordOpnds (c.plan s) (boundRegions s c.b c.i) (lsOf s c.k).layer c.x then treatDamaged c 3 s1
  else forAll c.faults (recordFault c) (f c s1)

/-- A record at its core's sequencer (R184, R187, R189, R191): it issues where the core runs a tenant, its beat has come, no
maintenance window holds it, every earlier record has issued, the sequencer takes it, its tiles are free and it can go on (`ready`);
else it waits, and this command changes nothing but what is counted of a wait: on the scoreboard, or for a busy `unit`. -/
def issueTo (op : Nat) (unit : Bool) (ready : Iss → State → Bool) (f : Iss → State → State) (k : Nat) (r : RecRead)
    (s : State) : State :=
  match boundOf s k with
  | none => s
  | some b =>
    match planIndex s b k with
    | none => s
    | some i =>
      let c : Iss := { k := k, b := b, i := i, x := r.bits.toNat, idx := r.idx.toNat, wide := r.wide, faults := r.faults }
      if (core s k).failed ∨ (core s k).window.isSome ∨ !beatDue s c ∨ !orderOk s c then s
      else
        match damageOf s op r with
        | some cause =>
          if (brun s b).dead ∧ !takes s b r.wide (recAt (planOf s b) i r.wide c.idx) then s
          else treatDamaged c cause (advance c (if r.bad then badRecipeWord c s else s))
        | none =>
          if !takes s b r.wide c.x then s
          else if tilesBusy s c then sbWaits k s
          else if !ready c s then (if unit then modCore k (fun q => { q with unitWait := true }) s else s)
          else runRecord f c s

/-- A record whose unit can always take it. -/
def issue (op : Nat) (f : Iss → State → State) (k : Nat) (r : RecRead) (s : State) : State :=
  issueTo op false (fun _ _ => true) f k r s

/-! ### Operands (Table 6.5) -/

/-- Little-endian words of bytes (R17). -/
def wordsOf : List Byte → List W32
  | a :: b :: c :: d :: t => BitVec.ofNat 32 (ofLe [a, b, c, d]) :: wordsOf t
  | _ => []

/-- The device-memory address of byte `q` of a region. -/
def regionAddr (fs : List Nat) (q : Nat) : Option Nat := (fs[q / 65536]?).map fun f => 65536 * f + q % 65536

/-- The frames that `n` bytes of a region from byte `q` on lie in. -/
def regionFrames (fs : List Nat) (q n : Nat) : List Nat :=
  if n = 0 then [] else (List.range ((q + n - 1) / 65536 + 1 - q / 65536)).filterMap fun i => fs[q / 65536 + i]?

/-- The first frame of a list that the binding does not own. -/
def foreignFrame (s : State) (b : Nat) (fs : List Nat) : Option Nat := fs.find? fun f => owner s f != .tenant b

/-- An owner fault at the data path (R352), in block `blk` of frame `f`: recorded, and the tenant's step ends as R62 ends it. -/
def ownerStop (k b f blk : Nat) (write : Bool) (s : State) : State :=
  endStep b (ownerFault b f blk write (coreErr s k b none 0x13 1 0 0 0) s)

/-- The first 256-byte block of a frame that an access to a region from byte `q` on reaches. -/
def firstBlock (fs : List Nat) (q f : Nat) : Nat := (max q (65536 * fs.idxOf f)) % 65536 / 256

/-- `n` bytes of a region read: zeros from a frame of another owner. -/
def readRegion (k b : Nat) (fs : List Nat) (q n : Nat) (s : State) : List Byte × State :=
  let bs := (List.range n).map fun i =>
    match regionAddr fs (q + i) with
    | none => 0
    | some a => if owner s (a / 65536) = .tenant b then memByte s a else 0
  match foreignFrame s b (regionFrames fs q n) with
  | none => (bs, s)
  | some f => (bs, ownerStop k b f (firstBlock fs q f) false s)

/-- Bytes written to a region; a write to a frame of another owner is discarded. -/
def writeRegion (k b : Nat) (fs : List Nat) (q : Nat) (bs : List Byte) (s : State) : State :=
  let s1 := ((List.range bs.length).zip bs).foldl (fun s x =>
    match regionAddr fs (q + x.1) with
    | none => s
    | some a => if owner s (a / 65536) = .tenant b then memPut a [x.2] s else s) s
  match foreignFrame s b (regionFrames fs q bs.length) with
  | none => s1
  | some f => ownerStop k b f (firstBlock fs q f) true s1

/-- The frames of a device-memory space of a binding (R545). -/
def spaceFrames (s : State) (b sp : Nat) : List Nat :=
  if sp = 4 then (brun s b).actBase else if sp = 5 then (brun s b).embBase else (brun s b).ovfBase

/-- The byte of its region that a device-memory operand names; row `r` of the embedding table starts behind its 16-byte head
(R548). -/
def spaceByte (s : State) (b o : Nat) : Nat :=
  if opSpace o = 5 then
    let p := planOf s b
    match embBlock p with | some x => 16 + opOff o * leAt p (x.off + 4) 4 | none => 0
  else 256 * opOff o

/-- The operand names a device-memory space. -/
def inDevice (o : Nat) : Bool := opSpace o == 4 || opSpace o == 5 || opSpace o == 6

/-- `n` bytes of an operand from its byte `q` on. -/
def readAt (k b o q n : Nat) (s : State) : List Byte × State :=
  if opSpace o = 1 then (lookAll (fun _ => 0) (core s k).sram (opOff o + q) n, s)
  else if opSpace o = 2 then (lookAll (fun _ => 0) (core s k).sram (262144 + opOff o + q) n, s)
  else if opSpace o = 3 then (lookAll (fun _ => 0) (core s k).cshare (opOff o + q) n, s)
  else if inDevice o then readRegion k b (spaceFrames s b (opSpace o)) (spaceByte s b o + q) n s
  else (List.replicate n 0, s)

/-- `n` bytes of an operand. -/
def readOp (k b o n : Nat) (s : State) : List Byte × State := readAt k b o 0 n s

/-- `n` FP32 words of an operand from its word `i` on. -/
def readWordsAt (k b o i n : Nat) (s : State) : List W32 × State :=
  let r := readAt k b o (4 * i) (4 * n) s
  (wordsOf r.1, r.2)

/-- `n` FP32 words of an operand. -/
def readWords (k b o n : Nat) (s : State) : List W32 × State := readWordsAt k b o 0 n s

/-- Bytes written to an operand now, from its byte `q` on. -/
def writeAt (k b o q : Nat) (bs : List Byte) (s : State) : State :=
  if opSpace o = 1 then modCore k (fun c => { c with sram := putAll (fun _ => 0) c.sram (opOff o + q) bs }) s
  else if opSpace o = 2 then modCore k (fun c => { c with sram := putAll (fun _ => 0) c.sram (262144 + opOff o + q) bs }) s
  else if opSpace o = 3 then modCore k (fun c => { c with cshare := putAll (fun _ => 0) c.cshare (opOff o + q) bs }) s
  else if inDevice o then writeRegion k b (spaceFrames s b (opSpace o)) (spaceByte s b o + q) bs s
  else s

/-- Bytes written to an operand now. -/
def writeOp (k b o : Nat) (bs : List Byte) (s : State) : State := writeAt k b o 0 bs s

/-- Bytes that a record leaves at an operand, from its byte `q` on: outside the core they wait for the layer step's commit (R48,
R117), and in its own spaces they are noted for an append of them (R242). -/
def leaveOpAt (k b o q : Nat) (bs : List Byte) (s : State) : State :=
  if !(lsOf s k).opened then writeAt k b o q bs s
  else if inDevice o then
    modLs k (fun l => { l with tails := l.tails ++ [{ dest := BitVec.ofNat 32 o, peer := 0, byte := q, data := bs }] }) s
  else modLs k (fun l => { l with leaves := l.leaves ++ [(opSpace o, opOff o + q, bs.length)] }) (writeAt k b o q bs s)

/-- Bytes that a record leaves at an operand. -/
def leaveOp (k b o : Nat) (bs : List Byte) (s : State) : State := leaveOpAt k b o 0 bs s

/-- FP32 words left at an operand. -/
def leaveWords (k b o : Nat) (ws : List W32) (s : State) : State := leaveOp k b o (wordsBytes ws) s

/-- The physical core of this part that a chain peer names, if it lies in this part and runs the binding (Table 6.5, R180, R309). -/
def peerCore (s : State) (b o : Nat) : Option Nat :=
  if opOff o % 512 = (entry s b).planPart.toNat then
    (physCore s (fld (opOff o) 9 7) (fld (opOff o) 16 4)).filter fun k => boundOf s k == some b
  else none

/-- The chain peer lies in another part. -/
def peerAway (s : State) (b o : Nat) : Bool := opSpace o == 7 && opOff o % 512 != (entry s b).planPart.toNat

/-- One held write made at commit (R117): to an operand, or to a peer's staging. -/
def commitTail (k b : Nat) (t : TailOut) (s : State) : State :=
  if opSpace t.dest.toNat = 7 then
    match peerCore s b t.dest.toNat with
    | some m => writeOp m b t.peer.toNat t.data s
    | none =>
      if peerAway s b t.dest.toNat then
        sendPart b (opOff t.dest.toNat % 512) false [t.data] (emit (.tailOut k t.dest t.peer (wordsOf t.data)) s)
      else s
  else writeAt k b t.dest.toNat t.byte t.data s

/-! ### Tiles (R172) -/

/-- Word `i` of a tile run that starts at tile `t`. -/
def tileWord (s : State) (k t i : Nat) : W32 := look (fun _ => 0) (core s k).tiles (256 * t + i)

/-- `n` words from a tile on. -/
def tileWords (s : State) (k t n : Nat) : List W32 := lookAll (fun _ => 0) (core s k).tiles (256 * t) n

/-- Words written from word `i` of a tile on. -/
def putTile (k t i : Nat) (ws : List W32) (s : State) : State :=
  modCore k (fun q => { q with tiles := putAll (fun _ => 0) q.tiles (256 * t + i) ws }) s

/-- A byte of a tile's 1,024 (R245): the words little-endian. -/
def tileByte (s : State) (k t j : Nat) : Byte := BitVec.ofNat 8 (fld (tileWord s k t (j / 4)).toNat (8 * (j % 4)) 8)

/-- A 16-bit element of a tile. -/
def tileHalf (s : State) (k t j : Nat) : W16 := BitVec.ofNat 16 (fld (tileWord s k t (j / 2)).toNat (16 * (j % 2)) 16)

/-- Bytes written from byte `j` of a tile on. -/
def putTileBytes (k t j : Nat) (bs : List Byte) (s : State) : State :=
  modCore k (fun q => { q with tiles := ((List.range bs.length).zip bs).foldl (fun m x =>
    let a := 1024 * t + j + x.1
    let w := (look (fun _ => 0) m (a / 4)).toNat
    let sh := 2 ^ (8 * (a % 4))
    put (fun _ => 0) m (a / 4) (BitVec.ofNat 32 (w - fld w (8 * (a % 4)) 8 * sh + x.2.toNat * sh))) q.tiles }) s

/-! ### Clamps (R157) -/

/-- Clamped results counted in ATT_CLAMPED. -/
def attClamped (k n : Nat) (s : State) : State := if n = 0 then s else bump (clOf k) 0x40C n s

end Sys2Proof.Machine
end

