-- ==== Sys2Proof/Machine/Passes.lean ====
section
/-! DEFINITION. Passes: the converters (R66 to R74), column correction (R91), drift sums (R94), splits (R75 to R80), nibble
pairs (R81), scaling (R98), the two compares (R112 to R119), plane translation with shadows and held passes (R203, R211,
R212), and the meanings of PASS, PASS_SLOT and SPLIT_HALF. -/

namespace Sys2Proof.Machine

/-! ### The array -/

/-- The 256 enabled physical positions of a map (R33, R82): those of 0 to 259 that are not disabled. -/
def enabledOf (off : List Nat) : List Nat := ((List.range 260).filter fun i => !off.contains i).take 256

/-- The physical rows of a plane, by logical row. -/
def rowMap (s : State) (n : Nat) : List Nat := enabledOf (look (fun _ => []) s.lar.repair.rowsOff n)

/-- The physical columns of a plane, by logical column. -/
def colMap (s : State) (n : Nat) : List Nat := enabledOf (look (fun _ => []) s.lar.repair.colsOff n)

/-- The checksum weight k_i (R57). -/
def checkWeight (w : Nat → Nat → Int) (i : Nat) : Int := roundEven ((List.range 256).foldl (fun a j => a + w i j) 0) 16

/-- The nominal mapping of a weight (R54). -/
def nominal (w : Int) : Nat × Nat := if 0 ≤ w then (w.toNat, 0) else (0, (-w).toNat)

/-- The levels a pair is programmed to (R54, R57, R58): spares that the maps do not select stay erased. -/
def wantPair (w : Nat → Nat → Int) (rows cols : List Nat) (adj : List (Nat × Nat × Int)) (row col : Nat) : Nat × Nat :=
  let i := rows.idxOf row
  let j := cols.idxOf col
  if rows.length ≤ i then (0, 0)
  else if col = 260 then nominal (checkWeight w i)
  else if col = 261 then (4, 0)
  else if col = 262 then (0, 4)
  else if col = 263 then (8, 8)
  else if cols.length ≤ j then (0, 0)
  else nominal (w i j + (match adj.find? fun x => x.1 == row && x.2.1 == col with | some x => x.2.2 | none => 0))

/-- The test pattern of plane 64 (R59). -/
def patternWeight (i j : Nat) : Int := (((i + 3 * j) % 16 : Nat) : Int) - 8

/-- The level of a cell that the state does not list, by its key: 0, and on plane 64 its pattern's until the plane is erased
(R59). -/
def cellDefault (n : Nat) (q : Plane) (key : Nat) : Nat :=
  if n % 65 = 64 ∧ !q.blank then
    let p := wantPair patternWeight (List.range 256) (List.range 256) [] (key / 2 / 264) (key / 2 % 264)
    if key % 2 = 1 then p.2 else p.1
  else 0

/-- The level of a cell of plane `n`, by its key. -/
def cellLevel (n : Nat) (q : Plane) (key : Nat) : Nat := look (cellDefault n q) q.cells key

/-- The weight a cell pair realises (R53). -/
def cellWeight (n : Nat) (q : Plane) (row col : Nat) : Int :=
  (cellLevel n q (2 * (264 * row + col)) : Int) - cellLevel n q (2 * (264 * row + col) + 1)

/-- 64 times the column sum of R66: rows `rows` with codes `xs` at drive levels `ks`. -/
def columnSum (n : Nat) (q : Plane) (rows : List Nat) (xs : List Int) (ks : List Nat) (col : Nat) : Int :=
  (List.range 256).foldl (fun a i =>
    let x := xs.getD i 0
    if x = 0 then a else a + (ks.getD (i / 32) 64 : Int) * x * cellWeight n q (rows.getD i 0) col) 0

/-- 64 A of a pass (R74). -/
def drive64 (xs : List Int) (ks : List Nat) : Nat :=
  (List.range 256).foldl (fun a i => a + ks.getD (i / 32) 64 * (xs.getD i 0).natAbs) 0

/-- The stage that serves a column's converter (R452). -/
def stageOf (s : State) (e col : Nat) : Nat := bit (look (fun _ => false) s.lar.repair.stage (66 * e + col / 4))

/-- g_j in units of 2^-24 (R73): within 1 ± 0.12 on an engine whose calibration has been accepted. -/
def siliconGain (s : State) (e col : Nat) : Int :=
  let x := Config.columnGain e col (stageOf s e col)
  if (engine s e).prior then clampI x 14763951 18790481 else x

/-- o_j in units of 2^-24 quanta (R73): within ±8 on an engine whose calibration has been accepted. -/
def siliconOffset (s : State) (e col : Nat) : Int :=
  let x := Config.columnOffset e col (stageOf s e col)
  if (engine s e).prior then clampI x (-134217728) 134217728 else x

/-- The correction table in force for a pass of this beat: in the beat of a change the one before it (R92). -/
def tables (s : State) (g : Engine) : SMap W16 × SMap W16 :=
  match g.oldTab with
  | some x => if x.1 = s.fab.beat then x.2 else (g.oTab, g.gTab)
  | none => (g.oTab, g.gTab)

/-- The drift trim in force for a pass of this beat (R92). -/
def trimNow (s : State) (q : Plane) : W16 :=
  match q.oldDp with
  | some x => if x.1 = s.fab.beat then x.2 else q.dp
  | none => q.dp

/-- The correction of R91; false beside a value from a table entry or trim that is not finite (R93). -/
def correct (t : SMap W16 × SMap W16) (dp : W16) (col r : Nat) (code : Int) : W32 × Bool :=
  let o := look (fun _ => 0) t.1 col
  let k := look (fun _ => 0x3C00) t.2 col
  if finiteF f16 o.toNat ∧ finiteF f16 k.toNat ∧ finiteF f16 dp.toNat then
    let d := dyOf f16 dp.toNat
    (fmul (fmul (fsub (f32Of (dyInt code)) (h2f o)) (h2f k)) (f32Of { m := d.m, e := d.e + r }), true)
  else (Config.nonFinite 3 (BitVec.ofInt 32 code) (BitVec.ofNat 32 col), false)

/-- The error bound of R74 holds for a plane: it is READY, and its engine has been calibrated within the temperature band of its
last calibration (CAL_DELTA, R447). -/
def boundHolds (s : State) (n : Nat) : Bool :=
  let c := cluster s (engOf n / 17 / 18)
  (plane s n).st == 2 && (engine s (engOf n)).prior
  && decide ((c.pow.tP.toInt - c.cal.tLast.toInt).natAbs ≤ 16 * s.mon.calDelta.toNat)

/-- 640 times how far a corrected value lies from the ideal sum. -/
def off640 (v : W32) (s64 : Int) : Dy := dyMul (dyInt 640) (dyAbs (dyAdd (fv v) { m := -s64, e := -6 }))

/-- The code whose corrected value lies nearest the ideal sum. -/
def nearestCode (t : SMap W16 × SMap W16) (dp : W16) (col r : Nat) (s64 : Int) : Int :=
  let far (c : Int) : Dy := off640 (correct t dp col r c).1 s64
  (List.range 256).foldl (fun a i => let c : Int := (i : Int) - 128; if dyLt (far c) (far a) then c else a) (-128)

/-- The code of an analogue value in units of 2^-(48 + r) quanta (R73). -/
def codeOf (r : Nat) (u : Int) : Int :=
  let d : Int := 2 ^ (48 + r)
  clampI ((2 * u + d) / (2 * d)) (-128) 127

/-- sat_j of R73, from u in units of 2^-(48 + r) quanta. -/
def overrange (r : Nat) (u : Int) : Bool :=
  let d : Int := 2 ^ (48 + r)
  decide (255 * d ≤ 2 * u) || decide (2 * u < -257 * d)

/-- u of R73 in units of 2^-(48 + r) quanta, less the random part: the charge is the ideal sum with an open systematic error
(log entry 12). -/
def looseU (s : State) (n col r : Nat) (s64 d : Int) : Int :=
  siliconGain s (engOf n) col * (s64 * 2 ^ 18 + d) + siliconOffset s (engOf n) col * 2 ^ (24 + r)

/-- u of a column in a pass for which R74's bound is promised: a column in range has a charge that leaves its corrected value within
1.0 × Q + 0.1 × A of the ideal sum; one whose charge overranges saturates (log entry 12). -/
def boundU (s : State) (n col r : Nat) (xs : List Int) (ks : List Nat) (s64 d : Int) : Int :=
  let t := tables s (engine s (engOf n))
  let dp := trimNow s (plane s n)
  let a64 := drive64 xs ks
  let lim : Int := 2 ^ (24 + r) + (a64 : Int) * 2 ^ 18 / 10
  let u := looseU s n col r s64 (clampI d (-lim) lim)
  let v := correct t dp col r (codeOf r u)
  if overrange r u || !v.2 || dyLe (off640 v.1 s64) (dyInt (640 * 2 ^ r + a64)) then u else nearestCode t dp col r s64 * 2 ^ (48 + r)

/-- u of every column of a pass (R73, R74), from its range shift and 64 times its ideal sum. The bound is promised only with no column
saturated: in a pass with one, the others' charges are open. The random part is free in each pass (log entry 12). -/
def charges (s : State) (n : Nat) (xs : List Int) (ks : List Nat) (cols : List (Nat × Nat × Int)) : List Int :=
  let t := tables s (engine s (engOf n))
  let d (x : Nat × Nat × Int) : Int := Config.systematicError n x.2.1 x.1 xs ks t.1 t.2
  let noise (x : Nat × Nat × Int) : Int := Config.randomError s.fresh x.1 * 2 ^ (48 + x.2.1)
  let loose (x : Nat × Nat × Int) : Int := looseU s n x.1 x.2.1 x.2.2 (d x) + noise x
  let bound (x : Nat × Nat × Int) : Int := boundU s n x.1 x.2.1 xs ks x.2.2 (d x) + noise x
  if !boundHolds s n then cols.map loose
  else if cols.all fun x => !overrange x.2.1 (bound x) then cols.map bound
  else cols.map fun x => if overrange x.2.1 (bound x) then bound x else loose x

/-- What one pass gives: the corrected values of the 256 logical columns, the checksum column and REF_P, REF_N, REF_Z; its
saturated weight and checksum columns; whether a reference column saturated; and the first physical column with a value
that is not finite. -/
structure Shot where
  vals   : List W32
  sats   : Nat
  refSat : Bool
  bad    : Option Nat

/-- The physical columns of a plane in the order of a shot (Table 2.1). -/
def shotCols (s : State) (n : Nat) : List Nat := colMap s n ++ [260, 261, 262, 263]

/-- One pass of plane `n` (R66 to R73, R91): the three reference columns use r = 7 (R72). -/
def shot (s : State) (n r : Nat) (xs : List Int) (ks : List Nat) : Shot :=
  let e := engOf n
  let q := plane s n
  let rows := rowMap s n
  let cols := (shotCols s n).map fun col => (col, if 261 ≤ col then 7 else r, columnSum n q rows xs ks col)
  let out := (cols.zip (charges s n xs ks cols)).map fun x =>
    (x.1.1, overrange x.1.2.1 x.2, correct (tables s (engine s e)) (trimNow s q) x.1.1 x.1.2.1 (codeOf x.1.2.1 x.2))
  { vals := out.map (·.2.2.1),
    sats := (out.filter fun x => x.2.1 && x.1 < 261).length,
    refSat := out.any fun x => x.2.1 && 261 ≤ x.1,
    bad := (out.find? fun x => !x.2.2.2).map (·.1) }

/-! ### Inputs of a pass -/

/-- The row codes of a pass (R63, R81): the magnitude of the nibble that the record names. -/
def passCodes (s : State) (k v rb nib : Nat) : List Int :=
  (List.range 256).map fun i =>
    let c := look (fun _ => (false, 0)) (lsOf s k).codes ((256 * v + rb) * 256 + i)
    let m : Int := if nib = 2 then (c.2 / 16 : Nat) else (c.2 % 16 : Nat)
    if c.1 then -m else m

/-- The drive levels of a pass (R124). -/
def passDrive (s : State) (k v rb : Nat) : List Nat :=
  (List.range 8).map fun g => look (fun _ => 64) (lsOf s k).drive ((256 * v + rb) * 8 + g)

/-- 64 X of a pass (R94). -/
def input64 (xs : List Int) (ks : List Nat) : Int :=
  (List.range 256).foldl (fun a i => a + (ks.getD (i / 32) 64 : Int) * xs.getD i 0) 0

/-- 64 times e_sum of R113: residuals by logical row (R112). -/
def resid64 (q : Plane) (xs : List Int) (ks : List Nat) : Int :=
  (List.range 256).foldl (fun a i => a + (ks.getD (i / 32) 64 : Int) * xs.getD i 0 * (look (fun _ => 0) q.resid i).toInt) 0

/-- A number of 64ths as FP32. -/
def from64 (x : Int) : W32 := f32Of { m := x, e := -6 }

/-! ### Drift sums (R94) -/

/-- A qualifying pass adds its terms, each sum rounded once. -/
def addDrift (n : Nat) (vals : List W32) (x64 : Int) (a64 : Nat) (s : State) : State :=
  let v (i : Nat) : W32 := vals.getD i 0
  modPlane n (fun q => { q with
    n := q.n + 1, m := fadd q.m (fsub (v 257) (v 258)), x := fadd q.x (from64 (8 * x64)), z := fadd q.z (v 259),
    a := fadd q.a (from64 a64) }) s

/-! ### The compares (R113) -/

/-- What the compares judge: d_cs and d_in, and which missed. -/
structure Verdict where
  dcs   : W32
  din   : W32
  csMiss : Bool
  inMiss : Bool

/-- The compares of R113: sum_w rounds at each step and e_sum once, and every other line is exact; the differences go into
records rounded to FP32. A value, difference or band that is not finite is a miss. -/
def compares (g : Engine) (q : Plane) (r : Nat) (vals : List W32) (xs : List Int) (ks : List Nat) : Verdict :=
  let v (i : Nat) : Dy := fv (vals.getD i 0)
  let sumW := (fsumC (vals.take 256)).1
  let a : Dy := { m := drive64 xs ks, e := -6 }
  let h (x : W16) : Dy := dyOf f16 x.toNat
  let dcs := dyAdd (dyAdd (fv sumW) (dyNeg (dyMul (dyInt 16) (v 256)))) (dyNeg (fv (from64 (resid64 q xs ks))))
  let din := dyAdd (dyAdd (v 257) (dyNeg (v 258))) { m := -8 * input64 xs ks, e := -6 }
  let tcs := dyAdd (dyMul (h g.cCs) (dyInt (16 * 2 ^ r))) (dyMul (h g.cA) a)
  let tin := dyAdd (dyMul (h g.cIn) (dyInt 128)) (dyMul (h g.cB) a)
  let fin (c d : W16) : Bool := finiteF f16 c.toNat && finiteF f16 d.toNat
  { dcs := f32Of dcs, din := f32Of din,
    csMiss := !((vals.take 257).all fin32 && fin32 sumW && fin g.cCs g.cA) || !dyLe (dyAbs dcs) tcs,
    inMiss := !(fin32 (vals.getD 257 0) && fin32 (vals.getD 258 0) && fin g.cIn g.cB) || !dyLe (dyAbs din) tin }

/-! ### The end of a pass -/

/-- Fields of a queued pass. -/
def QPass.x (p : QPass) : Nat := p.bits.toNat
/-- The record of a queued pass as its core issued it. -/
def QPass.iss (p : QPass) (k b i : Nat) : Iss :=
  { k := k, b := b, i := i, x := p.x, idx := p.idx.toNat, wide := p.wide }
/-- The nibble code of a pass: 0 narrow, 1 low, 2 high (Table 6.6). -/
def passNib (x : Nat) : Nat := fld (rFlags x) 1 2

/-- The contribution of a pass to its column block under its order key (R98, R159, R309): nothing but +0.0 from a skipped pass. -/
def contribute (c : Iss) (vals : Option (List W32)) (s : State) : State :=
  let p := c.plan s
  let l := rLayer c.x
  let v := rImm c.x
  let rb := rRow c.x
  let sc := look (fun _ => 0) (lsOf s c.k).passS (256 * v + rb)
  let n := lyN p l
  let ptr := lyr p l 36 4
  let q := core s c.k
  let off := ringOffset p l (entry s c.b).planPart.toNat
  let key := (((off * 128 + (cluster s (clOf c.k)).logical.toNat) * 32 + q.logical.toNat) * 16 + rEngine c.x) * 256 + rb
  let ws := (List.range 256).map fun j =>
    let o := 256 * rCol c.x + j
    match vals with
    | none => (0 : W32)
    | some vs =>
      if n ≤ o then 0
      else fmul (fmul (vs.getD j 0) sc) (if ptr = absent then 0x3F800000 else h2f (BitVec.ofNat 16 (param p ptr (2 * (rb * n + o)) 2)))
  modLs c.k (fun q => { q with contrib := q.contrib ++
    [{ vec := v, col := rCol c.x, key := key, comp := bitOf (rFlags c.x) 3, vals := ws }] }) s

/-- A pass's values go on: a low nibble waits for its high pass, a high one joins it (R81); the values are none where the pass
was skipped. -/
def deliver (c : Iss) (vals : Option (List W32)) (s : State) : State :=
  let same (y : Nibble) : Bool :=
    y.engine == rEngine c.x && y.plane == rPlane c.x && y.rb == rRow c.x && y.col == rCol c.x && y.vec == rImm c.x
  if passNib c.x = 1 then
    modLs c.k (fun q => { q with nibbles := q.nibbles.filter (fun y => !same y) ++
      [{ engine := rEngine c.x, plane := rPlane c.x, rb := rRow c.x, col := rCol c.x, vec := rImm c.x, vals := (vals.getD []) }] }) s
  else if passNib c.x = 2 then
    let low := match (lsOf s c.k).nibbles.find? same with | some y => y.vals | none => []
    let s1 := modLs c.k (fun q => { q with nibbles := q.nibbles.filter fun y => !same y }) s
    match vals with
    | none => contribute c (if low.isEmpty then none else some low) s1
    | some hs => contribute c (some ((List.range 256).map fun j => fadd (low.getD j 0) (fmul 0x41800000 (hs.getD j 0)))) s1
  else contribute c vals s

/-- A checksum miss of a pass (R93, R113, R131): the layer step, the sequence, and a second miss in a row (R119). -/
def passMiss (c : Iss) (n : Nat) (v : Verdict) (s : State) : State :=
  let s1 := implicate c.k (vecSlot c) (addMiss c.k s)
  let again := (lsOf s c.k).missPrev.contains n && !(lsOf s c.k).missNow.contains n
  let s2 := modLs c.k (fun q => { q with missNow := (q.missNow.filter (· != n)) ++ [n] }) s1
  if again then
    katDue c.k (katCount c.k (raise { recErr s2 c 0x20 0 v.dcs.toNat v.din.toNat (rRow c.x) with
      engine := BitVec.ofNat 5 (engOf n % 17), plane := BitVec.ofNat 7 (n % 65) } s2))
  else s2

/-- A pass that ran ends (R77, R93, R94, R113): saturations counted, compares judged, drift sums gathered, and its values
delivered. -/
def finishPass (c : Iss) (n : Nat) (h : Shot) (xs : List Int) (ks : List Nat) (s : State) : State :=
  let p := clOf c.k
  let v := compares (engine s (engOf n)) (plane s n) (rShift c.x) h.vals xs ks
  let badBlk := (lsOf s c.k).badBlk.contains (rImm c.x, rRow c.x)
  let cs := v.csMiss || h.bad.isSome || badBlk
  let inn := v.inMiss && !h.refSat
  let s1 := match h.bad with
    | none => s
    | some col => raise { recErr s c 0x21 0 col 0 0 with engine := BitVec.ofNat 5 (engOf n % 17) } s
  let s2 := if h.sats = 0 then s1 else
    implicate c.k (vecSlot c) (bump p 0x314 h.sats (modLs c.k (fun q => { q with sats := q.sats + h.sats }) s1))
  let s3 := when inn (bump p 0x204 1) (when cs (bump p 0x200 1) s2)
  let s4 := if cs ∨ inn then passMiss c n v s3 else s3
  let a64 := drive64 xs ks
  let s5 := if h.sats = 0 ∧ !h.refSat ∧ 16384 ≤ a64 then addDrift n h.vals (input64 xs ks) a64 s4 else s4
  deliver c (some h.vals) s5

/-- A pass refused at its slot (R62): the plane is named with its owner tag, and the tenant's step ends. -/
def refusePass (c : Iss) (n : Nat) (s : State) : State :=
  let o := (plane s n).owner.toNat
  endStep c.b (raise { recErr s c 0x10 1 (o % 2 ^ 32) (o / 2 ^ 32) 0 with
    engine := BitVec.ofNat 5 (engOf n % 17), plane := BitVec.ofNat 7 (n % 65) } s)

/-- The owner and state check of R62 at phase 0 of a slot. -/
def ownerOk (s : State) (b n : Nat) : Bool :=
  let q := plane s n
  q.owner == (entry s b).tenant && q.st != 0 && q.st != 1 && q.st != 5

/-- A plane whose passes wait or run on a shadow: STALE, REFRESHING, or waiting for its copy on a spare (R85, R211). -/
def planeWaits (q : Plane) : Bool := q.st == 3 || q.st == 4 || q.subst

/-! ### PASS -/

/-- A plane's master copy is present, has not failed a check before, and agrees with its CRC (R202). -/
def masterGood (s : State) (n : Nat) : Bool :=
  match look (fun _ => none) s.hw.masters n with
  | none => false
  | some m => !m.bad && crc32 m.data == m.crc

/-- A plane's master copy has failed its check: what the plane needs waits for a bind of its plan image (R202). -/
def masterBad (s : State) (n : Nat) : Bool :=
  match look (fun _ => none) s.hw.masters n with
  | none => false
  | some m => m.bad

/-- The plane a pass runs on (R203, R211): its own, or a READY shadow of a plane that waits. -/
def passPlane (s : State) (b : Nat) (u : PlaneUse) : Option (Nat × Bool) :=
  if !planeWaits (plane s u.plane) then some (u.plane, false)
  else ((brun s b).planes.find? fun w => w.shadow && !u.shadow && w.pcore == u.pcore && w.block == u.block
        && (plane s w.plane).st == 2 && !planeWaits (plane s w.plane)).map fun w => (w.plane, true)

/-- The plane map's entry for a PASS record (R203). -/
def passUse (s : State) (c : Iss) : Option PlaneUse :=
  (brun s c.b).planes.find? fun u => !u.shadow && u.pcore == c.i && u.engine == rEngine c.x && u.tplane == rPlane c.x

/-- The engine whose queue a PASS enters. -/
def passEngine (s : State) (c : Iss) : Option Nat :=
  (passUse s c).map fun u => match passPlane s c.b u with | some n => engOf n.1 | none => engOf u.plane

/-- Each engine's pass queue holds up to 4 PASS records (R187). -/
def passReady (c : Iss) (s : State) : Bool :=
  match passEngine s c with
  | none => true
  | some e => decide ((engine s e).queue.length < 4)

/-- A pass held for a stretch (R212): the plane is noted, and the core asks once for 24,415 beats. -/
def holdPass (k n : Nat) (s : State) : State :=
  let s1 := if s.hw.held.contains n then s else { s with hw := { s.hw with held := s.hw.held ++ [n] } }
  if s1.fab.own.any fun x => x.core == k && x.len == 24415 then s1
  else bump (clOf k) 0x61C 1 (requestStretch k 24415 s1)

/-- The pass slot that a PASS names, counted from beat 0 (R67, R186): the SLOT-th to start at or after the edge of its beat. -/
def namedSlot (s : State) (c : Iss) : Nat := ceilDiv (64 * beatOf s c) 5 + rSlot c.x

/-- PASS (R66, R188, R203, R211, R212): the record enters its engine's queue with the plane it was translated to. -/
def queuePass (c : Iss) (s : State) : State :=
  let at_ := namedSlot s c
  match passUse s c with
  | none => endStep c.b s
  | some u =>
    let put_ (n : Nat) (sh : Bool) (s : State) : State :=
      modEngine (engOf n) (fun g => { g with queue := g.queue ++
        [{ bits := BitVec.ofNat 256 c.x, idx := BitVec.ofNat 14 c.idx, wide := c.wide, plane := n, shadow := sh, prim := u.plane,
           at_ := at_ }] }) s
    match passPlane s c.b u with
    | some n => put_ n.1 n.2 s
    | none => if masterGood s u.plane then put_ u.plane false (holdPass c.k u.plane s) else refusePass c u.plane s

/-- PASS. -/
def execPass (k : Fin 2016) (r : RecRead) (s : State) : Host.Outcome State Fault Refusal :=
  .next (issueTo 0x11 true passReady queuePass k r s)

/-! ### PASS_SLOT and SPLIT_HALF -/

/-- A skipped pass (R79): counted, and +0.0 in its place; a block with an input that is not finite is a miss all the same
(R131). No compare is made for it, so a record of its second miss (R119) carries d_cs and d_in 0 (DESIGN CHOICE, log
entry 119). -/
def skipPass (c : Iss) (n : Nat) (s : State) : State :=
  let s1 := bump (clOf c.k) 0x198 1 s
  let s2 := if (lsOf s c.k).badBlk.contains (rImm c.x, rRow c.x) then
      passMiss c n { dcs := 0, din := 0, csMiss := true, inMiss := false } (bump (clOf c.k) 0x200 1 s1)
    else s1
  deliver c none s2

/-- The row codes of a queued pass: zero for a vector that no token of the step uses (R147, R270). -/
def codesFor (s : State) (c : Iss) : List Int :=
  if vecUsed s c (rImm c.x) then passCodes s c.k (rImm c.x) (rRow c.x) (passNib c.x) else List.replicate 256 0

/-- A pass or half that ran: counted in its cluster (R89), on a shadow plane also among shadow passes (R211, R225; each half counts
as a pass, as in R89: DEDUCED, log entry 120), and its beat kept (R196). -/
def ranPass (e k : Nat) (shadow : Bool) (s : State) : State :=
  when shadow (bump (clOf k) 0x620 1) (bump (clOf k) 0x190 1 (modEngine e (fun g => { g with passBeat := some s.fab.beat }) s))

/-- Grid slot `slot` of the present group of 64, counted from beat 0, if it lies in the present beat (R67). -/
def slotNow (s : State) (slot : Nat) : Option Nat :=
  let b := s.fab.beat.toNat
  if 5 * slot / 64 = b % 5 then some (64 * (b / 5) + slot) else none

/-- An engine's slot that a tenant's work may take: of this beat, later than the last one taken, and in no open maintenance window,
in which the engine belongs to firmware (R75, R188, R189). -/
def freeSlot (s : State) (e slot : Nat) : Option Nat :=
  match slotNow s slot with
  | none => none
  | some g =>
    if (core s (coreOf e)).window.isSome ∨ ((engine s e).lastSlot.any fun l => decide (g ≤ l)) = true then none
    else some g

/-- The slot is taken. -/
def useSlot (e g : Nat) (s : State) : State := modEngine e (fun q => { q with lastSlot := some g }) s

/-- The pass at the head of an engine's queue runs in its slot (R68 to R80). -/
def runPass (c : Iss) (q : QPass) (e : Nat) (s : State) : State :=
  let drop := modEngine e (fun g => { g with queue := g.queue.drop 1 })
  let n := q.plane
  if !q.shadow ∧ planeWaits (plane s n) ∧ (plane s n).owner = (entry s c.b).tenant then s
  else if !ownerOk s c.b n then refusePass c n (drop s)
  else
    let xs := codesFor s c
    let ks := passDrive s c.k (rImm c.x) (rRow c.x)
    if xs.all (· == 0) then skipPass c n (drop s)
    else
      let h := shot s n (rShift c.x) xs ks
      let s1 := ranPass e c.k q.shadow (tickFresh (drop s))
      if (h.sats ≠ 0 ∨ h.refSat) ∧ bitOf (rFlags c.x) 0 then
        bump (clOf c.k) 0x19C 1
          (modEngine e (fun g => { g with split := some { pass := q, half := 0, vals := [], sats := 0, refSat := false, bad := false } }) s1)
      else finishPass c n h xs ks s1

/-- The tenant and plan core behind an engine's work, with the engine's core. -/
def engineHolder (s : State) (e : Nat) : Option (Nat × Nat) :=
  match boundOf s (coreOf e) with
  | none => none
  | some b => (planIndex s b (coreOf e)).map fun i => (b, i)

/-- PASS_SLOT (R68, R188): the engine's next queued pass runs where its named slot has come; the halves of a split in progress have
the slots first (R75). -/
def execPassSlot (x : EngineSlot) (s : State) : Host.Outcome State Fault Refusal :=
  .next (
    let e := x.eng
    let g := engine s e
    match engineHolder s e, g.split, g.queue, freeSlot s e x.slot with
    | some h, none, q :: _, some n => if q.at_ ≤ n then useSlot e n (runPass (q.iss (coreOf e) h.1 h.2) q e s) else s
    | _, _, _, _ => s)

/-- One half of a split (R75, R76, R80): rows of the other half are idle; a half with zero codes gives +0.0. -/
def runHalf (c : Iss) (sp : Split) (e : Nat) (s : State) : State :=
  let n := sp.pass.plane
  if !ownerOk s c.b n then refusePass c n (modEngine e (fun g => { g with split := none }) s)
  else
    let all := codesFor s c
    let ks := passDrive s c.k (rImm c.x) (rRow c.x)
    let xs := if sp.half = 0 then all.take 128 ++ List.replicate 128 0 else List.replicate 128 0 ++ all.drop 128
    let skip := xs.all (· == 0)
    let h := if skip then { vals := List.replicate 260 0, sats := 0, refSat := false, bad := none }
             else shot s n (rShift c.x) xs ks
    let s1 := if skip then bump (clOf c.k) 0x198 1 s else ranPass e c.k sp.pass.shadow (tickFresh s)
    if sp.half = 0 then
      modEngine e (fun g => { g with split := some { sp with
        half := 1, vals := h.vals, sats := h.sats, refSat := h.refSat, bad := h.bad.isSome } }) s1
    else
      let both : Shot := {
        vals := (sp.vals.zip h.vals).map fun x => fadd x.1 x.2, sats := sp.sats + h.sats, refSat := sp.refSat || h.refSat,
        bad := h.bad.orElse fun _ => if sp.bad then (shotCols s n).find? fun col =>
          !(correct (tables s (engine s (engOf n))) (trimNow s (plane s n)) col 0 0).2 else none }
      finishPass c n both all ks (modEngine e (fun g => { g with split := none }) s1)

/-- SPLIT_HALF (R75): the next half of the engine's split runs. -/
def execSplitHalf (x : EngineSlot) (s : State) : Host.Outcome State Fault Refusal :=
  .next (
    let e := x.eng
    match engineHolder s e, (engine s e).split, freeSlot s e x.slot with
    | some h, some sp, some n => useSlot e n (runHalf (sp.pass.iss (coreOf e) h.1 h.2) sp e s)
    | _, _, _ => s)

end Sys2Proof.Machine
end

