-- ==== Sys2Proof/Machine/LayerStep.lean ====
section
/-! DEFINITION. A layer step: the quantiser (R123 to R133), the sieve (R105 to R111), the running-sum chain (R159 to R166), its
tail (R99), the status and what follows it (R117, R139 to R150), and the meanings of QUANT, SIEVE, CHAIN, CHAIN_ARRIVAL, TAIL
and LAYER_STEP_STATUS. -/

namespace Sys2Proof.Machine

/-! ### Carries and scale states (R128 to R133) -/

/-- What an earlier token of a slot staged in this layer step for a key, latest first (R129). -/
def staged {α : Type} (m : SMap (Option α)) (slot tok key : Nat) : Option α :=
  (List.range tok).reverse.findSome? fun t => look (fun _ => none) m ((64 * slot + t) * 2 ^ 32 + key)

/-- The key of a sequence's word for a layer. -/
def seqKey (rec l i : Nat) : Nat := rec * 2 ^ 64 + l * 2 ^ 32 + i

/-- A positive FP32 magnitude rounded up to FP16 (R125). -/
def upHalf (x : W32) : W16 := let v := magVal f32 x.toNat; f16Up v.1 1 v.2

/-- The start scale h⁰ of a channel group; open where the layer names none (R178, log entry 32). -/
def startScale (s : State) (p : List Byte) (l g : Nat) : W16 :=
  if lyr p l 20 4 = absent then BitVec.ofNat 16 (Config.freeNat s.fresh) else BitVec.ofNat 16 (param p (lyr p l 20 4) (2 * g) 2)

/-- The carry into a channel (R129, R132). -/
def carryIn (s : State) (k rec slot tok l c : Nat) : W16 :=
  (staged (lsOf s k).carry slot tok c).getD (look (fun _ => 0) s.srv.carry (seqKey rec l c))

/-- The scale state of a channel group (R128, R129). -/
def scaleIn (s : State) (p : List Byte) (k rec slot tok l g : Nat) : W16 :=
  match staged (lsOf s k).maxima slot tok g with
  | some m => upHalf m
  | none => (look (fun _ => none) s.srv.scale (seqKey rec l g)).getD (startScale s p l g)

/-! ### The quantiser (R125) -/

/-- fp16(h · η / dp), at least σ_min. -/
def predicted (h eta floor : Nat) (dp : Nat) : Nat :=
  let a := magVal f16 h
  let b := magVal f16 eta
  max (roundMag f16 false (a.1 * b.1) dp (a.2 + b.2)).1 floor

/-- fp16_up(mx / dr). -/
def recomputed (mx : W32) (dr : Nat) : Nat := let v := magVal f32 mx.toNat; (f16Up v.1 dr v.2).toNat

/-- k[g] of R124: ceil(64 σ / s) within 1 to 64, for s above 0. -/
def driveOf (sig s : Nat) : Nat :=
  let a := magVal f16 sig
  let b := magVal f16 s
  let t := scaled (64 * a.1) b.1 (a.2 - b.2)
  min 64 (max 1 (ceilDiv t.1 t.2))

/-- The integer nearest a magnitude, ties to even. -/
def nearInt (x : W32) : Nat :=
  let v := magVal f32 x.toNat
  if 0 ≤ v.2 then v.1 * 2 ^ v.2.toNat else (roundEven v.1 (2 ^ (-v.2).toNat)).toNat

/-- One channel at the quantiser: its input, whether it is named, its group is zero or its value is not finite (R131), its
carry in, and a1. -/
structure QChan where
  ch    : Nat
  named : Bool
  zero  : Bool
  bad   : Bool
  cin   : W16
  a1    : W32

/-- What the quantiser makes of a channel: its code, whether it was clamped, and its carry out where it has a new one. -/
structure QOut where
  neg   : Bool
  mag   : Nat
  clamp : Bool
  cout  : Option W16

/-- A group's channels at the quantiser (R125). -/
def quantGroup (inputs : Nat → W32) (named : Nat → Bool) (cin : Nat → W16) (carry : Bool) (g : Nat) : List QChan :=
  let cs := (List.range 32).map (32 * g + ·)
  let zero := cs.all fun c => named c || zeroF f32 (inputs c).toNat
  cs.map fun c =>
    let a1 := if named c ∨ zero then 0 else if carry then fadd (inputs c) (h2f (cin c)) else inputs c
    { ch := c, named := named c, zero := zero, bad := !fin32 (inputs c) || !fin32 a1, cin := cin c, a1 := a1 }

/-- mx[g] (R125, R126). -/
def groupMax (cs : List QChan) : W32 := cs.foldl (fun m c => if c.bad then m else fmax m (fabs c.a1)) 0

/-- One channel coded against its group's effective step e (R125). -/
def quantChan (lim : Nat) (carry : Bool) (e : Dy) (c : QChan) : QOut :=
  if c.bad then { neg := false, mag := 0, clamp := false, cout := none }
  else
    let q := fdiv c.a1 (f32Of e)
    let m0 := nearInt q
    let m := if c.named then 0 else min m0 lim
    let neg := negOf f32 q.toNat && !zeroF f32 q.toNat
    let sm : Int := if neg then -(m : Int) else m
    let r := BitVec.ofNat 32
      (roundDy f32 (negOf f32 c.a1.toNat && m == 0) (dyAdd (fv c.a1) (dyNeg { m := sm * e.m, e := e.e }))).1
    let half : Dy := { m := e.m, e := e.e - 1 }
    let lim1 := if dyLt half (fv r) then f32Of half else if dyLt (fv r) (dyNeg half) then f32Of (dyNeg half) else r
    { neg := neg, mag := m, clamp := !c.named && decide (lim < m0), cout := if carry ∧ !c.named ∧ !c.zero then some (f2h lim1) else none }

/-- A row block as the quantiser leaves it. -/
structure QBlock where
  s      : Nat
  drive  : List Nat
  outs   : List (Nat × QOut)
  maxima : List (Nat × W32)
  bad    : Bool

/-- R125 over the channel groups `gs` of a row block, with the predicted or the recomputed scale of each group. -/
def quantBlock (groups : List (Nat × List QChan)) (sigOf : Nat → W32 → Nat) (lim : Nat) (carry : Bool) : QBlock :=
  let gs := groups.map fun x => (x.1, x.2, groupMax x.2)
  let sigs := gs.map fun x => sigOf x.1 x.2.2
  let s := sigs.foldl max 0
  let ks := sigs.map fun g => if s = 0 then 64 else driveOf g s
  let v := magVal f16 s
  let outs := (gs.zip ks).flatMap fun x => x.1.2.1.map fun c =>
    (c.ch, if s = 0 then { neg := false, mag := 0, clamp := false, cout := none }
           else quantChan lim carry { m := v.1 * x.2, e := v.2 - 6 } c)
  { s := s, drive := ks, outs := outs,
    maxima := (gs.filter fun x => !(x.2.1.all (·.zero))).map fun x => (x.1, x.2.2),
    bad := gs.any fun x => x.2.1.any (·.bad) }

/-- The codes, scale and levels of a row block in the row-code buffer. -/
def putBlock (k v rb : Nat) (z : QBlock) (s : State) : State :=
  let n := 256 * v + rb
  modLs k (fun l => { l with
    codes := z.outs.foldl (fun m x => put (fun _ => (false, 0)) m (n * 256 + x.1 % 256) (x.2.neg, x.2.mag)) l.codes,
    passS := put (fun _ => 0) l.passS n (h2f (BitVec.ofNat 16 z.s)),
    drive := ((List.range z.drive.length).zip z.drive).foldl (fun m x => put (fun _ => 64) m (n * 8 + x.1) x.2) l.drive,
    badBlk := l.badBlk.filter (· != (v, rb)) ++ (if z.bad then [(v, rb)] else []) }) s

/-- QUANT of a vector that a token uses (R106, R109, R125 to R131). OPND_A names the first channel of the whole vector, so that row
block b is read from its channel 256 b on: Table 6.6 does not say which (DESIGN CHOICE, log entry 156). -/
def quantVector (c : Iss) (slot rec : Nat) (s : State) : State :=
  let p := c.plan s
  let l := rLayer c.x
  let rb := rRow c.x
  let v := rImm c.x
  let tok := vecToken s c.b v
  let wide := bitOf (rFlags c.x) 0
  let w := lyW p l
  let first := 256 * rb
  let n := min 256 (w - first)
  let rd := readWordsAt c.k c.b (rOpA c.x) first n s
  let named := lyNamed p l
  let carry := lyCarry p l
  let groups := (List.range (n / 32)).map fun g =>
    (8 * rb + g, quantGroup (fun i => rd.1.getD (i - first) 0) named.contains (carryIn s c.k rec slot tok l) carry (8 * rb + g))
  let first0 := (lsOf s c.k).run = 0
  let sigOf (g : Nat) (mx : W32) : Nat :=
    if first0 then predicted (scaleIn s p c.k rec slot tok l g).toNat (lyr p l 8 2) (lyr p l 10 2) (if wide then 240 else 15)
    else recomputed mx (if wide then 255 else 15)
  let z := quantBlock groups sigOf (if wide then 255 else 15) carry
  let clamps := (z.outs.filter (·.2.clamp)).length
  let key (i : Nat) : Nat := (64 * slot + tok) * 2 ^ 32 + i
  let s1 := putBlock c.k v rb z rd.2
  let s2 := modLs c.k (fun q => { q with
    clamps := q.clamps + clamps
    carry := z.outs.foldl (fun m x => match x.2.cout with | some y => put (fun _ => none) m (key x.1) (some y) | none => m) q.carry,
    maxima := z.maxima.foldl (fun m x => put (fun _ => none) m (key x.1) (some x.2)) q.maxima }) s1
  let s3 := bump (clOf c.k) 0x210 (named.filter fun i => i / 256 == rb).length s2
  let s4 := if clamps = 0 then s3 else implicate c.k (some slot) (bump (clOf c.k) 0x208 clamps s3)
  if z.bad then raise (recErr s4 c 0x22 0 rb v 0) s4 else s4

/-- Sieve overflow above threshold is judged when the last vector of a layer step on a core has been quantised (R110): no QUANT of the
layer step is left to issue. -/
def judgeClamps (c : Iss) (s : State) : State :=
  let q := lsOf s c.k
  when (q.opened && lyr (c.plan s) q.layer 14 1 < q.clamps && (stepLeft s c.k c.b c.i).all fun y => rOp y.1.x != 0x10)
    (bump (clOf c.k) 0x20C 1) s

/-- A row block quantised (R125): an unused vector has zero codes (R270). -/
def quantBlockOf (c : Iss) (s : State) : State :=
  match (if vecUsed s c (rImm c.x) then vecSlot c else none) with
  | none => putBlock c.k (rImm c.x) (rRow c.x)
      { s := 0, drive := List.replicate 8 64,
        outs := (List.range 256).map fun i => (i, { neg := false, mag := 0, clamp := false, cout := none }),
        maxima := [], bad := false } s
  | some i =>
    match slotRec s c.b i with
    | none => s
    | some rec => quantVector c i rec s

/-- QUANT (R125, R110). -/
def quant (c : Iss) (s : State) : State := judgeClamps c (quantBlockOf c s)

/-- QUANT. -/
def execQuant (k : Fin 2016) (r : RecRead) (s : State) : Host.Outcome State Fault Refusal := .next (issue 0x10 quant k r s)

/-! ### The sieve (R106, R107) -/

/-- One outlier weight times its row scale, exact in FP32; open for an encoding that is not finite. -/
def outlierWeight (data : List Byte) (len n i o : Nat) : W32 :=
  let w := data.getD (2 * len + i * n + o) 0
  let rs := BitVec.ofNat 16 (leAt data (2 * i) 2)
  if finiteF e4m3 w.toNat ∧ finiteF f16 rs.toNat then fmul (b2f e4m3 w) (h2f rs)
  else Config.nonFinite 4 (BitVec.ofNat 32 w.toNat) (BitVec.ofNat 32 rs.toNat)

/-- The sieve total of one output, with its clamps. -/
def sieveTotal (data : List Byte) (n o : Nat) (as : List W32) : W32 × Bool :=
  ((List.range as.length).zip as).foldl (fun a x =>
    let m := fmulC x.2 (outlierWeight data as.length n x.1 o)
    let t := faddC a.1 m.1
    (t.1, a.2 || m.2 || t.2)) (0, false)

/-- SIEVE (R106, R107): the sieve totals of a column block; a row set of another owner ends the step as R62 does. An output that clamps
here counts once, and once more where its tail clamps (DESIGN CHOICE, log entry 143). -/
def sieve (c : Iss) (s : State) : State :=
  let p := c.plan s
  let l := rLayer c.x
  let named := lyNamed p l
  if named.isEmpty ∨ !vecUsed s c (rImm c.x) then s
  else
    match look (fun _ => none) s.hw.outliers (c.b * 65536 + l) with
    | none => endStep c.b (raise (recErr s c 0x11 1 0 0 0) s)
    | some rows =>
      if rows.owner ≠ (entry s c.b).tenant then
        endStep c.b (raise (recErr s c 0x11 1 (rows.owner.toNat % 2 ^ 32) (rows.owner.toNat / 2 ^ 32) 0) s)
      else
        let rd := readWords c.k c.b (rOpA c.x) (lyW p l) s
        let as := named.map fun i => rd.1.getD i 0
        let n := lyN p l
        let outs := ((List.range 256).map (256 * rCol c.x + ·)).filter (· < n)
        let ts := outs.map fun o => (o, sieveTotal rows.data n o as)
        attClamped c.k (ts.filter (·.2.2)).length
          (modLs c.k (fun q => { q with sieve := ts.foldl (fun m x => put (fun _ => 0) m (rImm c.x * 2 ^ 20 + x.1) x.2.1) q.sieve }) rd.2)

/-- SIEVE. -/
def execSieve (k : Fin 2016) (r : RecRead) (s : State) : Host.Outcome State Fault Refusal := .next (issue 0x20 sieve k r s)

/-! ### The chain (R159 to R165) -/

/-- One addition of a contribution to a running sum (R160, R165): s, c, and whether a line clamped. -/
def chainAdd (comp : Bool) (a : W32 × W32 × Bool) (p : W32) : W32 × W32 × Bool :=
  let t := faddC a.1 p
  if !comp then (t.1, a.2.1, a.2.2 || t.2)
  else
    let bb := faddC t.1 (fneg a.1)
    let tb := faddC t.1 (fneg bb.1)
    let x := faddC a.1 (fneg tb.1)
    let y := faddC p (fneg bb.1)
    let e := faddC x.1 y.1
    let c := faddC a.2.1 e.1
    (t.1, c.1, a.2.2 || t.2 || bb.2 || tb.2 || x.2 || y.2 || e.2 || c.2)

/-- A contribution placed in ascending order key (Table 5.2). -/
def insContrib (x : Contrib) : List Contrib → List Contrib
  | [] => [x]
  | y :: u => if x.key ≤ y.key then x :: y :: u else y :: insContrib x u

/-- Contributions in ascending order key (R159). -/
def orderContrib : List Contrib → List Contrib
  | [] => []
  | x :: t => insContrib x (orderContrib t)

/-- The running sums of a column block and vector on a core: those received, then the core's own contributions (R160, R165). -/
def runSum (ls : LayerRun) (vec col : Nat) (comp : Bool) : RunSum :=
  let own := orderContrib (ls.contrib.filter fun x => x.vec == vec && x.col == col)
  let old := ls.sums.find? fun x => x.vec == vec && x.col == col
  let start (j : Nat) : W32 × W32 × Bool :=
    match old with | some r => (r.s.getD j 0, r.c.getD j 0, r.clamp.getD j false) | none => (0, 0, false)
  let out := (List.range 256).map fun j => own.foldl (fun a x => chainAdd comp a (x.vals.getD j 0)) (start j)
  { vec := vec, col := col, comp := comp, s := out.map (·.1), c := out.map (·.2.1), clamp := out.map (·.2.2) }

/-- The contributions and received sums of a column block and vector, used up. -/
def dropSum (k vec col : Nat) (s : State) : State :=
  modLs k (fun q => { q with contrib := q.contrib.filter (fun x => !(x.vec == vec && x.col == col)),
                             sums := q.sums.filter fun x => !(x.vec == vec && x.col == col) }) s

/-- The peer operand that names plan core `i` of this part. -/
def namesCore (s : State) (b o i : Nat) : Bool :=
  opSpace o == 7 && opOff o % 512 == (entry s b).planPart.toNat
  && (let w := (brun s b).coreMap.getD i 0
      fld (opOff o) 9 7 == w % 128 && fld (opOff o) 16 4 == w / 128 % 16)

/-- A core of this part sends this column block's running sums to plan core `i` (R159). -/
def fedInPart (s : State) (c : Iss) : Bool :=
  let p := c.plan s
  (List.range (plCores p)).any fun j => j != c.i && (recsOf p j false).any fun y =>
    rOp y == 0x30 && rLayer y == rLayer c.x && rCol y == rCol c.x && rImm y == rImm c.x && namesCore s c.b (rOpB y) c.i

/-- Another part sends this column block's running sums to plan core `i` (R161, log entry 128). -/
def fedFromPart (s : State) (c : Iss) : Bool :=
  let p := c.plan s
  let o := (entry s c.b).planPart.toNat
  decide (1 < plParts p ∧ ringOffset p (rLayer c.x) o ≠ 0) && !fedInPart s c
  && (Config.otherPartChain (plId p) o c.i (rLayer c.x) (rCol c.x) (rImm c.x)).isSome

/-- The core has a pass of this column block and vector still to run, or a low nibble still waiting for its high one. -/
def ownTermsLeft (s : State) (c : Iss) : Bool :=
  let mine (x : Nat) : Bool := rLayer x == rLayer c.x && rCol x == rCol c.x && rImm x == rImm c.x
  ((List.range 17).any fun e =>
    let g := engine s (17 * c.k + e)
    g.queue.any (fun q => mine q.x) || g.split.any fun q => mine q.pass.x)
  || (lsOf s c.k).nibbles.any fun y => y.vec == rImm c.x && y.col == rCol c.x

/-- Every term of the running sums on this core is there: its own passes have run, and the sums that the chain brings have arrived
(R159, R164). -/
def chainReady (c : Iss) (s : State) : Bool :=
  !ownTermsLeft s c
  && (!(fedInPart s c || fedFromPart s c) || (lsOf s c.k).sums.any fun x => x.vec == rImm c.x && x.col == rCol c.x)

/-- A core's own status in its run (R117, Table 4.2), with what the chain brought it. -/
def coreStatus (s : State) (k b : Nat) : CoreStatus :=
  let p := planOf s b
  let q := lsOf s k
  { dirty := q.inDirty || decide (0 < q.misses) || decide (lyr p q.layer 14 1 < q.clamps) || decide (lyr p q.layer 12 2 < q.sats),
    impl := q.impl ||| q.inImpl }

/-- Running sums taken into a layer step (R117, R163). -/
def takeSum (x : EarlySum) (l : LayerRun) : LayerRun :=
  let d := x.msg
  { l with
    sums := l.sums.filter (fun y => !(y.vec == d.vec.toNat && y.col == d.col.toNat)) ++
      [{ vec := d.vec.toNat, col := d.col.toNat, comp := d.comp, s := d.s, c := d.c, clamp := x.clamp }]
    inDirty := l.inDirty || d.status.dirty, inImpl := l.inImpl ||| d.status.impl }

/-- Running sums received by a core (R117, R163): those that come before the LSTEP of their layer wait for it (R158). -/
def receiveSum (k : Nat) (d : ChainMsg) (clamp : List Bool) (s : State) : State :=
  let q := lsOf s k
  if q.opened ∧ q.layer = d.layer.toNat then modLs k (takeSum { msg := d, clamp := clamp }) s
  else modCore k (fun m => { m with early := m.early ++ [{ msg := d, clamp := clamp }] }) s

/-- CHAIN (R159, R163, R117): the column block's running sums go to the peer, with the core's status in its last word. Sums
that leave the part have their clamps counted here. -/
def chain (c : Iss) (s : State) : State :=
  let comp := bitOf (rFlags c.x) 0
  let r := runSum (lsOf s c.k) (rImm c.x) (rCol c.x) comp
  let st : CoreStatus := if bitOf (rFlags c.x) 1 then coreStatus s c.k c.b else { dirty := false, impl := 0 }
  let d : ChainMsg := { layer := BitVec.ofNat 16 (rLayer c.x), col := BitVec.ofNat 12 r.col, vec := BitVec.ofNat 16 r.vec,
                        comp := comp, s := r.s, c := if comp then r.c else [], last := bitOf (rFlags c.x) 1, status := st }
  let s1 := dropSum c.k r.vec r.col s
  match peerCore s1 c.b (rOpB c.x) with
  | some m => receiveSum m d r.clamp s1
  | none =>
    if peerAway s1 c.b (rOpB c.x) then
      attClamped c.k (r.clamp.filter id).length
        (sendPart c.b (opOff (rOpB c.x) % 512) true [wordsBytes (d.s ++ d.c)] (emit (.chain c.k (BitVec.ofNat 32 (rOpB c.x)) d) s1))
    else s1

/-- CHAIN. -/
def execChain (k : Fin 2016) (r : RecRead) (s : State) : Host.Outcome State Fault Refusal :=
  .next (issueTo 0x30 false chainReady chain k r s)

/-- CHAIN_ARRIVAL (R164): running sums from another part. -/
def execChainArrival (k : Fin 2016) (d : ChainMsg) (s : State) : Host.Outcome State Fault Refusal :=
  .next (if (boundOf s k).isSome then receiveSum k d [] s else s)

/-! ### The tail (R99, R117) -/

/-- y_n (R99), and whether a line clamped. -/
def tailOf (chain sieve bias : W32) : W32 × Bool :=
  let a := faddC chain sieve
  let b := faddC a.1 bias
  (b.1, a.2 || b.2)

/-- The bias of an output: +0.0 where the layer has none (R178). -/
def biasOf (p : List Byte) (l n : Nat) : W32 :=
  if lyr p l 32 4 = absent then 0 else BitVec.ofNat 32 (param p (lyr p l 32 4) (4 * n) 4)

/-- TAIL (R99, R117, R165): the 256 outputs of a column block, left at their destination; a column beyond the layer's width
gives +0.0. An output whose running sum clamped on an earlier core counts in the tail's cluster (DESIGN CHOICE, log entry 143). -/
def tail (c : Iss) (s : State) : State :=
  let p := c.plan s
  let l := rLayer c.x
  let comp := bitOf (rFlags c.x) 0
  let q := lsOf s c.k
  let r := runSum q (rImm c.x) (rCol c.x) comp
  let out := (List.range 256).map fun j =>
    let n := 256 * rCol c.x + j
    if lyN p l ≤ n then ((0 : W32), false)
    else
      let ch := if comp then faddC (r.s.getD j 0) (r.c.getD j 0) else (r.s.getD j 0, false)
      let y := tailOf ch.1 (look (fun _ => 0) q.sieve (rImm c.x * 2 ^ 20 + n)) (biasOf p l n)
      (y.1, y.2 || ch.2 || r.clamp.getD j false)
  let s1 := attClamped c.k (out.filter (·.2)).length (dropSum c.k r.vec r.col s)
  let s2 := if comp ∧ !q.comp then bump (clOf c.k) 0x414 1 (modLs c.k (fun x => { x with comp := true }) s1) else s1
  let t : TailOut := { dest := BitVec.ofNat 32 (rOpA c.x), peer := BitVec.ofNat 32 (rOpB c.x), data := wordsBytes (out.map (·.1)) }
  if opSpace (rOpA c.x) = 7 then
    (if q.opened then modLs c.k (fun x => { x with tails := x.tails ++ [t] }) s2 else commitTail c.k c.b t s2)
  else if inDevice (rOpA c.x) ∨ !q.opened then leaveOp c.k c.b (rOpA c.x) t.data s2
  else
    modLs c.k (fun x => { x with outs := x.outs ++ [(opSpace (rOpA c.x), opOff (rOpA c.x), 1024)] })
      (leaveOp c.k c.b (rOpA c.x) t.data s2)

/-- TAIL. -/
def execTail (k : Fin 2016) (r : RecRead) (s : State) : Host.Outcome State Fault Refusal :=
  .next (issueTo 0x31 false chainReady tail k r s)

/-! ### Status, commit, replay and abandonment -/

/-- One word of a sequence's quantisation state written at commit, with what the step keeps for a rollback (R133, R147): its
value at step start, and in a drafting round each vector's. -/
def keepWord (rec kind tok key : Nat) (old new : Option W16) (round : Bool) (s : State) : State :=
  let h (v : Nat) : Nat := rec * 2 ^ 64 + kind * 2 ^ 62 + v * 2 ^ 54 + key
  let m := s.srv.hist
  let m1 := if (look (fun _ => none) m (h 64)).isNone then put (fun _ => none) m (h 64) (some old) else m
  { s with srv := { s.srv with hist := if round then put (fun _ => none) m1 (h tok) (some new) else m1 } }

/-- A staged word of a slot committed: kind 0 carry, 1 scale state, 2 key-value carry (R128, R129, R133, R138). -/
def commitWord (b l kind : Nat) (x : Nat × W16) (s : State) : State :=
  let slot := x.1 / 2 ^ 38
  let tok := x.1 / 2 ^ 32 % 64
  let key := l * 2 ^ 32 + x.1 % 2 ^ 32
  match slotRec s b slot with
  | none => s
  | some c =>
    if slotFed s b slot ≤ tok then s
    else
      let round := (ctx s c).role == 1 && !prefilling s c && decide (1 < (ctxRun s c).fed)
      let g := c * 2 ^ 64 + key
      if kind = 0 then
        let s1 := keepWord c 0 tok key (some (look (fun _ => 0) s.srv.carry g)) (some x.2) round s
        { s1 with srv := { s1.srv with carry := put (fun _ => 0) s1.srv.carry g x.2 } }
      else if kind = 1 then
        let s1 := keepWord c 1 tok key (look (fun _ => none) s.srv.scale g) (some x.2) round s
        { s1 with srv := { s1.srv with scale := put (fun _ => none) s1.srv.scale g (some x.2) } }
      else
        let s1 := keepWord c 2 tok key (some (look (fun _ => 0) s.srv.kvCarry g)) (some x.2) round s
        { s1 with srv := { s1.srv with kvCarry := put (fun _ => 0) s1.srv.kvCarry g x.2 } }

/-- The staged words of a map that hold one. -/
def stagedWords {α : Type} (f : α → W16) (m : SMap (Option α)) : List (Nat × W16) :=
  m.filterMap fun x => x.2.map fun w => (x.1, f w)

/-- The candidates of a sequence's next vector handed to the control core, which selects its token (R273, R287); none for a sequence
that feeds nothing any more. -/
def takePick (b : Nat) (x : Nat × List (W32 × W32)) (s : State) : State :=
  if (List.range 4).any fun i => slotRec s b i == some x.1 && slotFed s b i != 0 then
    let pos := (ctx s x.1).length.toNat + (ctxRun s x.1).yToks.length + 1
    modCtxRun x.1 (fun q => { q with yToks := q.yToks ++ [(selectToken s x.1 pos x.2, x.2)] }) s
  else s

/-- The payload of one query row's MERGE state: m, l, the empty flag and the values (Table 10.5). -/
def rowBytes (r : SoftRow) : List Byte := wordsBytes ([r.m, r.l, BitVec.ofNat 32 (bit r.empty)] ++ r.o)

/-- The finished result of a ring split layer goes to the other members (R258). -/
def sendFinal (b k : Nat) (d : MergeMsg) (s : State) : State := sendParts b true (d.rows.map rowBytes) (emit (.merge k 0 d) s)

/-- A clean layer step commits on one core (R117, R128, R133, R138): its finished results for other members, its held writes, the
candidates it selected, carries and scale states. -/
def commitCore (b k : Nat) (s : State) : State :=
  let q := lsOf s k
  let s0 := forAll q.finals (sendFinal b k) (modLs k (fun _ => {}) s)
  let s1 := forAll q.picks (takePick b) (forAll q.tails (commitTail k b) s0)
  let s2 := forAll (stagedWords id q.carry) (commitWord b q.layer 0) s1
  let s3 := forAll (stagedWords upHalf q.maxima) (commitWord b q.layer 1) s2
  forAll (stagedWords id q.kvCarry) (commitWord b q.layer 2) s3

/-- A replay begins from what the layer step began with (R133, R142); the engines and planes that missed are remembered
(R119). -/
def nextRun (q : LayerRun) : LayerRun :=
  { opened := true, layer := q.layer, run := q.run + 1, start := q.start, lstep := q.lstep, beat := q.beat, missPrev := q.missNow }

/-- `n` open bytes (log entry 1). -/
def openBytes (n : Nat) (s : State) : List Byte × State :=
  ((List.range n).map fun i => Config.freeByte (s.fresh + i), { s with fresh := s.fresh + n })

/-- The outputs of a run that does not commit are discarded from the core's own spaces: what stands there is open (R118). -/
def dropOuts (k b : Nat) (s : State) : State :=
  forAll ((lsOf s k).outs.filter fun x => !inDevice (x.1 * 2 ^ 28 + x.2.1))
    (fun x s => let v := openBytes x.2.2 s; writeOp k b (x.1 * 2 ^ 28 + x.2.1) v.1 v.2) s

/-- What the other cores sent for a run that does not commit, and the results it awaits, are gone. -/
def dropArrivals (k l : Nat) (s : State) : State :=
  modCore k (fun q => { q with
    early := q.early.filter (·.msg.layer.toNat != l), redIn := q.redIn.filter (·.layer.toNat != l), mergeIn := [], ringBlks := []
    tileUse := q.tileUse &&& ~~~(tileBits ((q.mergeOuts.filter (·.layer == l)).flatMap fun x => (List.range x.cnt).map (x.tile + ·)))
    mergeOuts := q.mergeOuts.filter (·.layer != l) }) s

/-- A dirty run's results are discarded, and the core's sequencer goes back to the LSTEP for a replay (R118, R142, R185). -/
def replayCore (b : Nat) (point : W64) (k : Nat) (s : State) : State :=
  let s1 := dropArrivals k (lsOf s k).layer (dropOuts k b s)
  modCore k (fun q => rewind (planOf s b) ((planIndex s b k).getD 0) { q with ls := { nextRun q.ls with point := point } }) s1

/-- The counts of one judged run on a core (Tables 3.4, 4.5). -/
def judgeCore (b k : Nat) (s : State) : State :=
  let p := planOf s b
  let q := lsOf s k
  when (0 < q.misses) (bump (clOf k) 0x310 1) (when (lyr p q.layer 12 2 < q.sats) (bump (clOf k) 0x30C 1) s)

/-- The open layer step of a binding with the earliest BEAT, and its core group (R139). -/
def openGroup (s : State) (b : Nat) : List Nat :=
  let ks := (heldBy s b).filter fun k => (lsOf s k).opened
  match ks with
  | [] => []
  | k :: t =>
    let key (k : Nat) : Nat := (lsOf s k).beat * 65536 + (lsOf s k).layer
    let m := t.foldl (fun a i => min a (key i)) (key k)
    ks.filter fun i => key i == m

/-- The place that a held write of core `j` goes to, as core `k` names it: space, first byte and length; none where it is not one of
core `k`'s. -/
def heldPlace (s : State) (b k j : Nat) (t : TailOut) : Option (Nat × Nat × Nat) :=
  let o := t.dest.toNat
  if opSpace o = 7 then
    (if peerCore s b o = some k then some (opSpace t.peer.toNat, opOff t.peer.toNat, t.data.length) else none)
  else if inDevice o then some (opSpace o, spaceByte s b o + t.byte, t.data.length)
  else if j = k then some (opSpace o, opOff o + t.byte, t.data.length) else none

/-- An append of keys and values that a layer step in progress produced issues only after its commit (R48, R242): they are among what
the core's own layer step has left in its spaces, or among the writes that a core of the binding holds. -/
def appendWaits (s : State) (c : Iss) : Bool :=
  let o := rOpA c.x
  let n := (opndLens (c.plan s) (rLayer c.x) c.x).1
  let first := if inDevice o then spaceByte s c.b o else opOff o
  let meets (x : Nat × Nat × Nat) : Bool := x.1 == opSpace o && decide (x.2.1 < first + n ∧ first < x.2.1 + x.2.2)
  ((lsOf s c.k).opened && (lsOf s c.k).leaves.any meets)
  || (heldBy s c.b).any fun j => (lsOf s j).tails.any fun t => (heldPlace s c.b c.k j t).any meets

/-- A core has done all of its layer step: every record has issued, but for an append that waits for the commit, no pass is left, and no
MERGE or reduction waits. -/
def coreDone (s : State) (b k : Nat) : Bool :=
  match planIndex s b k with
  | none => true
  | some i =>
    (stepLeft s k b i).all (fun y => rOp y.1.x == 0x62 && appendWaits s y.1)
    && ((List.range 17).all fun e => (engine s (17 * k + e)).queue.isEmpty && (engine s (17 * k + e)).split.isNone)
    && (core s k).mergeWait.isNone && (core s k).redWaits.isEmpty

/-- Every contributing core has reported (R117): each core of the binding whose recipe holds this layer step has opened it and done
all of it. -/
def groupDone (s : State) (b k : Nat) : Bool :=
  let p := planOf s b
  let q := lsOf s k
  (heldBy s b).all fun j =>
    match planIndex s b j with
    | none => true
    | some i =>
      !((recsOf p i false).any fun x => rOp x == 1 && rLayer x == q.layer && rBeat x == q.beat)
      || ((lsOf s j).opened && (lsOf s j).layer == q.layer && (lsOf s j).beat == q.beat && coreDone s b j)

/-- The slots that a layer step's abandonment removes: those it carried, or every fed slot where no QUANT named one. -/
def abandonedSlots (s : State) (b : Nat) (carried : BitVec 4) : List Nat :=
  (List.range 4).filter fun i => (slotRec s b i).isSome && 0 < slotFed s b i && (carried == 0 || bitOf carried.toNat i)

/-- A layer step abandoned (R147). -/
def abandonLayer (b : Nat) (group : List Nat) (layer : Nat) (carried impl : BitVec 4) (s : State) : State :=
  let slots := abandonedSlots s b carried
  let s1 := forAll group (fun k s => bump (clOf k) 0x308 1 (modLs k (fun _ => {}) (dropArrivals k layer (dropOuts k b s)))) s
  let s2 := forAll slots (fun i s => match slotRec s b i with
    | some c => noticeWork c 0x10 (removeSlot b i s)
    | none => s) s1
  let s3 := modBrun b (fun r => { r with finalImpl := r.finalImpl ||| impl }) s2
  raise (coreErr s3 (group.headD 0) b (some layer) 0x26 1 slots.length 0 0) s3

/-- LAYER_STEP_STATUS (R117, R139 to R147): once every contributing core has reported, the combined status of the binding's open layer
step is judged: a clean run commits; a dirty one is replayed within its allowance, then stretched twice, then abandoned. Each core of
the group has the stretch request outstanding (R321). -/
def execLayerStepStatus (b : Fin 4096) (remote : CoreStatus) (s : State) : Host.Outcome State Fault Refusal :=
  .next (
    match openGroup s b with
    | [] => s
    | k :: t =>
      if !groupDone s b k then s else
      let group := k :: t
      let q := lsOf s k
      let p := planOf s b
      let st := group.map fun i => coreStatus s i b
      let dirty := remote.dirty || st.any (·.dirty)
      let impl := st.foldl (fun a x => a ||| x.impl) remote.impl
      let carried := group.foldl (fun a i => a ||| (lsOf s i).carried) 0
      let s1 := forAll group (judgeCore b) s
      let s2 := if q.run = 0 then
          modBrun b (fun r => { r with carried := r.carried ||| carried,
                                       allImpl := if dirty then r.allImpl &&& (impl ||| ~~~carried) else r.allImpl &&& ~~~carried }) s1
        else s1
      if !dirty then forAll group (commitCore b) s2
      else if q.run < lyA p q.layer then
        forAll group (fun i s => bump (clOf i) 0x300 1 (replayCore b 0 i s)) s2
      else if q.run < lyA p q.layer + 2 then
        forAll group (fun i s => requestStretch i (lySpan p q.layer)
          (bump (clOf i) 0x304 1 (replayCore b (s.fab.beat + BitVec.ofNat 64 s.fab.lead.toNat) i s))) s2
      else abandonLayer b group q.layer carried impl s2)

end Sys2Proof.Machine
end

