-- ==== Sys2Proof/Machine/Records.lean ====
section
/-! DEFINITION. The sequencer's own records, token candidates, copies, reductions, and the activation and pooling units (R101
to R104, R162, R181, R265, R273, R547, R548): NOP, LSTEP, STEPEND, SELECT, OVERRUN, GATHER, LOAD, STORE, REDUCE,
REDUCE_RESULT_ARRIVAL, ACT and POOL. -/

namespace Sys2Proof.Machine

/-! ### Sequencer records -/

/-- NOP (R181). -/
def execNop (k : Fin 2016) (r : RecRead) (s : State) : Host.Outcome State Fault Refusal :=
  .next (issue 0 (fun _ s => s) k r s)

/-- The rows of a state tile set to empty with l = +0.0, and its output tiles to +0.0 (R248). -/
def emptyTiles (k t n : Nat) (s : State) : State :=
  let s1 := putTile k t 16 (List.replicate 16 0 ++ List.replicate 16 1) s
  let s2 := modCore k (fun q => { q with qryPos := q.qryPos.filter fun x => x.1 / 16 != t }) s1
  putTile k (t + 1) 0 (List.replicate (256 * (n - 1)) 0) s2

/-- No layer step of the core waits to be judged: its next layer step, the step's end and a window come after (R117, R139, R321). -/
def stepJudged (c : Iss) (s : State) : Bool := !(lsOf s c.k).opened || (brun s c.b).dead

/-- An LSTEP issues once the layer step before it has been judged, or for a replay of its own (R185, R321). -/
def openReady (c : Iss) (s : State) : Bool :=
  stepJudged c s || ((lsOf s c.k).run != 0 && (lsOf s c.k).lstep == c.idx)

/-- n_g of an attention layer (R254, R255): query heads that a core serves against one key-value head. -/
def groupHeads (p : List Byte) (l : Nat) : Nat :=
  if attn p l 9 1 = 1 then atHq p l * atS p l / max 1 (atPart p l) else atHq p l / max 1 (max (atHkv p l) (atPart p l))

/-- Q, K and D of a layer's attention tiles (R182, Table 8.1). -/
def atQ (p : List Byte) (l : Nat) : Nat := shQ (attn p l 24 1)
/-- K of a layer's attention tiles. -/
def atK (p : List Byte) (l : Nat) : Nat := shK (attn p l 24 1)
/-- D of a layer's attention tiles. -/
def atD (p : List Byte) (l : Nat) : Nat := shD (attn p l 24 1)

/-- The layer's keys are split over a ring whose members merge their partial states (R258). -/
def ringSplit (p : List Byte) (l : Nat) : Bool := atRing p l != 0 && attn p l 26 1 == 1

/-- One query token of a ring split layer broadcast from its owner member, the one that holds the page of its position (R258, R315;
DESIGN CHOICE, log entry 157): the rows of token `v` that the rotary record `x` reads go to the same operand of every other part. -/
def sendQuery (c : Iss) (x base v : Nat) (s : State) : State :=
  let p := c.plan s
  let l := rLayer x
  let per := max 1 (groupHeads p l)
  if holdsPage s c.b l ((base + v) / atT p l) then
    let rd := readWordsAt c.k c.b (rOpA x) (rLen x * per * v) (rLen x * per) s
    sendParts c.b false [wordsBytes rd.1] (emit (.tailOut c.k 0 (BitVec.ofNat 32 (rOpA x)) rd.1) rd.2)
  else s

/-- The query sets of a ring split layer step, broadcast once, at its start (R258, R315). -/
def sendQueries (c : Iss) (s : State) : State :=
  let p := c.plan s
  if !lyAttn p (rLayer c.x) ∨ !ringSplit p (rLayer c.x) ∨ (lsOf s c.k).run ≠ 0 then s
  else
    let xs := (stepRecords p c.i c.idx).filter fun x => rOp x == 0x40 && rImm x % 16 == 7 && bitOf (rFlags x) 0 && rLayer x == rLayer c.x
    forAll (xs.map fun x => (oneSlot x, x)).dedup (fun y s =>
      match slotRec s c.b y.1 with
      | none => s
      | some rec =>
        let v0 := rImm y.2 / 256
        let n := ceilDiv (atQ p (rLayer y.2)) (max 1 (groupHeads p (rLayer y.2)))
        upto n (fun v s => if slotFed s c.b y.1 ≤ v0 + v then s
          else sendQuery c y.2 ((ctx s rec).length.toNat + v0) v s) s) s

/-- LSTEP (R181, R185, R234, R248): a layer step opens, or its replay begins; the walks start again and the state tiles of its
SMAX records are set to empty, and sums that came early join it (R158). In a step that has ended under R62 it opens nothing. -/
def openLayer (c : Iss) (s : State) : State :=
  if (brun s c.b).dead then s
  else
    let q := lsOf s c.k
    let mine := (core s c.k).early.filter fun x => x.msg.layer.toNat == rLayer c.x
    let new : LayerRun := if q.opened then q else
      mine.foldl (fun l x => takeSum x l)
        { opened := true, layer := rLayer c.x, start := s.fab.sched, lstep := c.idx, beat := rBeat c.x }
    let ts := stateTiles (c.plan s) c.i c.idx
    let s1 := modCore c.k (fun m => { m with
      ls := new, walks := [], fetchQ := [], redWaits := []
      early := if q.opened then m.early else m.early.filter fun x => x.msg.layer.toNat != rLayer c.x
      tileSeen := tileBits (ts.flatMap fun t => (List.range t.2).map (t.1 + ·)) }) s
    sendQueries c (forAll ts (fun t => emptyTiles c.k t.1 t.2) s1)

/-- LSTEP. -/
def execLstep (k : Fin 2016) (r : RecRead) (s : State) : Host.Outcome State Fault Refusal :=
  .next (issueTo 1 false openReady openLayer k r s)

/-- STEPEND (R187, R265): the binding's step boundary, at the narrow variant's STEPEND on plan core 0; the core's sequencer starts
its recipe again, for a step that begins PERIOD beats after the core's last one. -/
def stepEnd (c : Iss) (s : State) : State :=
  let s1 := modCore c.k (fun q => { q with
    ptr := 0, ptrLow := 0, ptrHigh := 0, overran := [], stepAt := q.stepAt + BitVec.ofNat 64 (plPeriod (c.plan s)) }) s
  if c.i = 0 then stepBoundary c.b s1 else s1

/-- STEPEND. -/
def execStepend (k : Fin 2016) (r : RecRead) (s : State) : Host.Outcome State Fault Refusal :=
  .next (issueTo 2 false stepJudged stepEnd k r s)

/-- `n` candidates of a TOPK result (R104): value at byte 4i, index at byte 32 + 4i. -/
def topkAt (bs : List Byte) (n : Nat) : List (W32 × W32) :=
  (List.range (min 8 n)).map fun i => (w32At bs (4 * i), w32At bs (32 + 4 * i))

/-- SELECT (R273, R287): the candidates of the slot's next vector are handed to the control core, when the layer step they depend on
has committed (R48, R117). -/
def selectRec (c : Iss) (s : State) : State :=
  let rd := readOp c.k c.b (rOpA c.x) 64 s
  let cands := topkAt rd.1 (rImm c.x % 16)
  match (vecSlot c).bind fun i => (slotRec s c.b i).filter fun _ => slotFed s c.b i != 0 with
  | none => rd.2
  | some rec =>
    if (lsOf s c.k).opened then modLs c.k (fun q => { q with picks := q.picks ++ [(rec, cands)] }) rd.2
    else takePick c.b (rec, cands) rd.2

/-- SELECT. -/
def execSelect (k : Fin 2016) (r : RecRead) (s : State) : Host.Outcome State Fault Refusal := .next (issue 3 selectRec k r s)

/-- Records of a core whose beat has come and which have not issued: stream, index, and the beats by which they are late. -/
def overdueRecs (s : State) (k b i : Nat) : List (Nat × Nat × Nat) :=
  [0, 1, 2].flatMap fun st => (unissued s k b i st).filterMap fun y =>
    let c : Iss := { k := k, b := b, i := i, x := y.2, idx := y.1, wide := st != 0 }
    if !beatDue s c then none
    else some (st, y.1, if stretched s c then s.fab.beat.toNat - stretchedAt s c else s.fab.sched.toNat - dueAt s c)

/-- A MERGE that waits for a late state beyond its beat (R251). -/
def mergeLate (s : State) (k : Nat) : List (Nat × Nat × Nat) :=
  match (core s k).mergeWait with
  | some w => if w.due ≤ s.fab.sched.toNat then [(w.stream, w.idx, s.fab.sched.toNat - w.due)] else []
  | none => []

/-- OVERRUN (R52, R187, R316): each record that is unissued, or delayed by a late state, at the end of its beat is counted once, and the
core asks for a stretch, by its oldest, unless a request of its own is outstanding (R321). -/
def overrun (k b i : Nat) (s : State) : State :=
  let late := overdueRecs s k b i ++ mergeLate s k
  let new := late.filter fun x => !(core s k).overran.contains (x.1, x.2.1)
  if late.isEmpty then s
  else
    let d := late.foldl (fun a x => max a x.2.2) 0
    let s1 := bump (clOf k) 0x508 new.length
      (modCore k (fun q => { q with overran := q.overran ++ new.map fun x => (x.1, x.2.1) }) s)
    if hasRequest s1 k then s1 else requestStretch k (max 1 d + lamOf (ringN s)) s1

/-- OVERRUN. -/
def execOverrun (k : Fin 2016) (s : State) : Host.Outcome State Fault Refusal :=
  .next (
    match boundOf s k with
    | none => s
    | some b =>
      match planIndex s b k with
      | none => s
      | some i => overrun k b i s)

/-! ### Copies (R181, R548) -/

/-- An FP8 element as FP32, exact: an infinity of E5M2 is that of FP32, and the payload of a NaN is open (R16; log entry 15). -/
def fp8Word (f : Fmt) (x : Byte) : W32 :=
  if finiteF f x.toNat then b2f f x
  else if f.p = 3 ∧ magOf f x.toNat = 0x7C then (if negOf f x.toNat then 0xFF800000 else 0x7F800000)
  else Config.nonFinite 5 (BitVec.ofNat 32 x.toNat) 0 ||| 0x7FC00000

/-- GATHER (R548): LEN elements of an embedding row, converted exactly to FP32. -/
def gather (c : Iss) (s : State) : State :=
  let p := c.plan s
  let fmt := match embBlock p with | some b => if leAt p (b.off + 8) 1 = 1 then e5m2 else e4m3 | none => e4m3
  let rd := readOp c.k c.b (rOpA c.x) (rLen c.x) s
  leaveWords c.k c.b (rOpB c.x) (rd.1.map (fp8Word fmt)) rd.2

/-- GATHER. -/
def execGather (k : Fin 2016) (r : RecRead) (s : State) : Host.Outcome State Fault Refusal := .next (issue 0x70 gather k r s)

/-- TRANSACTION_RECEIVED (R323): acknowledged back towards its source, with the same SRC, DST and TXN (R296); what a TAIL of another part
sends is written to the core's staging (R180). -/
def execTransactionReceived (src : Sender) (txn : TxnData) (s : State) : Host.Outcome State Fault Refusal :=
  let s1 := match txn.tail with
    | none => s
    | some t => match boundOf s t.core with
      | none => s
      | some b => writeOp t.core b t.off.toNat (wordsBytes t.vals) s
  .next (sendFlits (!src.down) 2 src.pos.toNat s.fab.myPos.toNat txn.tag.toNat (leBytes 3 txn.tag.toNat) (emit (.ack src.pos txn.tag) s1))

/-- LEN bytes copied from OPND_A to OPND_B. -/
def copyBytes (c : Iss) (s : State) : State :=
  let rd := readOp c.k c.b (rOpA c.x) (rLen c.x) s
  leaveOp c.k c.b (rOpB c.x) rd.1 rd.2

/-- LOAD (R181). -/
def execLoad (k : Fin 2016) (r : RecRead) (s : State) : Host.Outcome State Fault Refusal := .next (issue 0x71 copyBytes k r s)

/-- STORE (R181, R117). -/
def execStore (k : Fin 2016) (r : RecRead) (s : State) : Host.Outcome State Fault Refusal := .next (issue 0x72 copyBytes k r s)

/-! ### Reductions (R162, R547) -/

/-- fp32(1 / c), open for a count of 0. -/
def recipOf (c : Nat) : W32 := if c = 0 then fdiv 0x3F800000 0 else fratio 1 c

/-- A broadcast statistic over its count: fp32(S × fp32(1 / c)) (R547). -/
def statOf (v c : W32) : W32 := fmul v (recipOf c.toNat)

/-- Candidate `a` comes before `b` (R104): larger value, then lower index. -/
def candBefore (a b : W32 × W32) : Bool :=
  if dyLt (fv b.1) (fv a.1) then true
  else if dyLt (fv a.1) (fv b.1) then false else decide (a.2.toNat ≤ b.2.toNat)

/-- A candidate placed in order. -/
def insCand (x : W32 × W32) : List (W32 × W32) → List (W32 × W32)
  | [] => [x]
  | y :: t => if candBefore x y then x :: y :: t else y :: insCand x t

/-- Candidates in descending order of value, ties to the lower index (R104). -/
def orderCands : List (W32 × W32) → List (W32 × W32)
  | [] => []
  | x :: t => insCand x (orderCands t)

/-- The 64 bytes of a TOPK result (R104). -/
def topkWords (cs : List (W32 × W32)) : List W32 :=
  (List.range 8).map (fun i => (cs.getD i (0, 0)).1) ++ (List.range 8).map fun i => (cs.getD i (0, 0)).2

/-- A core's own share of a reduction (R162, R547): sum of terms, count, candidates, and clamps. -/
def ownShare (kind len : Nat) (ls : LayerRun) (ws : List W32) (bs : List Byte) : W32 × W32 × List (W32 × W32) × Bool :=
  let mu := statOf ls.redS ls.redC
  let terms : List (W32 × Bool) :=
    if kind = 0 then ws.map fun x => (x, false)
    else if kind = 1 then ws.map fun x => fmulC x x
    else ws.map fun x => let d := faddC x (fneg mu); let q := fmulC d.1 d.1; (q.1, d.2 || q.2)
  if kind = 2 then (0, BitVec.ofNat 32 len, topkAt bs len, false)
  else
    let t := fsumC (terms.map (·.1))
    (t.1, BitVec.ofNat 32 len, [], t.2 || terms.any (·.2))

/-- A partial for a reduction of a layer and kind that reached a core. -/
def partialIn (s : State) (k l kind : Nat) : Option ReduceMsg :=
  (core s k).redIn.find? fun m => m.layer.toNat == l && m.kind.toNat == kind

/-- A core of this part, or another part (log entry 128), sends its partial of this reduction to plan core `i` (R162). -/
def reduceFed (s : State) (c : Iss) : Bool :=
  let p := c.plan s
  ((List.range (plCores p)).any fun j => j != c.i && (recsOf p j false).any fun y =>
    rOp y == 0x32 && rLayer y == rLayer c.x && rFlags y % 4 == rFlags c.x % 4 && namesCore s c.b (rOpB y) c.i)
  || (decide (1 < plParts p)
      && Config.otherPartReduce (plId p) (entry s c.b).planPart.toNat c.i (rFlags c.x % 4) (rLayer c.x))

/-- The preceding core's partial has arrived, where one is sent. -/
def reduceReady (c : Iss) (s : State) : Bool :=
  !reduceFed s c || (partialIn s c.k (rLayer c.x) (rFlags c.x % 4)).isSome

/-- A reduction's result reaches a core (R162): the statistics of its layer step, and for the oldest REDUCE of its kind and layer that
waits on the core the TOPK result, or the sum of one output of an overflow layer. -/
def takeResult (b k : Nat) (d : ReduceMsg) (s : State) : State :=
  let kind := d.kind.toNat
  let q := lsOf s k
  let s1 := if q.opened ∧ q.layer = d.layer.toNat then
      modLs k (fun l =>
        if kind = 0 then { l with redS := d.value, redC := d.count, redZ := d.zero }
        else if kind = 1 then { l with redS2 := d.value, redC2 := d.count, redZ2 := d.zero }
        else if kind = 3 then { l with redS3 := d.value, redC3 := d.count } else l) s
    else s
  let mine (w : RedWait) : Bool := w.kind == d.kind && w.layer == d.layer.toNat
  let s2 := modCore k (fun m => { m with redWaits := m.redWaits.eraseP mine }) s1
  match (core s1 k).redWaits.find? mine with
  | none => s2
  | some w => leaveWords k b w.dest.toNat (if kind = 2 then topkWords d.cands else [d.value]) s2

/-- A partial reaches the next core of this part. -/
def takePartial (k : Nat) (d : ReduceMsg) (s : State) : State := modCore k (fun m => { m with redIn := m.redIn ++ [d] }) s

/-- The payload of a REDUCE message (log entry 135). -/
def reduceBytes (d : ReduceMsg) : List Byte := wordsBytes ([d.value, d.count] ++ d.cands.flatMap fun x => [x.1, x.2])

/-- A sum over one value on an overflow layer: the columns of that output are spread over several cores, and its result goes back over
the value (R162, R171; log entry 131). -/
def spreadOutput (p : List Byte) (x : Nat) : Bool :=
  rFlags x % 4 == 0 && rLen x == 1 && (blocks p).any fun b => b.kind == 1 && b.layer == rLayer x

/-- REDUCE (R162, R547): the core's own terms join what the preceding cores gathered; the sum goes on to the peer, or the final
core broadcasts the result to every core of its binding, and to the other parts of a multi-part binding. -/
def reduce (c : Iss) (s : State) : State :=
  let l := rLayer c.x
  let kind := rFlags c.x % 4
  let rd := readOp c.k c.b (rOpA c.x) (if kind = 2 then 64 else 4 * rLen c.x) s
  let own := ownShare kind (rLen c.x) (lsOf s c.k) (wordsOf rd.1) rd.1
  let old := partialIn s c.k l kind
  let sum := match old with | some m => faddC m.value own.1 | none => (own.1, false)
  let count := match old with | some m => m.count + own.2.1 | none => own.2.1
  let cands := ((orderCands ((match old with | some m => m.cands | none => []) ++ own.2.2.1)).take (min 8 (rLen c.x)))
  let zero := (wordsOf rd.1).all (fun x => zeroF f32 x.toNat) && (match old with | some m => m.zero | none => true)
  let d : ReduceMsg := { layer := BitVec.ofNat 16 l, kind := BitVec.ofNat 2 kind, value := sum.1, count := count, zero := zero,
                         cands := if kind = 2 then cands else [], final := opSpace (rOpB c.x) != 7 }
  let w : RedWait := { kind := BitVec.ofNat 2 kind, layer := l,
                       dest := if kind = 2 ∨ spreadOutput (c.plan s) c.x then BitVec.ofNat 32 (rOpA c.x) else 0 }
  let s1 := attClamped c.k (bit (own.2.2.2 || sum.2)) rd.2
  let s2 := modCore c.k (fun m => { m with
    redIn := m.redIn.eraseP (fun x => x.layer.toNat == l && x.kind.toNat == kind), redWaits := m.redWaits ++ [w] }) s1
  if d.final then
    let s3 := forAll (heldBy s2 c.b) (fun k => takeResult c.b k d) s2
    if 1 < plParts (c.plan s) then sendParts c.b false [reduceBytes d] (emit (.reduce c.k 0 d) s3) else s3
  else
    match peerCore s2 c.b (rOpB c.x) with
    | some m => takePartial m d s2
    | none =>
      if peerAway s2 c.b (rOpB c.x) then
        sendPart c.b (opOff (rOpB c.x) % 512) false [reduceBytes d] (emit (.reduce c.k (BitVec.ofNat 32 (rOpB c.x)) d) s2)
      else s2

/-- REDUCE. -/
def execReduce (k : Fin 2016) (r : RecRead) (s : State) : Host.Outcome State Fault Refusal :=
  .next (issueTo 0x32 false reduceReady reduce k r s)

/-- REDUCE_RESULT_ARRIVAL (R162): a partial from the preceding core, or the final core's result, from another part. -/
def execReduceResultArrival (k : Fin 2016) (d : ReduceMsg) (s : State) : Host.Outcome State Fault Refusal :=
  .next (
    match boundOf s k with
    | none => s
    | some b => if d.final then takeResult b k d s else takePartial k d s)

/-! ### The activation unit (R101 to R103, R547) -/

/-- A result within `u` ulp of its exact value, given its operands (R101); open where one of them is not finite (log entry 15). -/
def actNear (u fn : Nat) (d : Dy) (xs : List W32) : W32 × Bool :=
  if xs.all fin32 then within u d (Config.actValue fn xs) else (Config.actValue fn xs, false)

/-- A function of one value (Table 3.1): SiLU is exactly 0.0 at 0.0. -/
def actUnary (fn : Nat) (x : W32) : W32 × Bool :=
  if fn = 1 ∧ zeroF f32 x.toNat then (0, false)
  else actNear 2 fn (if fn = 1 then siluReal (fv x) else if fn = 2 then geluReal (fv x) else geluTanhReal (fv x)) [x]

/-- SwiGLU of gate and up value (Table 3.1). -/
def actGate (g u : W32) : W32 × Bool := actNear 3 4 (dyMul (siluReal (fv g)) (fv u)) [g, u]

/-- RMSNorm of an element, its γ, the mean of squares and ε (Table 3.1). -/
def actRms (x gamma ms eps : W32) : W32 × Bool :=
  actNear 3 5 (dyMul (dyMul (fv x) (fv gamma)) (rsqrtReal (dyAdd (fv ms) (fv eps)))) [x, gamma, ms, eps]

/-- LayerNorm of an element, its γ and β, the mean, the variance and ε (Table 3.1). -/
def actLayerNorm (x gamma beta mu var eps : W32) : W32 × Bool :=
  actNear 3 6 (dyAdd (dyMul (dyMul (dyAdd (fv x) (dyNeg (fv mu))) (fv gamma)) (rsqrtReal (dyAdd (fv var) (fv eps)))) (fv beta))
    [x, gamma, beta, mu, var, eps]

/-- A value for code 0 to 6 or 8 of element `i` (Table 6.6): `other` is the second operand's element. A norm whose every element is
zero gives +0.0, or β (R103). -/
def actElement (p : List Byte) (l n0 fn : Nat) (ls : LayerRun) (x other : W32) (i : Nat) : W32 × Bool :=
  let par (o : Nat) : W32 := BitVec.ofNat 32 (param p (lyr p l 40 4) o 4)
  let n := n0 + i
  let eps := BitVec.ofNat 32 (lyr p l 44 4)
  let beta := par (4 * lyN p l + 4 * n)
  if fn = 0 then faddC x other
  else if fn ≤ 3 then actUnary fn x
  else if fn = 4 then actGate x other
  else if fn = 5 then (if ls.redZ2 then (0, false) else actRms x (par (4 * n)) (statOf ls.redS2 ls.redC2) eps)
  else if fn = 6 then
    (if ls.redZ then (beta, false)
     else actLayerNorm x (par (4 * n)) beta (statOf ls.redS ls.redC) (statOf ls.redS3 ls.redC3) eps)
  else fmulC x other

/-- The reduced angle of a position and a frequency (R102). -/
def angleOf (t phi : Nat) : W32 := BitVec.ofNat 32 (t * phi % 2 ^ 64 / 2 ^ 32)

/-- The rotation of a pair by a reduced angle, each result within 2 ulp (R102). -/
def turnPair (x y angle : W32) : (W32 × Bool) × (W32 × Bool) :=
  let t := turnReal angle.toNat
  let re := dyAdd (dyMul (fv x) t.1) (dyNeg (dyMul (fv y) t.2))
  let im := dyAdd (dyMul (fv x) t.2) (dyMul (fv y) t.1)
  let one (part : Nat) (d : Dy) : W32 × Bool :=
    if fin32 x ∧ fin32 y then within 2 d (Config.actValue (7 + part) [x, y, angle]) else (Config.actValue (7 + part) [x, y, angle], false)
  (one 0 re, one 100 im)

/-- The rotation of a vector of elements at a position (R102): pairs (2i, 2i + 1); an odd last element stays. -/
def rotate (p : List Byte) (l t : Nat) : Nat → List W32 → List (W32 × Bool)
  | i, x :: y :: u =>
    let r := turnPair x y (angleOf t (param p (lyr p l 48 4) (8 * i) 8))
    r.1 :: r.2 :: rotate p l t (i + 1) u
  | _, l => l.map fun x => (x, false)

/-- QFMT's element format (Table 8.1). -/
def qFmt (p : List Byte) (l : Nat) : Fmt := if atQf p l = 0 then e4m3 else if atQf p l = 1 then bf16 else f16

/-- ACT code 7 on keys (R547): the LEN elements of one token, rotated in place. -/
def rotaryKey (c : Iss) (pos : Nat) (s : State) : State :=
  let rd := readWords c.k c.b (rOpA c.x) (rLen c.x) s
  let out := rotate (c.plan s) (rLayer c.x) pos 0 rd.1
  let n := (out.filter (·.2)).length
  leaveWords c.k c.b (rOpA c.x) (out.map (·.1)) (if n = 0 then rd.2 else bump (clOf c.k) 0x21C n rd.2)

/-- Tiles that one D-tile of an operand block takes: `n` rows of D elements of `bits` bits, in whole tiles (log entry 34). -/
def blockTiles (n d bits : Nat) : Nat := ceilDiv (n * d * bits) 8192

/-- Bit offset of element `j` of row `r` in an operand block whose D-tiles each start a tile (R171, R245; log entry 34). -/
def blockBit (n d bits r j : Nat) : Nat := j / d * (8192 * blockTiles n d bits) + (r * d + j % d) * bits

/-- The first tiles of the D-tiles of rows of `dh` elements. -/
def dTiles (t n d bits dh : Nat) : List Nat := (List.range (max 1 (dh / max 1 d))).map fun i => t + i * blockTiles n d bits

/-- One query row (R245, R547): rotated, multiplied by τ, and converted to QFMT; a row whose vector the slot does not feed is
zero and a padding row, and so is one whose position lies on another member's page in rotation mode (R257). -/
def rotaryRow (c : Iss) (slot base fed r : Nat) (s : State) : State :=
  let p := c.plan s
  let l := rLayer c.x
  let dh := rLen c.x
  let v := rImm c.x / 256 + r / max 1 (groupHeads p l)
  let f := qFmt p l
  let q := atQ p l
  let d := atD p l
  let put_ (es : List Nat) (pos : Nat) (s : State) : State :=
    let s1 := ((List.range dh).zip es).foldl (fun s x =>
      putTileBytes c.k (rTileD c.x) (blockBit q d f.w r x.1 / 8) (leBytes (f.w / 8) x.2) s) s
    modCore c.k (fun m => { m with qryPos := (dTiles (rTileD c.x) q d f.w dh).foldl (fun a t =>
      put (fun _ => 0) a (16 * t + r) pos) m.qryPos }) s1
  let away := atRing p l != 0 && attn p l 26 1 == 0 && !holdsPage s c.b l ((base + v) / atT p l)
  if fed ≤ v ∨ away then put_ (List.replicate dh 0) 0 s
  else
    let rd := readWordsAt c.k c.b (rOpA c.x) (dh * r) dh s
    let out := rotate p l (base + v) 0 rd.1
    let n := (out.filter (·.2)).length
    let tau := BitVec.ofNat 32 (attn p l 16 4)
    put_ (out.map fun x => (convF f32 f (fmul x.1 tau).toNat).1) (4 * (base + v + 1) + slot)
      (if n = 0 then rd.2 else bump (clOf c.k) 0x21C n rd.2)

/-- ACT code 7 (R102, R547): positions count from the slot's LENGTH at the start of the step. -/
def rotary (c : Iss) (s : State) : State :=
  match (vecSlot c).bind fun i => (slotRec s c.b i).map fun r => (i, r) with
  | none => s
  | some x =>
    let base := (ctx s x.2).length.toNat
    if !bitOf (rFlags c.x) 0 then rotaryKey c (base + rImm c.x / 256) s
    else
      let p := c.plan s
      upto (atQ p (rLayer c.x)) (rotaryRow c x.1 base (slotFed s c.b x.1)) s

/-- The `n` source words of a record: from its tile, or from its operand. -/
def sourceWords (c : Iss) (tile cnt o n : Nat) (s : State) : List W32 × State :=
  if cnt ≠ 0 then (tileWords s c.k tile n, s) else readWords c.k c.b o n s

/-- Where a record without a destination tile leaves its result: a function of one value and a norm at OPND_B where it names
one, the others over OPND_A. -/
def actDest (x : Nat) : Nat :=
  let fn := rImm x % 16
  if (1 ≤ fn ∧ fn ≤ 3 ∨ fn = 5 ∨ fn = 6) ∧ opSpace (rOpB x) ≠ 0 then rOpB x else rOpA x

/-- ACT (R101 to R103, R547). -/
def act (c : Iss) (s : State) : State :=
  let fn := rImm c.x % 16
  let n := rLen c.x
  if fn = 7 then rotary c s
  else
    let a := sourceWords c (rTileA c.x) (rCntA c.x) (rOpA c.x) n s
    let o := if fn = 0 ∨ fn = 4 then sourceWords c (rTileB c.x) (rCntB c.x) (rOpB c.x) n a.2
             else if fn = 8 then readWords c.k c.b (rOpB c.x) 1 a.2 else ([], a.2)
    let out := ((List.range n).zip a.1).map fun x =>
      actElement (c.plan s) (rLayer c.x) (256 * rCol c.x) fn (lsOf s c.k) x.2 (if fn = 8 then o.1.headD 0 else o.1.getD x.1 0) x.1
    let m := (out.filter (·.2)).length
    let s1 := if m = 0 then o.2 else bump (clOf c.k) 0x21C m o.2
    if rCntD c.x ≠ 0 then putTile c.k (rTileD c.x) 0 (out.map (·.1)) s1 else leaveWords c.k c.b (actDest c.x) (out.map (·.1)) s1

/-- ACT. -/
def execAct (k : Fin 2016) (r : RecRead) (s : State) : Host.Outcome State Fault Refusal := .next (issue 0x40 act k r s)

/-! ### The pooling unit (R104) -/

/-- A place that holds values: a space with the first byte in it, accumulator tiles being space 8. -/
abbrev Place := Nat × Nat

/-- The place that an operand names (Table 6.5). -/
def placeOf (s : State) (b o : Nat) : Place := (opSpace o, if inDevice o then spaceByte s b o else opOff o)

/-- The place of a tile run's first word. -/
def tilePlace (t : Nat) : Place := (8, 1024 * t)

/-- The source of a record that takes its values from a tile or an operand. -/
def sourcePlace (s : State) (b x : Nat) : Place := if rCntA x ≠ 0 then tilePlace (rTileA x) else placeOf s b (rOpA x)

/-- The first byte of a layer's kind 1 block in its binding's overflow weights region (R222, R545). -/
def ovfStart (p : List Byte) (l : Nat) : Nat :=
  (((blocks p).filter (·.kind == 1)).takeWhile (·.layer != l)).foldl (fun a x => a + 65536 * ceilDiv (blockLen p x) 65536) 0

/-- Where a record of the recipe puts values: the place, the bytes it fills, and for the word that starts at its byte `i` either the
output index that the record fixes or the place that the word came from (R104; log entry 33). -/
structure Filled where
  at_  : Place
  len  : Nat
  from_ : Nat → Option (Nat ⊕ Place)

/-- What record `y` fills on the core of `c`, of which it is a record where `own`. -/
def filledBy (s : State) (c : Iss) (own : Bool) (y : Nat) : Option Filled :=
  let p := c.plan s
  let src (i : Nat) : Option (Nat ⊕ Place) := let q := sourcePlace s c.b y; some (.inr (q.1, q.2 + i))
  let dst (o : Nat) : Place := placeOf s c.b o
  let here (q : Place) : Bool := own || q.1 == 4 || q.1 == 6
  if rOp y = 0x31 then
    let n (i : Nat) : Option (Nat ⊕ Place) := some (.inl (256 * rCol y + i / 4))
    if opSpace (rOpA y) = 7 then (if namesCore s c.b (rOpA y) c.i then some ⟨dst (rOpB y), 1024, n⟩ else none)
    else if here (dst (rOpA y)) then some ⟨dst (rOpA y), 1024, n⟩ else none
  else if rOp y = 0x40 ∧ rImm y % 16 ≠ 7 then
    let q := if rCntD y ≠ 0 then tilePlace (rTileD y) else dst (actDest y)
    let norm : Bool := rImm y % 16 == 5 || rImm y % 16 == 6
    if (if rCntD y ≠ 0 then own else here q) then
      some ⟨q, 4 * rLen y, fun i => if norm then some (.inl (256 * rCol y + i / 4)) else src i⟩
    else none
  else if rOp y = 0x71 ∨ rOp y = 0x72 then
    (if here (dst (rOpB y)) then some ⟨dst (rOpB y), rLen y, fun i => let q := dst (rOpA y); some (.inr (q.1, q.2 + i))⟩ else none)
  else if rOp y = 0x54 ∧ own then
    let l := rLayer y
    let q := spaceByte s c.b (rOpB y) - ovfStart p l
    let first := 16 * (q / 4096 / max 1 (ceilDiv (lyW p l) 256)) + q % 4096 / 256
    let k := max 1 (shK (rImm y))
    some ⟨tilePlace (rTileD y), 4 * shQ (rImm y) * k, fun i => some (.inl (first + i / 4 % k))⟩
  else if own ∧ (rOp y = 0x41 ∨ rOp y = 0x50 ∨ rOp y = 0x52) ∧ rCntD y ≠ 0 then
    some ⟨tilePlace (rTileD y), 1024 * rCntD y, fun _ => none⟩
  else none

/-- The records whose values may stand on a core when record `c` issues: each with whether it is the core's own, its beat and index.
Its own come from the variant of `c`, and those of other cores from the narrow one. -/
def placedBefore (s : State) (c : Iss) : List (Bool × Nat × Nat × Nat) :=
  let p := c.plan s
  (List.range (plCores p)).flatMap fun j =>
    let w : Bool := j == c.i && c.wide
    let rs := recsOf p j w
    ((List.range rs.length).zip rs).map fun y => (j == c.i, corrBeat p w y.2, y.1, y.2)

/-- A record stands before another in the order in which a core sees their values: by beat, and its own by index. -/
def standsBefore (y : Bool × Nat × Nat × Nat) (beat idx : Nat) : Bool :=
  if y.1 then decide (y.2.2.1 < idx) else decide (y.2.1 ≤ beat)

/-- The output index of the word at a place before the record of a beat and index: by the last record that filled it, followed back to
where its value came from (R104; DEDUCED, log entry 33). -/
def indexAt (s : State) (c : Iss) (all : List (Bool × Nat × Nat × Nat)) : Nat → Place → Nat → Nat → Option Nat
  | 0, _, _, _ => none
  | fuel + 1, q, beat, idx =>
    let hits := all.filterMap fun y =>
      if !standsBefore y beat idx then none
      else match filledBy s c y.1 y.2.2.2 with
        | some f => if f.at_.1 = q.1 ∧ f.at_.2 ≤ q.2 ∧ q.2 < f.at_.2 + f.len then some (y, f) else none
        | none => none
    match hits with
    | [] => none
    | h :: t =>
      let z := t.foldl (fun a x => if a.1.2.1 < x.1.2.1 ∨ (a.1.2.1 = x.1.2.1 ∧ a.1.2.2.1 ≤ x.1.2.2.1) then x else a) h
      match z.2.from_ (q.2 - z.2.at_.2) with
      | some (.inl n) => some n
      | some (.inr r) => indexAt s c all fuel r z.1.2.1 (if z.1.1 then z.1.2.2.1 else idx)
      | none => none

/-- The index of element `e` of a POOL's set: its output index n, or its place in the set where no record of the recipe fixes one
(log entry 33). -/
def poolIndex (s : State) (c : Iss) (e : Nat) : Nat :=
  let q := sourcePlace s c.b c.x
  (indexAt s c (placedBefore s c) 32 (q.1, q.2 + 4 * e) (corrBeat (c.plan s) c.wide c.x) c.idx).getD e

/-- POOL (R104): SUM, MAX, MEAN or TOPK of LEN values, each with its output index. -/
def pool (c : Iss) (s : State) : State :=
  let n := rLen c.x
  let kind := rImm c.x % 4
  let a := sourceWords c (rTileA c.x) (rCntA c.x) (rOpA c.x) n s
  let sum := (fsumC a.1).1
  let cands := orderCands (((List.range n).zip a.1).map fun x => (x.2, BitVec.ofNat 32 (poolIndex s c x.1)))
  let out := if kind = 0 then [sum] else if kind = 1 then (cands.take 1).map (·.1) else if kind = 2 then [fmul sum (recipOf n)]
             else topkWords (cands.take (rImm c.x / 4 % 16))
  if rCntD c.x = 0 then a.2 else putTile c.k (rTileD c.x) 0 out a.2

/-- POOL. -/
def execPool (k : Fin 2016) (r : RecRead) (s : State) : Host.Outcome State Fault Refusal := .next (issue 0x41 pool k r s)

end Sys2Proof.Machine
end

