-- ==== Sys2Proof/Machine/Attention.lean ====
section
/-! DEFINITION. The digital attention unit (R155 to R157, R168 to R173, R245 to R252): SCORE, SMAX, VALUE, MERGE,
MERGE_STATE_ARRIVAL and OVF. -/

namespace Sys2Proof.Machine

/-! ### Operands (Table 5.1, R157, R182) -/

/-- An element of an operand as FP32, and false where it is not finite: it is then taken as +0.0 (R157). -/
def operandOf (f : Fmt) (x : Nat) : W32 × Bool :=
  if finiteF f x then (BitVec.ofNat 32 (convF f f32 x).1, true) else (0, false)

/-- The format of the first operand of a shape's operand pair (R182): E4M3, BF16 or FP16. -/
def pairFmt (imm : Nat) : Fmt :=
  let m := fld imm 6 2
  if m = 0 then e4m3 else if m = 1 then bf16 else if m = 2 then f16 else if bitOf imm 8 then f16 else bf16

/-- Element `i` (in elements from the tile's start) of a tile in a format. -/
def tileElem (s : State) (k t : Nat) (f : Fmt) (i : Nat) : Nat :=
  if f.w = 8 then (tileByte s k t i).toNat else (tileHalf s k t i).toNat

/-- A 4-bit code (R136) as a number: 0b1000 reads as 0 (R137). -/
def code4 (x : Nat) : Int := if x = 8 then 0 else if 8 < x then (x : Int) - 16 else x

/-- A decoded 4-bit element of a tile (R136): code times scale, exact. -/
def tileCode (s : State) (k t i : Nat) : W32 × Bool :=
  let b := (tileByte s k t (i / 2)).toNat
  let sc := look (fun _ => (0 : W16)) (core s k).opScales ((1024 * t + i / 2) / 16)
  if finiteF f16 sc.toNat then
    let d := dyOf f16 sc.toNat
    (f32Of { m := code4 (fld b (4 * (i % 2)) 4) * d.m, e := d.e }, true)
  else (0, false)

/-- Element `i` of the second operand of a shape's pair: an FP8 operand takes the key-value format of the layer (Table 8.2). -/
def secondElem (s : State) (k t imm kv i : Nat) : W32 × Bool :=
  let m := fld imm 6 2
  if m = 3 then tileCode s k t i
  else
    let f := if m = 0 then (if kv = 1 then e5m2 else e4m3) else pairFmt imm
    operandOf f (tileElem s k t f i)

/-- An FP32 word of a tile as an operand: one that is not finite is taken as +0.0, and false (R157). -/
def wordOf (x : W32) : W32 × Bool := if fin32 x then (x, true) else (0, false)

/-- The slot whose sequence a row of a tile belongs to, by its mark as a query row or as a key row. -/
def rowSlot (s : State) (k t r : Nat) : Option Nat :=
  let q := look (fun _ => 0) (core s k).qryPos (16 * t + r)
  let m := if q = 0 then look (fun _ => 0) (core s k).keyPos (16 * t + r) else q
  if m = 0 then none else some (m % 4)

/-- `n` operands that are not finite counted, recorded with `e`, and made a miss of the layer step that implicates `slots` (R141,
R157). -/
def notFinite (k : Nat) (e : ErrRec) (n : Nat) (slots : List Nat) (s : State) : State :=
  if n = 0 then s else implicateAll k slots (addMiss k (raise e (bump (clOf k) 0x410 n s)))

/-- Operands of a record's tile that are not finite, by their rows (R157). -/
def operandFaults (c : Iss) (tile : Nat) (rows : List Nat) (s : State) : State :=
  notFinite c.k (recErr s c 0x24 0 0xFFFFFFFF tile 0) rows.length
    (maskSlots c.x ++ (rows.filterMap (rowSlot s c.k tile))).dedup s

/-- The rows, `n` operands each, of the operands that are not finite. -/
def badOpRows (n : Nat) (xs : List (W32 × Bool)) : List Nat :=
  ((List.range xs.length).zip xs).filterMap fun x => if x.2.2 then none else some (x.1 / n)

/-! ### Dot products (R168, R169) -/

/-- Chunks of a dot product added in sequence, each a pairwise tree of `c` = 2^`lg` products (R169). -/
def chunkSum (lg : Nat) : Nat → W32 × Bool → List (W32 × W32) → W32 × Bool
  | 0, acc, _ => acc
  | n + 1, acc, xs =>
    let ps := (xs.take (2 ^ lg)).map fun x => fmulC x.1 x.2
    let t := treeSum lg (ps.map (·.1))
    let a := faddC acc.1 t.1
    chunkSum lg n (a.1, acc.2 || a.2 || t.2 || ps.any (·.2)) (xs.drop (2 ^ lg))

/-- Chunk width of a tile shape (R168). -/
def chunkWidth (q k d : Nat) : Nat := min d (4096 / max 1 (q * k))

/-- One dot product of a tile (R169). -/
def dotTile (q k d : Nat) (init : W32) (xs : List (W32 × W32)) : W32 × Bool :=
  let c := chunkWidth q k d
  chunkSum (Nat.log2 c) (d / max 1 c) (init, false) xs

/-- Position and slot that a row mark holds: 4 × (position + 1) + slot. -/
def markPos (m : Nat) : Nat := m / 4 - 1

/-- A key is visible to a query (R233, R247). -/
def visible (s : State) (b : Nat) (p : List Byte) (l qm km : Nat) : Bool :=
  let i := markPos qm
  let j := markPos km
  let w := atWindow p l
  qm != 0 && km != 0 && qm % 4 == km % 4 && decide (j ≤ i) && (w == 0 || decide (i < j + w)) &&
  (match slotRec s b (qm % 4) with | some r => decide ((ctx s r).keyFloor.toNat ≤ j) | none => false)

/-- The visibility mask attached to a score tile on an attention layer, with its rows' marks (R247). -/
def setMask (c : Iss) (s : State) : State :=
  let p := c.plan s
  let l := (lsOf s c.k).layer
  if !lyAttn p l then s
  else
    let m := core s c.k
    let q (r : Nat) : Nat := look (fun _ => 0) m.qryPos (16 * rTileA c.x + r)
    let kp (i : Nat) : Nat := look (fun _ => 0) m.keyPos (16 * rTileB c.x + i)
    modCore c.k (fun m => { m with
      mask := (List.range 256).foldl (fun a x =>
        put (fun _ => false) a (256 * rTileD c.x + x)
          (decide (x / 16 < shQ (rImm c.x) ∧ x % 16 < shK (rImm c.x)) && visible s c.b p l (q (x / 16)) (kp (x % 16)))) m.mask,
      qryPos := (List.range 16).foldl (fun a r => put (fun _ => 0) a (16 * rTileD c.x + r) (q r)) m.qryPos }) s

/-- SCORE (R169, R247): the Q × K dot products of length D, score (r, k) at word r × K + k of its tile. -/
def score (c : Iss) (s : State) : State :=
  let q := shQ (rImm c.x)
  let kk := shK (rImm c.x)
  let d := shD (rImm c.x)
  let f := pairFmt (rImm c.x)
  let kv := lyKv (c.plan s) (lsOf s c.k).layer
  let as := (List.range (q * d)).map fun i => operandOf f (tileElem s c.k (rTileA c.x) f i)
  let bs := (List.range (kk * d)).map fun i => secondElem s c.k (rTileB c.x) (rImm c.x) kv i
  let acc := if bitOf (rFlags c.x) 0 then (tileWords s c.k (rTileD c.x) (q * kk)).map wordOf else []
  let out := (List.range (q * kk)).map fun x =>
    let a := (as.drop (x / kk * d)).take d
    let b := (bs.drop (x % kk * d)).take d
    dotTile q kk d (acc.getD x (0, true)).1 ((a.zip b).map fun y => (y.1.1, y.2.1))
  let s1 := operandFaults c (rTileD c.x) (badOpRows kk acc)
    (operandFaults c (rTileB c.x) (badOpRows d bs) (operandFaults c (rTileA c.x) (badOpRows d as) s))
  setMask c (attClamped c.k (out.filter (·.2)).length (putTile c.k (rTileD c.x) 0 (out.map (·.1)) s1))

/-- SCORE. -/
def execScore (k : Fin 2016) (r : RecRead) (s : State) : Host.Outcome State Fault Refusal := .next (issue 0x50 score k r s)

/-! ### The online softmax (R248 to R250) -/

/-- Word of the output tiles that holds element `d` of row `r` (R170, log entry 34). -/
def outWord (q dd r d : Nat) : Nat := d / dd * (q * dd) + r * dd + d % dd

/-- The row of a state tile set: m, l, the empty flag (R248). -/
def putRow (k t r : Nat) (m l : W32) (empty : Bool) (s : State) : State :=
  putTile k t (32 + r) [if empty then 1 else 0] (putTile k t (16 + r) [l] (putTile k t r [m] s))

/-- What SMAX makes of one row with a visible key (R249): its state, its probabilities, and how many results clamped (R157). -/
structure RowStep where
  m      : W32
  l      : W32
  o      : List W32
  p      : List W32
  clamps : Nat

/-- One row of R249 over its visible keys `seen`, from the scores `st` and the row's state, in the format `f`. -/
def rowStep (f : Fmt) (kk : Nat) (seen : List Nat) (st : Nat → W32) (old : SoftRow) : RowStep :=
  let mt := (seen.drop 1).foldl (fun a j => fmax a (st j)) (st (seen.headD 0))
  let mNew := if old.empty then mt else fmax old.m mt
  let back := faddC old.m (fneg mNew)
  let alpha := if old.empty then 0 else fexp back.1
  let ds := (List.range kk).map fun i => if seen.contains i then faddC (st i) (fneg mNew) else (0, false)
  let ps := ((List.range kk).zip ds).map fun x =>
    if seen.contains x.1 then BitVec.ofNat 32 (convF f f32 (convF f32 f (fexp x.2.1).toNat).1).1 else 0
  let root := treeSum (Nat.log2 kk) ps
  let kept := fmulC alpha old.l
  let l := faddC kept.1 root.1
  let o := old.o.map (fmulC alpha)
  { m := mNew, l := l.1, o := o.map (·.1), p := ps,
    clamps := (ds.filter (·.2)).length + bit (root.2 || kept.2 || l.2 || (!old.empty && back.2)) + (o.filter (·.2)).length }

/-- One query row of SMAX (R249); a word read that is not finite is taken as +0.0 and counted (R157). -/
def softRow (c : Iss) (r : Nat) (s : State) : State :=
  let p := c.plan s
  let l := (lsOf s c.k).layer
  let q := atQ p l
  let kk := atK p l
  let dd := atD p l
  let t := rTileD c.x
  let m := core s c.k
  let seen := (List.range kk).filter fun i => look (fun _ => false) m.mask (256 * rTileA c.x + 16 * r + i)
  let real := look (fun _ => 0) m.qryPos (16 * rTileA c.x + r)
  let s0 := if real = 0 then s else modCore c.k (fun m => { m with qryPos := put (fun _ => 0) m.qryPos (16 * t + r) real }) s
  if seen.isEmpty then putTile c.k (rTileA c.x) (r * kk) (List.replicate kk 0) s0
  else
    let st (i : Nat) : W32 × Bool := wordOf (tileWord s c.k (rTileA c.x) (r * kk + i))
    let empty := tileWord s c.k t (32 + r) != 0
    let m0 := if empty then ((0 : W32), true) else wordOf (tileWord s c.k t r)
    let l0 := wordOf (tileWord s c.k t (16 + r))
    let os := (List.range (atDh p l)).map fun d => wordOf (tileWord s c.k (t + 1) (outWord q dd r d))
    let x := rowStep (qFmt p l) kk seen (fun i => (st i).1) { m := m0.1, l := l0.1, empty := empty, o := os.map (·.1) }
    let s1 := operandFaults c (rTileA c.x) ((seen.filter fun i => !(st i).2).map fun _ => r) s0
    let s2 := operandFaults c t (((m0 :: l0 :: os).filter (!·.2)).map fun _ => r) s1
    let s3 := ((List.range (atDh p l)).zip x.o).foldl (fun s y => putTile c.k (t + 1) (outWord q dd r y.1) [y.2] s)
      (putRow c.k t r x.m x.l false s2)
    attClamped c.k x.clamps (putTile c.k (rTileA c.x) (r * kk) x.p s3)

/-- SMAX (R249): every query row of the score tile. -/
def smax (c : Iss) (s : State) : State := upto (atQ (c.plan s) (lsOf s c.k).layer) (softRow c) s

/-- SMAX. -/
def execSmax (k : Fin 2016) (r : RecRead) (s : State) : Host.Outcome State Fault Refusal := .next (issue 0x51 smax k r s)

/-- VALUE (R170): each output takes the pairwise tree of its K products, added to its accumulator. -/
def value (c : Iss) (s : State) : State :=
  let q := shQ (rImm c.x)
  let kk := shK (rImm c.x)
  let d := shD (rImm c.x)
  let kv := lyKv (c.plan s) (lsOf s c.k).layer
  let ps := (tileWords s c.k (rTileA c.x) (q * kk)).map wordOf
  let vs := (List.range (kk * d)).map fun i => secondElem s c.k (rTileB c.x) (rImm c.x) kv i
  let acc := (tileWords s c.k (rTileD c.x) (q * d)).map wordOf
  let out := (List.range (q * d)).map fun x =>
    let prods := (List.range kk).map fun i => fmulC (ps.getD (x / d * kk + i) (0, true)).1 (vs.getD (i * d + x % d) (0, true)).1
    let t := treeSum (Nat.log2 kk) (prods.map (·.1))
    let a := faddC (acc.getD x (0, true)).1 t.1
    (a.1, a.2 || t.2 || prods.any (·.2))
  let s1 := operandFaults c (rTileD c.x) (badOpRows d acc)
    (operandFaults c (rTileB c.x) (badOpRows d vs) (operandFaults c (rTileA c.x) (badOpRows kk ps) s))
  attClamped c.k (out.filter (·.2)).length (putTile c.k (rTileD c.x) 0 (out.map (·.1)) s1)

/-- VALUE. -/
def execValue (k : Fin 2016) (r : RecRead) (s : State) : Host.Outcome State Fault Refusal := .next (issue 0x52 value k r s)

/-! ### Merging (R251, R252) -/

/-- The state rows of a state tile and its output tiles. -/
def stateRows (s : State) (k t : Nat) (p : List Byte) (l : Nat) : List SoftRow :=
  (List.range (atQ p l)).map fun r =>
    { m := tileWord s k t r, l := tileWord s k t (16 + r), empty := tileWord s k t (32 + r) != 0,
      o := (List.range (atDh p l)).map fun d => tileWord s k (t + 1) (outWord (atQ p l) (atD p l) r d) }

/-- A row with every word that is not finite taken as +0.0, and how many those are (R157); an empty row is not read. -/
def cleanRow (x : SoftRow) : SoftRow × Nat :=
  if x.empty then (x, 0)
  else
    let w := [wordOf x.m, wordOf x.l] ++ x.o.map wordOf
    ({ x with m := (wordOf x.m).1, l := (wordOf x.l).1, o := x.o.map fun o => (wordOf o).1 }, (w.filter (!·.2)).length)

/-- Two weighted terms added: fp32(fp32(x · a) + fp32(y · b)), and whether a line clamped. -/
def blend (x a y b : W32) : W32 × Bool :=
  let u := fmulC x a
  let v := fmulC y b
  let t := faddC u.1 v.1
  (t.1, u.2 || v.2 || t.2)

/-- The incoming and the core's own state of one row combined (R251), with how many results clamped. -/
def mergeRow (a b : SoftRow) : SoftRow × Nat :=
  if b.empty then (a, 0)
  else if a.empty then (b, 0)
  else
    let m := fmax a.m b.m
    let da := faddC a.m (fneg m)
    let db := faddC b.m (fneg m)
    let fa := fexp da.1
    let fb := fexp db.1
    let l := blend fa a.l fb b.l
    let o := (a.o.zip b.o).map fun x => blend fa x.1 fb x.2
    ({ m := m, l := l.1, empty := false, o := o.map (·.1) }, (o.filter (·.2)).length + bit (l.2 || da.2 || db.2))

/-- A finished row written over a state tile and its output tiles. -/
def writeRow (k t : Nat) (p : List Byte) (l : Nat) (r : Nat) (x : SoftRow) (s : State) : State :=
  ((List.range (atDh p l)).zip x.o).foldl (fun s y => putTile k (t + 1) (outWord (atQ p l) (atD p l) r y.1) [y.2] s)
    (putRow k t r x.m x.l x.empty s)

/-- A row finished (R251, R252): each output divided by l, and a row that saw no key +0.0. -/
def finished (dh : Nat) (x : SoftRow) : SoftRow :=
  if x.empty then { x with l := 0, o := List.replicate dh 0 } else { x with o := x.o.map fun o => fdiv o x.l }

/-- The end of a head's result (R251, R252): a row that saw no key counts where it holds a query. -/
def finishRow (k t : Nat) (p : List Byte) (l : Nat) (r : Nat) (x : SoftRow) (s : State) : State :=
  let real := look (fun _ => 0) (core s k).qryPos (16 * t + r) != 0
  let s1 := writeRow k t p l r (finished (atDh p l) x) s
  if x.empty ∧ real then bump (clOf k) 0x728 1 s1 else s1

/-- A state received joins the status of the core's layer step (R117, R251). -/
def takeStatus (k : Nat) (st : CoreStatus) (s : State) : State :=
  modLs k (fun l => { l with inDirty := l.inDirty || st.dirty, inImpl := l.inImpl ||| st.impl }) s

/-- The rows of a MERGE's own state and of the one received, made finite and combined; the words that were not are recorded, and the
clamps counted (R157, R251). -/
def mergeRows (b k : Nat) (w : MergeWait) (inn : Option MergeMsg) (s : State) : List SoftRow × State :=
  let p := planOf s b
  let l := (lsOf s k).layer
  let own : List (SoftRow × Nat) := (stateRows s k w.tile p l).map cleanRow
  let got : List (SoftRow × Nat) := match inn with | none => [] | some m => m.rows.map cleanRow
  let rows : List (SoftRow × Nat) := match inn with
    | none => own.map fun x => (x.1, 0)
    | some _ => (got.zip own).map fun x => mergeRow x.1.1 x.2.1
  let bad := ((List.range (own ++ got).length).zip (own ++ got)).filter fun x => x.2.2 != 0
  let slots := (bad.filterMap fun x => rowSlot s k w.tile (x.1 % max 1 own.length)).dedup
  let e : ErrRec := { coreErr s k b none 0x24 0 0xFFFFFFFF w.tile 0 with
    record := BitVec.ofNat 14 w.idx, wide := w.wide, recordValid := true }
  (rows.map (·.1),
   attClamped k (rows.foldl (fun a x => a + x.2) 0) (notFinite k e (bad.foldl (fun a x => a + x.2.2) 0) slots s))

/-- A MERGE's wait is over, and its tiles are free (R173). -/
def endMergeWait (k : Nat) (w : MergeWait) (s : State) : State :=
  modCore k (fun q => { q with mergeWait := none, tileUse := q.tileUse &&& ~~~(tileBits ((List.range w.cnt).map (w.tile + ·))) }) s

/-- A MERGE goes on with the states it needs (R251): combined, then finished or sent to the next core, which may be waiting for it. In
ring split the finished result goes to the other members once the layer step commits (R117), and a core that sends its state on keeps
its tiles in use for it (R258). The fuel bounds the cores of a chain. -/
def mergeOn (b : Nat) : Nat → Nat → MergeWait → Option MergeMsg → State → State
  | 0, _, _, _, s => s
  | fuel + 1, k, w, inn, s =>
    let p := planOf s b
    let l := (lsOf s k).layer
    let rs := mergeRows b k w inn (match inn with | none => s | some m => takeStatus k m.status s)
    let s1 := rs.2
    if opSpace w.peer.toNat ≠ 7 then
      let s2 := ((List.range rs.1.length).zip rs.1).foldl (fun s x => finishRow k w.tile p l x.1 x.2 s) s1
      if ringSplit p l then
        -- what the members receive is a clean result: it goes out when the combined status is clean (R117)
        let d : MergeMsg := { rows := rs.1.map (finished (atDh p l)), status := { dirty := false, impl := 0 }, final := true }
        if (lsOf s2 k).opened then modLs k (fun q => { q with finals := q.finals ++ [d] }) s2 else sendFinal b k d s2
      else s2
    else
      let d : MergeMsg := { rows := rs.1, status := coreStatus s1 k b }
      let s2 := if ringSplit p l then
          modCore k (fun q => { q with mergeOuts := q.mergeOuts ++ [{ tile := w.tile, cnt := w.cnt, layer := l }]
                                       tileUse := q.tileUse ||| tileBits ((List.range w.cnt).map (w.tile + ·)) }) s1
        else s1
      match peerCore s2 b w.peer.toNat with
      | some m =>
        (match (core s2 m).mergeWait with
         | some v => mergeOn b fuel m v (some d) (endMergeWait m v s2)
         | none => modCore m (fun q => { q with mergeIn := q.mergeIn ++ [d] }) s2)
      | none =>
        if peerAway s2 b w.peer.toNat then
          sendPart b (opOff w.peer.toNat % 512) true (d.rows.map rowBytes) (emit (.merge k w.peer d) s2)
        else s2

/-- One MERGE waits at a time on a core. -/
def mergeReady (c : Iss) (s : State) : Bool := (core s c.k).mergeWait.isNone

/-- MERGE (R251): with LEN not 0 it waits for the preceding core's state, its tiles in use (R173). -/
def mergeRec (c : Iss) (s : State) : State :=
  let w : MergeWait := { tile := rTileA c.x, cnt := rCntA c.x, peer := BitVec.ofNat 32 (rOpB c.x), idx := c.idx, wide := c.wide,
                         stream := streamOf (c.plan s) c.wide c.x, due := dueAt s c }
  if rLen c.x = 0 then mergeOn c.b 2016 c.k w none s
  else
    match (core s c.k).mergeIn with
    | d :: t => mergeOn c.b 2016 c.k w (some d) (modCore c.k (fun q => { q with mergeIn := t }) s)
    | [] => modCore c.k (fun q => { q with
        mergeWait := some w, tileUse := q.tileUse ||| tileBits (tilesNamed c.x) }) s

/-- MERGE. -/
def execMerge (k : Fin 2016) (r : RecRead) (s : State) : Host.Outcome State Fault Refusal :=
  .next (issueTo 0x53 true mergeReady mergeRec k r s)

/-- The finished result of a ring split layer reaches a core that sent its state on (R258): the same bits on every member, laid out by
the layer that the core sent it for. -/
def takeMerged (b k : Nat) (d : MergeMsg) (s : State) : State :=
  match (core s k).mergeOuts with
  | [] => s
  | t :: ts =>
    let s1 := modCore k (fun q => { q with
      mergeOuts := ts, tileUse := q.tileUse &&& ~~~(tileBits ((List.range t.cnt).map (t.tile + ·))) }) s
    ((List.range d.rows.length).zip d.rows).foldl (fun s x => writeRow k t.tile (planOf s b) t.layer x.1 x.2 s) s1

/-- MERGE_STATE_ARRIVAL (R251, R258): a state, or in ring split the finished result, from another part. -/
def execMergeStateArrival (k : Fin 2016) (d : MergeMsg) (s : State) : Host.Outcome State Fault Refusal :=
  .next (
    match boundOf s k, (core s k).mergeWait with
    | none, _ => s
    | some b, w =>
      if d.final then takeMerged b k d s
      else
        match w with
        | some w => mergeOn b 2016 k w (some d) (endMergeWait k w s)
        | none => modCore k (fun q => { q with mergeIn := q.mergeIn ++ [d] }) s)

/-! ### Overflow layers (R171, R223) -/

/-- D-tiles of one long dot product, each under R169 from the last one's result (R171). -/
def dTileSum (q k d : Nat) : Nat → W32 × Bool → List (W32 × W32) → W32 × Bool
  | 0, acc, _ => acc
  | n + 1, acc, xs =>
    let r := dotTile q k d acc.1 (xs.take d)
    dTileSum q k d n (r.1, acc.2 || r.2) (xs.drop d)

/-- The frames of the overflow weights region whose weights are not finite, with how many in each (R157). -/
def weightFrames (c : Iss) (s : State) (n : Nat) (bs : List (W32 × Bool)) : List (Nat × Nat) :=
  let fs := spaceFrames s c.b (opSpace (rOpB c.x))
  let at_ := ((List.range bs.length).zip bs).filterMap fun x =>
    if x.2.2 then none
    else
      let e := x.1 % n
      (regionAddr fs (spaceByte s c.b (rOpB c.x) + 4096 * (e / 256) + 256 * (x.1 / n) + e % 256)).map (· / 65536)
  at_.dedup.map fun f => (f, (at_.filter (· == f)).length)

/-- OVF (R171, R223): Q token rows of LEN × D elements against K output columns, added to tile word r × K + u. -/
def ovf (c : Iss) (s : State) : State :=
  let q := shQ (rImm c.x)
  let kk := shK (rImm c.x)
  let d := shD (rImm c.x)
  let n := rLen c.x * d
  let f := pairFmt (rImm c.x)
  let rd := readOp c.k c.b (rOpB c.x) (ovfBytes (rImm c.x) (rLen c.x)) s
  let s0 := rd.2
  let as := (List.range (q * n)).map fun i => operandOf f (tileElem s0 c.k (rTileA c.x) f i)
  let bs := (List.range (kk * n)).map fun i =>
    let e := i % n
    operandOf e4m3 (rd.1.getD (4096 * (e / 256) + 256 * (i / n) + e % 256) 0).toNat
  let acc := (tileWords s0 c.k (rTileD c.x) (q * kk)).map wordOf
  let out := (List.range (q * kk)).map fun x =>
    let a := (as.drop (x / kk * n)).take n
    let b := (bs.drop (x % kk * n)).take n
    dTileSum q kk d (rLen c.x) ((acc.getD x (0, true)).1, false) ((a.zip b).map fun y => (y.1.1, y.2.1))
  let s1 := operandFaults c (rTileD c.x) (badOpRows kk acc) (operandFaults c (rTileA c.x) (badOpRows n as) s0)
  let s2 := forAll (weightFrames c s0 n bs) (fun f s => notFinite c.k (recErr s c 0x24 0 f.1 0xFFFFFFFF 0) f.2 (maskSlots c.x) s) s1
  attClamped c.k (out.filter (·.2)).length (putTile c.k (rTileD c.x) 0 (out.map (·.1)) s2)

/-- OVF. -/
def execOvf (k : Fin 2016) (r : RecRead) (s : State) : Host.Outcome State Fault Refusal := .next (issue 0x54 ovf k r s)

end Sys2Proof.Machine
end

