-- ==== Sys2Proof/Machine/KvCache.lean ====
section
/-! DEFINITION. The key-value cache (R228 to R246, R254 to R259): the walk and its translation store, fetching and appending,
ring blocks, and copy-on-write's end: WALK, KVFETCH, KVAPPEND, RING_BLOCK_ARRIVAL and COPY_COMPLETE. -/

namespace Sys2Proof.Machine

/-! ### Partitions and streams (R228, R254, R255) -/

/-- The place of a plan core in a layer's partition. -/
def partIndex (p : List Byte) (l i : Nat) : Nat := ((partCores p l).filter (· < i)).length

/-- First key-value head and number of heads that partition core `j` of a layer serves (R254, R255). -/
def headsOf (p : List Byte) (l j : Nat) : Nat × Nat :=
  let hkv := atHkv p l
  let part := max 1 (atPart p l)
  if attn p l 9 1 = 1 then (j / max 1 (atS p l) * (atHq p l * atS p l / part) * hkv / max 1 (atHq p l), 1)
  else if hkv % part = 0 then (j * hkv / part, hkv / part)
  else (j * hkv / part, 1)

/-- The streams that partition core `j` of a layer walks: stream, first head within the page, heads served less 1. -/
def streamsOf (p : List Byte) (l j : Nat) : List (Nat × Nat × Nat) :=
  let h := headsOf p l j
  let g := max 1 (atG p l)
  (List.range ((h.1 + h.2 - 1) / g + 1 - h.1 / g)).map fun i =>
    let set := h.1 / g + i
    let lo := max h.1 (set * g)
    (streamBase p l + set, lo - set * g, min (h.1 + h.2) (set * g + g) - lo - 1)

/-- A core walks a page: its member's share in split mode, and this part's pages where the layer uses a ring (R233, R256). -/
def walksPage (s : State) (b : Nat) (p : List Byte) (l j pg : Nat) : Bool :=
  holdsPage s b l pg && (attn p l 9 1 == 0 || pg % max 1 (atS p l) == j % max 1 (atS p l))

/-! ### The translation store (R238 to R240) -/

/-- The set of a key (R238). -/
def tsSet (c stream pg : Nat) : Nat := (pg + 7 * stream + 13 * c) % 32

/-- The way of its set that maps a key for a binding, if one does. -/
def tsFind (s : State) (k b c stream pg : Nat) : Option (Nat × TsEntry) :=
  (List.range 8).findSome? fun w =>
    match look (fun _ => none) (core s k).ts (8 * tsSet c stream pg + w) with
    | some e => if e.ctx = c ∧ e.stream = stream ∧ e.page = pg ∧ e.tenant.toNat = b then some (w, e) else none
    | none => none

/-- A way marked most recently used. -/
def touchWay (k set w : Nat) (s : State) : State :=
  modCore k (fun q => { q with lru := put (fun _ => []) q.lru set ((look (fun _ => []) q.lru set).filter (· != w) ++ [w]) }) s

/-- An entry joins the tail of its binding's overflow share, whose head is dropped when it is full (R239). -/
def joinOvf (b : Nat) (e : TsEntry) (s : State) : State :=
  let cap := 64 * (entry s b).tsOvf.toNat
  modBrun b (fun r =>
    let q := r.ovfShare ++ [(e.ctx, e.stream, e.page, e.frame, e.shared)]
    { r with ovfShare := q.drop (q.length - cap) }) s

/-- A new entry takes the lowest free way of its set, or the one least recently used, whose entry joins the overflow share
(R239). -/
def tsInsert (k b : Nat) (e : TsEntry) (s : State) : State :=
  let set := tsSet e.ctx e.stream e.page
  let at_ (w : Nat) : Option TsEntry := look (fun _ => none) (core s k).ts (8 * set + w)
  let w := match (List.range 8).find? fun w => (at_ w).isNone with
    | some w => w
    | none => ((look (fun _ => []) (core s k).lru set).head?).getD 0
  let s1 := match at_ w with | some old => joinOvf b old s | none => s
  touchWay k set w (modCore k (fun q => { q with ts := put (fun _ => none) q.ts (8 * set + w) (some e) }) s1)

/-! ### Page tables under the walk (R230, R237) -/

/-- An uncorrectable read met the entry at index `i` of a frame while the record ran (R487). -/
def entryBad (c : Iss) (f i : Nat) : Bool :=
  c.faults.any fun u => match u with | .memBad g q => g.toNat == f && q.toNat / 8 == i | _ => false

/-- The page-fault cause that the entry at index `i` of frame `f` of a page table gives, in the order of R237. -/
def entryCause (s : State) (c : Iss) (table : Bool) (f i : Nat) : Option Nat :=
  let v := pte s c.b f i
  if entryBad c f i then some 4
  else if !pteValid v then some 0
  else if 4 * framesPerBridge s ≤ pteFrame v then some 1
  else if owner s (pteFrame v) ≠ .tenant c.b then some 2
  else if v / 2 ^ (if table then 26 else 25) ≠ 0 then some 3
  else none

/-- A page fault (R237): counted and recorded; the sequence's vectors leave the step, and its command ends with PAGE_FAULT at
the boundary. -/
def pageFault (c : Iss) (slot rec stream pg cause : Nat) (s : State) : State :=
  let s1 := removeSlot c.b slot (modCtxRun rec (fun r => { r with endWith := some 0x0F }) (bump (clOf c.k) 0x720 1 s))
  raise { recErr s1 c 0x50 1 stream pg cause with context := BitVec.ofNat 32 rec } s1

/-- What a lookup finds: the fault's cause, or the frame and SHARED; and the directory entry the walk now holds. -/
structure Found where
  cause  : Option Nat
  frame  : Nat
  shared : Bool
  dir    : Option (Nat × Nat)

/-- The table frame of a page, read through the root and directory entries, unless the walk holds the directory entry (R237, R239);
or the cause of the first faulty one. -/
def tableOf (c : Iss) (rec stream pg : Nat) (dir : Option (Nat × Nat)) (s : State) : Except Nat Nat × State :=
  match (match dir with | some (d, t) => if d = pg / 8192 then some t else none | none => none) with
  | some t => (.ok t, s)
  | none =>
    let root := (ctx s rec).root.toNat
    match entryCause s c false root stream with
    | some e => (.error e, if owner s root = .tenant c.b then s else ownerStop c.k c.b root (8 * stream / 256) false s)
    | none =>
      let f := pteFrame (pte s c.b root stream)
      (match entryCause s c false f (pg / 8192) with | some e => .error e | none => .ok (pteFrame (pte s c.b f (pg / 8192))),
       bump (clOf c.k) 0x71C 1 s)

/-- The table entry of a page read after a miss (R237, R239): the root and directory entries first, unless the walk holds the
directory entry. -/
def readTable (c : Iss) (rec stream pg : Nat) (dir : Option (Nat × Nat)) (s : State) : Found × State :=
  let fault (e : Nat) : Found := { cause := some e, frame := 0, shared := false, dir := dir }
  let t := tableOf c rec stream pg dir s
  match t.1 with
  | .error e => (fault e, t.2)
  | .ok f =>
    let e := pte t.2 c.b f (pg % 8192)
    let s1 := bump (clOf c.k) 0x714 1 t.2
    match entryCause s1 c true f (pg % 8192) with
    | some x => (fault x, s1)
    | none =>
      ({ cause := none, frame := pteFrame e, shared := pteShared e, dir := some (pg / 8192, f) },
       tsInsert c.k c.b { ctx := rec, stream := stream, page := pg, frame := pteFrame e, shared := pteShared e,
                          tenant := BitVec.ofNat 12 c.b } s1)

/-- A page looked up (R239): the core's share, then the overflow share, then the page table. Where two cores have put an equal entry in the
overflow share, a hit takes out both (DESIGN CHOICE, log entry 158). -/
def lookupPage (c : Iss) (rec stream pg : Nat) (dir : Option (Nat × Nat)) (s : State) : Found × State :=
  match tsFind s c.k c.b rec stream pg with
  | some (w, e) =>
    ({ cause := none, frame := e.frame, shared := e.shared, dir := dir },
     touchWay c.k (tsSet rec stream pg) w (bump (clOf c.k) 0x708 1 s))
  | none =>
    match (brun s c.b).ovfShare.find? fun x => x.1 == rec && x.2.1 == stream && x.2.2.1 == pg with
    | some x =>
      let s1 := modBrun c.b (fun r => { r with ovfShare := r.ovfShare.filter (· != x) }) (bump (clOf c.k) 0x710 1 s)
      ({ cause := none, frame := x.2.2.2.1, shared := x.2.2.2.2, dir := dir },
       tsInsert c.k c.b { ctx := rec, stream := stream, page := pg, frame := x.2.2.2.1, shared := x.2.2.2.2,
                          tenant := BitVec.ofNat 12 c.b } s1)
    | none => readTable c rec stream pg dir s

/-! ### The walk (R233 to R235) -/

/-- The visible positions of a slot's record in this step, from the first to one past the last (R233). -/
def visibleRange (s : State) (b rec slot l : Nat) : Nat × Nat :=
  let len := (ctx s rec).length.toNat
  let w := atWindow (planOf s b) l
  (max (ctx s rec).keyFloor.toNat (if w = 0 then 0 else len + 1 - w), len + slotFed s b slot)

/-- A walk of one stream: where it stands, the tokens still wanted, the descriptors so far and the directory entry held. -/
structure Walk where
  next  : Nat
  left  : Nat
  descs : List PageDesc
  dir   : Option (Nat × Nat)
  fault : Option (Nat × Nat)

/-- A walk pin on the node whose frame a walk's descriptor names, one for a sequence and step (R278). -/
def walkPin (b rec stream frame : Nat) (s : State) : State :=
  match (brun s b).tree.find? fun x => match x.2 with | some y => y.frames.contains (stream, frame) | none => false with
  | none => s
  | some x =>
    if (ctxRun s rec).walked.contains x.1 then s
    else modNode b x.1 (fun y => { y with pins := y.pins + 1 }) (modCtxRun rec (fun r => { r with walked := r.walked ++ [x.1] }) s)

/-- One page of a walk: skipped where the core does not walk it; else looked up and its next visible tokens described. -/
def walkPage (c : Iss) (slot rec l j : Nat) (st : Nat × Nat × Nat) (stop : Nat) (w : Walk × State) : Walk × State :=
  let p := c.plan w.2
  let t := atT p l
  let pg := w.1.next / t
  if w.1.fault.isSome ∨ w.1.left = 0 ∨ stop ≤ w.1.next then w
  else if !walksPage w.2 c.b p l j pg then ({ w.1 with next := (pg + 1) * t }, w.2)
  else
    let f := lookupPage c rec st.1 pg w.1.dir w.2
    match f.1.cause with
    | some e => ({ w.1 with fault := some (pg, e) }, f.2)
    | none =>
      let n := min w.1.left (min ((pg + 1) * t) stop - w.1.next)
      let d : PageDesc := { frame := f.1.frame, shared := f.1.shared, last := false, first := w.1.next % t, count := n,
                            pos := pg * t, head := st.2.1, heads := st.2.2, slot := slot, tenant := BitVec.ofNat 12 c.b,
                            image := none, kRead := 0, vRead := 0 }
      ({ w.1 with next := w.1.next + n, left := w.1.left - n, descs := w.1.descs ++ [d], dir := f.1.dir },
       if f.1.shared then walkPin c.b rec st.1 f.1.frame f.2 else f.2)

/-- LAST set on the last descriptor (Table 8.4). -/
def markLast : List PageDesc → List PageDesc
  | [] => []
  | [d] => [{ d with last := true }]
  | d :: t => d :: markLast t

/-- One stream of a slot walked on from where it stopped (R234). A page fault emits nothing and removes the sequence. -/
def walkStream (c : Iss) (slot rec l j : Nat) (st : Nat × Nat × Nat) (s : State) : State :=
  let t := atT (c.plan s) l
  let r := visibleRange s c.b rec slot l
  let key := 8192 * slot + st.1
  let cur := match look (fun _ => none) (core s c.k).walks key with
    | some w => if w.layer = l then (w.next, w.dir) else (r.1, none)
    | none => (r.1, none)
  let w0 : Walk := { next := cur.1, left := rLen c.x, descs := [], dir := cur.2, fault := none }
  let w := upto (r.2 / t + 1 - cur.1 / t) (fun _ w => walkPage c slot rec l j st r.2 w) (w0, s)
  match w.1.fault with
  | some f => pageFault c slot rec st.1 f.1 f.2 w.2
  | none =>
    bump (clOf c.k) 0x700 w.1.descs.length
      (modCore c.k (fun q => { q with
        walks := put (fun _ => none) q.walks key (some { layer := l, next := w.1.next, dir := w.1.dir }),
        fetchQ := q.fetchQ ++ w.1.descs }) w.2)

/-- A slot's streams walked in turn; a slot whose sequence has left the step, or feeds nothing, walks nothing. -/
def walkSlot (c : Iss) (l j slot : Nat) (s : State) : State :=
  match slotRec s c.b slot with
  | none => s
  | some rec => forAll (streamsOf (c.plan s) l j) (fun st s => if slotFed s c.b slot = 0 then s else walkStream c slot rec l j st s) s

/-- A page descriptor as Table 8.4 lays it out. -/
def descBits (d : PageDesc) : BitVec 128 :=
  BitVec.ofNat 128 (d.frame + bit d.shared * 2 ^ 25 + bit d.last * 2 ^ 26 + d.first * 2 ^ 32 + d.count * 2 ^ 48 + d.pos * 2 ^ 64
    + d.head * 2 ^ 96 + d.heads * 2 ^ 100 + d.slot * 2 ^ 104 + d.tenant.toNat * 2 ^ 112)

/-- The pages of one stream of a slot that a core walks, as a ring block carries them (R257): descriptors with FRAME 0, and page
images. -/
def blockPages (s : State) (c : Iss) (l j slot rec : Nat) (st : Nat × Nat × Nat) : List (BitVec 128 × List Byte) :=
  let p := c.plan s
  let t := atT p l
  let r := visibleRange s c.b rec slot l
  ((List.range (ceilDiv r.2 t - r.1 / t)).map (r.1 / t + ·)).filterMap fun pg =>
    let e := pageEntry s c.b (ctx s rec).root.toNat st.1 pg
    if walksPage s c.b p l j pg ∧ pteValid e ∧ owner s (pteFrame e) = .tenant c.b then
      let lo := max r.1 (pg * t)
      let d : PageDesc := { frame := 0, shared := pteShared e, last := false, first := lo % t, count := min r.2 ((pg + 1) * t) - lo,
                            pos := pg * t, head := st.2.1, heads := st.2.2, slot := slot, tenant := BitVec.ofNat 12 c.b,
                            image := none, kRead := 0, vRead := 0 }
      some (descBits d, memBytes s (65536 * pteFrame e) (pageUsed p l))
    else none

/-- The core's own block of a rotation-mode layer (R257): the pages of the layer step's streams that it walks. -/
def ownBlock (s : State) (c : Iss) (l j : Nat) : RingBlk :=
  { round := 1, linkOk := true,
    pages := (List.range 4).flatMap fun i => match slotRec s c.b i with
      | none => []
      | some rec => if slotFed s c.b i = 0 then [] else (streamsOf (c.plan s) l j).flatMap (blockPages s c l j i rec) }

/-- The payload of a ring block's page: its descriptor and 65,536 bytes (Table 10.5). -/
def pageMsg (x : BitVec 128 × List Byte) : List Byte := leBytes 16 x.1.toNat ++ (x.2 ++ List.replicate 65536 0).take 65536

/-- A ring block goes to the next member of the layer's ring (R257, R315). -/
def passBlock (b k l : Nat) (d : RingBlk) (s : State) : State :=
  let p := planOf s b
  let n := max 1 (atRing p l)
  let head := attn p l 28 2 % 512
  let next := (head + ((entry s b).planPart.toNat + n - head % n + 1) % n) % max 1 (plParts p)
  sendPart b next true (d.pages.map pageMsg) (bump (clOf k) 0x72C 1 (emit (.ringBlk k d) s))

/-- The layer uses a ring in rotation mode (R257). -/
def rotation (p : List Byte) (l : Nat) : Bool := decide (1 < atRing p l) && attn p l 26 1 == 0

/-- The core's own block goes downstream for round 1 (R257), once in a run: at the first WALK behind the last append of the layer step, so
that it carries the keys and values of this step (R243; DEDUCED, log entry 159). -/
def sendOwnBlock (c : Iss) (l : Nat) (s : State) : State :=
  let p := c.plan s
  let appends : Bool := (stepLeft s c.k c.b c.i).any fun y => rOp y.1.x == 0x62 && rLayer y.1.x == l
  if !rotation p l ∨ (lsOf s c.k).sentOwn ∨ appends then s
  else passBlock c.b c.k l (ownBlock s c l (partIndex p l c.i)) (modLs c.k (fun q => { q with sentOwn := true }) s)

/-- LAST set on the last descriptor that a WALK emits (Table 8.4): of those behind the first `n` of the fetcher. -/
def markEmitted (k n : Nat) (s : State) : State :=
  modCore k (fun q => { q with fetchQ := q.fetchQ.take n ++ markLast (q.fetchQ.drop n) }) s

/-- WALK (R233 to R240). -/
def walk (c : Iss) (s : State) : State :=
  let l := rLayer c.x
  let p := c.plan s
  if !lyAttn p l then s
  else markEmitted c.k (core s c.k).fetchQ.length
    (forAll (maskSlots c.x) (walkSlot c l (partIndex p l c.i)) (sendOwnBlock c l s))

/-- The fetcher has room for the descriptors that a WALK emits (R235). -/
def walkReady (c : Iss) (s : State) : Bool := decide ((core (walk c s) c.k).fetchQ.length ≤ 64)

/-- WALK. -/
def execWalk (k : Fin 2016) (r : RecRead) (s : State) : Host.Outcome State Fault Refusal :=
  .next (issueTo 0x60 true walkReady walk k r s)

/-! ### Page layout (R229) -/

/-- Element bytes of a token and head: EB. -/
def elemBytes (p : List Byte) (l : Nat) : Nat := if lyKv p l = 2 then atDh p l / 2 else atDh p l

/-- The token's place in its page: token t of head g, keys or values. -/
def pageSlot (p : List Byte) (l : Nat) (val : Bool) (g t : Nat) : Nat := (if val then atG p l + g else g) * atT p l + t

/-- First code byte of a token and head in its page. -/
def codeByte (p : List Byte) (l : Nat) (val : Bool) (g t : Nat) : Nat := pageSlot p l val g t * elemBytes p l

/-- First scale byte of a token and head in its page (4-bit format). -/
def scaleByte (p : List Byte) (l : Nat) (val : Bool) (g t : Nat) : Nat :=
  2 * atG p l * atT p l * elemBytes p l + pageSlot p l val g t * (atDh p l / 16)

/-! ### Fetching (R236, R246) -/

/-- A row that a fetch reads: the descriptor and the token of its page. -/
abbrev FetchRow := PageDesc × Nat

/-- Up to `n` token rows taken from the descriptors in order, those of slots outside the mask passed over; and what is left of
the fetcher: a descriptor leaves once all its tokens have been read as keys and as values (R246). -/
def takeRows (mask : Nat) (val : Bool) : Nat → List PageDesc → List FetchRow × List PageDesc
  | _, [] => ([], [])
  | n, d :: t =>
    if !bitOf mask d.slot then
      let r := takeRows mask val n t
      (r.1, d :: r.2)
    else
      let done := if val then d.vRead else d.kRead
      let m := min n ((if val then d.kRead else d.count) - done)
      let d1 := if val then { d with vRead := d.vRead + m } else { d with kRead := d.kRead + m }
      let r := takeRows mask val (n - m) t
      ((List.range m).map (fun i => (d, d.first + done + i)) ++ r.1, if d1.vRead < d1.count then d1 :: r.2 else r.2)

/-- `n` bytes of a descriptor's page from byte `q` on: its image where it came over the ring (R257), else device memory under
the frame owner check (R352). -/
def pageBytes (k b : Nat) (d : PageDesc) (q n : Nat) (s : State) : List Byte × State :=
  match d.image with
  | some im => ((List.range n).map fun i => im.getD (q + i) 0, s)
  | none =>
    if owner s d.frame = .tenant b then (memBytes s (65536 * d.frame + q) n, s)
    else (List.replicate n 0, ownerStop k b d.frame (q / 256) false s)

/-- The nibbles of code bytes, element 0 first (R136). -/
def nibblesOf (bs : List Byte) : List Nat := bs.flatMap fun x => [x.toNat % 16, x.toNat / 16]

/-- Reads of the code 0b1000 counted, recorded with the frame and the first such byte, and made a miss of the layer step that
implicates the sequence (R137, R141). -/
def codeFaults (c : Iss) (d : PageDesc) (q : Nat) (bs : List Byte) (s : State) : State :=
  let n := ((nibblesOf bs).filter (· == 8)).length
  if n = 0 then s
  else
    let i := (List.range bs.length).find? fun i => let x := (bs.getD i 0).toNat; x % 16 == 8 || x / 16 == 8
    implicate c.k (some d.slot) (addMiss c.k (raise (recErr s c 0x23 0 d.frame (q + i.getD 0) 0) (bump (clOf c.k) 0x324 n s)))

/-- A fetched row: its position mark, its codes, and the FP16 scales of its groups of 32 (R229, R136). -/
structure KvRow where
  mark   : Nat
  codes  : List Byte
  scales : List W16

/-- A row read from its page, for the `h`-th of the heads that the core serves. -/
def readRow (c : Iss) (l : Nat) (val : Bool) (h : Nat) (r : FetchRow) (s : State) : KvRow × State :=
  let p := c.plan s
  let q := codeByte p l val (r.1.head + h) r.2
  let cs := pageBytes c.k c.b r.1 q (elemBytes p l) s
  let mark := 4 * (r.1.pos + r.2 + 1) + r.1.slot
  if lyKv p l = 2 then
    let sc := pageBytes c.k c.b r.1 (scaleByte p l val (r.1.head + h) r.2) (atDh p l / 16) cs.2
    ({ mark := mark, codes := cs.1, scales := (List.range (atDh p l / 32)).map fun i => BitVec.ofNat 16 (leAt sc.1 (2 * i) 2) },
     codeFaults c r.1 q cs.1 sc.2)
  else ({ mark := mark, codes := cs.1, scales := [] }, cs.2)

/-- An absent row: zero elements (R246). -/
def absentRow (p : List Byte) (l : Nat) : KvRow :=
  { mark := 0, codes := List.replicate (elemBytes p l) 0, scales := List.replicate (if lyKv p l = 2 then atDh p l / 32 else 0) 0 }

/-- Row `r` placed in the operand tiles from tile `t` on (log entry 34), with its mark and scales. -/
def placeRow (k t r : Nat) (p : List Byte) (l : Nat) (row : KvRow) (s : State) : State :=
  let n := atK p l
  let d := max 1 (atD p l)
  let bits := if lyKv p l = 2 then 4 else 8
  let s1 := forAll (List.range (max 1 (atDh p l / d))) (fun i s =>
    putTileBytes k t (blockBit n d bits r (i * d) / 8) ((row.codes.drop (i * d * bits / 8)).take (d * bits / 8)) s) s
  let s2 := modCore k (fun q => { q with
    keyPos := (dTiles t n d bits (atDh p l)).foldl (fun m u => put (fun _ => 0) m (16 * u + r) row.mark) q.keyPos }) s1
  if bits = 8 then s2
  else modCore k (fun q => { q with
    opScales := ((List.range row.scales.length).zip row.scales).foldl (fun m x =>
      put (fun _ => 0) m ((1024 * t + blockBit n d bits r (32 * x.1) / 8) / 16) x.2) q.opScales }) s2

/-- Row values in FP32, for a fetch that names a result (R246, R136). -/
def rowValues (p : List Byte) (l : Nat) (row : KvRow) : List W32 :=
  if lyKv p l = 2 then
    let ns := nibblesOf row.codes
    (List.range ns.length).map fun i =>
      let sc := row.scales.getD (i / 32) 0
      if finiteF f16 sc.toNat then
        let d := dyOf f16 sc.toNat
        f32Of { m := code4 (ns.getD i 0) * d.m, e := d.e }
      else Config.nonFinite 5 (BitVec.ofNat 32 (ns.getD i 0)) (h2f sc)
  else
    let f := if lyKv p l = 1 then e5m2 else e4m3
    row.codes.map fun x => if finiteF f x.toNat then b2f f x else Config.nonFinite 5 (BitVec.ofNat 32 x.toNat) 0

/-- Rows read one after another; a row of a page that serves no such head is absent. -/
def readRows (c : Iss) (l : Nat) (val : Bool) (h : Nat) : List FetchRow → State → List KvRow × State
  | [], s => ([], s)
  | r :: t, s =>
    let a := if h ≤ r.1.heads then readRow c l val h r s else (absentRow (c.plan s) l, s)
    let b := readRows c l val h t a.2
    (a.1 :: b.1, b.2)

/-- The rows of one head placed (R246): in the tiles from the `h`-th block of TILE_D on, or as the `h`-th run of values at the
operand. -/
def placeRows (c : Iss) (p : List Byte) (l n h : Nat) (rows : List KvRow) (s : State) : State :=
  let k := atK p l
  let all := (rows ++ List.replicate (k - rows.length) (absentRow p l)).take k
  let bits := if lyKv p l = 2 then 4 else 8
  let t := h * ((dTiles 0 k (max 1 (atD p l)) bits (atDh p l)).length * blockTiles k (max 1 (atD p l)) bits)
  if rCntD c.x ≠ 0 then
    (if h = 0 ∨ t < rCntD c.x then
      forAll ((List.range all.length).zip all) (fun x => placeRow c.k (rTileD c.x + t) x.1 p l x.2) s
     else s)
  else if opSpace (rOpA c.x) = 0 then s
  else leaveOpAt c.k c.b (rOpA c.x) (4 * atDh p l * n * h) (wordsBytes ((all.take n).flatMap (rowValues p l))) s

/-- The round of a rotation-mode layer step that a KVFETCH works in (R257): the fetches of one kind and slot are shared out evenly over
the rounds, in recipe order (DEDUCED, log entry 159). -/
def fetchRound (c : Iss) (l : Nat) (s : State) : Nat :=
  let p := c.plan s
  let rs := recsOf p c.i c.wide
  let st := streamOf p c.wide c.x
  let same := ((List.range rs.length).zip rs).filter fun y =>
    rOp y.2 == 0x61 && rMask y.2 == rMask c.x && bitOf (rLen y.2) 15 == bitOf (rLen c.x) 15 && streamOf p c.wide y.2 == st
    && stepNo p c.i st y.1 == stepNo p c.i st c.idx
  (same.filter fun y => decide (y.1 < c.idx)).length * atRing p l / max 1 same.length

/-- A page descriptor as Table 8.4 lays it out, with the image it came with. -/
def descOf (x : Nat) (image : List Byte) : PageDesc :=
  { frame := fld x 0 24, shared := bitOf x 25, last := bitOf x 26, first := fld x 32 16, count := fld x 48 16,
    pos := fld x 64 32, head := fld x 96 4, heads := fld x 100 4, slot := fld x 104 2, tenant := BitVec.ofNat 12 (fld x 112 12),
    image := some image, kRead := 0, vRead := 0 }

/-- A round begins with the next block that arrived (R257, R315): the one before it is gone, its pages are served in order, and it goes on
downstream until it has made its n_r - 1 hops. One that failed its link check is a checksum miss of the layer step, here and on every
member behind that needed it (R259). -/
def beginRound (c : Iss) (l : Nat) (s : State) : State :=
  match (core s c.k).ringBlks with
  | [] => s
  | d :: t =>
    let s1 := bump (clOf c.k) 0x730 1 (modLs c.k (fun q => { q with
        round := q.round + 1, blkLeft := if d.linkOk then d.pages.map fun x => descOf x.1.toNat x.2 else [] })
      (modCore c.k (fun q => { q with ringBlks := t, fetchQ := [] }) s))
    let s2 := if d.linkOk then s1 else addMiss c.k s1
    if d.round + 1 < atRing (c.plan s) l then passBlock c.b c.k l { d with round := d.round + 1 } s2 else s2

/-- The rounds up to a KVFETCH's own begun, and the fetcher filled from the round's block as far as it holds (R235, R257). -/
def serveRound (c : Iss) (s : State) : State :=
  let l := (lsOf s c.k).layer
  if !lyAttn (c.plan s) l ∨ !rotation (c.plan s) l then s
  else
    let s1 := upto (fetchRound c l s - (lsOf s c.k).round) (fun _ => beginRound c l) s
    let room := 64 - (core s1 c.k).fetchQ.length
    let new := (lsOf s1 c.k).blkLeft.take room
    modLs c.k (fun q => { q with blkLeft := q.blkLeft.drop room }) (modCore c.k (fun q => { q with fetchQ := q.fetchQ ++ new }) s1)

/-- KVFETCH waits for a ring block that is late (R257, R314). -/
def fetchReady (c : Iss) (s : State) : Bool :=
  let l := (lsOf s c.k).layer
  !lyAttn (c.plan s) l || !rotation (c.plan s) l
  || decide (fetchRound c l s ≤ (lsOf s c.k).round + (core s c.k).ringBlks.length)

/-- KVFETCH (R236, R246): up to K rows from the descriptors at the head of the fetcher, for every head that the core serves; where one
of the pages it would read is another tenant's it reads nothing, and the step ends as R62 ends it. -/
def kvfetch (c : Iss) (s00 : State) : State :=
  let s := serveRound c s00
  let p := c.plan s
  let l := (lsOf s c.k).layer
  let val := bitOf (rLen c.x) 15
  let n := min (rLen c.x % 2 ^ 15) (atK p l)
  let q := (core s c.k).fetchQ
  let tk := takeRows (rMask c.x) val n q
  match tk.1.find? fun x => x.1.tenant.toNat != c.b with
  | some x =>
    endStep c.b (raise (recErr s c 0x12 1 x.1.tenant.toNat x.1.frame 0)
      (bump (clOf c.k) 0x724 1 (modCore c.k (fun m => { m with fetchQ := m.fetchQ.filter (· != x.1) }) s)))
  | none =>
    let s0 := modCore c.k (fun m => { m with fetchQ := tk.2 }) s
    let s1 := if tk.1.length < n then bump (clOf c.k) 0x734 1 s0 else s0
    forAll (List.range (fetchHeads p l)) (fun h s =>
      let rs := readRows c l val h tk.1 s
      placeRows c p l n h rs.1 rs.2) s1

/-- KVFETCH. -/
def execKvfetch (k : Fin 2016) (r : RecRead) (s : State) : Host.Outcome State Fault Refusal := .next (issueTo 0x61 false fetchReady kvfetch k r s)

/-! ### Appending (R135, R136, R138, R242) -/

/-- A value in an FP8 format (R135), and whether it was saturated; never a NaN or an infinity. -/
def kv8 (f : Fmt) (x : W32) : Byte × Bool :=
  if fin32 x then let r := convF f32 f x.toNat; (BitVec.ofNat 8 r.1, r.2)
  else (BitVec.ofNat 8 (min f.top ((Config.nonFinite 6 x 0).toNat % 128) + 128 * bit (negOf f32 x.toNat)), true)

/-- A 4-bit group of 32 (R136): its scale, codes, carries out, and codes clamped. -/
structure KvGroup where
  sig   : W16
  codes : List Int
  carry : List W16
  sats  : Nat

/-- R136 over one group of 32 elements and their carries in. -/
def kv4 (carryOn : Bool) (xs : List W32) (cin : List W16) : KvGroup :=
  let k1 := if carryOn then (xs.zip cin).map fun x => fadd x.1 (h2f x.2) else xs
  let mx := magVal f32 (k1.foldl (fun m x => fmax m (fabs x)) 0).toNat
  let sig : W16 := if k1.all fin32 then f16Up mx.1 7 mx.2
    else BitVec.ofNat 16 ((Config.nonFinite 7 (k1.getD 0 0) (k1.getD 1 0)).toNat % 0x7C00)
  let g := magVal f16 sig.toNat
  let one (x : W32) : Int × W16 × Bool :=
    if !fin32 x then
      let c : Int := ((Config.nonFinite 8 x 0).toNat % 15 : Nat) - 7
      (c, BitVec.ofNat 16 (Config.nonFinite 8 x 1).toNat, false)
    else if zeroF f16 sig.toNat then (0, f2h x, false)
    else
      let v := magVal f32 x.toNat
      let t := scaled v.1 g.1 (v.2 - g.2)
      let q := (roundEven t.1 t.2).toNat
      let m : Int := min q 7
      let code : Int := if negOf f32 x.toNat then -m else m
      let rest := dyAdd (fv x) (dyNeg { m := code * g.1, e := g.2 })
      (code, BitVec.ofNat 16 (roundDy f16 (negOf f32 x.toNat && m == 0) rest).1, decide (7 < q))
  let out := k1.map one
  { sig := sig, codes := out.map (·.1), carry := out.map (·.2.1), sats := (out.filter (·.2.2)).length }

/-- Codes packed two a byte, element 2i in bits [3:0] (R136). -/
def packCodes : List Int → List Byte
  | a :: b :: t => BitVec.ofNat 8 ((a % 16).toNat + 16 * (b % 16).toNat) :: packCodes t
  | _ => []

/-- Bytes written to a page under the frame owner check; a write to a frame of another owner is discarded. -/
def putPage (k b f q : Nat) (bs : List Byte) (s : State) : State :=
  if owner s f = .tenant b then memPut (65536 * f + q) bs s else ownerStop k b f (q / 256) true s

/-- The key-value carry into an element (R138): what an earlier token of the layer step staged, else the sequence's. -/
def kvCarryIn (s : State) (k rec slot tok l e : Nat) : W16 :=
  (staged (lsOf s k).kvCarry slot tok e).getD (look (fun _ => 0) s.srv.kvCarry (seqKey rec l e))

/-- A key-value carry out: staged with the layer step in progress of its layer, else the sequence's at once (R138; DESIGN CHOICE, log
entry 132). -/
def putKvCarry (c : Iss) (slot tok l : Nat) (x : Nat × W16) (s : State) : State :=
  let key := (64 * slot + tok) * 2 ^ 32 + x.1
  if (lsOf s c.k).opened ∧ (lsOf s c.k).layer = l then
    modLs c.k (fun q => { q with kvCarry := put (fun _ => none) q.kvCarry key (some x.2) }) s
  else commitWord c.b l 2 (key, x.2) s

/-- One head's key or value of one token written to its page (R135, R136, R229). -/
def appendHead (c : Iss) (l slot rec tok f : Nat) (val : Bool) (h pos : Nat) (xs : List W32) (s : State) : State :=
  let p := c.plan s
  let g := h % max 1 (atG p l)
  let t := pos % atT p l
  let q := codeByte p l val g t
  if lyKv p l ≠ 2 then
    let cs := xs.map (kv8 (if lyKv p l = 1 then e5m2 else e4m3))
    bump (clOf c.k) 0x320 (cs.filter (·.2)).length (putPage c.k c.b f q (cs.map (·.1)) s)
  else
    let on := lyKvCarry p l
    let first := ((if val then atHkv p l else 0) + h) * atDh p l
    upto (atDh p l / 32) (fun i s =>
      let e := first + 32 * i
      let z := kv4 on ((xs.drop (32 * i)).take 32) ((List.range 32).map fun j => kvCarryIn s c.k rec slot tok l (e + j))
      let s1 := putPage c.k c.b f (scaleByte p l val g t + 2 * i) (leBytes 2 z.sig.toNat)
        (putPage c.k c.b f (q + 16 * i) (packCodes z.codes) (bump (clOf c.k) 0x320 z.sats s))
      if on then forAll ((List.range 32).zip z.carry) (fun x => putKvCarry c slot tok l (e + x.1, x.2)) s1 else s1) s

/-- The frame that an append goes to (R242): a faulty entry on the way is its cause, and a SHARED page is cause 5. -/
def appendFrame (c : Iss) (rec stream pg : Nat) (s : State) : Except Nat Nat :=
  let root := (ctx s rec).root.toNat
  let d := pteFrame (pte s c.b root stream)
  let t := pteFrame (pte s c.b d (pg / 8192))
  match entryCause s c false root stream, entryCause s c false d (pg / 8192), entryCause s c true t (pg % 8192) with
  | some x, _, _ => .error x
  | none, some x, _ => .error x
  | none, none, some x => .error x
  | none, none, none => if pteShared (pte s c.b t (pg % 8192)) then .error 5 else .ok (pteFrame (pte s c.b t (pg % 8192)))

/-- One token's heads appended, keys and then values (R242); a page whose entry is faulty or SHARED is a page fault. -/
def appendToken (c : Iss) (l slot rec tok : Nat) (s : State) : State :=
  let p := c.plan s
  let hkv := atHkv p l
  let dh := atDh p l
  let pos := (ctx s rec).length.toNat + tok
  let pg := pos / atT p l
  if !holdsPage s c.b l pg then s
  else
    let rd := readAt c.k c.b (rOpA c.x) (8 * hkv * dh * tok) (8 * hkv * dh) s
    upto (2 * hkv) (fun i s =>
      if slotFed s c.b slot = 0 then s
      else
        let h := i % hkv
        let stream := streamBase p l + h / max 1 (atG p l)
        match appendFrame c rec stream pg s with
        | .error cause => pageFault c slot rec stream pg cause s
        | .ok f => appendHead c l slot rec tok f (decide (hkv ≤ i)) h pos ((wordsOf rd.1).drop (i * dh) |>.take dh) s) rd.2

/-- KVAPPEND (R242): the keys and values of each slot's tokens of this step. -/
def kvappend (c : Iss) (s : State) : State :=
  let l := rLayer c.x
  if !lyAttn (c.plan s) l then s
  else
    forAll (maskSlots c.x) (fun slot s =>
      match slotRec s c.b slot with
      | none => s
      | some rec => upto (slotFed s c.b slot) (appendToken c l slot rec) s) s

/-- KVAPPEND: it waits for the commit of the layer step that produced its keys and values (R242). -/
def execKvappend (k : Fin 2016) (r : RecRead) (s : State) : Host.Outcome State Fault Refusal := 
  .next (issueTo 0x62 false (fun c s => !appendWaits s c) kvappend k r s)

/-! ### Ring blocks (R257, R259) -/

/-- RING_BLOCK_ARRIVAL (R257): the block waits on its core until the round that processes it begins. -/
def execRingBlockArrival (k : Fin 2016) (d : RingBlk) (s : State) : Host.Outcome State Fault Refusal :=
  .next (if (boundOf s k).isNone then s else modCore k (fun q => { q with ringBlks := q.ringBlks ++ [d] }) s)

/-! ### Copy-on-write (R279) -/

/-- The used bytes of each frame of a node copied to the record's own page of the same stream. -/
def copyPages (b rec pg : Nat) (y : Node) (s : State) : State :=
  forAll y.frames (fun q s =>
    let e := pageEntry s b (ctx s rec).root.toNat q.1 pg
    let used := match (streams (planOf s b)).find? fun x => x.1 == q.1 with | some x => pageUsed (planOf s b) x.2.1 | none => 0
    if !pteValid e then s
    else
      let bs := memOf s b (65536 * q.2) used
      putOf b (65536 * pteFrame e) bs (readChecked b q.2 s)) s

/-- COPY_COMPLETE (R279): the copied page is whole, COPYING clears and the copy pin is dropped. -/
def execCopyComplete (rec : Fin 262144) (s : State) : Host.Outcome State Fault Refusal :=
  .next (
    if !(ctx s rec).copying then s
    else
      let b := tenantOf s rec
      let t := pageTokens (planOf s b)
      let s1 := bumpHome b 0x81C 1 (modCtx rec (fun x => { x with copying := false }) s)
      match (ctxRun s rec).copyFrom with
      | none => s1
      | some n =>
        let s2 := match node s1 b n with | some y => copyPages b rec ((ctx s1 rec).length.toNat / t) y s1 | none => s1
        modNode b n (fun y => { y with pins := y.pins - 1 })
          (modCtxRun rec (fun q => { q with copyFrom := none, matched := q.matched.filter (· != n) }) s2))

end Sys2Proof.Machine
end

