-- ==== Sys2Proof/Machine/StartOps.lean ====
section
/-! DEFINITION. Start-up (R417 to R434, R461, R531, R536 to R540): image verification, the phases, the device enable and its
check, restarts, and the module's reset and flash ownership pins. -/

namespace Sys2Proof.Machine

/-! ### What a loss of runtime state leaves (Table 12.13) -/

/-- A plane after a loss of runtime state: its cells stay, a RETIRED plane stays RETIRED (log entry 26), and every other one
is FREE until its residency is restored. -/
def keptPlane (n : Nat) (p : Plane) : Plane :=
  { planeReset n with st := if n % 65 = 64 then 6 else if p.st = 5 then 5 else 0,
                      owner := if p.st = 5 then p.owner else 0, cells := p.cells, blank := p.blank }

/-- The larder after a loss of runtime state: the page in progress completes and no other write starts. -/
def keptLarder (cold : Bool) (l : Larder) : Larder :=
  { flash := l.flash, live := if cold then l.flash else l.live, planes := l.planes, slots := l.slots,
    planesNow := l.planes, slotsNow := l.slots, foldPlanes := l.foldPlanes, foldSlots := l.foldSlots, journal := l.journal, repair := l.repairFlash,
    repairFlash := l.repairFlash, events := l.events, ages := l.ages, tokens := l.tokens, queue := l.queue.take 1,
    calendar := l.calendar, calRest := l.calRest, calSets := if cold then [] else l.calSets, erases := l.erases,
    appended := l.appended, jpos := l.jpos, foldPos := l.foldPos, evPos := l.evPos, agePos := l.agePos }

/-- The always-on domain and the pins across a loss of runtime state. -/
def keptPower (s : State) : Power :=
  { railsUp := s.pow.railsUp, inputGood := s.pow.inputGood, tripped := s.pow.tripped, latched := s.pow.latched,
    tripTick := s.pow.tripTick, tripTimes := s.pow.tripTimes, tripRecs := s.pow.tripRecs, ticks := s.pow.ticks,
    modReset := s.pow.modReset, flashOwn := s.pow.flashOwn, flashFree := s.pow.flashFree, pwrSense := s.pow.pwrSense }

/-- Everything that a loss of runtime state loses at its reset value (R23, R368, R397). -/
def lostState (cold : Bool) (s : State) : State :=
  { pending := s.pending
    ident := { variant := s.ident.variant }
    su := { restartCause := s.su.restartCause, perst := s.su.perst, trainWidth := s.su.trainWidth,
            trainSpeed := s.su.trainSpeed }
    lar := keptLarder cold s.lar
    host := { width := if cold then 0 else s.host.width, speed := if cold then 0 else s.host.speed,
              degraded := if cold then false else s.host.degraded }
    pow := keptPower s
    hw := { planes := s.hw.planes.filterMap fun x =>
              let q := keptPlane x.1 x.2
              if q = planeReset x.1 then none else some (x.1, q) }
    out := s.out
    fresh := s.fresh }

/-- Start-up begins at a phase with its cause (R426, R438); the beat generator runs from the end of phase 0. -/
def beginStart (phase cause : Nat) (s : State) : State :=
  { s with
    su := { s.su with phase := BitVec.ofNat 4 phase, restartCause := BitVec.ofNat 3 cause }
    fab := { s.fab with locked := decide (0 < phase) }
    pow := { s.pow with railsUp := true } }

/-- A cold start: the calendar resumes from the counter record (R515), and the floor stays with the larder. -/
def coldStart (s : State) : State :=
  let s1 := beginStart 0 0 (lostState true s)
  { s1 with lar := { s1.lar with calendar := s1.lar.flash.calendar, calRest := true } }

/-- A start after a trivet trip (R473): the calendar goes on. -/
def tripStart (s : State) : State := beginStart 0 3 (lostState true { s with pow := { s.pow with tripped := false } })

/-- A warm restart (R368, R430): rails and calendar kept, phase 1; a link that went down trains again while PERST# is deasserted (R429). A
member first raises a domain fault; the cause that its notice carries is free among those of a fault (log entry 27). -/
def warmRestart (cause : Nat) (link : Bool) (s : State) : State :=
  if !s.pow.inputGood ∨ s.pow.modReset ∨ s.pow.tripped ∨ s.su.phase = 0 then s
  else
    let s1 := if s.fab.st = 2 then
        domainFault (1 + Config.freeNat s.fresh % 10) 0x1FF (tickFresh s) else s
    let s2 := beginStart 1 cause (lostState false s1)
    if link then s2
    else
      let s3 := { s2 with host := { s2.host with width := 0, speed := 0, degraded := false } }
      if s3.su.perst then trainLink s3 else s3

/-- The die rails cut (R460): to the host a surprise removal, and runtime state is lost. Rails that are off are not cut again (R536). -/
def cutRails (s : State) : State :=
  let s1 := when s.pow.railsUp (emit .railsCut) (lostState true s)
  { s1 with pow := { s1.pow with railsUp := false } }

/-! ### The flash and its image slots (R417 to R423) -/

/-- Where an image slot begins (Table 14.1). -/
def slotBase (isB : Bool) : Nat := if isB then 0x2000000 else 0

/-- Where the larder begins, and the end of what the part uses (Table 14.1). -/
def larderBase : Nat := 0x4000000
/-- The end of the larder, and of what the part reads and writes. -/
def flashEnd : Nat := 0x8000000

/-- Discovery finds a flash that holds the layout of Table 14.1 (R417). -/
def flashOk (f : FlashFact) : Bool := f.found && decide (flashEnd ≤ f.size)

/-- The protocol in use (R417). -/
def flashMode (f : FlashFact) : Option FlashMode := if flashOk f then some (if f.octal then .octal else .serial) else none

/-- An entry of the section table (Table 14.3). -/
structure Section where
  typ    : Nat
  offset : Nat
  length : Nat
  crc    : Nat

/-- SECTIONS of an image (Table 14.2). -/
def imgSections (i : ImageFact) : Nat := leAt i.bytes 6 2
/-- IMAGE_LEN. -/
def imgLen (i : ImageFact) : Nat := leAt i.bytes 8 4
/-- SECURITY_VERSION. -/
def imgVersion (i : ImageFact) : Nat := leAt i.bytes 12 4
/-- FLAGS. -/
def imgFlags (i : ImageFact) : Nat := leAt i.bytes 16 4
/-- BUILD_ID. -/
def imgBuild (i : ImageFact) : Nat := leAt i.bytes 20 8

/-- `n` bytes of an image from byte `a` on; one that the slot does not show reads as zero. -/
def imgBytes (i : ImageFact) (a n : Nat) : List Byte := let l := (i.bytes.drop a).take n; l ++ List.replicate (n - l.length) 0

/-- PUBKEY. -/
def imgKey (i : ImageFact) : List Byte := imgBytes i 32 133
/-- SIGNATURE. -/
def imgSignature (i : ImageFact) : List Byte := imgBytes i 256 132

/-- The digest of R422 step 3: bytes 0 to IMAGE_LEN - 1 with the signature read as zero. -/
def imgDigest (i : ImageFact) : BitVec 512 :=
  let bs := i.bytes.take (imgLen i)
  Config.sha512 (bs.take 256 ++ List.replicate 132 0 ++ bs.drop 388)

/-- The section table entries in use (Table 14.3). -/
def usedSections (i : ImageFact) : List Section :=
  (List.range (imgSections i)).map fun j =>
    let a := 512 + 16 * j
    { typ := leAt i.bytes a 2, offset := leAt i.bytes (a + 4) 4, length := leAt i.bytes (a + 8) 4, crc := leAt i.bytes (a + 12) 4 }

/-- The bytes of the section of a type; none of a type that the image lacks. -/
def sectionOf (i : ImageFact) (typ : Nat) : List Byte :=
  match (usedSections i).find? fun x => x.typ == typ with
  | some x => imgBytes i x.offset x.length
  | none => []

/-- R422 step 1. -/
def headerOk (i : ImageFact) : Bool :=
  leAt i.bytes 0 4 == 0x5142454E && leAt i.bytes 4 2 == 1 && imgLen i ≤ 33554432 && 1 ≤ imgSections i && imgSections i ≤ 32

/-- The signing-key digests in the security block's mask ROM (R422 step 2). -/
def romDigests : List (BitVec 512) :=
  Config.sha512 ((List.range 133).map fun j => Config.makerKey.getD j 0) :: (List.range 3).map Config.romKey

/-- R422 step 2. -/
def keyOk (i : ImageFact) : Bool := romDigests.contains (Config.sha512 (imgKey i))

/-- R422 steps 3 and 4: the signature that the maker's key made of the digest, or another that the standard accepts. -/
def signatureOk (i : ImageFact) : Bool :=
  (imgKey i == ((List.range 133).map fun j => Config.makerKey.getD j 0)
    && imgSignature i == ((List.range 132).map fun j => (Config.makerSign (imgDigest i)).getD j 0))
  || Config.otherSignature (imgKey i) (imgDigest i) (imgSignature i)

/-- Two sections overlap. -/
def overlap (a b : Section) : Bool := a.offset < b.offset + b.length && b.offset < a.offset + a.length

/-- The section table index that R422 step 6 reports, if the step fails (R419, R420); a missing required section has no
index, and `free` stands for it. -/
def badSection (free : Nat) (i : ImageFact) : Option Nat :=
  let l := usedSections i
  let at_ (j : Nat) : Section := l.getD j { typ := 0, offset := 0, length := 0, crc := 0 }
  let bad (j : Nat) : Bool :=
    let x := at_ j
    !(1 ≤ x.typ && x.typ ≤ 7) || x.offset % 4096 != 0 || x.offset < 1024 || imgLen i < x.offset + x.length
    || (List.range j).any fun k => (at_ k).typ == x.typ || overlap (at_ k) x
  ((List.range l.length).find? bad).orElse fun _ =>
  (if (List.range 7).all fun t => l.any fun x => x.typ == t + 1 then none else some free).orElse fun _ =>
  (List.range l.length).find? fun j => (crc32 (imgBytes i (at_ j).offset (at_ j).length)).toNat != (at_ j).crc

/-- The byte offset of the first settings field out of its range (R421, Table 14.5). -/
def badSetting (b : List Byte) : Option Nat :=
  let p := leAt b 2 2
  if b.length ≠ 64 then some 0
  else if leAt b 0 1 < 1 ∨ 64 < leAt b 0 1 then some 0
  else if leAt b 1 1 < 1 ∨ 16 < leAt b 1 1 then some 1
  else if p < 300 ∨ 850 < p ∨ p % 25 ≠ 0 then some 2
  else if leAt b 4 1 < 8 ∨ 0x77 < leAt b 4 1 then some 4
  else none

/-- The section table index of the part settings. -/
def settingsIndex (i : ImageFact) : Nat := (usedSections i).findIdx fun x => x.typ == 3

/-- The reason and the detail bits above [15:0] with which an image fails (R422, Table 14.7), or none. -/
def verifyImage (free floor : Nat) (i : ImageFact) : Option (Nat × Nat) :=
  if !i.readable then some (1, 0)
  else if !headerOk i then some (2, 0)
  else if !keyOk i then some (3, 0)
  else if !signatureOk i then some (4, 0)
  else if imgVersion i < floor then some (5, min floor 0xFFFF * 2 ^ 16)
  else
    match badSection free i with
    | some j => some (6, j % 256 * 2 ^ 16)
    | none => (badSetting (sectionOf i 3)).map fun o => (7, settingsIndex i % 256 * 2 ^ 16 + o * 2 ^ 24)

/-- Slot B is verified first (R423). -/
def firstIsB (a b : ImageFact) : Bool :=
  a.readable && b.readable && headerOk a && headerOk b && decide (imgVersion a < imgVersion b)

/-- The digests of an image that R437 reports. -/
def imgMeasured (i : ImageFact) : Measured :=
  { image := imgDigest i, control := Config.sha512 (sectionOf i 1), mgmt := Config.sha512 (sectionOf i 2),
    settings := Config.sha512 (sectionOf i 3 ++ sectionOf i 4) }

/-- The fields that firmware writes at the end of phase 1 (Table 19.7), the measurements (R437), and the alias key of this start
(R435). -/
def runImage (isB : Bool) (i : ImageFact) (s : State) : State :=
  let b := sectionOf i 3
  let fl := imgFlags i
  let limit := BitVec.ofNat 10 (leAt b 2 2)
  let v := BitVec.ofNat 32 (imgVersion i)
  { s with
    ident := { s.ident with fwVersion := i.fwVersion, debug := bitOf fl 1, aliasReady := true }
    su := { s.su with auto := bitOf fl 0, slotB := isB, secVersion := v, buildId := BitVec.ofNat 64 (imgBuild i),
                      outlierGib := BitVec.ofNat 8 (leAt b 0 1), i3cStatic := BitVec.ofNat 7 (leAt b 4 1),
                      monitors := (List.range 224).map fun j => BitVec.ofNat 32 (leAt (sectionOf i 5) (4 * j) 4)
                      measured := some (imgMeasured i)
                      aliasKey := some { digest := imgDigest i, version := v, debug := bitOf fl 1, start := s.fresh } }
    pow := { s.pow with limitSet := limit, limitForce := limit, pBase := Config.tablePBase }
    mon := { s.mon with calDelta := BitVec.ofNat 5 (leAt b 1 1) } }

/-- The JTAG port offers boundary scan: only while the part is held in reset (R425; what is done through it has no command: log entry
172). -/
def jtagScan (s : State) : Bool := s.pow.modReset

/-- The JTAG port gives halt and memory access to the control cores: only with DEBUG set (R425; log entry 172). -/
def jtagAccess (s : State) : Bool := s.ident.debug

/-- A phase is entered. -/
def enterPhase (k : Nat) (s : State) : State := { s with su := { s.su with phase := BitVec.ofNat 4 k } }

/-- Phase 1 is entered: the host link trains where PERST# is deasserted (R429). -/
def enterImage (s : State) : State := if s.su.perst then trainLink (enterPhase 1 s) else enterPhase 1 s

/-- The version floor that the larder holds: 1 where it cannot produce one in either journal copy (R424). -/
def larderFloor (f : PhaseFacts) (s : State) : Nat := if f.noFloor then 1 else s.lar.live.floor.toNat

/-- A slot as the part reads it: nothing of a flash that discovery did not find (R417). -/
def readSlot (f : PhaseFacts) (i : ImageFact) : ImageFact := { i with readable := i.readable && flashOk f.flash }

/-- Phase 1 ends (R417, R422, R423): an image runs, or start-up halts in phase FAILED. -/
def endImage (f : PhaseFacts) (s0 : State) : State :=
  let free := (Config.freeByte s0.fresh).toNat
  let s1 := tickFresh s0
  let s := { s1 with su := { s1.su with flash := flashMode f.flash }
                     lar := { s1.lar with live := { s1.lar.live with floor := BitVec.ofNat 32 (larderFloor f s1) } } }
  let a := readSlot f f.slotA
  let b := readSlot f f.slotB
  let b1 := firstIsB a b
  let one := if b1 then b else a
  let two := if b1 then a else b
  match verifyImage free (larderFloor f s) one, verifyImage free (larderFloor f s) two with
  | none, _ => enterPhase 2 (runImage b1 one s)
  | some _, none => enterPhase 2 (runImage (!b1) two s)
  | some r, some r2 =>
    let d := bit b1 + r2.1 * 2 ^ 8 + r.2
    raise (err 0x91 3 r.1 d 0)
      { s with su := { s.su with phase := 8, reason := BitVec.ofNat 8 r.1, detail := BitVec.ofNat 32 d, checkBusy := false,
                                 enableBit := false } }

/-! ### Phases 2 to 5 -/

/-- A failure recorded for the enable check (R427): the first of its item stands. -/
def recordFailure (item : Nat) (detail : Nat) (s : State) : State :=
  match look (fun _ => none) s.su.failures item with
  | some _ => s
  | none => { s with su := { s.su with failures := put (fun _ => none) s.su.failures item (some (BitVec.ofNat 32 detail)) } }

/-- The failures a phase measured, in the order given; the detail word of item 0x18 is 0 (Table 14.7). -/
def recordFailures (l : List Failure) (s : State) : State :=
  forAll (l.filter fun x => 0x10 ≤ x.item.toNat && x.item.toNat ≤ 0x18 && x.item != 0x11)
    (fun x => recordFailure x.item.toNat (if x.item = 0x18 then 0 else x.detail.toNat)) s

/-- Residency restored (R207): every plane with a completion record is READY for the tenant of its slot. -/
def restoreResidency (s : State) : State :=
  forAll (s.lar.planesNow.filter fun x => x.2.resident) (fun x s =>
    let tid := (look (fun _ => ((0 : W64), (0 : W64))) s.lar.slotsNow x.2.slot.toNat).1
    if x.1 % 65 ≠ 64 ∧ x.1 < 2227680 ∧ (plane s x.1).st = 0 ∧ tid ≠ 0 then
      modPlane x.1 (fun q => { q with st := 2, owner := tid }) s else s) s

/-- The journal read without its last `n` entries, an entry whose CHECK fails in both copies and every one after it (R512): the tables
are those of the active copy with the entries before them. -/
def readJournal (n : Nat) (l : Larder) : Larder :=
  if n = 0 then l
  else
    let j := l.journal.take (l.journal.length - n)
    let t := j.foldl (fun a e => applyEntry e a.1 a.2) (l.foldPlanes, l.foldSlots)
    { l with journal := j, jpos := l.jpos - (l.journal.length - j.length), planes := t.1, slots := t.2, planesNow := t.1, slotsNow := t.2 }

/-- The highest erase count of any larder sector. -/
def maxErases (l : Larder) : Nat := l.erases.foldl (fun a x => max a x.2) 0

/-- The larder view brought up to date (R521). -/
def updateView (s : State) : State :=
  let l := s.lar
  { s with lar := { l with view :=
    { powerOn := l.live.powerOn, calendar := l.calendar, calRest := l.calRest, copyB := l.copyB, boots := l.live.boots,
      folds := l.live.folds, maxErases := BitVec.ofNat 32 (maxErases l), torn := l.torn, suppressed := l.suppressed,
      waiting := BitVec.ofNat 16 (min 65535 l.queue.length), histo := l.live.histo,
      events := l.events.reverse.take 64, ages := l.ages.reverse.take 16 } } }

/-- The class T events of the trip record, written at the next start (R475); rows 8 and 9 of Table 16.3. -/
def logTrips (s : State) : State :=
  let s1 := forAll s.pow.tripRecs (fun t s =>
    let s2 := raiseEvent true (err 0x80 3 8 t.diode.toNat (t.tick % 2 ^ 32)) s
    match t.latch with
    | some t1 => raiseEvent true (err 0x80 3 9 (t1 % 2 ^ 32) (t.tick % 2 ^ 32)) s2
    | none => s2) s
  { s1 with pow := { s1.pow with tripRecs := [] } }

/-- Phase 2 ends: the larder's records are in force (R512, R531). `copyB` tells that a record was read from copy B, `torn`
how many entries were lost (R513). -/
def endLarder (f : PhaseFacts) (s : State) : State :=
  let badMaps := (f.failures.filter (·.item == 0x10)).map (·.detail.toNat)
  let s0 := recordFailures f.failures { s with lar := readJournal f.torn s.lar }
  let s1 := forAll (List.range 112) (applyCluster badMaps) s0
  let s2 := restoreResidency s1
  -- comparator trips since the last start join the lifetime count (Table 16.4)
  let trips := s2.lar.live.trips + BitVec.ofNat 16 (s2.pow.tripRecs.filter (·.diode != 0x7F)).length
  let s3 := { s2 with
    ident := { s2.ident with serial := Config.serialNumber }
    su := { s2.su with floor := s2.lar.live.floor, floorAtStart := s2.lar.live.floor }
    pow := { s2.pow with trips := trips, fwShut := s2.lar.live.fwShut, replans := s2.lar.live.replans }
    lar := { s2.lar with live := { s2.lar.live with boots := s2.lar.live.boots + 1, trips := trips }, copyB := f.copyB,
                         torn := BitVec.ofNat 32 f.torn } }
  let s4 := forAll (List.range f.torn) (fun _ s =>
    raise { err 0 0 0 0 0 with typ := BitVec.ofNat 16 (Config.freeNat s.fresh), cls := 13 } (tickFresh s)) s3
  let s5 := forAll (List.range 112) (fun p s => planeSummary p (sparingSummary p s)) s4
  updateView (logTrips (writeCounters s5))

/-- OFF of R441 from the sum of 1,000 samples. -/
def selfOff (z : Int) : Int := roundEven (16 * z) 1000

/-- GF of R441, or none where the gain cannot be formed. -/
def selfGf (z b : Int) : Option Int :=
  if b ≤ z then none else some (roundEven (32768 * 5120 * 1000) (3 * (b - z).toNat))

/-- A converter passes at every gain (R441). -/
def selfPasses (c : SelfCal) : Bool :=
  (List.range 5).all fun g =>
    let off := selfOff (c.zs.getD g 0)
    decide (-512 ≤ off ∧ off ≤ 512) &&
    (match selfGf (c.zs.getD g 0) (c.bs.getD g 0) with | none => false | some x => decide (31130 ≤ x ∧ x ≤ 34406))

/-- The input is a differential pair (Table 15.1). -/
def differential (code : Nat) : Bool :=
  (0x80 ≤ code && code < 0xA0) || code == 0xA1 || code == 0xA2 || (0x100 ≤ code && code < 0x108)

/-- Converter `m` reaches an input (Table 15.1). -/
def reaches (m code : Nat) : Bool :=
  if code < 0x70 then m == code / 14 || m == 13
  else if 0x80 ≤ code ∧ code < 0xA0 then code % 8 ≤ 4 && (m == 8 + (code - 0x80) / 8 || m == 13)
  else if 0xA0 ≤ code ∧ code ≤ 0xA2 then m == 12 || m == 13
  else if 0x100 ≤ code ∧ code < 0x108 then m == code - 0x100 || m == 13
  else code == 0x1F0 || code == 0x1F1

/-- A sequence entry may run on converter `m` (R442). -/
def entryOk (m x : Nat) : Bool :=
  reaches m (fld x 0 9) && fld x 9 4 ≤ 11 && fld x 13 3 ≤ 4 && (!bitOf x 17 || differential (fld x 0 9))

/-- One entry of a converter's sequence loaded (R442); a bad one loads with VALID 0 and raises a record. -/
def loadEntry (m e : Nat) (s : State) : State :=
  let x := (s.su.monitors.getD (16 * m + e) 0).toNat % 2 ^ 19
  let bad := bitOf x 18 && !entryOk m x
  let s1 := setConv s m { conv s m with cfg := put (fun _ => 0) (conv s m).cfg e (BitVec.ofNat 32 (if bad then x - 2 ^ 18 else x)) }
  if bad then raise { err 0x35 0 m e 0 with inst := BitVec.ofNat 8 m } s1 else s1

/-- The valid entries of a converter, ascending. -/
def validEntries (c : Conv) : List Nat := (List.range 16).filter fun e => bitOf (look (fun _ => (0 : W32)) c.cfg e).toNat 18

/-- One converter at the end of phase 3 (R441 to R443). -/
def endConverter (f : PhaseFacts) (m : Nat) (s : State) : State :=
  let c := f.selfcal.getD m { zs := [], bs := [] }
  let s1 := forAll (List.range 16) (loadEntry m) s
  let q := conv s1 m
  let es := validEntries q
  let cyc := es.foldl (fun a e => a + 4 * 2 ^ fld (look (fun _ => (0 : W32)) q.cfg e).toNat 9 4 + 12) 0
  let q1 := { q with entries := BitVec.ofNat 5 es.length, cycle := BitVec.ofNat 24 cyc }
  if selfPasses c then
    setConv s1 m { q1 with
      st := 2
      off := upto 5 (fun g a => put (fun _ => 0) a g (BitVec.ofInt 16 (selfOff (c.zs.getD g 0)))) []
      gf := upto 5 (fun g a => put (fun _ => 0x8000) a g (BitVec.ofInt 16 ((selfGf (c.zs.getD g 0) (c.bs.getD g 0)).getD 0))) [] }
  else
    recordFailure 0x13 m
      (setConv { s1 with mon := { s1.mon with selfFailed := s1.mon.selfFailed ||| BitVec.ofNat 14 (2 ^ m) } } m { q1 with st := 3 })

/-- The voltage of point `k` of a cluster in mV: the operating tables' with the ageing delta and the point's raises, at most 850 (R463,
R479, R481). -/
def pointVolt (s : State) (p k : Nat) : Nat :=
  let c := (cluster s p).pow
  min 850 (Config.tableVolt p k % 2 ^ 16 + 5 * (c.vDelta.toNat + look (fun _ => 0) c.raises k))

/-- The share of an enabled cluster in mW, and its current limit in mA (R469); the limit less P_BASE is not below 0. -/
def clusterShare (s : State) : Nat := (s.pow.limitForce.toNat - s.pow.pBase.toNat) * 1000 / 96

/-- A cluster's voltage, share and current limit brought up to date (R469, Table 16.5). -/
def setShare (p : Nat) (s : State) : State :=
  if enabledCl s p then
    let v := pointVolt s p (cluster s p).pow.point.toNat
    let v1 := if (cluster s p).pow.volt = 0 then v else (cluster s p).pow.volt.toNat
    modCluster p (fun c => { c with pow := { c.pow with
      volt := BitVec.ofNat 16 v1, share := BitVec.ofNat 16 (clusterShare s),
      current := BitVec.ofNat 16 (clusterShare s * 1000 / max 1 v1) } }) s
  else s

/-- Phase 3 ends: clocks on their plans, converters calibrated and running (R441 to R443, R463). -/
def endClocks (f : PhaseFacts) (s : State) : State :=
  let s1 := forAll (List.range 14) (endConverter f) (recordFailures f.failures s)
  forAll (List.range 112) (fun p s =>
    setShare p (forAll ((List.range 18).map (18 * p + ·)) (fun k s =>
      if (core s k).usable then
        forAll (List.range 17) (fun e s => modEngine (17 * k + e) (fun g => { g with startStep := Config.tableStartStep (17 * k + e) }) s) s
      else s) s)) s1

/-- Frames of the fixed regions of phase 4: master copies, residuals, directory, checksum data, outlier area, queue spill and
the frame owner table (Tables 7.5, 14.6; R351, R377). -/
def fixedFrames (s : State) : Nat :=
  16 * (48 * 1024 + 384 + 24 + 64 + 1024 * s.su.outlierGib.toNat + 512)
  + ceilDiv (Config.ownerEntryBytes * (4 * framesPerBridge s)) 65536

/-- An enabled cluster's diode is sampled by a valid entry of a running converter (R443). -/
def diodeCovered (s : State) (p : Nat) : Bool :=
  (List.range 14).any fun m => (conv s m).st == 2 && (validEntries (conv s m)).any fun e =>
    fld (look (fun _ => (0 : W32)) (conv s m).cfg e).toNat 0 9 == p

/-- A calibration run of a cluster starts (R447, Table 15.4). -/
def startCalRun (p : Nat) (s : State) : State :=
  calJudge p (modCluster p (fun c => { c with cal := { c.cal with
    running := true, due := false, done := [], left := BitVec.ofNat 9 (liveEngines s p).length, tLast := c.pow.tP } }) s)

/-- Phase 4 ends: the part key created (R353), fixed regions reserved (R398, R531); phase 5 starts with the diode check (R443) and every
enabled cluster's calibration run. -/
def endMemory (f : PhaseFacts) (s : State) : State :=
  let total := 4 * framesPerBridge s
  let need := fixedFrames s
  let s1 := recordFailures f.failures s
  let s2 := if total < need then recordFailure 0x15 (min (need - total) 0xFFFFFF) s1 else s1
  let s3 := tickFresh { s2 with ten := { s2.ten with
    partKey := some s2.fresh, fwEnd := min need total, free := BitVec.ofNat 24 (total - min need total) } }
  let s4 := forAll ((List.range 112).filter fun p => enabledCl s3 p && !diodeCovered s3 p) (recordFailure 0x17) s3
  forAll ((List.range 112).filter (enabledCl s4)) startCalRun s4

/-- The lead control core at entry to phase 6: the lowest logical cluster that is enabled (R401, Table 19.7). -/
def pickLead (s : State) : BitVec 7 :=
  match (List.range 96).find? fun l => (physCluster s l).any (enabledCl s) with
  | some l => BitVec.ofNat 7 l
  | none => 0x7F

/-- A test clock started for every usable core (R490). -/
def startTests (s : State) : State :=
  forAll ((List.range 112).filter (enabledCl s)) (fun p s =>
    forAll (liveCores s p) (fun k => modCore k fun c => { c with
      kat := { c.kat with lastDone := s.fab.beat, cleanBeat := s.fab.beat, cleanTime := s.lar.calendar } }) s) s

/-! ### The device enable (R431 to R433) -/

/-- The check's detail for item 0x11, if a quadrant is short (R38). -/
def quadrantShort (s : State) : Option Nat :=
  let bad := (List.range 112).filter fun p => (cluster s p).st == 2 && !look (fun _ => false) s.lar.repair.clRetired p
  (List.range 4).findSome? fun q =>
    let n := quadrantGood s bad q
    if n < 24 then some (q + n * 2 ^ 8) else none

/-- The first failing item of Table 14.7 from 0x10 to 0x18 (R432). -/
def firstFailure (s : State) : Option (Nat × Nat) :=
  (List.range 9).findSome? fun i =>
    if i = 1 then (quadrantShort s).map fun d => (0x11, d)
    else if i = 7 then
      (match look (fun _ => none) s.su.failures 0x17 with
       | some d => some (0x17, d.toNat)
       | none =>
         ((List.range 112).find? fun p => enabledCl s p &&
            (decide ((cluster s p).pow.tP.toInt < -640) || decide (1520 < (cluster s p).pow.tP.toInt))).map fun p => (0x17, p))
    else (look (fun _ => none) s.su.failures (0x10 + i)).map fun d => (0x10 + i, d.toNat)

/-- The device enable check (R432): a refusal with a reason, or phase 7, with the floor raised (R424). -/
def enableCheck (s : State) : State :=
  let s1 := { s with su := { s.su with checks := s.su.checks + 1, checkBusy := false, enableBit := false } }
  match firstFailure s with
  | some r =>
    raise (err 0x90 3 r.1 r.2 0) { s1 with su := { s1.su with
      reason := BitVec.ofNat 8 r.1, detail := BitVec.ofNat 32 r.2, refused := s1.su.refused + 1 } }
  | none =>
    let fl := if s.lar.live.floor.toNat < s.su.secVersion.toNat then s.su.secVersion else s.lar.live.floor
    let s2 := { s1 with
      su := { s1.su with reason := 0, detail := 0, enabled := true, phase := 7, floor := fl }
      lar := { s1.lar with live := { s1.lar.live with floor := fl } } }
    startTests (if fl = s.lar.live.floor then s2 else writeCounters s2)

/-- A request for the device enable (R431): held below phase 6, run in phase 6, without effect in phases 7 and 8. -/
def requestEnable (s : State) : State :=
  if s.su.phase.toNat = 7 ∨ s.su.phase.toNat = 8 then { s with su := { s.su with enableBit := false } }
  else
    let s1 := { s with su := { s.su with enableBit := true, checkBusy := true } }
    if s.su.phase = 6 then enableCheck s1 else s1

/-- The drift and band summaries written at start-up (R121). -/
def startSummaries (s : State) : State := forAll (List.range 112) (fun p s => bandSummary p (driftSummary 0 p s)) s

/-- Phase 6 is entered; a held request or the image's AUTO_ENABLE runs the check (R431). -/
def enterReady (s : State) : State :=
  let s1 := { s with
    mail := { s.mail with lead := pickLead s }
    su := { s.su with phase := 6, startupUs := BitVec.ofNat 32 (min (2 ^ 32 - 1) s.su.elapsed) } }
  if s1.su.auto ∨ s1.su.enableBit then enableCheck s1 else s1

/-- COLD_START (R426): 54 V is good, and nothing holds the die rails off. -/
def execColdStart (s : State) : Host.Outcome State Fault Refusal :=
  .next (if s.pow.inputGood ∧ !s.pow.modReset ∧ !s.pow.tripped then coldStart s else s)

/-- FUNCTION_LEVEL_RESET (R368): a warm restart; the link stays up. -/
def execFunctionLevelReset (s : State) : Host.Outcome State Fault Refusal := .next (warmRestart 1 true s)

/-- HOT_RESET (R368): a warm restart; the link comes back as it was. -/
def execHotReset (s : State) : Host.Outcome State Fault Refusal := .next (warmRestart 1 true s)

/-- CONVENTIONAL_RESET (R368): PERST# falls, so the link is down until it rises (R429). -/
def execConventionalReset (s : State) : Host.Outcome State Fault Refusal :=
  .next (warmRestart 1 false { s with su := { s.su with perst := false } })

/-- LINK_DOWN (R368, R393, R397): expected after QUIESCED, when the part only loses its link; otherwise a warm restart. -/
def execLinkDown (s : State) : Host.Outcome State Fault Refusal :=
  .next (
    if s.host.quiesced then
      { s with host := { s.host with width := 0, speed := 0, degraded := false, recovery := false, reads := [] } }
    else warmRestart 2 false s)

/-- MOD_RESET_LOW (R539): the die rails are cut and the part is held in reset. -/
def execModResetLow (s : State) : Host.Outcome State Fault Refusal :=
  .next (
    if s.pow.modReset then s
    else
      let s1 := { s with pow := { s.pow with modReset := true, flashFree := s.pow.flashOwn } }
      let s2 := cutRails s1
      { s2 with su := { s2.su with restartCause := 0 } })

/-- MOD_RESET_HIGH (R539): start-up begins at phase 0 with RESTART_CAUSE 0; the flash bus stays released until FLASH_OWN#
rises (R418). -/
def execModResetHigh (s : State) : Host.Outcome State Fault Refusal :=
  .next (
    if !s.pow.modReset then s
    else
      let s1 := { s with pow := { s.pow with modReset := false } }
      if s1.pow.inputGood ∧ !s1.pow.tripped then coldStart s1 else s1)

/-- FLASH_OWN_ASSERT (R418, R540): effective only while MOD_RESET# is low, where the larder interface releases the bus. -/
def execFlashOwnAssert (s : State) : Host.Outcome State Fault Refusal :=
  .next { s with pow := { s.pow with flashOwn := true, flashFree := s.pow.flashFree || s.pow.modReset } }

/-- FLASH_OWN_DEASSERT (R540): a start-up held at the end of phase 0 enters phase 1. -/
def execFlashOwnDeassert (s : State) : Host.Outcome State Fault Refusal :=
  let s1 := { s with pow := { s.pow with flashOwn := false, flashFree := false } }
  .next (if s.su.phase0Done then enterImage { s1 with su := { s1.su with phase0Done := false } } else s1)

end Sys2Proof.Machine
end

