-- ==== Sys2Proof/Machine/LarderOps.lean ====
section
/-! DEFINITION. Flash page writes, folds, the counter record, event tokens, the larder view and the calendar (R507 to R521). -/

namespace Sys2Proof.Machine

/-- One more erase of each of `n` sectors from `k` on (R507). -/
def eraseSectors (k n : Nat) (l : Larder) : Larder :=
  { l with erases := upto n (fun i m => put (fun _ => 0) m (k + i) (look (fun _ => 0) m (k + i) + 1)) l.erases }

/-- A log with one more entry: where it is full its oldest sector is erased whole first (R517, R518). -/
def logAppend {α : Type} (full sector : Nat) (l : List α) (e : α) : List α :=
  (if l.length < full then l else l.drop sector) ++ [e]

/-- The first sector of a repair map copy that a write changes: maps lie 16 to a sector, the die-level map first. -/
def repairSector (a b : Repair) : Nat :=
  let differs (p : Nat) : Bool :=
    look (fun _ => false) a.clRetired p != look (fun _ => false) b.clRetired p
    || (a.coreBad.filter fun x => x.1 / 18 == p) != (b.coreBad.filter fun x => x.1 / 18 == p)
    || (a.engBad.filter fun x => x.1 / 306 == p) != (b.engBad.filter fun x => x.1 / 306 == p)
    || (a.rowsOff.filter fun x => x.1 / 19890 == p) != (b.rowsOff.filter fun x => x.1 / 19890 == p)
    || (a.colsOff.filter fun x => x.1 / 19890 == p) != (b.colsOff.filter fun x => x.1 / 19890 == p)
    || (a.subst.filter fun x => x.1 / 18 == p) != (b.subst.filter fun x => x.1 / 18 == p)
  match (List.range 112).find? differs with
  | some p => (p + 1) / 16
  | none => 0

/-- What a completed page write leaves in flash (R509, R511, R514, R517, R518). A record of two copies takes effect with its
first copy; a slot release frees its slot for loads with its second. -/
def applyWrite (w : FlashWrite) (l : Larder) : Larder :=
  match w.job with
  | .journal e =>
    if w.copyB then
      (if e.kind = 5 then { l with slotsNow := (applyEntry e [] l.slotsNow).2 } else l)
    else
      let a := applyEntry e l.planes l.slots
      { l with planes := a.1, slots := a.2, journal := l.journal ++ [e], appended := l.appended + 1, jpos := l.jpos + 1 }
  | .counters r =>
    let l1 := if r.version.toNat % 127 = 0 then
        eraseSectors (2 + (if w.copyB then 4 else 0) + r.version.toNat / 127 % 4) 1 l else l
    if w.copyB then l1 else { l1 with flash := r }
  | .repair r =>
    let l1 := eraseSectors (10 + (if w.copyB then 8 else 0) + repairSector l.repairFlash r) 1 l
    if w.copyB then l1 else { l1 with repairFlash := r }
  | .event e =>
    let n := l.evPos + (if w.copyB then 0 else 1)
    let l1 := if 6552 ≤ l.evPos ∧ n % 819 = 1 then eraseSectors (1004 + (if w.copyB then 8 else 0) + n / 819 % 8) 1 l else l
    if w.copyB then l1 else { l1 with events := logAppend 6552 819 l.events e, evPos := n }
  | .ageing e =>
    let n := l.agePos + (if w.copyB then 0 else 1)
    let l1 := if 4094 ≤ l.agePos ∧ n % 2047 = 1 then eraseSectors (1020 + (if w.copyB then 2 else 0) + n / 2047 % 2) 1 l else l
    if w.copyB then l1 else { l1 with ages := logAppend 4094 2047 l.ages e, agePos := n }
  | .foldTable =>
    -- the older table copy, X or Y, is written afresh
    let y := l.live.folds.toNat % 2
    eraseSectors (300 + 272 * y) 272 (eraseSectors (26 + 137 * y) 137 l)
  | .foldMarker =>
    match l.folding with
    | none => l
    | some n =>
      -- journal sectors wholly before the fold point are erased, 4,095 entries to a sector
      let from0 := l.foldPos / 4095
      let to0 := (l.jpos - (l.journal.length - n)) / 4095
      let l1 := upto (to0 - from0) (fun i a => eraseSectors (924 + (from0 + i) % 80) 1 (eraseSectors (844 + (from0 + i) % 80) 1 a)) l
      let t := (l.journal.take n).foldl (fun a e => applyEntry e a.1 a.2) (l.foldPlanes, l.foldSlots)
      { l1 with journal := l.journal.drop n, foldPlanes := t.1, foldSlots := t.2, foldPos := l.jpos - (l.journal.length - n), folding := none,
                live := { l.live with folds := l.live.folds + 1 } }

/-- Firmware keeps the view in the phases from 2 on (Table 19.7). -/
def viewOn (s : State) : Bool := s.pow.railsUp && 2 ≤ s.su.phase.toNat && s.su.phase != 8

/-- The page in progress completes, and the next write of the queue is in progress (R519); the view follows (R521). -/
def pageComplete (s : State) : State :=
  match s.lar.queue with
  | [] => s
  | w :: t =>
    let s1 := { s with lar := applyWrite w { s.lar with queue := t } }
    if viewOn s1 then updateView s1 else s1

/-- FLASH_PAGE_WRITE_COMPLETE (R519): none while the flash bus is released to the board (R418). -/
def execFlashPageWriteComplete (s : State) : Host.Outcome State Fault Refusal :=
  .next (if s.pow.flashFree then s else pageComplete s)

/-- A fold begun (R511): 2.5 MiB of 16-byte entries have been appended since the last one began. -/
def beginFold (s : State) : State :=
  if s.lar.folding.isSome ∨ s.lar.appended < 163840 ∨ !viewOn s then s
  else
    submitOne { prio := 5, copyB := false, job := .foldMarker }
      (submitOne { prio := 5, copyB := false, job := .foldTable }
        { s with lar := { s.lar with folding := some s.lar.journal.length, appended := 0 } })
where
  /-- One page write submitted. -/
  submitOne (w : FlashWrite) (s : State) : State := { s with lar := { s.lar with queue := queueWrite w s.lar.queue } }

/-- FOLD (R511). -/
def execFold (s : State) : Host.Outcome State Fault Refusal := .next (beginFold s)

/-- COUNTER_RECORD_TIMER (R514): 900 s of powered time have passed. -/
def execCounterRecordTimer (s : State) : Host.Outcome State Fault Refusal := .next (if viewOn s then writeCounters s else s)

/-- EVENT_TOKEN_RESTORE (R517): the budget holds at most 64 tokens. -/
def execEventTokenRestore (s : State) : Host.Outcome State Fault Refusal :=
  .next { s with lar := { s.lar with tokens := min 64 (s.lar.tokens + 1) } }

/-- LARDER_VIEW_UPDATE (R521). -/
def execLarderViewUpdate (s : State) : Host.Outcome State Fault Refusal := .next (if viewOn s then updateView s else s)

/-- One tick of the always-on oscillator (R474, R515): the calendar moves on by 2^-15 s, or takes the last set accepted since
the tick before; powered seconds count while the die rails are up. -/
def calendarTick (s : State) : State :=
  let t := s.pow.ticks + 1
  let s1 := { s with
    pow := { s.pow with ticks := t }
    lar := { s.lar with live := { s.lar.live with
      powerOn := if t % 32768 = 0 ∧ s.pow.railsUp then s.lar.live.powerOn + 1 else s.lar.live.powerOn } } }
  match s.lar.calSets.getLast? with
  | none => { s1 with lar := { s1.lar with calendar := s1.lar.calendar + 1 } }
  | some v => writeCounters { s1 with lar := { s1.lar with calendar := v, calRest := false, calSets := [] } }

/-- CALENDAR_TICK (R515). -/
def execCalendarTick (s : State) : Host.Outcome State Fault Refusal := .next (calendarTick s)

end Sys2Proof.Machine
end

