-- ==== Sys2Proof/Machine/MonitorOps.lean ====
section
/-! DEFINITION. Monitor samples, accumulator banks, snapshots, and the readings firmware takes from its banks (R439, R440,
R444 to R446). -/

namespace Sys2Proof.Machine

/-- The configuration word of a converter's entry (Table 15.3). -/
def convCfg (s : State) (m e : Nat) : Nat := (look (fun _ => (0 : W32)) (conv s m).cfg e).toNat

/-- A raw code of R440 for a voltage in units of 2^-20 V at gain 2^g. -/
def rawCode (diff : Bool) (g : Nat) (v : Int) : Int :=
  let x := (v * 2 ^ g * 81920 + 12 * 2 ^ 20) / (24 * 2 ^ 20)
  if diff then clampI x (-2048) 2047 else clampI x 0 4095

/-- A corrected code before its clamp (R440): exact rational arithmetic, rounded once. -/
def correctedCode (raw off : Int) (gf : Nat) : Int := roundEven ((16 * raw - off) * gf) 524288

/-- A sample's 16-bit result and whether R440 clamped it. -/
def sampleResult (s : State) (m e : Nat) (v : Int) : W16 × Bool :=
  let x := convCfg s m e
  let diff := differential (fld x 0 9)
  let g := fld x 13 3
  let off := (look (fun _ => (0 : W16)) (conv s m).off g).toInt
  let gf := (look (fun _ => (0x8000 : W16)) (conv s m).gf g).toNat
  let c0 := correctedCode (rawCode diff g v) off gf
  let c := if diff then clampI c0 (-2048) 2047 else clampI c0 0 4095
  let code := if diff && !bitOf x 17 then c + 2048 else c
  (BitVec.ofInt 16 (if bitOf x 16 then 16 * code else code), decide (c ≠ c0))

/-- A result in its entry's interpretation (R444). -/
def readAs (signed : Bool) (w : W16) : Int := if signed then w.toInt else w.toNat

/-- A bank with one more sample (R444). -/
def bankAdd (signed clip : Bool) (w : W16) (b : Bank) : Bank :=
  let lo := b.count = 0 ∨ readAs signed w < readAs signed b.mn
  let hi := b.count = 0 ∨ readAs signed b.mx < readAs signed w
  { acc := b.acc + BitVec.ofInt 64 (readAs signed w), count := b.count + 1, mn := if lo then w else b.mn,
    mx := if hi then w else b.mx, clips := if clip then b.clips + 1 else b.clips }

/-- One sample in both banks of its entry. -/
def takeSample (m e : Nat) (v : Int) (s : State) : State :=
  let sg := bitOf (convCfg s m e) 17
  let r := sampleResult s m e v
  let up (l : SMap Bank) : SMap Bank := put (fun _ => {}) l e (bankAdd sg r.2 r.1 (look (fun _ => {}) l e))
  setConv s m { conv s m with fw := up (conv s m).fw, host := up (conv s m).host }

/-- The entry that a converter converts next (R443): its valid entries in ascending order, and then again from the first. -/
def nextEntry (c : Conv) : Option Nat :=
  match c.pos with
  | none => (validEntries c).head?
  | some p => ((validEntries c).find? (p < ·)).orElse fun _ => (validEntries c).head?

/-- MONITOR_SAMPLE (R443, R444): the conversion in progress on a running converter completes; an entry is converted only in its turn. -/
def execMonitorSample (conv_ : Fin 14) (entry : Fin 16) (volts : Int) (s : State) : Host.Outcome State Fault Refusal :=
  .next (
    if (conv s conv_).st = 2 ∧ nextEntry (conv s conv_) = some entry.val then
      let t := takeSample conv_ entry volts s
      setConv t conv_ { conv t conv_ with pos := some entry.val }
    else s)

/-- A snapshot (R445): every live host bank is copied and cleared in one monitor cycle. -/
def snapshot (s : State) : State :=
  let s1 := forAll (List.range 14) (fun m s =>
    if conv s m = {} then s else setConv s m { conv s m with snap := (conv s m).host, host := [] }) s
  { s1 with mon := { s1.mon with snapSeq := s1.mon.snapSeq + 1, snapBeat := s1.fab.beat } }

/-- SNAP (R445): host software's write; below phase 7 it is discarded (R429). -/
def execSnap (v : W32) (s : State) : Host.Outcome State Fault Refusal :=
  .next (if below7 s ∨ !bitOf v.toNat 0 then s else snapshot s)

/-- The first running converter's valid entry that sampled an input in this window, with its firmware bank. -/
def windowBank (s : State) (code : Nat) : Option (Nat × Nat × Bank) :=
  (List.range 14).findSome? fun m =>
    if (conv s m).st ≠ 2 then none
    else (validEntries (conv s m)).findSome? fun e =>
      let b := look (fun _ => ({} : Bank)) (conv s m).fw e
      if fld (convCfg s m e) 0 9 = code ∧ b.count ≠ 0 then some (m, e, b) else none

/-- The mean code of an input over the window as sum and divisor, offset binary and alignment undone. -/
def meanCode (s : State) (code : Nat) : Option (Int × Nat) :=
  (windowBank s code).map fun x =>
    let cfg := convCfg s x.1 x.2.1
    let sg := bitOf cfg 17
    let n : Nat := x.2.2.count.toNat * (if bitOf cfg 16 then 16 else 1)
    let a : Int := if sg then x.2.2.acc.toInt else x.2.2.acc.toNat
    (if differential code && !sg then a - 2048 * (n : Int) else a, n)

/-- T_p from the mean code of a cluster's diode (R446). -/
def tempOf (p : Nat) (acc : Int) (n : Nat) : BitVec 12 :=
  BitVec.ofInt 12 (roundEven (16 * (25 * 2 ^ 32 * n + Config.diodeSlope * (2 ^ 16 * acc - Config.diodeCode25 p * n)))
    (2 ^ 32 * n))

/-- TEMPERATURE_UPDATE (R446): every enabled cluster's T_p from its diode's samples of the window; with none it stays. A move
beyond CAL_DELTA makes a calibration run due (R447). -/
def updateTemps (s : State) : State :=
  forAll ((List.range 112).filter (enabledCl s)) (fun p s =>
    match meanCode s p with
    | none => s
    | some x =>
      modCluster p (fun c =>
        let t := tempOf p x.1 x.2
        let far := decide (16 * s.mon.calDelta.toNat < (t.toInt - c.cal.tLast.toInt).natAbs)
        { c with pow := { c.pow with tP := t }, cal := { c.cal with due := c.cal.due || far } }) s) s

/-- A rail's mean voltage in mV over the window; the 54 V input passes a 1:50 divider (Table 15.1). -/
def railMv (s : State) (code : Nat) : Option W16 :=
  match windowBank s code, meanCode s code with
  | some x, some y =>
    let g := fld (convCfg s x.1 x.2.1) 13 3
    some (BitVec.ofInt 16 (roundEven (y.1 * 1200 * (if code = 0xA0 then 50 else 1)) (y.2 * 4096 * 2 ^ g)))
  | _, _ => none

/-- The rail inputs of Table 15.1. -/
def railCodes : List Nat :=
  ((List.range 4).flatMap fun q => (List.range 5).map fun i => 0x80 + 8 * q + i) ++ [0xA0, 0xA1, 0xA2]

/-- The window's rail readings kept (R494), and every firmware bank started afresh. -/
def closeBanks (s : State) : State :=
  let s1 := forAll railCodes (fun c s => match railMv s c with
    | none => s
    | some v => { s with pow := { s.pow with rails := put (fun _ => 0) s.pow.rails c v } }) s
  forAll (List.range 14) (fun m s => if (conv s m).fw = [] then s else setConv s m { conv s m with fw := [] }) s1

end Sys2Proof.Machine
end

