-- ==== Sys2Proof/Machine/PowerOps.lean ====
section
/-! DEFINITION. Window ends, operating points, the power limit, the trivet, the input and ageing re-plans (R459 to R482). -/

namespace Sys2Proof.Machine

/-- An event record of Table 16.3: its row and two data words; the packing of the data is the model's (log entry 28). -/
def powerEvent (row d1 d2 : Nat) : ErrRec := err 0x80 (if row = 6 then 3 else 0) row (d1 % 2 ^ 32) (d2 % 2 ^ 32)

/-- Clusters whose domain is powered: enabled and not power-gated. -/
def poweredClusters (s : State) : List Nat := (List.range 112).filter fun p => enabledCl s p && !(cluster s p).pow.gated

/-- T_p of a cluster, signed, in 1/16 °C. -/
def tempAt (s : State) (p : Nat) : Int := (cluster s p).pow.tP.toInt

/-- The powered cluster with the highest T_p, the lowest index on a tie. -/
def hottest (s : State) : Option Nat :=
  (poweredClusters s).foldl (fun a p => match a with
    | none => some p
    | some q => if tempAt s q < tempAt s p then some p else some q) none

/-- STEP after a window end (R468). -/
def nextStep (s : State) : Nat :=
  let n := s.pow.step.toNat
  let ps := poweredClusters s
  if ps.any fun p => decide (1520 < tempAt s p) then min 16 (n + 1)
  else if ps.all fun p => decide (tempAt s p < 1440) then n - 1
  else n

/-- STEP and an accepted limit set take effect together (R467, R468), with the events of Table 16.3. -/
def stepLimit (s : State) : State :=
  let n := nextStep s
  let old := s.pow.step.toNat
  let set1 := (s.pow.nextLimit.map (·.1)).getD s.pow.limitSet
  let force := max 300 (set1.toNat - 25 * n)
  let s1 := { s with pow := { s.pow with
    step := BitVec.ofNat 5 n, limitSet := set1, nextLimit := none, limitForce := BitVec.ofNat 10 force
    stepUps := if old < n then s.pow.stepUps + 1 else s.pow.stepUps
    stepDowns := if n < old then s.pow.stepDowns + 1 else s.pow.stepDowns } }
  let h := (hottest s).getD 0x7F
  let s2 := if old < n then
      raiseEvent false ((powerEvent 0 (n + force * 2 ^ 16) (h + ((cluster s h).pow.tP.toNat) * 2 ^ 16))) s1
    else if n < old then raiseEvent false (powerEvent 1 (n + force * 2 ^ 16) 0) s1 else s1
  let s3 := match s.pow.nextLimit with
    | some x => if x.1 = s.pow.limitSet then s2 else
        raiseEvent false (powerEvent 2 (s.pow.limitSet.toNat + x.1.toNat * 2 ^ 16) (if x.2 = .hostMsg then 0 else 1)) s2
    | none => s2
  if s1.pow.limitForce = s.pow.limitForce then s3 else forAll (List.range 112) setShare s3

/-- Operating points that a cluster may use, ascending (R481). -/
def pointsOf (s : State) (p : Nat) : List Nat := (List.range 8).filter fun k => bitOf (cluster s p).pow.valid.toNat k

/-- The next usable point above or below a cluster's present one in index. -/
def pointDown (s : State) (p : Nat) : Option Nat := (pointsOf s p).find? fun k => decide ((cluster s p).pow.point.toNat < k)
/-- The next usable point with a higher clock. -/
def pointUp (s : State) (p : Nat) : Option Nat := ((pointsOf s p).reverse).find? fun k => decide (k < (cluster s p).pow.point.toNat)

/-- A cluster below point 0 begins a move up at a window end (R464, R470); f(k) is 12 - k tenths of a gigahertz. -/
def moveUp (fell : Bool) (p power : Nat) (s : State) : State :=
  let c := (cluster s p).pow
  match pointUp s p with
  | none => s
  | some k =>
    if fell ∨ c.settle.isSome ∨ c.dropAt = some s.fab.beat ∨ 95 * c.share.toNat * (12 - c.point.toNat) < 100 * power * (12 - k) then s
    else modCluster p (fun q => { q with pow := { q.pow with
      volt := BitVec.ofNat 16 (pointVolt s p k), settle := some (s.fab.beat + 20) } }) s

/-- MIN_SLACK of a window, the emergency raise of R479, and what makes a re-plan due (R480). -/
def judgeSlack (p : Nat) (slack : Byte) (s : State) : State :=
  let s1 := modCluster p (fun c => { c with pow := { c.pow with minSlack := slack, due := c.pow.due || decide (slack.toNat < 12) } }) s
  let v := (cluster s p).pow.volt.toNat
  let k := (cluster s p).pow.point.toNat
  if slack.toNat < 4 ∧ v + 5 ≤ 850 then
    let s2 := modCluster p (fun c => { c with pow := { c.pow with
      volt := BitVec.ofNat 16 (v + 5), emergency := c.pow.emergency + 1,
      raises := put (fun _ => 0) c.pow.raises k (look (fun _ => 0) c.pow.raises k + 1),
      current := BitVec.ofNat 16 (c.pow.share.toNat * 1000 / (v + 5)) } }) s1
    raiseEvent false ((powerEvent 5 (p + slack.toNat * 2 ^ 8) (v + 5)).atCluster p) s2
  else s1

/-- One cluster at a window end: slack, warning, move up, and the 720 hours of R480. -/
def windowCluster (fell : Bool) (w : ClWindow) (s : State) : State :=
  let p := w.cluster.val
  if !enabledCl s p then s
  else
    let s1 := judgeSlack p w.slack s
    let s2 := if 1600 ≤ tempAt s p then
        raiseEvent false ((powerEvent 4 p (cluster s p).pow.tP.toNat).atCluster p) s1 else s1
    let since := ((s.lar.ages.reverse.find? fun a => a.cluster.toNat == p).map (·.powerOn.toNat)).getD 0
    let s3 := if 2592000 ≤ s.lar.live.powerOn.toNat - since then
        modCluster p (fun c => { c with pow := { c.pow with due := true } }) s2 else s2
    let s4 := moveUp fell p w.power.toNat s3
    modCluster p (fun c => { c with pow := { c.pow with moved := false } }) s4

/-- Histogram bin of T_MAX in 1/16 °C (R516). -/
def histoBin (t : Int) : Nat := if t < 640 then 0 else min 15 (1 + ((t - 640) / 80).toNat)

/-- Everything queued in the write queue stands before what follows. -/
def drainWrites : Nat → State → State
  | 0, s => s
  | n + 1, s => if s.lar.queue.isEmpty then s else drainWrites n (pageComplete s)

/-- A trip (R472 to R474): the always-on domain keeps its record, and the die rails go down. -/
def trip (diode : Option Nat) (s : State) : State :=
  let now := s.pow.ticks
  let times := (s.pow.tripTimes ++ [now]).drop (s.pow.tripTimes.length + 1 - 4)
  let latch := times.length = 4 ∧ now - times.headD 0 < 3600 * 32768
  let s1 := { s with pow := { s.pow with
    tripped := true, tripTick := now, tripTimes := times, latched := s.pow.latched || decide latch
    tripRecs := s.pow.tripRecs ++ [{ diode := BitVec.ofNat 7 (diode.getD 0x7F), beat := s.fab.beat, tick := now,
                                     latch := if latch then times.head? else none }] } }
  let s2 := cutRails s1
  { s2 with su := { s2.su with restartCause := 3 } }

/-- FIRMWARE_SHUTDOWN (R476): recorded, and then a trip is requested. -/
def firmwareShutdown (s : State) : State :=
  match hottest s with
  | none => s
  | some p =>
    if 1680 ≤ tempAt s p ∧ (s.pow.step = 16 ∨ s.pow.limitForce = 300) then
      let s1 := { s with
        pow := { s.pow with fwShut := s.pow.fwShut + 1 }
        lar := { s.lar with live := { s.lar.live with fwShut := s.lar.live.fwShut + 1 } } }
      let s2 := writeCounters (raiseEvent true
        ((powerEvent 6 (p + s.pow.step.toNat * 2 ^ 8) (cluster s p).pow.tP.toNat).atCluster p) s1)
      trip none (drainWrites s2.lar.queue.length s2)
    else s

/-- In-use engines with START_STEP above its table value, and the highest START_STEP (Table 16.5). -/
def startSteps (s : State) (p : Nat) : Nat × Nat :=
  let es := inUseEngines s p
  ((es.filter fun e => decide ((Config.tableStartStep e).toNat < (engine s e).startStep.toNat)).length,
   es.foldl (fun a e => max a (engine s e).startStep.toNat) 0)

/-- The start-step summary of a cluster written (Table 16.5). -/
def writeStartSteps (p : Nat) (s : State) : State :=
  let r := startSteps s p
  modCluster p (fun c => { c with pow := { c.pow with raised := BitVec.ofNat 9 r.1, maxStart := BitVec.ofNat 4 r.2 } }) s

/-- WINDOW_END (R468): temperatures, STEP and the limit, the clusters' points and slacks, the registers of Table 16.4, the
histogram, and a firmware shutdown. -/
def windowEnd (d : WindowData) (s : State) : State :=
  if !viewOn s then s
  else
    let s1 := closeBanks (updateTemps s)
    let s2 := stepLimit s1
    let s3 := forAll ((List.range 112).filter (enabledCl s2)) writeStartSteps
      (forAll d.clusters (windowCluster (decide (s2.pow.limitForce.toNat < s.pow.limitForce.toNat))) s2)
    let h := hottest s3
    let t := match h with | none => 0 | some p => tempAt s3 p
    let s4 := { s3 with pow := { s3.pow with
      hot := (poweredClusters s3).any fun p => decide (1520 < tempAt s3 p)
      hotCluster := BitVec.ofNat 7 (h.getD 0x7F), tMax := BitVec.ofInt 12 t, avg := d.powerAvg, peak := d.powerPeak,
      inputV := d.inputV } }
    let b := histoBin t
    let s5 := { s4 with lar := { s4.lar with live := { s4.lar.live with
      histo := put (fun _ => 0) s4.lar.live.histo b (look (fun _ => 0) s4.lar.live.histo b + 1) } } }
    firmwareShutdown s5

/-- WINDOW_END (R468). -/
def execWindowEnd (d : WindowData) (s : State) : Host.Outcome State Fault Refusal := .next (windowEnd d s)

/-- POWER_WINDOW_END (R470): a cluster whose 64-beat average exceeds its share moves down one point at this beat edge. -/
def powerWindow (p : Nat) (power : W16) (s : State) : State :=
  if !enabledCl s p ∨ !viewOn s then s
  else
    let s1 := modCluster p (fun c => { c with pow := { c.pow with power := power } }) s
    let c := (cluster s p).pow
    match (if c.share.toNat < power.toNat then pointDown s p else none) with
    | none => s1
    | some k =>
      let v := pointVolt s p k
      let s2 := modCluster p (fun q => { q with pow := { q.pow with
        point := BitVec.ofNat 3 k, volt := BitVec.ofNat 16 v, settle := none, drops := q.pow.drops + 1, dropAt := some s.fab.beat,
        current := BitVec.ofNat 16 (q.pow.share.toNat * 1000 / max 1 v) } }) s1
      let bound := (List.range 18).any fun i => (core s (18 * p + i)).bound.isSome
      if bound ∧ c.point = 0 ∧ !c.moved then
        raiseEvent false ((powerEvent 3 (p + k * 2 ^ 8) (power.toNat + c.share.toNat * 2 ^ 16)).atCluster p)
          (modCluster p (fun q => { q with pow := { q.pow with moved := true } }) s2)
      else s2

/-- POWER_WINDOW_END (R470). -/
def execPowerWindowEnd (cluster : Fin 112) (power : W16) (s : State) : Host.Outcome State Fault Refusal :=
  .next (powerWindow cluster power s)

/-- POINT_SETTLE (R464): the voltage of a move up has settled, and the clock changes at a beat edge after its 20 µs. -/
def execPointSettle (cluster_ : Fin 112) (s : State) : Host.Outcome State Fault Refusal :=
  let p := cluster_.val
  .next (
    match (cluster s p).pow.settle, pointUp s p with
    | some t, some k =>
      if s.fab.beat.toNat < t.toNat then s
      else modCluster p (fun q => { q with pow := { q.pow with
        point := BitVec.ofNat 3 k, settle := none,
        current := BitVec.ofNat 16 (q.pow.share.toNat * 1000 / max 1 q.pow.volt.toNat) } }) s
    | _, _ => s)

/-- A late fraction exceeds 2 %. -/
def lateHigh (f : Nat × Nat) : Bool := decide (f.2 < 50 * f.1)
/-- A late fraction is below 0.5 %. -/
def lateLow (f : Nat × Nat) : Bool := decide (200 * f.1 < f.2)
/-- The larger of two fractions. -/
def lateWorst (a b : Nat × Nat) : Nat × Nat := if a.1 * b.2 < b.1 * a.2 then b else a

/-- START_STEP of one engine re-planned (R481). -/
def replanEngine (e : Nat) (s : State) : State :=
  let g := engine s e
  let f := g.lateMax
  let n := g.startStep.toNat
  let s1 := setEngine s e { g with
    lateMax := (0, 1)
    startStep := if lateHigh f then BitVec.ofNat 4 (min 15 (n + 1))
                 else if lateLow f ∧ (Config.tableStartStep e).toNat < n then BitVec.ofNat 4 (n - 1) else g.startStep }
  if lateHigh f ∧ n = 15 then raise ((err 0x34 0 (f.1 * 65536 / max 1 f.2) 0 0).atEngine e) s1 else s1

/-- A re-plan takes effect (R481): the delta the stepping found from the present point's voltage, which its raises (R479) are part of, never
below the tables' voltage; points above 850 mV removed; START_STEP changes, the ageing history and the counters. -/
def applyReplan (p : Nat) (d : ReplanData) (s : State) : State :=
  let c := (cluster s p).pow
  let delta := ((c.vDelta.toNat + look (fun _ => 0) c.raises c.point.toNat : Nat) + d.steps).toNat
  let s1 := forAll (inUseEngines s p) replanEngine s
  let r := startSteps s1 p
  let valid := (List.range 8).foldl (fun a k =>
    a + bit (bitOf (cluster s p).pow.valid.toNat k && decide (Config.tableVolt p k % 2 ^ 16 + 5 * delta ≤ 850)) * 2 ^ k) 0
  let s2 := modCluster p (fun c => { c with pow := { c.pow with
    vDelta := BitVec.ofNat 8 delta, raises := [], valid := BitVec.ofNat 8 valid, due := false, replan := none,
    volt := BitVec.ofNat 16 (min 850 (Config.tableVolt p c.pow.point.toNat % 2 ^ 16 + 5 * delta)),
    raised := BitVec.ofNat 9 r.1, maxStart := BitVec.ofNat 4 r.2 } }) s1
  let e : AgeEntry :=
    { cluster := BitVec.ofNat 7 p, cause := d.cause, vDelta := BitVec.ofNat 8 delta, valid := BitVec.ofNat 8 valid,
      maxStart := BitVec.ofNat 4 r.2, raised := BitVec.ofNat 9 r.1, calendar := s.lar.calendar,
      powerOn := s.lar.live.powerOn, boots := s.lar.live.boots }
  let s3 := submitJob 4 (.ageing e) { s2 with
    pow := { s2.pow with replans := s2.pow.replans + 1, lastReplan := BitVec.ofNat 64 (s.lar.calendar.toNat / 32768) }
    lar := { s2.lar with live := { s2.lar.live with replans := s2.lar.live.replans + 1 } } }
  let s4 := setShare p (writeCounters s3)
  if bitOf valid 0 then s4 else failCluster p 6 s4

/-- A cluster's re-plan completes (R480): at once where no binding holds a core of the cluster; else in a window that permits
calibration, of the lowest such core, and it takes effect at that window's end. -/
def replan (p : Nat) (d : ReplanData) (s : State) : State :=
  let ks := (List.range 18).map (18 * p + ·)
  if !enabledCl s p ∨ !(cluster s p).pow.due then s
  else if ks.all (unheld s) then applyReplan p d s
  else
    match ks.find? fun k => !unheld s k && windowOpen s k 2 0 with
    | some k => modCluster p (fun c => { c with pow := { c.pow with replan := some (k, d) } }) s
    | none => s

/-- The re-plan that waits for the end of a window of core `k` takes effect (R480). -/
def replanAt (k : Nat) (s : State) : State :=
  match (cluster s (clOf k)).pow.replan with
  | some x => if x.1 = k then applyReplan (clOf k) x.2 s else s
  | none => s

/-- REPLAN_COMPLETE (R480, R481). -/
def execReplanComplete (cluster : Fin 112) (d : ReplanData) (s : State) : Host.Outcome State Fault Refusal :=
  .next (replan cluster d s)

/-- CLUSTER_POWER_GATE (R466): 1,024 beats after an idle cluster's clock was gated. -/
def execClusterPowerGate (cluster : Fin 112) (s : State) : Host.Outcome State Fault Refusal :=
  .next (if clusterIdle s cluster ∧ viewOn s ∧ (Sys2Proof.Machine.cluster s cluster).pow.clkGated
        ∧ 1024 ≤ (Sys2Proof.Machine.cluster s cluster).pow.idle then
      modCluster cluster (fun c => { c with pow := { c.pow with gated := true } }) s
    else s)

/-- TRIVET_TRIP (R472): while the die rails are up. -/
def execTrivetTrip (diode : Option (Fin 112)) (s : State) : Host.Outcome State Fault Refusal :=
  .next (if s.pow.railsUp ∧ s.pow.inputGood ∧ !s.pow.modReset then trip (diode.map (·.val)) s else s)

/-- TRIVET_RELEASE (R473, R474): 100 ms after the trip with every comparator below 85 °C, unless latched. -/
def execTrivetRelease (s : State) : Host.Outcome State Fault Refusal :=
  .next (
    if !s.pow.tripped ∨ s.pow.latched ∨ !s.pow.inputGood ∨ s.pow.ticks - s.pow.tripTick < 3277 then s
    else if s.pow.modReset then { s with pow := { s.pow with tripped := false } }
    else tripStart s)

/-- Input loss (R461): the die rails are cut, the flash completes its page, and the next start is cold. -/
def inputLost (s : State) : State :=
  if !s.pow.inputGood then s
  else
    let s1 := cutRails { s with pow := { s.pow with inputGood := false } }
    { s1 with su := { s1.su with restartCause := 0 } }

/-- INPUT_LOSS (R461). -/
def execInputLoss (s : State) : Host.Outcome State Fault Refusal := .next (inputLost s)

/-- PWR_SENSE_OPEN (R536): input loss at once. -/
def execPwrSenseOpen (s : State) : Host.Outcome State Fault Refusal :=
  .next (inputLost { s with pow := { s.pow with pwrSense := false } })

/-- INPUT_RESTORE (R461): the input has stayed good, so a latch ends (R474) and the part starts cold. -/
def execInputRestore (s : State) : Host.Outcome State Fault Refusal :=
  .next (
    if s.pow.inputGood then s
    else
      let s1 := { s with pow := { s.pow with inputGood := true, pwrSense := true, tripped := false, latched := false } }
      if s1.pow.modReset then s1 else coldStart s1)

/-- HOLD_UP_END (R461, R536): without the input the always-on domain loses its trip record and the calendar. -/
def execHoldUpEnd (s : State) : Host.Outcome State Fault Refusal :=
  .next (
    if s.pow.inputGood then s
    else { s with
      pow := { s.pow with tripRecs := [], tripTimes := [], latched := false, ticks := 0, tripTick := 0 }
      lar := { s.lar with calendar := 0, calRest := false, calSets := [] } })

end Sys2Proof.Machine
end

