-- ==== Sys2Proof/Machine/Calib.lean ====
section
/-! DEFINITION. Array calibration (R447 to R456): CALIBRATION_START and CALIBRATION_MEASUREMENT_COMPLETE, with reference
reselection (R453), sparing of columns (R82 to R84) and what an accepted result changes (R454). -/

namespace Sys2Proof.Machine

/-- What one measurement of an engine reads (R449): for sets Z, N and P the sum of the 64 raw codes of every physical column; for N7 and
P7 the raw codes of every physical column in each pass; and the columns that saturated in a pass of their sets. -/
structure CalMeas where
  z   : List Int
  n   : List Int
  p   : List Int
  n7  : List (List Int)
  p7  : List (List Int)
  sat : List Nat

/-! ### The passes of a measurement (R449) -/

/-- A pass on plane 64 of an engine: the raw code of every physical column, and whether it saturates. -/
def testPass (s : State) (e : Nat) (xs : List Int) (ks : List Nat) (r : Nat) : List (Int × Bool) :=
  let n := 65 * e + 64
  let cols := (List.range 264).map fun col =>
    (col, if 261 ≤ col then 7 else r, columnSum n (plane s n) (rowMap s n) xs ks col)
  (cols.zip (charges s n xs ks cols)).map fun y => (codeOf y.1.2.1 y.2, overrange y.1.2.1 y.2)

/-- One calibration pass: every logical row with code `x` at k = 64. -/
def calPass (s : State) (e : Nat) (x : Int) (r : Nat) : List (Int × Bool) :=
  testPass s e (List.replicate 256 x) (List.replicate 8 64) r

/-- The 64 passes of a set, each with its own free random part from `at_` on (log entry 1). -/
def calSet (s : State) (e : Nat) (x : Int) (r at_ : Nat) : List (List (Int × Bool)) :=
  (List.range 64).map fun i => calPass { s with fresh := s.fresh + at_ + i } e x r

/-- The sums of a set's codes by column. -/
def setSums (l : List (List (Int × Bool))) : List Int :=
  (List.range 264).map fun col => l.foldl (fun a q => a + (q.getD col (0, false)).1) 0

/-- A column saturates in a pass of a set. -/
def setSat (l : List (List (Int × Bool))) (col : Nat) : Bool := l.any fun q => (q.getD col (0, false)).2

/-- One measurement of an engine: the five sets of Table 15.2 in their order. A column's sets are Z, N and P, and the checksum column's Z,
N7 and P7 (R450). -/
def measured (s : State) (e : Nat) : CalMeas :=
  let z := calSet s e 0 3 0
  let n := calSet s e 4 3 64
  let p := calSet s e (-4) 3 128
  let n7 := calSet s e 4 7 192
  let p7 := calSet s e (-4) 7 256
  let codes (l : List (List (Int × Bool))) : List (List Int) := l.map (·.map (·.1))
  { z := setSums z, n := setSums n, p := setSums p, n7 := codes n7, p7 := codes p7
    sat := (List.range 264).filter fun col =>
      setSat z col || (if col = 260 then setSat n7 col || setSat p7 col else setSat n col || setSat p col) }

/-! ### Columns (R450, R451) -/

/-- A physical column disabled for a periphery fault (R82): off in the maps of all 65 planes, or still to be in the map of a plane that has
not been rewritten since. -/
def peripheryOff (s : State) (e col : Nat) : Bool :=
  (engine s e).spareCols.contains col
  || (List.range 65).all fun i => (look (fun _ => []) s.lar.repair.colsOff (65 * e + i)).contains col

/-- The measured columns of an engine: plane 64's selected weight columns but those disabled for a periphery fault, the checksum column and
the references. -/
def measuredCols (s : State) (e : Nat) : List Nat :=
  ((colMap s (65 * e + 64)).filter fun col => !peripheryOff s e col) ++ [260, 261, 262, 263]

/-- The sum of a column's raw codes over the passes of a set. -/
def colSum (ps : List (List Int)) (col : Nat) : Int := ps.foldl (fun a l => a + l.getD col 0) 0

/-- g_j (R450): the gain from the two sets whose ideal sums are +|S| and -|S|. REF_Z, whose ideal sum is 0, gives none. -/
def gainOf (m : CalMeas) (col : Nat) : W32 :=
  let d (plus minus : List Int) : Int := plus.getD col 0 - minus.getD col 0
  if col = 260 then f32Of { m := colSum m.p7 col - colSum m.n7 col, e := -13 }
  else if col = 261 then f32Of { m := d m.n m.p, e := -12 }
  else if col = 262 then f32Of { m := d m.p m.n, e := -12 }
  else f32Of { m := d m.p m.n, e := -13 }

/-- o_j (R450): the mean code of set Z. -/
def offsetOf (m : CalMeas) (col : Nat) : W32 := f32Of { m := m.z.getD col 0, e := -6 }

/-- A measured column passes (R450, R451): it never saturated, |o| is at most 8, and g lies within 0.88 to 1.12 where it has
one. -/
def colPasses (m : CalMeas) (col : Nat) : Bool :=
  let g := fv (gainOf m col)
  !m.sat.contains col && fle (fabs (offsetOf m col)) 0x41000000
  && (col == 263 || (dyLe (dyInt 88) (dyMul g (dyInt 100)) && dyLe (dyMul g (dyInt 100)) (dyInt 112)))

/-- The columns that fail a measurement. -/
def failedCols (s : State) (e : Nat) (m : CalMeas) : List Nat := (measuredCols s e).filter fun c => !colPasses m c

/-- fp16(1 / g) for a g above 0. -/
def invHalf (g : W32) : W16 := let v := magVal f32 g.toNat; BitVec.ofNat 16 (roundMag f16 false 1 v.1 (-v.2)).1

/-- The mean of gains, each addition and the division rounded to FP32. -/
def meanGain (gs : List W32) : W32 := fdiv (gs.foldl fadd 0) (f32Of (dyInt gs.length))

/-- G of REF_Z, which no set measures: an open value inside the limits of R451 (log entry 35). -/
def openGain (s : State) : W16 := BitVec.ofNat 16 (0x3B25 + Config.freeNat s.fresh % 0x167)

/-- The gain of a weight column that plane 64's map leaves unselected: the mean over its converter's measured columns, or over
the engine's (R450). -/
def gainBeside (ms : List Nat) (m : CalMeas) (col : Nat) : W32 :=
  let own := ms.filter fun c => c / 4 == col / 4 && c != 263
  meanGain ((if own.isEmpty then ms.filter (· != 263) else own).map (gainOf m))

/-- The new correction table (R450): O and G of every physical column. -/
def newTable (s : State) (e : Nat) (m : CalMeas) : List (W16 × W16) :=
  let ms := measuredCols s e
  (List.range 264).map fun col =>
    let o := f2h (offsetOf m col)
    if col = 263 then (o, openGain s)
    else if ms.contains col then (o, invHalf (gainOf m col))
    else if peripheryOff s e col then (look (fun _ => 0) (engine s e).oTab col, look (fun _ => 0x3C00) (engine s e).gTab col)
    else (o, invHalf (gainBeside ms m col))

/-- An FP16 magnitude kept within two positive bounds. -/
def clampHalf (x lo hi : Nat) : W16 := BitVec.ofNat 16 (max lo (min x hi))

/-- clamp(fp16(6 sd / 2^n), 2.0, 6.0) (R451). -/
def bandOf (sd : W32) (n : Nat) : W16 :=
  let v := magVal f32 sd.toNat
  clampHalf (roundMag f16 false (6 * v.1) 1 (v.2 - n)).1 0x4000 0x4600

/-- A correction table as its registers' maps. -/
def tabMaps (l : List (W16 × W16)) : SMap W16 × SMap W16 :=
  let one (f : W16 × W16 → W16) (d : W16) : SMap W16 := ((List.range 264).zip l).foldl (fun m x => put (fun _ => d) m x.1 (f x.2)) []
  (one (·.1) 0, one (·.2) 0x3C00)

/-- d_cs and d_in of one pass of N7 or P7, whose row codes are `x`, under a new table (R113, R451); plane 64's trim is 1.0 (R449). -/
def bandTerms (s : State) (e : Nat) (t : SMap W16 × SMap W16) (x : Int) (codes : List Int) : W32 × W32 :=
  let n := 65 * e + 64
  let vals := (shotCols s n).map fun col => (correct t 0x3C00 col 7 (codes.getD col 0)).1
  let v := compares (engine s e) (plane s n) 7 vals (List.replicate 256 x) (List.replicate 8 64)
  (v.dcs, v.din)

/-- The terms of the 128 passes of N7 and P7 (R451). -/
def allTerms (s : State) (e : Nat) (m : CalMeas) (tab : List (W16 × W16)) : List (W32 × W32) :=
  m.n7.map (bandTerms s e (tabMaps tab) 4) ++ m.p7.map (bandTerms s e (tabMaps tab) (-4))

/-- The standard deviation of terms in FP32 (R451), whose divisor and rounding the spec leaves open: the number of terms or one less, and
the nearest FP32 number or a neighbour of it (log entry 140). -/
def stdDev (l : List W32) : W32 :=
  if !l.all fin32 then Config.nonFinite 4 (l.headD 0) (BitVec.ofNat 32 l.length)
  else
    let n := l.length
    let sum := l.foldl (fun a x => dyAdd a (fv x)) (dyInt 0)
    let sq := l.foldl (fun a x => dyAdd a (dyMul (fv x) (fv x))) (dyInt 0)
    let spread := dyAdd (dyMul (dyInt n) sq) (dyNeg (dyMul sum sum))
    let near := (f32Of (dySqrt (dyDiv spread (dyInt (n * max 1 (if Config.sdSample then n - 1 else n)))))).toNat
    BitVec.ofNat 32 (near + Config.sdStep l % 3 - 1)

/-- gmove (R451): how far the gains of the weight columns have moved since the previous calibration. -/
def gmove (s : State) (e : Nat) (m : CalMeas) : W32 :=
  (colMap s (65 * e + 64)).foldl (fun a col =>
    fmax a (fabs (fsub (fmul (gainOf m col) (h2f (look (fun _ => 0x3C00) (engine s e).gTab col))) 0x3F800000))) 0

/-- What a passing measurement leaves for the engine (R450, R451, R454). -/
def resultOf (s : State) (e : Nat) (m : CalMeas) (stages : List Nat) : CalNext :=
  let c := clampHalf (f2h (fadd 0x3D4CCCCD (fmul 0x40000000 (gmove s e m)))).toNat 0x2A66 0x3800
  let tab := newTable s e m
  let ts := allTerms s e m tab
  { table := tab, cCs := bandOf (stdDev (ts.map (·.1))) 11, cIn := bandOf (stdDev (ts.map (·.2))) 7,
    cA := if (engine s e).prior then c else 0x3400, cB := if (engine s e).prior then c else 0x3266,
    stages := stages, refs := (engine s e).refNext }

/-! ### Drift evaluation (R95) -/

/-- The drift accumulators of a plane cleared. -/
def clearDrift (q : Plane) : Plane := { q with n := 0, m := 0, x := 0, z := 0, a := 0 }

/-- d_new = fp16(D_p × ratio). -/
def newTrim (dp : W16) (ratio : W32) : Nat := (roundDy f16 false (dyMul (dyOf f16 dp.toNat) (fv ratio))).1

/-- The pseudocode of R95 marks the plane stale. -/
def driftStale (q : Plane) (ratio : W32) : Bool :=
  let d := dyMul (dyOf f16 (newTrim q.dp ratio)) (dyInt 100)
  dyLt d (dyInt 98) || dyLt (dyInt 110) d || dyLt (fv q.a) (dyMul (dyAbs (fv q.z)) (dyInt 20))

/-- A plane's new trim, or none where the evaluation marks it stale (R95). -/
def evalDrift (q : Plane) : Option W16 :=
  if !fin32 q.x ∨ !fin32 q.m ∨ !fin32 q.z ∨ !fin32 q.a then none
  else if zeroF f32 q.m.toNat then (if zeroF f32 q.x.toNat then some q.dp else none)
  else
    let ratio := fdiv q.x q.m
    if driftStale q ratio then none else some (BitVec.ofNat 16 (newTrim q.dp ratio))

/-- The evaluation's effect on a plane (R95): D_p kept and the plane STALE, or D_p new, the old one serving this beat (R92); the
accumulators cleared. -/
def drifted (s : State) (q : Plane) : Plane :=
  match evalDrift q with
  | some d => { clearDrift q with dp := d, oldDp := some (s.fab.beat, q.dp) }
  | none => { clearDrift q with st := 3, staleAt := s.fab.beat }

/-- The READY planes of a core that its window end evaluates. -/
def evaluated (s : State) (k : Nat) : List Nat :=
  (listedPlanes s k).filter fun n => let q := plane s n; q.st == 2 && q.next.isNone && decide (64 ≤ q.n)

/-- The cluster's summaries written (R88, R225, Tables 3.5 to 3.7), with `marks` planes newly stale. -/
def summaries (p marks : Nat) (s : State) : State := planeSummary p (bandSummary p (driftSummary marks p (sparingSummary p s)))

/-! ### An accepted result takes effect (R454) -/

/-- Selections of stages and reference cells enter the repair map. -/
def keepSelections (e : Nat) (r : CalNext) (s : State) : State :=
  if r.stages.isEmpty ∧ r.refs.isNone then s
  else
    let st := r.stages.foldl (fun m c => put (fun _ => false) m (66 * e + c) (!look (fun _ => false) m (66 * e + c))) s.lar.repair.stage
    let rc := match r.refs with | some l => put (fun _ => []) s.lar.repair.refCells e l | none => s.lar.repair.refCells
    let s1 := { s with lar := { s.lar with repair := { s.lar.repair with stage := st, refCells := rc } } }
    writeRepair (modCluster (clOf (coreOf e)) (fun c => { c with cal := { c.cal with
      stages := c.cal.stages + BitVec.ofNat 16 r.stages.length, refs := if r.refs.isSome then c.cal.refs + 1 else c.cal.refs } }) s1)

/-- An accepted calibration of an engine applied: its table, bands and selections, and the drift sums of its planes cleared. -/
def applyCal (e : Nat) (s : State) : State :=
  match (engine s e).calNext with
  | none => s
  | some r =>
    let t := tabMaps r.table
    let s1 := modEngine e (fun g => { g with
      oTab := t.1, gTab := t.2, prior := true, cCs := r.cCs, cIn := r.cIn, cA := r.cA, cB := r.cB,
      oldTab := some (s.fab.beat, g.oTab, g.gTab), calNext := none, refNext := none }) s
    let s2 := forAll ((s1.hw.planes.filter fun x => engOf x.1 == e).map (·.1)) (fun n => modPlane n clearDrift) s1
    keepSelections e r s2

/-! ### Runs (R447, R456) -/

/-- An engine's calibration has ended: ENGINES_LEFT, and the run's completion (R456); one of a reselection outside a run is no part of
one. -/
def calEnded (e : Nat) (s : State) : State :=
  let p := clOf (coreOf e)
  if !(cluster s p).cal.running then s
  else calJudge p (modCluster p (fun c => { c with cal := { c.cal with done := c.cal.done ++ [e] } }) s)

/-- An engine may be calibrated now (R448): in a run of its cluster or for a reselection (R453), with nothing else running on
it in this beat, and on a held core inside a window that permits it with 56 beats left. -/
def calMayStart (s : State) (e : Nat) : Bool :=
  let k := coreOf e
  let p := clOf k
  let c := (cluster s p).cal
  decide (5 ≤ s.su.phase.toNat) && enabledCl s p && (liveEngines s p).contains e && (engine s e).cal.isNone
  && (engine s e).calNext.isNone && (engine s e).prog.isNone && !(core s k).kat.running && (engine s e).passBeat != some s.fab.beat
  && (((engine s e).refNext.isSome && (!(engine s e).refHeld || unheld s k)) || (if c.running then !c.done.contains e else c.due))
  && (freeFor s k 56 || windowHas s k 2 56)

/-- CALIBRATION_START (R448, R449): the engine's first measurement begins; a run that is due starts with it (R447). -/
def execCalibrationStart (e : Fin 34272) (s : State) : Host.Outcome State Fault Refusal :=
  .next (
    if !calMayStart s e then s
    else
      let p := clOf (coreOf e)
      let c := (cluster s p).cal
      let s1 := if c.due && !c.running then startCalRun p s else s
      modEngine e (fun g => { g with cal := some { second := false, failed := [], stages := [] } }) s1)

/-! ### Rejection (R452, R453, R455, R82 to R84) -/

/-- The reference cells in use on an engine: the first four until a selection is kept (log entry 36). -/
def refsInUse (s : State) (e : Nat) : List Nat :=
  match look (fun _ => []) s.lar.repair.refCells e with | [] => [0, 1, 2, 3] | l => l

/-- How many of the six cells lie before cell `i` in distance from the target, ties to the lower index; `n` divides the sums. -/
def refRank (refs : List Int) (n i : Nat) : Nat :=
  let d (j : Nat) : Nat := (refs.getD j 0 - Config.refTarget * n).natAbs
  ((List.range 6).filter fun j => decide (d j < d i) || (d j == d i && decide (j < i))).length

/-- The four cells whose mean lies closest to the target code (R453). -/
def chosenRefs (refs : List Int) (n : Nat) : List Nat := (List.range 6).filter fun i => decide (refRank refs n i < 4)

/-- The running converter and the valid entry that read a cluster's sense line (Table 15.1), if there are such. -/
def senseEntry (s : State) (p : Nat) : Option (Nat × Nat) :=
  (List.range 14).findSome? fun m =>
    if (conv s m).st ≠ 2 then none
    else ((validEntries (conv s m)).find? fun e => fld (convCfg s m e) 0 9 == 0x100 + p / 14).map (m, ·)

/-- The sum of a cell's samples (R453) as codes, offset binary undone. -/
def cellSum (s : State) (m e : Nat) (volts : List Int) : Int :=
  let sg := bitOf (convCfg s m e) 17
  let one := if bitOf (convCfg s m e) 16 then 16 else 1
  volts.foldl (fun a v => a + readAs sg (sampleResult s m e v).1 - (if sg then 0 else 2048 * (one : Int))) 0

/-- Reference reselection (R453): 16 samples of each of the six cells through the group's sense line, in the firmware bank; the new cells
wait for their calibration. With none to choose, or no entry that reads the sense line (log entry 173), a test is scheduled. -/
def reselect (e : Nat) (volts : List (List Int)) (s : State) : State :=
  match senseEntry s (clOf (coreOf e)) with
  | none => katDue (coreOf e) s
  | some x =>
    let cells := (List.range 6).map fun i => volts.getD i []
    let n := 16 * (if bitOf (convCfg s x.1 x.2) 16 then 16 else 1)
    let l := chosenRefs (cells.map (cellSum s x.1 x.2)) n
    let s1 := forAll cells.flatten (takeSample x.1 x.2) s
    if l = refsInUse s e then katDue (coreOf e) s1
    else modEngine e (fun g => { g with refNext := some l, refHeld := !unheld s (coreOf e) }) s1

/-- Columns spared on every plane of an engine (R82, R83): at once in the map of a plane that holds no valid weights, else as each
plane is rewritten. -/
def spareNow (e : Nat) (cols : List Nat) (s : State) : State :=
  forAll ((List.range 65).map (65 * e + ·)) (fun n s =>
    let st := (plane s n).st
    if st = 2 ∨ st = 3 ∨ st = 4 ∨ st = 6 then s
    else
      let off := look (fun _ => []) s.lar.repair.colsOff n
      { s with lar := { s.lar with repair := { s.lar.repair with
        colsOff := put (fun _ => []) s.lar.repair.colsOff n (off ++ cols.filter fun c => !off.contains c) } } }) s

/-- The columns of a periphery fault would take the map of a plane in service past four (R82, R84). -/
def columnsSpent (s : State) (e : Nat) (cols : List Nat) : Bool :=
  ((List.range 65).map (65 * e + ·)).any fun n =>
    (plane s n).st != 5 && decide (4 < (look (fun _ => []) s.lar.repair.colsOff n ++ cols).dedup.length)

/-- Sparing requested for the columns that failed both measurements (R452): a converter whose four columns fail, a failure of
converter 65's columns, or one that a plane's map has no room for fails the engine (R84). -/
def requestSparing (e : Nat) (cols : List Nat) (s : State) : State :=
  let all := ((engine s e).spareCols ++ cols).dedup
  let wholeConv := (List.range 65).any fun c => (cols.filter fun x => x / 4 == c).length == 4
  if cols.any (260 ≤ ·) ∨ wholeConv ∨ 4 < all.length ∨ columnsSpent s e all then failEngine e s
  else writeRepair (spareNow e cols (modEngine e (fun g => { g with spareCols := all }) s))

/-- A calibration rejected (R452, R455): values are kept, CAL_FAILS rises; at phase 5 the engine has failed. -/
def reject (e : Nat) (f : State → State) (s : State) : State :=
  let s1 := modCluster (clOf (coreOf e)) (fun c => { c with cal := { c.cal with fails := c.cal.fails + 1 } })
    (modEngine e (fun g => { g with cal := none, refNext := none }) s)
  calEnded e (if s.su.phase = 5 then failEngine e s1 else f s1)

/-- The end of the window that a calibration is on a core that no binding holds (R448, R454): the engine's planes are evaluated (R95), the
result takes effect, and the summaries are written. -/
def ownWindow (e : Nat) (s : State) : State :=
  let ns := (evaluated s (coreOf e)).filter fun n => engOf n == e
  let marks := (ns.filter fun n => (evalDrift (plane s n)).isNone).length
  summaries (clOf (coreOf e)) marks (applyCal e (forAll ns (fun n s => modPlane n (drifted s) s) s))

/-- A calibration accepted (R452, R454): it waits for the window end on a held core, and is a window of its own on another. -/
def accept (e : Nat) (r : CalNext) (s : State) : State :=
  let s1 := tickFresh (modEngine e (fun g => { g with cal := none, calNext := some r }) s)
  calEnded e (if unheld s (coreOf e) then ownWindow e s1 else s1)

/-- What a measurement leads to (R452): acceptance, a second measurement on other stages, or rejection. -/
def calOutcome (e : Nat) (r : CalRun) (m : CalMeas) (volts : List (List Int)) (s : State) : State :=
  let bad := failedCols s e m
  if bad.isEmpty then accept e (resultOf s e m r.stages) s
  else if r.second then reject e (requestSparing e (bad.filter r.failed.contains)) s
  else if 64 < (bad.filter (· < 260)).length then reject e (reselect e volts) s
  else modEngine e (fun g => { g with cal := some { second := true, failed := bad, stages := (bad.map (· / 4)).dedup } }) s

/-- The state as a measurement finds it: the converters of `stages` on their other stage (R452). -/
def otherStages (e : Nat) (stages : List Nat) (s : State) : State :=
  { s with lar := { s.lar with repair := { s.lar.repair with
    stage := stages.foldl (fun m c => put (fun _ => false) m (66 * e + c) (!look (fun _ => false) m (66 * e + c))) s.lar.repair.stage } } }

/-- CALIBRATION_MEASUREMENT_COMPLETE (R449, R452): the 320 passes have run, and the measurement is judged. `volts` are the sense line's
voltages should a reselection read the reference cells (R453). -/
def execCalibrationMeasurementComplete (e : Fin 34272) (volts : List (List Int)) (s : State) : Host.Outcome State Fault Refusal :=
  .next (
    match (engine s e).cal with
    | none => s
    | some r => calOutcome e r (measured (otherStages e r.stages s) e) volts { s with fresh := s.fresh + 320 })

end Sys2Proof.Machine
end

