-- ==== Sys2Proof/Machine/Commands.lean ====
section
/-! DEFINITION. Packet dispatch and the commands on context records: prefill, generate, cancel, flush and query (R262, R263,
R272, R276, R286, R375 to R385). -/

namespace Sys2Proof.Machine

/-- Why a command on a binding's records is not accepted (R376, R335): the ring, an EMPTY or a RELEASING binding. `placement`
holds for query kinds 2 and 3. -/
def bindingStatus (s : State) (c : Cmd) (placement : Bool) : Option Nat :=
  let b := c.binding.toNat
  let e := entry s b
  let priv := (ring s c.ring).priv
  if placement ∧ !priv then some 9
  else if e.st = 0 then some 9
  else if !priv ∧ e.ring.toNat ≠ c.ring.val then some 9
  else if e.st = 5 then some 0x0C else none

/-! ### Opening a record (R262, R263, R276) -/

/-- The bytes of a plan's quantisation state block (R134, R138). -/
def stateBytes (p : List Byte) : Nat :=
  (List.range (plLayers p)).foldl (fun a l =>
    a + (if lyCarry p l then 2 * lyW p l else 0) + 2 * (lyW p l / 32)
      + (if lyAttn p l ∧ lyKvCarry p l then 4 * atHkv p l * atDh p l else 0)) 0

/-- `n` frames charged to a binding, with eviction when short (R280); false where they cannot be had. -/
def allocMany (b : Nat) : Nat → List Nat → State → List Nat × Bool × State
  | 0, fs, s => (fs, true, s)
  | n + 1, fs, s =>
    match allocCharged b s with
    | none => (fs, false, s)
    | some (f, s1) => allocMany b n (fs ++ [f]) s1

/-- Leading tokens on which two lists agree. -/
def agree : List W32 → List W32 → Nat
  | a :: t, b :: u => if a = b then 1 + agree t u else 0
  | _, _ => 0

/-- The descent of R276 through full children: the nodes taken, deepest last. -/
def descend (s : State) (b t : Nat) : Nat → Nat → Nat → List W32 → List Nat
  | 0, _, _, _ => []
  | fuel + 1, n, limit, toks =>
    if limit < t then []
    else
      match (children s b n).find? fun i => match node s b i with
          | some x => x.tokens.length == t && x.tokens == toks.take t | none => false with
      | none => []
      | some i => i :: descend s b t fuel i (limit - t) (toks.drop t)

/-- The child of a node that agrees longest with the tokens, within a limit; ties to the lower index (R276). -/
def finalChild (s : State) (b n limit : Nat) (toks : List W32) : Option (Nat × Nat) :=
  (children s b n).foldl (fun (a : Option (Nat × Nat)) i =>
    let m := match node s b i with | some x => min limit (agree x.tokens toks) | none => 0
    match a with
    | none => if 1 ≤ m then some (i, m) else none
    | some q => if q.2 < m then some (i, m) else a) none

/-- What an opening command's record is given. -/
structure OpenArgs where
  tokens  : List W32
  count   : Nat
  share   : Bool
  keep    : Bool
  sampled : Bool
  topk    : Nat
  temp    : Nat
  seed    : Nat
  gen     : Nat
  limit   : Nat
  stop0   : Nat
  stop1   : Nat

/-- The prefix match of R276 for record `r`: pins, PREFIX_NODE, starting LENGTH and COPYING. -/
def matchPrefix (b r : Nat) (a : OpenArgs) (s : State) : State :=
  let t := pageTokens (planOf s b)
  let lim := min (a.count - 1) (a.tokens.length - 1)
  let full := descend s b t (lim / max 1 t) 0 lim a.tokens
  let rest := a.tokens.drop (full.length * t)
  let fin := finalChild s b (full.getLast?.getD 0) (lim - full.length * t) rest
  let taken := full ++ (match fin with | some q => [q.1] | none => [])
  let base := full.length * t
  let len := base + (match fin with | some q => q.2 | none => 0)
  if len = 0 then s
  else
    let s1 := forAll taken (fun n => modNode b n fun x => { x with pins := x.pins + 1, lastUsed := (entry s b).steps }) s
    let s2 := modCtx r (fun x => { x with
      length := BitVec.ofNat 23 len, copying := fin.isSome,
      prefNode := match full.getLast? with | some n => BitVec.ofNat 32 n | none => 0xFFFFFFFF }) s1
    let part := (a.tokens.drop base).take (len - base)
    let s3 := modCtxRun r (fun q => { q with
      matched := taken, copyFrom := fin.map (·.1), fillFrom := len, filled := len, shareFrom := base, shareToks := part }) s2
    -- the tokens of a page the record shares in part stand in its token buffer (R272)
    (part.foldl (fun (p : Nat × State) t => (p.1 + 1, setToken r p.1 t p.2)) (base, s3)).2

/-- A record opened for a binding (R263): frames and fields; false where the frames cannot be had, with the state that the eviction of
R280 left. -/
def openOne (b r role : Nat) (a : OpenArgs) (s : State) : Bool × State :=
  let p := planOf s b
  let n := 3 + ceilDiv (stateBytes p) 65536
  let got := allocMany b n [] s
  if !got.2.1 then (false, forAll got.1 (returnFrame b true) got.2.2)
  else
    let f := got.1
    let share := a.share && decide ((streams p).length < 8064) && !((attnLayers p).any fun l => atRing p l != 0)
    let s1 := setCtxRun (setCtx (clearFrame (f.getD 0 0) got.2.2) r
      { st := 1, role := BitVec.ofNat 2 role, share := share, sampled := a.sampled, keep := a.keep, tenant := BitVec.ofNat 12 b,
        root := BitVec.ofNat 24 (f.getD 0 0), tokbuf := BitVec.ofNat 24 (f.getD 1 0), qstate := BitVec.ofNat 24 (f.getD 2 0),
        topk := BitVec.ofNat 4 a.topk, temp := BitVec.ofNat 16 a.temp, inputEnd := BitVec.ofNat 23 a.count,
        genLeft := BitVec.ofNat 24 a.gen, limit := BitVec.ofNat 23 a.limit, stop0 := BitVec.ofNat 32 a.stop0,
        stop1 := BitVec.ofNat 32 a.stop1, draftLen := if role = 1 then BitVec.ofNat 6 (plKmax p) else 0,
        prefNode := 0xFFFFFFFF, seed := BitVec.ofNat 32 a.seed }) r { prompt := a.count, qframes := f.drop 3, fillEnd := a.count }
    (true, modEntry b (fun e => { e with ctxUsed := e.ctxUsed + 1 }) s1)

/-- The opening of a record stands (R276, R291): its prompt is matched against the tree, and OPENED, MATCHES and MATCHED_TOKENS count. -/
def matchOpened (r : Nat) (a : OpenArgs) (s : State) : State :=
  let b := tenantOf s r
  let s1 := bumpHome b 0x800 1 (if (ctx s r).share then matchPrefix b r a s else s)
  let len := (ctx s1 r).length.toNat
  if len = 0 then s1 else bumpHome b 0x818 1 (bumpHome b 0x850 len s1)

/-- An opening undone: its frames go back and its record is FREE again (R263, R286). -/
def undoOpen (b r : Nat) (s : State) : State :=
  let x := ctx s r
  clearRecord r (forAll ([x.root.toNat, x.tokbuf.toNat, x.qstate.toNat] ++ (ctxRun s r).qframes) (returnFrame b true) s)

/-- The lowest free record index (R262). -/
def freeRecord (s : State) : Nat := gapFrom 0 (s.srv.ctx.filter fun p => p.2.st != 0)

/-- A binding may take one more record (R262, R357): its quota, and for an ordinary one the records not held back. -/
def recordAllowed (s : State) (b : Nat) : Bool :=
  decide ((recordsOf s b).length < ctxQuota s b ∧
    if (entry s b).reserved then (s.srv.ctx.filter fun p => p.2.st != 0).length < 262144 else 0 < sharedRecords s)

/-- The draft binding that a main binding opens records with (R286), while it is bound. -/
def draftBinding (s : State) (b : Nat) : Option Nat :=
  let q := (entry s b).peer.toNat
  if plRole (planOf s b) = 1 ∧ q ≠ 0xFFF ∧ (entry s q).st ≠ 0 ∧ (entry s q).st ≠ 5 then some q else none

/-- The opened record's command: queued, its tokens still to be filled, and its opened entry written (R387). -/
def opened (b r : Nat) (c : Cmd) (outAddr outCap tokensAddr : Nat) (progress : Bool) (s : State) : State :=
  let w : Work := { cmd := cmdRef c, outAddr := BitVec.ofNat 64 outAddr, outCap := BitVec.ofNat 32 outCap, count := 0,
                    progress := progress, tokensAddr := BitVec.ofNat 64 tokensAddr, opening := true }
  let s1 := modBrun b (fun q => { q with queued := q.queued ++ [r] }) (setWork r (some w) s)
  readTokens r (completeWith c.ring 1 0 (recordCompl s1 r w 0 2) s1)

/-- FP16 is finite and above 0 (R273). -/
def tempOk (h : Nat) : Bool := decide (0 < h ∧ h < 0x7C00)

/-- An opening PREFILL dispatched (R262, R263, R276, R286, R380). -/
def doOpen (c : Cmd) (d : CmdData) (s : State) : State :=
  let b := c.binding.toNat
  let pay := c.payload
  let fl := leAt pay 0 1
  let p := planOf s b
  let n := leAt pay 16 4
  let a : OpenArgs := { tokens := d.tokens.take n, count := n, share := bitOf fl 1, keep := bitOf fl 2, sampled := bitOf fl 3,
                        topk := leAt pay 1 1, temp := leAt pay 2 2, seed := leAt pay 4 4, gen := leAt pay 20 4,
                        limit := leAt pay 24 4, stop0 := leAt pay 28 4, stop1 := leAt pay 32 4 }
  match bindingStatus s c false with
  | some st => replyRec c 2 st s
  | none =>
    if (brun s b).fabricFault then replyRec c 2 0x11 s
    else if c.record ≠ 0xFFFFFFFF ∨ n < 1 ∨ 4194304 < n ∨ 16777215 < a.gen ∨ a.limit < 1 ∨ maxCtx p < a.limit
        ∨ leAt pay 44 4 < 4 * a.gen ∨ 8 < a.topk ∨ (a.sampled ∧ (a.topk < 1 ∨ !tempOk a.temp))
        ∨ a.tokens.any fun t => decide (plVocab p ≤ t.toNat) then replyRec c 2 7 s
    else if d.badAddr ∨ leAt pay 8 8 % 4 ≠ 0 ∨ leAt pay 36 8 % 64 ≠ 0 then replyRec c 2 8 s
    else
      let r := freeRecord s
      let fin (s : State) : State :=
        opened b r c (leAt pay 36 8) (leAt pay 44 4) (leAt pay 8 8) (bitOf fl 4) (matchOpened r a s)
      let short (q : Nat) (s : State) : State := replyRec c 2 0x0E (bumpHome q 0x824 1 s)
      if !recordAllowed s b then replyRec c 2 0x0D s
      else
        match draftBinding s b with
        | none =>
          let x := openOne b r 0 a s
          if x.1 then fin x.2 else short b x.2
        | some q =>
          -- a main and its draft are opened together (R286)
          let shared := ([b, q].filter fun x => !(entry s x).reserved).length
          if !recordAllowed s q ∨ sharedRecords s < shared then replyRec c 2 0x0D s
          else
            let x := openOne b r 1 a s
            if !x.1 then short b x.2
            else
              let e := freeRecord x.2
              let y := openOne q e 2 a x.2
              -- where the draft cannot be had, the main record stays FREE with it
              if !y.1 then short q (undoOpen b r y.2)
              else
                readTokens e (fin (matchOpened e a (modCtx e (fun u => { u with peer := BitVec.ofNat 18 r })
                  (modCtx r (fun u => { u with peer := BitVec.ofNat 18 e }) y.2))))

/-! ### Extending a record (R382) -/

/-- Why a record cannot be extended (R382), if it cannot: RECORD_BUSY where it is not IDLE or has such a command. An index beyond the
store, or an IDLE record of another binding, gives BAD_RECORD as in R383 (DEDUCED, log entry 165). -/
def extendStatus (s : State) (c : Cmd) : Option Nat :=
  let r := c.record.toNat
  if 262144 ≤ r then some 0x0A
  else if (ctx s r).st ≠ 3 ∨ (ctxRun s r).extend.isSome then some 0x0B
  else if (ctx s r).tenant ≠ c.binding then some 0x0A
  else none

/-- An extension accepted: its tokens and settings wait for stage 6 of the next boundary (R382). -/
def extend (c : Cmd) (tokens gen : Nat) (floor : Option Nat) (outAddr outCap tokensAddr : Nat) (s : State) : State :=
  let r := c.record.toNat
  let fl := leAt c.payload 0 1
  let w : Work := { cmd := cmdRef c, outAddr := BitVec.ofNat 64 outAddr, outCap := BitVec.ofNat 32 outCap, count := 0,
                    progress := bitOf fl 4, tokensAddr := BitVec.ofNat 64 tokensAddr }
  let e : Extension :=
    { tokens := tokens, gen := gen, keep := bitOf fl 2, floor := floor, behind := (brun s (tenantOf s r)).stageReqs.length }
  let s1 := modCtxRun r (fun q => { q with extend := some e }) (setWork r (some w) s)
  if tokens = 0 then s1 else readTokens r s1

/-- An extending PREFILL dispatched (R380, R382). -/
def doExtend (c : Cmd) (d : CmdData) (s : State) : State :=
  let b := c.binding.toNat
  let pay := c.payload
  let n := leAt pay 16 4
  let gen := leAt pay 20 4
  match bindingStatus s c false with
  | some st => replyRec c 1 st s
  | none =>
    if (brun s b).fabricFault then replyRec c 1 0x11 s
    else if n < 1 ∨ 4194304 < n ∨ 16777215 < gen ∨ leAt pay 44 4 < 4 * gen then replyRec c 1 7 s
    else if d.badAddr ∨ leAt pay 8 8 % 4 ≠ 0 ∨ leAt pay 36 8 % 64 ≠ 0 then replyRec c 1 8 s
    else
      match extendStatus s c with
      | some st => replyRec c 1 st s
      | none =>
        if (d.tokens.take n).any fun t => decide (plVocab (planOf s b) ≤ t.toNat) then replyRec c 1 7 s
        else extend c n gen none (leAt pay 36 8) (leAt pay 44 4) (leAt pay 8 8) s

/-- GENERATE dispatched (R382, R268). -/
def doGenerate (c : Cmd) (d : CmdData) (s : State) : State :=
  let b := c.binding.toNat
  let pay := c.payload
  let gen := leAt pay 8 4
  match bindingStatus s c false with
  | some st => replyRec c 1 st s
  | none =>
    if (brun s b).fabricFault then replyRec c 1 0x11 s
    else if gen < 1 ∨ 16777215 < gen ∨ leAt pay 24 4 < 4 * gen then replyRec c 1 7 s
    else if d.badAddr ∨ leAt pay 16 8 % 64 ≠ 0 then replyRec c 1 8 s
    else
      match extendStatus s c with
      | some st => replyRec c 1 st s
      | none =>
        extend c 0 gen (if bitOf (leAt pay 0 1) 5 then some (leAt pay 4 4) else none) (leAt pay 16 8) (leAt pay 24 4) 0 s

/-! ### Cancel and flush (R383, R384) -/

/-- Why a CANCEL or FLUSH names nothing, if it does: ALL with a record, or a FREE or foreign record. -/
def targetStatus (s : State) (c : Cmd) : Option Nat :=
  let r := c.record.toNat
  if bitOf (leAt c.payload 0 1) 0 then (if c.record = 0xFFFFFFFF then none else some 7)
  else if 262144 ≤ r ∨ (ctx s r).st = 0 ∨ (ctx s r).tenant ≠ c.binding then some 0x0A else none

/-- A CANCEL or FLUSH accepted for stage 2 of the next boundary. -/
def stageRequest (c : Cmd) (isFlush : Bool) (s : State) : State :=
  let t := if bitOf (leAt c.payload 0 1) 0 then none else some c.record.toNat
  modBrun c.binding.toNat (fun q => { q with
    stageReqs := q.stageReqs ++ [{ cmd := cmdRef c, isFlush := isFlush, target := t }] }) s

/-- CANCEL dispatched (R383). -/
def doCancel (c : Cmd) (s : State) : State :=
  match (bindingStatus s c false).orElse fun _ => targetStatus s c with
  | some st => replyRec c 1 st s
  | none => stageRequest c false s

/-- FLUSH dispatched (R384); `no` is its place in the order of acceptance. The internal queues are flushed at the next packet boundary of
its ring: at once, or when the packet being read has been read. -/
def doFlush (c : Cmd) (no : Nat) (s : State) : State :=
  match (bindingStatus s c false).orElse fun _ => targetStatus s c with
  | some st => replyRec c 1 st s
  | none =>
    let s1 := stageRequest c true s
    if reading c.ring s then modRing c.ring (fun g => { g with pendFlush := g.pendFlush ++ [(c, no)] }) s1 else flushQueues c no s1

/-! ### Query (R385) -/

/-- A plane list item (Table 12.7, kind 2) with its sort key. -/
def planeItem (s : State) (b : Nat) (u : PlaneUse) : Nat × List Byte :=
  let w := (brun s b).coreMap.getD u.pcore 0
  let k := packBits [(u.plane % 65, 6), (u.engine, 4), (w / 128, 4), (w, 7)]
  (k, leBytes 8 (packBits [(w, 7), (w / 128, 4), (u.engine, 4), (u.plane % 65, 6), (u.tplane, 6), ((plane s u.plane).st.toNat, 3),
    (planeCount s u.plane, 16)]))

/-- Insertion by key. -/
def insKey2 {α : Type} (x : Nat × α) : List (Nat × α) → List (Nat × α)
  | [] => [x]
  | y :: t => if x.1 < y.1 then x :: y :: t else y :: insKey2 x t

/-- A cell map entry's 16 bytes (Table 7.6). -/
def cellItem (e : CellEntry) : List Byte :=
  leBytes 16 (packBits [(e.layer.toNat, 16), (e.intended.toNat, 8), (e.realised.toNat, 8), (e.channel.toNat, 32),
    (e.output.toNat, 32), (e.cause.toNat, 8)])

/-- The items of a query result (Table 12.7). -/
def queryItems (s : State) (b : Nat) (kind : Nat) (r : Nat) : List (List Byte) :=
  if kind = 0 then [leBytes 128 (entryNat (entry s b))]
  else if kind = 1 then [leBytes 64 (ctxNat (ctx s r))]
  else if kind = 2 then (((brun s b).planes.map (planeItem s b)).foldr insKey2 []).map (·.2)
  else (brun s b).cellMap.map cellItem

/-- The bytes of an item by kind. -/
def itemBytes (kind : Nat) : Nat := if kind = 0 then 128 else if kind = 1 then 64 else if kind = 2 then 8 else 16

/-- A query's result as it is written: header, and the items that fit RESULT_CAP, cut at a whole item (R385). -/
def queryResult (s : State) (b kind r cap : Nat) : List Byte :=
  let items := queryItems s b kind r
  let n := min items.length ((cap - 16) / itemBytes kind)
  let fl := (if n < items.length then 1 else 0) + (if kind = 3 ∧ (brun s b).cellFull then 2 else 0)
  leBytes 16 (packBits [(kind, 8), (fl, 8), (0, 16), (n, 32)]) ++ (items.take n).flatten

/-- QUERY of a kind dispatched (R376, R385). -/
def doQuery (kind : Nat) (c : Cmd) (d : CmdData) (s : State) : State :=
  let b := c.binding.toNat
  let r := c.record.toNat
  let addr := leAt c.payload 8 8
  let cap := leAt c.payload 16 4
  match bindingStatus s c (kind == 2 || kind == 3) with
  | some st => replyRec c 1 st s
  | none =>
    if 3 < kind ∨ cap < 16 then replyRec c 1 7 s
    else if d.badAddr ∨ addr % 64 ≠ 0 then replyRec c 1 8 s
    else if kind = 1 ∧ (262144 ≤ r ∨ (ctx s r).st = 0 ∨ (ctx s r).tenant ≠ c.binding) then replyRec c 1 0x0A s
    else
      let bs := queryResult s b kind r cap
      finish c.ring 1 { compl c.tag 0 with
          binding := c.binding, record := if kind = 1 then c.record else 0xFFFFFFFF, count := BitVec.ofNat 32 bs.length
          length := if kind = 1 then BitVec.ofNat 32 (ctx s r).length.toNat else 0 }
        (writeHost (BitVec.ofNat 64 addr) bs s)

/-! ### Dispatch -/

/-- A command dispatched by its opcode (Table 12.5). -/
def dispatch (op no : Nat) (c : Cmd) (d : CmdData) (s : State) : State :=
  if op = 0x01 then doBindLoad c d s
  else if op = 0x02 then doBindSwitch c s
  else if op = 0x03 then (if bitOf (leAt c.payload 0 1) 0 then doUnbindByTenant c s else doUnbind c s)
  else if op = 0x10 then (if bitOf (leAt c.payload 0 1) 0 then doOpen c d s else doExtend c d s)
  else if op = 0x11 then doGenerate c d s
  else if op = 0x12 then doCancel c s
  else if op = 0x13 then doFlush c no s
  else doQuery (leAt c.payload 0 1) c d s

/-- PACKET_DISPATCH (R375): the packet at the head of the ring's internal queue takes effect; a pointer mismatch or a bad
spill slot resets the queue (R378): `fault` says that this use finds one. A packet that waited for a slot is then accepted (R374). -/
def execPacketDispatch (r : Fin 256) (fault : Bool) (d : CmdData) (s : State) : Host.Outcome State Fault Refusal :=
  .next (
    if fault ∨ !pointersOk (ring s r) then retryRing r (resetQueue r s)
    else
      match (ring s r).queue with
      | [] => s
      | p :: _ => retryRing r (dispatch p.opcode.toNat p.no p.cmd d (popQueue r s)))

/-- PREFILL_OPEN (R262). -/
def execPrefillOpen (c : Cmd) (d : CmdData) (s : State) : Host.Outcome State Fault Refusal :=
  .next (asPacket 0x10 c 2 (doOpen c d) s)

/-- PREFILL_EXTEND (R382). -/
def execPrefillExtend (c : Cmd) (d : CmdData) (s : State) : Host.Outcome State Fault Refusal :=
  .next (asPacket 0x10 c 1 (doExtend c d) s)

/-- GENERATE (R382). -/
def execGenerate (c : Cmd) (d : CmdData) (s : State) : Host.Outcome State Fault Refusal :=
  .next (asPacket 0x11 c 1 (doGenerate c d) s)

/-- CANCEL (R383). -/
def execCancel (c : Cmd) (s : State) : Host.Outcome State Fault Refusal := .next (asPacket 0x12 c 1 (doCancel c) s)

/-- FLUSH (R384): every packet accepted before it is reached. -/
def execFlush (c : Cmd) (s : State) : Host.Outcome State Fault Refusal :=
  .next (asPacket 0x13 c 1 (doFlush c s.host.packetNo) s)

/-- QUERY_BINDING (R385). -/
def execQueryBinding (c : Cmd) (d : CmdData) (s : State) : Host.Outcome State Fault Refusal :=
  .next (asPacket 0x20 c 1 (doQuery 0 c d) s)

/-- QUERY_CONTEXT (R385). -/
def execQueryContext (c : Cmd) (d : CmdData) (s : State) : Host.Outcome State Fault Refusal :=
  .next (asPacket 0x20 c 1 (doQuery 1 c d) s)

/-- QUERY_PLANES (R385). -/
def execQueryPlanes (c : Cmd) (d : CmdData) (s : State) : Host.Outcome State Fault Refusal :=
  .next (asPacket 0x20 c 1 (doQuery 2 c d) s)

/-- QUERY_CELL_MAP (R385). -/
def execQueryCellMap (c : Cmd) (d : CmdData) (s : State) : Host.Outcome State Fault Refusal :=
  .next (asPacket 0x20 c 1 (doQuery 3 c d) s)

/-- Prompt tokens put in a record's ring from the next position it lacks on, and the ladle reads on while tokens are missing (R272). -/
def fillRing (r : Nat) (ts : List W32) (s : State) : State :=
  let q := ctxRun s r
  let s1 := (ts.foldl (fun (p : Nat × State) t => (p.1 + 1, setToken r p.1 t p.2)) (q.filled, s)).2
  let s2 := modCtxRun r (fun q => { q with filled := q.filled + ts.length }) s1
  if q.filled + ts.length < q.fillEnd then readTokens r s2 else s2

/-- TOKEN_FILL (R272): the ladle fills prompt tokens from the host buffer into a record's ring, at most 16,383 positions ahead of
LENGTH; a token at or above VOCAB ends the command that supplied it, a draft's being its main's (R286). -/
def execTokenFill (rec : Fin 262144) (tokens : List W32) (s : State) : Host.Outcome State Fault Refusal :=
  let r := rec.val
  let x := ctx s r
  let q := ctxRun s r
  .next (
    if !hasWork s r ∨ q.extend.isSome ∨ q.endWith.isSome ∨ x.st = 0 ∨ x.st = 4 ∨ s.host.ideHold then s
    else
      let ts := tokens.take (min (q.fillEnd - q.filled) (x.length.toNat + 16384 - q.filled))
      let s0 := dropReads (· == .tokens r) s
      if ts.any fun t => decide (plVocab (planOf s (tenantOf s r)) ≤ t.toNat) then failWork r 7 s0
      else fillRing r ts s0)

end Sys2Proof.Machine
end

