-- ==== Sys2Proof/Machine/MailOps.lean ====
section
/-! DEFINITION. Mailboxes, doorbells, locks and host messages (R400 to R416). -/

namespace Sys2Proof.Machine

/-- The physical cluster of the lead control core, while it serves (R401). -/
def leadCluster (s : State) : Option Nat :=
  match physCluster s s.mail.lead.toNat with
  | some p => if enabledCl s p ∧ s.mail.lead ≠ 0x7F then some p else none
  | none => none

/-- A master is the lead control core. -/
def isLead (s : State) : Master → Bool
  | .core p => leadCluster s == some p.val
  | _ => false

/-- Mailbox registers answer the host from phase 7 only (R429); an inter-core mailbox answers only in an enabled window
(R39). -/
def mboxOpen (s : State) (mb : Nat) (m : Master) : Bool :=
  (m != .host || !below7 s) && (mb < 2 || enabledCl s (mb - 2))

/-- The sender side of a mailbox (Table 13.1). -/
def isSender (s : State) (mb : Nat) (m : Master) : Bool :=
  mboxOpen s mb m &&
  (if mb = 0 then m == .host
   else if mb = 1 then isLead s m
   else match m with | .core _ => true | _ => false)

/-- The receiver side of a mailbox (Table 13.1). -/
def isReceiver (s : State) (mb : Nat) (m : Master) : Bool :=
  mboxOpen s mb m &&
  (if mb = 0 then isLead s m
   else if mb = 1 then m == .host
   else match m with | .core p => p.val == mb - 2 | _ => false)

/-- A cause bit of MB_IRQ_CAUSE set by its event; vector 1 is signalled while its enable bit is 1 (R409). -/
def setCause (i : Nat) (s : State) : State :=
  let s1 := { s with mail := { s.mail with irqCause := s.mail.irqCause ||| BitVec.ofNat 3 (2 ^ i) } }
  if bitOf s.mail.irqEn.toNat i then msix 1 s1 else s1

/-- The wake event of a GO (R408). -/
def wakeReceiver (mb : Nat) (s : State) : State :=
  if mb = 1 then setCause 0 s
  else
    match (if mb = 0 then leadCluster s else some (mb - 2)) with
    | none => s
    | some p =>
      let s1 := emit (.wake p) s
      if (cluster s p).pow.clkGated ∨ (cluster s p).pow.gated then s1
      else setMbox s1 mb { mbox s1 mb with irq := true }

/-- A data word written by the sender (Table 13.2): taken, and a collision while FULL is 1. -/
def dataWrite (mb i : Nat) (v : W32) (s : State) : State :=
  let b := mbox s mb
  setMbox s mb { b with data := put (fun _ => 0) b.data i v, collision := b.collision || b.full,
                        collisions := if b.full then b.collisions + 1 else b.collisions }

/-- GO (R404). -/
def sendGo (mb : Nat) (s : State) : State :=
  let b := mbox s mb
  wakeReceiver mb (setMbox s mb
    { b with seq := b.seq + 1, collision := b.collision || b.full,
             collisions := if b.full then b.collisions + 1 else b.collisions, full := true, ack := false,
             unacked := false, timer := b.ackTime != 0, sent := b.sent + 1, gone := true })

/-- Words as the data of a mailbox, from DATA0 on. -/
def placeWords (mb : Nat) (ws : List W32) (s : State) : State :=
  (ws.foldl (fun (p : Nat × State) w => (p.1 + 1, dataWrite mb p.1 w p.2)) (0, s)).2

/-- Firmware may send: nothing sent yet, the last message acknowledged, or unacknowledged and then released (R411). -/
def maySend (b : Mailbox) : Bool := !b.gone || b.ack || (b.unacked && !b.full)

/-- The oldest waiting firmware message is sent as soon as the last allows it (R411), while the lead serves (R401). -/
def pumpMail (s : State) : State :=
  match s.mail.outQ with
  | [] => s
  | ws :: rest =>
    if maySend (mbox s 1) ∧ (leadCluster s).isSome then sendGo 1 (placeWords 1 ws { s with mail := { s.mail with outQ := rest } }) else s

/-- A firmware-to-host message: sent, held behind up to 64 others, or dropped with a record (R411); none while no lead serves (R401). -/
def fwSend (ws : List W32) (s : State) : State :=
  if (leadCluster s).isNone then s
  else if s.mail.outQ.isEmpty ∧ maySend (mbox s 1) then sendGo 1 (placeWords 1 ws s)
  else if s.mail.outQ.length < 64 then { s with mail := { s.mail with outQ := s.mail.outQ ++ [ws] } }
  else raise (err 0x63 0 ((ws.headD 0).toNat % 256) 0 0) s

/-- A release (R405): FULL clears where the value is the current SEQ, else it counts as stale. -/
def release (mb : Nat) (v : W32) (s : State) : State :=
  let b := mbox s mb
  if BitVec.ofNat 8 v.toNat = b.seq then setMbox s mb { b with full := false }
  else setMbox s mb { b with stale := b.stale + 1 }

/-- The sender's doorbell (R406, R409). -/
def doorbell (mb : Nat) (s : State) : State := if mb = 0 then setCause 1 s else emit (.doorbell mb) s

/-- An acknowledgement (R406). -/
def acknowledge (mb : Nat) (v : W32) (s : State) : State :=
  let b := mbox s mb
  if !bitOf v.toNat 8 then s
  else if BitVec.ofNat 8 v.toNat = b.seq then
    doorbell mb (setMbox s mb { b with ack := true, unacked := false, timer := false })
  else setMbox s mb { b with stale := b.stale + 1 }

/-- A sender writes a mailbox (R403). Firmware, the sender of mailbox 1, writes there only when it may send (R411). -/
def mayWrite (s : State) (mb : Nat) (m : Master) : Bool := isSender s mb m && (mb != 1 || maySend (mbox s 1))

/-- The acknowledgement timer has run out (R403, Table 13.2); one that a matching acknowledgement stopped does not (R407). -/
def expire (mb : Nat) (s : State) : State :=
  let b := mbox s mb
  if !b.timer then s
  else
    let s1 := setMbox s mb { b with unacked := true, timer := false }
    pumpMail (if mb = 0 then setCause 2 s1 else s1)

/-- The data write and the GO of a cycle, which take effect before a receiver's release or acknowledgement (Table 13.3). -/
def senderFirst (mb : Nat) (w : SameCycle) (s : State) : State :=
  let s1 := match w.data with
    | some (m, i, v) => if mayWrite s mb m then dataWrite mb i.val v s else s
    | none => s
  match w.go with
  | some m => if mayWrite s mb m then sendGo mb s1 else s1
  | none => s1

/-- MAILBOX_DATA_WRITE (R403): a data word or ACK_TIME; a write by the other side is discarded. -/
def execMailboxDataWrite (mb : Fin 114) (m : Master) (i : SenderWord) (v : W32) (s : State) :
    Host.Outcome State Fault Refusal :=
  .next (
    match i with
    | .data j => if mayWrite s mb m then dataWrite mb j.val v s else s
    | .ackTime => if isSender s mb m then setMbox s mb { mbox s mb with ackTime := BitVec.ofNat 24 v.toNat } else s)

/-- GO (R404): a write of 1 by the sender. -/
def execGo (mb : Fin 114) (m : Master) (v : W32) (s : State) : Host.Outcome State Fault Refusal :=
  .next (if mayWrite s mb m ∧ bitOf v.toNat 0 then sendGo mb s else s)

/-- The words of the host-to-firmware mailbox. -/
def hostWords (s : State) : List W32 := (List.range 16).map fun i => look (fun _ => 0) (mbox s 0).data i

/-- Firmware's copy of a host message queued as it releases the mailbox, to be acknowledged once handled (R410). -/
def keepCopy (v : W32) (s : State) : State :=
  let b := mbox s 0
  if b.full ∧ BitVec.ofNat 8 v.toNat = b.seq then { s with mail := { s.mail with inQ := s.mail.inQ ++ [(b.seq, hostWords s)] } } else s

/-- A release by the receiver (R405): firmware keeps its copy of a host message, and its own next message may then go (R411). -/
def releaseBy (mb : Nat) (v : W32) (s : State) : State :=
  pumpMail (release mb v (if mb = 0 then keepCopy v s else s))

/-- COLLISION cleared by the receiver (R405, Table 13.2). -/
def clearCollision (mb : Nat) (v : W32) (s : State) : State :=
  if bitOf v.toNat 1 then setMbox s mb { mbox s mb with collision := false } else s

/-- REL_SEQ (R405) by the receiver, or its write of the status word, with the other events of the cycle (R407): a new collision outlives
the clear. -/
def execRelSeq (mb : Fin 114) (m : Master) (v : RelWrite) (s : State) : Host.Outcome State Fault Refusal :=
  let own := isReceiver s mb m
  .next (
    match v with
    | .release x w => (if w.expiry then expire mb else id) (let t := senderFirst mb w s; if own then releaseBy mb x t else t)
    | .status x w => (if w.expiry then expire mb else id) (senderFirst mb w (if own then clearCollision mb x s else s)))

/-- MAILBOX_ACK_TIMEOUT (R403, Table 13.2): ACK_TIME has passed since GO without a matching acknowledgement. -/
def execMailboxAckTimeout (mb : Fin 114) (s : State) : Host.Outcome State Fault Refusal := .next (expire mb s)

/-! ### Locks -/

/-- A master's code in TAKER (Table 13.7). -/
def takerCode : Master → Nat
  | .mgmt => 0
  | .core p => 1 + p.val
  | .host => 0xFF

/-- Readers in the order of R415: by code. -/
def insReader (m : Master) : List Master → List Master
  | [] => [m]
  | x :: t => if takerCode m < takerCode x then m :: x :: t else x :: insReader m t

/-- One read of lock register `k`: the old word is returned and LOCK is left at 1 (Table 13.7); the host reads 0 and sets
nothing below phase 7 (R429). -/
def readLock (k : Nat) (m : Master) (s : State) : State :=
  if m = .host ∧ below7 s then emit (.lockRead m k 0) s
  else
    let l := lockReg s k
    let s1 := emit (.lockRead m k (BitVec.ofNat 32 (lockWord l))) s
    if l.held then s1 else setLock s1 k { held := true, taker := BitVec.ofNat 8 (takerCode m) }

/-- A write of a lock register (R414): of 0 it releases the lock, whoever holds it; of 1 it has no effect. -/
def writeLock (k : Nat) (m : Master) (v : W32) (s : State) : State :=
  if (m = .host ∧ below7 s) ∨ bitOf v.toNat 0 then s else setLock s k { lockReg s k with held := false }

/-- LOCK_TAKE (R415): the writes of one cycle, then its reads in their fixed order. -/
def execLockTake (k : Fin 64) (c : LockCycle) (s : State) : Host.Outcome State Fault Refusal :=
  .next (forAll (c.readers.foldl (fun l m => insReader m l) []) (fun m s => readLock k m s)
    (forAll c.writes (fun x s => writeLock k x.1 x.2 s) s))

/-- LOCK_RELEASE (R414). -/
def execLockRelease (k : Fin 64) (m : Master) (v : W32) (s : State) : Host.Outcome State Fault Refusal := .next (writeLock k m v s)

/-! ### Host messages -/

/-- The host message that firmware handles next, in SEQ order, while it serves (R401, R413): the oldest copy it has drained, else the one
in the mailbox; with its SEQ. -/
def nextMsg (s : State) : Option (Byte × List W32) :=
  if (leadCluster s).isSome ∧ !below7 s then
    match s.mail.inQ with
    | x :: _ => some x
    | [] => if (mbox s 0).full then some ((mbox s 0).seq, hostWords s) else none
  else none

/-- The words of the next host message. -/
def hostMsg (s : State) : Option (List W32) := (nextMsg s).map (·.2)

/-- TYPE of a message (Table 13.5). -/
def msgType (ws : List W32) : Nat := fld (ws.headD 0).toNat 0 8
/-- WORDS of a message. -/
def msgWords (ws : List W32) : Nat := fld (ws.headD 0).toNat 8 4
/-- Data word `i` of a message. -/
def msgAt (ws : List W32) (i : Nat) : Nat := (ws.getD i 0).toNat

/-- The next message handled and acknowledged (R410, R413): a copy drained before, or the mailbox drained now, with a collision cleared
and the message released. -/
def drainHost (s : State) : State :=
  match s.mail.inQ with
  | x :: t => acknowledge 0 (BitVec.ofNat 32 (256 + x.1.toNat)) { s with mail := { s.mail with inQ := t } }
  | [] =>
  let b := mbox s 0
  acknowledge 0 (BitVec.ofNat 32 (256 + b.seq.toNat)) (setMbox s 0 { b with collision := false, full := false, irq := false })

/-- The reply envelope and status (R412): TYPE with bit 7 set, the TAG of the request. -/
def reply (ws : List W32) (status : Nat) (more : List Nat) : List W32 :=
  BitVec.ofNat 32 ((msgType ws % 128 + 128) + (1 + more.length) % 16 * 2 ^ 8 + fld (ws.headD 0).toNat 16 16 * 2 ^ 16)
    :: BitVec.ofNat 32 status :: more.map (BitVec.ofNat 32)

/-- A host message of type `t` handled: an unknown type, and a message with a reserved bit that is not zero (R413), is answered by any of
the rows of Table 13.6; another known type waits for its own row. `words` is the type's WORDS, `ok` its range check, `act` its effect and
`more` its reply words. -/
def hostMessage (t words : Nat) (ok : List W32 → Bool) (act : List W32 → State → State) (more : List Nat) (s : State) :
    State :=
  match hostMsg s with
  | none => s
  | some ws =>
    let ty := msgType ws
    if fld (ws.headD 0).toNat 12 4 ≠ 0 then fwSend (reply ws 3 []) (drainHost s)
    else if ty = t then
      if msgWords ws ≠ words then fwSend (reply ws 2 []) (drainHost s)
      else if !ok ws then fwSend (reply ws 3 []) (drainHost s)
      else fwSend (reply ws 0 more) (act ws (drainHost s))
    else if 1 ≤ ty ∧ ty ≤ 5 then s
    else fwSend (reply ws 1 []) (drainHost s)

/-- A calendar set accepted (R515): it takes effect at the next tick. -/
def acceptCalendar (v : W64) (s : State) : State := { s with lar := { s.lar with calSets := s.lar.calSets ++ [v] } }

/-- A limit a POWER_LIMIT_SET may carry (Table 13.6). -/
def limitOk (w : Nat) : Bool := 300 ≤ w && w ≤ 850 && w % 25 == 0

/-- A limit set accepted (R467): it takes effect at the end of the window. -/
def acceptLimit (w : Nat) (src : Source) (s : State) : State :=
  { s with pow := { s.pow with nextLimit := some (BitVec.ofNat 10 w, src) } }

/-- The calendar as reply words: seconds, 64 bits, and the fraction. -/
def calWords (s : State) : List Nat :=
  let c := s.lar.calendar.toNat
  [c / 2 ^ 15 % 2 ^ 32, c / 2 ^ 15 / 2 ^ 32, c % 2 ^ 15]

/-- A PING handled (Table 13.6). -/
def msgPing (s : State) : State := hostMessage 1 0 (fun _ => true) (fun _ s => s) [s.ident.fwVersion.toNat] s

/-- A CALENDAR_SET handled (Table 13.6, R515). -/
def msgCalendarSet (s : State) : State :=
  hostMessage 2 3 (fun ws => decide (msgAt ws 2 < 2 ^ 17 ∧ msgAt ws 3 < 2 ^ 15))
    (fun ws => acceptCalendar (BitVec.ofNat 64 ((msgAt ws 1 + msgAt ws 2 * 2 ^ 32) * 2 ^ 15 + msgAt ws 3))) [] s

/-- A CALENDAR_GET handled (Table 13.6). -/
def msgCalendarGet (s : State) : State := hostMessage 3 0 (fun _ => true) (fun _ s => s) (calWords s) s

/-- A POWER_LIMIT_SET handled (Table 13.6, R467). -/
def msgLimitSet (s : State) : State :=
  hostMessage 4 1 (fun ws => limitOk (msgAt ws 1)) (fun ws => acceptLimit (msgAt ws 1) .hostMsg) [] s

/-- A POWER_LIMIT_GET handled (Table 13.6). -/
def msgLimitGet (s : State) : State :=
  hostMessage 5 0 (fun _ => true) (fun _ s => s) [s.pow.limitSet.toNat, s.pow.limitForce.toNat] s

/-- The next host message handled, whatever its type. -/
def handleNext (s : State) : State :=
  match (hostMsg s).map msgType with
  | some 2 => msgCalendarSet s
  | some 3 => msgCalendarGet s
  | some 4 => msgLimitSet s
  | some 5 => msgLimitGet s
  | _ => msgPing s

/-- An acknowledgement by the receiver (R406). Firmware acknowledges a host message by handling it, in SEQ order and with one reply each
(R413): it never acknowledges one that waits otherwise. -/
def ackBy (mb : Nat) (v : W32) (s : State) : State :=
  match (if mb = 0 ∧ bitOf v.toNat 8 then nextMsg s else none) with
  | none => pumpMail (acknowledge mb v s)
  | some x =>
    if BitVec.ofNat 8 v.toNat = x.1 then handleNext s
    else if BitVec.ofNat 8 v.toNat = (mbox s 0).seq then s
    else acknowledge mb v s

/-- ACK_GO (R406) by the receiver, with the other events of the cycle: a GO comes first, and a matching acknowledgement wins over the
timer's expiry (R407). -/
def execAckGo (mb : Fin 114) (m : Master) (v : AckWrite) (s : State) : Host.Outcome State Fault Refusal :=
  .next ((if v.same.expiry then expire mb else id)
    (let t := senderFirst mb v.same s; if isReceiver s mb m then ackBy mb v.v t else t))

/-- PING (Table 13.6). -/
def execPing (s : State) : Host.Outcome State Fault Refusal := .next (msgPing s)

/-- CALENDAR_SET (Table 13.6, R515). -/
def execCalendarSet (s : State) : Host.Outcome State Fault Refusal := .next (msgCalendarSet s)

/-- CALENDAR_GET (Table 13.6). -/
def execCalendarGet (s : State) : Host.Outcome State Fault Refusal := .next (msgCalendarGet s)

/-- POWER_LIMIT_SET (R467): from the host mailbox, or over MCTP. -/
def execPowerLimitSet (src : Source) (watts : W32) (s : State) : Host.Outcome State Fault Refusal :=
  .next (
    match src with
    | .hostMsg => msgLimitSet s
    | .mgmtMsg =>
      let ok := limitOk watts.toNat
      emit (.mgmt 0x04 (if ok then 0 else 3) [] [])
        (if ok then acceptLimit watts.toNat .mgmtMsg { s with ident := { s.ident with mctpMessages := s.ident.mctpMessages + 1 } }
         else { s with ident := { s.ident with mctpMessages := s.ident.mctpMessages + 1 } }))

/-- POWER_LIMIT_GET (Table 13.6). -/
def execPowerLimitGet (s : State) : Host.Outcome State Fault Refusal := .next (msgLimitGet s)

/-- CLUSTER_WAKE (R408, R466): the domain of an enabled cluster is restored, and a waiting message sets the control core's
interrupt. -/
def execClusterWake (cluster : Fin 112) (s : State) : Host.Outcome State Fault Refusal :=
  let p := cluster.val
  let s1 := ungate p s
  let wake (mb : Nat) (s : State) : State :=
    if (mbox s mb).full then setMbox s mb { mbox s mb with irq := true } else s
  let s2 := wake (2 + p) s1
  .next (if !enabledCl s p then s else if leadCluster s2 = some p then wake 0 s2 else s2)

end Sys2Proof.Machine
end

