-- ==== Sys2Proof/Machine/HostRegs.lean ====
section
/-! DEFINITION. Host register accesses (R19 to R22, R416, R524), managed removal (R396), ladle reads (R364, R366, R394), IDE
(R367) and the host error ring (R499). -/

namespace Sys2Proof.Machine

/-! ### Bad accesses (R20, R416) -/

/-- An access breaks R20: not naturally aligned, narrower than 32 bits, or 64 bits wide on anything but a 64-bit register. -/
def badSize (s : State) (o n : Nat) : Bool :=
  if n = 4 then o % 4 != 0 else if n = 8 then o % 8 != 0 || (val64 s o).isNone else true

/-- The bad-access record of a master (R20, Table 17.6). -/
def badRecord (m : Master) (o n : Nat) (write : Bool) : ErrRec :=
  let r := err 1 0 o (bit write + 2 * n) 0
  match m with
  | .host => { r with cls := 8 }
  | .mgmt => { r with cls := 10 }
  | .core p => { r.atCluster p.val with cls := 4 }

/-- A bad access completed: a read returns zero, a write is discarded, and a record is raised; a host access to a block that
is closed below phase 7 raises none (R429). -/
def badAccessAt (m : Master) (o n : Nat) (write : Bool) (s : State) : State :=
  let s1 := if write then s else emit (.readBad (BitVec.ofNat 26 o) (BitVec.ofNat 4 n)) s
  if m = .host ∧ !openBlock s o then s1 else raise (badRecord m o n write) s1

/-- BAD_ACCESS (R20). -/
def execBadAccess (m : Master) (off : Off) (bytes : BitVec 4) (write : Bool) (s : State) : Host.Outcome State Fault Refusal :=
  .next (if badSize s off.toNat bytes.toNat then badAccessAt m off.toNat bytes.toNat write s else s)

/-! ### 64-bit registers (R21) -/

/-- A 64-bit register takes a value; only ring and error ring bases are host-writable (Table 19.2). The
low-word latch is cleared, as by a high-word write (DESIGN CHOICE, log entry 118). -/
def take64 (o : Nat) (v : W64) (s : State) : State :=
  let s1 := { s with ident := { s.ident with lowLatch := put (fun _ => none) s.ident.lowLatch o none } }
  if 0x40000 ≤ o ∧ o < 0x44000 ∧ o % 0x40 = 0 then baseWrite ((o - 0x40000) / 0x40) true v s1
  else if 0x40000 ≤ o ∧ o < 0x44000 ∧ o % 0x40 = 0x10 then baseWrite ((o - 0x40000) / 0x40) false v s1
  else if o = 0x80000 then
    (if s1.err.erEnable then s1 else { s1 with err := { s1.err with erBase := BitVec.ofNat 52 (v.toNat / 2 ^ 12) } })
  else s1

/-- A low-word write loads the latch and changes nothing else. -/
def lowWrite (o : Nat) (lo : W32) (s : State) : State :=
  { s with ident := { s.ident with lowLatch := put (fun _ => none) s.ident.lowLatch o (some lo) } }

/-- A high-word write: the register takes it with the latched, or present, low word. -/
def highWrite (o : Nat) (hi : W32) (cur : W64) (s : State) : State :=
  let lo := (look (fun _ => none) s.ident.lowLatch o).getD (BitVec.ofNat 32 cur.toNat)
  take64 o (hi ++ lo) s

/-- REG64_LOW_READ (R21): the present low word, and the high word latched. -/
def execReg64LowRead (off : Off) (s : State) : Host.Outcome State Fault Refusal :=
  let o := off.toNat
  .next (
    if !openBlock s o then emit (.read64 off 0) s
    else
      match val64 s o with
      | none => s
      | some v =>
        emit (.read64 off v) { s with ident := { s.ident with
          highLatch := put (fun _ => none) s.ident.highLatch o (some (BitVec.ofNat 32 (v.toNat / 2 ^ 32))) } })

/-- REG64_LOW_WRITE (R21). -/
def execReg64LowWrite (off : Off) (lo : W32) (s : State) : Host.Outcome State Fault Refusal :=
  .next (if openBlock s off.toNat ∧ (val64 s off.toNat).isSome then lowWrite off.toNat lo s else s)

/-- REG64_HIGH_WRITE (R21). -/
def execReg64HighWrite (off : Off) (hi : W32) (s : State) : Host.Outcome State Fault Refusal :=
  .next (
    if !openBlock s off.toNat then s
    else match val64 s off.toNat with
      | none => s
      | some cur => highWrite off.toNat hi cur s)

/-! ### Managed removal (R396) -/

/-- Packets not yet dispatched complete with REMOVED (Table 12.12). -/
def removePackets (s : State) : State :=
  forAll (s.host.rings.map (·.1)) removeQueued s

/-- A switch still waiting for its epoch is withdrawn: refused to plan part 0, and its command completes with REMOVED. -/
def withdrawSwitch (o : SwitchOp) (s : State) : State :=
  let b := o.incoming.getD 0xFFF
  let s1 := restoreStates o { s with ten := { s.ten with switches := s.ten.switches.filter (· != o) } }
  let s2 := replyOpt o.cmd b 0x16 0 0 s1
  if o.incoming.isSome then tellLead b (some (0x40, (entry s b).planPart.toNat + 6 * 2 ^ 12)) s2 else s2

/-- QUIESCE written as 1 (R396): removal starts; it cannot be cleared, and a second write changes nothing. -/
def startQuiesce (s : State) : State :=
  if s.host.quiesce then s
  else
    let s0 := forAll (s.host.rings.map (·.1)) (fun r s => modRing r (fun g => { g with last := g.last || reading r s }) s) s
    let s1 := removePackets { s0 with host := { s0.host with quiesce := true } }
    forAll (s1.ten.switches.filter (·.epoch.isNone)) withdrawSwitch s1

/-- QUIESCE (R396). -/
def execQuiesce (v : W32) (s : State) : Host.Outcome State Fault Refusal :=
  .next (if below7 s ∨ !bitOf v.toNat 0 then s else startQuiesce s)

/-- D3HOT_WRITE (R363): acts as QUIESCE. -/
def execD3hotWrite (s : State) : Host.Outcome State Fault Refusal := .next (startQuiesce s)

/-- Everything that QUIESCED waits for has completed (R396). -/
def quiesceDone (s : State) : Bool :=
  s.host.quiesce && !s.host.quiesced && s.ten.switches.isEmpty && s.lar.queue.isEmpty
  && s.host.work.all (fun x => x.2.isNone) && s.host.held.isEmpty
  && s.host.rings.all (fun x => x.2.queue.isEmpty && x.2.pendFlush.isEmpty && !reading x.1 s)
  && (liveBindings s).all (fun b => (brun s b).stageReqs.isEmpty)
  && (liveBindings s).all (fun b => (entry s b).st != 1 && (entry s b).st != 4 && (entry s b).st != 5)
  && s.hw.engines.all (fun x => x.2.prog.isNone)

/-- QUIESCE_COMPLETE (R396, Table 12.12): LEAVE for a domain member, QUIESCED, and vector 2. -/
def execQuiesceComplete (s : State) : Host.Outcome State Fault Refusal :=
  .next (
    if !quiesceDone s then s
    else
      let s1 := if s.fab.st = 2 then doLeave s else s
      msix 2 { s1 with host := { s1.host with quiesced := true } })

/-! ### The host error ring (R499) -/

/-- A write of the error ring control register (Table 17.3). -/
def erControl (v : W32) (s : State) : State :=
  let lg := fld v.toNat 8 5
  let e := { s.err with erLog2 := BitVec.ofNat 5 lg }
  { s with err :=
      if !bitOf v.toNat 0 then { e with erEnable := false }
      else if lg < 6 ∨ 16 < lg then e
      else { e with erEnable := true, erTail := 0, erPhase := true, unsignalled := 0 } }

/-- A write of ER_HEAD: a value at or above the ring size is discarded. -/
def erHeadWrite (v : W32) (s : State) : State :=
  let h := fld v.toNat 0 16
  if 2 ^ s.err.erLog2.toNat ≤ h then s else { s with err := { s.err with erHead := BitVec.ofNat 16 h } }

/-- Unsignalled error entries that reach ER_CO_COUNT signal vector 0 (R392, R499). -/
def signalEr (s : State) : State :=
  if s.err.unsignalled ≠ 0 ∧ max 1 s.err.coCount.toNat ≤ s.err.unsignalled then
    msix 0 { s with err := { s.err with unsignalled := 0 } }
  else s

/-- A write of the error ring's coalescing register. -/
def erCoalesce (v : W32) (s : State) : State :=
  signalEr { s with err := { s.err with coCount := BitVec.ofNat 8 (fld v.toNat 0 8), coTime := BitVec.ofNat 16 (fld v.toNat 8 16) } }

/-- ER_ENABLE (R499): the error reporting block answers in every phase (R429). -/
def execErEnable (v : W32) (s : State) : Host.Outcome State Fault Refusal := .next (erControl v s)

/-- ER_HEAD (R499). -/
def execErHead (v : W32) (s : State) : Host.Outcome State Fault Refusal := .next (erHeadWrite v s)

/-- The oldest record of the host queue written at ER_TAIL (R498, R499). -/
def writeErr (s : State) : State :=
  let e := s.err
  let size := 2 ^ e.erLog2.toNat
  let next := (e.erTail.toNat + 1) % size
  match e.hostQ with
  | [] => s
  | r :: t =>
    if !e.erEnable ∨ next = e.erHead.toNat % size then s
    else
      let s1 := emit (.errEntry e.erTail.toNat { r with phase := e.erPhase, loss := e.hostLoss }) s
      signalEr { s1 with err := { e with
        hostQ := t, hostLoss := false, erTail := BitVec.ofNat 16 next, erPhase := if next = 0 then !e.erPhase else e.erPhase,
        unsignalled := e.unsignalled + 1 } }

/-- ERROR_RING_WRITE (R499); no ladle transfer runs while the IDE stream is broken (R367). -/
def execErrorRingWrite (s : State) : Host.Outcome State Fault Refusal :=
  .next (if s.host.ideHold then s else writeErr s)

/-! ### ENABLE and register writes (R22, R431, R524) -/

/-- ENABLE (R431): a write of 1 to the W1S field. -/
def execEnable (v : W32) (s : State) : Host.Outcome State Fault Refusal :=
  .next (if bitOf v.toNat 0 then requestEnable s else s)

/-- A host write of a 32-bit word of the mailbox block (Tables 13.2, 13.4). -/
def hostMailWrite (o : Nat) (v : W32) (s : State) : State :=
  let x := v.toNat
  let b0 := mbox s 0
  let b1 := mbox s 1
  if o < 0x20040 then dataWrite 0 ((o - 0x20000) / 4) v s
  else if o = 0x20040 then (if bitOf x 0 then sendGo 0 s else s)
  else if o = 0x20050 then setMbox s 0 { b0 with ackTime := BitVec.ofNat 24 x }
  else if o = 0x200C4 then (if bitOf x 1 then setMbox s 1 { b1 with collision := false } else s)
  else if o = 0x200C8 then pumpMail (release 1 v s)
  else if o = 0x200CC then pumpMail (acknowledge 1 v s)
  else if o = 0x20100 then { s with mail := { s.mail with irqEn := BitVec.ofNat 3 x } }
  else if o = 0x20104 then { s with mail := { s.mail with irqCause := s.mail.irqCause &&& ~~~ BitVec.ofNat 3 x } }
  else s

/-- A host write of a 32-bit word of a ring's registers (Table 12.3). -/
def hostRingWrite (r : Fin 256) (o : Nat) (v : W32) (s : State) : State :=
  if o = 0x08 then sqControl r v s
  else if o = 0x0C then sqTailWrite r v s
  else if o = 0x18 then cqControl r v s
  else if o = 0x1C then cqHeadWrite r v s
  else if o = 0x28 then ringStatusWrite r v s
  else if o = 0x2C then coalesceWrite r v s
  else s

/-- An aligned 32-bit host write that is not a word of a 64-bit register: the fields of Table 19.2, and nothing else. -/
def hostWrite32 (o : Nat) (v : W32) (s : State) : State :=
  if o = 0x28 then { s with ident := { s.ident with scratch := v } }
  else if o = 0x10000 then (if bitOf v.toNat 0 then requestEnable s else s)
  else if 0x20000 ≤ o ∧ o < 0x20108 then hostMailWrite o v s
  else if 0x30000 ≤ o ∧ o < 0x30100 then
    (if bitOf v.toNat 0 then s else setLock s ((o - 0x30000) / 4) { lockReg s ((o - 0x30000) / 4) with held := false })
  else if 0x40000 ≤ o ∧ o < 0x44000 then hostRingWrite (Fin.ofNat 256 ((o - 0x40000) / 0x40)) (o % 0x40) v s
  else if o = 0x44000 then (if bitOf v.toNat 0 then startQuiesce s else s)
  else if o = 0x44008 then hostTimers v s
  else if 0x60000 ≤ o ∧ o < 0x61040 then msixWrite ((o - 0x60000) / 16) (o % 16 / 4) v s
  else if o = 0x80008 then erControl v s
  else if o = 0x8000C then erHeadWrite v s
  else if o = 0x80014 then erCoalesce v s
  else if o = 0xA8000 then (if bitOf v.toNat 0 then snapshot s else s)
  else if o = 0x400010 then fabricControl v s
  else if o = 0x400040 then txnTimers v s
  else mapWriteAt o v s

/-- REGISTER_WRITE (R22): a host write; a misaligned one, or one 64 bits wide on anything but a 64-bit register, is a bad
access (R20). -/
def execRegisterWrite (off : Off) (v : W64) (wide : Bool) (s : State) : Host.Outcome State Fault Refusal :=
  let o := off.toNat
  let lo := BitVec.ofNat 32 v.toNat
  .next (
    if badSize s o (if wide then 8 else 4) then badAccessAt .host o (if wide then 8 else 4) true s
    else if !openBlock s o then s
    else if wide then take64 o v s
    else if (val64 s o).isSome then lowWrite o lo s
    else
      match (if 4 ≤ o then val64 s (o - 4) else none) with
      | some cur => highWrite (o - 4) lo cur s
      | none => hostWrite32 o lo s)

/-! ### Ladle reads (R364, R366, R394) -/

/-- A load whose data could not be read (R394, R366): its command completes with the status, and what it took is released (DEDUCED, log
entry 171). -/
def failLoad (b status : Nat) (s : State) : State :=
  if (entry s b).st = 1 then
    startRelease b (replyOpt (brun s b).loadCmd b status 0 0 (modBrun b (fun r => { r with loadCmd := none }) s))
  else s

/-- A read that failed: ring entries that could not be read stop the ring; any other read ends its command with a status and
its record as on a page-quota refusal (R394). -/
def failRead (w : ReadFor) (status : Nat) (s : State) : State :=
  match w with
  | .entries r =>
    flushBoundary r (msix 2 (modRing r (fun g => { g with
      fetchFault := true, sqEnable := false, last := false, readFirst := false, buf := [] }) s))
  | .tokens c => failWork c status s
  | .load b => failLoad b status s

/-- The record of a read whose data never came (Table 17.2). -/
def readRecord (s : State) (w : ReadFor) : ErrRec :=
  match w with
  | .entries r => { err 0x61 1 r 0 0 with inst := BitVec.ofNat 8 r }
  | .tokens c => err 0x61 1 (((workOf s (ownerOf s c)).map (·.cmd.ring)).getD 0) 1 0
  | .load b => err 0x61 1 (((brun s b).loadCmd.map (·.ring)).getD 0) 1 0

/-- A ladle read taken off the list; one that waited may leave (R364). -/
def dropRead (id : Nat) (s : State) : State :=
  startReads { s with host := { s.host with reads := s.host.reads.filter fun x => x.id != id } }

/-- HOST_READ_COMPLETE (R364): the read is over; a translation that failed ends its command with BAD_ADDRESS (R366). -/
def execHostReadComplete (id : Nat) (ok : Bool) (s : State) : Host.Outcome State Fault Refusal :=
  .next (
    match s.host.reads.find? fun x => x.id == id with
    | none => s
    | some x => if ok then dropRead id s else failRead x.what 8 (dropRead id s))

/-- HOST_READ_TIMEOUT (R394): an expired timer is counted; the read is reissued once, and fails when that expires too. -/
def execHostReadTimeout (id : Nat) (s : State) : Host.Outcome State Fault Refusal :=
  .next (
    match s.host.reads.find? fun x => x.id == id with
    | none => s
    | some x =>
      if x.left ≠ 0 then s
      else
        let s1 := { s with host := { s.host with timeouts := s.host.timeouts + 1 } }
        if x.reissued then failRead x.what 0x14 (raise (readRecord s1 x.what) (dropRead id s1))
        else
          { s1 with host := { s1.host with reads := s1.host.reads.map fun y =>
              if y.id = id then { y with left := s1.host.ht.toNat, reissued := true } else y } })

/-- Every outstanding read completes with an error (R367, R393). -/
def failReads (s : State) : State :=
  forAll s.host.reads (fun x s => failRead x.what 0x14 (raise (readRecord s x.what) s))
    { s with host := { s.host with reads := [] } }

/-- IDE_FAILURE (R367): while IDE is active. -/
def execIdeFailure (cache : Bool) (s : State) : Host.Outcome State Fault Refusal :=
  .next (
    if !s.host.ideActive then s
    else
      let s1 := { s with host := { s.host with ideActive := false, ideHold := true, ideFails := s.host.ideFails + 1 } }
      msix 2 (raise (err 0x62 1 (bit cache) 0 0) (failReads s1)))

/-- A held write goes out (R367). -/
def sendHeld (h : HeldOut) (s : State) : State :=
  match h with
  | .data a bs => writeHost a bs s
  | .entry r resv done c => completeWith r resv done c s

/-- IDE_REKEY (R367), by IDE_KM over an SPDM session on DOE (R436): the streams are active again, the writes held go out in order, and the
ladles read on. -/
def execIdeRekey (s : State) : Host.Outcome State Fault Refusal :=
  .next (
    if s.host.ideActive ∨ !(s.su.sessions.any fun x => x.port == .doe && x.finished) then s
    else
      let h := s.host.held
      let s1 := { s with host := { s.host with ideActive := true, ideHold := false, held := [] } }
      let s2 := startReads (forAll h sendHeld s1)
      msix 2 (forAll ((List.range 256).map (Fin.ofNat 256)) (fun r s => if r.val ∈ s2.host.rings.map (·.1) then ringOn r s else s) s2))

end Sys2Proof.Machine
end

