-- ==== Sys2Proof/Machine/Windows.lean ====
section
/-! DEFINITION. Maintenance windows: MWIN with its probe passes (R96, R189), and MAINTENANCE_WINDOW_END with the drift evaluation
(R95) and everything that takes effect there (R37, R61, R92, R203, R221, R225, R454); the switch epoch's load, window and handover
(R343); and the beat edge. -/

namespace Sys2Proof.Machine

/-! ### MWIN (R96, R189) -/

/-- The READY planes of an engine whose count has stayed below 64, restored ones included (R207). -/
def probed (s : State) (e : Nat) : List Nat :=
  ((s.hw.planes.filter fun x => engOf x.1 == e).map (·.1)).filter fun n =>
    let q := plane s n
    q.st == 2 && decide (q.n < 64)

/-- One probe pass (R96): every logical row with m = 8, sign 0 and k = 64 at r = 7; it gathers drift sums and nothing else. -/
def probePass (n : Nat) (s : State) : State :=
  let xs : List Int := List.replicate 256 8
  let ks := List.replicate 8 64
  let h := shot s n 7 xs ks
  tickFresh (addDrift n h.vals (input64 xs ks) (drive64 xs ks) s)

/-- The probe passes of a window (R96): 64 on each plane, as many planes of an engine as the window's slots hold: 64 passes
take 5 beats (R68). Which planes come first where there is no time for all, the spec leaves open: the lowest plane indices (DESIGN
CHOICE, log entry 89). -/
def probes (k len : Nat) (s : State) : State :=
  forAll (List.range 17) (fun i s =>
    if bitOf (core s k).inUse.toNat i then
      forAll ((probed s (17 * k + i)).take (len / 5)) (fun n s => upto 64 (fun _ s => probePass n s) s) s
    else s) s

/-- MWIN (R189): the window of LEN beats opens with its permitted uses. -/
def openWindow (c : Iss) (s : State) : State :=
  let n := rLen c.x
  probes c.k n (modCore c.k (fun q => { q with window := some (BitVec.ofNat 8 (rFlags c.x), s.fab.sched + BitVec.ofNat 64 n) }) s)

/-- MWIN: no layer step of the core is open in it (R148, R189). -/
def execMwin (k : Fin 2016) (r : RecRead) (s : State) : Host.Outcome State Fault Refusal :=
  .next (issueTo 4 false stepJudged openWindow k r s)

/-! ### The end of a window -/

/-- A window of a core ends (R95, R61, R203, R454, R480): its planes are evaluated, the transitions, map moves, calibrations and the
re-plan that waited take effect, and the summaries are written. -/
def endWindow (k : Nat) (s : State) : State :=
  let ns := evaluated s k
  let marks := (ns.filter fun n => (evalDrift (plane s n)).isNone).length
  let s1 := forAll ns (fun n s => modPlane n (drifted s) s) s
  let s2 := settleCore k s1
  let s3 := replanAt k (forAll (List.range 17) (fun i s =>
    modEngine (17 * k + i) (fun g => { g with refHeld := false }) (applyCal (17 * k + i) s)) s2)
  summaries (clOf k) marks (modCore k (fun q => { q with window := none }) s3)

/-- MAINTENANCE_WINDOW_END (R95, R189): the open window of a core ends, once its last beat is over. -/
def execMaintenanceWindowEnd (k : Fin 2016) (s : State) : Host.Outcome State Fault Refusal :=
  .next (
    match (core s k).window with
    | none => s
    | some w => if s.fab.sched.toNat < w.2.toNat then s else endWindow k s)

/-! ### The switch epoch (R343) -/

/-- First schedule beat of a switch's epoch. -/
def switchStart (o : SwitchOp) : Nat := 1024 * (o.epoch.getD 0).toNat

/-- The recipes of plan core `c` pass the check of R191 at their load: every RSEQ is the record's index. -/
def recipesOk (p : List Byte) (c : Nat) : Bool :=
  [false, true].all fun w =>
    let rs := recsOf p c w
    (List.range rs.length).all fun i => rSeq (rs.getD i 0) == i % 65536

/-- Both variants of an incoming binding's recipes loaded from its plan copy into the cluster SRAM of each core whose scrub is verified
(Table 11.5, beats 16 to 63). -/
def loadRecipes (o : SwitchOp) (b : Nat) (s : State) : State :=
  forAll (mapCores s b) (fun k => if o.scrubs.contains k then id else
    modCore k fun q => { q with recipes := q.recipes || recipesOk (planOf s b) ((planIndex s b k).getD 0) }) s

/-- The maintenance window of a switch epoch opens on the switch's cores, with every use permitted, up to beat 1,015 (Table 11.5). -/
def openSwitchWindow (o : SwitchOp) (s : State) : State :=
  forAll o.cores (fun k s => probes k 952
    (modCore k (fun q => { q with window := some (0xF, BitVec.ofNat 64 (switchStart o + 1016)) }) s))
    { s with ten := { s.ten with switches := s.ten.switches.map fun x => if x = o then { o with opened := true } else x } }

/-- From beat 64 of its epoch on, a switch that has begun has its recipes loaded and its window open (Table 11.5). -/
def switchStages (s : State) : State :=
  forAll (s.ten.switches.filter fun o => o.begun && decide (switchStart o + 64 ≤ s.fab.sched.toNat)) (fun o s =>
    let s1 := if o.failed.isNone then forAll (switchIns o) (loadRecipes o) s else s
    if o.opened ∨ switchStart o + 1016 ≤ s.fab.sched.toNat then s1 else openSwitchWindow o s1) s

/-- An incoming binding whose recipes are loaded takes its cores (Table 11.5, beat 1,016): bound-tenant registers, stages 6 to 8, and its
step period from E + 1; a cluster whose cores it holds is not gated (R466). -/
def takeCores (o : SwitchOp) (b : Nat) (s : State) : State :=
  if (entry s b).st ≠ 3 ∨ !(heldBy s b).isEmpty ∨ !(mapCores s b).all (fun k => (core s k).recipes) then s
  else
    let at_ := BitVec.ofNat 64 (switchStart o + 1024)
    let s1 := forAll (mapCores s b) (fun k s =>
      ungate (clOf k) (modCore k (fun q => { q with
        bound := some (b, (entry s b).tenant), ptr := 0, ptrLow := 0, ptrHigh := 0, stepAt := at_ }) s)) s
    let s2 := modBrun b (fun r => { r with since := at_, stepAt := at_ }) s1
    beginStep b (stagesFrom6 b [] s2)

/-- The end of a switch's window, and the handover of its cores (R343, R95). -/
def handover (o : SwitchOp) (s : State) : State :=
  let s1 := forAll o.cores (fun k s => if (core s k).window.isSome then endWindow k s else s) s
  if o.failed.isSome then s1 else forAll (switchIns o) (takeCores o) s1

/-- SWITCH_HANDOVER (R343): at beat 1,016 of the switch epoch. -/
def execSwitchHandover (s : State) : Host.Outcome State Fault Refusal :=
  .next (forAll (s.ten.switches.filter fun o => o.begun && decide (switchStart o + 1016 ≤ s.fab.sched.toNat)) handover s)

/-! ### The beat edge -/

/-- BEAT_EDGE (R303, R304): the counts rise, the master resolves and sends its word, requests raised in the beat that ends are sent, a
member counts a word that never came, idle clusters are gated, and what is due at the new schedule beat happens. -/
def execBeatEdge (s : State) : Host.Outcome State Fault Refusal :=
  .next (
    if !beats s then s
    else
      let s1 := resolveDue (gateClusters (countReads (countBeat (countBelow (sendRequests s)))))
      let s2 := if s1.fab.st = 2 ∧ s1.fab.myPos = 0 ∧ 1 < ringN s1 then sendBeat (beatNow s1) s1 else missingWord s1
      if s2.fab.sched = s.fab.sched then s2 else endSwitches (switchStages (epochStages s2)))

end Sys2Proof.Machine
end

