-- ==== Sys2Proof/Machine/Program.lean ====
section
/-! DEFINITION. Programming planes (R193 to R198, R210 to R221): PROGRAM_START, ERASE_COMPLETE, ROW_ITERATION,
PROGRAM_ATTEMPT_END, and ADOPTION_COMPLETE (R209), with partner repair, sparing, neighbour adjustment and the cell map. -/

namespace Sys2Proof.Machine

/-! ### Weights and targets (R54, R57 to R59, R200) -/

/-- Key of a cell. -/
def cellKey (row col : Nat) (neg : Bool) : Nat := 2 * (264 * row + col) + bit neg

/-- Level of a cell. -/
def level (n : Nat) (q : Plane) (row col : Nat) (neg : Bool) : Nat := cellLevel n q (cellKey row col neg)

/-- The weight of logical row `i` and column `j` in a block's data (R200). -/
def blockWeight (data : List Byte) (i j : Nat) : Int :=
  let x := fld (data.getD (128 * i + j / 2) 0).toNat (4 * (j % 2)) 4
  if 8 ≤ x then (x : Int) - 16 else x

/-- The weight that a plane's data gives a logical position: its master copy's, or plane 64's pattern (R59). -/
def planeWeight (s : State) (n : Nat) : Nat → Nat → Int :=
  if n % 65 = 64 then patternWeight
  else match look (fun _ => none) s.hw.masters n with
    | some m => blockWeight m.data
    | none => fun _ _ => 0

/-- The intended levels of a pair in a program attempt. -/
def progPair (s : State) (g : Prog) (row col : Nat) : Nat × Nat :=
  wantPair (planeWeight s g.plane) (rowMap s g.plane) (colMap s g.plane) g.adjusted row col

/-- The target level of a cell in a program attempt. -/
def targetOf (s : State) (g : Prog) (row col : Nat) (neg : Bool) : Nat :=
  match look (fun _ => none) g.target (cellKey row col neg) with
  | some t => t
  | none => let p := progPair s g row col; if neg then p.2 else p.1

/-- The highest level of a column's cells: those of the checksum column are wide (R57). -/
def topLevel (col : Nat) : Nat := if col = 260 then 128 else 15

/-! ### When a program may run (R196, R197, R210, R211) -/

/-- A program is writing: in its erase or inside a row. -/
def progActive (g : Engine) : Bool :=
  match g.prog with
  | some p => p.erasing || (!p.waiting && (p.iter != 0 || p.extending))
  | none => false

/-- Engines that may program at once (Table 7.2). -/
def progCap (s : State) : Nat :=
  if 700 ≤ s.pow.limitForce.toNat then 2048 else if 500 ≤ s.pow.limitForce.toNat then 1024 else 512


/-- The use of a window that a program needs (R189): programming for a first program or a copy, refresh for the rest. -/
def progUse (purpose : Nat) : Nat := if purpose = 0 ∨ purpose = 3 then 0 else 1

/-- A held plane is refreshed in the stretch that its pass asked for (R212): one held as the stretch began. -/
def inHeldStretch (s : State) (n : Nat) : Bool := s.hw.stretchPlanes.contains n && inserted s

/-- The planes of a held stretch that are still to be written and write nothing now: background programs make room for them
(R212). -/
def heldWaiting (s : State) : Nat :=
  if inserted s then
    (s.hw.stretchPlanes.filter fun n =>
      ((plane s n).st == 1 || (plane s n).st == 3 || (plane s n).st == 4) && !progActive (engine s (engOf n))).length
  else 0

/-- Another engine may program plane `n` now (R197); under a cap that a held stretch fills, a background program pauses (R212). -/
def underCap (s : State) (n : Nat) : Bool :=
  decide ((s.hw.engines.filter fun x => progActive x.2).length + (if inHeldStretch s n then 0 else heldWaiting s) < progCap s)

/-- The other plane of a primary and its shadow, where a plane has one (R211). -/
def twins (s : State) (n : Nat) : List Nat :=
  match (plane s n).home with
  | none => []
  | some h => ((brun s h.1).planes.filter fun u => u.block == h.2.1 && u.plane != n).map (·.plane)

/-- A READY shadow serves a plane's passes. -/
def hasShadow (s : State) (n : Nat) : Bool :=
  match (plane s n).home with
  | none => false
  | some h => (brun s h.1).planes.any fun u => u.shadow && u.block == h.2.1 && u.plane != n && (plane s u.plane).st == 2

/-- A periphery fault's columns, or a cell that waits for its rewrite (R83, R213), call for a plane's rewrite. -/
def wantsRewrite (s : State) (n : Nat) : Bool :=
  let off := look (fun _ => []) s.lar.repair.colsOff n
  ((engine s (engOf n)).spareCols.any fun c => !off.contains c)
  || (match (plane s n).home with
      | some h => (brun s h.1).cellMap.any fun x => x.plane == n && x.cause == 2
      | none => false)

/-- A migration has written the plane that takes this one's place, and the plane map is still to move (R221). -/
def moving (s : State) (n : Nat) : Bool := (List.range 64).any fun i => (plane s (65 * engOf n + i)).moveOf == some n

/-- What a program of a plane is for, if its state calls for one: 0 first program, 1 refresh or rewrite, 3 substitution copy. -/
def purposeOf (s : State) (n : Nat) : Option Nat :=
  let q := plane s n
  if q.st = 6 then some 1
  else if q.home.isNone ∨ q.adopting ∨ q.next.isSome ∨ moving s n then none
  else if q.st = 0 then some (if q.subst then 3 else 0)
  else if q.st = 3 ∨ q.st = 4 then some 1
  else if q.st = 2 ∧ wantsRewrite s n then some 1
  else none

/-- The logical index of a physical engine in its core; 16 where it has none. -/
def logicalEngine (s : State) (e : Nat) : Nat := ((List.range 16).find? fun l => physEngine s (coreOf e) l == some e).getD 16

/-- The path of an engine: logical cluster, core and engine (R197). -/
def enginePath (s : State) (e : Nat) : Nat :=
  ((cluster s (clOf (coreOf e))).logical.toNat * 32 + (core s (coreOf e)).logical.toNat) * 32 + logicalEngine s e

/-- The place of a STALE plane in R210's order. -/
def refreshKey (s : State) (n : Nat) : Nat :=
  ((bit (hasShadow s n) * 2 ^ 64 + (plane s n).staleAt.toNat) * 2 ^ 20 + enginePath s (engOf n)) * 128 + n % 65

/-- A program attempt may start now (R196, R210): on an unheld core at any time, on a held one inside a window that permits it
with enough beats left, or in the stretch that holds its pass. -/
def timeToStart (s : State) (n purpose : Nat) (first : Bool) : Bool :=
  let k := coreOf (engOf n)
  let beats := if first && purpose == 1 && n % 65 != 64 && !hasShadow s n then 22989 else 489
  freeFor s k beats || inHeldStretch s n
  || windowHas s k (progUse purpose) beats

/-- The engine is free for a program (R196): in use, not failed, with no calibration and no test running, and no pass run on it in this
beat. -/
def engineFree (s : State) (e : Nat) : Bool :=
  let k := coreOf e
  enabledCl s (clOf k) && bitOf (core s k).inUse.toNat (e % 17) && !(engine s e).failed && (engine s e).cal.isNone
  && !(core s k).kat.running && !(core s k).failed && (engine s e).passBeat != some s.fab.beat

/-- Neither the plane nor its primary or shadow is being written (R211). -/
def twinsIdle (s : State) (n : Nat) : Bool := (twins s n).all fun m => (plane s m).st != 1 && (plane s m).st != 4

/-- A plane may start a program of its purpose now, the order among planes and the cap apart. -/
def startable (s : State) (n : Nat) : Bool :=
  match purposeOf s n with
  | none => false
  | some p => (engine s (engOf n)).prog.isNone && engineFree s (engOf n) && timeToStart s n p true && twinsIdle s n
              && (n % 65 == 64 || masterGood s n)

/-- Planes of an engine that wait for a program. -/
def waitingOn (s : State) (e : Nat) : Nat := (((List.range 64).map (65 * e + ·)).filter fun n => (purposeOf s n).isSome).length

/-- The order of starts allows this plane (R197, R210): of STALE planes that may start, the first of R210; else one of the idle
engine with the most planes waiting, ties to the lowest path. Sparing rewrites and plane 64 are in no order (log entry 97). -/
def turnTo (s : State) (n : Nat) : Bool :=
  let all := (s.hw.planes.map (·.1)).filter (startable s)
  if (plane s n).st = 3 then all.all fun m => (plane s m).st != 3 || decide (refreshKey s n ≤ refreshKey s m)
  else if (plane s n).st = 0 then
    let key (e : Nat) : Nat := (64 - waitingOn s e) * 2 ^ 20 + enginePath s e
    ((all.filter fun m => (plane s m).st == 0).map engOf).all fun e => decide (key (engOf n) ≤ key e)
  else true

/-! ### Neighbour adjustment (R217, R218) -/

/-- Mean (0) or variance (1) of an input channel of a layer (R218), as FP32. -/
def statAt (p : List Byte) (l c i : Nat) : W32 :=
  let before := (List.range l).foldl (fun a j => a + lyW p j) 0
  let x := BitVec.ofNat 16 (leAt p (plStats p + 4 * (before + c) + 2 * i) 2)
  if finiteF f16 x.toNat then h2f x else Config.nonFinite 9 (BitVec.ofNat 32 x.toNat) 0

/-- cost(d) of R217 over `rows`, ascending. -/
def adjustCost (mu var : Nat → W32) (rows : List Nat) (d : Nat → Int) : W32 :=
  let f (x : Int) : W32 := f32Of (dyInt x)
  let a := rows.foldl (fun a i => fadd a (fmul (mu i) (f (d i)))) 0
  let v := rows.foldl (fun a i => fadd a (fmul (var i) (f (d i * d i)))) 0
  if fin32 a ∧ fin32 v then f32Of (dyAdd (dyMul (fv a) (fv a)) (fv v)) else fadd (fmul a a) v

/-- The adjustment of a row in a list of them. -/
def adjOf (l : List (Nat × Int)) (i : Nat) : Int := match l.find? (·.1 == i) with | some x => x.2 | none => 0

/-- One step of R217's loop: the best change, or none. -/
def adjustStep (mu var : Nat → W32) (w : Nat → Int) (rows ns : List Nat) (d : List (Nat × Int)) : Option (List (Nat × Int)) :=
  let cost (e : List (Nat × Int)) : W32 := adjustCost mu var rows (adjOf e)
  let with_ (i : Nat) (step : Int) : List (Nat × Int) := (i, adjOf d i + step) :: d.filter (·.1 != i)
  let tries := ns.flatMap fun i => ([-1, 1] : List Int).filterMap fun step =>
    let x := adjOf d i + step
    if -8 ≤ w i + x ∧ w i + x ≤ 7 ∧ x.natAbs ≤ 2 then some (with_ i step) else none
  let best := tries.foldl (fun a e => match a with
    | none => some e
    | some b => if dyLt (fv (cost e)) (fv (cost b)) then some e else some b) none
  best.bind fun e => if dyLt (fv (cost e)) (fv (cost d)) then some e else none

/-- R217's loop, up to 8 times. -/
def adjustLoop (mu var : Nat → W32) (w : Nat → Int) (rows ns : List Nat) : Nat → List (Nat × Int) → List (Nat × Int)
  | 0, d => d
  | k + 1, d => match adjustStep mu var w rows ns d with
    | none => d
    | some e => adjustLoop mu var w rows ns k e

/-- The adjustments of one logical column (R217): `f` its unrepairable rows with their fixed errors. -/
def adjustColumn (mu var : Nat → W32) (w : Nat → Int) (f : List (Nat × Int)) : List (Nat × Int) :=
  let rows := (List.range 256).filter fun i => f.any fun x => x.1 / 32 == i / 32
  let ns := rows.filter fun i => !f.any (·.1 == i)
  (adjustLoop mu var w rows ns 8 f).filter fun x => ns.contains x.1 && x.2 != 0

/-- The adjustments of an attempt (R217): those of every column with a cell that the previous attempt could not repair and the
maps still select. None without input statistics. -/
def adjustments (s : State) (n : Nat) (faults : List (Nat × Nat)) : List (Nat × Nat × Int) :=
  match (plane s n).home with
  | none => []
  | some h =>
    let p := planOf s h.1
    if plStats p = absent then []
    else
      let rows := rowMap s n
      let cols := colMap s n
      let w := planeWeight s n
      let live := faults.filter fun x => rows.contains x.1 && cols.contains x.2
      (live.map (·.2)).dedup.flatMap fun col =>
        let j := cols.idxOf col
        let f := ((live.filter (·.2 == col)).map (·.1)).dedup.map fun row =>
          (rows.idxOf row, cellWeight n (plane s n) row col - w (rows.idxOf row) j)
        (adjustColumn (fun i => statAt p h.2.2.1 (256 * h.2.2.2.1 + i) 0) (fun i => statAt p h.2.2.1 (256 * h.2.2.2.1 + i) 1)
          (fun i => w i j) f).map fun x => (rows.getD x.1 0, col, x.2)

/-! ### Residuals and spares (R112, R215, R216) -/

/-- The residual of a logical row as realised (R112). -/
def residualOf (s : State) (n i : Nat) : Int :=
  let q := plane s n
  let row := (rowMap s n).getD i 0
  (colMap s n).foldl (fun a col => a + cellWeight n q row col) 0 - 16 * checkWeight (planeWeight s n) i

/-- The residuals of a plane, signed 8-bit; one that the attempt limit leaves outside that range is open (DESIGN CHOICE, log
entry 123). -/
def residuals (s : State) (n : Nat) : SMap (BitVec 8) :=
  (List.range 256).foldl (fun m i =>
    let r := residualOf s n i
    put (fun _ => 0) m i (if -128 ≤ r ∧ r ≤ 127 then toWord 8 r else Config.freeByte (s.fresh + i))) []

/-- The columns off in a plane's map once it has taken those of a periphery fault (R82). -/
def colsOffOf (s : State) (n : Nat) : List Nat :=
  (look (fun _ => []) s.lar.repair.colsOff n ++ (engine s (engOf n)).spareCols).dedup

/-- The logical rows that need a spare (R215, R216): more than 4 unrepairable cells, or where `full` a residual out of range. -/
def badRows (s : State) (n : Nat) (full : Bool) (faults : List (Nat × Nat)) : List Nat :=
  let rows := rowMap s n
  (List.range 256).filter fun i =>
    decide (4 < (faults.filter (·.1 == rows.getD i 0)).length)
    || (full && (let r := residualOf s n i; decide (r < -128) || decide (127 < r)))

/-- The physical columns that take a spare (R215): in ascending logical order, while spare columns remain. -/
def badCols (s : State) (n : Nat) (faults : List (Nat × Nat)) (rows : List Nat) : List Nat :=
  ((colMap s n).filter fun c => faults.any fun x => x.2 == c && !rows.contains x.1).take (4 - (colsOffOf s n).length)

/-- The physical rows and columns that a plane's faults call for (R215). -/
def sparesFor (s : State) (n : Nat) (full : Bool) (faults : List (Nat × Nat)) : List Nat × List Nat :=
  let rows := (badRows s n full faults).map fun i => (rowMap s n).getD i 0
  (rows, badCols s n faults rows)

/-- The plane would need a fifth spare row (R84, R215). -/
def rowsSpent (s : State) (n : Nat) (rows : List Nat) : Bool :=
  decide (4 < (look (fun _ => []) s.lar.repair.rowsOff n).length + rows.length)

/-- Spare rows and columns selected in a plane's maps, counted, and the repair map written (R82, R215). -/
def selectSpares (n : Nat) (x : List Nat × List Nat) (s : State) : State :=
  if (x.1 ++ x.2).isEmpty then s
  else
    let r := s.lar.repair
    bump (clOf (coreOf (engOf n))) 0x610 (x.1.length + x.2.length) (writeRepair { s with lar := { s.lar with repair := { r with
      rowsOff := put (fun _ => []) r.rowsOff n (look (fun _ => []) r.rowsOff n ++ x.1)
      colsOff := put (fun _ => []) r.colsOff n (look (fun _ => []) r.colsOff n ++ x.2) } } })

/-- Cells left to the rewrite that follows a held refresh (R213): physical row and column of the entries with cause 2. -/
def pendingFaults (s : State) (n : Nat) : List (Nat × Nat) :=
  match (plane s n).home with
  | none => []
  | some h => ((brun s h.1).cellMap.filter fun x => x.plane == n && x.cause == 2).map fun x =>
      ((rowMap s n).getD (x.channel.toNat % 256) 0, (colMap s n).getD (x.output.toNat % 256) 0)

/-- A plane's map takes the columns that a periphery fault disables, as it is rewritten (R82, R83). -/
def takeSpares (n : Nat) (s : State) : State :=
  let off := look (fun _ => []) s.lar.repair.colsOff n
  let new := (engine s (engOf n)).spareCols.filter fun c => !off.contains c
  if new.isEmpty then s
  else writeRepair { s with lar := { s.lar with repair := { s.lar.repair with
    colsOff := put (fun _ => []) s.lar.repair.colsOff n (off ++ new) } } }

/-- The state a plane takes when its erase starts (R61): the plane of a substitution copy is REFRESHING, as R85, R348 and Table 2.3's
row out of REFRESHING have it (DEDUCED, log entry 153). -/
def writingState (purpose : Nat) (st : BitVec 3) : BitVec 3 :=
  if st = 6 then 6 else if purpose ≠ 3 ∧ (st = 0 ∨ st = 1) then 1 else 4

/-- A program attempt begins (R193, R220): the count rises with its journal entry (R510), the plane's state changes, and the
erase follows; a held plane's refresh changes no map (R213). The summary registers show it at once (R61). -/
def beginAttempt (n purpose old attempt : Nat) (faults : List (Nat × Nat)) (s : State) : State :=
  let e := engOf n
  let s0 := if inHeldStretch s n then s else takeSpares n s
  let last := attempt = 3 ∨ 4 ≤ (colsOffOf s0 n).length
  let g : Prog := { plane := n, purpose := purpose, old := old, attempt := attempt, erasing := true, row := 0, iter := 0,
                    extending := false, exts := 0, target := [], faults := [],
                    adjusted := if 1 < attempt ∧ last then adjustments s0 n faults else [], waiting := false, late := 0,
                    wanted := 0, failedCells := 0, held := inHeldStretch s n }
  let owner := match (plane s n).home with | some h => (entry s h.1).tenant | none => (plane s n).owner
  let s1 := modPlane n (fun q => { q with st := writingState purpose q.st, owner := owner, next := none, tries := attempt }) s0
  planeSummary (clOf (coreOf e)) (bump (clOf (coreOf e)) 0x600 1 (modEngine e (fun x => { x with prog := some g })
    (journal { plane := BitVec.ofNat 22 n, kind := 0, value := BitVec.ofNat 16 (min 65535 (planeCount s n + 1)), payload := 0 } s1)))

/-- A plane's master copy is marked as one that is not used (R202). -/
def markMaster (n : Nat) (s : State) : State :=
  match look (fun _ => none) s.hw.masters n with
  | none => s
  | some m => { s with hw := { s.hw with masters := put (fun _ => none) s.hw.masters n (some { m with bad := true }) } }

/-- The master copy of a plane does not match its CRC: the plane stays as it was, and the copy is not used again (R202). -/
def masterFault (n : Nat) (s : State) : State :=
  match (plane s n).home with
  | none => s
  | some h => raise { (err 0x31 1 h.2.1 0 0).atPlane n with tenant := BitVec.ofNat 12 h.1 } (markMaster n s)

/-- A held stretch that serves plane `n` serves the plane that its block migrates to (R212, R221). -/
def heldMoves (n m : Nat) (s : State) : State :=
  let f (l : List Nat) : List Nat := l.map fun x => if x = n then m else x
  { s with hw := { s.hw with held := f s.hw.held, stretchPlanes := f s.hw.stretchPlanes } }

/-- Another FREE plane of the engine takes a block from a plane that has reached its rating (R221): a refresh or rewrite migrates; any
other program moves to the new plane, the old one being RETIRED, and so does a migration whose own plane reaches its rating, still in
the place of the plane `old` that it replaces (DEDUCED, log entry 124). -/
def migrate (n m purpose old : Nat) (s : State) : State :=
  let mc := look (fun _ => none) s.hw.masters n
  let s1 := heldMoves n m (modPlane m (fun q => { q with home := (plane s n).home, subst := (plane s n).subst }) s)
  let s2 := { s1 with hw := { s1.hw with masters := put (fun _ => none) s1.hw.masters m mc } }
  if purpose = 1 then beginAttempt m 2 n 1 [] s2
  else if purpose = 2 then
    let s3 := modPlane n (fun q => { q with st := 5, next := none, home := none, tries := 0 }) s2
    beginAttempt m 2 old 1 [] { s3 with hw := { s3.hw with masters := put (fun _ => none) s3.hw.masters n none } }
  else
    let s3 := modPlane n (fun q => { q with st := 5, next := none, tries := 0 }) s2
    beginAttempt m purpose m 1 [] (modPlane m (fun q => { q with moveOf := some n }) s3)

/-- The record of a plane programmed in place beyond its rating (R221). -/
def overRating (n : Nat) (s : State) : State := raise ((err 0x33 0 (planeCount s n) 0 0).atPlane n) s

/-- A program starts on a plane whose count is below its rating, or that nothing can replace; a refresh of one at its rating
migrates to a FREE plane of its engine (R221). The rewrite after a held refresh runs under new maps (R213). -/
def startProgram (n purpose : Nat) (s : State) : State :=
  if purpose = 1 ∧ n % 65 ≠ 64 ∧ 10000 ≤ planeCount s n then
    match pickPlane s (engOf n) with
    | some m => migrate n m 1 n s
    | none => beginAttempt n 1 n 1 [] (overRating n s)
  else if purpose = 1 ∧ !inHeldStretch s n then
    let x := sparesFor s n false (pendingFaults s n)
    beginAttempt n purpose n 1 [] (if rowsSpent s n x.1 then s else selectSpares n x s)
  else beginAttempt n purpose n 1 [] s

/-- The binding that a program writes for has been released or the part is being removed, so the program is abandoned at its
next row boundary (R348, R396). -/
def mustAbandon (s : State) (g : Prog) : Bool :=
  g.plane % 65 != 64 && (s.host.quiesce || (match (plane s g.plane).home with
    | none => true
    | some h => (entry s h.1).st == 5 || (entry s h.1).st == 0))

/-- A program abandoned at a row boundary (R348, Table 2.3). -/
def abandonProgram (e : Nat) (g : Prog) (s : State) : State :=
  let n := g.plane
  let b := ((plane s n).home.map (·.1)).getD 4096
  let gone : Bool := match (plane s n).home with | none => true | some h => (entry s h.1).st == 5 || (entry s h.1).st == 0
  let s1 := modEngine e (fun x => { x with prog := none }) s
  let s2 :=
    if (plane s n).st = 1 then
      modPlane n (fun q => { q with st := 0, owner := 0, home := none, adopting := false, subst := false, tries := 0 }) s1
    else if gone then releasePlane n s1 else s1
  let s3 := if g.purpose = 2 ∧ gone then releasePlane g.old s2 else s2
  checkReleased b s3

/-- The next attempt of a program in progress (R215): one whose plane has reached its rating moves to another plane that can take its
block (R221). -/
def nextAttempt (n : Nat) (g : Prog) (s : State) : State :=
  let e := engOf n
  let spent : Bool := decide (n % 65 ≠ 64 ∧ 10000 ≤ planeCount s n)
  match (if spent then pickPlane s e else none) with
  | some m => migrate n m g.purpose g.old (modEngine e (fun x => { x with prog := none }) s)
  | none => beginAttempt n g.purpose g.old (g.attempt + 1) g.faults (when spent (overRating n) s)

/-- The errors that a read of a master copy met, counted and recorded (R487). -/
def masterErrors (n : Nat) (faults : List UnitFault) (s : State) : State := forAll faults (memFault ((err 0 0 0 0 0).atPlane n)) s

/-- A program of a plane, its master copy read first: a CRC that does not match, or a word that cannot be corrected, leaves the plane as
it was (R201, R202, R487). -/
def withMaster (n : Nat) (faults : List UnitFault) (f : State → State) (s : State) : State :=
  if n % 65 = 64 then f s
  else
    let s1 := masterErrors n faults s
    if !masterGood s n ∨ faults.any (fun u => match u with | .memBad _ _ => true | _ => false) then masterFault n s1 else f s1

/-- PROGRAM_START (R193): the next attempt of a program in progress, or a program that the plane's state calls for, where it is the
plane's turn. -/
def execProgramStart (p : ProgStart) (s : State) : Host.Outcome State Fault Refusal :=
  .next (
    let n := p.plane
    let e := engOf n
    if masterBad s n then s
    else match (engine s e).prog with
    | some g =>
      if !(g.plane == n.val && g.waiting) then s
      else if mustAbandon s g then abandonProgram e g s
      else if engineFree s e ∧ timeToStart s n g.purpose false ∧ underCap s n then withMaster n p.faults (nextAttempt n g) s
      else s
    | none =>
      match purposeOf s n with
      | none => s
      | some purpose =>
        if s.host.quiesce ∨ !engineFree s e ∨ !timeToStart s n purpose true ∨ !underCap s n ∨ !twinsIdle s n then s
        else if !turnTo s n ∧ masterGood s n then s
        else withMaster n p.faults (startProgram n purpose) s)

/-! ### ERASE_COMPLETE -/

/-- The attempt's KIND 0 entry still waits to be written (R510). -/
def startQueued (s : State) (n : Nat) : Bool :=
  s.lar.queue.any fun w => match w.job with | .journal j => j.kind == 0 && j.plane.toNat == n | _ => false

/-- A cell's level within its range. -/
def sensed (c : CellRead) : Nat := min c.level (topLevel c.col)

/-- The sensed cells of a plane written. -/
def putCells (n : Nat) (cs : List CellRead) (q : Plane) : Plane :=
  { q with cells := cs.foldl (fun m c =>
      if c.row < 260 ∧ c.col < 264 then put (cellDefault n q) m (cellKey c.row c.col c.neg) (sensed c) else m) q.cells }

/-- ERASE_COMPLETE (R193): every cell is at level 0 but those that the erase verify reads above it, and row 0 begins. -/
def execEraseComplete (e : Fin 34272) (cells : List CellRead) (s : State) : Host.Outcome State Fault Refusal :=
  .next (
    match (engine s e).prog with
    | none => s
    | some g =>
      if !g.erasing ∨ startQueued s g.plane then s
      else modEngine e (fun x => { x with prog := some { g with erasing := false } })
        (modPlane g.plane (fun q => putCells g.plane cells { q with cells := [], blank := true }) s))

/-! ### ROW_ITERATION (R194, R195, R214, R215) -/

/-- The pairs of a row that a program writes. -/
def rowCols (s : State) (n : Nat) : List Nat := colMap s n ++ [260, 261, 262, 263]

/-- A cell's level differs from its target. -/
def offTarget (s : State) (g : Prog) (row col : Nat) (neg : Bool) : Bool :=
  level g.plane (plane s g.plane) row col neg != targetOf s g row col neg

/-- One sensed cell of the row: a cell at its target is inhibited (R194). -/
def senseCell (g : Prog) (row : Nat) (c : CellRead) (s : State) : State :=
  if c.row = row ∧ (rowCols s g.plane).contains c.col ∧ offTarget s g row c.col c.neg then
    modPlane g.plane (fun q => { q with cells := put (cellDefault g.plane q) q.cells (cellKey row c.col c.neg) (sensed c) }) s
  else s

/-- Cells of a row that are, or are not, at their targets, counted. -/
def cellsOff (s : State) (g : Prog) (row : Nat) : List (Nat × Bool) :=
  (rowCols s g.plane).flatMap fun col => [false, true].filterMap fun neg => if offTarget s g row col neg then some (col, neg) else none

/-- The level of a partner that brings its pair's difference nearest to the weight within lo..hi (R214, R215): `fixed` is the
failed cell's level, `now` the partner's; `neg` says that the partner is the negative cell. -/
def partnerTarget (neg : Bool) (fixed now top : Nat) (w lo hi : Int) : Nat :=
  let diff (t : Nat) : Int := if neg then (fixed : Int) - t else (t : Int) - fixed
  let ok := ((List.range (top + 1)).filter fun t => decide (now ≤ t ∧ lo ≤ diff t ∧ diff t ≤ hi))
  match ok with
  | [] => now
  | t :: ts => ts.foldl (fun a u => if (diff u - w).natAbs < (diff a - w).natAbs then u else a) t

/-- The targets of a pair with a failed cell in its row's extension: the failed cell keeps its level, and its partner makes up
the weight (R214, R215). -/
def repairPair (s : State) (g : Prog) (row col : Nat) (t : SMap (Option Nat)) : SMap (Option Nat) :=
  let q := plane s g.plane
  let want := progPair s g row col
  let w : Int := (want.1 : Int) - want.2
  let a := level g.plane q row col false
  let b := level g.plane q row col true
  let lo : Int := if col = 260 then -128 else -8
  let hi : Int := if col = 260 then 112 else 7
  if offTarget s g row col false then
    put (fun _ => none) (put (fun _ => none) t (cellKey row col false) (some a)) (cellKey row col true)
      (some (partnerTarget true a b (topLevel col) w lo hi))
  else
    put (fun _ => none) (put (fun _ => none) t (cellKey row col true) (some b)) (cellKey row col false)
      (some (partnerTarget false b a (topLevel col) w lo hi))

/-- The pairs of a row in extension: those whose targets were changed. -/
def repairedCols (s : State) (g : Prog) (row : Nat) : List Nat :=
  (rowCols s g.plane).filter fun col =>
    (look (fun _ => none) g.target (cellKey row col false)).isSome || (look (fun _ => none) g.target (cellKey row col true)).isSome

/-- A pair realises the weight intended. -/
def pairRight (s : State) (g : Prog) (row col : Nat) : Bool :=
  let want := progPair s g row col
  cellWeight g.plane (plane s g.plane) row col == (want.1 : Int) - want.2

/-- The end of a row's eight iterations, or of its extension's. -/
def rowEnd (e : Nat) (g : Prog) (row : Nat) (s : State) : State :=
  let next (g : Prog) : Prog := { g with row := g.row + 1, iter := 0, extending := false }
  let set (g : Prog) (s : State) : State := modEngine e (fun x => { x with prog := some g }) s
  let p := clOf (coreOf e)
  if g.extending then
    let cols := repairedCols s g row
    let bad := cols.filter fun c => !pairRight s g row c
    bump p 0x608 (cols.length - bad.length) (set (next { g with
      faults := g.faults ++ (g.rowOff.filter fun x => bad.contains x.1).map fun x => (row, x.1), rowOff := [] }) s)
  else
    let off := cellsOff s g row
    let cols := (off.map (·.1)).dedup
    let g1 := { g with failedCells := g.failedCells + off.length }
    if cols.isEmpty then set (next g1) s
    else if g.exts < 32 then
      bump p 0x60C 1 (set { g1 with iter := 0, extending := true, exts := g.exts + 1, rowOff := off,
                                    target := cols.foldl (fun t c => repairPair s g row c t) g.target } s)
    else set (next { g1 with faults := g.faults ++ off.map fun x => (row, x.1) }) s

/-- One iteration of the row in progress ends (R194): its cells sensed, and cells that reached their target inhibited; those
that did so in iteration 7 or 8 are late (R478). -/
def iterate (e : Nat) (g : Prog) (cells : List CellRead) (s : State) : State :=
  let row := (rowMap s g.plane).getD g.row 0
  let before := cellsOff s g row
  let s1 := forAll cells (senseCell g row) s
  let after := cellsOff s1 g row
  let reached := before.length - after.length
  let g1 := { g with
    iter := g.iter + 1
    late := if !g.extending ∧ 6 ≤ g.iter then g.late + reached else g.late
    wanted := if !g.extending ∧ g.iter = 0 then
        g.wanted + ((rowCols s g.plane).flatMap fun c => [false, true].filter fun b => decide (0 < targetOf s g row c b)).length
      else g.wanted }
  if g1.iter < 8 then modEngine e (fun x => { x with prog := some g1 }) s1
  else rowEnd e g1 row s1

/-- Schedule beats in the next `n` beats: those of a stretch are inserted. -/
def schedBeats (s : State) (n : Nat) : Nat := if inserted s then n - toEnd s else n

/-- A pass that an engine holds runs within the next 10 beats: one held for a stretch runs after its inserted beats (R212). -/
def queueSoon (s : State) (e : Nat) : Bool :=
  let g := engine s e
  g.split.isSome || (!g.queue.isEmpty
    && !(inserted s && decide (10 ≤ toEnd s) && g.queue.all fun q => s.hw.held.contains q.plane || s.hw.held.contains q.prim))

/-- The recipe of the binding on an engine's core schedules a pass for it in the next 10 beats, or its queue has one (R71). -/
def passSoon (s : State) (e : Nat) : Bool :=
  let k := coreOf e
  queueSoon s e ||
  match boundOf s k with
  | none => false
  | some b =>
    match planIndex s b k with
    | none => false
    | some i =>
      let p := planOf s b
      let per := max 1 (plPeriod p)
      let now := s.fab.sched.toNat - (brun s b).since.toNat
      [false, true].any fun w => (recsOf p i w).any fun x =>
        rOp x == 0x11
        && ((brun s b).planes.any fun u => u.pcore == i && engOf u.plane == e && (brun s b).planes.any fun v =>
              !v.shadow && v.block == u.block && v.pcore == i && v.engine == rEngine x && v.tplane == rPlane x)
        && decide ((rBeat x + per - now % per) % per < schedBeats s 10)

/-- A row may start (R196, R197): on a held core with 80 beats of a window left or in the stretch that holds its plane's pass, and
within the cap. -/
def rowMayStart (s : State) (e : Nat) (g : Prog) : Bool :=
  let k := coreOf e
  (freeFor s k 80 || inHeldStretch s g.plane || windowHas s k (progUse g.purpose) 80) && underCap s g.plane && !(core s k).kat.running

/-- ROW_ITERATION (R71, R194): no iteration starts with a pass of its engine in the next 10 beats. Between rows a program waits where
it may not run, and is abandoned where its binding is going; one that a held stretch continues is that stretch's refresh (R212). -/
def execRowIteration (e : Fin 34272) (cells : List CellRead) (s : State) : Host.Outcome State Fault Refusal :=
  .next (
    match (engine s e).prog with
    | none => s
    | some g =>
      if g.erasing ∨ g.waiting ∨ 256 ≤ g.row then s
      else if g.iter = 0 ∧ !g.extending then
        (if mustAbandon s g then abandonProgram e g s
         else if rowMayStart s e g ∧ !passSoon s e then iterate e { g with held := g.held || inHeldStretch s g.plane } cells s else s)
      else if passSoon s e then s
      else iterate e g cells s)

/-! ### PROGRAM_ATTEMPT_END (R198, R213, R215 to R219) -/

/-- Cell map entries of a plane at the pairs given (R219): those whose realised weight differs from the master's. -/
def cellEntries (s : State) (n : Nat) (pairs : List (Nat × Nat)) (cause : Nat × Nat → Nat) : List CellEntry :=
  match (plane s n).home with
  | none => []
  | some h =>
    let rows := rowMap s n
    let cols := colMap s n
    let w := planeWeight s n
    pairs.filterMap fun x =>
      let i := rows.idxOf x.1
      let j := cols.idxOf x.2
      let real := cellWeight n (plane s n) x.1 x.2
      if rows.length ≤ i ∨ cols.length ≤ j ∨ real = w i j then none
      else some { plane := n, layer := BitVec.ofNat 16 h.2.2.1, intended := toWord 8 (w i j), realised := toWord 8 real,
                  channel := BitVec.ofNat 32 (256 * h.2.2.2.1 + i), output := BitVec.ofNat 32 (256 * h.2.2.2.2 + j),
                  cause := BitVec.ofNat 8 (cause x) }

/-- A plane's cell map entries replaced, as far as the area holds them (R219); how many were added. -/
def putCellMap (n : Nat) (es : List CellEntry) (s : State) : Nat × State :=
  match (plane s n).home with
  | none => (0, s)
  | some h =>
    let old := (brun s h.1).cellMap
    let keep := old.filter (·.plane != n)
    let used := s.hw.cellUsed - (old.length - keep.length)
    let new := es.take (4194304 - used)
    let s1 := modBrun h.1 (fun r => { r with cellMap := keep ++ new, cellFull := r.cellFull || decide (new.length < es.length) }) s
    (new.length, { s1 with hw := { s1.hw with cellUsed := used + new.length } })

/-- The cell map of a completed program, with the record of R219. -/
def recordCells (n : Nat) (es : List CellEntry) (s : State) : State :=
  let r := putCellMap n es s
  if r.1 = 0 then r.2
  else
    let b := ((plane s n).home.map (·.1)).getD 4096
    raise { (err 0x32 0 r.1 (bit (brun r.2 b).cellFull) 0).atPlane n with tenant := BitVec.ofNat 12 b } r.2

/-- The late fraction of an attempt joins its engine's, and above 2 % makes a re-plan due (R478, R480). -/
def noteLate (e : Nat) (g : Prog) (s : State) : State :=
  if g.wanted = 0 then s
  else
    let s1 := modEngine e (fun x => { x with lateMax := lateWorst x.lateMax (g.late, g.wanted) }) s
    if lateHigh (g.late, g.wanted) then modCluster (clOf (coreOf e)) (fun c => { c with pow := { c.pow with due := true } }) s1 else s1

/-- The completion record of a plane (R198, R510). -/
def completionRecord (n : Nat) (s : State) : State :=
  match (plane s n).home, look (fun _ => none) s.hw.masters n with
  | some h, some m =>
    journal { plane := BitVec.ofNat 22 n, kind := 1, value := BitVec.ofNat 16 ((slotOf s (entry s h.1).tenant).getD 0),
              payload := BitVec.ofNat 64 (m.crc.toNat + h.2.1 * 2 ^ 32) } s
  | _, _ => s

/-- A plane whose program has completed (R97, R112, R193): residuals as realised, D_p 1.0, READY now or at the window end
(R61). -/
def readyPlane (s : State) (n : Nat) (q : Plane) : Plane :=
  let q1 := { clearDrift q with dp := 0x3C00, oldDp := none, resid := residuals s n, tries := 0, subst := false }
  if q.st = 6 then q1
  else if q.st = 1 ∨ unheld s (coreOf (engOf n)) then { q1 with st := 2, next := none }
  else { q1 with next := some 2 }

/-- The master copy of a plane's residuals (R112). -/
def keepResiduals (n : Nat) (s : State) : State :=
  match look (fun _ => none) s.hw.masters n with
  | none => s
  | some m => { s with hw := { s.hw with masters := put (fun _ => none) s.hw.masters n (some { m with resid := (plane s n).resid }) } }

/-- On a core that no binding holds, the summary registers follow a transition at once (R61; DEDUCED, log entry 125). -/
def noteUnheld (e : Nat) (s : State) : State := when (unheld s (coreOf e)) (planeSummary (clOf (coreOf e))) s

/-- A program completes (R193, R198, R213, R219, R221); a migration's plane map moves as replacePlane's does (log entry 152). -/
def completeProgram (e : Nat) (g : Prog) (s : State) : State :=
  let n := g.plane
  let p := clOf (coreOf e)
  let pairs := (g.faults ++ g.adjusted.map fun x => (x.1, x.2.1)).dedup
  let cause (x : Nat × Nat) : Nat := if g.faults.contains x then (if g.held then 2 else 0) else 1
  let s1 := noteUnheld e (keepResiduals n (tickFresh (modPlane n (readyPlane s n) (modEngine e (fun x => { x with prog := none }) s))))
  let s2 := bump p 0x614 g.adjusted.length s1
  if n % 65 = 64 then calDue p s2
  else
    let s3 := bump p 0x604 1 (completionRecord n (recordCells n (cellEntries s n pairs cause) s2))
    let s4 := when (g.purpose == 1 || g.purpose == 2) (bump p 0x618 1) s3
    let s5 := if g.purpose = 2 then
        (let s6 := modPlane n (fun q => { q with moveOf := some g.old }) s4
         if unheld s (coreOf e) then settlePlane n s6 else s6)
      else s4
    match (plane s n).home with
    | some h => checkResident h.1 s5
    | none => s5

/-- A block whose plane retired takes another FREE plane of its engine; a load that has none left is refused (R205). The plane map
moves at once on a core that no binding holds (DEDUCED, log entry 152), else at the window end (R203). -/
def replacePlane (n : Nat) (s : State) : State :=
  match (plane s n).home with
  | none => s
  | some h =>
    match pickPlane s (engOf n) with
    | some k =>
      let s1 := modPlane k (fun q => { q with home := some h, subst := (plane s n).subst, moveOf := some n })
        { s with hw := { s.hw with masters := put (fun _ => none) s.hw.masters k (look (fun _ => none) s.hw.masters n) } }
      if unheld s (coreOf (engOf n)) then settlePlane k s1 else s1
    | none =>
      let s1 := modPlane n (fun q => { q with home := none }) { s with hw := { s.hw with masters := put (fun _ => none) s.hw.masters n none } }
      if (entry s1 h.1).st = 1 then
        startRelease h.1 (modBrun h.1 (fun r => { r with loadCmd := none }) (refuse (brun s1 h.1).loadCmd (some h.1) (0x31, 1 + 2 ^ 24) s1))
      else s1

/-- A plane that needs a fifth spare row goes to RETIRED (R84, R215). -/
def retirePlane (e : Nat) (g : Prog) (s : State) : State :=
  let n := g.plane
  let s1 := modEngine e (fun x => { x with prog := none }) s
  if g.purpose = 3 then
    replacePlane n (modPlane n (fun q => if unheld s (coreOf e) then { q with st := 5, next := none, tries := 0 }
      else { q with next := some 5, tries := 0 }) s1)
  else if (plane s n).st = 1 then
    (let s2 := modPlane n (fun q => { q with st := 5, next := none, tries := 0 }) s1
     if g.purpose = 2 then
       modPlane n (fun q => { q with home := none })
         { s2 with hw := { s2.hw with masters := put (fun _ => none) s2.hw.masters n none } }
     else replacePlane n s2)
  else if unheld s (coreOf e) then modPlane n (fun q => { q with st := 5, next := none, tries := 0 }) s1
  else modPlane n (fun q => { q with next := some 5, tries := 0 }) s1

/-- An attempt reaches its end (R83, R215): spares are chosen for a further attempt, the plane retires, or the program completes. A
refresh in a held stretch changes no map (R213); plane 64 never leaves TEST (R60). -/
def attemptEnd (e : Nat) (g : Prog) (s : State) : State :=
  let n := g.plane
  let s1 := noteLate e g s
  if g.held ∨ inHeldStretch s n then completeProgram e { g with held := g.held || inHeldStretch s n } s1
  else
    let x := sparesFor s n true g.faults
    if rowsSpent s n x.1 then (if n % 65 = 64 then completeProgram e g s1 else noteUnheld e (retirePlane e g s1))
    else if (x.1 ++ x.2).isEmpty ∨ 3 ≤ g.attempt then completeProgram e g s1
    else modEngine e (fun y => { y with prog := some { g with waiting := true } }) (selectSpares n x s1)

/-- PROGRAM_ATTEMPT_END (R215). -/
def execProgramAttemptEnd (e : Fin 34272) (s : State) : Host.Outcome State Fault Refusal :=
  .next (
    match (engine s e).prog with
    | none => s
    | some g =>
      if g.erasing ∨ g.waiting ∨ g.row < 256 then s
      else if mustAbandon s g then abandonProgram e g s
      else attemptEnd e g s)

/-! ### ADOPTION_COMPLETE (R209) -/

/-- The level that the verify read finds in a cell: as listed, else as the block's nominal mapping has it. -/
def verified (s : State) (n : Nat) (cells : List CellRead) (row col : Nat) (neg : Bool) : Nat :=
  match cells.find? fun c => c.row == row && c.col == col && c.neg == neg with
  | some c => sensed c
  | none =>
    let p := wantPair (planeWeight s n) (rowMap s n) (colMap s n) [] row col
    if neg then p.2 else p.1

/-- A plane's cells as the verify read finds them. -/
def verifyPlane (s : State) (n : Nat) (cells : List CellRead) (q : Plane) : Plane :=
  { q with cells := (rowMap s n).foldl (fun m row => (rowCols s n).foldl (fun m col => [false, true].foldl (fun m neg =>
      let v := verified s n cells row col neg
      if look (cellDefault n q) m (cellKey row col neg) = v then m else put (cellDefault n q) m (cellKey row col neg) v) m) m) q.cells }

/-- Every selected pair of a plane. -/
def allPairs (s : State) (n : Nat) : List (Nat × Nat) := (rowMap s n).flatMap fun r => (colMap s n).map fun c => (r, c)

/-- An adoption ends (R209): residuals from the realised weights, the cell map rebuilt (R219; the cause of a rebuilt entry is not
stated: each gets 0, DESIGN CHOICE, log entry 154), and the evaluation of R95 from D_p = 1.0, whose mark counts (R120). -/
def adopt (n : Nat) (d : AdoptData) (s : State) : State :=
  let p := clOf (coreOf (engOf n))
  let s1 := modPlane n (verifyPlane s n d.cells) s
  let q0 : Plane := { plane s1 n with dp := 0x3C00, n := 64, m := d.m, x := d.x, z := d.z, a := d.a }
  let s2 := keepResiduals n (tickFresh (modPlane n (fun _ => { drifted s1 q0 with adopting := false, resid := residuals s1 n }) s1))
  let s3 := (putCellMap n (cellEntries s1 n (allPairs s1 n) fun _ => 0) s2).2
  let s4 := bump p 0x638 1 (driftSummary (bit (evalDrift q0).isNone) p s3)
  match (plane s n).home with
  | some h => checkResident h.1 s4
  | none => s4

/-- ADOPTION_COMPLETE (R209), under the timing rules of R196. -/
def execAdoptionComplete (n : Fin 2227680) (d : AdoptData) (s : State) : Host.Outcome State Fault Refusal :=
  .next (
    let q := plane s n
    let k := coreOf (engOf n)
    if !q.adopting ∨ q.home.isNone ∨ q.st ≠ 2 then s
    else if freeFor s k 0 ∨ windowOpen s k 0 0 ∨ windowOpen s k 1 0 then adopt n d s
    else s)

end Sys2Proof.Machine
end

