-- ==== Sys2Proof/Machine/KatOps.lean ====
section
/-! DEFINITION. Known-answer tests (R488 to R493, R506): TEST_DUE, TEST_FORCE, KAT_START and KAT_COMPLETE; and the phases of start-up, the
last of which they test (R426, R428). -/

namespace Sys2Proof.Machine

/-- A core that takes tests: usable, in service, of an enabled cluster, from phase 5 on. -/
def tested (s : State) (k : Nat) : Bool :=
  decide (5 ≤ s.su.phase.toNat) && enabledCl s (clOf k) && (liveCores s (clOf k)).contains k

/-- TEST_DUE (R490): TEST_INTERVAL has passed since the core's last completed test. -/
def execTestDue (k : Fin 2016) (s : State) : Host.Outcome State Fault Refusal :=
  .next (
    let q := (core s k).kat
    if !tested s k ∨ q.due.isSome ∨ s.fab.beat.toNat < q.lastDone.toNat + Config.testInterval then s
    else katDueAt k (q.lastDone + BitVec.ofNat 64 Config.testInterval) s)

/-- A test has been due for 60 s without starting (R491), or is treated so (R493). -/
def overdue (s : State) (k : Nat) : Bool :=
  match (core s k).kat.due with
  | some d => !(core s k).kat.running && ((core s k).kat.late || decide (d.toNat + 58593750 ≤ s.fab.beat.toNat))
  | none => false

/-- Schedule beat Λ from now is a step boundary of the binding that holds the core (R491). -/
def beforeBoundary (s : State) (b : Nat) : Bool :=
  decide ((s.fab.sched.toNat + s.fab.lead.toNat - (brun s b).since.toNat) % max 1 (plPeriod (planOf s b)) = 0)

/-- The core's forcing request is outstanding. -/
def forcedAsk (s : State) (k : Nat) : Bool := s.fab.own.any fun x => x.core == k && x.len == 50

/-- TEST_FORCE (R491): the core asks for 50 beats at its next step boundary. -/
def execTestForce (k : Fin 2016) (s : State) : Host.Outcome State Fault Refusal :=
  .next (
    match boundOf s k with
    | none => s
    | some b =>
      if !tested s k ∨ !overdue s k ∨ !beforeBoundary s b ∨ forcedAsk s k ∨ inserted s then s
      else
        let first := !(core s k).kat.forced
        when first (bump (clOf k) 0xB10 1)
          (requestStretch k 50 (modCore k (fun q => { q with kat := { q.kat with forced := true } }) s)))

/-- An overdue record of the core asks for a stretch of its own (R321, R491). -/
def overdueRecord (s : State) (k : Nat) : Bool := s.fab.own.any fun x => x.core == k && x.len != 50

/-- A core whose test is due may start it now (R490, R491): unheld with nothing running on its engines; or held, in a window
that permits tests with 48 beats left, or two beats into its own forced stretch. -/
def katMayStart (s : State) (k : Nat) : Bool :=
  let es := (List.range 17).map (17 * k + ·)
  tested s k && (core s k).kat.due.isSome && !(core s k).kat.running
  && es.all (fun e => (engine s e).cal.isNone && !progActive (engine s e))
  && (if unheld s k then freeFor s k 48 && es.all fun e => (engine s e).prog.isNone
      else windowHas s k 3 48
        || ((core s k).kat.forced && inserted s && !overdueRecord s k
            && decide (48 ≤ toEnd s)
            && (match s.fab.grant with | some g => decide (g.x0.toNat + 2 ≤ s.fab.beat.toNat) | none => false)))

/-- Due tests are taken in ascending order of the moment they fell due, ties to the lower core (R490). -/
def katFirst (s : State) (k : Nat) : Bool :=
  let key (j : Nat) : Nat := ((core s j).kat.due.getD 0).toNat * 4096 + j
  (s.hw.cores.map (·.1)).all fun j => j == k || !katMayStart s j || decide (key k ≤ key j)

/-- KAT_START (R488): the core's engine, attention and path tests run. -/
def execKatStart (k : Fin 2016) (s : State) : Host.Outcome State Fault Refusal :=
  .next (if katMayStart s k ∧ katFirst s k then modCore k (fun q => { q with kat := { q.kat with running := true } }) s else s)

/-- TEST_FAIL (R492): the unit, its failing columns or results, and the seconds of the core's last clean test. -/
def testFail (k unit n : Nat) (engine : Option Nat) (hard : Bool) (s : State) : State :=
  let r := err 0x40 (if hard then 2 else 0) unit n ((core s k).kat.cleanTime.toNat / 32768 % 2 ^ 32)
  raise (match engine with | some i => r.atEngine (17 * k + i) | none => r.atCore k) s

/-- One failed part: its record, and after a failed rerun what R492 does. -/
def partFailed (k unit n : Nat) (engine : Option Nat) (hard : Bool) (s : State) : State :=
  let s1 := testFail k unit n engine hard s
  if !hard then s1
  else match engine with
    | some i => failEngine (17 * k + i) s1
    | none => failCore k 2 s1

/-- The engines of a core that a test covers: in use or spare, and not failed. -/
def testEngines (s : State) (k : Nat) : List Nat :=
  (List.range 17).filter fun i =>
    !(engine s (17 * k + i)).failed && !look (fun _ => false) s.lar.repair.engBad (17 * k + i)

/-- The cluster's oldest last clean test (Table 17.5). -/
def oldestClean (s : State) (p : Nat) : W64 :=
  match (liveCores s p).map fun k => (core s k).kat.cleanBeat with
  | [] => 0
  | b :: t => t.foldl (fun a x => if x.toNat < a.toNat then x else a) b

/-- The four passes of a vector at r = 7, corrected (R91, R488), each with its own free random part from `at_` on (log entry 12): plane 64's
trim is 1.0. -/
def katVals (s : State) (e at_ : Nat) (v : KatVec) : List (List W32) :=
  let g := engine s e
  (List.range 4).map fun i =>
    let cs := testPass { s with fresh := s.fresh + at_ + i } e v.xs v.ks 7
    (shotCols s (65 * e + 64)).map fun col => (correct (g.oTab, g.gTab) 0x3C00 col 7 (cs.getD col (0, false)).1).1

/-- A compare of R113 on a pass of a vector is not clean. -/
def katMiss (s : State) (e : Nat) (v : KatVec) (vals : List W32) : Bool :=
  let r := compares (engine s e) (plane s (65 * e + 64)) 7 vals v.xs v.ks
  r.csMiss || r.inMiss

/-- A logical column of one vector fails (R489): the mean of its four corrected results lies outside 2.05 × Q + 0.1 × A of the stored ideal
sum, or one of them is not finite. -/
def columnFails (a64 : Nat) (ideal64 : Int) (ws : List W32) : Bool :=
  let sum := ws.foldl (fun d w => dyAdd d (fv w)) (dyInt 0)
  !ws.all fin32 || !dyLe (dyAbs (dyAdd (dyMul (dyInt 160) sum) (dyInt (-10 * ideal64)))) (dyInt (167936 + a64))

/-- The logical columns that a vector's results fail. -/
def vecFails (v : KatVec) (vals : List (List W32)) : List Nat :=
  (List.range 256).filter fun j => columnFails (drive64 v.xs v.ks) (v.ideal.getD j 0) (vals.map (·.getD j 0))

/-- An engine's test fails (R489): its failing columns, and whether a compare was not clean. -/
def engineTest (s : State) (e at_ : Nat) (vs : List KatVec) : Bool × List Nat :=
  let all := vs.zipIdx.map fun v => (v.1, katVals s e (at_ + 4 * v.2) v.1)
  (all.any fun x => x.2.any (katMiss s e x.1), (all.flatMap fun x => vecFails x.1 x.2).dedup)

/-- The engines of a core whose tests fail in one run: physical engine within the core, and its failing columns. The run's passes have
their random parts from `at_` on, 256 to an engine. -/
def failedEngines (s : State) (k at_ : Nat) (vs : List KatVec) : List (Nat × List Nat) :=
  (testEngines s k).filterMap fun i =>
    let t := engineTest s (17 * k + i) (at_ + 256 * i) vs
    if t.1 || !t.2.isEmpty then some (i, t.2) else none

/-- Attention or path results that do not equal their stored answers (R489). -/
def unequal (l : List (W32 × W32)) : Nat := (l.filter fun x => x.1 != x.2).length

/-- The columns that a failed engine's test found faulty are candidates for sparing (R83), by physical column. -/
def noteCols (e : Nat) (cols : List Nat) (s : State) : State :=
  let phys := cols.map fun j => (colMap s (65 * e + 64)).getD j 0
  modEngine e (fun g => { g with spareCols := (g.spareCols ++ phys).dedup }) s

/-- One engine whose test failed: its rerun passed, or fails with these columns (R492). -/
def engineResult (k : Nat) (again : List (Nat × List Nat)) (x : Nat × List Nat) (s : State) : State :=
  match again.find? fun y => y.1 == x.1 with
  | some y => partFailed k 0 y.2.length (some x.1) true (noteCols (17 * k + x.1) y.2 s)
  | none => partFailed k 0 x.2.length (some x.1) false s

/-- What a test leads to (R489, R490, R492): failed parts are recorded, a failed rerun substitutes an engine or fails the core, and a
completed test sets when the next falls due. `e1`, `a1` and `p1` are what the engines, the attention test and the path test failed at the
first run, and `e2`, `a2` and `p2` what the rerun of the failed parts did. -/
def katOutcome (k : Nat) (e1 e2 : List (Nat × List Nat)) (a1 p1 a2 p2 : Nat) (s : State) : State :=
  let p := clOf k
  -- a test has three parts (R488)
  let fails := bit !e1.isEmpty + bit !e2.isEmpty + bit (a1 != 0) + bit (p1 != 0) + bit (a2 != 0) + bit (p2 != 0)
  let clean := e1.isEmpty && a1 == 0 && p1 == 0
  let done := e2.isEmpty && a2 == 0 && p2 == 0
  let s1 := bump p 0xB04 fails (modCore k (fun q => { q with kat := { q.kat with
    running := false,
    due := if done then none else q.kat.due,
    forced := if done then false else q.kat.forced,
    late := if done then false else q.kat.late,
    lastDone := if done then s.fab.beat else q.kat.lastDone,
    cleanBeat := if clean then s.fab.beat else q.kat.cleanBeat,
    cleanTime := if clean then s.lar.calendar else q.kat.cleanTime } }) s)
  let s2 := when done (bump p 0xB00 1) s1
  let s3 := dueCores p (setWin p 0xB08 (oldestClean s2 p) s2)
  let s4 := forAll e1 (engineResult k e2) s3
  let s5 := if a1 = 0 then s4 else partFailed k 1 (if a2 = 0 then a1 else a2) none (a2 != 0) s4
  if p1 = 0 then s5 else partFailed k 2 (if p2 = 0 then p1 else p2) none (p2 != 0) s5

/-- The test of a core ends (R488, R492): its engines' two runs on plane 64, and the results of its attention and path tests. Only a part that
failed is rerun. -/
def katEnd (k : Nat) (r : KatResult) (s : State) : State :=
  let e1 := failedEngines s k 0 r.vecs
  let e2 := (failedEngines s k 4352 r.vecs).filter fun y => e1.any fun x => x.1 == y.1
  let a1 := unequal r.att1
  let p1 := unequal r.path1
  katOutcome k e1 e2 a1 p1 (if a1 = 0 then 0 else unequal r.att2) (if p1 = 0 then 0 else unequal r.path2)
    { s with fresh := s.fresh + 8704 }

/-- KAT_COMPLETE. -/
def execKatComplete (k : Fin 2016) (r : KatResult) (s : State) : Host.Outcome State Fault Refusal :=
  .next (if (core s k).kat.running then katEnd k r s else s)

/-! ### Start-up's tests and its phases -/

/-- Phase 5's tests judged (R428, R492): a failed engine is substituted, and a core that cannot be repaired is marked failed in service. -/
def judgeTests (f : PhaseFacts) (s : State) : State :=
  forAll f.tests (fun x s => if tested s x.1.val then katEnd x.1.val x.2 s else s) (recordFailures f.failures s)

/-- The array calibration of phase 5 is not complete on an enabled cluster: a run is in progress, or an engine has been substituted since
(R447, R455). -/
def calOpen (s : State) (p : Nat) : Bool := enabledCl s p && ((cluster s p).cal.running || (cluster s p).cal.due)

/-- Phase 5 ends (R426, R428) once its tests are judged and every enabled cluster is calibrated; a spare engine is calibrated in the place
of the one that failed (R455). -/
def endTest (f : PhaseFacts) (s : State) : State :=
  let s1 := judgeTests f s
  let wait := (List.range 112).filter (calOpen s1)
  if wait.isEmpty then enterReady (startSummaries s1)
  else forAll wait (fun p s => if (cluster s p).cal.running then s else startCalRun p s) s1

/-- The self-calibration command of phase 3, to all 14 converters at once (R441): STATE 1 until the phase ends (Table 15.3). -/
def startSelfCal (s : State) : State := forAll (List.range 14) (fun m s => setConv s m { conv s m with st := 1 }) s

/-- STARTUP_PHASE_END (R426): the phase in progress completes and the next begins. -/
def phaseEnd (f : PhaseFacts) (s : State) : State :=
  let s1 := { s with su := { s.su with elapsed := s.su.elapsed + f.micros.toNat } }
  let k := s.su.phase.toNat
  if !s.pow.railsUp ∨ s.su.phase0Done then s
  else if k = 0 then
    let s2 := { s1 with fab := { s1.fab with locked := true } }
    if s.pow.flashFree then { s2 with su := { s2.su with phase0Done := true } } else enterImage s2
  else if k = 1 then endImage f s1
  else if k = 2 then startSelfCal (enterPhase 3 (endLarder f s1))
  else if k = 3 then enterPhase 4 (endClocks f s1)
  else if k = 4 then enterPhase 5 (endMemory f s1)
  else if k = 5 then endTest f s1
  else s

/-- STARTUP_PHASE_END (R426). -/
def execStartupPhaseEnd (f : PhaseFacts) (s : State) : Host.Outcome State Fault Refusal := .next (phaseEnd f s)

end Sys2Proof.Machine
end

