-- ==== Sys2Proof/Machine/Mgmt.lean ====
section
/-! DEFINITION. The management port and the SPDM responder: MCTP commands (R500, R503, R515, R520), the I3C address, and the
SPDM requests of R436 and R437. Response codes of SPDM are the published standard's (log entry 29). -/

namespace Sys2Proof.Machine

/-- An MCTP message received on the management port (Table 19.3). -/
def mctp (s : State) : State := { s with ident := { s.ident with mctpMessages := s.ident.mctpMessages + 1 } }

/-- A response to a management command. -/
def answer (code : Byte) (status : Byte) (ws : List W32) (rs : List ErrRec) (s : State) : State :=
  emit (.mgmt code status ws rs) s

/-- The request's range check (log entry 30): a request out of range is answered with status 3 and nothing else. -/
def ranged (code : Byte) (ok : Bool) (f : State → State) (s : State) : State :=
  if ok then f (mctp s) else answer code 3 [] [] (mctp s)

/-- The records GET_RECORDS returns: the oldest not yet returned, at most `n`, marked returned. -/
def takeRecords : Nat → List MgmtRec → List ErrRec × List MgmtRec
  | 0, q => ([], q)
  | _, [] => ([], [])
  | n + 1, r :: t =>
    if r.returned then (let x := takeRecords (n + 1) t; (x.1, r :: x.2))
    else (let x := takeRecords n t; (r.er :: x.1, { r with returned := true } :: x.2))

/-- LOSS set in the first of the records delivered (R498). -/
def markLoss (loss : Bool) : List ErrRec → List ErrRec
  | [] => []
  | r :: t => { r with loss := loss } :: t

/-- GET_RECORDS (R500). -/
def execGetRecords (n : Byte) (s : State) : Host.Outcome State Fault Refusal :=
  .next (ranged 1 (1 ≤ n.toNat && n.toNat ≤ 8) (fun s =>
    let x := takeRecords n.toNat s.err.mgmtQ
    answer 1 0 [] (markLoss s.err.mgmtLoss x.1)
      { s with err := { s.err with mgmtQ := x.2, mgmtLoss := s.err.mgmtLoss && x.1.isEmpty } }) s)

/-- ACK_RECORDS (R500): every returned record whose SEQ the serial-number comparison covers leaves the queue. -/
def execAckRecords (seq : W32) (s : State) : Host.Outcome State Fault Refusal :=
  .next (answer 2 0 [] []
    (let t := mctp s
     { t with err := { t.err with mgmtQ := t.err.mgmtQ.filter fun r =>
         !(r.returned && decide ((seq - r.er.seq).toNat < 2 ^ 31)) } }))

/-- GET_CPER (R503). -/
def execGetCper (slot : Byte) (s : State) : Host.Outcome State Fault Refusal :=
  .next (ranged 3 (slot.toNat < 16) (fun s =>
    emit (.mgmtCper slot.toNat (look (fun _ => none) s.err.slots slot.toNat)) s) s)

/-- GET_COUNTS (R500): the words at 0x0008_001C to 0x0008_0040. -/
def execGetCounts (s : State) : Host.Outcome State Fault Refusal :=
  .next (answer 4 0 ((List.range 10).map fun i => regWord s (0x8001C + 4 * i)) [] (mctp s))

/-- The counter record's 512 bytes (Table 18.3). -/
def counterBytes (r : CounterRec) : List Byte :=
  let b := leBytes 40 (packBits [(r.version.toNat, 32), (r.powerOn.toNat, 64), (r.calendar.toNat, 64), (r.boots.toNat, 32),
      (r.floor.toNat, 32), (r.trips.toNat, 16), (r.fwShut.toNat, 16), (r.replans.toNat, 32), (r.folds.toNat, 32)])
    ++ ((List.range 16).flatMap fun i => leBytes 8 (look (fun _ => (0 : W64)) r.histo i).toNat) ++ List.replicate 340 0
  b ++ leBytes 4 (crc32 b).toNat

/-- Bytes as words. -/
def bytesWords (bs : List Byte) : List W32 := (List.range (bs.length / 4)).map fun i => w32At bs (4 * i)

/-- GET_LARDER (R520): the counter record. -/
def execGetLarder (s : State) : Host.Outcome State Fault Refusal :=
  .next (answer 0x10 0 (bytesWords (counterBytes s.lar.flash)) [] (mctp s))

/-- GET_EVENTS (R520): event entries back from the newest. -/
def execGetEvents (idx : W16) (count : Byte) (s : State) : Host.Outcome State Fault Refusal :=
  .next (ranged 0x11 (1 ≤ count.toNat && count.toNat ≤ 8) (fun s =>
    emit (.mgmtEvents ((s.lar.events.reverse.drop idx.toNat).take count.toNat)) s) s)

/-- GET_AGEING (R520): ageing entries back from the newest. -/
def execGetAgeing (idx : W16) (count : Byte) (s : State) : Host.Outcome State Fault Refusal :=
  .next (ranged 0x12 (1 ≤ count.toNat && count.toNat ≤ 8) (fun s =>
    emit (.mgmtAges ((s.lar.ages.reverse.drop idx.toNat).take count.toNat)) s) s)

/-- A plane word (R508). -/
def planeWord (r : PlaneRec) : Nat := packBits [(r.count.toNat, 16), (bit r.resident, 1), (r.slot.toNat, 12)]

/-- GET_PLANES (R520): plane words. -/
def execGetPlanes (first : W32) (count : Byte) (s : State) : Host.Outcome State Fault Refusal :=
  .next (ranged 0x13 (1 ≤ count.toNat && count.toNat ≤ 64 && first.toNat + count.toNat ≤ 2227680) (fun s =>
    answer 0x13 0 ((List.range count.toNat).map fun i =>
      BitVec.ofNat 32 (planeWord (look (fun _ => ({} : PlaneRec)) s.lar.planes (first.toNat + i)))) [] s) s)

/-- SET_CALENDAR (R515): as CALENDAR_SET. -/
def execSetCalendar (secs : W64) (frac : W32) (s : State) : Host.Outcome State Fault Refusal :=
  .next (ranged 0x14 (secs.toNat < 2 ^ 49 && frac.toNat < 2 ^ 15) (fun s =>
    answer 0x14 0 [] [] (acceptCalendar (BitVec.ofNat 64 (secs.toNat * 2 ^ 15 + frac.toNat)) s)) s)

/-- I3C_ADDRESS_ASSIGN (R500): from phase 4 on (Table 19.8). -/
def execI3cAddressAssign (addr : BitVec 7) (s : State) : Host.Outcome State Fault Refusal :=
  .next (if s.su.phase.toNat < 4 then s
         else { s with ident := { s.ident with i3cAddr := addr, addrValid := true } })

/-! ### SPDM (R436, R437) -/

/-- A request counted where it came over MCTP. -/
def spdmIn (p : SpdmPort) (s : State) : State := if p = .mctp then mctp s else s

/-- An SPDM ERROR response with its code. -/
def spdmErr (p : SpdmPort) (code : Nat) (s : State) : State := emit (.spdm p 0x7F [BitVec.ofNat 32 code] [] []) s

/-- One of the three requests that the part answers in every phase; DOE answers busy before phase 2 (R429, R436). -/
def spdmOpen (p : SpdmPort) (f : State → State) (s : State) : State :=
  if p = .doe ∧ s.su.phase.toNat < 2 then spdmErr p 3 s else f (spdmIn p s)

/-- Phase 4 has completed. -/
def phase4Done (s : State) : Bool := s.su.phase == 5 || s.su.phase == 6 || s.su.phase == 7

/-- Any other request: no answer before phase 4 completes (R436); unexpected before the algorithms are negotiated. -/
def spdmRest (p : SpdmPort) (f : State → State) (s : State) : State :=
  if p = .doe ∧ s.su.phase.toNat < 2 then spdmErr p 3 s
  else if !phase4Done s then spdmIn p s
  else if !s.su.negotiated.contains p then spdmErr p 4 (spdmIn p s)
  else f (spdmIn p s)

/-- The certificate chain of slot 0 (R435): the identity certificate and this start's alias certificate. -/
def certChain (s : State) : List Byte :=
  Config.identityCert ++ (match s.su.aliasKey with | some k => Config.aliasCert k.digest k.version k.debug k.start | none => [])

/-- The digest of the certificate chain. -/
def chainDigest (s : State) : Nat := (Config.sha512 (certChain s)).toNat

/-- The raw words of a measurement (Table 14.8), or its digest. -/
def measure (s : State) (i : Nat) : List W32 × List Nat :=
  let d (f : Measured → BitVec 512) : List W32 × List Nat := ([], (s.su.measured.toList.map fun m => (f m).toNat))
  if i = 1 then ([], [(Config.sha512 Config.romCode).toNat])
  else if i = 2 then d (·.image)
  else if i = 3 then d (·.control)
  else if i = 4 then d (·.mgmt)
  else if i = 5 then ([BitVec.ofNat 32 (bit s.su.slotB + 2 * bit s.ident.debug), s.su.secVersion], [])
  else if i = 6 then ([s.su.floorAtStart], [])
  else d (·.settings)

/-- A signed response. -/
def signedResp (p : SpdmPort) (code : Byte) (ws : List W32) (ds : List Nat) (s : State) : State :=
  emit (.spdm p code ws (ds ++ [Config.signature s.fresh]) []) (tickFresh s)

/-- GET_VERSION: SPDM 1.2; a new negotiation begins. -/
def execGetVersion (p : SpdmPort) (s : State) : Host.Outcome State Fault Refusal :=
  .next (spdmOpen p (fun s =>
    emit (.spdm p 0x04 [0x12] [] []) { s with su := { s.su with negotiated := s.su.negotiated.filter (· != p) } }) s)

/-- The capability flags of the responder (R436): certificates, CHALLENGE, signed measurements, encryption, message authentication and
KEY_EXCHANGE; no pre-shared keys, mutual authentication, encapsulated requests or heartbeats (PRESUMED, log entry 29). -/
def capabilityFlags : W32 := 0x2D6

/-- GET_CAPABILITIES. -/
def execGetCapabilities (p : SpdmPort) (s : State) : Host.Outcome State Fault Refusal :=
  .next (spdmOpen p (emit (.spdm p 0x61 [0x12, capabilityFlags] [] [])) s)

/-- What is taken of a set offered: the one algorithm that the part supports, or none. -/
def pick {w : Nat} (offered own : BitVec w) : W32 := (offered &&& own).setWidth 32

/-- NEGOTIATE_ALGORITHMS: ECDSA P-521, SHA-512 twice, secp521r1 and AES-256-GCM, and no other; a set that lacks the part's algorithm
leaves the port without negotiated algorithms (PRESUMED, log entry 29). -/
def execNegotiateAlgorithms (x : AlgOffer) (s : State) : Host.Outcome State Fault Refusal :=
  let ok := x.asym.toNat / 0x100 % 2 = 1 ∧ x.hash.toNat / 4 % 2 = 1 ∧ x.dhe.toNat / 0x20 % 2 = 1 ∧ x.aead.toNat / 2 % 2 = 1
  .next (spdmOpen x.port (fun s =>
    emit (.spdm x.port 0x63 [pick x.asym 0x100, pick x.hash 4, 8, pick x.dhe 0x20, pick x.aead 2] [] [])
      { s with su := { s.su with negotiated := s.su.negotiated.filter (· != x.port) ++ (if ok then [x.port] else []) } }) s)

/-- GET_DIGESTS: certificate slot 0. -/
def execGetDigests (p : SpdmPort) (s : State) : Host.Outcome State Fault Refusal :=
  .next (spdmRest p (fun s => emit (.spdm p 0x01 [1] [chainDigest s] []) s) s)

/-- GET_CERTIFICATE: slot 0 only; the bytes asked for of the chain, with their number and that of the bytes after them. -/
def execGetCertificate (p : SpdmPort) (slot : Byte) (offset length : W16) (s : State) :
    Host.Outcome State Fault Refusal :=
  .next (spdmRest p (fun s =>
    if slot ≠ 0 then spdmErr p 1 s
    else
      let rest := (certChain s).drop offset.toNat
      let part := rest.take length.toNat
      emit (.spdm p 0x02 [BitVec.ofNat 32 part.length, BitVec.ofNat 32 (rest.length - part.length)] [] part) s) s)

/-- CHALLENGE: slot 0 only. -/
def execChallenge (p : SpdmPort) (slot : Byte) (nonce : BitVec 256) (s : State) : Host.Outcome State Fault Refusal :=
  .next (spdmRest p (fun s =>
    if slot ≠ 0 then spdmErr p 1 s else signedResp p 0x03 [] [chainDigest s, nonce.toNat] s) s)

/-- GET_MEASUREMENTS (R437): index 0 gives the count, 0xFF all of Table 14.8. -/
def execGetMeasurements (p : SpdmPort) (index : Byte) (nonce : BitVec 256) (s : State) :
    Host.Outcome State Fault Refusal :=
  .next (spdmRest p (fun s =>
    let i := index.toNat
    if i = 0 then signedResp p 0x60 [7] [nonce.toNat] s
    else if i ≤ 7 then signedResp p 0x60 (measure s i).1 ((measure s i).2 ++ [nonce.toNat]) s
    else if i = 0xFF then
      signedResp p 0x60 ((List.range 7).flatMap fun k => (measure s (k + 1)).1)
        (((List.range 7).flatMap fun k => (measure s (k + 1)).2) ++ [nonce.toNat]) s
    else spdmErr p 1 s) s)

/-- KEY_EXCHANGE: slot 0 only; the session opens with FINISH. -/
def execKeyExchange (p : SpdmPort) (slot : Byte) (session : W16) (s : State) : Host.Outcome State Fault Refusal :=
  .next (spdmRest p (fun s =>
    if slot ≠ 0 ∨ (s.su.sessions.any fun x => x.port == p && x.id == session) then spdmErr p 1 s
    else signedResp p 0x64 [BitVec.ofNat 32 session.toNat] []
      { s with su := { s.su with sessions := s.su.sessions ++ [{ port := p, id := session, finished := false }] } }) s)

/-- FINISH: the session is open. -/
def execFinish (p : SpdmPort) (session : W16) (s : State) : Host.Outcome State Fault Refusal :=
  .next (spdmRest p (fun s =>
    if s.su.sessions.any fun x => x.port == p && x.id == session then
      emit (.spdm p 0x65 [] [] []) { s with su := { s.su with sessions := s.su.sessions.map fun x =>
        if x.port = p ∧ x.id = session then { x with finished := true } else x } }
    else spdmErr p 2 s) s)

/-- END_SESSION. -/
def execEndSession (p : SpdmPort) (session : W16) (s : State) : Host.Outcome State Fault Refusal :=
  .next (spdmRest p (fun s =>
    if s.su.sessions.any fun x => x.port == p && x.id == session then
      emit (.spdm p 0x6C [] [] []) { s with su := { s.su with sessions := s.su.sessions.filter fun x =>
        !(x.port == p && x.id == session) } }
    else spdmErr p 2 s) s)

end Sys2Proof.Machine
end

