-- ==== Sys2Proof/Machine/Dispatch.lean ====
section
/-! DEFINITION. One arm per command: each calls the command's meaning. -/

namespace Sys2Proof.Machine

/-- The effect of a command on everything but the queue. -/
def exec (i : Instr) (s : State) : Host.Outcome State Fault Refusal :=
  match i with
  | .registerWrite off v wide => Sys2Proof.Machine.execRegisterWrite off v wide s
  | .badAccess m off bytes write => Sys2Proof.Machine.execBadAccess m off bytes write s
  | .reg64LowRead off => Sys2Proof.Machine.execReg64LowRead off s
  | .reg64LowWrite off lo => Sys2Proof.Machine.execReg64LowWrite off lo s
  | .reg64HighWrite off hi => Sys2Proof.Machine.execReg64HighWrite off hi s
  | .enable v => Sys2Proof.Machine.execEnable v s
  | .mailboxDataWrite mb m j v => Sys2Proof.Machine.execMailboxDataWrite mb m j v s
  | .go mb m v => Sys2Proof.Machine.execGo mb m v s
  | .relSeq mb m v => Sys2Proof.Machine.execRelSeq mb m v s
  | .ackGo mb m v => Sys2Proof.Machine.execAckGo mb m v s
  | .mailboxAckTimeout mb => Sys2Proof.Machine.execMailboxAckTimeout mb s
  | .lockTake k readers => Sys2Proof.Machine.execLockTake k readers s
  | .lockRelease k m v => Sys2Proof.Machine.execLockRelease k m v s
  | .sqEnable r v => Sys2Proof.Machine.execSqEnable r v s
  | .ringFlush r v => Sys2Proof.Machine.execRingFlush r v s
  | .sqTail r v => Sys2Proof.Machine.execSqTail r v s
  | .cqEnable r v => Sys2Proof.Machine.execCqEnable r v s
  | .cqHead r v => Sys2Proof.Machine.execCqHead r v s
  | .quiesce v => Sys2Proof.Machine.execQuiesce v s
  | .d3hotWrite => Sys2Proof.Machine.execD3hotWrite s
  | .quiesceComplete => Sys2Proof.Machine.execQuiesceComplete s
  | .hostTimersWrite v => Sys2Proof.Machine.execHostTimersWrite v s
  | .transactionTimersWrite m v => Sys2Proof.Machine.execTransactionTimersWrite m v s
  | .erEnable v => Sys2Proof.Machine.execErEnable v s
  | .erHead v => Sys2Proof.Machine.execErHead v s
  | .snap v => Sys2Proof.Machine.execSnap v s
  | .mapWrite m off v => Sys2Proof.Machine.execMapWrite m off v s
  | .join m v => Sys2Proof.Machine.execJoin m v s
  | .leave m v => Sys2Proof.Machine.execLeave m v s
  | .packetFetch r entries => Sys2Proof.Machine.execPacketFetch r entries s
  | .packetDispatch r fault d => Sys2Proof.Machine.execPacketDispatch r fault d s
  | .bindLoad c d => Sys2Proof.Machine.execBindLoad c d s
  | .bindSwitch c => Sys2Proof.Machine.execBindSwitch c s
  | .unbind c => Sys2Proof.Machine.execUnbind c s
  | .unbindByTenant c => Sys2Proof.Machine.execUnbindByTenant c s
  | .prefillOpen c d => Sys2Proof.Machine.execPrefillOpen c d s
  | .prefillExtend c d => Sys2Proof.Machine.execPrefillExtend c d s
  | .generate c d => Sys2Proof.Machine.execGenerate c d s
  | .cancel c => Sys2Proof.Machine.execCancel c s
  | .flush c => Sys2Proof.Machine.execFlush c s
  | .queryBinding c d => Sys2Proof.Machine.execQueryBinding c d s
  | .queryContext c d => Sys2Proof.Machine.execQueryContext c d s
  | .queryPlanes c d => Sys2Proof.Machine.execQueryPlanes c d s
  | .queryCellMap c d => Sys2Proof.Machine.execQueryCellMap c d s
  | .coalesceTimeout vec => Sys2Proof.Machine.execCoalesceTimeout vec s
  | .hostReadComplete id ok => Sys2Proof.Machine.execHostReadComplete id ok s
  | .hostReadTimeout id => Sys2Proof.Machine.execHostReadTimeout id s
  | .linkReplayEpisode => Sys2Proof.Machine.execLinkReplayEpisode s
  | .linkRecoveryEntry => Sys2Proof.Machine.execLinkRecoveryEntry s
  | .linkRecoveryExit => Sys2Proof.Machine.execLinkRecoveryExit s
  | .linkDown => Sys2Proof.Machine.execLinkDown s
  | .functionLevelReset => Sys2Proof.Machine.execFunctionLevelReset s
  | .hotReset => Sys2Proof.Machine.execHotReset s
  | .perstDeassert width speed => Sys2Proof.Machine.execPerstDeassert width speed s
  | .ideFailure cache => Sys2Proof.Machine.execIdeFailure cache s
  | .ideRekey => Sys2Proof.Machine.execIdeRekey s
  | .tokenFill rec tokens => Sys2Proof.Machine.execTokenFill rec tokens s
  | .errorRingWrite => Sys2Proof.Machine.execErrorRingWrite s
  | .ping => Sys2Proof.Machine.execPing s
  | .calendarSet => Sys2Proof.Machine.execCalendarSet s
  | .calendarGet => Sys2Proof.Machine.execCalendarGet s
  | .powerLimitSet src watts => Sys2Proof.Machine.execPowerLimitSet src watts s
  | .powerLimitGet => Sys2Proof.Machine.execPowerLimitGet s
  | .getRecords n => Sys2Proof.Machine.execGetRecords n s
  | .ackRecords seq => Sys2Proof.Machine.execAckRecords seq s
  | .getCper slot => Sys2Proof.Machine.execGetCper slot s
  | .getCounts => Sys2Proof.Machine.execGetCounts s
  | .getLarder => Sys2Proof.Machine.execGetLarder s
  | .getEvents idx count => Sys2Proof.Machine.execGetEvents idx count s
  | .getAgeing idx count => Sys2Proof.Machine.execGetAgeing idx count s
  | .getPlanes first count => Sys2Proof.Machine.execGetPlanes first count s
  | .setCalendar secs frac => Sys2Proof.Machine.execSetCalendar secs frac s
  | .i3cAddressAssign addr => Sys2Proof.Machine.execI3cAddressAssign addr s
  | .getVersion p => Sys2Proof.Machine.execGetVersion p s
  | .getCapabilities p => Sys2Proof.Machine.execGetCapabilities p s
  | .negotiateAlgorithms p => Sys2Proof.Machine.execNegotiateAlgorithms p s
  | .getDigests p => Sys2Proof.Machine.execGetDigests p s
  | .getCertificate p slot offset length => Sys2Proof.Machine.execGetCertificate p slot offset length s
  | .challenge p slot nonce => Sys2Proof.Machine.execChallenge p slot nonce s
  | .getMeasurements p index nonce => Sys2Proof.Machine.execGetMeasurements p index nonce s
  | .keyExchange p slot session => Sys2Proof.Machine.execKeyExchange p slot session s
  | .finish p session => Sys2Proof.Machine.execFinish p session s
  | .endSession p session => Sys2Proof.Machine.execEndSession p session s
  | .copyComplete rec => Sys2Proof.Machine.execCopyComplete rec s
  | .beatEdge => Sys2Proof.Machine.execBeatEdge s
  | .beatWordReceived w onTime => Sys2Proof.Machine.execBeatWordReceived w onTime s
  | .beatLoss => Sys2Proof.Machine.execBeatLoss s
  | .beatLock => Sys2Proof.Machine.execBeatLock s
  | .formationWord w => Sys2Proof.Machine.execFormationWord w s
  | .formationTimeout => Sys2Proof.Machine.execFormationTimeout s
  | .portTrainingComplete k raw lanesOk => Sys2Proof.Machine.execPortTrainingComplete k raw lanesOk s
  | .domainFaultNotice cause src => Sys2Proof.Machine.execDomainFaultNotice cause src s
  | .cableDisconnect down => Sys2Proof.Machine.execCableDisconnect down s
  | .bondDown down => Sys2Proof.Machine.execBondDown down s
  | .stretchRequestWord q => Sys2Proof.Machine.execStretchRequestWord q s
  | .stretchResolve beat => Sys2Proof.Machine.execStretchResolve beat s
  | .stretchStart => Sys2Proof.Machine.execStretchStart s
  | .stretchEnd => Sys2Proof.Machine.execStretchEnd s
  | .flitLost x => Sys2Proof.Machine.execFlitLost x s
  | .episodeExhausted x => Sys2Proof.Machine.execEpisodeExhausted x s
  | .retryNotice txn => Sys2Proof.Machine.execRetryNotice txn s
  | .errorCompletion txn => Sys2Proof.Machine.execErrorCompletion txn s
  | .transactionReceived src txn => Sys2Proof.Machine.execTransactionReceived src txn s
  | .acknowledgement txn => Sys2Proof.Machine.execAcknowledgement txn s
  | .transactionTimeout txn => Sys2Proof.Machine.execTransactionTimeout txn s
  | .readyMessage q => Sys2Proof.Machine.execReadyMessage q s
  | .refusalMessage q => Sys2Proof.Machine.execRefusalMessage q s
  | .epochMessage q => Sys2Proof.Machine.execEpochMessage q s
  | .abortMessage q => Sys2Proof.Machine.execAbortMessage q s
  | .readyWaitTimeout => Sys2Proof.Machine.execReadyWaitTimeout s
  | .epochWaitTimeout => Sys2Proof.Machine.execEpochWaitTimeout s
  | .switchEpoch => Sys2Proof.Machine.execSwitchEpoch s
  | .scrubComplete core fail => Sys2Proof.Machine.execScrubComplete core fail s
  | .switchHandover => Sys2Proof.Machine.execSwitchHandover s
  | .monitorSample conv entry volts => Sys2Proof.Machine.execMonitorSample conv entry volts s
  | .windowEnd d => Sys2Proof.Machine.execWindowEnd d s
  | .powerWindowEnd cluster power => Sys2Proof.Machine.execPowerWindowEnd cluster power s
  | .pointSettle cluster => Sys2Proof.Machine.execPointSettle cluster s
  | .replanComplete cluster d => Sys2Proof.Machine.execReplanComplete cluster d s
  | .clusterPowerGate cluster => Sys2Proof.Machine.execClusterPowerGate cluster s
  | .trivetTrip diode => Sys2Proof.Machine.execTrivetTrip diode s
  | .trivetRelease => Sys2Proof.Machine.execTrivetRelease s
  | .inputLoss => Sys2Proof.Machine.execInputLoss s
  | .inputRestore => Sys2Proof.Machine.execInputRestore s
  | .pwrSenseOpen => Sys2Proof.Machine.execPwrSenseOpen s
  | .modResetLow => Sys2Proof.Machine.execModResetLow s
  | .modResetHigh => Sys2Proof.Machine.execModResetHigh s
  | .flashOwnAssert => Sys2Proof.Machine.execFlashOwnAssert s
  | .flashOwnDeassert => Sys2Proof.Machine.execFlashOwnDeassert s
  | .coldStart => Sys2Proof.Machine.execColdStart s
  | .startupPhaseEnd f => Sys2Proof.Machine.execStartupPhaseEnd f s
  | .clusterWake cluster => Sys2Proof.Machine.execClusterWake cluster s
  | .fold => Sys2Proof.Machine.execFold s
  | .counterRecordTimer => Sys2Proof.Machine.execCounterRecordTimer s
  | .eventTokenRestore => Sys2Proof.Machine.execEventTokenRestore s
  | .flashPageWriteComplete => Sys2Proof.Machine.execFlashPageWriteComplete s
  | .larderViewUpdate => Sys2Proof.Machine.execLarderViewUpdate s
  | .calendarTick => Sys2Proof.Machine.execCalendarTick s
  | .holdUpEnd => Sys2Proof.Machine.execHoldUpEnd s
  | .snoop addr => Sys2Proof.Machine.execSnoop addr s
  | .conventionalReset => Sys2Proof.Machine.execConventionalReset s
  | .nop k r => Sys2Proof.Machine.execNop k r s
  | .lstep k r => Sys2Proof.Machine.execLstep k r s
  | .stepend k r => Sys2Proof.Machine.execStepend k r s
  | .select k r => Sys2Proof.Machine.execSelect k r s
  | .mwin k r => Sys2Proof.Machine.execMwin k r s
  | .maintenanceWindowEnd k => Sys2Proof.Machine.execMaintenanceWindowEnd k s
  | .quant k r => Sys2Proof.Machine.execQuant k r s
  | .pass k r => Sys2Proof.Machine.execPass k r s
  | .passSlot e => Sys2Proof.Machine.execPassSlot e s
  | .splitHalf e => Sys2Proof.Machine.execSplitHalf e s
  | .sieve k r => Sys2Proof.Machine.execSieve k r s
  | .chain k r => Sys2Proof.Machine.execChain k r s
  | .chainArrival k d => Sys2Proof.Machine.execChainArrival k d s
  | .tail k r => Sys2Proof.Machine.execTail k r s
  | .layerStepStatus b remote => Sys2Proof.Machine.execLayerStepStatus b remote s
  | .reduce k r => Sys2Proof.Machine.execReduce k r s
  | .reduceResultArrival k d => Sys2Proof.Machine.execReduceResultArrival k d s
  | .act k r => Sys2Proof.Machine.execAct k r s
  | .pool k r => Sys2Proof.Machine.execPool k r s
  | .score k r => Sys2Proof.Machine.execScore k r s
  | .smax k r => Sys2Proof.Machine.execSmax k r s
  | .value k r => Sys2Proof.Machine.execValue k r s
  | .merge k r => Sys2Proof.Machine.execMerge k r s
  | .mergeStateArrival k d => Sys2Proof.Machine.execMergeStateArrival k d s
  | .ovf k r => Sys2Proof.Machine.execOvf k r s
  | .walk k r => Sys2Proof.Machine.execWalk k r s
  | .kvfetch k r => Sys2Proof.Machine.execKvfetch k r s
  | .kvappend k r => Sys2Proof.Machine.execKvappend k r s
  | .gather k r => Sys2Proof.Machine.execGather k r s
  | .load k r => Sys2Proof.Machine.execLoad k r s
  | .store k r => Sys2Proof.Machine.execStore k r s
  | .overrun k => Sys2Proof.Machine.execOverrun k s
  | .ringBlockArrival k d => Sys2Proof.Machine.execRingBlockArrival k d s
  | .programStart n => Sys2Proof.Machine.execProgramStart n s
  | .eraseComplete e cells => Sys2Proof.Machine.execEraseComplete e cells s
  | .rowIteration e cells => Sys2Proof.Machine.execRowIteration e cells s
  | .programAttemptEnd e => Sys2Proof.Machine.execProgramAttemptEnd e s
  | .adoptionComplete n d => Sys2Proof.Machine.execAdoptionComplete n d s
  | .calibrationStart e => Sys2Proof.Machine.execCalibrationStart e s
  | .calibrationMeasurementComplete e m => Sys2Proof.Machine.execCalibrationMeasurementComplete e m s
  | .testDue k => Sys2Proof.Machine.execTestDue k s
  | .testForce k => Sys2Proof.Machine.execTestForce k s
  | .katStart k => Sys2Proof.Machine.execKatStart k s
  | .katComplete k r => Sys2Proof.Machine.execKatComplete k r s

end Sys2Proof.Machine
end

