-- ==== Sys2Proof/Safety.lean ====
section
/-! DEFINITION. What counts as a safe run: every one of its steps answers a next state. -/

namespace Sys2Proof.Safety

/-- The machine answers a next state at each of `n` steps from `s`. -/
def safeFor (n : Nat) (s : Sys2Proof.Machine.State) : Prop :=
  ∃ t, Sys2Proof.core.run n s = .next t

end Sys2Proof.Safety
end

