-- ==== Sys2Proof/Certificates/Slice0/Obligations.lean ====
section
/-! DEFINITION. The statements for the provers, each from the spec's numbered rules, and the words they share. -/

open Sys2Proof Sys2Proof.Machine

namespace Sys2Proof.Spec

/-- One error record was raised from `s` to `t` (R494 to R498): it has this TYPE, SEVERITY and detail words and the next
number, it is entered in the management queue, and from phase 7 on in the host queue as well, and RAISED rises by 1. -/
def Raised (typ sev d0 d1 d2 : Nat) (s t : State) : Prop :=
  ∃ r : ErrRec, r.typ.toNat = typ ∧ r.severity.toNat = sev ∧ r.d0.toNat = d0 ∧ r.d1.toNat = d1 ∧ r.d2.toNat = d2
    ∧ r.seq = s.err.nextSeq ∧ t.err.mgmtQ = (enterMgmt r s.err).mgmtQ
    ∧ t.err.hostQ = (if below7 s then s.err.hostQ else (enterHost r s.err).hostQ)
    ∧ t.err.raised = s.err.raised + 1 ∧ t.err.nextSeq = s.err.nextSeq + 1 ∧ t.err.lastSeq = s.err.nextSeq

/-- Every byte of device memory reads in `t` as it did in `s`. -/
def MemKept (s t : State) : Prop := ∀ a, memByte t a = memByte s a

/-- Every byte of device memory outside the `n` bytes from `a` reads in `t` as it did in `s`. -/
def MemKeptOutside (a n : Nat) (s t : State) : Prop := ∀ x, x < a ∨ a + n ≤ x → memByte t x = memByte s x

end Sys2Proof.Spec

open Sys2Proof.Spec

/-- The step takes commands first in, first out, and idles on an empty queue (the model's own choice, log entry 3). -/
def Obligations.StepRunsFrontCommand : Prop :=
  (∀ (c : Instr) (rest : List Instr) (s : State),
    step { s with pending := c :: rest } = exec c { s with pending := rest })
  ∧ ∀ s : State, s.pending = [] → step s = .next s

/-- Register words with their reset values, by offset (Tables 19.3 to 19.5). -/
def Sys2Proof.Spec.resetWords : List (Nat × W32) :=
  [(0x0, 0x01009624), (0x4, 1), (0x10, 0x06200300), (0x14, 0x00300000), (0x18, 0), (0x20, 0), (0x24, 0), (0x28, 0),
   (0x100, 0), (0x104, 0), (0x108, 0), (0x10000, 0), (0x10004, 0), (0x10008, 0), (0x20044, 0), (0x20050, 0x2710),
   (0x200D0, 0x2710), (0x20100, 7), (0x20104, 0), (0x20108, 0x7F), (0x44000, 0), (0x44004, 0), (0x44008, 0x00100040),
   (0x80008, 0x600), (0x8000C, 0), (0x80010, 0x10000), (0x80014, 1), (0x80018, 0), (0x80048, 0x5E920B6D),
   (0x8004C, 0x8A413C07), (0x80050, 0x7D3658B1), (0x80054, 0xC2E419F0), (0xC0004, 0x1FC0), (0x180000, 0),
   (0x180004, 0x80000000), (0x400000, 0), (0x400004, 0), (0x400008, 1), (0x40000C, 0x10000), (0x400014, 2),
   (0x400040, 0x00090040), (0x501000, 4)]

/-- The reset values of Tables 19.3 to 19.6 (variant H: log entry 2). -/
def Obligations.ResetRegisterValues : Prop :=
  (∀ p ∈ resetWords, regWord State.reset p.1 = p.2)
  ∧ (∀ r < 256, regWord State.reset (0x40008 + 0x40 * r) = (if r = 0 then 0x604 else 0x600)
      ∧ regWord State.reset (0x40018 + 0x40 * r) = BitVec.ofNat 32 (0x600 + 0x10000 * (4 + r))
      ∧ regWord State.reset (0x40024 + 0x40 * r) = 0x10000 ∧ regWord State.reset (0x4002C + 0x40 * r) = 1)
  ∧ (∀ k < 64, regWord State.reset (0x30000 + 4 * k) = 0xFE00)
  ∧ (∀ v < 260, regWord State.reset (0x60000 + 16 * v + 12) = 1)
  ∧ (∀ i < 256, regWord State.reset (0x401000 + 4 * i) = (if i = 0 then 0xFFFF0000 else 0xFFFFFFFF))
  ∧ ∀ p < 112, regWord State.reset (0x200000 + 0x1000 * p) = BitVec.ofNat 32 (0x7F01 + 0x10000 * (p / 28))
      ∧ ∀ o, 0 < o → o < 0x1000 → o % 4 = 0 → regWord State.reset (0x200000 + 0x1000 * p + o) = 0

/-- An aligned offset holds a field that Table 19.2 lists, 64-bit registers apart. -/
def Sys2Proof.Spec.hostWritable (o : Nat) : Bool :=
  o == 0x28 || o == 0x10000 || (0x20000 ≤ o && o < 0x20044) || o == 0x20050 || o == 0x200C4 || o == 0x200C8 || o == 0x200CC
  || o == 0x20100 || o == 0x20104 || (0x30000 ≤ o && o < 0x30100)
  || (0x40000 ≤ o && o < 0x44000 && [0x08, 0x0C, 0x18, 0x1C, 0x28, 0x2C].contains (o % 0x40))
  || o == 0x44000 || o == 0x44008 || (0x60000 ≤ o && o < 0x61040) || o == 0x80008 || o == 0x8000C || o == 0x80014
  || o == 0xA8000 || (0x400004 ≤ o && o < 0x400014) || o == 0x400040 || (0x401000 ≤ o && o < 0x401400)

/-- R524: the fields of Table 19.2 are the only ones host software can write; a write to any other field has no effect. -/
def Obligations.HostWritesReachOnlyWritableFields : Prop :=
  (∀ (v : W64) (s : State),
    exec (.registerWrite 0x28 v false) s = .next { s with ident := { s.ident with scratch := BitVec.ofNat 32 v.toNat } })
  ∧ ∀ (off : Off) (v : W64) (s : State), off.toNat % 4 = 0 → hostWritable off.toNat = false →
      val64 s off.toNat = none → (4 ≤ off.toNat → val64 s (off.toNat - 4) = none) →
      exec (.registerWrite off v false) s = .next s

/-- R20: a read returns zero, a write is discarded, and a bad-access record is raised. -/
def Obligations.BadAccessRecorded : Prop :=
  (∀ (m : Master) (off : Off) (n : BitVec 4) (write : Bool) (s : State), badSize s off.toNat n.toNat = true →
    (m = .host → openBlock s off.toNat = true) →
    ∃ t, exec (.badAccess m off n write) s = .next t
      ∧ t = { s with err := t.err, out := if write then s.out else s.out ++ [.readBad off n] }
      ∧ Raised 1 0 off.toNat (bit write + 2 * n.toNat) 0 s t)
  ∧ ∀ (off : Off) (v : W64) (wide : Bool) (s : State), badSize s off.toNat (if wide then 8 else 4) = true →
      openBlock s off.toNat = true →
      ∃ t, exec (.registerWrite off v wide) s = .next t ∧ t = { s with err := t.err }
        ∧ Raised 1 0 off.toNat (1 + 2 * (if wide then 8 else 4)) 0 s t

/-- The low word a high-word write is combined with (R21): the latched one, or the present one. -/
def Sys2Proof.Spec.latchedLow (s : State) (o : Nat) (present : W32) : W32 :=
  (look (fun _ => (none : Option W32)) s.ident.lowLatch o).getD present

/-- R21, on the two kinds of register that host software may write in halves. -/
def Obligations.SixtyFourBitHalves : Prop :=
  (∀ (off : Off) (v : W64) (s : State), openBlock s off.toNat = true → val64 s off.toNat = some v →
    ∃ t, exec (.reg64LowRead off) s = .next t
      ∧ t = { s with ident := { s.ident with highLatch := t.ident.highLatch }, out := s.out ++ [.read64 off v] }
      ∧ (∀ o, look (fun _ => none) t.ident.highLatch o
          = if o = off.toNat then some (BitVec.ofNat 32 (v.toNat / 2 ^ 32)) else look (fun _ => none) s.ident.highLatch o))
  ∧ (∀ (off : Off) (lo : W32) (s : State), openBlock s off.toNat = true → (val64 s off.toNat).isSome = true →
    ∃ t, exec (.reg64LowWrite off lo) s = .next t
      ∧ t = { s with ident := { s.ident with lowLatch := t.ident.lowLatch } }
      ∧ ∀ o, look (fun _ => none) t.ident.lowLatch o
          = if o = off.toNat then some lo else look (fun _ => none) s.ident.lowLatch o)
  ∧ (∀ (hi : W32) (s : State), s.err.erEnable = false →
    ∃ t, exec (.reg64HighWrite 0x80000 hi) s = .next t
      ∧ t = { s with ident := { s.ident with lowLatch := t.ident.lowLatch }, err := { s.err with erBase := t.err.erBase } }
      ∧ t.err.erBase = BitVec.ofNat 52 (hi.toNat * 2 ^ 20
          + (latchedLow s 0x80000 (BitVec.ofNat 32 (s.err.erBase.toNat * 2 ^ 12))).toNat / 2 ^ 12)
      ∧ look (fun _ => none) t.ident.lowLatch 0x80000 = none)
  ∧ ∀ (r : Fin 256) (hi : W32) (s : State), below7 s = false → (ring s r.val).sqEnable = false →
    ∃ t, exec (.reg64HighWrite (BitVec.ofNat 26 (0x40000 + 0x40 * r.val)) hi) s = .next t
      ∧ (ring t r.val).sqBase = BitVec.ofNat 52 (hi.toNat * 2 ^ 20
          + (latchedLow s (0x40000 + 0x40 * r.val) (BitVec.ofNat 32 ((ring s r.val).sqBase.toNat * 2 ^ 12))).toNat / 2 ^ 12)
      ∧ (∀ j, j ≠ r.val → ring t j = ring s j)

/-- R404 with the data words of Table 13.2: a GO never waits and never fails. -/
def Obligations.MailboxSending : Prop :=
  (∀ (mb : Fin 114) (m : Master) (i : Fin 16) (v : W32) (s : State), mayWrite s mb.val m = true →
    ∃ t, exec (.mailboxDataWrite mb m (.data i) v) s = .next t
      ∧ t = { s with mail := { s.mail with boxes := t.mail.boxes } } ∧ (∀ j, j ≠ mb.val → mbox t j = mbox s j)
      ∧ mbox t mb.val = { mbox s mb.val with
          data := (mbox t mb.val).data, collision := (mbox s mb.val).collision || (mbox s mb.val).full,
          collisions := (mbox s mb.val).collisions + BitVec.ofNat 32 (bit (mbox s mb.val).full) }
      ∧ ∀ j, look (fun _ => 0) (mbox t mb.val).data j = if j = i.val then v else look (fun _ => 0) (mbox s mb.val).data j)
  ∧ (∀ (mb : Fin 114) (m : Master) (v : W32) (s : State), isSender s mb.val m = true →
    ∃ t, exec (.mailboxDataWrite mb m .ackTime v) s = .next t
      ∧ t = { s with mail := { s.mail with boxes := t.mail.boxes } } ∧ (∀ j, j ≠ mb.val → mbox t j = mbox s j)
      ∧ mbox t mb.val = { mbox s mb.val with ackTime := BitVec.ofNat 24 v.toNat })
  ∧ (∀ (mb : Fin 114) (m : Master) (i : Fin 16) (v : W32) (s : State),
    (mayWrite s mb.val m = false → exec (.mailboxDataWrite mb m (.data i) v) s = .next s ∧ exec (.go mb m v) s = .next s)
    ∧ (isSender s mb.val m = false → exec (.mailboxDataWrite mb m .ackTime v) s = .next s))
  ∧ ∀ (mb : Fin 114) (m : Master) (v : W32) (s : State), mayWrite s mb.val m = true → bitOf v.toNat 0 = true →
    ∃ t, exec (.go mb m v) s = .next t
      ∧ t = { s with mail := { s.mail with boxes := t.mail.boxes, irqCause := t.mail.irqCause },
                     host := { s.host with pba := t.host.pba }, out := t.out }
      ∧ (∀ j, j ≠ mb.val → mbox t j = mbox s j)
      ∧ mbox t mb.val = { mbox s mb.val with
          seq := (mbox s mb.val).seq + 1, full := true, collision := (mbox s mb.val).collision || (mbox s mb.val).full,
          collisions := (mbox s mb.val).collisions + BitVec.ofNat 32 (bit (mbox s mb.val).full),
          ack := false, unacked := false, timer := (mbox s mb.val).ackTime != 0, sent := (mbox s mb.val).sent + 1, gone := true,
          irq := (mbox t mb.val).irq }
      ∧ (mb.val = 1 → t.mail.irqCause = s.mail.irqCause ||| 1)
      ∧ (mb.val ≠ 1 → t.mail.irqCause = s.mail.irqCause ∧ t.host = s.host)
      ∧ (2 ≤ mb.val → t.out = s.out ++ [.wake (mb.val - 2)])

/-- R405, R406, the timer of Table 13.2, and R407. -/
def Obligations.MailboxAnswers : Prop :=
  (∀ (mb : Fin 114) (m : Master) (v : W32) (s : State), isReceiver s mb.val m = true → s.mail.outQ = [] →
    (∃ t, exec (.relSeq mb m (.release v {})) s = .next t
      ∧ t = { s with mail := { s.mail with boxes := t.mail.boxes, inQ := t.mail.inQ } }
      ∧ (∀ j, j ≠ mb.val → mbox t j = mbox s j)
      ∧ mbox t mb.val = (if BitVec.ofNat 8 v.toNat = (mbox s mb.val).seq then { mbox s mb.val with full := false }
          else { mbox s mb.val with stale := (mbox s mb.val).stale + 1 })
      ∧ t.mail.inQ = if mb.val = 0 ∧ (mbox s 0).full = true ∧ BitVec.ofNat 8 v.toNat = (mbox s 0).seq
          then s.mail.inQ ++ [((mbox s 0).seq, hostWords s)] else s.mail.inQ)
    ∧ (∃ t, exec (.relSeq mb m (.status v {})) s = .next t ∧ t = { s with mail := { s.mail with boxes := t.mail.boxes } }
      ∧ (∀ j, j ≠ mb.val → mbox t j = mbox s j)
      ∧ mbox t mb.val = { mbox s mb.val with collision := (mbox s mb.val).collision && !bitOf v.toNat 1 })
    ∧ (bitOf v.toNat 8 = true → mb.val ≠ 0 → ∀ late : Bool,
      ∃ t, exec (.ackGo mb m { v := v, same := { expiry := late } }) s = .next t ∧ (∀ j, j ≠ mb.val → mbox t j = mbox s j)
        ∧ t = { s with mail := { s.mail with boxes := t.mail.boxes } }
        ∧ (BitVec.ofNat 8 v.toNat = (mbox s mb.val).seq →
            mbox t mb.val = { mbox s mb.val with ack := true, unacked := false, timer := false })
        ∧ (BitVec.ofNat 8 v.toNat ≠ (mbox s mb.val).seq → late = false →
            mbox t mb.val = { mbox s mb.val with stale := (mbox s mb.val).stale + 1 }))
    ∧ ∀ g : Master, 2 ≤ mb.val → mayWrite s mb.val g = true → BitVec.ofNat 8 v.toNat = (mbox s mb.val).seq →
      (∃ t, exec (.relSeq mb m (.release v { go := some g })) s = .next t
        ∧ (mbox t mb.val).full = true ∧ (mbox t mb.val).seq = (mbox s mb.val).seq + 1
        ∧ (mbox t mb.val).collision = ((mbox s mb.val).collision || (mbox s mb.val).full)
        ∧ (mbox t mb.val).stale = (mbox s mb.val).stale + 1)
      ∧ (bitOf v.toNat 8 = true → ∃ t, exec (.ackGo mb m { v := v, same := { go := some g } }) s = .next t
        ∧ (mbox t mb.val).full = true ∧ (mbox t mb.val).ack = false ∧ (mbox t mb.val).seq = (mbox s mb.val).seq + 1
        ∧ (mbox t mb.val).collision = ((mbox s mb.val).collision || (mbox s mb.val).full)
        ∧ (mbox t mb.val).stale = (mbox s mb.val).stale + 1)
      ∧ ((mbox s mb.val).full = true → ∃ t, exec (.relSeq mb m (.status 2 { go := some g })) s = .next t
        ∧ (mbox t mb.val).collision = true))
  ∧ (∀ (mb : Fin 114) (m : Master) (v : W32) (s : State), isReceiver s mb.val m = false →
    exec (.relSeq mb m (.release v {})) s = .next s ∧ exec (.relSeq mb m (.status v {})) s = .next s
    ∧ exec (.ackGo mb m { v := v }) s = .next s)
  ∧ ∀ (mb : Fin 114) (s : State), (mbox s mb.val).timer = true → s.mail.outQ = [] →
    ∃ t, exec (.mailboxAckTimeout mb) s = .next t ∧ (∀ j, j ≠ mb.val → mbox t j = mbox s j)
      ∧ mbox t mb.val = { mbox s mb.val with unacked := true, timer := false }
      ∧ t.mail.irqCause = (if mb.val = 0 then s.mail.irqCause ||| 4 else s.mail.irqCause)
      ∧ t = { s with mail := { s.mail with boxes := t.mail.boxes, irqCause := t.mail.irqCause },
                     host := { s.host with pba := t.host.pba }, out := t.out }

/-- R414 and R415. -/
def Obligations.LockCycleOrder : Prop :=
  (∀ (k : Fin 64) (a b : Master) (s : State), below7 s = false → takerCode a < takerCode b →
    ∀ rs ∈ [[a, b], [b, a]], ∃ t, exec (.lockTake k { readers := rs }) s = .next t
      ∧ t = { s with mail := { s.mail with locks := t.mail.locks },
                     out := s.out ++ [.lockRead a k.val (BitVec.ofNat 32 (lockWord (lockReg s k.val))),
                                      .lockRead b k.val (BitVec.ofNat 32 (lockWord (lockReg t k.val)))] }
      ∧ (lockReg t k.val).held = true
      ∧ (lockReg t k.val).taker = (if (lockReg s k.val).held then (lockReg s k.val).taker else BitVec.ofNat 8 (takerCode a))
      ∧ ∀ j, j ≠ k.val → lockReg t j = lockReg s j)
  ∧ (∀ (k : Fin 64) (w a : Master) (s : State), below7 s = false →
    ∃ t, exec (.lockTake k { writes := [(w, 0)], readers := [a] }) s = .next t
      ∧ t = { s with mail := { s.mail with locks := t.mail.locks },
                     out := s.out ++ [.lockRead a k.val (BitVec.ofNat 32 (lockWord { lockReg s k.val with held := false }))] }
      ∧ lockReg t k.val = { held := true, taker := BitVec.ofNat 8 (takerCode a) }
      ∧ ∀ j, j ≠ k.val → lockReg t j = lockReg s j)
  ∧ ∀ (k : Fin 64) (m : Master) (v : W32) (s : State), below7 s = false →
    ∃ t, exec (.lockRelease k m v) s = .next t ∧ t = { s with mail := { s.mail with locks := t.mail.locks } }
      ∧ lockReg t k.val = (if bitOf v.toNat 0 then lockReg s k.val else { lockReg s k.val with held := false })
      ∧ ∀ j, j ≠ k.val → lockReg t j = lockReg s j

/-- No entries read wait in the ring, no flush of it stands or is left, and no FLUSH command waits for its packet boundary. -/
def Sys2Proof.Spec.ringQuiet (g : Ring) : Bool :=
  g.buf.isEmpty && !g.flush && !g.readFirst && g.flushLeft == 0 && g.discard == 0 && g.pendFlush.isEmpty

/-- Only the rings and the ladle's reads have changed from `s` to `t`. -/
def Sys2Proof.Spec.hostReadsOnly (s t : State) : Prop :=
  t = { s with host := { s.host with
    rings := t.host.rings, reads := t.host.reads, readQ := t.host.readQ, nextRead := t.host.nextRead } }

/-- The enable and doorbell registers of Table 12.3. -/
def Obligations.RingDoorbellsAndEnables : Prop :=
  ∀ (r : Fin 256) (v : W32) (s : State), below7 s = false → ringQuiet (ring s r.val) = true →
    ((ring s r.val).sqEnable = false → bitOf v.toNat 0 = true → bitOf v.toNat 1 = false →
      ∃ t, exec (.sqEnable r v) s = .next t ∧ hostReadsOnly s t
        ∧ (∀ j, j ≠ r.val → ring t j = ring s j)
        ∧ (6 ≤ fld v.toNat 8 5 → fld v.toNat 8 5 ≤ 16 →
            (ring t r.val).sqEnable = true ∧ (ring t r.val).sqHead = 0 ∧ (ring t r.val).sqTail = 0
            ∧ (ring t r.val).sqLog2.toNat = fld v.toNat 8 5 ∧ (ring t r.val).priv = bitOf v.toNat 2)
        ∧ (fld v.toNat 8 5 < 6 ∨ 16 < fld v.toNat 8 5 →
            (ring t r.val).sqEnable = false ∧ (ring t r.val).tailInvalid = true
            ∧ (ring t r.val).sqHead = (ring s r.val).sqHead ∧ (ring t r.val).sqTail = (ring s r.val).sqTail))
    ∧ (∃ t, exec (.sqTail r v) s = .next t ∧ hostReadsOnly s t
        ∧ (∀ j, j ≠ r.val → ring t j = ring s j)
        ∧ ring t r.val =
            (if (ring s r.val).sqEnable = true ∧ fld v.toNat 0 16 < 2 ^ (ring s r.val).sqLog2.toNat then
              { ring s r.val with sqTail := BitVec.ofNat 16 (fld v.toNat 0 16) }
            else { ring s r.val with tailInvalid := true })
        ∧ ((ring s r.val).sqEnable = true → fld v.toNat 0 16 < 2 ^ (ring s r.val).sqLog2.toNat →
            s.host.quiesce = false → s.host.ideHold = false → sqAvail (ring t r.val) ≠ 0 →
            reading r.val t = true ∨ .entries r.val ∈ t.host.readQ))
    ∧ ((ring s r.val).cqEnable = false → bitOf v.toNat 0 = true → 6 ≤ fld v.toNat 8 5 → fld v.toNat 8 5 ≤ 16 →
      ∃ t, exec (.cqEnable r v) s = .next t ∧ t = { s with host := { s.host with rings := t.host.rings } }
        ∧ (∀ j, j ≠ r.val → ring t j = ring s j)
        ∧ ring t r.val = { ring s r.val with
            cqEnable := true, cqTail := 0, phase := true, unsignalled := 0, cqLog2 := BitVec.ofNat 5 (fld v.toNat 8 5),
            vector := if 4 ≤ fld v.toNat 16 9 ∧ fld v.toNat 16 9 ≤ 259 then BitVec.ofNat 9 (fld v.toNat 16 9)
              else (ring s r.val).vector })
    ∧ ∃ t, exec (.cqHead r v) s = .next t ∧ t = { s with host := { s.host with rings := t.host.rings } }
        ∧ (∀ j, j ≠ r.val → ring t j = ring s j)
        ∧ ring t r.val = { ring s r.val with
            cqHead := if fld v.toNat 0 16 < 2 ^ (ring s r.val).cqLog2.toNat then BitVec.ofNat 16 (fld v.toNat 0 16)
              else (ring s r.val).cqHead }

/-- The rows that stand for a command packet, with its opcode (Table 12.5). -/
def Sys2Proof.Spec.commandRows (c : Cmd) (d : CmdData) : List (Nat × Instr) :=
  [(0x01, .bindLoad c d), (0x02, .bindSwitch c), (0x03, .unbind c), (0x03, .unbindByTenant c), (0x10, .prefillOpen c d),
   (0x10, .prefillExtend c d), (0x11, .generate c d), (0x12, .cancel c), (0x13, .flush c), (0x20, .queryBinding c d),
   (0x20, .queryContext c d), (0x20, .queryPlanes c d), (0x20, .queryCellMap c d)]

/-- R371 to R374 on one packet, and FLUSH of R379 at its boundary. -/
def Obligations.PacketAcceptedOrFlushed : Prop :=
  (∀ (r : Fin 256) (new es : List (BitVec 512)) (s : State), below7 s = false → s.host.quiesce = false →
    s.host.ideHold = false → (ring s r.val).sqEnable = true → (ring s r.val).flush = false →
    (ring s r.val).readFirst = false → (ring s r.val).flushLeft = 0 → (ring s r.val).pendFlush = [] →
    (reading r.val s || mayRead r.val s) = true → es = (ring s r.val).buf ++ new →
    (ring s r.val).sqHead.toNat < 2 ^ (ring s r.val).sqLog2.toNat → es.length = packetLen es → es.length ≤ sqAvail (ring s r.val) →
    (packetOk es = true →
      (ring s r.val).reserved + packetResv (entryHead (es.headD 0)).opcode (packetPayload es) ≤ cqFree (ring s r.val) →
      (ring s r.val).queue.length < 4096 → pointersOk (ring s r.val) = true →
      ∃ t p, exec (.packetFetch r new) s = .next t
        ∧ p.cmd = packetCmd r es ∧ p.opcode.toNat = (entryHead (es.headD 0)).opcode ∧ p.first = (ring s r.val).sqHead
        ∧ p.resv = packetResv p.opcode.toNat p.cmd.payload ∧ p.seq = (ring s r.val).qTail ∧ p.no = s.host.packetNo
        ∧ ring t r.val = { ring s r.val with
            sqHead := BitVec.ofNat 16 (((ring s r.val).sqHead.toNat + es.length) % 2 ^ (ring s r.val).sqLog2.toNat),
            accepted := (ring s r.val).accepted + 1, outstanding := (ring s r.val).outstanding + 1,
            reserved := (ring s r.val).reserved + p.resv, queue := (ring s r.val).queue ++ [p],
            qTail := (ring s r.val).qTail + 1, qTailInv := ~~~((ring s r.val).qTail + 1), buf := [], last := false }
        ∧ (∀ j, j ≠ r.val → ring t j = ring s j) ∧ t = { s with host := t.host })
    ∧ (packetOk es = false → (ring s r.val).reserved < cqFree (ring s r.val) → (ring s r.val).cqEnable = true →
      ∃ t, exec (.packetFetch r new) s = .next t
        ∧ (ring t r.val).badPacket = true ∧ (ring t r.val).queue = (ring s r.val).queue
        ∧ (ring t r.val).sqHead =
            BitVec.ofNat 16 (((ring s r.val).sqHead.toNat + es.length) % 2 ^ (ring s r.val).sqLog2.toNat)
        ∧ t = { s with host := t.host, out := t.out }
        ∧ ∃ more, t.out = s.out ++ complOut r.val { ring s r.val with sqHead := (ring t r.val).sqHead }
            (compl (entryHead (es.headD 0)).tag 0x06) :: more))
  ∧ (∀ (r : Fin 256) (v : W32) (s : State), below7 s = false → (ring s r.val).sqEnable = true → bitOf v.toNat 0 = true →
      bitOf v.toNat 1 = true → fld v.toNat 8 5 = (ring s r.val).sqLog2.toNat → 6 ≤ fld v.toNat 8 5 → fld v.toNat 8 5 ≤ 16 →
      sqAvail (ring s r.val) ≠ 0 → ringQuiet (ring s r.val) = true →
      ∃ t, exec (.ringFlush r v) s = .next t ∧ (∀ j, j ≠ r.val → ring t j = ring s j) ∧ hostReadsOnly s t
        ∧ ring t r.val = if reading r.val s then { ring s r.val with flush := true, readFirst := true }
            else { ring s r.val with flushLeft := sqAvail (ring s r.val) })
  ∧ ∀ (c : Cmd) (d : CmdData) (op : Nat) (i : Instr) (s : State), (op, i) ∈ commandRows c d → below7 s = false →
      s.host.quiesce = false → payloadClean op c.payload = false → (ring s c.ring).reserved < cqFree (ring s c.ring) →
      (ring s c.ring).cqEnable = true → s.host.ideHold = false →
      ∃ t more, exec i s = .next t ∧ t = { s with host := t.host, out := t.out } ∧ (ring t c.ring).badPacket = true
        ∧ (ring t c.ring).accepted = (ring s c.ring).accepted
        ∧ t.out = s.out ++ complOut c.ring.val { ring s c.ring with sqHead := (ring t c.ring).sqHead } (compl c.tag 0x06) :: more

/-- R379 on one packet, whole or cut by the flush tail. -/
def Obligations.FlushAtPacketBoundary : Prop :=
  ∀ (r : Fin 256) (e : BitVec 512) (es : List (BitVec 512)) (s : State), below7 s = false → s.host.quiesce = false →
    s.host.ideHold = false → (ring s r.val).flush = false → (ring s r.val).readFirst = false → (ring s r.val).discard = 0 →
    (ring s r.val).pendFlush = [] → (ring s r.val).buf = [] → (reading r.val s || mayRead r.val s) = true →
    (ring s r.val).flushLeft = sqAvail (ring s r.val) → (entryHead e).first = true →
    (e :: es).length ≤ sqAvail (ring s r.val) →
    sqAvail (ring s r.val) ≤ (entryHead e).count + 1 → (ring s r.val).cqEnable = true →
    (ring s r.val).reserved + 1 ≤ cqFree (ring s r.val) → 6 ≤ (ring s r.val).sqLog2.toNat →
    (ring s r.val).sqLog2.toNat ≤ 16 → (ring s r.val).sqTail.toNat < 2 ^ (ring s r.val).sqLog2.toNat →
    (ring s r.val).sqHead.toNat < 2 ^ (ring s r.val).sqLog2.toNat →
    ∃ t, exec (.packetFetch r (e :: es)) s = .next t
      ∧ (ring t r.val).sqHead = (ring s r.val).sqTail ∧ (ring t r.val).flushLeft = 0
      ∧ (ring t r.val).discard = (entryHead e).count + 1 - sqAvail (ring s r.val)
      ∧ (ring t r.val).queue = (ring s r.val).queue
      ∧ ∃ more, t.out = s.out ++ complOut r.val { ring s r.val with sqHead := (ring s r.val).sqTail }
          (compl (entryHead e).tag 0x04) :: more

/-- R378, and R375's dispatch in ring order. -/
def Obligations.QueueResetStandsForEveryPacket : Prop :=
  (∀ (r : Fin 256) (fault : Bool) (d : CmdData) (p : Packet) (q : List Packet) (s : State), (ring s r.val).queue = p :: q →
    1 ≤ p.resv → (ring s r.val).buf = [] → (fault = true ∨ pointersOk (ring s r.val) = false) →
    (ring s r.val).cqEnable = true → s.host.ideHold = false →
    ∃ t, exec (.packetDispatch r fault d) s = .next t
      ∧ (ring t r.val).queue = [] ∧ (ring t r.val).queueReset = true
      ∧ (ring t r.val).reserved = (ring s r.val).reserved - ((p :: q).map (·.resv)).sum
      ∧ (ring t r.val).sqEnable = (ring s r.val).sqEnable ∧ (ring t r.val).sqHead = (ring s r.val).sqHead
      ∧ (ring t r.val).sqTail = (ring s r.val).sqTail ∧ pointersOk (ring t r.val) = true
      ∧ t.host.resets = s.host.resets + 1
      ∧ Raised 0x60 1 r.val ((p :: q).length % 2 ^ 32) 0 s t
      ∧ ∃ more, t.out = s.out ++ complOut r.val (ring s r.val)
          { compl 0xFFFFFFFF 0x15 with
            detail := BitVec.ofNat 32 (p.first.toNat + (((p :: q).getLastD p).past.toNat) * 2 ^ 16),
            count := BitVec.ofNat 32 (p :: q).length } :: more)
  ∧ ∀ (r : Fin 256) (d : CmdData) (p : Packet) (q : List Packet) (s : State), (ring s r.val).queue = p :: q →
    pointersOk (ring s r.val) = true → numbersOk (ring s r.val) ((spilled (ring s r.val)).take 1) = true →
    exec (.packetDispatch r false d) s
      = .next (retryRing r (dispatch p.opcode.toNat p.no p.cmd d (setRing s r { ring s r.val with
          qHead := (ring s r.val).qHead + 1, qHeadInv := ~~~((ring s r.val).qHead + 1), queue := q })))

/-- R364, R392, R393 and R394. -/
def Obligations.HostTimersAndLinkEpisodes : Prop :=
  (∀ (v : W32) (s : State), below7 s = false → exec (.hostTimersWrite v) s = .next { s with host := { s.host with
      ht := BitVec.ofNat 16 (max 16 (v.toNat % 2 ^ 16)), hext := BitVec.ofNat 16 (max 8 (v.toNat / 2 ^ 16)) } })
  ∧ (∀ s : State, exec .linkReplayEpisode s = .next { s with host := { s.host with
      replays := s.host.replays + 1,
      reads := s.host.reads.map fun x => { x with left := x.left + s.host.hext.toNat } } })
  ∧ (∀ s : State, exec .linkRecoveryEntry s
      = .next { s with host := { s.host with recovery := true, recoveries := s.host.recoveries + 1 } })
  ∧ (∀ s : State, exec .linkRecoveryExit s = .next { s with host := { s.host with recovery := false } })
  ∧ (∀ (a : W64) (s : State), exec (.snoop a) s = .next { s with out := s.out ++ [.snoopMiss a] })
  ∧ (∀ (x : HostRead) (s : State), x ∈ s.host.reads → s.host.readQ = [] →
      exec (.hostReadComplete x.id true) s
        = .next { s with host := { s.host with reads := s.host.reads.filter fun y => y.id != x.id } })
  ∧ (∀ (x : HostRead) (s : State), s.host.reads.find? (fun y => y.id == x.id) = some x → x.left = 0 →
      (x.reissued = false → exec (.hostReadTimeout x.id) s = .next { s with host := { s.host with
          timeouts := s.host.timeouts + 1,
          reads := s.host.reads.map fun y =>
            if y.id = x.id then { y with left := s.host.ht.toNat, reissued := true } else y } })
      ∧ ∀ r, x.what = .entries r → x.reissued = true → s.host.readQ = [] → (ring s r).pendFlush = [] →
        ∃ t, exec (.hostReadTimeout x.id) s = .next t ∧ t.host.timeouts = s.host.timeouts + 1
          ∧ t.host.reads = s.host.reads.filter (fun y => y.id != x.id)
          ∧ ring t r = { ring s r with
              fetchFault := true, sqEnable := false, last := false, readFirst := false, buf := [] }
          ∧ (∀ j, j ≠ r → ring t j = ring s j) ∧ Raised 0x61 1 (r % 2 ^ 32) 0 0 s t)
  ∧ ∀ (v : Fin 260) (r : Nat) (s : State), r < 256 → 4 ≤ v.val → (ring s r).vector.toNat = v.val →
      (ring s r).unsignalled ≠ 0 → (ring s r).coTime ≠ 0 → (msixEntry s v.val).ctl.toNat % 2 = 0 →
      ∃ t, exec (.coalesceTimeout v) s = .next t ∧ t.out = s.out ++ [.msix v.val]
        ∧ t = { s with host := { s.host with rings := t.host.rings }, out := t.out }
        ∧ ∀ j < 256, ring t j = if (ring s j).vector.toNat = v.val then { ring s j with unsignalled := 0 } else ring s j

/-- R396 and Table 12.12, where nothing is waiting; D3hot acts as QUIESCE (Table 12.1). -/
def Obligations.ManagedRemovalStops : Prop :=
  (∀ (v : W32) (s : State), s.host.quiesce = false → s.ten.switches = [] →
    (∀ r, (ring s r).queue = []) →
    SMapWf ringReset s.host.rings = true →
    (∀ r, pointersOk (ring s r) = true ∧ (ring s r).qHead = (ring s r).qTail) →
    ∃ t, exec .d3hotWrite s = .next t ∧ (below7 s = false → bitOf v.toNat 0 = true → exec (.quiesce v) s = .next t)
      ∧ t = { s with host := { s.host with quiesce := true, rings := t.host.rings } }
      ∧ ∀ r, ring t r = if r ∈ s.host.rings.map (·.1) then { ring s r with last := (ring s r).last || reading r s } else ring s r)
  ∧ (∀ (v : W32) (s : State), s.host.quiesce = true →
      exec .d3hotWrite s = .next s ∧ (below7 s = false → exec (.quiesce v) s = .next s))
  ∧ ∀ s : State, quiesceDone s = true → s.fab.st ≠ 2 →
      ∃ t, exec .quiesceComplete s = .next t ∧ t.host.quiesced = true
        ∧ t = { s with host := { s.host with quiesced := true, pba := t.host.pba }, out := t.out }
        ∧ ((msixEntry s 2).ctl.toNat % 2 = 0 → t.out = s.out ++ [.msix 2])
        ∧ ((msixEntry s 2).ctl.toNat % 2 = 1 → look (fun _ => false) t.host.pba 2 = true)

/-- R367: failure, holding, and the re-key. -/
def Obligations.IdeFailureAndRekey : Prop :=
  (∀ (cache : Bool) (s : State), s.host.ideActive = true → s.host.reads = [] →
    ∃ t, exec (.ideFailure cache) s = .next t ∧ t.host.ideActive = false ∧ t.host.ideHold = true
      ∧ t.host.ideFails = s.host.ideFails + 1 ∧ Raised 0x62 1 (bit cache) 0 0 s t
      ∧ t = { s with host := t.host, err := t.err, out := t.out }
      ∧ ∀ (r n done : Nat) (c : Compl), completeWith r n done c t
          = { t with host := { t.host with held := t.host.held ++ [.entry r n done c] } })
  ∧ (∀ s : State, s.host.ideActive = false → (s.su.sessions.any fun x => x.port == .doe && x.finished) = true →
    (∀ j, (ring s j).buf = [] ∧ (ring s j).pendFlush = []) →
    ∃ t, exec .ideRekey s = .next t ∧ t.host.ideActive = true ∧ t.host.ideHold = false ∧ t.host.held = []
      ∧ t = { s with host := t.host, out := t.out }
      ∧ ∀ (r n done : Nat) (c : Compl) (q : List HeldOut), s.host.held = .entry r n done c :: q → c.kind = 0 →
          (ring s r).cqEnable = true →
          ∃ more, t.out = s.out ++ complOut r (ring s r) c :: more)
  ∧ ∀ s : State, (s.su.sessions.any fun x => x.port == .doe && x.finished) = false → exec .ideRekey s = .next s

/-- R499 and the registers of Table 17.3. -/
def Obligations.ErrorRingDelivery : Prop :=
  (∀ (v : W32) (s : State), ∃ t, exec (.erEnable v) s = .next t ∧ t = { s with err := t.err }
    ∧ (bitOf v.toNat 0 = true → 6 ≤ fld v.toNat 8 5 → fld v.toNat 8 5 ≤ 16 →
        t.err = { s.err with erEnable := true, erTail := 0, erPhase := true, unsignalled := 0,
                             erLog2 := BitVec.ofNat 5 (fld v.toNat 8 5) })
    ∧ (fld v.toNat 8 5 < 6 ∨ 16 < fld v.toNat 8 5 → bitOf v.toNat 0 = true → t.err.erEnable = s.err.erEnable))
  ∧ (∀ (v : W32) (s : State), exec (.erHead v) s = .next { s with err := { s.err with
      erHead := if v.toNat % 2 ^ 16 < 2 ^ s.err.erLog2.toNat then BitVec.ofNat 16 v.toNat else s.err.erHead } })
  ∧ (∀ (r : ErrRec) (q : List ErrRec) (s : State), s.err.hostQ = r :: q → s.err.erEnable = true → s.host.ideHold = false →
      (s.err.erTail.toNat + 1) % 2 ^ s.err.erLog2.toNat ≠ s.err.erHead.toNat % 2 ^ s.err.erLog2.toNat →
      ∃ t, exec .errorRingWrite s = .next t ∧ t.err.hostQ = q ∧ t.err.hostLoss = false
        ∧ t.err.erTail.toNat = (s.err.erTail.toNat + 1) % 2 ^ s.err.erLog2.toNat % 2 ^ 16
        ∧ t.err.erPhase = (if (s.err.erTail.toNat + 1) % 2 ^ s.err.erLog2.toNat = 0 then !s.err.erPhase else s.err.erPhase)
        ∧ (∃ more, t.out = s.out
            ++ .errEntry s.err.erTail.toNat { r with phase := s.err.erPhase, loss := s.err.hostLoss } :: more)
        ∧ t = { s with err := { s.err with hostQ := q, hostLoss := false, erTail := t.err.erTail, erPhase := t.err.erPhase,
                                           unsignalled := t.err.unsignalled },
                       host := { s.host with pba := t.host.pba }, out := t.out })
  ∧ ∀ s : State, (s.err.hostQ = [] ∨ s.err.erEnable = false ∨
      (s.err.erTail.toNat + 1) % 2 ^ s.err.erLog2.toNat = s.err.erHead.toNat % 2 ^ s.err.erLog2.toNat) →
      exec .errorRingWrite s = .next s

/-- R498 and R500 on the management queue; a count out of range is the model's choice (log entry 30). -/
def Obligations.ManagementRecordDelivery : Prop :=
  (∀ (n : Byte) (s : State), 1 ≤ n.toNat → n.toNat ≤ 8 →
    ∃ t, exec (.getRecords n) s = .next t
      ∧ t.err.mgmtQ.map (·.er) = s.err.mgmtQ.map (·.er)
      ∧ (∃ rs, t.out = s.out ++ [.mgmt 1 0 [] rs]
          ∧ rs.map (fun r => { r with loss := false })
              = (((s.err.mgmtQ.filter (fun x => !x.returned)).take n.toNat).map fun x => { x.er with loss := false })
          ∧ ∀ r ∈ rs.tail, ∃ x ∈ s.err.mgmtQ, x.er = r)
      ∧ t.err.mgmtQ.filter (fun x => !x.returned) = (s.err.mgmtQ.filter (fun x => !x.returned)).drop n.toNat
      ∧ (alert t = true ↔ n.toNat < (s.err.mgmtQ.filter (fun x => !x.returned)).length)
      ∧ t = { s with err := { s.err with mgmtQ := t.err.mgmtQ, mgmtLoss := t.err.mgmtLoss },
                     ident := { s.ident with mctpMessages := s.ident.mctpMessages + 1 }, out := t.out })
  ∧ (∀ (n : Byte) (s : State), n.toNat = 0 ∨ 8 < n.toNat →
      ∃ t, exec (.getRecords n) s = .next t ∧ t.err = s.err ∧ t.out = s.out ++ [.mgmt 1 3 [] []])
  ∧ ∀ (q : W32) (s : State), ∃ t, exec (.ackRecords q) s = .next t
      ∧ (∀ x, x ∈ t.err.mgmtQ ↔ x ∈ s.err.mgmtQ ∧ ¬(x.returned = true ∧ (q - x.er.seq).toNat < 2 ^ 31))
      ∧ t = { s with err := { s.err with mgmtQ := t.err.mgmtQ },
                     ident := { s.ident with mctpMessages := s.ident.mctpMessages + 1 }, out := s.out ++ [.mgmt 2 0 [] []] }

/-- The state with one more MCTP message counted (Table 19.3). -/
def Sys2Proof.Spec.counted (s : State) : State :=
  { s with ident := { s.ident with mctpMessages := s.ident.mctpMessages + 1 } }

/-- The read commands of Tables 17.4 and 18.4, SET_CALENDAR, and the I3C address. -/
def Obligations.ManagementReads : Prop :=
  (∀ (k : Byte) (s : State), k.toNat < 16 →
    exec (.getCper k) s = .next { counted s with out := s.out ++ [.mgmtCper k.toNat (look (fun _ => none) s.err.slots k.toNat)] })
  ∧ (∀ s : State, exec .getCounts s = .next { counted s with out := s.out ++ [.mgmt 4 0
      [s.err.raised, s.err.hostDropped, s.err.mgmtDropped, s.err.merged, s.err.memCorrected, s.err.memUncorrected,
       BitVec.ofNat 32 s.err.framesRetired.toNat, s.err.cperCount, 0, s.err.lastSeq] []] })
  ∧ (∀ s : State, ∃ ws, exec .getLarder s = .next { counted s with out := s.out ++ [.mgmt 0x10 0 ws []] } ∧ ws.length = 128
      ∧ ws.getLast? = some (crc32 (wordsBytes (ws.take 127))) ∧ ws.head? = some s.lar.flash.version)
  ∧ (∀ (i : W16) (n : Byte) (s : State), 1 ≤ n.toNat → n.toNat ≤ 8 →
      exec (.getEvents i n) s
        = .next { counted s with out := s.out ++ [.mgmtEvents ((s.lar.events.reverse.drop i.toNat).take n.toNat)] }
      ∧ exec (.getAgeing i n) s
        = .next { counted s with out := s.out ++ [.mgmtAges ((s.lar.ages.reverse.drop i.toNat).take n.toNat)] })
  ∧ (∀ (f : W32) (n : Byte) (s : State), 1 ≤ n.toNat → n.toNat ≤ 64 → f.toNat + n.toNat ≤ 2227680 →
      ∃ ws, exec (.getPlanes f n) s = .next { counted s with out := s.out ++ [.mgmt 0x13 0 ws []] } ∧ ws.length = n.toNat
        ∧ ∀ i < n.toNat, ∃ r : PlaneRec, r = look (fun _ => ({} : PlaneRec)) s.lar.planes (f.toNat + i)
            ∧ ws.getD i 0 = BitVec.ofNat 32 (r.count.toNat + 2 ^ 16 * bit r.resident + 2 ^ 17 * r.slot.toNat))
  ∧ (∀ (secs : W64) (frac : W32) (s : State), secs.toNat < 2 ^ 49 → frac.toNat < 2 ^ 15 →
      exec (.setCalendar secs frac) s = .next { counted s with
        lar := { s.lar with calSets := s.lar.calSets ++ [BitVec.ofNat 64 (secs.toNat * 2 ^ 15 + frac.toNat)] },
        out := s.out ++ [.mgmt 0x14 0 [] []] })
  ∧ ∀ (a : BitVec 7) (s : State), 4 ≤ s.su.phase.toNat →
      exec (.i3cAddressAssign a) s = .next { s with ident := { s.ident with i3cAddr := a, addrValid := true } }

/-- The state with an SPDM request counted where it came over MCTP. -/
def Sys2Proof.Spec.heard (p : SpdmPort) (s : State) : State := if p = .mctp then counted s else s

/-- R436 and R437; the response codes are the published standard's (log entry 29), digests and signatures open (entry 11). -/
def Obligations.SpdmResponder : Prop :=
  ∀ (p : SpdmPort) (s : State),
    (p = .doe → 2 ≤ s.su.phase.toNat →
      (∃ t, exec (.getVersion p) s = .next t ∧ t.out = s.out ++ [.spdm p 0x04 [0x12] [] []] ∧ p ∉ t.su.negotiated)
      ∧ exec (.getCapabilities p) s = .next { s with out := s.out ++ [.spdm p 0x61 [0x12, 0x2D6] [] []] }
      ∧ ∀ (sig hash : W32) (dhe aead : W16),
          ∃ t, exec (.negotiateAlgorithms { port := p, asym := sig, hash := hash, dhe := dhe, aead := aead }) s = .next t
          ∧ t = { s with su := { s.su with negotiated := t.su.negotiated }, out := t.out }
          ∧ (p ∈ t.su.negotiated ↔ bitOf sig.toNat 8 = true ∧ bitOf hash.toNat 2 = true ∧ bitOf dhe.toNat 5 = true
              ∧ bitOf aead.toNat 1 = true)
          ∧ t.out = s.out ++ [.spdm p 0x63 [BitVec.ofNat 32 (0x100 * bit (bitOf sig.toNat 8)),
              BitVec.ofNat 32 (4 * bit (bitOf hash.toNat 2)), 8, BitVec.ofNat 32 (0x20 * bit (bitOf dhe.toNat 5)),
              BitVec.ofNat 32 (2 * bit (bitOf aead.toNat 1))] [] []])
    ∧ (p = .doe → s.su.phase.toNat < 2 →
        exec (.getVersion p) s = .next { s with out := s.out ++ [.spdm p 0x7F [3] [] []] }
        ∧ exec (.getDigests p) s = .next { s with out := s.out ++ [.spdm p 0x7F [3] [] []] })
    ∧ (p = .mctp → s.su.phase.toNat < 5 → exec (.getDigests p) s = .next (counted s))
    ∧ ((s.su.phase = 5 ∨ s.su.phase = 6 ∨ s.su.phase = 7) → p ∈ s.su.negotiated →
      (∃ t d, exec (.getDigests p) s = .next t ∧ t.out = s.out ++ [.spdm p 0x01 [1] [d] []] ∧ t = { heard p s with out := t.out })
      ∧ (∀ o l, ∃ t, exec (.getCertificate p 0 o l) s = .next t
          ∧ t.out = s.out ++ [.spdm p 0x02 [BitVec.ofNat 32 (((certChain s).drop o.toNat).take l.toNat).length,
              BitVec.ofNat 32 ((certChain s).drop (o.toNat + l.toNat)).length] [] (((certChain s).drop o.toNat).take l.toNat)]
          ∧ t = { heard p s with out := t.out })
      ∧ (∀ n, ∃ t d, exec (.challenge p 0 n) s = .next t ∧ t.out = s.out ++ [.spdm p 0x03 [] d []]
          ∧ t = { heard p s with out := t.out, fresh := s.fresh + 1 })
      ∧ (∀ k n o l, k ≠ 0 → exec (.getCertificate p k o l) s = exec (.challenge p k n) s)
      ∧ (∀ n, (∃ t d, exec (.getMeasurements p 5 n) s = .next t
            ∧ t.out = s.out ++ [.spdm p 0x60 [BitVec.ofNat 32 (bit s.su.slotB + 2 * bit s.ident.debug), s.su.secVersion] d []])
          ∧ ∃ t d, exec (.getMeasurements p 6 n) s = .next t ∧ t.out = s.out ++ [.spdm p 0x60 [s.su.floorAtStart] d []])
      ∧ (∀ i, (∀ x ∈ s.su.sessions, ¬(x.port = p ∧ x.id = i)) →
          ∃ t d, exec (.keyExchange p 0 i) s = .next t ∧ t.out = s.out ++ [.spdm p 0x64 [BitVec.ofNat 32 i.toNat] d []]
            ∧ t.su.sessions = s.su.sessions ++ [{ port := p, id := i, finished := false }])
      ∧ ∀ x ∈ s.su.sessions, x.port = p →
          (∃ t, exec (.finish p x.id) s = .next t ∧ t.out = s.out ++ [.spdm p 0x65 [] [] []]
            ∧ (∀ y, y ∈ t.su.sessions → y.port = p → y.id = x.id → y.finished = true)
            ∧ t.su.sessions.length = s.su.sessions.length)
          ∧ ∃ t, exec (.endSession p x.id) s = .next t ∧ t.out = s.out ++ [.spdm p 0x6C [] [] []]
            ∧ ∀ y, y ∈ t.su.sessions ↔ y ∈ s.su.sessions ∧ ¬(y.port = p ∧ y.id = x.id))

/-- These words are the next message for firmware, with the mailbox's SEQ, and firmware is free to answer it. -/
def Sys2Proof.Spec.Asked (ws : List W32) (s : State) : Prop :=
  nextMsg s = some ((mbox s 0).seq, ws) ∧ s.mail.outQ = [] ∧ maySend (mbox s 1) = true

/-- The message is released and acknowledged, and the one reply stands in the firmware-to-host mailbox: TYPE with bit 7
set, WORDS, the TAG of the request, the status, and the reply words (R412). -/
def Sys2Proof.Spec.Answered (ws : List W32) (status : Nat) (more : List W32) (s t : State) : Prop :=
  (s.mail.inQ = [] → (mbox t 0).full = false) ∧ t.mail.inQ = s.mail.inQ.tail ∧ (mbox t 0).ack = true ∧ (mbox t 0).seq = (mbox s 0).seq
    ∧ (mbox t 1).full = true ∧ (mbox t 1).seq = (mbox s 1).seq + 1 ∧ (mbox t 1).sent = (mbox s 1).sent + 1
    ∧ (look (fun _ => (0 : W32)) (mbox t 1).data 0).toNat
        = 128 + msgType ws + 2 ^ 8 * (1 + more.length) + 2 ^ 16 * (msgAt ws 0 / 2 ^ 16)
    ∧ (look (fun _ => (0 : W32)) (mbox t 1).data 1).toNat = status
    ∧ ∀ i < more.length, look (fun _ => (0 : W32)) (mbox t 1).data (2 + i) = more.getD i 0

/-- R412 and R413: each row of Table 13.6. -/
def Obligations.HostMessagesAnswered : Prop :=
  (∀ (ws : List W32) (s : State), Asked ws s →
    (fld (msgAt ws 0) 12 4 ≠ 0 → ∀ i ∈ [Instr.ping, .calendarSet, .calendarGet, .powerLimitSet .hostMsg 0, .powerLimitGet],
      ∃ t, exec i s = .next t ∧ Answered ws 3 [] s t ∧ t.lar = s.lar ∧ t.pow = s.pow)
    ∧ (fld (msgAt ws 0) 12 4 = 0 →
    (msgType ws = 0 ∨ 5 < msgType ws → ∃ t, exec .ping s = .next t ∧ Answered ws 1 [] s t ∧ t.lar = s.lar ∧ t.pow = s.pow)
    ∧ (msgType ws = 1 → msgWords ws = 0 → ∃ t, exec .ping s = .next t ∧ Answered ws 0 [s.ident.fwVersion] s t ∧ t.lar = s.lar
      ∧ t.pow = s.pow)
    ∧ (msgType ws = 2 → msgWords ws = 3 → msgAt ws 2 < 2 ^ 17 → msgAt ws 3 < 2 ^ 15 →
        ∃ t, exec .calendarSet s = .next t ∧ Answered ws 0 [] s t ∧ t.pow = s.pow
          ∧ t.lar = { s.lar with calSets := s.lar.calSets
              ++ [BitVec.ofNat 64 ((msgAt ws 1 + msgAt ws 2 * 2 ^ 32) * 2 ^ 15 + msgAt ws 3)] })
    ∧ (msgType ws = 2 → msgWords ws = 3 → 2 ^ 15 ≤ msgAt ws 3 →
        ∃ t, exec .calendarSet s = .next t ∧ Answered ws 3 [] s t ∧ t.lar = s.lar)
    ∧ (msgType ws = 3 → msgWords ws = 0 → ∃ t, exec .calendarGet s = .next t
        ∧ Answered ws 0 [BitVec.ofNat 32 (s.lar.calendar.toNat / 2 ^ 15), BitVec.ofNat 32 (s.lar.calendar.toNat / 2 ^ 47),
            BitVec.ofNat 32 (s.lar.calendar.toNat % 2 ^ 15)] s t ∧ t.lar = s.lar)
    ∧ (msgType ws = 4 → msgWords ws = 1 → 300 ≤ msgAt ws 1 → msgAt ws 1 ≤ 850 → msgAt ws 1 % 25 = 0 →
        ∃ t, exec (.powerLimitSet .hostMsg 0) s = .next t ∧ Answered ws 0 [] s t
          ∧ t.pow = { s.pow with nextLimit := some (BitVec.ofNat 10 (msgAt ws 1), .hostMsg) })
    ∧ (msgType ws = 4 → msgWords ws ≠ 1 → ∃ t, exec (.powerLimitSet .hostMsg 0) s = .next t ∧ Answered ws 2 [] s t
        ∧ t.pow = s.pow)
    ∧ (msgType ws = 5 → msgWords ws = 0 → ∃ t, exec .powerLimitGet s = .next t ∧ Answered ws 0
        [BitVec.ofNat 32 s.pow.limitSet.toNat, BitVec.ofNat 32 s.pow.limitForce.toNat] s t ∧ t.pow = s.pow)))
  ∧ ∀ (w : W32) (s : State), 300 ≤ w.toNat → w.toNat ≤ 850 → w.toNat % 25 = 0 →
      exec (.powerLimitSet .mgmtMsg w) s = .next { counted s with
        pow := { s.pow with nextLimit := some (BitVec.ofNat 10 w.toNat, .mgmtMsg) }, out := s.out ++ [.mgmt 0x04 0 [] []] }

/-- A link width and speed code that the part supports (R363). -/
def Sys2Proof.Spec.trains (w : BitVec 5) (v : BitVec 4) : Bool :=
  (w.toNat == 8 || w.toNat == 16) && (v.toNat == 5 || v.toNat == 6)

/-- The die rails are up and nothing holds the part off, and it is no member of a domain. -/
def Sys2Proof.Spec.RunsAlone (s : State) : Prop :=
  s.pow.inputGood = true ∧ s.pow.modReset = false ∧ s.pow.tripped = false ∧ s.fab.st ≠ 2

/-- Runtime state is lost (Table 12.13): bindings, records, rings, counters and device memory are at their reset values; the
flash's records and the planes' cells are kept. -/
def Sys2Proof.Spec.Lost (s t : State) : Prop :=
  t.ten = {} ∧ t.srv = {} ∧ t.mail = {} ∧ t.err = {} ∧ t.mon = {} ∧ t.mem = [] ∧ t.host.rings = [] ∧ t.host.work = []
    ∧ t.host.quiesce = false ∧ t.ident = { variant := s.ident.variant } ∧ t.hw.cores = [] ∧ t.hw.engines = []
    ∧ t.hw.clusters = [] ∧ (SMapWf planeReset s.hw.planes = true → ∀ n, (plane t n).cells = (plane s n).cells)
    ∧ t.lar.flash = s.lar.flash ∧ t.lar.planes = s.lar.planes ∧ t.lar.slots = s.lar.slots
    ∧ t.lar.repair = s.lar.repairFlash ∧ t.lar.events = s.lar.events ∧ t.lar.ages = s.lar.ages

/-- Start-up begins at this phase with this RESTART_CAUSE, and runtime state is lost. -/
def Sys2Proof.Spec.Restarted (phase cause : Nat) (s t : State) : Prop :=
  Lost s t ∧ t.su.phase.toNat = phase ∧ t.su.restartCause.toNat = cause ∧ t.su.enabled = false ∧ t.fab.st = 0
    ∧ t.pow.railsUp = true ∧ (phase = 1 → t.lar.calendar = s.lar.calendar)

/-- R368, R397 and R429. -/
def Obligations.ResetsLoseRuntimeState : Prop :=
  (∀ s : State, RunsAlone s → s.su.phase ≠ 0 →
    (∃ t, exec .functionLevelReset s = .next t ∧ Restarted 1 1 s t)
    ∧ (∃ t, exec .hotReset s = .next t ∧ Restarted 1 1 s t)
    ∧ (∃ t, exec .conventionalReset s = .next t ∧ Restarted 1 1 s t ∧ t.su.perst = false ∧ t.host.width = 0)
    ∧ (s.host.quiesced = false → ∃ t, exec .linkDown s = .next t ∧ Restarted 1 2 s t
        ∧ t.host.width = (if s.su.perst ∧ trains s.su.trainWidth s.su.trainSpeed then s.su.trainWidth else 0)))
  ∧ (∀ s : State, s.host.quiesced = true → exec .linkDown s = .next { s with host := { s.host with
      width := 0, speed := 0, degraded := false, recovery := false, reads := [] } })
  ∧ ∀ (w : BitVec 5) (v : BitVec 4) (s : State),
      (s.su.phase = 0 → ∃ t, exec (.perstDeassert w v) s = .next t ∧ t.su.perst = true ∧ t.host = s.host)
      ∧ (s.su.phase ≠ 0 → ∃ t, exec (.perstDeassert w v) s = .next t ∧ t.su.perst = true
          ∧ t.host.width = (if trains w v then w else 0) ∧ t.host.speed = (if trains w v then v else 0)
          ∧ t.host.degraded = (trains w v && decide (w.toNat < 16 ∨ v.toNat < 6)) ∧ t.host.rings = s.host.rings
          ∧ t = { s with su := t.su, host := t.host, out := t.out })

/-- An image runs (Table 19.7, phase 1): its fields and settings are in force, and phase 2 is entered. -/
def Sys2Proof.Spec.Running (isB : Bool) (i : ImageFact) (f : PhaseFacts) (s t : State) : Prop :=
  t.su.phase = 2 ∧ t.su.slotB = isB ∧ t.su.secVersion = BitVec.ofNat 32 (imgVersion i)
    ∧ t.su.buildId = BitVec.ofNat 64 (imgBuild i) ∧ t.su.measured = some (imgMeasured i)
    ∧ (∃ n, t.su.aliasKey = some { digest := imgDigest i, version := BitVec.ofNat 32 (imgVersion i),
                                   debug := bitOf (imgFlags i) 1, start := n })
    ∧ t.ident.fwVersion = i.fwVersion ∧ t.ident.debug = bitOf (imgFlags i) 1 ∧ t.su.auto = bitOf (imgFlags i) 0
    ∧ t.pow.limitSet = BitVec.ofNat 10 (leAt (sectionOf i 3) 2 2) ∧ t.pow.limitForce = t.pow.limitSet
    ∧ t.mon.calDelta = BitVec.ofNat 5 (leAt (sectionOf i 3) 1 1) ∧ t.su.flash = flashMode f.flash
    ∧ t.lar = { s.lar with live := { s.lar.live with
        floor := if f.noFloor then 1 else s.lar.live.floor } } ∧ t.hw = s.hw

/-- R423, R426 and R427. -/
def Obligations.StartUpPhases : Prop :=
  (∀ s : State, s.pow.inputGood = true → s.pow.modReset = false → s.pow.tripped = false →
    ∃ t, exec .coldStart s = .next t ∧ Restarted 0 0 s t ∧ t.lar.calendar = s.lar.flash.calendar ∧ t.lar.calRest = true)
  ∧ ∀ (f : PhaseFacts) (s : State), s.pow.railsUp = true → s.su.phase0Done = false →
    (s.su.phase = 0 → ∃ t, exec (.startupPhaseEnd f) s = .next t
      ∧ t.su.phase = (if s.pow.flashFree then 0 else 1) ∧ t.su.phase0Done = s.pow.flashFree)
    ∧ (s.su.phase = 1 →
        (∀ a2 b2 x y b free fl, a2 = readSlot f f.slotA → b2 = readSlot f f.slotB → b = firstIsB a2 b2 →
          x = (if b then b2 else a2) → y = (if b then a2 else b2) →
          free = (Config.freeByte s.fresh).toNat → fl = (if f.noFloor then 1 else s.lar.live.floor.toNat) →
          (verifyImage free fl x = none → ∃ t, exec (.startupPhaseEnd f) s = .next t ∧ Running b x f s t)
          ∧ ((verifyImage free fl x).isSome = true → verifyImage free fl y = none →
              ∃ t, exec (.startupPhaseEnd f) s = .next t ∧ Running (!b) y f s t)
          ∧ ∀ r q, verifyImage free fl x = some r → verifyImage free fl y = some q →
              ∃ t, exec (.startupPhaseEnd f) s = .next t ∧ t.su.phase = 8 ∧ t.su.reason.toNat = r.1 % 256
                ∧ t.su.detail = BitVec.ofNat 32 (bit b + q.1 * 2 ^ 8 + r.2) ∧ t.su.enabled = s.su.enabled))
    ∧ (s.su.phase = 2 ∨ s.su.phase = 3 ∨ s.su.phase = 4 →
        ∃ t, exec (.startupPhaseEnd f) s = .next t ∧ t.su.phase = s.su.phase + 1
          ∧ (s.su.phase = 2 → ∀ m < 14, (conv t m).st = 1) ∧ (s.su.phase = 4 → t.ten.partKey.isSome = true))
    ∧ (s.su.phase = 5 → ∃ t, exec (.startupPhaseEnd f) s = .next t
        ∧ ((t.su.phase = 5 ∧ ∃ p < 112, enabledCl t p = true ∧ ((cluster t p).cal.running || (cluster t p).cal.due) = true)
          ∨ ((t.su.phase = 6 ∨ (t.su.phase = 7 ∧ t.su.enabled = true ∧ (s.su.auto = true ∨ s.su.enableBit = true)))
            ∧ t.mail.lead = pickLead t)))

/-- R431 and R432, with the floor of R424. -/
def Obligations.DeviceEnableCheck : Prop :=
  ∀ (v : W32) (s : State), bitOf v.toNat 0 = true →
    (s.su.phase.toNat < 6 → exec (.enable v) s = .next { s with su := { s.su with enableBit := true, checkBusy := true } })
    ∧ (s.su.phase = 7 ∨ s.su.phase = 8 → exec (.enable v) s = .next { s with su := { s.su with enableBit := false } })
    ∧ (s.su.phase = 6 →
      (∀ item detail, firstFailure s = some (item, detail) →
        ∃ t, exec (.enable v) s = .next t ∧ t.su.phase = 6 ∧ t.su.enabled = s.su.enabled ∧ t.su.checks = s.su.checks + 1
          ∧ t.su.refused = s.su.refused + 1 ∧ t.su.reason = BitVec.ofNat 8 item ∧ t.su.detail = BitVec.ofNat 32 detail
          ∧ t.su.enableBit = false ∧ t.su.checkBusy = false ∧ Raised 0x90 3 (item % 2 ^ 32) (detail % 2 ^ 32) 0 s t
          ∧ t.hw = s.hw ∧ t.ten = s.ten)
      ∧ (firstFailure s = none →
        ∃ t, exec (.enable v) s = .next t ∧ t.su.phase = 7 ∧ t.su.enabled = true ∧ t.su.reason = 0 ∧ t.su.detail = 0
          ∧ t.su.checks = s.su.checks + 1 ∧ t.su.refused = s.su.refused ∧ t.su.enableBit = false ∧ t.su.checkBusy = false
          ∧ t.lar.live.floor.toNat = max s.lar.live.floor.toNat s.su.secVersion.toNat ∧ t.su.floor = t.lar.live.floor
          ∧ t.err = s.err ∧ t.ten = s.ten)
      ∧ (∀ item detail, firstFailure s = some (item, detail) →
          ∀ i, 0x10 ≤ i → i < item → i ≠ 0x11 → i ≠ 0x17 → look (fun _ => none) s.su.failures i = none))

/-- R539 and R540 (and R418's release of the bus). -/
def Obligations.ModulePins : Prop :=
  (∀ s : State, s.pow.modReset = false → ∃ t, exec .modResetLow s = .next t ∧ Lost s t ∧ t.pow.modReset = true
    ∧ t.pow.railsUp = false ∧ t.su.restartCause = 0 ∧ t.pow.flashFree = s.pow.flashOwn)
  ∧ (∀ s : State, s.pow.modReset = true → s.pow.inputGood = true → s.pow.tripped = false →
      ∃ t, exec .modResetHigh s = .next t ∧ Restarted 0 0 s t ∧ t.pow.modReset = false ∧ t.pow.flashFree = s.pow.flashFree)
  ∧ (∀ s : State, exec .flashOwnAssert s
      = .next { s with pow := { s.pow with flashOwn := true, flashFree := s.pow.flashFree || s.pow.modReset } })
  ∧ (∀ s : State, s.su.phase0Done = false →
      exec .flashOwnDeassert s = .next { s with pow := { s.pow with flashOwn := false, flashFree := false } })
  ∧ ∀ s : State, s.su.phase0Done = true → ∃ t, exec .flashOwnDeassert s = .next t ∧ t.su.phase = 1
      ∧ t.su.phase0Done = false ∧ t.pow.flashFree = false

/-- R461, R472 to R474 and R536. -/
def Obligations.TripsAndInputLoss : Prop :=
  (∀ (d : Option (Fin 112)) (s : State), s.pow.railsUp = true → s.pow.inputGood = true → s.pow.modReset = false →
    s.pow.tripTimes.length ≤ 4 →
    ∃ t, exec (.trivetTrip d) s = .next t ∧ Lost s t ∧ t.pow.railsUp = false ∧ t.pow.tripped = true
      ∧ t.su.restartCause = 3 ∧ t.pow.tripTick = s.pow.ticks
      ∧ t.pow.tripRecs = s.pow.tripRecs ++ [{ diode := (d.map fun x => BitVec.ofNat 7 x.val).getD 0x7F,
                                              beat := s.fab.beat, tick := s.pow.ticks,
                                              latch := if 3 ≤ s.pow.tripTimes.length
                                                  ∧ s.pow.ticks - s.pow.tripTimes.getD (s.pow.tripTimes.length - 3) 0 < 3600 * 32768
                                                then some (s.pow.tripTimes.getD (s.pow.tripTimes.length - 3) 0) else none }]
      ∧ (t.pow.latched = true ↔ s.pow.latched = true ∨
          (3 ≤ s.pow.tripTimes.length
            ∧ s.pow.ticks - s.pow.tripTimes.getD (s.pow.tripTimes.length - 3) 0 < 3600 * 32768)))
  ∧ (∀ s : State, s.pow.tripped = true → s.pow.inputGood = true → s.pow.modReset = false →
      (s.pow.latched = false → 3277 ≤ s.pow.ticks - s.pow.tripTick →
        ∃ t, exec .trivetRelease s = .next t ∧ Restarted 0 3 s t ∧ t.pow.tripped = false)
      ∧ (s.pow.latched = true ∨ s.pow.ticks - s.pow.tripTick < 3277 → exec .trivetRelease s = .next s))
  ∧ (∀ s : State, s.pow.inputGood = true →
      ∀ c ∈ [Instr.inputLoss, Instr.pwrSenseOpen], ∃ t, exec c s = .next t ∧ Lost s t ∧ t.pow.inputGood = false
        ∧ t.pow.railsUp = false ∧ t.su.restartCause = 0 ∧ t.lar.queue = s.lar.queue.take 1)
  ∧ (∀ s : State, s.pow.inputGood = false →
      (s.pow.modReset = false → ∃ t, exec .inputRestore s = .next t ∧ Restarted 0 0 s t ∧ t.pow.inputGood = true
        ∧ t.pow.latched = false)
      ∧ ∃ t, exec .holdUpEnd s = .next t ∧ t.pow.tripRecs = [] ∧ t.pow.tripTimes = [] ∧ t.pow.latched = false
          ∧ t.lar.calendar = 0 ∧ t.lar.flash = s.lar.flash ∧ t.hw = s.hw)

/-- STEP after a window end (R468), whose temperatures are those of `u`. -/
def Sys2Proof.Spec.stepAfter (s u : State) : Nat :=
  if (poweredClusters s).any (fun p => decide (1520 < tempAt u p)) then min 16 (s.pow.step.toNat + 1)
  else if (poweredClusters s).all (fun p => decide (tempAt u p < 1440)) then s.pow.step.toNat - 1
  else s.pow.step.toNat

/-- Firmware shuts the part down at a window end (R476). -/
def Sys2Proof.Spec.shuts (s u : State) : Bool :=
  (poweredClusters s).any (fun p => decide (1680 ≤ tempAt u p))
  && (stepAfter s u == 16 || max 300 (((s.pow.nextLimit.map (·.1)).getD s.pow.limitSet).toNat - 25 * stepAfter s u) == 300)

/-- R467 to R469 and R476 at a window end. -/
def Obligations.WindowEndThrottle : Prop :=
  (∀ (d : WindowData) (s u : State), viewOn s = true → u = updateTemps s → shuts s u = false →
    ∃ t, exec (.windowEnd d) s = .next t ∧ t.pow.step.toNat = stepAfter s u
      ∧ t.pow.limitSet = ((s.pow.nextLimit.map (·.1)).getD s.pow.limitSet) ∧ t.pow.nextLimit = none
      ∧ t.pow.limitForce.toNat = max 300 (t.pow.limitSet.toNat - 25 * t.pow.step.toNat)
      ∧ (t.pow.limitForce ≠ s.pow.limitForce → ∀ p < 112, enabledCl s p = true → (cluster t p).pow.share
          = BitVec.ofNat 16 ((t.pow.limitForce.toNat - s.pow.pBase.toNat) * 1000 / 96))
      ∧ (∀ p, tempAt t p = tempAt u p)
      ∧ t.pow.avg = d.powerAvg ∧ t.pow.peak = d.powerPeak ∧ t.pow.inputV = d.inputV
      ∧ (s.mon.conv = [] → ∀ p, tempAt t p = tempAt s p)
      ∧ (d.clusters = [] → t.pow.hot = (poweredClusters s).any (fun p => decide (1520 < tempAt u p))
          ∧ t.pow.trips = s.pow.trips ∧ t.ten = s.ten ∧ t.srv = s.srv ∧ MemKept s t))
  ∧ (∀ (d : WindowData) (s u : State), viewOn s = true → u = updateTemps s → shuts s u = true → d.clusters = [] →
      ∃ t, exec (.windowEnd d) s = .next t ∧ t.ten = {} ∧ t.srv = {} ∧ t.mem = [] ∧ t.host.rings = [] ∧ t.pow.tripped = true ∧ t.pow.railsUp = false ∧ t.su.restartCause = 3)
  ∧ ∀ (d : WindowData) (s : State), viewOn s = false → exec (.windowEnd d) s = .next s

/-- R464, R466, R470 and the wake of R408. -/
def Obligations.ClusterPoints : Prop :=
  ∀ (p : Fin 112) (s : State),
    (∀ w : W16, enabledCl s p.val = true → viewOn s = true → (cluster s p.val).pow.valid = 0xFF →
      ∃ t, exec (.powerWindowEnd p w) s = .next t ∧ (∀ q, q ≠ p.val → cluster t q = cluster s q)
        ∧ (cluster t p.val).pow.power = w
        ∧ (w.toNat ≤ (cluster s p.val).pow.share.toNat ∨ (cluster s p.val).pow.point = 7 →
            (cluster t p.val).pow.point = (cluster s p.val).pow.point
            ∧ (cluster t p.val).pow.drops = (cluster s p.val).pow.drops ∧ t.err = s.err)
        ∧ ((cluster s p.val).pow.share.toNat < w.toNat → (cluster s p.val).pow.point ≠ 7 →
            (cluster t p.val).pow.point = (cluster s p.val).pow.point + 1
            ∧ (cluster t p.val).pow.drops = (cluster s p.val).pow.drops + 1))
    ∧ ((cluster s p.val).pow.valid = 0xFF → (cluster s p.val).pow.point ≠ 0 →
        (∀ w, (cluster s p.val).pow.settle = some w → w.toNat ≤ s.fab.beat.toNat) →
        (cluster s p.val).pow.settle.isSome = true →
        ∃ t, exec (.pointSettle p) s = .next t ∧ (∀ q, q ≠ p.val → cluster t q = cluster s q)
          ∧ (cluster t p.val).pow.point = (cluster s p.val).pow.point - 1 ∧ (cluster t p.val).pow.settle = none
          ∧ (cluster t p.val).pow.volt = (cluster s p.val).pow.volt)
    ∧ (clusterIdle s p.val = true → viewOn s = true → (cluster s p.val).pow.clkGated = true →
        1024 ≤ (cluster s p.val).pow.idle →
        ∃ t, exec (.clusterPowerGate p) s = .next t ∧ (∀ q, q ≠ p.val → cluster t q = cluster s q)
          ∧ cluster t p.val = { cluster s p.val with pow := { (cluster s p.val).pow with gated := true } })
    ∧ (enabledCl s p.val = false → exec (.clusterWake p) s = .next s)
    ∧ (enabledCl s p.val = true → ∃ t, exec (.clusterWake p) s = .next t ∧ (∀ q, q ≠ p.val → cluster t q = cluster s q)
        ∧ (cluster t p.val).pow.clkGated = false ∧ (cluster t p.val).pow.gated = false
        ∧ ((mbox s (2 + p.val)).full = true → (mbox t (2 + p.val)).irq = true)
        ∧ t = { s with hw := { s.hw with clusters := t.hw.clusters }, mail := { s.mail with boxes := t.mail.boxes } })

/-- R481; the tables' voltages and START_STEP values are open (log entry 10). -/
def Obligations.AgeingReplan : Prop :=
  ∀ (p : Fin 112) (cause : Byte) (steps : Int) (now : Nat) (s : State), enabledCl s p.val = true → (cluster s p.val).pow.due = true →
    now = (cluster s p.val).pow.vDelta.toNat + look (fun _ => 0) (cluster s p.val).pow.raises (cluster s p.val).pow.point.toNat →
    0 ≤ (now : Int) + steps → (now : Int) + steps < 256 →
    ((∀ i < 18, boundOf s (18 * p.val + i) = none) →
    ∃ t, exec (.replanComplete p { cause := cause, steps := steps }) s = .next t
      ∧ ((cluster t p.val).pow.vDelta.toNat : Int) = now + steps ∧ (cluster t p.val).pow.raises = []
      ∧ (∀ k < 8, bitOf (cluster t p.val).pow.valid.toNat k = (bitOf (cluster s p.val).pow.valid.toNat k
          && decide (Config.tableVolt p.val k % 2 ^ 16 + 5 * (cluster t p.val).pow.vDelta.toNat ≤ 850)))
      ∧ (cluster t p.val).pow.due = false ∧ t.pow.replans = s.pow.replans + 1
      ∧ (cluster t p.val).st = (if bitOf (cluster t p.val).pow.valid.toNat 0 then 0 else 3)
      ∧ (∀ e ∈ inUseEngines s p.val, (engine t e).startStep =
          if lateHigh (engine s e).lateMax then
            (if (engine s e).startStep = 15 then 15 else (engine s e).startStep + 1)
          else if lateLow (engine s e).lateMax ∧ (Config.tableStartStep e).toNat < (engine s e).startStep.toNat then
            (engine s e).startStep - 1
          else (engine s e).startStep)
      ∧ (∀ e, e ∉ inUseEngines s p.val → engine t e = engine s e)
      ∧ (∃ e : AgeEntry, { prio := 4, copyB := false, job := FlashJob.ageing e } ∈ t.lar.queue ∧ e.cluster.toNat = p.val
          ∧ e.cause = cause ∧ e.vDelta = (cluster t p.val).pow.vDelta ∧ e.valid = (cluster t p.val).pow.valid)
      ∧ MemKept s t)
    ∧ (∀ i < 18, (∀ j < i, boundOf s (18 * p.val + j) = none) → (boundOf s (18 * p.val + i)).isSome = true →
      (windowOpen s (18 * p.val + i) 2 0 = true →
        ∃ t, exec (.replanComplete p { cause := cause, steps := steps }) s = .next t
          ∧ cluster t p.val = { cluster s p.val with pow := { (cluster s p.val).pow with
              replan := some (18 * p.val + i, { cause := cause, steps := steps }) } }
          ∧ (∀ q, q ≠ p.val → cluster t q = cluster s q) ∧ t = { s with hw := { s.hw with clusters := t.hw.clusters } })
      ∧ ((∀ j < 18, windowOpen s (18 * p.val + j) 2 0 = false) →
        exec (.replanComplete p { cause := cause, steps := steps }) s = .next s))

/-- R444 and R445. -/
def Obligations.MonitorSamplesAndSnapshot : Prop :=
  (∀ (m : Fin 14) (e : Fin 16) (v : Int) (s : State), (conv s m.val).st = 2 → nextEntry (conv s m.val) = some e.val →
    ∃ t, exec (.monitorSample m e v) s = .next t ∧ (∀ j, j ≠ m.val → conv t j = conv s j)
      ∧ t = { s with mon := { s.mon with conv := t.mon.conv } }
      ∧ (conv t m.val).pos = some e.val ∧ bitOf (convCfg s m.val e.val) 18 = true
      ∧ (∀ w c, (w, c) = sampleResult s m.val e.val v →
          ∀ f ∈ [Conv.fw, Conv.host],
            let a := look (fun _ => ({} : Bank)) (f (conv s m.val)) e.val
            let b := look (fun _ => ({} : Bank)) (f (conv t m.val)) e.val
            let val (x : W16) : Int := if bitOf (convCfg s m.val e.val) 17 then x.toInt else x.toNat
            b.acc = a.acc + BitVec.ofInt 64 (val w) ∧ b.count = a.count + 1
              ∧ b.clips = a.clips + BitVec.ofNat 32 (bit c)
              ∧ (a.count = 0 → b.mn = w ∧ b.mx = w)
              ∧ (a.count ≠ 0 → val b.mn = min (val a.mn) (val w) ∧ val b.mx = max (val a.mx) (val w))
              ∧ ∀ j, j ≠ e.val → look (fun _ => ({} : Bank)) (f (conv t m.val)) j
                  = look (fun _ => ({} : Bank)) (f (conv s m.val)) j))
  ∧ (∀ (m : Fin 14) (e : Fin 16) (v : Int) (s : State),
      (conv s m.val).st ≠ 2 ∨ nextEntry (conv s m.val) ≠ some e.val → exec (.monitorSample m e v) s = .next s)
  ∧ ∀ (v : W32) (s : State), below7 s = false → bitOf v.toNat 0 = true →
      ∃ t, exec (.snap v) s = .next t ∧ t.mon.snapSeq = s.mon.snapSeq + 1 ∧ t.mon.snapBeat = s.fab.beat
        ∧ (∀ m < 14, conv t m = { conv s m with snap := (conv s m).host, host := [] })
        ∧ t = { s with mon := t.mon }

/-- R511, R514, R515, R517, R519 and R521. -/
def Obligations.LarderWrites : Prop :=
  (∀ (w : FlashWrite) (q : List FlashWrite) (s : State), s.lar.queue = w :: q → s.pow.flashFree = false →
    ∃ t, exec .flashPageWriteComplete s = .next t ∧ t.lar.queue = q ∧ t = { s with lar := t.lar }
      ∧ (∀ e, w.job = .journal e → w.copyB = false → t.lar.journal = s.lar.journal ++ [e]
          ∧ t.lar.planes = (applyEntry e s.lar.planes s.lar.slots).1)
      ∧ (∀ r, w.job = .counters r → w.copyB = false → t.lar.flash = r)
      ∧ (∀ r, w.job = .repair r → w.copyB = false → t.lar.repairFlash = r))
  ∧ (∀ s : State, s.pow.flashFree = true ∨ s.lar.queue = [] → exec .flashPageWriteComplete s = .next s)
  ∧ (∀ s : State, s.lar.folding = none → 163840 ≤ s.lar.appended → viewOn s = true →
      ∃ t, exec .fold s = .next t ∧ t.lar.folding = some s.lar.journal.length ∧ t.lar.appended = 0
        ∧ t.lar.queue.length = s.lar.queue.length + 2
        ∧ (∀ w ∈ t.lar.queue, w ∈ s.lar.queue ∨ (w.prio = 5 ∧ (w.job = .foldTable ∨ w.job = .foldMarker)))
        ∧ t = { s with lar := { s.lar with queue := t.lar.queue, folding := t.lar.folding, appended := 0 } })
  ∧ (∀ s : State, viewOn s = true →
      ∃ t r, exec .counterRecordTimer s = .next t ∧ r.version = s.lar.flash.version + 1 ∧ r.calendar = s.lar.calendar
        ∧ r.powerOn = s.lar.live.powerOn ∧ r.floor = s.lar.live.floor
        ∧ { prio := 2, copyB := false, job := FlashJob.counters r } ∈ t.lar.queue
        ∧ { prio := 2, copyB := true, job := FlashJob.counters r } ∈ t.lar.queue
        ∧ t.lar.queue.length = s.lar.queue.length + 2 ∧ t.lar.flash = s.lar.flash)
  ∧ (∀ s : State, exec .eventTokenRestore s = .next { s with lar := { s.lar with tokens := min 64 (s.lar.tokens + 1) } })
  ∧ (∀ s : State, viewOn s = true → ∃ t, exec .larderViewUpdate s = .next t
      ∧ t = { s with lar := { s.lar with view := t.lar.view } } ∧ t.lar.view.powerOn = s.lar.live.powerOn
      ∧ t.lar.view.calendar = s.lar.calendar ∧ t.lar.view.calRest = s.lar.calRest ∧ t.lar.view.boots = s.lar.live.boots
      ∧ t.lar.view.events = s.lar.events.reverse.take 64 ∧ t.lar.view.ages = s.lar.ages.reverse.take 16)
  ∧ ∀ s : State, ∃ t, exec .calendarTick s = .next t ∧ t.pow.ticks = s.pow.ticks + 1
      ∧ (s.lar.calSets = [] → t.lar.calendar = s.lar.calendar + 1 ∧ t.lar.calRest = s.lar.calRest)
      ∧ (∀ v, s.lar.calSets.getLast? = some v → t.lar.calendar = v ∧ t.lar.calRest = false ∧ t.lar.calSets = [])

/-- What a command sent: these messages in order, and the flits that carry them; no port leaves its bond for it. -/
def Sys2Proof.Spec.Sends (os : List Out) (s t : State) : Prop :=
  (∃ fs : List (Nat × Flit), t.out = s.out ++ os ++ fs.map fun x => .flit x.1 x.2)
    ∧ ∀ k, port t k = { port s k with flits := (port t k).flits, seq := (port t k).seq }

/-- The map registers of Table 10.7. -/
def Sys2Proof.Spec.isMapReg (o : Nat) : Bool :=
  o == 0x400004 || o == 0x400008 || o == 0x40000C || (decide (0x401000 ≤ o ∧ o < 0x401400) && o % 4 == 0)

/-- R298 and Table 10.8. -/
def Obligations.MapWrittenOnlyOutsideADomain : Prop :=
  ∀ (m : Master) (off : Off) (v : W32) (s : State),
    (fabricOpen s m = false → exec (.mapWrite m off v) s = .next s)
    ∧ (fabricOpen s m = true → isMapReg off.toNat = true →
        ∃ t, exec (.mapWrite m off v) s = .next t ∧ t = { byMgmt m s with fab := t.fab }
          ∧ ((s.fab.st = 1 ∨ s.fab.st = 2) → t.fab = { s.fab with mapRefused := true })
          ∧ ((s.fab.st = 0 ∨ s.fab.st = 3) →
              (off.toNat = 0x400004 → t.fab = { s.fab with domainId := v })
              ∧ (off.toNat = 0x400008 → t.fab = { s.fab with ringSize := v.extractLsb' 0 10, myPos := v.extractLsb' 16 9 })
              ∧ (off.toNat = 0x40000C → t.fab = { s.fab with mySeat := v.extractLsb' 0 10, seats := v.extractLsb' 16 10 })
              ∧ ∀ k < 256, off.toNat = 0x401000 + 4 * k → t.fab = { s.fab with seatTab := t.fab.seatTab } ∧
                  ∀ i, seatPos t i = if i = 2 * k then v.extractLsb' 0 16
                    else if i = 2 * k + 1 then v.extractLsb' 16 16 else seatPos s i))

/-- R327. -/
def Obligations.TransactionTimerMinimums : Prop :=
  (∀ (m : Master) (v : W32) (s : State), fabricOpen s m = true →
    ∃ t, exec (.transactionTimersWrite m v) s = .next t ∧ t = { byMgmt m s with fab := t.fab }
      ∧ t.fab = { s.fab with tt := t.fab.tt, ext := t.fab.ext }
      ∧ t.fab.tt.toNat = max 16 (v.toNat % 2 ^ 16) ∧ t.fab.ext.toNat = max 9 (v.toNat / 2 ^ 16))
  ∧ ∀ (dst : Nat) (down resent : Bool) (data : List Byte) (s : State),
      ∃ x, (startTxn dst down resent data s).fab.txns = s.fab.txns ++ [x] ∧ x.data = data
        ∧ x.expiry = s.fab.beat + BitVec.ofNat 64 s.fab.tt.toNat ∧ x.ext = s.fab.ext

/-- The part's formation ended in FAULT (R301): the first cause is kept, and one record of TYPE 0x70 is raised. -/
def Sys2Proof.Spec.FormFailed (cause : Nat) (s t : State) : Prop :=
  t.fab.st = 3 ∧ t.fab.cause = (if s.fab.cause = 0 then BitVec.ofNat 4 cause else s.fab.cause) ∧ t.fab.join = false
    ∧ t.fab.beat = s.fab.beat ∧ t.fab.sched = s.fab.sched ∧ Raised 0x70 1 cause 0 0 s t ∧ t.ten = s.ten ∧ t.hw = s.hw

/-- R300 to R302. -/
def Obligations.DomainForms : Prop :=
  (∀ (m : Master) (v : W32) (s : State), fabricOpen s m = true → bitOf v.toNat 0 = true → bitOf v.toNat 1 = false →
    ((s.fab.st = 1 ∨ s.fab.st = 2 ∨ anyEnabled s = true) →
      exec (.join m v) s = .next { byMgmt m s with fab := { s.fab with joinRefused := true } })
    ∧ ((s.fab.st = 0 ∨ s.fab.st = 3) → anyEnabled s = false → ∃ t, exec (.join m v) s = .next t
        ∧ t.fab.digest = mapDigest s ∧ t.ten = s.ten ∧ t.hw = s.hw ∧ MemKept s t
        ∧ (mapValid s = false → FormFailed 6 { s with fab := { s.fab with cause := 0 } } t)
        ∧ (mapValid s = true → s.fab.ringSize = 1 → t.fab.st = 2 ∧ t.fab.beat = 0 ∧ t.fab.sched = 0 ∧ t.fab.cause = 0
            ∧ t.fab.lead = 2 ∧ t.fab.locked = true ∧ t.fab.join = false ∧ t.err = s.err)
        ∧ (mapValid s = true → s.fab.ringSize ≠ 1 → t.fab.st = 1 ∧ t.fab.cause = 0 ∧ t.fab.join = true ∧ t.err = s.err
            ∧ t.fab.lead.toNat = lamOf s.fab.ringSize.toNat ∧ ∀ k < 8, (port t k).st = 1)))
  ∧ (∀ (w : FormWord) (s : State), s.fab.st = 1 →
      (w.domainId ≠ s.fab.domainId → ∃ t, exec (.formationWord w) s = .next t ∧ FormFailed 1 s t)
      ∧ (w.domainId = s.fab.domainId → w.digest ≠ s.fab.digest → ∃ t, exec (.formationWord w) s = .next t ∧ FormFailed 3 s t)
      ∧ (w.domainId = s.fab.domainId → w.digest = s.fab.digest →
          ((w.pos.toNat + 1) % ringN s ≠ s.fab.myPos.toNat % ringN s ∨ ringN s ≤ w.pos.toNat ∨ seatedRight s = false) →
          ∃ t, exec (.formationWord w) s = .next t ∧ FormFailed 2 s t)
      ∧ (w.domainId = s.fab.domainId → w.digest = s.fab.digest → w.pos.toNat = (s.fab.myPos.toNat + ringN s - 1) % ringN s →
          seatedRight s = true → ∃ t, exec (.formationWord w) s = .next t ∧ t.err = s.err
            ∧ (s.fab.myPos ≠ 0 → t.fab.st = 1 ∧ Sends [.formWord { w with pos := s.fab.myPos }] s t)
            ∧ (s.fab.myPos = 0 → t.fab.st = 2 ∧ t.fab.beat = 0 ∧ t.fab.sched = 0 ∧ t.fab.locked = true ∧ ∃ w, w.beat = 0 ∧ Sends [.beatWord w] s t)))
  ∧ (∀ s : State, s.fab.st = 1 → ∃ t, exec .formationTimeout s = .next t ∧ FormFailed 5 s t)
  ∧ (∀ s : State, s.fab.st = 1 → s.fab.myPos ≠ 0 → exec .beatLock s = .next { s with fab := { s.fab with
      st := 2, join := false, locked := true, misses := 0 } })
  ∧ ∀ (k : Fin 8) (raw : Nat) (lanes : Bool) (s : State), (port s k).st = 1 →
      ∃ t, exec (.portTrainingComplete k raw lanes) s = .next t
        ∧ (port t k).st = (if raw ≤ 240 ∧ lanes = true then 2 else 3) ∧ (port t k).rawLat.toNat = min 255 raw
        ∧ (s.fab.st = 1 → (∀ j < 4, (port t (4 * (k.val / 4) + j)).st = 3) → t.fab.st = 3)
        ∧ ((∃ j < 4, (port t (4 * (k.val / 4) + j)).st ≠ 3) → t.fab.st = s.fab.st ∧ t.err = s.err)

/-- R308, with the fault of R306 (log entry 137). -/
def Obligations.LeaveKeepsTheBeat : Prop :=
  ∀ (m : Master) (v : W32) (s : State), fabricOpen s m = true → bitOf v.toNat 0 = false → bitOf v.toNat 1 = true →
    ((∃ b ∈ liveBindings s, holds s b = true ∧ 1 < plParts (planOf s b)) →
      exec (.leave m v) s = .next { byMgmt m s with fab := { s.fab with leaveRefused := true } })
    ∧ ((∀ b ∈ liveBindings s, holds s b = true → plParts (planOf s b) ≤ 1) →
        ∃ t, exec (.leave m v) s = .next t ∧ t.fab.st = 0 ∧ t.fab.beat = s.fab.beat ∧ t.fab.sched = s.fab.sched
          ∧ t.fab.locked = true ∧ t.fab.leaveRefused = s.fab.leaveRefused ∧ MemKept s t
          ∧ ((s.fab.st = 0 ∨ s.fab.st = 3) → t.err = s.err)
          ∧ ((s.fab.st = 1 ∨ s.fab.st = 2) → .faultNotice 11 s.fab.myPos ∈ t.out ∧ Raised 0x71 3 11 0x1FF 0 s t
              ∧ ∀ b ∈ liveBindings s, 1 < plParts (planOf s b) → (brun t b).fabricFault = true))

/-- A domain fault was raised with this cause, its notice first sent by `src` (R306). -/
def Sys2Proof.Spec.DomainFaulted (cause src : Nat) (s t : State) : Prop :=
  t.fab.st = 3 ∧ t.fab.cause = (if s.fab.cause = 0 then BitVec.ofNat 4 cause else s.fab.cause)
    ∧ t.fab.beat = s.fab.beat ∧ t.fab.sched = s.fab.sched ∧ t.fab.locked = true ∧ t.fab.txns = []
    ∧ Raised 0x71 3 cause src 0 s t ∧ t.ten.switches = s.ten.switches.filter (·.epoch.isSome)
    ∧ ∀ b, (entry s b).st = 3 → (∀ o ∈ s.ten.switches, o.epoch = none → b ∉ switchIns o ++ o.outgoing) →
        (1 < plParts (planOf s b) → (entry t b).st = 6 ∧ (brun t b).fabricFault = true)
        ∧ (plParts (planOf s b) ≤ 1 → (entry t b).st = 3)

/-- R306 and R307. -/
def Obligations.DomainFaultRaisedOnce : Prop :=
  (∀ (cause : BitVec 4) (pos : BitVec 9) (down : Bool) (s : State),
    ((cause, pos) ∈ s.fab.noticed → exec (.domainFaultNotice cause ⟨pos, down⟩) s = .next s)
    ∧ ((cause, pos) ∉ s.fab.noticed → (s.fab.st = 0 ∨ s.fab.st = 3) →
        ∃ t, exec (.domainFaultNotice cause ⟨pos, down⟩) s = .next t ∧ Sends [.faultNotice cause pos] s t
          ∧ t = { s with out := t.out, fab := { s.fab with ports := t.fab.ports } })
    ∧ ((cause, pos) ∉ s.fab.noticed → (s.fab.st = 1 ∨ s.fab.st = 2) →
        ∃ t, exec (.domainFaultNotice cause ⟨pos, down⟩) s = .next t
          ∧ DomainFaulted (if cause = 11 then 11 else 7) pos.toNat s t ∧ .faultNotice cause pos ∈ t.out
          ∧ (cause, pos) ∈ t.fab.noticed))
  ∧ (∀ (down : Bool) (c : Instr) (s : State), c = .cableDisconnect down ∨ c = .bondDown down →
      ∃ t, exec c s = .next t ∧ (∀ i < 4, (port t (if down then i else i + 4)).st = 3)
        ∧ (∀ i < 4, (port t (if down then i + 4 else i)).st = (port s (if down then i + 4 else i)).st)
        ∧ ((s.fab.st = 0 ∨ s.fab.st = 3) → t.fab.st = s.fab.st ∧ t.err = s.err ∧ t.ten = s.ten)
        ∧ ((s.fab.st = 1 ∨ s.fab.st = 2) → DomainFaulted 9 0x1FF s t))
  ∧ (∀ s : State, s.fab.st = 2 → s.fab.myPos ≠ 0 → ∃ t, exec .beatLoss s = .next t ∧ DomainFaulted 8 0x1FF s t)

/-- A beat lies in the granted stretch (R319). -/
def Sys2Proof.Spec.inStretch (s : State) (b : W64) : Bool :=
  match s.fab.grant with
  | none => false
  | some g => decide (g.x0.toNat ≤ b.toNat ∧ b.toNat < g.e0.toNat)

/-- At the edge to come, the beat of the arrival of the next word that a member awaits has passed (R303, R305): a word reaches position p
after p hops of 256 ns. -/
def Sys2Proof.Spec.wordMissing (s : State) : Bool :=
  decide (s.fab.st = 2 ∧ s.fab.myPos ≠ 0 ∧ s.fab.wordNext.toNat + s.fab.myPos.toNat / 4 + 1 ≤ (s.fab.beat + 1).toNat)

/-- R304, with the missing word of R305. -/
def Obligations.BeatEdgeCounts : Prop :=
  ∀ s : State, (beats s = false → exec .beatEdge s = .next s)
    ∧ (beats s = true → ∃ t, exec .beatEdge s = .next t ∧ t.fab.beat = s.fab.beat + 1
        ∧ t.fab.requests = s.fab.requests + (if s.fab.own.any fun x => x.beat == s.fab.beat then 1 else 0)
        ∧ (inStretch s (s.fab.beat + 1) = false → t.fab.sched = s.fab.sched + 1 ∧ t.fab.inserted = s.fab.inserted)
        ∧ (inStretch s (s.fab.beat + 1) = true → t.fab.sched = s.fab.sched ∧ t.fab.inserted = s.fab.inserted + 1
            ∧ (wordMissing s = false → t.ten = s.ten ∧ t.srv = s.srv ∧ MemKept s t ∧ t.mail = s.mail ∧ t.mon = s.mon ∧ t.lar = s.lar
              ∧ t.err = s.err ∧ t.host.rings = s.host.rings ∧ t.hw.planes = s.hw.planes ∧ t.hw.cores = s.hw.cores
              ∧ ∀ p, cluster t p = { cluster s p with pow := (cluster t p).pow }))
        ∧ (wordMissing s = false → t.fab.misses = s.fab.misses ∧ t.fab.st = s.fab.st)
        ∧ (wordMissing s = true → s.fab.misses < 3 → t.fab.misses = s.fab.misses + 1 ∧ t.fab.st = 2)
        ∧ (wordMissing s = true → 3 ≤ s.fab.misses → t.fab.st = 3 ∧ t.fab.txns = []
            ∧ t.fab.cause = if s.fab.cause = 0 then 8 else s.fab.cause))

/-- The word of a beat is the one that comes now: it is p hops of 256 ns on its way, and one that comes with an edge may be read on
either side of it (R303, R305). -/
def Sys2Proof.Spec.expects (s : State) (b : W64) : Prop :=
  b.toNat + s.fab.myPos.toNat / 4 = s.fab.beat.toNat
    ∨ (s.fab.myPos.toNat % 4 = 0 ∧ b.toNat + s.fab.myPos.toNat / 4 = s.fab.beat.toNat + 1)

/-- R305. -/
def Obligations.FourMissesLoseTheBeat : Prop :=
  ∀ (w : BeatWord) (onTime : Bool) (s : State),
    (s.fab.myPos = 0 → exec (.beatWordReceived w onTime) s = .next s)
    ∧ (s.fab.st = 2 → s.fab.myPos ≠ 0 →
        ((w.check = crc8 (beatBytes w) ∧ expects s w.beat ∧ onTime = true) → w.token = false →
          ∃ t, exec (.beatWordReceived w onTime) s = .next t
            ∧ t = { s with out := t.out, fab := { s.fab with misses := 0, wordNext := w.beat + 1, ports := t.fab.ports } }
            ∧ (s.fab.myPos.toNat + 1 < ringN s → Sends [.beatWord w] s t)
            ∧ (ringN s ≤ s.fab.myPos.toNat + 1 → t.out = s.out))
        ∧ ((w.check ≠ crc8 (beatBytes w) ∨ ¬ expects s w.beat ∨ onTime = false) →
            ∃ t, exec (.beatWordReceived w onTime) s = .next t
              ∧ (s.fab.misses < 3 → t.fab.misses = s.fab.misses + 1 ∧ t.fab.st = 2 ∧ t.err = s.err)
              ∧ (3 ≤ s.fab.misses → DomainFaulted 8 0x1FF s t)))

/-- R318, with the lead of R317. -/
def Obligations.StretchesGranted : Prop :=
  (∀ (q : StretchReq) (s : State), s.fab.st = 2 →
    (s.fab.myPos = 0 → (q.len = 0 ∨ ringN s ≤ q.pos.toNat) →
      exec (.stretchRequestWord q) s = .next { s with fab := { s.fab with badRequests := s.fab.badRequests + 1 } })
    ∧ (s.fab.myPos = 0 → q.len ≠ 0 → q.pos.toNat < ringN s →
      exec (.stretchRequestWord q) s = .next { s with fab := { s.fab with waiting := s.fab.waiting ++ [q] } })
    ∧ (s.fab.myPos ≠ 0 → ∃ t, exec (.stretchRequestWord q) s = .next t ∧ Sends [.reqWord q] s t
        ∧ t = { s with out := t.out, fab := { s.fab with ports := t.fab.ports } }))
  ∧ (∀ (b : W64) (s : State) (r x : Nat), (s.fab.st ≠ 2 ∨ s.fab.myPos = 0) → b.toNat + lamR (ringN s) ≤ s.fab.beat.toNat →
      (∃ q ∈ s.fab.waiting, q.beat = b ∧ q.len.toNat = r) → (∀ q ∈ s.fab.waiting, q.beat = b → q.len.toNat ≤ r) →
      x = b.toNat + s.fab.lead.toNat →
      ∃ t, exec (.stretchResolve b) s = .next t ∧ t.fab.waiting = s.fab.waiting.filter (·.beat != b)
        ∧ t = { s with fab := t.fab } ∧ t.fab.beat = s.fab.beat ∧ t.fab.sched = s.fab.sched
        ∧ (s.fab.grant = none → t.fab.grant = some { x0 := BitVec.ofNat 64 x, e0 := BitVec.ofNat 64 (x + r) }
            ∧ t.fab.stretches = s.fab.stretches + 1)
        ∧ (∀ g, s.fab.grant = some g → g.x0.toNat ≤ x → x ≤ g.e0.toNat →
            t.fab.grant = some { x0 := g.x0, e0 := BitVec.ofNat 64 (max g.e0.toNat (x + r)) }
              ∧ t.fab.stretches = s.fab.stretches)
        ∧ ∀ g, s.fab.grant = some g → g.e0.toNat < x → (∀ y ∈ s.fab.later, ¬ (y.x0.toNat ≤ x ∧ x ≤ y.e0.toNat)) →
            t.fab.grant = some g ∧ t.fab.later = s.fab.later ++ [{ x0 := BitVec.ofNat 64 x, e0 := BitVec.ofNat 64 (x + r) }]
              ∧ t.fab.stretches = s.fab.stretches + 1)
  ∧ (∀ s : State, ∃ t, exec .stretchStart s = .next t
      ∧ t = { s with fab := { s.fab with started := t.fab.started }, hw := { s.hw with stretchPlanes := t.hw.stretchPlanes } }
      ∧ (inStretch s s.fab.beat = true → t.fab.started = true ∧ (s.fab.started = false → t.hw.stretchPlanes = s.hw.held))
      ∧ ((inStretch s s.fab.beat = false ∨ s.fab.started = true) → t = s))
  ∧ ∀ (g : Stretch) (s : State), s.fab.grant = some g → g.e0.toNat ≤ s.fab.beat.toNat →
      ∃ t, exec .stretchEnd s = .next t ∧ t.fab.grant = s.fab.later.head? ∧ t.fab.beat = s.fab.beat
        ∧ t.fab.sched = s.fab.sched ∧ t.fab.stretches = s.fab.stretches
        ∧ ∀ x ∈ t.fab.own, x ∈ s.fab.own ∧ g.e0.toNat < x.beat.toNat + s.fab.lead.toNat

/-- A loss of flit `q` begins an episode: none is in progress, with `used` retransmissions in it, or the flits up to `upTo`, sent when its
first request came, have all arrived, `q` being a later one (R324; serial numbers of 32 bits). -/
def Sys2Proof.Spec.startsEpisode (used : Nat) (upTo q : W32) : Prop := used = 0 ∨ 2 ^ 31 ≤ (upTo - q).toNat

/-- R323 to R326. -/
def Obligations.LinkRetryAndTransactions : Prop :=
  (∀ (k : Fin 8) (q sent : W32) (s : State), (port s k).st = 2 →
      (startsEpisode (port s k).used (port s k).upTo q →
        ∃ t, exec (.flitLost ⟨k, none, q, sent⟩) s = .next t ∧ t.out = s.out ++ [.retry k]
          ∧ t = { s with out := t.out, fab := { s.fab with ports := t.fab.ports } } ∧ (∀ j, j ≠ k.val → port t j = port s j)
          ∧ port t k = { port s k with used := 1, upTo := sent, episodes := (port s k).episodes + 1 })
      ∧ (¬ startsEpisode (port s k).used (port s k).upTo q → (port s k).used < 8 →
        ∃ t, exec (.flitLost ⟨k, none, q, sent⟩) s = .next t ∧ t.out = s.out ++ [.retry k]
          ∧ t = { s with out := t.out, fab := { s.fab with ports := t.fab.ports } } ∧ (∀ j, j ≠ k.val → port t j = port s j)
          ∧ port t k = { port s k with used := (port s k).used + 1 })
      ∧ (¬ startsEpisode (port s k).used (port s k).upTo q → 8 ≤ (port s k).used →
        exec (.flitLost ⟨k, none, q, sent⟩) s = .next s))
  ∧ (∀ (k : Fin 8) (held : List (BitVec 9 × BitVec 24)) (q sent : W32) (s : State), (port s k).st = 2 →
      (startsEpisode (port s k).sentAgain (port s k).sentUpTo q →
        ∃ t, exec (.flitLost ⟨k, some held, q, sent⟩) s = .next t ∧ t.fab.st = s.fab.st ∧ (∀ j, (port t j).st = (port s j).st)
          ∧ port t k = { port s k with retransmits := (port s k).retransmits + 1, sentAgain := 1, sentUpTo := (port s k).seq - 1,
                                       flits := (port s k).flits + BitVec.ofNat 64 (goBack (port s k) q) }
          ∧ ∀ x ∈ held, ∃ ts, .retryNotice x.1 ts ∈ t.out ∧ x.2 ∈ ts)
      ∧ (¬ startsEpisode (port s k).sentAgain (port s k).sentUpTo q → (port s k).sentAgain < 8 →
        ∃ t, exec (.flitLost ⟨k, some held, q, sent⟩) s = .next t
          ∧ t = { s with fab := { s.fab with ports := t.fab.ports } } ∧ (∀ j, j ≠ k.val → port t j = port s j)
          ∧ port t k = { port s k with retransmits := (port s k).retransmits + 1, sentAgain := (port s k).sentAgain + 1,
                                       flits := (port s k).flits + BitVec.ofNat 64 (goBack (port s k) q) }))
  ∧ (∀ (k : Fin 8) (held : List (BitVec 9 × BitVec 24)) (q : W32) (s : State), (port s k).st = 2 →
      ∃ t, exec (.episodeExhausted ⟨k, q, held⟩) s = .next t ∧ (port t k).st = 3
      ∧ (port t k).retransmits = (port s k).retransmits + BitVec.ofNat 32 (8 - (port s k).sentAgain)
      ∧ (port t k).exhausted = (port s k).exhausted + 1 ∧ (∀ x ∈ held, .errCompl x.1 x.2 ∈ t.out)
      ∧ ((∃ j, j ≠ k.val ∧ j / 4 = k.val / 4 ∧ (port s j).st = 2) → t.fab.st = s.fab.st ∧ t.ten = s.ten)
      ∧ ((∀ j, j ≠ k.val → j / 4 = k.val / 4 → (port s j).st ≠ 2) → s.fab.st = 2 → DomainFaulted 9 0x1FF s t))
  ∧ (∀ (n : BitVec 24) (s : State), exec (.retryNotice n) s = .next { s with fab := { s.fab with
      txns := s.fab.txns.map fun x => if x.tag = n then { x with expiry := x.expiry + BitVec.ofNat 64 x.ext.toNat } else x } })
  ∧ (∀ (n : BitVec 24) (s : State),
      exec (.acknowledgement n) s = .next { s with fab := { s.fab with txns := s.fab.txns.filter (·.tag != n) } })
  ∧ (∀ (src : BitVec 9) (n : BitVec 24) (down : Bool) (s : State),
      (∀ tl : Option TailMsg, (∀ d, tl = some d → boundOf s d.core = none) →
        ∃ t, exec (.transactionReceived ⟨src, down⟩ ⟨n, tl⟩) s = .next t ∧ Sends [.ack src n] s t
        ∧ t = { s with out := t.out, fab := { s.fab with ports := t.fab.ports } })
      ∧ ∀ (d : TailMsg) (b : Nat), boundOf s d.core = some b →
          ∃ t, exec (.transactionReceived ⟨src, down⟩ ⟨n, some d⟩) s = .next t
            ∧ Sends [.ack src n] (writeOp d.core b d.off.toNat (wordsBytes d.vals) s) t
            ∧ t = { writeOp d.core b d.off.toNat (wordsBytes d.vals) s with out := t.out, fab := t.fab })
  ∧ (∀ (n : BitVec 24) (x : Txn) (s : State), s.fab.txns.find? (·.tag == n) = some x → s.fab.st = 2 →
      s.fab.txns.length < 2 ^ 24 → ∃ t, exec (.errorCompletion n) s = .next t ∧ t.fab.errCompl = s.fab.errCompl + 1
      ∧ ((x.resent = true ∨ bondPorts s x.down = 0) → DomainFaulted 10 0x1FF s t)
      ∧ (x.resent = false → bondPorts s x.down ≠ 0 → ∃ y, t.fab.txns = s.fab.txns.filter (·.tag != n) ++ [y]
          ∧ y.dst = x.dst ∧ y.down = x.down ∧ y.data = x.data ∧ y.resent = true
          ∧ y.expiry = s.fab.beat + BitVec.ofNat 64 s.fab.tt.toNat
          ∧ y.tag ∉ (s.fab.txns.filter (·.tag != n)).map (·.tag) ∧ Sends [.resend n y.tag] s t))
  ∧ ∀ (n : BitVec 24) (x : Txn) (s : State), s.fab.txns.find? (·.tag == n) = some x → s.fab.st = 2 →
      (s.fab.beat.toNat < x.expiry.toNat → exec (.transactionTimeout n) s = .next s)
      ∧ (x.expiry.toNat ≤ s.fab.beat.toNat → ∃ t, exec (.transactionTimeout n) s = .next t
          ∧ t.fab.timeouts = s.fab.timeouts + 1 ∧ t.fab.st = 3 ∧ t.err.raised = s.err.raised + 2
          ∧ t.fab.cause = (if s.fab.cause = 0 then 10 else s.fab.cause))

/-- R311 and R312. -/
def Obligations.MultiPartOperations : Prop :=
  (∀ (q : PlanMsg) (s : State), s.fab.st ≠ 2 → ∀ c, c = .readyMessage q ∨ c = .refusalMessage q ∨ c = .epochMessage q
      ∨ c = .abortMessage q → exec c s = .next s)
  ∧ (∀ (q : PlanMsg) (o : MultiOp) (s : State), s.fab.st = 2 → leadOp s q.planId = o → q.part ∉ o.ready →
      (o.parts = 0 ∨ o.ready.length + 1 < o.parts) →
      exec (.readyMessage q) s = .next { s with fab := { s.fab with
        ops := s.fab.ops.filter (fun x => !(x.lead && x.planId == q.planId)) ++ [{ o with ready := o.ready ++ [q.part] }] } })
  ∧ (∀ (q : PlanMsg) (o : MultiOp) (s : State), s.fab.st = 2 → leadOp s q.planId = o → q.part ∉ o.ready → 0 < o.parts →
      o.parts ≤ o.ready.length + 1 → ∃ t, exec (.readyMessage q) s = .next t
        ∧ (∀ x ∈ t.fab.ops, x.lead = true → x.planId ≠ q.planId) ∧ t.fab.sched = s.fab.sched
        ∧ ∀ i < o.parts, partPos s s.fab.mySeat.toNat i ≠ s.fab.myPos.toNat →
            .planMsg 2 (BitVec.ofNat 9 (partPos s s.fab.mySeat.toNat i))
              { planId := q.planId, part := 0, reason := 0, detail := 0,
                epoch := BitVec.ofNat 64 ((s.fab.sched.toNat + s.fab.lead.toNat + 2 + 1023) / 1024) } ∈ t.out)
  ∧ (∀ (q : PlanMsg) (s : State), s.fab.st = 2 → ∃ t, exec (.refusalMessage q) s = .next t
      ∧ ∀ x ∈ t.fab.ops, x.lead = true → x.planId ≠ q.planId)
  ∧ (∀ (q : PlanMsg) (s : State), s.fab.st = 2 → ∃ t, exec (.epochMessage q) s = .next t
      ∧ t.ten = { s.ten with switches := s.ten.switches.map fun o =>
          if o.epoch = none ∧ o.planId = q.planId then { o with epoch := some q.epoch } else o }
      ∧ ∀ x ∈ t.fab.ops, x.lead = false → x.planId ≠ q.planId)
  ∧ (∀ (q : PlanMsg) (s : State), s.fab.st = 2 → ∃ t, exec (.abortMessage q) s = .next t
      ∧ (∀ o ∈ t.ten.switches, o.epoch = none → o.planId ≠ q.planId)
      ∧ ∀ b o, s.ten.switches.filter (fun o => o.epoch.isNone && o.planId == q.planId) = [o] →
          (b ∈ switchIns o ++ o.outgoing → (entry t b).st = (brun s b).prev)
          ∧ (b ∉ switchIns o ++ o.outgoing → (entry t b).st = (entry s b).st))
  ∧ (∀ s : State, ∃ t, exec .readyWaitTimeout s = .next t
      ∧ t.fab.st = s.fab.st ∧ t.fab.beat = s.fab.beat ∧ t.fab.sched = s.fab.sched ∧ t.err = s.err ∧ MemKept s t
      ∧ ((∀ o ∈ s.fab.ops, o.lead = true → ∀ w, o.since = some w → s.fab.sched.toNat < w.toNat + 65536) → t = s)
      ∧ (∀ o ∈ s.fab.ops, o.lead = true → (∀ w, o.since = some w → s.fab.sched.toNat < w.toNat + 65536) → o ∈ t.fab.ops)
      ∧ ∀ o ∈ s.fab.ops, o.lead = true → (∃ w, o.since = some w ∧ w.toNat + 65536 ≤ s.fab.sched.toNat) → o ∉ t.fab.ops
          ∧ (∀ i < o.parts, partPos s s.fab.mySeat.toNat i ≠ s.fab.myPos.toNat →
              .planMsg 3 (BitVec.ofNat 9 (partPos s s.fab.mySeat.toNat i))
                { planId := o.planId, part := 0x1FF, reason := 0x40, detail := 0x61FF, epoch := 0 } ∈ t.out)
          ∧ ∀ i < o.parts, partPos s s.fab.mySeat.toNat i = s.fab.myPos.toNat →
              ∀ x ∈ t.ten.switches, x.epoch = none → x.planId ≠ o.planId)
  ∧ (∀ s : State, ∃ t, exec .epochWaitTimeout s = .next t
      ∧ ((∀ o ∈ s.fab.ops, o.lead = false → ∀ w, o.sent = some w → s.fab.sched.toNat < w.toNat + 131072) → t = s)
      ∧ ∀ o ∈ s.fab.ops, o.lead = false → (∃ w, o.sent = some w ∧ w.toNat + 131072 ≤ s.fab.sched.toNat) →
          ∀ x ∈ t.ten.switches, x.epoch = none → x.planId ≠ o.planId)

/-- The packet of a command of opcode `op` is read: phase 7, no QUIESCE, the link's encryption whole (R367), no reserved payload bit set (R18), and room on the ring for the `k`
entries reserved with it (R389). -/
def Sys2Proof.Spec.Taken (op k : Nat) (c : Cmd) (s : State) : Prop :=
  payloadClean op c.payload = true ∧ below7 s = false ∧ s.host.quiesce = false ∧ s.host.ideHold = false
    ∧ (ring s c.ring).reserved + k ≤ cqFree (ring s c.ring)

/-- The addresses of a BIND_LOAD are translated and aligned to 64 bytes (R366). -/
def Sys2Proof.Spec.loadAddrs (c : Cmd) (d : CmdData) : Bool :=
  !d.badAddr && leAt c.payload 8 8 % 64 == 0 && leAt c.payload 24 8 % 64 == 0

/-- Where completions are enabled and the link's encryption does not hold them, the command's final entry is written: its TAG,
status, reason, detail word and binding. -/
def Sys2Proof.Spec.Final (c : Cmd) (status reason detail : Nat) (s t : State) : Prop :=
  (ring s c.ring).cqEnable = true → s.host.ideHold = false →
    ∃ g e, complOut c.ring.val g e ∈ t.out ∧ e.tag = c.tag ∧ e.kind = 0
      ∧ e.status = BitVec.ofNat 8 status ∧ e.reason = BitVec.ofNat 8 reason ∧ e.detail = BitVec.ofNat 32 detail
      ∧ e.binding = c.binding

/-- R336 and R337. -/
def Obligations.BindingLoads : Prop :=
  ∀ (c : Cmd) (d : CmdData) (b : Nat) (s : State), Taken 0x01 1 c s → b = c.binding.toNat →
    ((ring s c.ring).priv = false →
      ∃ t, exec (.bindLoad c d) s = .next t ∧ Final c 9 0 0 s t ∧ t.ten = s.ten ∧ t.hw = s.hw ∧ MemKept s t)
    ∧ ((ring s c.ring).priv = true →
      (loadRanges c = false →
        ∃ t, exec (.bindLoad c d) s = .next t ∧ Final c 7 0 0 s t ∧ t.ten = s.ten ∧ t.hw = s.hw ∧ MemKept s t)
      ∧ (loadRanges c = true → loadAddrs c d = false →
        ∃ t, exec (.bindLoad c d) s = .next t ∧ Final c 8 0 0 s t ∧ t.ten = s.ten ∧ t.hw = s.hw ∧ MemKept s t)
      ∧ (loadRanges c = true → loadAddrs c d = true → bindingBusy s b = true →
        ∃ t, exec (.bindLoad c d) s = .next t ∧ Final c 0x0C 0 0 s t ∧ t.ten = s.ten ∧ t.hw = s.hw ∧ MemKept s t)
      ∧ (loadRanges c = true → loadAddrs c d = true → bindingBusy s b = false →
        (∀ r, loadCheck s b c d = some r → ∃ t, exec (.bindLoad c d) s = .next t ∧ Final c 5 r.1 r.2 s t
          ∧ (∀ x, entry t x = if x = b then { entry s b with lastReason := BitVec.ofNat 8 r.1, lastDetail := BitVec.ofNat 32 r.2 }
              else entry s x)
          ∧ t.ten.nRefusal = s.ten.nRefusal + 1 ∧ t.ten.owner = s.ten.owner ∧ t.ten.free = s.ten.free ∧ t.hw = s.hw
          ∧ MemKept s t ∧ t.lar = s.lar)
        ∧ (loadCheck s b c d = none → ∃ t, exec (.bindLoad c d) s = .next t
          ∧ (entry t b).st = (if (brun t b).planes.all fun u => (plane t u.plane).st == 2 && !(plane t u.plane).adopting
              then 2 else 1)
          ∧ (entry t b).tenant = ldTid c.payload ∧ (entry t b).planId = plId d.plan
          ∧ (entry t b).keyGen = look (fun _ => (0 : W32)) s.ten.keys b + 1
          ∧ (brun t b).plan = d.plan ∧ (brun t b).coreMap = mapWords d.map ∧ t.ten.nRefusal = s.ten.nRefusal
          ∧ (∀ x, x ≠ b → entry t x = entry s x) ∧ ((entry t b).st = 2 → Final c 0 0 0 s t))))

/-- R338 and R339. -/
def Obligations.SwitchesAccepted : Prop :=
  ∀ (c : Cmd) (inc : Option Nat) (outs : List Nat) (s : State), Taken 0x02 1 c s →
    inc = (if c.binding = 0xFFF then none else some c.binding.toNat) → outs = outList c.payload →
    ∀ named, named = inc.toList ++ (inc.bind (mateOf s)).toList ++ outs →
    (((ring s c.ring).priv = false ∨ (inc.isSome = true ∧ (entry s c.binding.toNat).st = 0)) →
      ∃ t, exec (.bindSwitch c) s = .next t ∧ Final c 9 0 0 s t ∧ t.ten = s.ten)
    ∧ ((ring s c.ring).priv = true → (inc.isSome = true → (entry s c.binding.toNat).st ≠ 0) →
      ((c.record ≠ 0xFFFFFFFF ∨ 218 < leAt c.payload 0 2 ∨ c.payload.length < 4 + 2 * outs.length
          ∨ ¬ named.Nodup ∨ named = []) →
        ∃ t, exec (.bindSwitch c) s = .next t ∧ Final c 7 0 0 s t ∧ t.ten = s.ten)
      ∧ (c.record = 0xFFFFFFFF → leAt c.payload 0 2 ≤ 218 → 4 + 2 * outs.length ≤ c.payload.length →
          named.Nodup → named ≠ [] →
        ((∃ x ∈ named, bindingBusy s x = true) →
          ∃ t, exec (.bindSwitch c) s = .next t ∧ Final c 0x0C 0 0 s t ∧ t.ten = s.ten)
        ∧ ((∀ x ∈ named, bindingBusy s x = false) →
          (∀ r, switchCheck s inc outs = some r → ∃ t, exec (.bindSwitch c) s = .next t ∧ Final c 5 r.1 r.2 s t
            ∧ ((∀ x, inc = some x → plParts (planOf s x) ≤ 1) →
                (∀ x, (entry t x).st = (entry s x).st) ∧ t.ten.nRefusal = s.ten.nRefusal + 1))
          ∧ (switchCheck s inc outs = none → ∃ t, exec (.bindSwitch c) s = .next t
            ∧ (∀ x ∈ named, (entry t x).st = 4 ∧ (brun t x).prev = (entry s x).st)
            ∧ (∀ x, x ∉ named → entry t x = entry s x)
            ∧ ((∀ x, inc = some x → plParts (planOf s x) ≤ 1) → ∃ o, t.ten.switches = s.ten.switches ++ [o]
                ∧ o.incoming = inc ∧ o.mate = inc.bind (mateOf s) ∧ o.outgoing = outs ∧ o.accept = s.fab.sched ∧ o.begun = false ∧ o.scrubs = []
                ∧ ∃ E : Nat, o.epoch = some (BitVec.ofNat 64 E) ∧ s.fab.sched.toNat + s.fab.lead.toNat + 2 ≤ 1024 * E
                  ∧ 1024 * E < s.fab.sched.toNat + s.fab.lead.toNat + 2 + 1024)))))

/-- A switch whose epoch's first schedule beat has come and that has not begun. -/
def Sys2Proof.Spec.due (s : State) (o : SwitchOp) : Bool :=
  !o.begun && match o.epoch with
    | none => false
    | some e => decide (1024 * e.toNat ≤ s.fab.sched.toNat)

/-- Everything of Table 11.6 on core `k` is zero. -/
def Sys2Proof.Spec.Scrubbed (k : Nat) (t : State) : Prop :=
  (Machine.core t k).sram = [] ∧ (Machine.core t k).cshare = [] ∧ (Machine.core t k).tiles = [] ∧ (Machine.core t k).tileUse = 0 ∧ (Machine.core t k).ls = {}
    ∧ (Machine.core t k).walks = [] ∧ (Machine.core t k).fetchQ = [] ∧ (Machine.core t k).ts = [] ∧ (Machine.core t k).window = none ∧ (Machine.core t k).recipes = false
    ∧ ∀ i < 17, (engine t (17 * k + i)).queue = [] ∧ (engine t (17 * k + i)).split = none

/-- R339, R343 and R345. -/
def Obligations.SwitchEpochScrubs : Prop :=
  (∀ s : State, s.ten.switches.filter (due s) = [] → exec .switchEpoch s = .next s)
  ∧ (∀ (o : SwitchOp) (cores : List Nat) (s : State), s.ten.switches.filter (due s) = [o] →
      (∀ b ∈ switchIns o, b ∉ o.outgoing ∧ b ∉ o.release) →
      cores = (o.outgoing.flatMap (heldBy s)) ++ (switchIns o).flatMap (mapCores s) →
      ∃ t, exec .switchEpoch s = .next t
        ∧ (∀ b ∈ o.outgoing, b ∉ o.release → (entry t b).st = 2)
        ∧ (∀ b ∈ o.outgoing, ∀ k ∈ heldBy s b, (Machine.core t k).bound = none)
        ∧ (∀ b ∈ switchIns o, (entry t b).st = 3
            ∧ (entry t b).epoch = BitVec.ofNat 32 (o.epoch.getD 0).toNat)
        ∧ (∀ k ∈ cores, Scrubbed k t) ∧ (∀ n, (plane t n).cells = (plane s n).cells))
  ∧ (∀ (k : Fin 2016) (fail : Bool) (s : State), (∀ o ∈ s.ten.switches, o.begun = true → k.val ∉ o.scrubs) →
      exec (.scrubComplete k fail) s = .next s)
  ∧ (∀ (k : Fin 2016) (o : SwitchOp) (s : State), s.ten.switches = [o] → o.begun = true → k.val ∈ o.scrubs →
      (exec (.scrubComplete k false) s = .next { s with ten := { s.ten with
          nScrub := s.ten.nScrub + 1, switches := [{ o with scrubs := o.scrubs.filter (· != k.val) }] } })
      ∧ ((Machine.core s k).failed = false → ∃ t, exec (.scrubComplete k true) s = .next t ∧ (Machine.core t k).failed = true
          ∧ t.ten.nScrub = s.ten.nScrub ∧ Raised 0x42 2 4 0 0 s t
          ∧ ((∃ b ∈ switchIns o, k.val ∈ mapCores s b) → ∀ b ∈ switchIns o, (entry t b).st = 4)))
  ∧ ∀ (o : SwitchOp) (s : State), s.ten.switches = [o] → o.begun = true → o.failed = none →
      1024 * (o.epoch.getD 0).toNat + 1016 ≤ s.fab.sched.toNat →
      ((∀ k ∈ o.cores, (Machine.core s k).window = none) ∨ ((∀ b ∈ liveBindings s, (entry s b).st ≠ 5)
        ∧ ∀ k ∈ o.cores, (Machine.core s k).subWait = none ∧ (cluster s (clOf k)).pow.replan = none)) →
      ((switchIns o).flatMap (mapCores s)).Nodup → (switchIns o).Nodup →
      (∀ b ∈ switchIns o, (entry s b).st = 3 ∧ heldBy s b = [] ∧ ∀ k ∈ mapCores s b, (Machine.core s k).recipes = true) →
      ∃ t, exec .switchHandover s = .next t
        ∧ ∀ b ∈ switchIns o, (brun t b).since = BitVec.ofNat 64 (((o.epoch.getD 0).toNat + 1) * 1024)
          ∧ ∀ k ∈ mapCores s b, (Machine.core t k).bound = some (b, (entry s b).tenant) ∧ (Machine.core t k).recipes = true

/-- R348 to R350. -/
def Obligations.UnbindReleases : Prop :=
  (∀ (c : Cmd) (b : Nat) (s : State), Taken 0x03 1 c s → b = c.binding.toNat →
    (((ring s c.ring).priv = false ∨ (c.record = 0xFFFFFFFF ∧ (entry s b).st = 0)) →
      ∃ t, exec (.unbind c) s = .next t ∧ Final c 9 0 0 s t ∧ t.ten = s.ten)
    ∧ ((ring s c.ring).priv = true → c.record ≠ 0xFFFFFFFF →
      ∃ t, exec (.unbind c) s = .next t ∧ Final c 7 0 0 s t ∧ t.ten = s.ten)
    ∧ ((ring s c.ring).priv = true → c.record = 0xFFFFFFFF → (entry s b).st ≠ 0 →
      (bindingBusy s b = true → ∃ t, exec (.unbind c) s = .next t ∧ Final c 0x0C 0 0 s t ∧ t.ten = s.ten)
      ∧ ((entry s b).st = 3 → (entry s b).peer = 0xFFF → ∃ t, exec (.unbind c) s = .next t ∧ (entry t b).st = 4
          ∧ ∃ o, t.ten.switches = s.ten.switches ++ [o] ∧ o.incoming = none ∧ o.outgoing = [b] ∧ b ∈ o.release
            ∧ ∃ e, o.epoch = some e)
      ∧ ((entry s b).st = 1 ∨ (entry s b).st = 2 ∨ (entry s b).st = 6 → (entry s b).peer = 0xFFF →
        ∃ t, exec (.unbind c) s = .next t ∧ ((entry t b).st = 5 ∨ entry t b = {})
          ∧ (∀ r, (ctx s r).st ≠ 0 → (ctx s r).tenant.toNat = b → (ctx t r).st = 0)
          ∧ (∀ f, s.ten.fwEnd ≤ f → owner s f = .tenant b → owner t f ≠ .tenant b))))
  ∧ ∀ (c : Cmd) (tid : W64) (s : State), Taken 0x03 1 c s → tid = BitVec.ofNat 64 (leAt c.payload 8 8) → (ring s c.ring).priv = true →
      ((c.record ≠ 0xFFFFFFFF ∨ tid = 0 ∨ c.binding ≠ 0xFFF) →
        ∃ t, exec (.unbindByTenant c) s = .next t ∧ Final c 7 0 0 s t ∧ t.ten = s.ten ∧ t.hw = s.hw)
      ∧ (c.record = 0xFFFFFFFF → tid ≠ 0 → c.binding = 0xFFF → (∀ b ∈ liveBindings s, (entry s b).tenant ≠ tid) →
        ∃ t, exec (.unbindByTenant c) s = .next t ∧ Final c 0 0 0 s t
          ∧ (∀ x, entry t x = entry s x)
          ∧ ∀ n, (plane s n).owner = tid → ((plane s n).st = 2 ∨ (plane s n).st = 3 ∨ (plane s n).st = 4) →
              unheld s (coreOf (engOf n)) = true → (engine s (engOf n)).prog = none →
              (plane t n).st = 0 ∨ (plane t n).st = 5)

/-- The frames of a new record of a binding can be had (R262): root, token buffer, and the quantisation state block. -/
def Sys2Proof.Spec.framesHad (s : State) (b : Nat) : Bool :=
  (allocMany b (3 + ceilDiv (stateBytes (planOf s b)) 65536) [] s).2.1

/-- A read of a record's prompt tokens is outstanding, or waits for a line of its ladle (R364). -/
def Sys2Proof.Spec.readsTokens (r : Nat) (t : State) : Prop :=
  (∃ x ∈ t.host.reads, x.what = .tokens r) ∨ .tokens r ∈ t.host.readQ

/-- Record `r` was opened by the command: QUEUED, with the command's fields, carrying the command, its prompt being read, and its
opened entry written. -/
def Sys2Proof.Spec.OpenedRec (c : Cmd) (b r : Nat) (s t : State) : Prop :=
  (ctx t r).st = 1 ∧ (ctx t r).tenant = c.binding
    ∧ (ctx t r).inputEnd = BitVec.ofNat 23 (leAt c.payload 16 4) ∧ (ctx t r).genLeft = BitVec.ofNat 24 (leAt c.payload 20 4)
    ∧ (ctx t r).limit = BitVec.ofNat 23 (leAt c.payload 24 4) ∧ (ctx t r).keep = bitOf (leAt c.payload 0 1) 2
    ∧ (ctx t r).sampled = bitOf (leAt c.payload 0 1) 3 ∧ (ctx t r).topk = BitVec.ofNat 4 (leAt c.payload 1 1)
    ∧ (ctx t r).temp = BitVec.ofNat 16 (leAt c.payload 2 2) ∧ (ctx t r).seed = BitVec.ofNat 32 (leAt c.payload 4 4)
    ∧ (ctx t r).stop0 = BitVec.ofNat 32 (leAt c.payload 28 4) ∧ (ctx t r).stop1 = BitVec.ofNat 32 (leAt c.payload 32 4)
    ∧ (ctx t r).inSlot = false ∧ (ctx t r).suspended = false ∧ (brun t b).queued = (brun s b).queued ++ [r]
    ∧ (∃ w, workOf t r = some w ∧ w.cmd = { ring := c.ring, tag := c.tag } ∧ w.count = 0 ∧ w.opening = true)
    ∧ readsTokens r t
    ∧ ((ring s c.ring).cqEnable = true → s.host.ideHold = false → ∃ g e,
        complOut c.ring.val g e ∈ t.out ∧ e.tag = c.tag ∧ e.kind = 2 ∧ e.status = 0 ∧ e.record = BitVec.ofNat 32 r)

/-- The fields of an opening PREFILL are in their ranges and its addresses are good (R380). -/
def Sys2Proof.Spec.OpenFields (c : Cmd) (d : CmdData) (s : State) : Prop :=
  let p := planOf s c.binding.toNat
  c.record = 0xFFFFFFFF ∧ 1 ≤ leAt c.payload 16 4 ∧ leAt c.payload 16 4 ≤ 4194304 ∧ leAt c.payload 20 4 ≤ 16777215
    ∧ 1 ≤ leAt c.payload 24 4 ∧ leAt c.payload 24 4 ≤ maxCtx p ∧ 4 * leAt c.payload 20 4 ≤ leAt c.payload 44 4
    ∧ leAt c.payload 1 1 ≤ 8
    ∧ (bitOf (leAt c.payload 0 1) 3 = true → 1 ≤ leAt c.payload 1 1 ∧ tempOk (leAt c.payload 2 2) = true)
    ∧ (∀ t ∈ d.tokens.take (leAt c.payload 16 4), t.toNat < plVocab p)
    ∧ d.badAddr = false ∧ leAt c.payload 8 8 % 4 = 0 ∧ leAt c.payload 36 8 % 64 = 0

/-- R262, R263 and R387, with the pair of R286. -/
def Obligations.RecordsOpened : Prop :=
  ∀ (c : Cmd) (d : CmdData) (b : Nat) (s : State), Taken 0x10 2 c s → b = c.binding.toNat →
    (∀ st, bindingStatus s c false = some st →
      ∃ t, exec (.prefillOpen c d) s = .next t ∧ Final c st 0 0 s t ∧ t.srv = s.srv ∧ t.ten = s.ten ∧ MemKept s t)
    ∧ (bindingStatus s c false = none → (brun s b).fabricFault = true →
      ∃ t, exec (.prefillOpen c d) s = .next t ∧ Final c 0x11 0 0 s t ∧ t.srv = s.srv ∧ t.ten = s.ten ∧ MemKept s t)
    ∧ (bindingStatus s c false = none → (brun s b).fabricFault = false → OpenFields c d s →
      (recordAllowed s b = false →
        ∃ t, exec (.prefillOpen c d) s = .next t ∧ Final c 0x0D 0 0 s t ∧ t.srv = s.srv ∧ t.ten = s.ten ∧ MemKept s t)
      ∧ (recordAllowed s b = true → draftBinding s b = none → ∀ r, r = freeRecord s →
        (framesHad s b = true →
          ∃ t, exec (.prefillOpen c d) s = .next t ∧ OpenedRec c b r s t
            ∧ (ctx t r).role = 0 ∧ (entry t b).ctxUsed = (entry s b).ctxUsed + 1
            ∧ (SMapWf (fun _ => ({} : Ctx)) s.srv.ctx = true → (ctx s r).st = 0 ∧ ∀ x < r, (ctx s x).st ≠ 0)
            ∧ ∀ x, x ≠ r → ctx t x = ctx s x)
        ∧ (framesHad s b = false →
          ∃ t, exec (.prefillOpen c d) s = .next t ∧ Final c 0x0E 0 0 s t ∧ t.srv.ctx = s.srv.ctx
            ∧ (brun t b).queued = (brun s b).queued ∧ (entry t b).ctxUsed = (entry s b).ctxUsed))
      ∧ (recordAllowed s b = true → SMapWf (fun _ => ({} : Ctx)) s.srv.ctx = true →
        ∀ q, draftBinding s b = some q → q ≠ b → recordAllowed s q = true →
        (s.srv.ctx.filter fun z => z.2.st != 0).length + 2 ≤ 262144 →
        ([b, q].filter fun x => !(entry s x).reserved).length ≤ sharedRecords s → ∀ r, r = freeRecord s →
        ∃ t, exec (.prefillOpen c d) s = .next t
          ∧ (((ctx t r).st = 0 ∧ (∀ x, x ≠ r → ctx t x = ctx s x) ∧ (brun t b).queued = (brun s b).queued ∧ Final c 0x0E 0 0 s t)
            ∨ (OpenedRec c b r s t ∧ ∃ e, (ctx s e).st = 0 ∧ e ≠ r ∧ (ctx t r).role = 1 ∧ (ctx t e).role = 2 ∧ (ctx t e).st = 1
                ∧ (ctx t r).peer.toNat = e ∧ (ctx t e).peer.toNat = r ∧ (ctx t e).tenant = BitVec.ofNat 12 q
                ∧ ∀ x, x ≠ r → x ≠ e → ctx t x = ctx s x))))

/-- The record carries the command, and its tokens, generation count and floor wait for the next boundary. -/
def Sys2Proof.Spec.Extending (c : Cmd) (r tokens gen : Nat) (floor : Option Nat) (s t : State) : Prop :=
  (ctxRun t r).extend = some { tokens := tokens, gen := gen, keep := bitOf (leAt c.payload 0 1) 2, floor := floor,
                                   behind := (brun s c.binding.toNat).stageReqs.length }
    ∧ (∃ w, workOf t r = some w ∧ w.cmd = { ring := c.ring, tag := c.tag } ∧ w.count = 0 ∧ w.opening = false)
    ∧ t.srv.ctx = s.srv.ctx ∧ (∀ x, x ≠ r → ctxRun t x = ctxRun s x) ∧ MemKept s t ∧ t.ten = s.ten
    ∧ t.out = s.out ∧ t.hw = s.hw ∧ (tokens ≠ 0 → readsTokens r t)

/-- R382. -/
def Obligations.RecordsExtended : Prop :=
  ∀ (c : Cmd) (d : CmdData) (r : Nat) (s : State), (Taken 0x10 1 c s ∨ Taken 0x11 1 c s) → r = c.record.toNat →
    bindingStatus s c false = none → (brun s c.binding.toNat).fabricFault = false → d.badAddr = false →
    (Taken 0x10 1 c s → 1 ≤ leAt c.payload 16 4 → leAt c.payload 16 4 ≤ 4194304 → leAt c.payload 20 4 ≤ 16777215 →
      4 * leAt c.payload 20 4 ≤ leAt c.payload 44 4 → leAt c.payload 8 8 % 4 = 0 → leAt c.payload 36 8 % 64 = 0 →
      (∀ st, extendStatus s c = some st →
        ∃ t, exec (.prefillExtend c d) s = .next t ∧ Final c st 0 0 s t ∧ t.srv = s.srv ∧ MemKept s t)
      ∧ (extendStatus s c = none → (∀ x ∈ d.tokens.take (leAt c.payload 16 4), x.toNat < plVocab (planOf s c.binding.toNat)) →
        ∃ t, exec (.prefillExtend c d) s = .next t
          ∧ Extending c r (leAt c.payload 16 4) (leAt c.payload 20 4) none s t))
    ∧ (Taken 0x11 1 c s → 1 ≤ leAt c.payload 8 4 → leAt c.payload 8 4 ≤ 16777215 → 4 * leAt c.payload 8 4 ≤ leAt c.payload 24 4 →
      leAt c.payload 16 8 % 64 = 0 →
      (∀ st, extendStatus s c = some st →
        ∃ t, exec (.generate c d) s = .next t ∧ Final c st 0 0 s t ∧ t.srv = s.srv ∧ MemKept s t)
      ∧ (extendStatus s c = none → ∃ t, exec (.generate c d) s = .next t
          ∧ Extending c r 0 (leAt c.payload 8 4)
              (if bitOf (leAt c.payload 0 1) 5 then some (leAt c.payload 4 4) else none) s t))

/-- R383 to R385. -/
def Obligations.CancelFlushAndQuery : Prop :=
  (∀ (c : Cmd) (b : Nat) (s : State), Taken 0x12 1 c s → Taken 0x13 1 c s → b = c.binding.toNat →
    (∀ st, ((bindingStatus s c false).orElse fun _ => targetStatus s c) = some st →
      (∃ t, exec (.cancel c) s = .next t ∧ Final c st 0 0 s t ∧ t.ten = s.ten ∧ t.srv = s.srv)
      ∧ ∃ t, exec (.flush c) s = .next t ∧ Final c st 0 0 s t ∧ t.ten = s.ten ∧ t.srv = s.srv)
    ∧ (bindingStatus s c false = none → targetStatus s c = none →
      ∀ q : Option Nat, q = (if bitOf (leAt c.payload 0 1) 0 then none else some c.record.toNat) →
      (∃ t, exec (.cancel c) s = .next t ∧ t.srv = s.srv ∧ MemKept s t
        ∧ (brun t b).stageReqs = (brun s b).stageReqs ++ [{ cmd := { ring := c.ring, tag := c.tag }, isFlush := false, target := q }])
      ∧ ∃ t, exec (.flush c) s = .next t ∧ t.srv = s.srv ∧ MemKept s t
        ∧ (brun t b).stageReqs = (brun s b).stageReqs ++ [{ cmd := { ring := c.ring, tag := c.tag }, isFlush := true, target := q }]
        ∧ (reading c.ring s = true → (ring t c.ring).pendFlush = (ring s c.ring).pendFlush ++ [(c, s.host.packetNo)]
            ∧ ∀ r, (ring t r).queue = (ring s r).queue)
        ∧ (reading c.ring s = false → ∀ r ∈ s.host.rings.map (·.1), ∀ p ∈ (ring t r).queue,
            (∃ p0 ∈ (ring s r).queue, p = { p0 with seq := p.seq }) ∧
            ¬ (p.cmd.binding = c.binding ∧ p.no < s.host.packetNo ∧ (q = none ∨ p.cmd.record = c.record)))))
  ∧ ∀ (c : Cmd) (d : CmdData) (kind : Nat) (i : Instr) (s : State), Taken 0x20 1 c s →
      (kind = 0 ∧ i = .queryBinding c d ∨ kind = 1 ∧ i = .queryContext c d ∨ kind = 2 ∧ i = .queryPlanes c d
        ∨ kind = 3 ∧ i = .queryCellMap c d) → bindingStatus s c (kind == 2 || kind == 3) = none →
      ∃ t, exec i s = .next t ∧ t.srv = s.srv ∧ t.ten = s.ten ∧ t.hw = s.hw ∧ MemKept s t
        ∧ (leAt c.payload 16 4 < 16 → Final c 7 0 0 s t)
        ∧ (16 ≤ leAt c.payload 16 4 → d.badAddr = false → leAt c.payload 8 8 % 64 = 0 →
            (kind = 1 → c.record.toNat < 262144 ∧ (ctx s c.record.toNat).st ≠ 0 ∧ (ctx s c.record.toNat).tenant = c.binding) →
            (∃ ws : List (W64 × List Byte),
              (ws.map (·.2)).flatten = queryResult s c.binding.toNat kind c.record.toNat (leAt c.payload 16 4)
              ∧ ws.head?.map (·.1) = some (BitVec.ofNat 64 (leAt c.payload 8 8))
              ∧ ∀ x ∈ ws, x.2.length ≤ 512 ∧ .hostWrite x.1 x.2 ∈ t.out)
            ∧ Final c 0 0 0 s t)

/-- R272, R279 and R352. -/
def Obligations.PromptTokensAndCopies : Prop :=
  (∀ (rec : Fin 262144) (ts : List W32) (n p0 : Nat) (s : State), hasWork s rec = true → (ctxRun s rec).extend = none →
      (ctxRun s rec).endWith = none → (ctx s rec).st ≠ 0 → (ctx s rec).st ≠ 4 → s.host.ideHold = false →
      p0 = (ctxRun s rec).filled →
      n = min ts.length (min ((ctxRun s rec).fillEnd - p0) ((ctx s rec).length.toNat + 16384 - p0)) →
      ((∀ x ∈ ts.take n, x.toNat < plVocab (planOf s (tenantOf s rec))) →
        owner s (ctx s rec).tokbuf.toNat ≠ .tenant (tenantOf s rec) → 0 < n →
        ∃ t, exec (.tokenFill rec ts) s = .next t ∧ MemKept s t ∧ (brun t (tenantOf s rec)).dead = true)
      ∧ ((∀ x ∈ ts.take n, x.toNat < plVocab (planOf s (tenantOf s rec))) →
        (n = 0 ∨ owner s (ctx s rec).tokbuf.toNat = .tenant (tenantOf s rec)) →
        ∃ t, exec (.tokenFill rec ts) s = .next t ∧ t.srv.ctx = s.srv.ctx ∧ t.ten = s.ten ∧ t.out = s.out
          ∧ ctxRun t rec = { ctxRun s rec with filled := p0 + n } ∧ (∀ x, x ≠ rec.val → ctxRun t x = ctxRun s x)
          ∧ (readsTokens rec t ↔ p0 + n < (ctxRun s rec).fillEnd)
          ∧ (n ≤ 16384 → ∀ i < n, ∀ x, ts[i]? = some x → tokenAt t rec (p0 + i) = x)
          ∧ (∀ a, (∀ i < n, a < 65536 * (ctx s rec).tokbuf.toNat + 4 * ((p0 + i) % 16384)
                ∨ 65536 * (ctx s rec).tokbuf.toNat + 4 * ((p0 + i) % 16384) + 4 ≤ a) → memByte t a = memByte s a))
      ∧ ((∃ x ∈ ts.take n, plVocab (planOf s (tenantOf s rec)) ≤ x.toNat) →
        ∃ t, exec (.tokenFill rec ts) s = .next t ∧ t.srv.ctx = s.srv.ctx ∧ t.ten = s.ten ∧ MemKept s t
          ∧ (ctxRun t rec).endWith = some 7 ∧ workOf t (ownerOf s rec) = none))
  ∧ ∀ (rec : Fin 262144) (s : State),
      ((ctx s rec).copying = false → exec (.copyComplete rec) s = .next s)
      ∧ ((ctx s rec).copying = true → ∃ t, exec (.copyComplete rec) s = .next t
          ∧ (ctx t rec).copying = false ∧ (ctxRun t rec).copyFrom = none
          ∧ ((brun t (tenantOf s rec)).dead = false → ctx t rec = { ctx s rec with copying := false }
            ∧ (∀ x, x ≠ rec.val → ctx t x = ctx s x ∧ ctxRun t x = ctxRun s x)))

/-- Record `r` is read at core `k` as record `c` of the binding and the plan core that hold it. -/
def Sys2Proof.Spec.Reads (c : Iss) (k : Fin 2016) (r : RecRead) (s : State) : Prop :=
  c.k = k.val ∧ boundOf s c.k = some c.b ∧ planIndex s c.b c.k = some c.i ∧ c.x = r.bits.toNat ∧ c.idx = r.idx.toNat ∧ c.wide = r.wide
    ∧ c.faults = r.faults

/-- The core is in service with no window open, the record's beat has come, and every earlier record has issued (R187, R189). -/
def Sys2Proof.Spec.Open (c : Iss) (s : State) : Prop :=
  (Machine.core s c.k).failed = false ∧ (Machine.core s c.k).window = none ∧ beatDue s c = true ∧ orderOk s c = true

/-- A record of opcode `op` issues as far as its stream, tiles and operands go (R184, R187, R191): its unit's own conditions follow. -/
def Sys2Proof.Spec.Ready (op : Nat) (c : Iss) (r : RecRead) (s : State) : Prop :=
  Open c s ∧ damageOf s op r = none ∧ Machine.takes s c.b c.wide c.x = true ∧ tilesBusy s c = false
  ∧ recordOpnds (c.plan s) (boundRegions s c.b c.i) (lsOf s c.k).layer c.x = true

/-- The same, and the checks of the core find nothing while it runs (R485, R487). -/
def Sys2Proof.Spec.Issued (op : Nat) (c : Iss) (r : RecRead) (s : State) : Prop := Ready op c r s ∧ r.faults = []

/-- The state in which an issued record works: counted in RECORDS, its waits over and its tiles seen, its slot marked, and its stream's
sequencer moved on. -/
def Sys2Proof.Spec.begun (c : Iss) (s : State) : State := advance c (markCarried c (endWaits c.k (tilesNamed c.x) (bump (clOf c.k) 0x514 1 s)))

/-- The record commands, with the opcodes they carry (Table 6.6). -/
def Sys2Proof.Spec.recordRows (k : Fin 2016) (r : RecRead) : List (Nat × Instr) :=
  [(0, .nop k r), (1, .lstep k r), (2, .stepend k r), (3, .select k r), (4, .mwin k r), (0x10, .quant k r), (0x11, .pass k r),
   (0x20, .sieve k r), (0x30, .chain k r), (0x31, .tail k r), (0x32, .reduce k r), (0x40, .act k r), (0x41, .pool k r),
   (0x50, .score k r), (0x51, .smax k r), (0x52, .value k r), (0x53, .merge k r), (0x54, .ovf k r), (0x60, .walk k r),
   (0x61, .kvfetch k r), (0x62, .kvappend k r), (0x70, .gather k r), (0x71, .load k r), (0x72, .store k r)]

/-- R184, R187, R189 and R191, with the checks of R485. -/
def Obligations.RecordsIssue : Prop :=
  (∀ (k : Fin 2016) (r : RecRead) (s : State), ∀ q ∈ recordRows k r,
    (boundOf s k = none → exec q.2 s = .next s)
    ∧ (∀ c : Iss, Reads c k r s →
      ((Machine.core s k).failed = true ∨ (Machine.core s k).window.isSome = true ∨ beatDue s c = false ∨ orderOk s c = false →
        exec q.2 s = .next s)
      ∧ (Open c s →
        (∀ cause, damageOf s q.1 r = some cause → r.bad = false →
          ((brun s c.b).dead = false ∨ Machine.takes s c.b c.wide (recAt (planOf s c.b) c.i c.wide c.idx) = true) →
          ∃ t, exec q.2 s = .next t
          ∧ ((Machine.core s k).damaged.contains (c.idx, c.wide, eventEpoch s) = false →
              Raised 0x30 1 (c.idx + if c.wide then 16384 else 0) cause 0 s t ∧ (brun t c.b).dead = true)
          ∧ ((Machine.core s k).damaged.contains (c.idx, c.wide, eventEpoch s) = true → (Machine.core t k).failed = true))
        ∧ (damageOf s q.1 r = none → Machine.takes s c.b c.wide c.x = false → exec q.2 s = .next s)
        ∧ (damageOf s q.1 r = none → Machine.takes s c.b c.wide c.x = true → tilesBusy s c = true →
            exec q.2 s = .next (if (Machine.core s k).sbWait then s
              else bump (clOf k) 0x408 1 (modCore k (fun q => { q with sbWait := true }) s))))))
  ∧ (∀ (k : Fin 2016) (r : RecRead) (c : Iss) (s : State), Reads c k r s →
      (Ready 0 c r s → exec (.nop k r) s = .next (forAll r.faults (recordFault c) (begun c s)))
      ∧ (Ready 4 c r s → stepJudged c s = false → exec (.mwin k r) s = .next s)
      ∧ (Issued 4 c r s → stepJudged c s = true → ∃ t, exec (.mwin k r) s = .next t
          ∧ (Machine.core t k).window = some (BitVec.ofNat 8 (rFlags c.x), s.fab.sched + BitVec.ofNat 64 (rLen c.x)) ∧ t.srv = s.srv
          ∧ MemKept s t ∧ t.err = s.err)
      ∧ (Open c s → damageOf s 0x71 r = none → Machine.takes s c.b c.wide c.x = true → tilesBusy s c = false →
          recordOpnds (c.plan s) (boundRegions s c.b c.i) (lsOf s k).layer c.x = false →
          (Machine.core s k).damaged.contains (c.idx, c.wide, eventEpoch s) = false →
          ∃ t, exec (.load k r) s = .next t ∧ Raised 0x30 1 (c.idx + if c.wide then 16384 else 0) 3 0 s t
            ∧ (brun t c.b).dead = true ∧ MemKept s t))
  ∧ (∀ (c : Iss) (unit : Fin 5) (lane : W32) (s : State), (Machine.core s c.k).kat.winCount < 15 →
      Raised 0x25 0 unit.val lane.toNat 0 s (recordFault c (.datapath unit lane) s)
      ∧ (lsOf (recordFault c (.datapath unit lane) s) c.k).misses = (lsOf s c.k).misses + (if (lsOf s c.k).opened then 1 else 0)
      ∧ (enabledCl s (clOf c.k) = true → look winReset (cluster (recordFault c (.datapath unit lane) s) (clOf c.k)).win 0xB18 =
            look winReset (cluster s (clOf c.k)).win 0xB18 + 1))
  ∧ (∀ (k : Fin 2016) (s : State), boundOf s k = none → exec (.overrun k) s = .next s)
  ∧ ∀ (k : Fin 2016) (b i : Nat) (late new : List (Nat × Nat × Nat)) (d : Nat) (s : State), boundOf s k = some b →
      planIndex s b k = some i → late = overdueRecs s k b i ++ mergeLate s k →
      new = late.filter (fun x => !(Machine.core s k).overran.contains (x.1, x.2.1)) →
      (late = [] → exec (.overrun k) s = .next s)
      ∧ (d ∈ late.map (·.2.2) → (∀ x ∈ late, x.2.2 ≤ d) → ∃ t, exec (.overrun k) s = .next t
          ∧ t.hw = (bump (clOf k) 0x508 new.length
              (modCore k (fun q => { q with overran := q.overran ++ new.map fun x => (x.1, x.2.1) }) s)).hw
          ∧ (hasRequest s k = true → t.fab = s.fab)
          ∧ (hasRequest s k = false → t.fab.own =
              s.fab.own ++ [{ core := k, beat := s.fab.beat, len := BitVec.ofNat 16 (min 65535 (max 1 d + lamOf (ringN s))) }]))

/-- R181, R248, R265 and R273. -/
def Obligations.LayerStepOpensAndSteps : Prop :=
  ∀ (k : Fin 2016) (r : RecRead) (c : Iss) (s : State), Reads c k r s →
    (Issued 1 c r s → openReady c s = true → (brun s c.b).dead = false → ∃ t, exec (.lstep k r) s = .next t
      ∧ ((lsOf s k).opened = true → lsOf t k = lsOf s k)
      ∧ ((lsOf s k).opened = false → (∀ x ∈ (Machine.core s k).early, x.msg.layer.toNat ≠ rLayer c.x) →
          lsOf t k = { opened := true, layer := rLayer c.x, start := s.fab.sched, lstep := c.idx, beat := rBeat c.x })
      ∧ (Machine.core t k).walks = [] ∧ (Machine.core t k).fetchQ = []
      ∧ (Machine.core t k).redWaits = []
      ∧ (∀ y, stateTiles (c.plan s) c.i c.idx = [y] →
          (∀ row < 16, tileWord t k y.1 (32 + row) = 1 ∧ tileWord t k y.1 (16 + row) = 0)
          ∧ ∀ w < 256 * (y.2 - 1), tileWord t k (y.1 + 1) w = 0)
      ∧ t.srv = s.srv ∧ MemKept s t
      ∧ (ringSplit (c.plan s) (rLayer c.x) = false → t.ten = s.ten ∧ t.err = s.err))
    ∧ (Issued 1 c r s → (brun s c.b).dead = true → exec (.lstep k r) s = .next (begun c s))
    ∧ (Ready 1 c r s → openReady c s = false → exec (.lstep k r) s = .next s)
    ∧ ((lsOf s k).opened = true → (brun s c.b).dead = false → stepJudged c s = false
        ∧ (openReady c s = true ↔ (lsOf s k).run ≠ 0 ∧ (lsOf s k).lstep = c.idx))
    ∧ (c.wide = true → Open c s → damageOf s 2 r = none → exec (.stepend k r) s = .next s)
    ∧ (Ready 2 c r s → stepJudged c s = false → exec (.stepend k r) s = .next s)
    ∧ (Issued 2 c r s → stepJudged c s = true → ∃ t, exec (.stepend k r) s = .next t
      ∧ (Machine.core t k).ptr = 0 ∧ (Machine.core t k).ptrLow = 0 ∧ (Machine.core t k).ptrHigh = 0
      ∧ (Machine.core t k).stepAt = (Machine.core s k).stepAt + BitVec.ofNat 64 (plPeriod (planOf s c.b))
      ∧ (c.i ≠ 0 → t.srv = s.srv ∧ t.ten = s.ten ∧ MemKept s t)
      ∧ (c.i = 0 → (entry s c.b).st = 3 → (brun t c.b).dead = false ∧ (entry t c.b).steps = (entry s c.b).steps + 1
          ∧ (brun t c.b).stepAt = (brun s c.b).stepAt + BitVec.ofNat 64 (plPeriod (planOf s c.b))))
    ∧ (Issued 3 c r s → ∀ i rec, vecSlot c = some i → slotRec s c.b i = some rec → opSpace (rOpA c.x) = 1 →
      (slotFed s c.b i = 0 → exec (.select k r) s = .next (begun c s))
      ∧ (slotFed s c.b i ≠ 0 → ∃ t cands, exec (.select k r) s = .next t
          ∧ cands = (List.range (min 8 (rImm c.x % 16))).map (fun j =>
              let bs := lookAll (fun _ => 0) (Machine.core s k).sram (opOff (rOpA c.x)) 64
              (w32At bs (4 * j), w32At bs (32 + 4 * j)))
          ∧ ((lsOf s k).opened = true → (lsOf t k).picks = (lsOf s k).picks ++ [(rec, cands)] ∧ t.srv = s.srv)
          ∧ ((lsOf s k).opened = false → (ctxRun t rec).yToks = (ctxRun s rec).yToks ++ [(selectToken (begun c s) rec
              ((ctx s rec).length.toNat + (ctxRun s rec).yToks.length + 1) cands, cands)])
          ∧ (∀ x, x ≠ rec → ctxRun t x = ctxRun s x) ∧ (∀ x, ctx t x = ctx s x) ∧ MemKept s t))

/-- What a QUANT leaves (R106, R109, R124, R125, R270). -/
def Sys2Proof.Spec.Quantised (c : Iss) (k : Fin 2016) (r : RecRead) (s : State) : Prop :=
  ∀ (p : List Byte) (l v rb at_ n : Nat), p = c.plan s → l = rLayer c.x → v = rImm c.x → rb = rRow c.x → at_ = 256 * v + rb →
    n = min 256 (lyW p l - 256 * rb) →
    (vecUsed s c v = false → ∃ t, exec (.quant k r) s = .next t
      ∧ (∀ j < 256, look (fun _ => (false, 0)) (lsOf t k).codes (at_ * 256 + j) = (false, 0))
      ∧ t.srv = s.srv ∧ MemKept s t ∧ t.err = s.err)
    ∧ (∀ i rec, vecUsed s c v = true → (opSpace (rOpA c.x) = 1 ∨ opSpace (rOpA c.x) = 2) → vecSlot c = some i →
      slotRec s c.b i = some rec → n % 32 = 0 → ∃ t, exec (.quant k r) s = .next t
        ∧ (∀ j < n, (look (fun _ => (false, 0)) (lsOf t k).codes (at_ * 256 + j)).2 ≤ (if bitOf (rFlags c.x) 0 then 255 else 15))
        ∧ (∀ j < n, 256 * rb + j ∈ lyNamed p l → (look (fun _ => (false, 0)) (lsOf t k).codes (at_ * 256 + j)).2 = 0)
        ∧ (∀ j < n, (∀ m < n, m / 32 = j / 32 → 256 * rb + m ∉ lyNamed p l →
              zeroF f32 ((readWordsAt k c.b (rOpA c.x) (256 * rb) n s).1.getD m 0).toNat = true) →
            (look (fun _ => (false, 0)) (lsOf t k).codes (at_ * 256 + j)).2 = 0)
        ∧ (∀ g < n / 32, 1 ≤ look (fun _ => 64) (lsOf t k).drive (at_ * 8 + g) ∧ look (fun _ => 64) (lsOf t k).drive (at_ * 8 + g) ≤ 64)
        ∧ (lsOf t k).carried = (lsOf s k).carried ||| slotBit i
        ∧ (enabledCl s (clOf k) = true → look winReset (cluster t (clOf k)).win 0x210 =
            look winReset (cluster s (clOf k)).win 0x210 + BitVec.ofNat 64 ((lyNamed p l).filter fun y => y / 256 == rb).length)
        ∧ t.srv = s.srv ∧ MemKept s t)

/-- Where a PASS goes (R62, R187, R203, R211, R212). -/
def Sys2Proof.Spec.PassQueued (c : Iss) (k : Fin 2016) (r : RecRead) (s : State) : Prop :=
  (passReady c s = false → exec (.pass k r) s = .next (modCore k (fun q => { q with unitWait := true }) s))
  ∧ (passReady c s = true → passUse s c = none → ∃ t, exec (.pass k r) s = .next t ∧ (brun t c.b).dead = true)
  ∧ (passReady c s = true → ∀ u, passUse s c = some u →
    (∀ n sh, passPlane s c.b u = some (n, sh) → ∃ t p, exec (.pass k r) s = .next t
      ∧ (engine t (engOf n)).queue = (engine s (engOf n)).queue ++ [p] ∧ p.bits = r.bits ∧ p.idx = r.idx ∧ p.plane = n
      ∧ p.shadow = sh ∧ p.prim = u.plane ∧ p.at_ = ceilDiv (64 * beatOf s c) 5 + rSlot c.x ∧ t.hw.planes = s.hw.planes ∧ t.fab = s.fab)
    ∧ (passPlane s c.b u = none → masterGood s u.plane = true → ∃ t p, exec (.pass k r) s = .next t
      ∧ (engine t (engOf u.plane)).queue = (engine s (engOf u.plane)).queue ++ [p] ∧ p.plane = u.plane ∧ u.plane ∈ t.hw.held
      ∧ ∃ q ∈ t.fab.own, q.core = k.val ∧ q.len = 24415)
    ∧ (passPlane s c.b u = none → masterGood s u.plane = false → ∃ t, exec (.pass k r) s = .next t ∧ (brun t c.b).dead = true
      ∧ Raised 0x10 1 ((plane s u.plane).owner.toNat % 2 ^ 32) ((plane s u.plane).owner.toNat / 2 ^ 32) 0 s t))

/-- What a SIEVE adds (R106, R107). -/
def Sys2Proof.Spec.Sieved (c : Iss) (k : Fin 2016) (r : RecRead) (s : State) : Prop :=
  ∀ (p : List Byte) (l : Nat) (names : List Nat) (rows : OutlierCopy), p = c.plan s → l = rLayer c.x → names = lyNamed p l →
    names ≠ [] → opSpace (rOpA c.x) = 1 → vecUsed s c (rImm c.x) = true →
    look (fun _ => none) s.hw.outliers (c.b * 65536 + l) = some rows →
    (rows.owner ≠ (entry s c.b).tenant → ∃ t, exec (.sieve k r) s = .next t ∧ (brun t c.b).dead = true
      ∧ Raised 0x11 1 (rows.owner.toNat % 2 ^ 32) (rows.owner.toNat / 2 ^ 32) 0 s t)
    ∧ (rows.owner = (entry s c.b).tenant → ∃ t, exec (.sieve k r) s = .next t ∧ ∀ o, o / 256 = rCol c.x → o < lyN p l →
        look (fun _ => 0) (lsOf t k).sieve (rImm c.x * 2 ^ 20 + o) =
          (List.range names.length).foldl (fun a i =>
            let x := (wordsOf (lookAll (fun _ => 0) (Machine.core s k).sram (opOff (rOpA c.x)) (4 * lyW p l))).getD (names.getD i 0) 0
            (faddC a (fmulC x (outlierWeight rows.data names.length (lyN p l) i o)).1).1) 0)

/-- What the pass `q` at the head of a queue does in its slot (R62, R79, R98, R113). -/
def Sys2Proof.Spec.SlotRun (c : Iss) (q : QPass) (rest : List QPass) (e : Fin 34272) (slot : Fin 64) (s : State) : Prop :=
  ∀ (p : List Byte) (l v rb : Nat) (xs : List Int) (ks : List Nat), p = c.plan s → l = rLayer c.x → v = rImm c.x → rb = rRow c.x →
    xs = codesFor s c → ks = passDrive s c.k v rb →
    (ownerOk s c.b q.plane = false → ∃ t, exec (.passSlot ⟨e, slot⟩) s = .next t ∧ (brun t c.b).dead = true
      ∧ Raised 0x10 1 ((plane s q.plane).owner.toNat % 2 ^ 32) ((plane s q.plane).owner.toNat / 2 ^ 32) 0 s t)
    ∧ (ownerOk s c.b q.plane = true → (v, rb) ∉ (lsOf s c.k).badBlk → passNib c.x = 0 →
      (xs.all (· == 0) = true → ∃ t y, exec (.passSlot ⟨e, slot⟩) s = .next t ∧ (engine t e).queue = rest ∧ t.hw.planes = s.hw.planes
        ∧ t.fresh = s.fresh ∧ (lsOf t c.k).contrib = (lsOf s c.k).contrib ++ [y] ∧ y.vals = List.replicate 256 0
        ∧ y.col = rCol c.x ∧ y.vec = v)
      ∧ (xs.all (· == 0) = false → ∀ h w, h = shot s q.plane (rShift c.x) xs ks → h.sats = 0 → h.refSat = false → h.bad = none →
          w = compares (engine s (engOf q.plane)) (plane s q.plane) (rShift c.x) h.vals xs ks → w.csMiss = false → w.inMiss = false →
        ∃ t y, exec (.passSlot ⟨e, slot⟩) s = .next t ∧ (engine t e).queue = rest ∧ (lsOf t c.k).misses = (lsOf s c.k).misses ∧ t.err = s.err
          ∧ (lsOf t c.k).contrib = (lsOf s c.k).contrib ++ [y] ∧ y.key = (((ringOffset p l (entry s c.b).planPart.toNat * 128 + (cluster s (clOf c.k)).logical.toNat) * 32
              + (Machine.core s c.k).logical.toNat) * 16 + rEngine c.x) * 256 + rb
          ∧ ∀ j < 256, 256 * rCol c.x + j < lyN p l → lyr p l 36 4 ≠ absent →
              y.vals.getD j 0 = fmul (fmul (h.vals.getD j 0) (look (fun _ => 0) (lsOf s c.k).passS (256 * v + rb)))
                (h2f (BitVec.ofNat 16 (param p (lyr p l 36 4) (2 * (rb * lyN p l + (256 * rCol c.x + j))) 2)))))

/-- R62, R67, R75, R79, R98, R106, R125, R186, R188, R211 and R212. -/
def Obligations.QuantAndPass : Prop :=
  (∀ (k : Fin 2016) (r : RecRead) (c : Iss) (s : State), Reads c k r s →
    (Issued 0x10 c r s → Quantised c k r s) ∧ (Issued 0x11 c r s → PassQueued c k r s) ∧ (Issued 0x20 c r s → Sieved c k r s))
  ∧ (∀ (e : Fin 34272) (s : State),
      (∀ slot : Fin 64,
        ((engineHolder s e = none ∨ (engine s e).split ≠ none ∨ (engine s e).queue = [] ∨ freeSlot s e slot = none) →
          exec (.passSlot ⟨e, slot⟩) s = .next s)
        ∧ ((engineHolder s e = none ∨ (engine s e).split = none ∨ freeSlot s e slot = none) → exec (.splitHalf ⟨e, slot⟩) s = .next s)
        ∧ ((5 * slot.val / 64 ≠ s.fab.beat.toNat % 5 ∨ (Machine.core s (coreOf e)).window.isSome = true
            ∨ ∃ l, (engine s e).lastSlot = some l ∧ 64 * (s.fab.beat.toNat / 5) + slot.val ≤ l) → freeSlot s e slot = none))
      ∧ ∀ (slot : Fin 64) (n b i : Nat) (q : QPass) (rest : List QPass), engineHolder s e = some (b, i) → (engine s e).split = none →
          (engine s e).queue = q :: rest → freeSlot s e slot = some n →
          (n < q.at_ → exec (.passSlot ⟨e, slot⟩) s = .next s)
          ∧ (q.at_ ≤ n → (q.shadow = true ∨ planeWaits (plane s q.plane) = false) →
              SlotRun (q.iss (coreOf e) b i) q rest e slot s))
  ∧ ∀ (e : Fin 34272) (slot : Fin 64) (s : State) (b i n : Nat) (sp : Split), engineHolder s e = some (b, i) →
      (engine s e).split = some sp → freeSlot s e slot = some n → ownerOk s b sp.pass.plane = true →
      (sp.half = 0 → ∃ t sq, exec (.splitHalf ⟨e, slot⟩) s = .next t ∧ (engine t e).split = some sq ∧ sq.half = 1 ∧ sq.pass = sp.pass
        ∧ t.hw.planes = s.hw.planes ∧ t.err = s.err ∧ t.srv = s.srv)
      ∧ (sp.half ≠ 0 → (lsOf s (coreOf e)).missPrev = [] → passNib sp.pass.x = 0 → ∃ t p, exec (.splitHalf ⟨e, slot⟩) s = .next t
        ∧ (engine t e).split = none ∧ (lsOf t (coreOf e)).contrib = (lsOf s (coreOf e)).contrib ++ [p]
        ∧ p.col = rCol sp.pass.x ∧ p.vec = rImm sp.pass.x)

/-- The sums of message `d` stand at core `k`, with the status that came with them (R163, R117). -/
def Sys2Proof.Spec.SumsTaken (k : Nat) (d : ChainMsg) (clamp : List Bool) (s t : State) : Prop :=
  (lsOf t k).sums = ((lsOf s k).sums.filter fun x => !(x.vec == d.vec.toNat && x.col == d.col.toNat))
      ++ [{ vec := d.vec.toNat, col := d.col.toNat, comp := d.comp, s := d.s, c := d.c, clamp := clamp }]
  ∧ (lsOf t k).inDirty = ((lsOf s k).inDirty || d.status.dirty) ∧ (lsOf t k).inImpl = (lsOf s k).inImpl ||| d.status.impl

/-- The sums of message `d` wait at core `k` for the LSTEP of their layer (R158, R164). -/
def Sys2Proof.Spec.SumsWait (k : Nat) (d : ChainMsg) (clamp : List Bool) (s t : State) : Prop :=
  (Machine.core t k).early = (Machine.core s k).early ++ [{ msg := d, clamp := clamp }] ∧ lsOf t k = lsOf s k

/-- A CHAIN at its core (R159, R163). -/
def Sys2Proof.Spec.Chained (c : Iss) (k : Fin 2016) (r : RecRead) (s : State) : Prop :=
  (chainReady c s = false → exec (.chain k r) s = .next s)
  ∧ ∀ (u : RunSum) (d : ChainMsg), chainReady c s = true → u = runSum (lsOf s k) (rImm c.x) (rCol c.x) (bitOf (rFlags c.x) 0) →
    d = { layer := BitVec.ofNat 16 (rLayer c.x), col := BitVec.ofNat 12 (rCol c.x), vec := BitVec.ofNat 16 (rImm c.x),
          comp := bitOf (rFlags c.x) 0, s := u.s, c := if bitOf (rFlags c.x) 0 then u.c else [], last := bitOf (rFlags c.x) 1,
          status := if bitOf (rFlags c.x) 1 then coreStatus s k c.b else { dirty := false, impl := 0 } } →
    (∀ m, peerCore s c.b (rOpB c.x) = some m → m ≠ k.val → ∃ t, exec (.chain k r) s = .next t
      ∧ (lsOf t k).contrib = (lsOf s k).contrib.filter (fun y => !(y.vec == rImm c.x && y.col == rCol c.x))
      ∧ ((lsOf s m).opened = true → (lsOf s m).layer = rLayer c.x → SumsTaken m d u.clamp s t)
      ∧ (((lsOf s m).opened = false ∨ (lsOf s m).layer ≠ rLayer c.x) → SumsWait m d u.clamp s t) ∧ t.out = s.out ∧ MemKept s t)
    ∧ (peerCore s c.b (rOpB c.x) = none → peerAway s c.b (rOpB c.x) = true → ∃ t, exec (.chain k r) s = .next t
      ∧ Sends [.chain k.val (BitVec.ofNat 32 (rOpB c.x)) d] s t ∧ (∃ x ∈ t.fab.txns, x.data = wordsBytes (u.s ++ d.c))
      ∧ MemKept s t ∧ t.srv = s.srv)

/-- A TAIL at its core (R99, R117). -/
def Sys2Proof.Spec.Tailed (c : Iss) (k : Fin 2016) (r : RecRead) (s : State) : Prop :=
  (chainReady c s = false → exec (.tail k r) s = .next s)
  ∧ ∀ (p : List Byte) (l v o : Nat) (u : RunSum) (ys : List W32), chainReady c s = true → p = c.plan s →
    l = rLayer c.x → v = rImm c.x → o = 256 * rCol c.x → u = runSum (lsOf s k) v (rCol c.x) (bitOf (rFlags c.x) 0) →
    ys = (List.range 256).map (fun j => if lyN p l ≤ o + j then 0
      else (faddC (faddC (if bitOf (rFlags c.x) 0 then (faddC (u.s.getD j 0) (u.c.getD j 0)).1 else u.s.getD j 0) (look (fun _ => 0) (lsOf s k).sieve (v * 2 ^ 20 + (o + j)))).1 (biasOf p l (o + j))).1) →
    (opSpace (rOpA c.x) = 1 → ∃ t, exec (.tail k r) s = .next t
      ∧ lookAll (fun _ => 0) (Machine.core t k).sram (opOff (rOpA c.x)) 1024 = wordsBytes ys ∧ MemKept s t ∧ t.srv = s.srv)
    ∧ ((opSpace (rOpA c.x) = 7 ∨ inDevice (rOpA c.x) = true) → (lsOf s k).opened = true → ∃ t q, exec (.tail k r) s = .next t
      ∧ (lsOf t k).tails = (lsOf s k).tails ++ [q] ∧ q.dest = BitVec.ofNat 32 (rOpA c.x) ∧ q.data = wordsBytes ys
      ∧ (∀ m, (Machine.core t m).sram = (Machine.core s m).sram) ∧ MemKept s t ∧ t.srv = s.srv)

/-- The judgement of the layer step that a binding's cores have open (R117, R139 to R147). -/
def Sys2Proof.Spec.Judged (b : Fin 4096) (remote : CoreStatus) (s : State) : Prop :=
  (openGroup s b = [] → exec (.layerStepStatus b remote) s = .next s)
  ∧ ∀ (g : List Nat) (i : Nat) (q : LayerRun) (a : Nat) (dirty : Bool), openGroup s b = g → i ∈ g → q = lsOf s (g.headD 0) →
    a = lyA (planOf s b) q.layer → dirty = (remote.dirty || g.any fun m => (coreStatus s m b).dirty) →
    (groupDone s b (g.headD 0) = false → exec (.layerStepStatus b remote) s = .next s)
    ∧ (groupDone s b (g.headD 0) = true → ∃ t, exec (.layerStepStatus b remote) s = .next t
      ∧ (dirty = false → lsOf t i = {})
      ∧ (dirty = true → q.run < a + 2 → (lsOf t i).opened = true ∧ (lsOf s i).run < (lsOf t i).run ∧ (lsOf t i).layer = (lsOf s i).layer
          ∧ (lsOf t i).tails = [] ∧ (lsOf t i).picks = [] ∧ (lsOf t i).contrib = [] ∧ (lsOf t i).carry = [] ∧ (lsOf t i).maxima = []
          ∧ t.srv = s.srv ∧ MemKept s t ∧ t.err = s.err ∧ (Machine.core t i).ptr = (lsOf s i).lstep
          ∧ (g.Nodup → lsOf t i =
              { opened := true, layer := (lsOf s i).layer, run := (lsOf s i).run + 1, start := (lsOf s i).start,
                lstep := (lsOf s i).lstep, beat := (lsOf s i).beat, missPrev := (lsOf s i).missNow,
                point := if q.run < a then 0 else s.fab.beat + BitVec.ofNat 64 s.fab.lead.toNat })
          ∧ (q.run < a → t.fab = s.fab)
          ∧ (a ≤ q.run → t.fab.own = s.fab.own ++ g.map fun m =>
              { core := m, beat := s.fab.beat, len := BitVec.ofNat 16 (min 65535 (lySpan (planOf s b) q.layer)) }))
      ∧ (dirty = true → a + 2 ≤ q.run → lsOf t i = {} ∧ MemKept s t
          ∧ Raised 0x26 1 (abandonedSlots s b (g.foldl (fun x m => x ||| (lsOf s m).carried) 0)).length 0 0 s t
          ∧ ∀ j ∈ abandonedSlots s b (g.foldl (fun x m => x ||| (lsOf s m).carried) 0), bitOf (brun t b).removed.toNat j = true))

/-- R99, R117, R142 to R147, R159 to R164. -/
def Obligations.ChainTailCommit : Prop :=
  (∀ (k : Fin 2016) (r : RecRead) (c : Iss) (s : State), Reads c k r s →
    (Issued 0x30 c r s → Chained c k r s) ∧ (Issued 0x31 c r s → Tailed c k r s))
  ∧ (∀ (k : Fin 2016) (d : ChainMsg) (s : State),
      (boundOf s k = none → exec (.chainArrival k d) s = .next s)
      ∧ (boundOf s k ≠ none → ((lsOf s k).opened = false ∨ (lsOf s k).layer ≠ d.layer.toNat) →
          ∃ t, exec (.chainArrival k d) s = .next t ∧ SumsWait k d [] s t ∧ t.srv = s.srv ∧ MemKept s t)
      ∧ (boundOf s k ≠ none → (lsOf s k).opened = true → (lsOf s k).layer = d.layer.toNat → ∃ t, exec (.chainArrival k d) s = .next t
          ∧ SumsTaken k d [] s t ∧ t.srv = s.srv ∧ MemKept s t))
  ∧ ∀ (b : Fin 4096) (remote : CoreStatus) (s : State), Judged b remote s

/-- The words that an operand in staging holds. -/
def Sys2Proof.Spec.stagedWords (s : State) (k o n : Nat) : List W32 :=
  wordsOf (lookAll (fun _ => 0) (Machine.core s k).sram (opOff o) (4 * n))

/-- A REDUCE at its core (R162). -/
def Sys2Proof.Spec.Reduced (c : Iss) (k : Fin 2016) (r : RecRead) (s : State) : Prop :=
  (reduceReady c s = false → exec (.reduce k r) s = .next s)
  ∧ ∀ (kind : Nat) (old : Option ReduceMsg) (own v : W32) (n : W32), reduceReady c s = true → opSpace (rOpA c.x) = 1 →
    kind = rFlags c.x % 4 → old = partialIn s k (rLayer c.x) kind →
    (kind = 0 → own = (fsumC (stagedWords s k (rOpA c.x) (rLen c.x))).1) →
    (kind = 1 → own = (fsumC ((stagedWords s k (rOpA c.x) (rLen c.x)).map fun x => (fmulC x x).1)).1) →
    v = (match old with | some m => (faddC m.value own).1 | none => own) →
    n = (match old with | some m => m.count | none => 0) + BitVec.ofNat 32 (rLen c.x) →
    (kind ≤ 1 → opSpace (rOpB c.x) ≠ 7 → ∃ t, exec (.reduce k r) s = .next t
      ∧ (∀ m ∈ heldBy s c.b, (lsOf s m).opened = true → (lsOf s m).layer = rLayer c.x →
          (kind = 0 → (lsOf t m).redS = v ∧ (lsOf t m).redC = n) ∧ (kind = 1 → (lsOf t m).redS2 = v ∧ (lsOf t m).redC2 = n))
      ∧ ((∀ m ∈ heldBy s c.b, (Machine.core s m).redWaits = []) → MemKept s t ∧ t.srv = s.srv))
    ∧ (kind = 2 → opSpace (rOpB c.x) ≠ 7 → old = none → heldBy s c.b = [k.val] → (Machine.core s k).redWaits = [] → ∃ t, exec (.reduce k r) s = .next t
      ∧ lookAll (fun _ => 0) (Machine.core t k).sram (opOff (rOpA c.x)) 64 = wordsBytes (topkWords
          ((orderCands (topkAt (lookAll (fun _ => 0) (Machine.core s k).sram (opOff (rOpA c.x)) 64) (rLen c.x))).take (min 8 (rLen c.x)))))
    ∧ (∀ m, kind ≤ 1 → opSpace (rOpB c.x) = 7 → peerCore s c.b (rOpB c.x) = some m → m ≠ k.val → ∃ t d, exec (.reduce k r) s = .next t
      ∧ (Machine.core t m).redIn = (Machine.core s m).redIn ++ [d] ∧ d.final = false ∧ d.value = v ∧ d.count = n ∧ lsOf t m = lsOf s m)

/-- An ACT at its core (R101 to R103, R547). -/
def Sys2Proof.Spec.Activated (c : Iss) (k : Fin 2016) (r : RecRead) (s : State) : Prop :=
  ∀ (fn n a : Nat), fn = rImm c.x % 16 → n = rLen c.x → a = opOff (rOpA c.x) →
    (fn = 0 ∨ fn = 8 → rCntA c.x = 0 → rCntB c.x = 0 → rCntD c.x = 0 → opSpace (rOpA c.x) = 1 → opSpace (rOpB c.x) = 1 →
      ∃ t, exec (.act k r) s = .next t ∧ MemKept s t ∧ t.srv = s.srv
      ∧ (fn = 0 → lookAll (fun _ => 0) (Machine.core t k).sram a (4 * n) = wordsBytes ((List.range n).map fun i =>
          (faddC ((stagedWords s k (rOpA c.x) n).getD i 0) ((stagedWords s k (rOpB c.x) n).getD i 0)).1))
      ∧ (fn = 8 → lookAll (fun _ => 0) (Machine.core t k).sram a (4 * n) = wordsBytes ((List.range n).map fun i =>
          (fmulC ((stagedWords s k (rOpA c.x) n).getD i 0) ((stagedWords s k (rOpB c.x) 1).getD 0 0)).1)))
    ∧ ((1 ≤ fn ∧ fn ≤ 3) ∨ fn = 5 → rCntA c.x ≠ 0 → rCntD c.x ≠ 0 → ∃ t, exec (.act k r) s = .next t ∧ MemKept s t ∧ t.srv = s.srv
      ∧ (fn ≤ 3 → ∀ i < n, fin32 (tileWord s k (rTileA c.x) i) = true → fin32 (tileWord t k (rTileD c.x) i) = true)
      ∧ (fn = 1 → ∀ i < n, zeroF f32 (tileWord s k (rTileA c.x) i).toNat = true → tileWord t k (rTileD c.x) i = 0)
      ∧ (fn = 5 → (lsOf s k).redZ2 = true → ∀ i < n, tileWord t k (rTileD c.x) i = 0))
    ∧ (fn = 7 → bitOf (rFlags c.x) 0 = false → opSpace (rOpA c.x) = 1 → ∃ t, exec (.act k r) s = .next t ∧ MemKept s t ∧ t.srv = s.srv
      ∧ ∀ q, q < a ∨ a + 4 * n ≤ q → look (fun _ => 0) (Machine.core t k).sram q = look (fun _ => 0) (Machine.core s k).sram q)
    ∧ (fn = 7 → bitOf (rFlags c.x) 0 = true → opSpace (rOpA c.x) = 1 → ∃ t, exec (.act k r) s = .next t ∧ MemKept s t
      ∧ t.srv = s.srv ∧ (Machine.core t k).sram = (Machine.core s k).sram)

/-- A POOL at its core (R104). -/
def Sys2Proof.Spec.Pooled (c : Iss) (k : Fin 2016) (r : RecRead) (s : State) : Prop :=
  ∀ (xs : List W32), (rCntA c.x ≠ 0 → xs = tileWords s k (rTileA c.x) (rLen c.x)) →
    (rCntA c.x = 0 → opSpace (rOpA c.x) = 1 ∧ xs = stagedWords s k (rOpA c.x) (rLen c.x)) →
    (rCntD c.x = 0 → exec (.pool k r) s = .next (begun c s))
    ∧ (rCntD c.x ≠ 0 → ∃ t, exec (.pool k r) s = .next t ∧ MemKept s t ∧ t.srv = s.srv
      ∧ (rImm c.x % 4 = 0 → tileWord t k (rTileD c.x) 0 = (fsumC xs).1)
      ∧ (rImm c.x % 4 = 1 → xs ≠ [] → tileWord t k (rTileD c.x) 0 ∈ xs
          ∧ ∀ x ∈ xs, dyLt (fv (tileWord t k (rTileD c.x) 0)) (fv x) = false)
      ∧ (rImm c.x % 4 = 2 → tileWord t k (rTileD c.x) 0 = fmul (fsumC xs).1 (recipOf (rLen c.x)))
      ∧ (rImm c.x % 4 = 3 → tileWords t k (rTileD c.x) 16 = topkWords ((orderCands (((List.range (rLen c.x)).zip xs).map fun x =>
          (x.2, BitVec.ofNat 32 (poolIndex (begun c s) c x.1)))).take (rImm c.x / 4 % 16))))

/-- R101 to R104, R162 and R547. -/
def Obligations.ReduceAndActivation : Prop :=
  (∀ (k : Fin 2016) (r : RecRead) (c : Iss) (s : State), Reads c k r s →
    (Issued 0x32 c r s → Reduced c k r s) ∧ (Issued 0x40 c r s → Activated c k r s) ∧ (Issued 0x41 c r s → Pooled c k r s))
  ∧ ∀ (k : Fin 2016) (d : ReduceMsg) (s : State),
      (boundOf s k = none → exec (.reduceResultArrival k d) s = .next s)
      ∧ (boundOf s k ≠ none → d.final = false → ∃ t, exec (.reduceResultArrival k d) s = .next t
          ∧ (Machine.core t k).redIn = (Machine.core s k).redIn ++ [d] ∧ lsOf t k = lsOf s k ∧ MemKept s t)
      ∧ (boundOf s k ≠ none → d.final = true → (lsOf s k).opened = true → (lsOf s k).layer = d.layer.toNat → (Machine.core s k).redWaits = [] →
          (d.kind = 0 → ∃ t, exec (.reduceResultArrival k d) s = .next t
            ∧ lsOf t k = { lsOf s k with redS := d.value, redC := d.count, redZ := d.zero })
          ∧ (d.kind = 1 → ∃ t, exec (.reduceResultArrival k d) s = .next t
            ∧ lsOf t k = { lsOf s k with redS2 := d.value, redC2 := d.count, redZ2 := d.zero })
          ∧ (d.kind = 3 → ∃ t, exec (.reduceResultArrival k d) s = .next t ∧ lsOf t k = { lsOf s k with redS3 := d.value, redC3 := d.count }))
      ∧ (∀ w, boundOf s k ≠ none → d.final = true → d.kind = 2 → (Machine.core s k).redWaits = [w] → w.kind = 2 →
          w.layer = d.layer.toNat → opSpace w.dest.toNat = 1 → ∃ t, exec (.reduceResultArrival k d) s = .next t
            ∧ lookAll (fun _ => 0) (Machine.core t k).sram (opOff w.dest.toNat) 64 = wordsBytes (topkWords d.cands)
            ∧ (Machine.core t k).redWaits = [])

/-- A SCORE at its core (R157, R169). -/
def Sys2Proof.Spec.Scored (c : Iss) (k : Fin 2016) (r : RecRead) (s : State) : Prop :=
  ∀ (q kk d kv : Nat) (f : Fmt), q = shQ (rImm c.x) → kk = shK (rImm c.x) → d = shD (rImm c.x) → f = pairFmt (rImm c.x) →
    kv = lyKv (c.plan s) (lsOf s k).layer → ∃ t, exec (.score k r) s = .next t ∧ MemKept s t ∧ t.srv = s.srv
      ∧ (∀ i < q, ∀ u < kk, tileWord t k (rTileD c.x) (i * kk + u) =
          (dotTile q kk d (if bitOf (rFlags c.x) 0 then (wordOf (tileWord s k (rTileD c.x) (i * kk + u))).1 else 0)
            ((List.range d).map fun j => ((operandOf f (tileElem s k (rTileA c.x) f (i * d + j))).1,
              (secondElem s k (rTileB c.x) (rImm c.x) kv (u * d + j)).1))).1)
      ∧ ((∃ i < q * d, finiteF f (tileElem s k (rTileA c.x) f i) = false) → (lsOf s k).misses < (lsOf t k).misses)
      ∧ ((∀ i < q * d, finiteF f (tileElem s k (rTileA c.x) f i) = true) →
          (∀ i < kk * d, (secondElem s k (rTileB c.x) (rImm c.x) kv i).2 = true) →
          (bitOf (rFlags c.x) 0 = true → ∀ i < q * kk, fin32 (tileWord s k (rTileD c.x) i) = true) → (lsOf t k).misses = (lsOf s k).misses)

/-- An SMAX at its core (R249). -/
def Sys2Proof.Spec.Softened (c : Iss) (k : Fin 2016) (r : RecRead) (s : State) : Prop :=
  ∀ (p : List Byte) (l q kk td : Nat) (seen : Nat → List Nat), p = c.plan s → l = (lsOf s k).layer → q = atQ p l → kk = atK p l →
    td = rTileD c.x → (seen = fun i => (List.range kk).filter fun u =>
      look (fun _ => false) (Machine.core s k).mask (256 * rTileA c.x + 16 * i + u)) →
    q * (atD p l * ceilDiv (atDh p l) (atD p l)) ≤ 256 * (rCntD c.x - 1) → (rTileA c.x < td ∨ td + rCntD c.x ≤ rTileA c.x) →
    ∃ t, exec (.smax k r) s = .next t ∧ MemKept s t ∧ t.srv = s.srv
      ∧ (∀ i < q, seen i = [] → (∀ u < kk, tileWord t k (rTileA c.x) (i * kk + u) = 0) ∧ tileWord t k td i = tileWord s k td i
          ∧ tileWord t k td (16 + i) = tileWord s k td (16 + i) ∧ tileWord t k td (32 + i) = tileWord s k td (32 + i))
      ∧ (∀ i < q, ∀ a as, seen i = a :: as → tileWord t k td (32 + i) = 0
          ∧ tileWord t k td i =
              (let m := as.foldl (fun x u => fmax x (wordOf (tileWord s k (rTileA c.x) (i * kk + u))).1)
                 (wordOf (tileWord s k (rTileA c.x) (i * kk + a))).1
               if tileWord s k td (32 + i) ≠ 0 then m else fmax (wordOf (tileWord s k td i)).1 m)
          ∧ ∀ u < kk, u ∉ seen i → tileWord t k (rTileA c.x) (i * kk + u) = 0)

/-- A VALUE at its core (R170). -/
def Sys2Proof.Spec.Weighted (c : Iss) (k : Fin 2016) (r : RecRead) (s : State) : Prop :=
  ∀ (q kk d kv : Nat), q = shQ (rImm c.x) → kk = shK (rImm c.x) → d = shD (rImm c.x) → kv = lyKv (c.plan s) (lsOf s k).layer →
    ∃ t, exec (.value k r) s = .next t ∧ MemKept s t ∧ t.srv = s.srv
      ∧ ∀ i < q, ∀ u < d, tileWord t k (rTileD c.x) (i * d + u) = (faddC (wordOf (tileWord s k (rTileD c.x) (i * d + u))).1
          (treeSum (Nat.log2 kk) ((List.range kk).map fun j => (fmulC (wordOf (tileWord s k (rTileA c.x) (i * kk + j))).1
            (secondElem s k (rTileB c.x) (rImm c.x) kv (j * d + u)).1).1)).1).1

/-- A MERGE at its core (R173, R251, R252). -/
def Sys2Proof.Spec.Merged (c : Iss) (k : Fin 2016) (r : RecRead) (s : State) : Prop :=
  ∀ (p : List Byte) (l : Nat), p = c.plan s → l = (lsOf s k).layer →
    ((Machine.core s k).mergeWait ≠ none → exec (.merge k r) s = .next (modCore k (fun q => { q with unitWait := true }) s))
    ∧ ((Machine.core s k).mergeWait = none → rLen c.x ≠ 0 → (Machine.core s k).mergeIn = [] → ∃ t w, exec (.merge k r) s = .next t
      ∧ (Machine.core t k).mergeWait = some w ∧ w.tile = rTileA c.x ∧ w.peer = BitVec.ofNat 32 (rOpB c.x)
      ∧ (∀ y ∈ tilesNamed c.x, y < 32 → bitOf (Machine.core t k).tileUse.toNat y = true)
      ∧ (Machine.core t k).tiles = (Machine.core s k).tiles ∧ MemKept s t)
    ∧ ((Machine.core s k).mergeWait = none → rLen c.x = 0 → opSpace (rOpB c.x) ≠ 7 → ∃ t, exec (.merge k r) s = .next t
      ∧ MemKept s t ∧ t.srv = s.srv
      ∧ ∀ i < atQ p l, ∀ u < atDh p l, tileWord t k (rTileA c.x + 1) (outWord (atQ p l) (atD p l) i u) =
          if tileWord s k (rTileA c.x) (32 + i) ≠ 0 then 0
          else fdiv (wordOf (tileWord s k (rTileA c.x + 1) (outWord (atQ p l) (atD p l) i u))).1
            (wordOf (tileWord s k (rTileA c.x) (16 + i))).1)

/-- An OVF at its core (R171, R223). -/
def Sys2Proof.Spec.Overflowed (c : Iss) (k : Fin 2016) (r : RecRead) (s : State) : Prop :=
  ∀ (q kk d n : Nat) (f : Fmt) (bs : List Byte), q = shQ (rImm c.x) → kk = shK (rImm c.x) → d = shD (rImm c.x) → n = rLen c.x * d →
    f = pairFmt (rImm c.x) → bs = (readOp k c.b (rOpB c.x) (ovfBytes (rImm c.x) (rLen c.x)) s).1 →
    foreignFrame s c.b (regionFrames (spaceFrames s c.b (opSpace (rOpB c.x))) (spaceByte s c.b (rOpB c.x)) (ovfBytes (rImm c.x) (rLen c.x))) = none →
    ∃ t, exec (.ovf k r) s = .next t ∧ MemKept s t ∧ t.srv = s.srv
      ∧ ∀ i < q, ∀ u < kk, tileWord t k (rTileD c.x) (i * kk + u) =
          (dTileSum q kk d (rLen c.x) ((wordOf (tileWord s k (rTileD c.x) (i * kk + u))).1, false) ((List.range n).map fun j =>
            ((operandOf f (tileElem s k (rTileA c.x) f (i * n + j))).1,
             (operandOf e4m3 (bs.getD (4096 * (j / 256) + 256 * u + j % 256) 0).toNat).1))).1

/-- R157, R168 to R173 and R247 to R252. -/
def Obligations.AttentionTiles : Prop :=
  (∀ (k : Fin 2016) (r : RecRead) (c : Iss) (s : State), Reads c k r s →
    (Issued 0x50 c r s → Scored c k r s) ∧ (Issued 0x51 c r s → Softened c k r s) ∧ (Issued 0x52 c r s → Weighted c k r s)
    ∧ (Issued 0x53 c r s → Merged c k r s) ∧ (Issued 0x54 c r s → Overflowed c k r s))
  ∧ ∀ (k : Fin 2016) (d : MergeMsg) (s : State),
      (boundOf s k = none → exec (.mergeStateArrival k d) s = .next s)
      ∧ (boundOf s k ≠ none → d.final = false → (Machine.core s k).mergeWait = none → ∃ t, exec (.mergeStateArrival k d) s = .next t
          ∧ (Machine.core t k).mergeIn = (Machine.core s k).mergeIn ++ [d] ∧ (Machine.core t k).tiles = (Machine.core s k).tiles)
      ∧ (boundOf s k ≠ none → d.final = true → (Machine.core s k).mergeOuts = [] → exec (.mergeStateArrival k d) s = .next s)
      ∧ (∀ x xs, boundOf s k ≠ none → d.final = true → (Machine.core s k).mergeOuts = x :: xs →
          ∃ t, exec (.mergeStateArrival k d) s = .next t ∧ (Machine.core t k).mergeOuts = xs ∧ MemKept s t ∧ lsOf t k = lsOf s k
          ∧ ∀ y < x.cnt, x.tile + y < 32 → bitOf (Machine.core t k).tileUse.toNat (x.tile + y) = false)
      ∧ (∀ w, boundOf s k ≠ none → d.final = false → (Machine.core s k).mergeWait = some w → opSpace w.peer.toNat ≠ 7 →
          ∃ t, exec (.mergeStateArrival k d) s = .next t ∧ (Machine.core t k).mergeWait = none
          ∧ (∀ y < w.cnt, w.tile + y < 32 → bitOf (Machine.core t k).tileUse.toNat (w.tile + y) = false)
          ∧ (lsOf t k).inDirty = ((lsOf s k).inDirty || d.status.dirty) ∧ (lsOf t k).inImpl = (lsOf s k).inImpl ||| d.status.impl)

/-- A page of a layer holds its keys, values and scales within its frame (R229). -/
def Sys2Proof.Spec.PageFits (p : List Byte) (l : Nat) : Prop :=
  0 < atG p l ∧ 0 < atT p l
  ∧ 2 * atG p l * atT p l * (elemBytes p l + if lyKv p l = 2 then atDh p l / 16 else 0) ≤ 65536

/-- A WALK at its core (R233 to R235). -/
def Sys2Proof.Spec.Walked (c : Iss) (k : Fin 2016) (r : RecRead) (s : State) : Prop :=
  (walkReady c s = false → exec (.walk k r) s = .next (modCore k (fun q => { q with unitWait := true }) s))
  ∧ (walkReady c s = true → r.faults = [] → lyAttn (c.plan s) (rLayer c.x) = false → exec (.walk k r) s = .next (begun c s))
  ∧ (walkReady c s = true → r.faults = [] → ∃ t ds, exec (.walk k r) s = .next t ∧ (Machine.core t k).fetchQ = (Machine.core s k).fetchQ ++ ds
      ∧ (Machine.core t k).fetchQ.length ≤ 64 ∧ MemKept s t
      ∧ (∀ i, i + 1 < ds.length → ∀ d, ds[i]? = some d → d.last = false) ∧ (∀ d, ds.getLast? = some d → d.last = true)
      ∧ ∀ d ∈ ds, d.tenant = BitVec.ofNat 12 c.b ∧ d.image = none ∧ d.kRead = 0 ∧ d.vRead = 0 ∧ d.slot ∈ maskSlots c.x
          ∧ ∀ rec, slotRec s c.b d.slot = some rec → d.pos + d.first + d.count ≤ (ctx s rec).length.toNat + slotFed s c.b d.slot)

/-- Whether a KVFETCH may go on, and the state in which it reads: its round's block in the fetcher (R257, R259, R314, R235). -/
def Sys2Proof.Spec.Rounds (c : Iss) (k : Fin 2016) (r : RecRead) (s : State) : Prop :=
  (fetchReady c s = false → exec (.kvfetch k r) s = .next s)
  ∧ ((lyAttn (c.plan s) (lsOf s k).layer && rotation (c.plan s) (lsOf s k).layer) = false → fetchReady c s = true ∧ serveRound c s = s)
  ∧ ((lyAttn (c.plan s) (lsOf s k).layer && rotation (c.plan s) (lsOf s k).layer) = true →
    (fetchRound c (lsOf s k).layer s ≤ (lsOf s k).round → fetchReady c s = true
      ∧ (lsOf (serveRound c s) k).round = (lsOf s k).round ∧ (serveRound c s).out = s.out
      ∧ (Machine.core (serveRound c s) k).fetchQ = (Machine.core s k).fetchQ ++ (lsOf s k).blkLeft.take (64 - (Machine.core s k).fetchQ.length))
    ∧ (fetchRound c (lsOf s k).layer s = (lsOf s k).round + 1 → (Machine.core s k).ringBlks = [] → fetchReady c s = false)
    ∧ (fetchRound c (lsOf s k).layer s = (lsOf s k).round + 1 → ∀ d rest, (Machine.core s k).ringBlks = d :: rest → fetchReady c s = true
      ∧ (Machine.core (serveRound c s) k).ringBlks = rest ∧ (lsOf (serveRound c s) k).round = (lsOf s k).round + 1
      ∧ (d.linkOk = true → (Machine.core (serveRound c s) k).fetchQ = (d.pages.take 64).map (fun x => descOf x.1.toNat x.2)
          ∧ (lsOf (serveRound c s) k).misses = (lsOf s k).misses)
      ∧ (d.linkOk = false → (Machine.core (serveRound c s) k).fetchQ = [] ∧ (lsOf (serveRound c s) k).misses = (lsOf s k).misses + 1)
      ∧ (d.round + 1 < atRing (c.plan s) (lsOf s k).layer → Sends [.ringBlk k { d with round := d.round + 1 }] s (serveRound c s))
      ∧ (atRing (c.plan s) (lsOf s k).layer ≤ d.round + 1 → (serveRound c s).out = s.out)))

/-- A KVFETCH at its core (R246), which reads from the fetcher as its round has filled it: `u`. -/
def Sys2Proof.Spec.Fetched (c : Iss) (k : Fin 2016) (r : RecRead) (s : State) : Prop :=
  ∀ (p : List Byte) (l n : Nat) (u : State), fetchReady c s = true → u = serveRound c s → p = c.plan s → l = (lsOf s k).layer →
    n = min (rLen c.x % 2 ^ 15) (atK p l) → atK p l ≤ 16 →
    (∀ d ds, (Machine.core u k).fetchQ = d :: ds → bitOf (rMask c.x) d.slot = true → d.tenant.toNat ≠ c.b → d.frame < 2 ^ 24 → 0 < n →
      bitOf (rLen c.x) 15 = false → d.kRead < d.count →
      ∃ t, exec (.kvfetch k r) s = .next t ∧ (brun t c.b).dead = true ∧ Raised 0x12 1 d.tenant.toNat d.frame 0 s t ∧ MemKept s t
      ∧ (Machine.core t k).fetchQ = ds.filter (fun x => x != d)
      ∧ (enabledCl s (clOf k) = true → look winReset (cluster t (clOf k)).win 0x724 =
          BitVec.ofNat 64 (((look winReset (cluster s (clOf k)).win 0x724).toNat + 1) % 2 ^ 32)))
    ∧ (∀ d ds e, (Machine.core u k).fetchQ = d :: ds → bitOf (rMask c.x) d.slot = true → d.tenant.toNat = c.b → n + d.kRead ≤ d.count →
      bitOf (rLen c.x) 15 = false → e ∈ ds → e.tenant.toNat ≠ c.b → e.vRead < e.count → d.image.isSome = true → rCntD c.x ≠ 0 →
      ∃ t, exec (.kvfetch k r) s = .next t ∧ (lyKv p l ≠ 2 → t.err = s.err) ∧ e ∈ (Machine.core t k).fetchQ)
    ∧ ((Machine.core u k).fetchQ = [] → rCntD c.x ≠ 0 → 0 < n → ∃ t, exec (.kvfetch k r) s = .next t ∧ (Machine.core t k).fetchQ = []
      ∧ (∀ i < atK p l, look (fun _ => 0) (Machine.core t k).keyPos (16 * rTileD c.x + i) = 0)
      ∧ (enabledCl s (clOf k) = true → look winReset (cluster t (clOf k)).win 0x734 =
          BitVec.ofNat 64 (((look winReset (cluster s (clOf k)).win 0x734).toNat + 1) % 2 ^ 32)) ∧ MemKept s t ∧ t.err = s.err)
    ∧ (∀ d im, (Machine.core u k).fetchQ = [d] → bitOf (rMask c.x) d.slot = true → d.tenant.toNat = c.b → d.image = some im →
      bitOf (rLen c.x) 15 = false → rCntD c.x ≠ 0 → n + d.kRead ≤ d.count → 0 < n → ∃ t, exec (.kvfetch k r) s = .next t
      ∧ (∀ i < n, look (fun _ => 0) (Machine.core t k).keyPos (16 * rTileD c.x + i) = 4 * (d.pos + (d.first + d.kRead + i) + 1) + d.slot)
      ∧ (∀ i, n ≤ i → i < atK p l → look (fun _ => 0) (Machine.core t k).keyPos (16 * rTileD c.x + i) = 0)
      ∧ (Machine.core t k).fetchQ = (if d.vRead < d.count then [{ d with kRead := d.kRead + n }] else []) ∧ MemKept s t)

/-- A KVAPPEND at its core (R242, R352). -/
def Sys2Proof.Spec.Appended (c : Iss) (k : Fin 2016) (r : RecRead) (s : State) : Prop :=
  (appendWaits s c = true → exec (.kvappend k r) s = .next s)
  ∧ (appendWaits s c = false → lyAttn (c.plan s) (rLayer c.x) = false → exec (.kvappend k r) s = .next (begun c s))
  ∧ (appendWaits s c = false → (∀ i ∈ maskSlots c.x, slotRec s c.b i = none) → exec (.kvappend k r) s = .next (begun c s))
  ∧ (appendWaits s c = false → PageFits (c.plan s) (rLayer c.x) → ∃ t, exec (.kvappend k r) s = .next t
      ∧ ∀ x, owner s (x / 65536) ≠ .tenant c.b → memByte t x = memByte s x)

/-- R233 to R235, R242, R246, R257, R259, R314 and R352; which round a KVFETCH works in is the model's choice (log entry 159). -/
def Obligations.KvRecords : Prop :=
  (∀ (k : Fin 2016) (r : RecRead) (c : Iss) (s : State), Reads c k r s →
    (Ready 0x60 c r s → Walked c k r s) ∧ (Issued 0x61 c r s → Fetched c k r s ∧ Rounds c k r s) ∧ (Issued 0x62 c r s → Appended c k r s))
  ∧ ∀ (k : Fin 2016) (d : RingBlk) (b : Nat) (s : State),
      (boundOf s k = none → exec (.ringBlockArrival k d) s = .next s)
      ∧ (boundOf s k = some b → exec (.ringBlockArrival k d) s =
          .next (modCore k (fun q => { q with ringBlks := q.ringBlks ++ [d] }) s))

/-- The frames of a device-memory operand, and its first byte in them. -/
def Sys2Proof.Spec.opFrames (c : Iss) (s : State) (o : Nat) : List Nat := spaceFrames s c.b (opSpace o)

/-- No frame that `n` bytes of an operand lie in has another owner. -/
def Sys2Proof.Spec.ownFrames (c : Iss) (s : State) (o n : Nat) : Prop :=
  foreignFrame s c.b (regionFrames (opFrames c s o) (spaceByte s c.b o) n) = none

/-- A LOAD at its core. -/
def Sys2Proof.Spec.Loaded (c : Iss) (k : Fin 2016) (r : RecRead) (s : State) : Prop :=
  inDevice (rOpA c.x) = true → opSpace (rOpB c.x) = 1 →
    (ownFrames c s (rOpA c.x) (rLen c.x) → ∃ t, exec (.load k r) s = .next t ∧ MemKept s t ∧ t.srv = s.srv ∧ t.err = s.err
      ∧ ∀ i < rLen c.x, ∀ a, regionAddr (opFrames c s (rOpA c.x)) (spaceByte s c.b (rOpA c.x) + i) = some a →
          owner s (a / 65536) = .tenant c.b → look (fun _ => 0) (Machine.core t k).sram (opOff (rOpB c.x) + i) = memByte s a)
    ∧ (∀ f, foreignFrame s c.b (regionFrames (opFrames c s (rOpA c.x)) (spaceByte s c.b (rOpA c.x)) (rLen c.x)) = some f →
        ∃ t, exec (.load k r) s = .next t ∧ MemKept s t ∧ (brun t c.b).dead = true ∧ t.ten.nOwner = s.ten.nOwner + 1)

/-- A STORE at its core. -/
def Sys2Proof.Spec.Stored (c : Iss) (k : Fin 2016) (r : RecRead) (s : State) : Prop :=
  opSpace (rOpA c.x) = 1 → inDevice (rOpB c.x) = true →
    ((lsOf s k).opened = true → ∃ t q, exec (.store k r) s = .next t ∧ MemKept s t ∧ (lsOf t k).tails = (lsOf s k).tails ++ [q]
      ∧ q.dest = BitVec.ofNat 32 (rOpB c.x) ∧ q.byte = 0 ∧ q.data = lookAll (fun _ => 0) (Machine.core s k).sram (opOff (rOpA c.x)) (rLen c.x))
    ∧ ((lsOf s k).opened = false → ∃ t, exec (.store k r) s = .next t ∧ t.srv.ctx = s.srv.ctx
      ∧ (∀ x, (∀ i < rLen c.x, regionAddr (opFrames c s (rOpB c.x)) (spaceByte s c.b (rOpB c.x) + i) ≠ some x) → memByte t x = memByte s x)
      ∧ (∀ x, owner s (x / 65536) ≠ .tenant c.b → memByte t x = memByte s x)
      ∧ ((opFrames c s (rOpB c.x)).Nodup → ∀ i < rLen c.x, ∀ x,
          regionAddr (opFrames c s (rOpB c.x)) (spaceByte s c.b (rOpB c.x) + i) = some x → owner s (x / 65536) = .tenant c.b →
          memByte t x = look (fun _ => 0) (Machine.core s k).sram (opOff (rOpA c.x) + i)))

/-- A GATHER at its core. -/
def Sys2Proof.Spec.Gathered (c : Iss) (k : Fin 2016) (r : RecRead) (s : State) : Prop :=
  ∀ (f : Fmt) (bs : List Byte), opSpace (rOpA c.x) = 5 → opSpace (rOpB c.x) = 1 → ownFrames c s (rOpA c.x) (rLen c.x) →
    f = (match embBlock (c.plan s) with | some e => if leAt (c.plan s) (e.off + 8) 1 = 1 then e5m2 else e4m3 | none => e4m3) →
    bs = (readOp k c.b (rOpA c.x) (rLen c.x) s).1 → (∀ x ∈ bs, finiteF f x.toNat = true) →
    ∃ t, exec (.gather k r) s = .next t ∧ MemKept s t ∧ t.srv = s.srv ∧ t.err = s.err
      ∧ lookAll (fun _ => 0) (Machine.core t k).sram (opOff (rOpB c.x)) (4 * rLen c.x) = wordsBytes (bs.map (b2f f))

/-- R117, R181, R352, R545 and R548. -/
def Obligations.CopiesLeaveBytes : Prop :=
  ∀ (k : Fin 2016) (r : RecRead) (c : Iss) (s : State), Reads c k r s →
    (Issued 0x71 c r s → Loaded c k r s) ∧ (Issued 0x72 c r s → Stored c k r s) ∧ (Issued 0x70 c r s → Gathered c k r s)

/-- A program of plane `n` for `use` may start now (R196, R197, R210, R211, R396). -/
def Sys2Proof.Spec.MayStart (n use : Nat) (s : State) : Bool :=
  !masterBad s n && !s.host.quiesce && engineFree s (engOf n) && timeToStart s n use true && underCap s n && twinsIdle s n
  && (turnTo s n || !masterGood s n)

/-- Plane `n`'s master copy is marked as failed, and nothing else of the array changes (R202). -/
def Sys2Proof.Spec.MasterMarked (n : Nat) (s t : State) : Prop :=
  t.hw.planes = s.hw.planes ∧ t.hw.engines = s.hw.engines
  ∧ ∀ m, look (fun _ => none) s.hw.masters n = some m → (plane s n).home ≠ none → masterBad t n = true

/-- PROGRAM_START (R193, R202, R220, R221). -/
def Sys2Proof.Spec.ProgramStarts (n : Fin 2227680) (s : State) : Prop :=
  (masterBad s n = true → ∀ faults, exec (.programStart ⟨n, faults⟩) s = .next s)
  ∧ ((engine s (engOf n)).prog = none →
    (purposeOf s n = none → ∀ faults, exec (.programStart ⟨n, faults⟩) s = .next s)
    ∧ ∀ use, purposeOf s n = some use →
      (MayStart n use s = false → ∀ faults, exec (.programStart ⟨n, faults⟩) s = .next s)
      ∧ (∀ f q, MayStart n use s = true → n.val % 65 ≠ 64 → ∃ t, exec (.programStart ⟨n, [.memBad f q]⟩) s = .next t ∧ MasterMarked n s t
          ∧ t.err.memUncorrected = s.err.memUncorrected + 1)
      ∧ (MayStart n use s = true → (n.val % 65 = 64 ∨ masterGood s n = true) →
          (use ≠ 1 ∨ n.val % 65 = 64 ∨ planeCount s n < 10000) → ∃ t g, exec (.programStart ⟨n, []⟩) s = .next t
          ∧ (engine t (engOf n)).prog = some g ∧ g.plane = n.val ∧ g.purpose = use ∧ g.attempt = 1 ∧ g.erasing = true ∧ g.adjusted = []
          ∧ (plane t n).st = writingState use (plane s n).st ∧ (plane t n).cells = (plane s n).cells
          ∧ planeCount t n = min 65535 (planeCount s n + 1) ∧ (∀ m, m ≠ n.val → plane t m = plane s m) ∧ MemKept s t)
      ∧ (∀ m, MayStart n use s = true → masterGood s n = true → use = 1 → n.val % 65 ≠ 64 → 10000 ≤ planeCount s n →
          pickPlane s (engOf n) = some m → ∃ t g, exec (.programStart ⟨n, []⟩) s = .next t ∧ (engine t (engOf n)).prog = some g
          ∧ g.plane = m ∧ g.old = n.val ∧ g.purpose = 2 ∧ (plane t m).st = 1 ∧ (plane t m).home = (plane s n).home
          ∧ plane t n = plane s n ∧ planeCount t m = min 65535 (planeCount s m + 1))
      ∧ (MayStart n use s = true → masterGood s n = true → use = 1 → n.val % 65 ≠ 64 → 10000 ≤ planeCount s n →
          pickPlane s (engOf n) = none → ∃ t g, exec (.programStart ⟨n, []⟩) s = .next t ∧ (engine t (engOf n)).prog = some g
          ∧ g.plane = n.val ∧ g.purpose = 1 ∧ planeCount t n = min 65535 (planeCount s n + 1) ∧ Raised 0x33 0 (planeCount s n) 0 0 s t)
      ∧ (∀ h, MayStart n use s = true → masterGood s n = false → n.val % 65 ≠ 64 → (plane s n).home = some h → h.2.1 < 2 ^ 32 →
          ∃ t, exec (.programStart ⟨n, []⟩) s = .next t ∧ MasterMarked n s t ∧ Raised 0x31 1 h.2.1 0 0 s t))
  ∧ (∀ g, (engine s (engOf n)).prog = some g →
    ((g.plane ≠ n.val ∨ g.waiting = false) → exec (.programStart ⟨n, []⟩) s = .next s)
    ∧ (g.plane = n.val → g.waiting = true → masterBad s n = false → mustAbandon s g = true → ∃ t, exec (.programStart ⟨n, []⟩) s = .next t
        ∧ (engine t (engOf n)).prog = none)
    ∧ (∀ m, g.plane = n.val → g.waiting = true → mustAbandon s g = false → engineFree s (engOf n) = true →
        timeToStart s n g.purpose false = true → underCap s n = true → n.val % 65 ≠ 64 → masterGood s n = true →
        10000 ≤ planeCount s n → pickPlane s (engOf n) = some m → g.purpose < 3 → ∃ t h, exec (.programStart ⟨n, []⟩) s = .next t
        ∧ (engine t (engOf n)).prog = some h ∧ h.plane = m ∧ h.attempt = 1
        ∧ (plane t m).st = 1 ∧ (plane t m).home = (plane s n).home
        ∧ (g.purpose = 0 → h.purpose = 0 ∧ (plane t n).st = 5 ∧ (plane t m).moveOf = some n.val)
        ∧ (g.purpose = 1 → h.purpose = 2 ∧ h.old = n.val ∧ plane t n = plane s n)
        ∧ (g.purpose = 2 → h.purpose = 2 ∧ h.old = g.old ∧ (plane t n).st = 5 ∧ (plane t n).home = none))
    ∧ (g.plane = n.val → g.waiting = true → mustAbandon s g = false → engineFree s (engOf n) = true →
        timeToStart s n g.purpose false = true → underCap s n = true → masterBad s n = false →
        (n.val % 65 = 64 ∨ masterGood s n = true) → (n.val % 65 = 64 ∨ planeCount s n < 10000 ∨ pickPlane s (engOf n) = none) → ∃ t h, exec (.programStart ⟨n, []⟩) s = .next t ∧ (engine t (engOf n)).prog = some h
        ∧ h.attempt = g.attempt + 1 ∧ h.erasing = true ∧ h.waiting = false ∧ planeCount t n = min 65535 (planeCount s n + 1)))

/-- An iteration of a row starts: no pass of the engine comes within 10 beats, and where the row itself starts it may (R71, R196). -/
def Sys2Proof.Spec.RowGoes (e : Nat) (g : Prog) (s : State) : Prop :=
  passSoon s e = false ∧ (g.iter ≠ 0 ∨ g.extending = true ∨ (mustAbandon s g = false ∧ rowMayStart s e g = true))

/-- ERASE_COMPLETE and ROW_ITERATION (R71, R193, R194, R196, R348). -/
def Sys2Proof.Spec.RowsProgrammed (e : Fin 34272) (cells : List CellRead) (s : State) : Prop :=
  ((engine s e).prog = none → exec (.eraseComplete e cells) s = .next s ∧ exec (.rowIteration e cells) s = .next s)
  ∧ ∀ (g : Prog) (row : Nat), (engine s e).prog = some g → row = (rowMap s g.plane).getD g.row 0 →
    ((g.erasing = false ∨ startQueued s g.plane = true) → exec (.eraseComplete e cells) s = .next s)
    ∧ ((g.erasing = true ∨ g.waiting = true ∨ 256 ≤ g.row) → exec (.rowIteration e cells) s = .next s)
    ∧ (g.erasing = true → startQueued s g.plane = false → ∃ t, exec (.eraseComplete e cells) s = .next t
      ∧ (engine t e).prog = some { g with erasing := false }
      ∧ (∀ r c neg, c < 264 → (∀ y ∈ cells, y.row ≠ r ∨ y.col ≠ c ∨ y.neg ≠ neg) → level g.plane (plane t g.plane) r c neg = 0)
      ∧ (∀ y, cells = [y] → y.row < 260 → y.col < 264 →
          level g.plane (plane t g.plane) y.row y.col y.neg = min y.level (if y.col = 260 then 128 else 15)))
    ∧ (g.erasing = false → g.waiting = false → g.row < 256 → (g.iter ≠ 0 ∨ g.extending = true ∨ mustAbandon s g = false) →
        ¬ RowGoes e g s → exec (.rowIteration e cells) s = .next s)
    ∧ (g.erasing = false → g.waiting = false → g.row < 256 → g.iter = 0 → g.extending = false → mustAbandon s g = true →
        engOf g.plane = e.val → ∃ t, exec (.rowIteration e cells) s = .next t ∧ (engine t e).prog = none)
    ∧ (g.erasing = false → g.waiting = false → g.row < 256 → RowGoes e g s → g.iter + 1 < 8 →
      ∃ t h, exec (.rowIteration e cells) s = .next t ∧ (engine t e).prog = some h ∧ h.iter = g.iter + 1 ∧ h.row = g.row
      ∧ (∀ m, m ≠ g.plane → plane t m = plane s m) ∧ MemKept s t
      ∧ ∀ r c neg, c < 264 → (r ≠ row ∨ offTarget s g r c neg = false) → level g.plane (plane t g.plane) r c neg = level g.plane (plane s g.plane) r c neg)
    ∧ (g.erasing = false → g.waiting = false → g.row < 256 → RowGoes e g s → g.iter = 7 → g.extending = false → cells = [] → cellsOff s g row = [] →
      ∃ t h, exec (.rowIteration e cells) s = .next t ∧ (engine t e).prog = some h ∧ h.iter = 0 ∧ h.row = g.row + 1
      ∧ h.faults = g.faults ∧ t.hw.planes = s.hw.planes)

/-- PROGRAM_ATTEMPT_END (R97, R112, R198, R215). -/
def Sys2Proof.Spec.AttemptEnds (e : Fin 34272) (s : State) : Prop :=
  ((engine s e).prog = none → exec (.programAttemptEnd e) s = .next s)
  ∧ ∀ (g : Prog), (engine s e).prog = some g →
    ((g.erasing = true ∨ g.waiting = true ∨ g.row < 256) → exec (.programAttemptEnd e) s = .next s)
    ∧ (g.erasing = false → g.waiting = false → 256 ≤ g.row → mustAbandon s g = true → engOf g.plane = e.val →
        ∃ t, exec (.programAttemptEnd e) s = .next t ∧ (engine t e).prog = none)
    ∧ ∀ (n : Nat) (off : List Nat) (x : List Nat × List Nat), n = g.plane → engOf n = e.val →
      off = look (fun _ => []) s.lar.repair.rowsOff n → x = sparesFor s n true g.faults →
      g.erasing = false → g.waiting = false → 256 ≤ g.row → mustAbandon s g = false → g.held = false → inHeldStretch s n = false →
      (n % 65 ≠ 64 → x = ([], []) → g.faults = [] → g.adjusted = [] → off.length ≤ 4 → g.purpose ≠ 2 → masterGood s n = true →
        (plane s n).home ≠ none → ∃ t, exec (.programAttemptEnd e) s = .next t ∧ (engine t e).prog = none
        ∧ (plane t n).dp = 0x3C00 ∧ (plane t n).n = 0 ∧ (plane t n).m = 0 ∧ (plane t n).x = 0 ∧ (plane t n).cells = (plane s n).cells
        ∧ (∀ i < 256, (look (fun _ => 0) (plane t n).resid i).toInt = residualOf s n i)
        ∧ ((plane s n).st ≠ 6 → ((plane s n).st = 1 ∨ unheld s (coreOf e) = true) → (plane t n).st = 2)
        ∧ ((plane s n).st = 4 → unheld s (coreOf e) = false → (plane t n).st = 4 ∧ (plane t n).next = some 2)
        ∧ (look (fun _ => ({} : PlaneRec)) t.lar.planesNow n).resident = true)
      ∧ (x.1 ++ x.2 ≠ [] → g.attempt < 3 → off.length + x.1.length ≤ 4 → ∃ t, exec (.programAttemptEnd e) s = .next t
        ∧ (engine t e).prog = some { g with waiting := true } ∧ t.hw.planes = s.hw.planes
        ∧ look (fun _ => []) t.lar.repair.rowsOff n = off ++ x.1
        ∧ look (fun _ => []) t.lar.repair.colsOff n = look (fun _ => []) s.lar.repair.colsOff n ++ x.2)
      ∧ (n % 65 ≠ 64 → 4 < off.length + x.1.length → (plane s n).st ≠ 1 → unheld s (coreOf e) = true → ∃ t, exec (.programAttemptEnd e) s = .next t
        ∧ (engine t e).prog = none ∧ (plane t n).st = 5 ∧ (plane t n).next = none)

/-- R71, R193 to R198, R202, R209, R215, R220 and R221. -/
def Obligations.PlaneProgram : Prop :=
  (∀ (n : Fin 2227680) (s : State), ProgramStarts n s)
  ∧ (∀ (e : Fin 34272) (cells : List CellRead) (s : State), RowsProgrammed e cells s)
  ∧ (∀ (e : Fin 34272) (s : State), AttemptEnds e s)
  ∧ ∀ (n : Fin 2227680) (d : AdoptData) (s : State),
      (((plane s n).adopting = false ∨ (plane s n).home = none ∨ (plane s n).st ≠ 2) → exec (.adoptionComplete n d) s = .next s)
      ∧ ((plane s n).adopting = true → (plane s n).home ≠ none → (plane s n).st = 2 → freeFor s (coreOf (engOf n)) 0 = true →
          ∀ q : Plane, q = { plane s n with dp := 0x3C00, n := 64, m := d.m, x := d.x, z := d.z, a := d.a } →
          ∃ t, exec (.adoptionComplete n d) s = .next t ∧ (plane t n).adopting = false ∧ (plane t n).n = 0 ∧ (plane t n).m = 0
            ∧ (∀ v, evalDrift q = some v → (plane t n).dp = v ∧ (plane t n).st = 2)
            ∧ (evalDrift q = none → (plane t n).dp = 0x3C00 ∧ (plane t n).st = 3)
            ∧ (∀ m, m ≠ n.val → plane t m = plane s m) ∧ planeCount t n = planeCount s n)

/-- MAINTENANCE_WINDOW_END (R95). -/
def Sys2Proof.Spec.WindowEnds (k : Fin 2016) (s : State) : Prop :=
  ((Machine.core s k).window = none → exec (.maintenanceWindowEnd k) s = .next s)
  ∧ (∀ w, (Machine.core s k).window = some w → s.fab.sched.toNat < w.2.toNat → exec (.maintenanceWindowEnd k) s = .next s)
  ∧ (∀ w, (Machine.core s k).window = some w → w.2.toNat ≤ s.fab.sched.toNat → ∃ t, exec (.maintenanceWindowEnd k) s = .next t ∧ (Machine.core t k).window = none
      ∧ ((∀ m ∈ listedPlanes s k, (plane s m).next = none ∧ (plane s m).moveOf = none) → (Machine.core s k).subWait = none →
          (∀ b ∈ liveBindings s, (entry s b).st ≠ 5) →
          ∀ n ∈ evaluated s k, n ∈ listedPlanes s k → (plane t n).n = 0 ∧ (plane t n).x = 0
            ∧ (∀ d, evalDrift (plane s n) = some d → (plane t n).dp = d ∧ (plane t n).st = 2)
            ∧ (evalDrift (plane s n) = none → (plane t n).dp = (plane s n).dp ∧ (plane t n).st = 3)))

/-- CALIBRATION_START and CALIBRATION_MEASUREMENT_COMPLETE (R448, R452, R454). -/
def Sys2Proof.Spec.Calibrates (e : Fin 34272) (s : State) : Prop :=
  (calMayStart s e = false → exec (.calibrationStart e) s = .next s)
  ∧ (calMayStart s e = true → ∃ t, exec (.calibrationStart e) s = .next t
      ∧ (engine t e).cal = some { second := false, failed := [], stages := [] } ∧ (engine t e).oTab = (engine s e).oTab)
  ∧ ((engine s e).cal = none → ∀ volts, exec (.calibrationMeasurementComplete e volts) s = .next s)
  ∧ (∀ q volts, (engine s e).cal = some q → exec (.calibrationMeasurementComplete e volts) s =
      .next (calOutcome e q (measured (otherStages e q.stages s) e) volts { s with fresh := s.fresh + 320 }))
  ∧ ∀ (q : CalRun) (m : CalMeas) (volts : List (List Int)) (t : State), (engine s e).cal = some q → t = calOutcome e q m volts s →
      (failedCols s e m = [] → unheld s (coreOf e) = false →
        (engine t e).cal = none ∧ (engine t e).oTab = (engine s e).oTab ∧ ∃ z, (engine t e).calNext = some z ∧ z.stages = q.stages
        ∧ ∀ col ∈ measuredCols s e, col ≠ 263 → col < 264 → z.table.getD col (0, 0) = (f2h (offsetOf m col), invHalf (gainOf m col)))
      ∧ (failedCols s e m = [] → unheld s (coreOf e) = true →
        (engine t e).cal = none ∧ (engine t e).calNext = none ∧ (engine t e).prior = true
        ∧ (∀ n ∈ evaluated s (coreOf e), engOf n = e.val → (plane t n).n = 0 ∧ ∀ d, evalDrift (plane s n) = some d → (plane t n).dp = d)
        ∧ ∀ col ∈ measuredCols s e, col ≠ 263 → col < 264 → look (fun _ => 0) (engine t e).oTab col = f2h (offsetOf m col)
            ∧ look (fun _ => 0x3C00) (engine t e).gTab col = invHalf (gainOf m col))
      ∧ (failedCols s e m ≠ [] → q.second = false → ((failedCols s e m).filter (· < 260)).length ≤ 64 →
        (engine t e).cal = some { second := true, failed := failedCols s e m, stages := ((failedCols s e m).map (· / 4)).dedup }
        ∧ (engine t e).oTab = (engine s e).oTab)
      ∧ (failedCols s e m ≠ [] → (q.second = true ∨ 64 < ((failedCols s e m).filter (· < 260)).length) →
        (engine t e).cal = none ∧ (engine t e).oTab = (engine s e).oTab ∧ (engine t e).gTab = (engine s e).gTab
        ∧ (cluster t (clOf (coreOf e))).cal.fails = (cluster s (clOf (coreOf e))).cal.fails + 1)

/-- TEST_DUE, TEST_FORCE, KAT_START and KAT_COMPLETE (R488 to R492). -/
def Sys2Proof.Spec.Tests (k : Fin 2016) (s : State) : Prop :=
  ((tested s k = false ∨ (Machine.core s k).kat.due ≠ none
      ∨ s.fab.beat.toNat < (Machine.core s k).kat.lastDone.toNat + Config.testInterval) → exec (.testDue k) s = .next s)
  ∧ (tested s k = true → (Machine.core s k).kat.due = none →
      (Machine.core s k).kat.lastDone.toNat + Config.testInterval ≤ s.fab.beat.toNat → ∃ t, exec (.testDue k) s = .next t
      ∧ (Machine.core t k).kat.due = some ((Machine.core s k).kat.lastDone + BitVec.ofNat 64 Config.testInterval))
  ∧ (boundOf s k = none → exec (.testForce k) s = .next s)
  ∧ (∀ b, boundOf s k = some b →
      ((tested s k = false ∨ overdue s k = false ∨ beforeBoundary s b = false ∨ forcedAsk s k = true ∨ inserted s = true) →
        exec (.testForce k) s = .next s)
      ∧ (tested s k = true → overdue s k = true → beforeBoundary s b = true → forcedAsk s k = false → inserted s = false →
        ∃ t, exec (.testForce k) s = .next t ∧ (Machine.core t k).kat.forced = true
          ∧ t.fab.own = s.fab.own ++ [{ core := k.val, beat := s.fab.beat, len := 50 }]
          ∧ (enabledCl s (clOf k) = true → look winReset (cluster t (clOf k)).win 0xB10 =
              if (Machine.core s k).kat.forced then look winReset (cluster s (clOf k)).win 0xB10
              else BitVec.ofNat 64 (((look winReset (cluster s (clOf k)).win 0xB10).toNat + 1) % 2 ^ 32))))
  ∧ ((katMayStart s k && katFirst s k) = false → exec (.katStart k) s = .next s)
  ∧ ((katMayStart s k && katFirst s k) = true → ∃ t, exec (.katStart k) s = .next t ∧ (Machine.core t k).kat.running = true
      ∧ t.srv = s.srv ∧ MemKept s t)
  ∧ (∀ (d : KatResult), ((Machine.core s k).kat.running = false → exec (.katComplete k d) s = .next s)
    ∧ ∀ (e1 : List (Nat × List Nat)) (a1 p1 : Nat), (Machine.core s k).kat.running = true → e1 = failedEngines s k 0 d.vecs →
      a1 = unequal d.att1 → p1 = unequal d.path1 →
      exec (.katComplete k d) s = .next (katOutcome k e1
        ((failedEngines s k 4352 d.vecs).filter fun y => e1.any fun x => x.1 == y.1) a1 p1
        (if a1 = 0 then 0 else unequal d.att2) (if p1 = 0 then 0 else unequal d.path2) { s with fresh := s.fresh + 8704 }))
  ∧ ∀ (e1 e2 : List (Nat × List Nat)) (a1 p1 a2 p2 : Nat) (t : State), (Machine.core s k).kat.running = true →
      t = katOutcome k e1 e2 a1 p1 a2 p2 s →
      (e1 = [] → e2 = [] → a1 = 0 → p1 = 0 → a2 = 0 → p2 = 0 →
        (Machine.core t k).kat.running = false ∧ (Machine.core t k).kat.due = none ∧ (Machine.core t k).kat.lastDone = s.fab.beat
        ∧ (Machine.core t k).kat.cleanBeat = s.fab.beat ∧ (Machine.core t k).kat.cleanTime = s.lar.calendar ∧ t.err = s.err)
      ∧ (e1 = [] → e2 = [] → a1 ≠ 0 → a2 = 0 → p1 = 0 → p2 = 0 →
        (Machine.core t k).kat.due = none ∧ (Machine.core t k).kat.cleanBeat = (Machine.core s k).kat.cleanBeat
        ∧ Raised 0x40 0 1 (a1 % 2 ^ 32) ((Machine.core s k).kat.cleanTime.toNat / 32768 % 2 ^ 32) s t)
      ∧ (e1 = [] → a1 ≠ 0 → a2 ≠ 0 →
        (Machine.core t k).failed = true ∧ (Machine.core t k).kat.due = (Machine.core s k).kat.due)
      ∧ (∀ i cols, e1 = [(i, cols)] → e2 = [] → a1 = 0 → p1 = 0 → a2 = 0 → p2 = 0 →
        (Machine.core t k).kat.due = none ∧ (Machine.core t k).kat.lastDone = s.fab.beat
        ∧ (Machine.core t k).kat.cleanBeat = (Machine.core s k).kat.cleanBeat ∧ t.hw.engines = s.hw.engines
        ∧ Raised 0x40 0 0 (cols.length % 2 ^ 32) ((Machine.core s k).kat.cleanTime.toNat / 32768 % 2 ^ 32) s t)

/-- R95, R447 to R455 and R488 to R492. -/
def Obligations.CalibrationAndTests : Prop :=
  (∀ (k : Fin 2016) (s : State), WindowEnds k s) ∧ (∀ (e : Fin 34272) (s : State), Calibrates e s) ∧ ∀ (k : Fin 2016) (s : State), Tests k s

/-- Device memory is in its canonical form, and the error queues are within their depth (R497, R498). -/
def Sys2Proof.Spec.Inv (s : State) : Prop :=
  Memory.wf s = true ∧ s.err.hostQ.length ≤ 512 ∧ s.err.mgmtQ.length ≤ 512

/-- R497 and R498 give each error queue 512 entries. -/
def Obligations.StepKeepsInvariant : Prop := ∀ s t : State, Inv s → step s = .next t → Inv t

/-- The invariant of `StepKeepsInvariant` at reset. -/
def Obligations.ResetMeetsInvariant : Prop := Inv State.reset
end

