-- ==== Sys2Proof/Laws/Sparse.lean ====
section
/-! SUPPORT. Laws of the sparse maps: a read after a write to the same key gives the value written, a write leaves every
other key alone, and every write keeps the canonical form. -/

namespace Sys2Proof.Machine

variable {α : Type}

@[simp] theorem eager_eq (n : Nat) (f : Nat → α) : eager n f = f n := by cases n <;> rfl

/-- The part of the canonical form that bounds the keys from below. -/
def above (b : Nat) (m : SMap α) : Prop := ∀ p ∈ m, b < p.1

theorem look_dropKey_same (d : Nat → α) (k : Nat) (m : SMap α) : look d (dropKey k m) k = d k := by
  induction m with
  | nil => rfl
  | cons p t ih => by_cases h : p.1 = k <;> simp [dropKey, look, h, ih]

theorem look_dropKey_other (d : Nat → α) {k j : Nat} (h : j ≠ k) (m : SMap α) :
    look d (dropKey k m) j = look d m j := by
  induction m with
  | nil => rfl
  | cons p t ih =>
    by_cases hp : p.1 = k
    · have : p.1 ≠ j := by omega
      simp [dropKey, look, hp, ih, Ne.symm h]
    · simp only [dropKey, hp, if_false, look, ih]

theorem look_insKey_same (d : Nat → α) (k : Nat) (v : α) (m : SMap α) (h : ∀ p ∈ m, p.1 ≠ k) :
    look d (insKey k v m) k = v := by
  induction m with
  | nil => simp [insKey, look]
  | cons p t ih =>
    have hp : p.1 ≠ k := h p (by simp)
    have ht := ih fun q hq => h q (by simp [hq])
    by_cases hk : k < p.1 <;> simp [insKey, look, hk, hp, ht]

theorem look_insKey_other (d : Nat → α) {k j : Nat} (hj : j ≠ k) (v : α) (m : SMap α) :
    look d (insKey k v m) j = look d m j := by
  induction m with
  | nil => simp [insKey, look, Ne.symm hj]
  | cons p t ih =>
    by_cases hk : k < p.1
    · simp [insKey, look, hk, Ne.symm hj]
    · simp only [insKey, hk, if_false, look, ih]

theorem dropKey_ne (k : Nat) (m : SMap α) : ∀ p ∈ dropKey k m, p.1 ≠ k := by
  induction m with
  | nil => simp [dropKey]
  | cons q t ih =>
    by_cases h : q.1 = k
    · simpa [dropKey, h] using ih
    · intro p hp
      simp only [dropKey, h, if_false, List.mem_cons] at hp
      rcases hp with rfl | hp
      · exact h
      · exact ih p hp

/-- A read after a write to the same key gives the value written. -/
@[simp] theorem look_put_same [DecidableEq α] (d : Nat → α) (m : SMap α) (k : Nat) (v : α) :
    look d (put d m k v) k = v := by
  unfold put
  split
  · rename_i h; rw [look_dropKey_same, h]
  · exact look_insKey_same d k v _ (dropKey_ne k m)

/-- A write leaves every other key alone. -/
theorem look_put_other [DecidableEq α] (d : Nat → α) (m : SMap α) {k j : Nat} (v : α) (h : j ≠ k) :
    look d (put d m k v) j = look d m j := by
  unfold put
  split
  · exact look_dropKey_other d h m
  · rw [look_insKey_other d h, look_dropKey_other d h]

/-- Both together: what a map reads as after a write. -/
theorem look_put [DecidableEq α] (d : Nat → α) (m : SMap α) (k j : Nat) (v : α) :
    look d (put d m k v) j = if j = k then v else look d m j := by
  split
  · rename_i h; subst h; exact look_put_same d m j v
  · rename_i h; exact look_put_other d m v h

/-- A byte outside the written keys reads as before. -/
theorem look_putAll_other [DecidableEq α] (d : Nat → α) (vs : List α) :
    ∀ (m : SMap α) (k j : Nat), (j < k ∨ k + vs.length ≤ j) → look d (putAll d m k vs) j = look d m j := by
  induction vs with
  | nil => intro m k j _; rfl
  | cons v t ih =>
    intro m k j h
    simp only [List.length_cons] at h
    rw [putAll, ih _ _ _ (by omega), look_put_other d m v (by omega)]

/-- A byte inside the written keys reads as the value written there. -/
theorem look_putAll_in [DecidableEq α] (d : Nat → α) (vs : List α) :
    ∀ (m : SMap α) (k i : Nat) (h : i < vs.length), look d (putAll d m k vs) (k + i) = vs[i] := by
  induction vs with
  | nil => intro m k i h; simp at h
  | cons v t ih =>
    intro m k i h
    cases i with
    | zero => simp [putAll, look_putAll_other]
    | succ i =>
      have := ih (put d m k v) (k + 1) i (by simpa using h)
      simp only [putAll, List.getElem_cons_succ]
      rw [← this]; congr 1; omega

theorem rising_iff (b : Nat) (m : SMap α) : rising (some b) m = true ↔ above b m ∧ rising none m = true := by
  induction m generalizing b with
  | nil => simp [rising, above]
  | cons p t ih =>
    simp only [rising, above, Bool.and_eq_true, decide_eq_true_eq, List.forall_mem_cons, Bool.true_and]
    rw [ih p.1]
    constructor
    · rintro ⟨h, ha, hr⟩
      exact ⟨⟨h, fun q hq => lt_trans h (ha q hq)⟩, ha, hr⟩
    · rintro ⟨⟨h, _⟩, ha, hr⟩
      exact ⟨h, ha, hr⟩

theorem rising_cons (p : Nat × α) (t : SMap α) : rising none (p :: t) = true ↔ above p.1 t ∧ rising none t = true := by
  simp only [rising, Bool.true_and]; exact rising_iff p.1 t

theorem mem_dropKey {k : Nat} {m : SMap α} {p : Nat × α} (h : p ∈ dropKey k m) : p ∈ m := by
  induction m with
  | nil => simp [dropKey] at h
  | cons q t ih =>
    by_cases hq : q.1 = k
    · simp [dropKey, hq] at h; simp [ih h]
    · simp [dropKey, hq] at h
      rcases h with rfl | h
      · simp
      · simp [ih h]

theorem mem_insKey {k : Nat} {v : α} {m : SMap α} {p : Nat × α} (h : p ∈ insKey k v m) : p = (k, v) ∨ p ∈ m := by
  induction m with
  | nil => simp [insKey] at h; exact .inl h
  | cons q t ih =>
    by_cases hq : k < q.1
    · simp [insKey, hq] at h
      rcases h with rfl | rfl | h <;> simp [*]
    · simp [insKey, hq] at h
      rcases h with rfl | h
      · simp
      · rcases ih h with rfl | h <;> simp [*]

theorem rising_dropKey (k : Nat) (m : SMap α) (h : rising none m = true) : rising none (dropKey k m) = true := by
  induction m with
  | nil => rfl
  | cons q t ih =>
    rw [rising_cons] at h
    by_cases hq : q.1 = k
    · simpa [dropKey, hq] using ih h.2
    · simp only [dropKey, hq, if_false]
      rw [rising_cons]
      exact ⟨fun p hp => h.1 p (mem_dropKey hp), ih h.2⟩

theorem rising_insKey (k : Nat) (v : α) (m : SMap α) (h : rising none m = true) (hk : ∀ p ∈ m, p.1 ≠ k) :
    rising none (insKey k v m) = true := by
  induction m with
  | nil => rfl
  | cons q t ih =>
    have hq : q.1 ≠ k := hk q (by simp)
    have h' := (rising_cons q t).1 h
    by_cases hlt : k < q.1
    · simp only [insKey, hlt, if_true]
      rw [rising_cons]
      refine ⟨?_, h⟩
      intro p hp
      simp at hp
      rcases hp with rfl | hp
      · exact hlt
      · exact lt_trans hlt (h'.1 p hp)
    · simp only [insKey, hlt, if_false]
      rw [rising_cons]
      refine ⟨?_, ih h'.2 fun p hp => hk p (by simp [hp])⟩
      intro p hp
      rcases mem_insKey hp with rfl | hp
      · show q.1 < k; omega
      · exact h'.1 p hp

/-- A write keeps the canonical form. -/
theorem SMapWf_put [DecidableEq α] (d : Nat → α) (m : SMap α) (k : Nat) (v : α) (h : SMapWf d m = true) :
    SMapWf d (put d m k v) = true := by
  simp only [SMapWf, Bool.and_eq_true, List.all_eq_true, decide_eq_true_eq] at *
  unfold put
  split
  · exact ⟨rising_dropKey k m h.1, fun p hp => h.2 p (mem_dropKey hp)⟩
  · rename_i hv
    refine ⟨rising_insKey k v _ (rising_dropKey k m h.1) (dropKey_ne k m), ?_⟩
    intro p hp
    rcases mem_insKey hp with rfl | hp
    · exact hv
    · exact h.2 p (mem_dropKey hp)

/-- Writing a run of values keeps the canonical form. -/
theorem SMapWf_putAll [DecidableEq α] (d : Nat → α) (vs : List α) :
    ∀ (m : SMap α) (k : Nat), SMapWf d m = true → SMapWf d (putAll d m k vs) = true := by
  induction vs with
  | nil => intro m k h; exact h
  | cons v t ih => intro m k h; exact ih _ _ (SMapWf_put d m k v h)

/-- The canonical form depends on the unlisted values only. -/
theorem SMapWf_congr {α : Type} [DecidableEq α] {d e : Nat → α} {m : SMap α} (h : ∀ a, d a = e a) : SMapWf d m = SMapWf e m := by
  rw [show d = e from funext h]

theorem look_lookAll (d : Nat → α) (m : SMap α) (k n i : Nat) (h : i < n) :
    (lookAll d m k n)[i]? = some (look d m (k + i)) := by
  induction n generalizing k i with
  | zero => omega
  | succ n ih =>
    cases i with
    | zero => simp [lookAll]
    | succ i => simp only [lookAll, List.getElem?_cons_succ]; rw [ih (k + 1) i (by omega)]; congr 2; omega

theorem lookAll_length (d : Nat → α) (m : SMap α) (k n : Nat) : (lookAll d m k n).length = n := by
  induction n generalizing k with
  | zero => rfl
  | succ n ih => simp [lookAll, ih]

end Sys2Proof.Machine
end

