-- ==== Sys2Proof/Laws/Frames.lean ====
section
/-! SUPPORT. Laws of the frame allocator (R232, R263, R351): where the quota and the free pool have room, the frames of a record are
had, wherever the free choice of a frame falls. -/

namespace Sys2Proof.Machine

theorem gapFrom_le {α : Type} (k : Nat) (m : SMap α) : gapFrom k m ≤ k + m.length := by
  induction m generalizing k with
  | nil => simp [gapFrom]
  | cons p t ih =>
    have h1 := ih k
    have h2 := ih (k + 1)
    simp only [gapFrom, List.length_cons]
    split
    · omega
    · split <;> omega

theorem insKey_length {α : Type} (k : Nat) (v : α) (m : SMap α) : (insKey k v m).length = m.length + 1 := by
  induction m with
  | nil => rfl
  | cons p t ih => by_cases h : k < p.1 <;> simp [insKey, h, ih]

theorem dropKey_length {α : Type} (k : Nat) (m : SMap α) : (dropKey k m).length ≤ m.length := by
  induction m with
  | nil => simp [dropKey]
  | cons p t ih => by_cases h : p.1 = k <;> simp [dropKey, h] <;> omega

theorem put_length {α : Type} [DecidableEq α] (d : Nat → α) (m : SMap α) (k : Nat) (v : α) : (put d m k v).length ≤ m.length + 1 := by
  have := dropKey_length k m
  unfold put
  split
  · omega
  · rw [insKey_length]; omega

/-- Room for `n` frames charged to binding `b`: in its quota, in the free pool and above the firmware's own. -/
structure Room (b n : Nat) (s : State) : Prop where
  quota : (entry s b).pageUsed.toNat + n ≤ (entry s b).pageQuota.toNat
  pool  : (entry s b).reserved = true ∨ n ≤ s.ten.free.toNat
  place : s.ten.fwEnd + s.ten.owner.length + n ≤ framesPerBridge s

theorem isSome_orElse {α : Type} (x : Option α) (f : Unit → Option α) : (x.orElse f).isSome = (x.isSome || (f ()).isSome) := by
  cases x <;> rfl

/-- A choice between a frame and another frame that is there answers one. -/
theorem isSome_pick {c d : Prop} [Decidable c] [Decidable d] {a b : Nat} (h : d) :
    (if c then some a else if d then some b else none).isSome = true := by
  by_cases hc : c <;> simp [hc, h]

theorem pickFrame_some {s : State} (q : Nat) (h : s.ten.fwEnd + s.ten.owner.length < framesPerBridge s) :
    (pickFrame s q).isSome = true := by
  have hb := gapFrom_le (max s.ten.fwEnd (0 * framesPerBridge s)) s.ten.owner
  have : q % 4 = 0 ∨ (q + 1) % 4 = 0 ∨ (q + 2) % 4 = 0 ∨ (q + 3) % 4 = 0 := by omega
  have h0 : gapFrom (max s.ten.fwEnd (0 * framesPerBridge s)) s.ten.owner < (0 + 1) * framesPerBridge s := by
    simp at hb ⊢; omega
  unfold pickFrame
  simp only [isSome_orElse, Bool.or_eq_true]
  rcases this with h | h | h | h
  · left; rw [h]; exact isSome_pick h0
  · right; left; rw [h]; exact isSome_pick h0
  · right; right; left; rw [h]; exact isSome_pick h0
  · right; right; right; rw [h]; exact isSome_pick h0

theorem keyFrame_ten (f b : Nat) (s : State) : (keyFrame f b s).ten = s.ten := by
  unfold keyFrame; dsimp only; split
  · rfl
  · split <;> rfl

theorem keyFrame_ident (f b : Nat) (s : State) : (keyFrame f b s).ident = s.ident := by
  unfold keyFrame; dsimp only; split
  · rfl
  · split <;> rfl

/-- A frame taken and charged leaves room for one fewer. -/
theorem room_charged {b n : Nat} {s x y : State} {o : SMap FrameOwner} (h : Room b (n + 1) s) (hx : x.ten = { s.ten with owner := o })
    (ho : o.length ≤ s.ten.owner.length + 1) (hf : framesPerBridge y = framesPerBridge s)
    (hy : y.ten = { (modEntry b (fun e => { e with pageUsed := e.pageUsed + 1 }) x).ten with free := y.ten.free })
    (hfree : (entry s b).reserved = true ∨ y.ten.free = s.ten.free - 1) : Room b n y := by
  obtain ⟨hq, hp, hl⟩ := h
  have he : entry y b = { entry s b with pageUsed := (entry s b).pageUsed + 1 } := by
    unfold entry; rw [hy]; simp [modEntry, setEntry, entry, hx]
  have hfw : y.ten.fwEnd = s.ten.fwEnd := by rw [hy]; simp [modEntry, setEntry, hx]
  have how : y.ten.owner = o := by rw [hy]; simp [modEntry, setEntry, hx]
  have hn : ((entry s b).pageUsed + 1).toNat = (entry s b).pageUsed.toNat + 1 := by
    have := (entry s b).pageQuota.isLt
    rw [BitVec.toNat_add]; simp; omega
  refine ⟨by rw [he]; dsimp only; omega, ?_, by rw [hfw, how, hf]; omega⟩
  rw [he]; dsimp only
  rcases hp with hp | hp
  · exact .inl hp
  · rcases hfree with h | h
    · exact .inl h
    · right
      have := s.ten.free.isLt
      rw [h, BitVec.toNat_sub]; simp; omega

theorem taken_ten (f b : Nat) (o : FrameOwner) (s : State) :
    (tickFresh (keyFrame f b (setOwner f o s))).ten = { s.ten with owner := put (fun _ => .nobody) s.ten.owner f o } := by
  show (keyFrame f b (setOwner f o s)).ten = _
  rw [keyFrame_ten]; rfl

theorem taken_ident (f b : Nat) (o : FrameOwner) (s : State) : (tickFresh (keyFrame f b (setOwner f o s))).ident = s.ident := by
  show (keyFrame f b (setOwner f o s)).ident = _
  rw [keyFrame_ident]; rfl

/-- One frame had leaves room for one fewer. -/
theorem allocFrame_room {b n : Nat} {s : State} (q : Nat) (h : Room b (n + 1) s) :
    ∃ f t, allocFrame b q true s = some (f, t) ∧ Room b n t := by
  obtain ⟨f, hf⟩ := Option.isSome_iff_exists.mp (pickFrame_some q (s := s) (by have := h.place; omega))
  have ht := taken_ten f b (.tenant b) s
  have hi := taken_ident f b (.tenant b) s
  have hput := put_length (fun _ => .nobody) s.ten.owner f (.tenant b)
  have hq : ¬ ((entry s b).pageQuota.toNat ≤ (entry s b).pageUsed.toNat) := by have := h.quota; omega
  have hfree : (entry s b).reserved = true ∨ s.ten.free ≠ 0 := by
    rcases h.pool with hp | hp
    · exact .inl hp
    · right; intro h0; rw [h0] at hp; simp at hp
  simp only [allocFrame, hf]
  generalize tickFresh (keyFrame f b (setOwner f (.tenant b) s)) = x at ht hi
  rw [if_neg (by simpa using hq)]
  have hfp : ∀ y : State, y.ident = x.ident → framesPerBridge y = framesPerBridge s := by
    intro y hy; unfold framesPerBridge; rw [hy, hi]
  cases hr : (entry s b).reserved
  · have h0 : s.ten.free ≠ 0 := by simpa [hr] using hfree
    simp only [Bool.and_false, Bool.not_false, Bool.true_and]
    rw [if_neg (by simpa using h0)]
    exact ⟨f, _, rfl, room_charged h ht hput (hfp _ rfl) rfl (.inr (by show x.ten.free - 1 = s.ten.free - 1; rw [ht]))⟩
  · simp only [Bool.and_true, Bool.not_true, Bool.false_and]
    exact ⟨f, _, rfl, room_charged h ht hput (hfp _ rfl) rfl (.inl hr)⟩

theorem allocCharged_room {b n : Nat} {s : State} (h : Room b (n + 1) s) : ∃ f t, allocCharged b s = some (f, t) ∧ Room b n t := by
  obtain ⟨f, t, ha, hr⟩ := allocFrame_room (homeCluster s b / 28) h
  refine ⟨f, t, ?_, hr⟩
  unfold allocCharged
  cases hk : (brun s b).tree.length <;> simp [allocEvict, ha]

/-- Where there is room for `n` frames, `n` frames are had. -/
theorem allocMany_room {b : Nat} : ∀ {n : Nat} {s : State} (fs : List Nat), Room b n s → (allocMany b n fs s).2.1 = true := by
  intro n
  induction n with
  | zero => intro s fs _; rfl
  | succ n ih =>
    intro s fs h
    obtain ⟨f, t, ha, hr⟩ := allocCharged_room h
    simp only [allocMany, ha]
    exact ih _ hr

end Sys2Proof.Machine
end

