-- ==== Sys2Proof/Laws/State.lean ====
section
/-! SUPPORT. What each writer of the state changes and what it leaves: for every writer, one lemma per field of the state it
leaves alone, and what each reader gives after it. -/

namespace Sys2Proof.Machine

/-! ### setRing -/

@[simp] theorem setRing_pending (s : State) (k : Nat) (v : Ring) : (setRing s k v).pending = s.pending := rfl
@[simp] theorem setRing_ident (s : State) (k : Nat) (v : Ring) : (setRing s k v).ident = s.ident := rfl
@[simp] theorem setRing_mail (s : State) (k : Nat) (v : Ring) : (setRing s k v).mail = s.mail := rfl
@[simp] theorem setRing_err (s : State) (k : Nat) (v : Ring) : (setRing s k v).err = s.err := rfl
@[simp] theorem setRing_su (s : State) (k : Nat) (v : Ring) : (setRing s k v).su = s.su := rfl
@[simp] theorem setRing_lar (s : State) (k : Nat) (v : Ring) : (setRing s k v).lar = s.lar := rfl
@[simp] theorem setRing_fab (s : State) (k : Nat) (v : Ring) : (setRing s k v).fab = s.fab := rfl
@[simp] theorem setRing_mon (s : State) (k : Nat) (v : Ring) : (setRing s k v).mon = s.mon := rfl
@[simp] theorem setRing_pow (s : State) (k : Nat) (v : Ring) : (setRing s k v).pow = s.pow := rfl
@[simp] theorem setRing_ten (s : State) (k : Nat) (v : Ring) : (setRing s k v).ten = s.ten := rfl
@[simp] theorem setRing_srv (s : State) (k : Nat) (v : Ring) : (setRing s k v).srv = s.srv := rfl
@[simp] theorem setRing_hw (s : State) (k : Nat) (v : Ring) : (setRing s k v).hw = s.hw := rfl
@[simp] theorem setRing_mem (s : State) (k : Nat) (v : Ring) : (setRing s k v).mem = s.mem := rfl
@[simp] theorem setRing_memKeys (s : State) (k : Nat) (v : Ring) : (setRing s k v).memKeys = s.memKeys := rfl
@[simp] theorem setRing_out (s : State) (k : Nat) (v : Ring) : (setRing s k v).out = s.out := rfl
@[simp] theorem setRing_fresh (s : State) (k : Nat) (v : Ring) : (setRing s k v).fresh = s.fresh := rfl
@[simp] theorem setRing_host_msix (s : State) (k : Nat) (v : Ring) : (setRing s k v).host.msix = s.host.msix := rfl
@[simp] theorem setRing_host_pba (s : State) (k : Nat) (v : Ring) : (setRing s k v).host.pba = s.host.pba := rfl
@[simp] theorem setRing_host_quiesce (s : State) (k : Nat) (v : Ring) : (setRing s k v).host.quiesce = s.host.quiesce := rfl
@[simp] theorem setRing_host_quiesced (s : State) (k : Nat) (v : Ring) : (setRing s k v).host.quiesced = s.host.quiesced := rfl
@[simp] theorem setRing_host_degraded (s : State) (k : Nat) (v : Ring) : (setRing s k v).host.degraded = s.host.degraded := rfl
@[simp] theorem setRing_host_ideActive (s : State) (k : Nat) (v : Ring) : (setRing s k v).host.ideActive = s.host.ideActive := rfl
@[simp] theorem setRing_host_width (s : State) (k : Nat) (v : Ring) : (setRing s k v).host.width = s.host.width := rfl
@[simp] theorem setRing_host_speed (s : State) (k : Nat) (v : Ring) : (setRing s k v).host.speed = s.host.speed := rfl
@[simp] theorem setRing_host_ht (s : State) (k : Nat) (v : Ring) : (setRing s k v).host.ht = s.host.ht := rfl
@[simp] theorem setRing_host_hext (s : State) (k : Nat) (v : Ring) : (setRing s k v).host.hext = s.host.hext := rfl
@[simp] theorem setRing_host_timeouts (s : State) (k : Nat) (v : Ring) : (setRing s k v).host.timeouts = s.host.timeouts := rfl
@[simp] theorem setRing_host_replays (s : State) (k : Nat) (v : Ring) : (setRing s k v).host.replays = s.host.replays := rfl
@[simp] theorem setRing_host_recoveries (s : State) (k : Nat) (v : Ring) : (setRing s k v).host.recoveries = s.host.recoveries := rfl
@[simp] theorem setRing_host_resets (s : State) (k : Nat) (v : Ring) : (setRing s k v).host.resets = s.host.resets := rfl
@[simp] theorem setRing_host_ideFails (s : State) (k : Nat) (v : Ring) : (setRing s k v).host.ideFails = s.host.ideFails := rfl
@[simp] theorem setRing_host_recovery (s : State) (k : Nat) (v : Ring) : (setRing s k v).host.recovery = s.host.recovery := rfl
@[simp] theorem setRing_host_ideHold (s : State) (k : Nat) (v : Ring) : (setRing s k v).host.ideHold = s.host.ideHold := rfl
@[simp] theorem setRing_host_held (s : State) (k : Nat) (v : Ring) : (setRing s k v).host.held = s.host.held := rfl
@[simp] theorem setRing_host_reads (s : State) (k : Nat) (v : Ring) : (setRing s k v).host.reads = s.host.reads := rfl
@[simp] theorem setRing_host_readQ (s : State) (k : Nat) (v : Ring) : (setRing s k v).host.readQ = s.host.readQ := rfl
@[simp] theorem setRing_host_nextRead (s : State) (k : Nat) (v : Ring) : (setRing s k v).host.nextRead = s.host.nextRead := rfl
@[simp] theorem setRing_host_packetNo (s : State) (k : Nat) (v : Ring) : (setRing s k v).host.packetNo = s.host.packetNo := rfl
@[simp] theorem setRing_host_work (s : State) (k : Nat) (v : Ring) : (setRing s k v).host.work = s.host.work := rfl
/-- Reading after setRing. -/
theorem ring_setRing (s : State) (k : Nat) (v : Ring) (j : Nat) : ring (setRing s k v) j = if j = k then v else ring s j :=
  look_put _ _ _ _ _
@[simp] theorem ring_setRing_same (s : State) (k : Nat) (v : Ring) : ring (setRing s k v) k = v := look_put_same _ _ _ _
@[simp] theorem mbox_setRing (s : State) (k : Nat) (v : Ring) (j : Nat) : mbox (setRing s k v) j = mbox s j := rfl
@[simp] theorem lockReg_setRing (s : State) (k : Nat) (v : Ring) (j : Nat) : lockReg (setRing s k v) j = lockReg s j := rfl
@[simp] theorem cluster_setRing (s : State) (k : Nat) (v : Ring) (j : Nat) : cluster (setRing s k v) j = cluster s j := rfl
@[simp] theorem core_setRing (s : State) (k : Nat) (v : Ring) (j : Nat) : core (setRing s k v) j = core s j := rfl
@[simp] theorem engine_setRing (s : State) (k : Nat) (v : Ring) (j : Nat) : engine (setRing s k v) j = engine s j := rfl
@[simp] theorem plane_setRing (s : State) (k : Nat) (v : Ring) (j : Nat) : plane (setRing s k v) j = plane s j := rfl
@[simp] theorem entry_setRing (s : State) (k : Nat) (v : Ring) (j : Nat) : entry (setRing s k v) j = entry s j := rfl
@[simp] theorem brun_setRing (s : State) (k : Nat) (v : Ring) (j : Nat) : brun (setRing s k v) j = brun s j := rfl
@[simp] theorem ctx_setRing (s : State) (k : Nat) (v : Ring) (j : Nat) : ctx (setRing s k v) j = ctx s j := rfl
@[simp] theorem ctxRun_setRing (s : State) (k : Nat) (v : Ring) (j : Nat) : ctxRun (setRing s k v) j = ctxRun s j := rfl
@[simp] theorem conv_setRing (s : State) (k : Nat) (v : Ring) (j : Nat) : conv (setRing s k v) j = conv s j := rfl
@[simp] theorem port_setRing (s : State) (k : Nat) (v : Ring) (j : Nat) : port (setRing s k v) j = port s j := rfl

/-! ### setMbox -/

@[simp] theorem setMbox_pending (s : State) (k : Nat) (v : Mailbox) : (setMbox s k v).pending = s.pending := rfl
@[simp] theorem setMbox_ident (s : State) (k : Nat) (v : Mailbox) : (setMbox s k v).ident = s.ident := rfl
@[simp] theorem setMbox_err (s : State) (k : Nat) (v : Mailbox) : (setMbox s k v).err = s.err := rfl
@[simp] theorem setMbox_su (s : State) (k : Nat) (v : Mailbox) : (setMbox s k v).su = s.su := rfl
@[simp] theorem setMbox_lar (s : State) (k : Nat) (v : Mailbox) : (setMbox s k v).lar = s.lar := rfl
@[simp] theorem setMbox_host (s : State) (k : Nat) (v : Mailbox) : (setMbox s k v).host = s.host := rfl
@[simp] theorem setMbox_fab (s : State) (k : Nat) (v : Mailbox) : (setMbox s k v).fab = s.fab := rfl
@[simp] theorem setMbox_mon (s : State) (k : Nat) (v : Mailbox) : (setMbox s k v).mon = s.mon := rfl
@[simp] theorem setMbox_pow (s : State) (k : Nat) (v : Mailbox) : (setMbox s k v).pow = s.pow := rfl
@[simp] theorem setMbox_ten (s : State) (k : Nat) (v : Mailbox) : (setMbox s k v).ten = s.ten := rfl
@[simp] theorem setMbox_srv (s : State) (k : Nat) (v : Mailbox) : (setMbox s k v).srv = s.srv := rfl
@[simp] theorem setMbox_hw (s : State) (k : Nat) (v : Mailbox) : (setMbox s k v).hw = s.hw := rfl
@[simp] theorem setMbox_mem (s : State) (k : Nat) (v : Mailbox) : (setMbox s k v).mem = s.mem := rfl
@[simp] theorem setMbox_memKeys (s : State) (k : Nat) (v : Mailbox) : (setMbox s k v).memKeys = s.memKeys := rfl
@[simp] theorem setMbox_out (s : State) (k : Nat) (v : Mailbox) : (setMbox s k v).out = s.out := rfl
@[simp] theorem setMbox_fresh (s : State) (k : Nat) (v : Mailbox) : (setMbox s k v).fresh = s.fresh := rfl
@[simp] theorem setMbox_mail_irqEn (s : State) (k : Nat) (v : Mailbox) : (setMbox s k v).mail.irqEn = s.mail.irqEn := rfl
@[simp] theorem setMbox_mail_irqCause (s : State) (k : Nat) (v : Mailbox) : (setMbox s k v).mail.irqCause = s.mail.irqCause := rfl
@[simp] theorem setMbox_mail_lead (s : State) (k : Nat) (v : Mailbox) : (setMbox s k v).mail.lead = s.mail.lead := rfl
@[simp] theorem setMbox_mail_outQ (s : State) (k : Nat) (v : Mailbox) : (setMbox s k v).mail.outQ = s.mail.outQ := rfl
@[simp] theorem setMbox_mail_inQ (s : State) (k : Nat) (v : Mailbox) : (setMbox s k v).mail.inQ = s.mail.inQ := rfl
@[simp] theorem setMbox_mail_locks (s : State) (k : Nat) (v : Mailbox) : (setMbox s k v).mail.locks = s.mail.locks := rfl
/-- Reading after setMbox. -/
theorem mbox_setMbox (s : State) (k : Nat) (v : Mailbox) (j : Nat) : mbox (setMbox s k v) j = if j = k then v else mbox s j :=
  look_put _ _ _ _ _
@[simp] theorem mbox_setMbox_same (s : State) (k : Nat) (v : Mailbox) : mbox (setMbox s k v) k = v := look_put_same _ _ _ _
@[simp] theorem ring_setMbox (s : State) (k : Nat) (v : Mailbox) (j : Nat) : ring (setMbox s k v) j = ring s j := rfl
@[simp] theorem lockReg_setMbox (s : State) (k : Nat) (v : Mailbox) (j : Nat) : lockReg (setMbox s k v) j = lockReg s j := rfl
@[simp] theorem cluster_setMbox (s : State) (k : Nat) (v : Mailbox) (j : Nat) : cluster (setMbox s k v) j = cluster s j := rfl
@[simp] theorem core_setMbox (s : State) (k : Nat) (v : Mailbox) (j : Nat) : core (setMbox s k v) j = core s j := rfl
@[simp] theorem engine_setMbox (s : State) (k : Nat) (v : Mailbox) (j : Nat) : engine (setMbox s k v) j = engine s j := rfl
@[simp] theorem plane_setMbox (s : State) (k : Nat) (v : Mailbox) (j : Nat) : plane (setMbox s k v) j = plane s j := rfl
@[simp] theorem entry_setMbox (s : State) (k : Nat) (v : Mailbox) (j : Nat) : entry (setMbox s k v) j = entry s j := rfl
@[simp] theorem brun_setMbox (s : State) (k : Nat) (v : Mailbox) (j : Nat) : brun (setMbox s k v) j = brun s j := rfl
@[simp] theorem ctx_setMbox (s : State) (k : Nat) (v : Mailbox) (j : Nat) : ctx (setMbox s k v) j = ctx s j := rfl
@[simp] theorem ctxRun_setMbox (s : State) (k : Nat) (v : Mailbox) (j : Nat) : ctxRun (setMbox s k v) j = ctxRun s j := rfl
@[simp] theorem conv_setMbox (s : State) (k : Nat) (v : Mailbox) (j : Nat) : conv (setMbox s k v) j = conv s j := rfl
@[simp] theorem port_setMbox (s : State) (k : Nat) (v : Mailbox) (j : Nat) : port (setMbox s k v) j = port s j := rfl

/-! ### setLock -/

@[simp] theorem setLock_pending (s : State) (k : Nat) (v : Lock) : (setLock s k v).pending = s.pending := rfl
@[simp] theorem setLock_ident (s : State) (k : Nat) (v : Lock) : (setLock s k v).ident = s.ident := rfl
@[simp] theorem setLock_err (s : State) (k : Nat) (v : Lock) : (setLock s k v).err = s.err := rfl
@[simp] theorem setLock_su (s : State) (k : Nat) (v : Lock) : (setLock s k v).su = s.su := rfl
@[simp] theorem setLock_lar (s : State) (k : Nat) (v : Lock) : (setLock s k v).lar = s.lar := rfl
@[simp] theorem setLock_host (s : State) (k : Nat) (v : Lock) : (setLock s k v).host = s.host := rfl
@[simp] theorem setLock_fab (s : State) (k : Nat) (v : Lock) : (setLock s k v).fab = s.fab := rfl
@[simp] theorem setLock_mon (s : State) (k : Nat) (v : Lock) : (setLock s k v).mon = s.mon := rfl
@[simp] theorem setLock_pow (s : State) (k : Nat) (v : Lock) : (setLock s k v).pow = s.pow := rfl
@[simp] theorem setLock_ten (s : State) (k : Nat) (v : Lock) : (setLock s k v).ten = s.ten := rfl
@[simp] theorem setLock_srv (s : State) (k : Nat) (v : Lock) : (setLock s k v).srv = s.srv := rfl
@[simp] theorem setLock_hw (s : State) (k : Nat) (v : Lock) : (setLock s k v).hw = s.hw := rfl
@[simp] theorem setLock_mem (s : State) (k : Nat) (v : Lock) : (setLock s k v).mem = s.mem := rfl
@[simp] theorem setLock_memKeys (s : State) (k : Nat) (v : Lock) : (setLock s k v).memKeys = s.memKeys := rfl
@[simp] theorem setLock_out (s : State) (k : Nat) (v : Lock) : (setLock s k v).out = s.out := rfl
@[simp] theorem setLock_fresh (s : State) (k : Nat) (v : Lock) : (setLock s k v).fresh = s.fresh := rfl
@[simp] theorem setLock_mail_boxes (s : State) (k : Nat) (v : Lock) : (setLock s k v).mail.boxes = s.mail.boxes := rfl
@[simp] theorem setLock_mail_irqEn (s : State) (k : Nat) (v : Lock) : (setLock s k v).mail.irqEn = s.mail.irqEn := rfl
@[simp] theorem setLock_mail_irqCause (s : State) (k : Nat) (v : Lock) : (setLock s k v).mail.irqCause = s.mail.irqCause := rfl
@[simp] theorem setLock_mail_lead (s : State) (k : Nat) (v : Lock) : (setLock s k v).mail.lead = s.mail.lead := rfl
@[simp] theorem setLock_mail_outQ (s : State) (k : Nat) (v : Lock) : (setLock s k v).mail.outQ = s.mail.outQ := rfl
@[simp] theorem setLock_mail_inQ (s : State) (k : Nat) (v : Lock) : (setLock s k v).mail.inQ = s.mail.inQ := rfl
/-- Reading after setLock. -/
theorem lockReg_setLock (s : State) (k : Nat) (v : Lock) (j : Nat) : lockReg (setLock s k v) j = if j = k then v else lockReg s j :=
  look_put _ _ _ _ _
@[simp] theorem lockReg_setLock_same (s : State) (k : Nat) (v : Lock) : lockReg (setLock s k v) k = v := look_put_same _ _ _ _
@[simp] theorem ring_setLock (s : State) (k : Nat) (v : Lock) (j : Nat) : ring (setLock s k v) j = ring s j := rfl
@[simp] theorem mbox_setLock (s : State) (k : Nat) (v : Lock) (j : Nat) : mbox (setLock s k v) j = mbox s j := rfl
@[simp] theorem cluster_setLock (s : State) (k : Nat) (v : Lock) (j : Nat) : cluster (setLock s k v) j = cluster s j := rfl
@[simp] theorem core_setLock (s : State) (k : Nat) (v : Lock) (j : Nat) : core (setLock s k v) j = core s j := rfl
@[simp] theorem engine_setLock (s : State) (k : Nat) (v : Lock) (j : Nat) : engine (setLock s k v) j = engine s j := rfl
@[simp] theorem plane_setLock (s : State) (k : Nat) (v : Lock) (j : Nat) : plane (setLock s k v) j = plane s j := rfl
@[simp] theorem entry_setLock (s : State) (k : Nat) (v : Lock) (j : Nat) : entry (setLock s k v) j = entry s j := rfl
@[simp] theorem brun_setLock (s : State) (k : Nat) (v : Lock) (j : Nat) : brun (setLock s k v) j = brun s j := rfl
@[simp] theorem ctx_setLock (s : State) (k : Nat) (v : Lock) (j : Nat) : ctx (setLock s k v) j = ctx s j := rfl
@[simp] theorem ctxRun_setLock (s : State) (k : Nat) (v : Lock) (j : Nat) : ctxRun (setLock s k v) j = ctxRun s j := rfl
@[simp] theorem conv_setLock (s : State) (k : Nat) (v : Lock) (j : Nat) : conv (setLock s k v) j = conv s j := rfl
@[simp] theorem port_setLock (s : State) (k : Nat) (v : Lock) (j : Nat) : port (setLock s k v) j = port s j := rfl

/-! ### setCluster -/

@[simp] theorem setCluster_pending (s : State) (k : Nat) (v : Cluster) : (setCluster s k v).pending = s.pending := rfl
@[simp] theorem setCluster_ident (s : State) (k : Nat) (v : Cluster) : (setCluster s k v).ident = s.ident := rfl
@[simp] theorem setCluster_mail (s : State) (k : Nat) (v : Cluster) : (setCluster s k v).mail = s.mail := rfl
@[simp] theorem setCluster_err (s : State) (k : Nat) (v : Cluster) : (setCluster s k v).err = s.err := rfl
@[simp] theorem setCluster_su (s : State) (k : Nat) (v : Cluster) : (setCluster s k v).su = s.su := rfl
@[simp] theorem setCluster_lar (s : State) (k : Nat) (v : Cluster) : (setCluster s k v).lar = s.lar := rfl
@[simp] theorem setCluster_host (s : State) (k : Nat) (v : Cluster) : (setCluster s k v).host = s.host := rfl
@[simp] theorem setCluster_fab (s : State) (k : Nat) (v : Cluster) : (setCluster s k v).fab = s.fab := rfl
@[simp] theorem setCluster_mon (s : State) (k : Nat) (v : Cluster) : (setCluster s k v).mon = s.mon := rfl
@[simp] theorem setCluster_pow (s : State) (k : Nat) (v : Cluster) : (setCluster s k v).pow = s.pow := rfl
@[simp] theorem setCluster_ten (s : State) (k : Nat) (v : Cluster) : (setCluster s k v).ten = s.ten := rfl
@[simp] theorem setCluster_srv (s : State) (k : Nat) (v : Cluster) : (setCluster s k v).srv = s.srv := rfl
@[simp] theorem setCluster_mem (s : State) (k : Nat) (v : Cluster) : (setCluster s k v).mem = s.mem := rfl
@[simp] theorem setCluster_memKeys (s : State) (k : Nat) (v : Cluster) : (setCluster s k v).memKeys = s.memKeys := rfl
@[simp] theorem setCluster_out (s : State) (k : Nat) (v : Cluster) : (setCluster s k v).out = s.out := rfl
@[simp] theorem setCluster_fresh (s : State) (k : Nat) (v : Cluster) : (setCluster s k v).fresh = s.fresh := rfl
@[simp] theorem setCluster_hw_cores (s : State) (k : Nat) (v : Cluster) : (setCluster s k v).hw.cores = s.hw.cores := rfl
@[simp] theorem setCluster_hw_engines (s : State) (k : Nat) (v : Cluster) : (setCluster s k v).hw.engines = s.hw.engines := rfl
@[simp] theorem setCluster_hw_planes (s : State) (k : Nat) (v : Cluster) : (setCluster s k v).hw.planes = s.hw.planes := rfl
@[simp] theorem setCluster_hw_masters (s : State) (k : Nat) (v : Cluster) : (setCluster s k v).hw.masters = s.hw.masters := rfl
@[simp] theorem setCluster_hw_outliers (s : State) (k : Nat) (v : Cluster) : (setCluster s k v).hw.outliers = s.hw.outliers := rfl
@[simp] theorem setCluster_hw_cellUsed (s : State) (k : Nat) (v : Cluster) : (setCluster s k v).hw.cellUsed = s.hw.cellUsed := rfl
@[simp] theorem setCluster_hw_held (s : State) (k : Nat) (v : Cluster) : (setCluster s k v).hw.held = s.hw.held := rfl
@[simp] theorem setCluster_hw_stretchPlanes (s : State) (k : Nat) (v : Cluster) : (setCluster s k v).hw.stretchPlanes = s.hw.stretchPlanes := rfl
/-- Reading after setCluster. -/
theorem cluster_setCluster (s : State) (k : Nat) (v : Cluster) (j : Nat) : cluster (setCluster s k v) j = if j = k then v else cluster s j :=
  look_put _ _ _ _ _
@[simp] theorem cluster_setCluster_same (s : State) (k : Nat) (v : Cluster) : cluster (setCluster s k v) k = v := look_put_same _ _ _ _
@[simp] theorem ring_setCluster (s : State) (k : Nat) (v : Cluster) (j : Nat) : ring (setCluster s k v) j = ring s j := rfl
@[simp] theorem mbox_setCluster (s : State) (k : Nat) (v : Cluster) (j : Nat) : mbox (setCluster s k v) j = mbox s j := rfl
@[simp] theorem lockReg_setCluster (s : State) (k : Nat) (v : Cluster) (j : Nat) : lockReg (setCluster s k v) j = lockReg s j := rfl
@[simp] theorem core_setCluster (s : State) (k : Nat) (v : Cluster) (j : Nat) : core (setCluster s k v) j = core s j := rfl
@[simp] theorem engine_setCluster (s : State) (k : Nat) (v : Cluster) (j : Nat) : engine (setCluster s k v) j = engine s j := rfl
@[simp] theorem plane_setCluster (s : State) (k : Nat) (v : Cluster) (j : Nat) : plane (setCluster s k v) j = plane s j := rfl
@[simp] theorem entry_setCluster (s : State) (k : Nat) (v : Cluster) (j : Nat) : entry (setCluster s k v) j = entry s j := rfl
@[simp] theorem brun_setCluster (s : State) (k : Nat) (v : Cluster) (j : Nat) : brun (setCluster s k v) j = brun s j := rfl
@[simp] theorem ctx_setCluster (s : State) (k : Nat) (v : Cluster) (j : Nat) : ctx (setCluster s k v) j = ctx s j := rfl
@[simp] theorem ctxRun_setCluster (s : State) (k : Nat) (v : Cluster) (j : Nat) : ctxRun (setCluster s k v) j = ctxRun s j := rfl
@[simp] theorem conv_setCluster (s : State) (k : Nat) (v : Cluster) (j : Nat) : conv (setCluster s k v) j = conv s j := rfl
@[simp] theorem port_setCluster (s : State) (k : Nat) (v : Cluster) (j : Nat) : port (setCluster s k v) j = port s j := rfl

/-! ### setCore -/

@[simp] theorem setCore_pending (s : State) (k : Nat) (v : Core) : (setCore s k v).pending = s.pending := rfl
@[simp] theorem setCore_ident (s : State) (k : Nat) (v : Core) : (setCore s k v).ident = s.ident := rfl
@[simp] theorem setCore_mail (s : State) (k : Nat) (v : Core) : (setCore s k v).mail = s.mail := rfl
@[simp] theorem setCore_err (s : State) (k : Nat) (v : Core) : (setCore s k v).err = s.err := rfl
@[simp] theorem setCore_su (s : State) (k : Nat) (v : Core) : (setCore s k v).su = s.su := rfl
@[simp] theorem setCore_lar (s : State) (k : Nat) (v : Core) : (setCore s k v).lar = s.lar := rfl
@[simp] theorem setCore_host (s : State) (k : Nat) (v : Core) : (setCore s k v).host = s.host := rfl
@[simp] theorem setCore_fab (s : State) (k : Nat) (v : Core) : (setCore s k v).fab = s.fab := rfl
@[simp] theorem setCore_mon (s : State) (k : Nat) (v : Core) : (setCore s k v).mon = s.mon := rfl
@[simp] theorem setCore_pow (s : State) (k : Nat) (v : Core) : (setCore s k v).pow = s.pow := rfl
@[simp] theorem setCore_ten (s : State) (k : Nat) (v : Core) : (setCore s k v).ten = s.ten := rfl
@[simp] theorem setCore_srv (s : State) (k : Nat) (v : Core) : (setCore s k v).srv = s.srv := rfl
@[simp] theorem setCore_mem (s : State) (k : Nat) (v : Core) : (setCore s k v).mem = s.mem := rfl
@[simp] theorem setCore_memKeys (s : State) (k : Nat) (v : Core) : (setCore s k v).memKeys = s.memKeys := rfl
@[simp] theorem setCore_out (s : State) (k : Nat) (v : Core) : (setCore s k v).out = s.out := rfl
@[simp] theorem setCore_fresh (s : State) (k : Nat) (v : Core) : (setCore s k v).fresh = s.fresh := rfl
@[simp] theorem setCore_hw_clusters (s : State) (k : Nat) (v : Core) : (setCore s k v).hw.clusters = s.hw.clusters := rfl
@[simp] theorem setCore_hw_engines (s : State) (k : Nat) (v : Core) : (setCore s k v).hw.engines = s.hw.engines := rfl
@[simp] theorem setCore_hw_planes (s : State) (k : Nat) (v : Core) : (setCore s k v).hw.planes = s.hw.planes := rfl
@[simp] theorem setCore_hw_masters (s : State) (k : Nat) (v : Core) : (setCore s k v).hw.masters = s.hw.masters := rfl
@[simp] theorem setCore_hw_outliers (s : State) (k : Nat) (v : Core) : (setCore s k v).hw.outliers = s.hw.outliers := rfl
@[simp] theorem setCore_hw_cellUsed (s : State) (k : Nat) (v : Core) : (setCore s k v).hw.cellUsed = s.hw.cellUsed := rfl
@[simp] theorem setCore_hw_held (s : State) (k : Nat) (v : Core) : (setCore s k v).hw.held = s.hw.held := rfl
@[simp] theorem setCore_hw_stretchPlanes (s : State) (k : Nat) (v : Core) : (setCore s k v).hw.stretchPlanes = s.hw.stretchPlanes := rfl
/-- Reading after setCore. -/
theorem core_setCore (s : State) (k : Nat) (v : Core) (j : Nat) : core (setCore s k v) j = if j = k then v else core s j :=
  look_put _ _ _ _ _
@[simp] theorem core_setCore_same (s : State) (k : Nat) (v : Core) : core (setCore s k v) k = v := look_put_same _ _ _ _
@[simp] theorem ring_setCore (s : State) (k : Nat) (v : Core) (j : Nat) : ring (setCore s k v) j = ring s j := rfl
@[simp] theorem mbox_setCore (s : State) (k : Nat) (v : Core) (j : Nat) : mbox (setCore s k v) j = mbox s j := rfl
@[simp] theorem lockReg_setCore (s : State) (k : Nat) (v : Core) (j : Nat) : lockReg (setCore s k v) j = lockReg s j := rfl
@[simp] theorem cluster_setCore (s : State) (k : Nat) (v : Core) (j : Nat) : cluster (setCore s k v) j = cluster s j := rfl
@[simp] theorem engine_setCore (s : State) (k : Nat) (v : Core) (j : Nat) : engine (setCore s k v) j = engine s j := rfl
@[simp] theorem plane_setCore (s : State) (k : Nat) (v : Core) (j : Nat) : plane (setCore s k v) j = plane s j := rfl
@[simp] theorem entry_setCore (s : State) (k : Nat) (v : Core) (j : Nat) : entry (setCore s k v) j = entry s j := rfl
@[simp] theorem brun_setCore (s : State) (k : Nat) (v : Core) (j : Nat) : brun (setCore s k v) j = brun s j := rfl
@[simp] theorem ctx_setCore (s : State) (k : Nat) (v : Core) (j : Nat) : ctx (setCore s k v) j = ctx s j := rfl
@[simp] theorem ctxRun_setCore (s : State) (k : Nat) (v : Core) (j : Nat) : ctxRun (setCore s k v) j = ctxRun s j := rfl
@[simp] theorem conv_setCore (s : State) (k : Nat) (v : Core) (j : Nat) : conv (setCore s k v) j = conv s j := rfl
@[simp] theorem port_setCore (s : State) (k : Nat) (v : Core) (j : Nat) : port (setCore s k v) j = port s j := rfl

/-! ### setEngine -/

@[simp] theorem setEngine_pending (s : State) (k : Nat) (v : Engine) : (setEngine s k v).pending = s.pending := rfl
@[simp] theorem setEngine_ident (s : State) (k : Nat) (v : Engine) : (setEngine s k v).ident = s.ident := rfl
@[simp] theorem setEngine_mail (s : State) (k : Nat) (v : Engine) : (setEngine s k v).mail = s.mail := rfl
@[simp] theorem setEngine_err (s : State) (k : Nat) (v : Engine) : (setEngine s k v).err = s.err := rfl
@[simp] theorem setEngine_su (s : State) (k : Nat) (v : Engine) : (setEngine s k v).su = s.su := rfl
@[simp] theorem setEngine_lar (s : State) (k : Nat) (v : Engine) : (setEngine s k v).lar = s.lar := rfl
@[simp] theorem setEngine_host (s : State) (k : Nat) (v : Engine) : (setEngine s k v).host = s.host := rfl
@[simp] theorem setEngine_fab (s : State) (k : Nat) (v : Engine) : (setEngine s k v).fab = s.fab := rfl
@[simp] theorem setEngine_mon (s : State) (k : Nat) (v : Engine) : (setEngine s k v).mon = s.mon := rfl
@[simp] theorem setEngine_pow (s : State) (k : Nat) (v : Engine) : (setEngine s k v).pow = s.pow := rfl
@[simp] theorem setEngine_ten (s : State) (k : Nat) (v : Engine) : (setEngine s k v).ten = s.ten := rfl
@[simp] theorem setEngine_srv (s : State) (k : Nat) (v : Engine) : (setEngine s k v).srv = s.srv := rfl
@[simp] theorem setEngine_mem (s : State) (k : Nat) (v : Engine) : (setEngine s k v).mem = s.mem := rfl
@[simp] theorem setEngine_memKeys (s : State) (k : Nat) (v : Engine) : (setEngine s k v).memKeys = s.memKeys := rfl
@[simp] theorem setEngine_out (s : State) (k : Nat) (v : Engine) : (setEngine s k v).out = s.out := rfl
@[simp] theorem setEngine_fresh (s : State) (k : Nat) (v : Engine) : (setEngine s k v).fresh = s.fresh := rfl
@[simp] theorem setEngine_hw_clusters (s : State) (k : Nat) (v : Engine) : (setEngine s k v).hw.clusters = s.hw.clusters := rfl
@[simp] theorem setEngine_hw_cores (s : State) (k : Nat) (v : Engine) : (setEngine s k v).hw.cores = s.hw.cores := rfl
@[simp] theorem setEngine_hw_planes (s : State) (k : Nat) (v : Engine) : (setEngine s k v).hw.planes = s.hw.planes := rfl
@[simp] theorem setEngine_hw_masters (s : State) (k : Nat) (v : Engine) : (setEngine s k v).hw.masters = s.hw.masters := rfl
@[simp] theorem setEngine_hw_outliers (s : State) (k : Nat) (v : Engine) : (setEngine s k v).hw.outliers = s.hw.outliers := rfl
@[simp] theorem setEngine_hw_cellUsed (s : State) (k : Nat) (v : Engine) : (setEngine s k v).hw.cellUsed = s.hw.cellUsed := rfl
@[simp] theorem setEngine_hw_held (s : State) (k : Nat) (v : Engine) : (setEngine s k v).hw.held = s.hw.held := rfl
@[simp] theorem setEngine_hw_stretchPlanes (s : State) (k : Nat) (v : Engine) : (setEngine s k v).hw.stretchPlanes = s.hw.stretchPlanes := rfl
/-- Reading after setEngine. -/
theorem engine_setEngine (s : State) (k : Nat) (v : Engine) (j : Nat) : engine (setEngine s k v) j = if j = k then v else engine s j :=
  look_put _ _ _ _ _
@[simp] theorem engine_setEngine_same (s : State) (k : Nat) (v : Engine) : engine (setEngine s k v) k = v := look_put_same _ _ _ _
@[simp] theorem ring_setEngine (s : State) (k : Nat) (v : Engine) (j : Nat) : ring (setEngine s k v) j = ring s j := rfl
@[simp] theorem mbox_setEngine (s : State) (k : Nat) (v : Engine) (j : Nat) : mbox (setEngine s k v) j = mbox s j := rfl
@[simp] theorem lockReg_setEngine (s : State) (k : Nat) (v : Engine) (j : Nat) : lockReg (setEngine s k v) j = lockReg s j := rfl
@[simp] theorem cluster_setEngine (s : State) (k : Nat) (v : Engine) (j : Nat) : cluster (setEngine s k v) j = cluster s j := rfl
@[simp] theorem core_setEngine (s : State) (k : Nat) (v : Engine) (j : Nat) : core (setEngine s k v) j = core s j := rfl
@[simp] theorem plane_setEngine (s : State) (k : Nat) (v : Engine) (j : Nat) : plane (setEngine s k v) j = plane s j := rfl
@[simp] theorem entry_setEngine (s : State) (k : Nat) (v : Engine) (j : Nat) : entry (setEngine s k v) j = entry s j := rfl
@[simp] theorem brun_setEngine (s : State) (k : Nat) (v : Engine) (j : Nat) : brun (setEngine s k v) j = brun s j := rfl
@[simp] theorem ctx_setEngine (s : State) (k : Nat) (v : Engine) (j : Nat) : ctx (setEngine s k v) j = ctx s j := rfl
@[simp] theorem ctxRun_setEngine (s : State) (k : Nat) (v : Engine) (j : Nat) : ctxRun (setEngine s k v) j = ctxRun s j := rfl
@[simp] theorem conv_setEngine (s : State) (k : Nat) (v : Engine) (j : Nat) : conv (setEngine s k v) j = conv s j := rfl
@[simp] theorem port_setEngine (s : State) (k : Nat) (v : Engine) (j : Nat) : port (setEngine s k v) j = port s j := rfl

/-! ### setPlane -/

@[simp] theorem setPlane_pending (s : State) (k : Nat) (v : Plane) : (setPlane s k v).pending = s.pending := rfl
@[simp] theorem setPlane_ident (s : State) (k : Nat) (v : Plane) : (setPlane s k v).ident = s.ident := rfl
@[simp] theorem setPlane_mail (s : State) (k : Nat) (v : Plane) : (setPlane s k v).mail = s.mail := rfl
@[simp] theorem setPlane_err (s : State) (k : Nat) (v : Plane) : (setPlane s k v).err = s.err := rfl
@[simp] theorem setPlane_su (s : State) (k : Nat) (v : Plane) : (setPlane s k v).su = s.su := rfl
@[simp] theorem setPlane_lar (s : State) (k : Nat) (v : Plane) : (setPlane s k v).lar = s.lar := rfl
@[simp] theorem setPlane_host (s : State) (k : Nat) (v : Plane) : (setPlane s k v).host = s.host := rfl
@[simp] theorem setPlane_fab (s : State) (k : Nat) (v : Plane) : (setPlane s k v).fab = s.fab := rfl
@[simp] theorem setPlane_mon (s : State) (k : Nat) (v : Plane) : (setPlane s k v).mon = s.mon := rfl
@[simp] theorem setPlane_pow (s : State) (k : Nat) (v : Plane) : (setPlane s k v).pow = s.pow := rfl
@[simp] theorem setPlane_ten (s : State) (k : Nat) (v : Plane) : (setPlane s k v).ten = s.ten := rfl
@[simp] theorem setPlane_srv (s : State) (k : Nat) (v : Plane) : (setPlane s k v).srv = s.srv := rfl
@[simp] theorem setPlane_mem (s : State) (k : Nat) (v : Plane) : (setPlane s k v).mem = s.mem := rfl
@[simp] theorem setPlane_memKeys (s : State) (k : Nat) (v : Plane) : (setPlane s k v).memKeys = s.memKeys := rfl
@[simp] theorem setPlane_out (s : State) (k : Nat) (v : Plane) : (setPlane s k v).out = s.out := rfl
@[simp] theorem setPlane_fresh (s : State) (k : Nat) (v : Plane) : (setPlane s k v).fresh = s.fresh := rfl
@[simp] theorem setPlane_hw_clusters (s : State) (k : Nat) (v : Plane) : (setPlane s k v).hw.clusters = s.hw.clusters := rfl
@[simp] theorem setPlane_hw_cores (s : State) (k : Nat) (v : Plane) : (setPlane s k v).hw.cores = s.hw.cores := rfl
@[simp] theorem setPlane_hw_engines (s : State) (k : Nat) (v : Plane) : (setPlane s k v).hw.engines = s.hw.engines := rfl
@[simp] theorem setPlane_hw_masters (s : State) (k : Nat) (v : Plane) : (setPlane s k v).hw.masters = s.hw.masters := rfl
@[simp] theorem setPlane_hw_outliers (s : State) (k : Nat) (v : Plane) : (setPlane s k v).hw.outliers = s.hw.outliers := rfl
@[simp] theorem setPlane_hw_cellUsed (s : State) (k : Nat) (v : Plane) : (setPlane s k v).hw.cellUsed = s.hw.cellUsed := rfl
@[simp] theorem setPlane_hw_held (s : State) (k : Nat) (v : Plane) : (setPlane s k v).hw.held = s.hw.held := rfl
@[simp] theorem setPlane_hw_stretchPlanes (s : State) (k : Nat) (v : Plane) : (setPlane s k v).hw.stretchPlanes = s.hw.stretchPlanes := rfl
/-- Reading after setPlane. -/
theorem plane_setPlane (s : State) (k : Nat) (v : Plane) (j : Nat) : plane (setPlane s k v) j = if j = k then v else plane s j :=
  look_put _ _ _ _ _
@[simp] theorem plane_setPlane_same (s : State) (k : Nat) (v : Plane) : plane (setPlane s k v) k = v := look_put_same _ _ _ _
@[simp] theorem ring_setPlane (s : State) (k : Nat) (v : Plane) (j : Nat) : ring (setPlane s k v) j = ring s j := rfl
@[simp] theorem mbox_setPlane (s : State) (k : Nat) (v : Plane) (j : Nat) : mbox (setPlane s k v) j = mbox s j := rfl
@[simp] theorem lockReg_setPlane (s : State) (k : Nat) (v : Plane) (j : Nat) : lockReg (setPlane s k v) j = lockReg s j := rfl
@[simp] theorem cluster_setPlane (s : State) (k : Nat) (v : Plane) (j : Nat) : cluster (setPlane s k v) j = cluster s j := rfl
@[simp] theorem core_setPlane (s : State) (k : Nat) (v : Plane) (j : Nat) : core (setPlane s k v) j = core s j := rfl
@[simp] theorem engine_setPlane (s : State) (k : Nat) (v : Plane) (j : Nat) : engine (setPlane s k v) j = engine s j := rfl
@[simp] theorem entry_setPlane (s : State) (k : Nat) (v : Plane) (j : Nat) : entry (setPlane s k v) j = entry s j := rfl
@[simp] theorem brun_setPlane (s : State) (k : Nat) (v : Plane) (j : Nat) : brun (setPlane s k v) j = brun s j := rfl
@[simp] theorem ctx_setPlane (s : State) (k : Nat) (v : Plane) (j : Nat) : ctx (setPlane s k v) j = ctx s j := rfl
@[simp] theorem ctxRun_setPlane (s : State) (k : Nat) (v : Plane) (j : Nat) : ctxRun (setPlane s k v) j = ctxRun s j := rfl
@[simp] theorem conv_setPlane (s : State) (k : Nat) (v : Plane) (j : Nat) : conv (setPlane s k v) j = conv s j := rfl
@[simp] theorem port_setPlane (s : State) (k : Nat) (v : Plane) (j : Nat) : port (setPlane s k v) j = port s j := rfl

/-! ### setEntry -/

@[simp] theorem setEntry_pending (s : State) (k : Nat) (v : BEntry) : (setEntry s k v).pending = s.pending := rfl
@[simp] theorem setEntry_ident (s : State) (k : Nat) (v : BEntry) : (setEntry s k v).ident = s.ident := rfl
@[simp] theorem setEntry_mail (s : State) (k : Nat) (v : BEntry) : (setEntry s k v).mail = s.mail := rfl
@[simp] theorem setEntry_err (s : State) (k : Nat) (v : BEntry) : (setEntry s k v).err = s.err := rfl
@[simp] theorem setEntry_su (s : State) (k : Nat) (v : BEntry) : (setEntry s k v).su = s.su := rfl
@[simp] theorem setEntry_lar (s : State) (k : Nat) (v : BEntry) : (setEntry s k v).lar = s.lar := rfl
@[simp] theorem setEntry_host (s : State) (k : Nat) (v : BEntry) : (setEntry s k v).host = s.host := rfl
@[simp] theorem setEntry_fab (s : State) (k : Nat) (v : BEntry) : (setEntry s k v).fab = s.fab := rfl
@[simp] theorem setEntry_mon (s : State) (k : Nat) (v : BEntry) : (setEntry s k v).mon = s.mon := rfl
@[simp] theorem setEntry_pow (s : State) (k : Nat) (v : BEntry) : (setEntry s k v).pow = s.pow := rfl
@[simp] theorem setEntry_srv (s : State) (k : Nat) (v : BEntry) : (setEntry s k v).srv = s.srv := rfl
@[simp] theorem setEntry_hw (s : State) (k : Nat) (v : BEntry) : (setEntry s k v).hw = s.hw := rfl
@[simp] theorem setEntry_mem (s : State) (k : Nat) (v : BEntry) : (setEntry s k v).mem = s.mem := rfl
@[simp] theorem setEntry_memKeys (s : State) (k : Nat) (v : BEntry) : (setEntry s k v).memKeys = s.memKeys := rfl
@[simp] theorem setEntry_out (s : State) (k : Nat) (v : BEntry) : (setEntry s k v).out = s.out := rfl
@[simp] theorem setEntry_fresh (s : State) (k : Nat) (v : BEntry) : (setEntry s k v).fresh = s.fresh := rfl
@[simp] theorem setEntry_ten_runs (s : State) (k : Nat) (v : BEntry) : (setEntry s k v).ten.runs = s.ten.runs := rfl
@[simp] theorem setEntry_ten_switches (s : State) (k : Nat) (v : BEntry) : (setEntry s k v).ten.switches = s.ten.switches := rfl
@[simp] theorem setEntry_ten_owner (s : State) (k : Nat) (v : BEntry) : (setEntry s k v).ten.owner = s.ten.owner := rfl
@[simp] theorem setEntry_ten_fwEnd (s : State) (k : Nat) (v : BEntry) : (setEntry s k v).ten.fwEnd = s.ten.fwEnd := rfl
@[simp] theorem setEntry_ten_free (s : State) (k : Nat) (v : BEntry) : (setEntry s k v).ten.free = s.ten.free := rfl
@[simp] theorem setEntry_ten_provisioned (s : State) (k : Nat) (v : BEntry) : (setEntry s k v).ten.provisioned = s.ten.provisioned := rfl
@[simp] theorem setEntry_ten_keys (s : State) (k : Nat) (v : BEntry) : (setEntry s k v).ten.keys = s.ten.keys := rfl
@[simp] theorem setEntry_ten_partKey (s : State) (k : Nat) (v : BEntry) : (setEntry s k v).ten.partKey = s.ten.partKey := rfl
@[simp] theorem setEntry_ten_nSwitch (s : State) (k : Nat) (v : BEntry) : (setEntry s k v).ten.nSwitch = s.ten.nSwitch := rfl
@[simp] theorem setEntry_ten_nPreempt (s : State) (k : Nat) (v : BEntry) : (setEntry s k v).ten.nPreempt = s.ten.nPreempt := rfl
@[simp] theorem setEntry_ten_nScrub (s : State) (k : Nat) (v : BEntry) : (setEntry s k v).ten.nScrub = s.ten.nScrub := rfl
@[simp] theorem setEntry_ten_nOwner (s : State) (k : Nat) (v : BEntry) : (setEntry s k v).ten.nOwner = s.ten.nOwner := rfl
@[simp] theorem setEntry_ten_nRefusal (s : State) (k : Nat) (v : BEntry) : (setEntry s k v).ten.nRefusal = s.ten.nRefusal := rfl
/-- Reading after setEntry. -/
theorem entry_setEntry (s : State) (k : Nat) (v : BEntry) (j : Nat) : entry (setEntry s k v) j = if j = k then v else entry s j :=
  look_put _ _ _ _ _
@[simp] theorem entry_setEntry_same (s : State) (k : Nat) (v : BEntry) : entry (setEntry s k v) k = v := look_put_same _ _ _ _
@[simp] theorem ring_setEntry (s : State) (k : Nat) (v : BEntry) (j : Nat) : ring (setEntry s k v) j = ring s j := rfl
@[simp] theorem mbox_setEntry (s : State) (k : Nat) (v : BEntry) (j : Nat) : mbox (setEntry s k v) j = mbox s j := rfl
@[simp] theorem lockReg_setEntry (s : State) (k : Nat) (v : BEntry) (j : Nat) : lockReg (setEntry s k v) j = lockReg s j := rfl
@[simp] theorem cluster_setEntry (s : State) (k : Nat) (v : BEntry) (j : Nat) : cluster (setEntry s k v) j = cluster s j := rfl
@[simp] theorem core_setEntry (s : State) (k : Nat) (v : BEntry) (j : Nat) : core (setEntry s k v) j = core s j := rfl
@[simp] theorem engine_setEntry (s : State) (k : Nat) (v : BEntry) (j : Nat) : engine (setEntry s k v) j = engine s j := rfl
@[simp] theorem plane_setEntry (s : State) (k : Nat) (v : BEntry) (j : Nat) : plane (setEntry s k v) j = plane s j := rfl
@[simp] theorem brun_setEntry (s : State) (k : Nat) (v : BEntry) (j : Nat) : brun (setEntry s k v) j = brun s j := rfl
@[simp] theorem ctx_setEntry (s : State) (k : Nat) (v : BEntry) (j : Nat) : ctx (setEntry s k v) j = ctx s j := rfl
@[simp] theorem ctxRun_setEntry (s : State) (k : Nat) (v : BEntry) (j : Nat) : ctxRun (setEntry s k v) j = ctxRun s j := rfl
@[simp] theorem conv_setEntry (s : State) (k : Nat) (v : BEntry) (j : Nat) : conv (setEntry s k v) j = conv s j := rfl
@[simp] theorem port_setEntry (s : State) (k : Nat) (v : BEntry) (j : Nat) : port (setEntry s k v) j = port s j := rfl

/-! ### setBrun -/

@[simp] theorem setBrun_pending (s : State) (k : Nat) (v : BRun) : (setBrun s k v).pending = s.pending := rfl
@[simp] theorem setBrun_ident (s : State) (k : Nat) (v : BRun) : (setBrun s k v).ident = s.ident := rfl
@[simp] theorem setBrun_mail (s : State) (k : Nat) (v : BRun) : (setBrun s k v).mail = s.mail := rfl
@[simp] theorem setBrun_err (s : State) (k : Nat) (v : BRun) : (setBrun s k v).err = s.err := rfl
@[simp] theorem setBrun_su (s : State) (k : Nat) (v : BRun) : (setBrun s k v).su = s.su := rfl
@[simp] theorem setBrun_lar (s : State) (k : Nat) (v : BRun) : (setBrun s k v).lar = s.lar := rfl
@[simp] theorem setBrun_host (s : State) (k : Nat) (v : BRun) : (setBrun s k v).host = s.host := rfl
@[simp] theorem setBrun_fab (s : State) (k : Nat) (v : BRun) : (setBrun s k v).fab = s.fab := rfl
@[simp] theorem setBrun_mon (s : State) (k : Nat) (v : BRun) : (setBrun s k v).mon = s.mon := rfl
@[simp] theorem setBrun_pow (s : State) (k : Nat) (v : BRun) : (setBrun s k v).pow = s.pow := rfl
@[simp] theorem setBrun_srv (s : State) (k : Nat) (v : BRun) : (setBrun s k v).srv = s.srv := rfl
@[simp] theorem setBrun_hw (s : State) (k : Nat) (v : BRun) : (setBrun s k v).hw = s.hw := rfl
@[simp] theorem setBrun_mem (s : State) (k : Nat) (v : BRun) : (setBrun s k v).mem = s.mem := rfl
@[simp] theorem setBrun_memKeys (s : State) (k : Nat) (v : BRun) : (setBrun s k v).memKeys = s.memKeys := rfl
@[simp] theorem setBrun_out (s : State) (k : Nat) (v : BRun) : (setBrun s k v).out = s.out := rfl
@[simp] theorem setBrun_fresh (s : State) (k : Nat) (v : BRun) : (setBrun s k v).fresh = s.fresh := rfl
@[simp] theorem setBrun_ten_entries (s : State) (k : Nat) (v : BRun) : (setBrun s k v).ten.entries = s.ten.entries := rfl
@[simp] theorem setBrun_ten_switches (s : State) (k : Nat) (v : BRun) : (setBrun s k v).ten.switches = s.ten.switches := rfl
@[simp] theorem setBrun_ten_owner (s : State) (k : Nat) (v : BRun) : (setBrun s k v).ten.owner = s.ten.owner := rfl
@[simp] theorem setBrun_ten_fwEnd (s : State) (k : Nat) (v : BRun) : (setBrun s k v).ten.fwEnd = s.ten.fwEnd := rfl
@[simp] theorem setBrun_ten_free (s : State) (k : Nat) (v : BRun) : (setBrun s k v).ten.free = s.ten.free := rfl
@[simp] theorem setBrun_ten_provisioned (s : State) (k : Nat) (v : BRun) : (setBrun s k v).ten.provisioned = s.ten.provisioned := rfl
@[simp] theorem setBrun_ten_keys (s : State) (k : Nat) (v : BRun) : (setBrun s k v).ten.keys = s.ten.keys := rfl
@[simp] theorem setBrun_ten_partKey (s : State) (k : Nat) (v : BRun) : (setBrun s k v).ten.partKey = s.ten.partKey := rfl
@[simp] theorem setBrun_ten_nSwitch (s : State) (k : Nat) (v : BRun) : (setBrun s k v).ten.nSwitch = s.ten.nSwitch := rfl
@[simp] theorem setBrun_ten_nPreempt (s : State) (k : Nat) (v : BRun) : (setBrun s k v).ten.nPreempt = s.ten.nPreempt := rfl
@[simp] theorem setBrun_ten_nScrub (s : State) (k : Nat) (v : BRun) : (setBrun s k v).ten.nScrub = s.ten.nScrub := rfl
@[simp] theorem setBrun_ten_nOwner (s : State) (k : Nat) (v : BRun) : (setBrun s k v).ten.nOwner = s.ten.nOwner := rfl
@[simp] theorem setBrun_ten_nRefusal (s : State) (k : Nat) (v : BRun) : (setBrun s k v).ten.nRefusal = s.ten.nRefusal := rfl
/-- Reading after setBrun. -/
theorem brun_setBrun (s : State) (k : Nat) (v : BRun) (j : Nat) : brun (setBrun s k v) j = if j = k then v else brun s j :=
  look_put _ _ _ _ _
@[simp] theorem brun_setBrun_same (s : State) (k : Nat) (v : BRun) : brun (setBrun s k v) k = v := look_put_same _ _ _ _
@[simp] theorem ring_setBrun (s : State) (k : Nat) (v : BRun) (j : Nat) : ring (setBrun s k v) j = ring s j := rfl
@[simp] theorem mbox_setBrun (s : State) (k : Nat) (v : BRun) (j : Nat) : mbox (setBrun s k v) j = mbox s j := rfl
@[simp] theorem lockReg_setBrun (s : State) (k : Nat) (v : BRun) (j : Nat) : lockReg (setBrun s k v) j = lockReg s j := rfl
@[simp] theorem cluster_setBrun (s : State) (k : Nat) (v : BRun) (j : Nat) : cluster (setBrun s k v) j = cluster s j := rfl
@[simp] theorem core_setBrun (s : State) (k : Nat) (v : BRun) (j : Nat) : core (setBrun s k v) j = core s j := rfl
@[simp] theorem engine_setBrun (s : State) (k : Nat) (v : BRun) (j : Nat) : engine (setBrun s k v) j = engine s j := rfl
@[simp] theorem plane_setBrun (s : State) (k : Nat) (v : BRun) (j : Nat) : plane (setBrun s k v) j = plane s j := rfl
@[simp] theorem entry_setBrun (s : State) (k : Nat) (v : BRun) (j : Nat) : entry (setBrun s k v) j = entry s j := rfl
@[simp] theorem ctx_setBrun (s : State) (k : Nat) (v : BRun) (j : Nat) : ctx (setBrun s k v) j = ctx s j := rfl
@[simp] theorem ctxRun_setBrun (s : State) (k : Nat) (v : BRun) (j : Nat) : ctxRun (setBrun s k v) j = ctxRun s j := rfl
@[simp] theorem conv_setBrun (s : State) (k : Nat) (v : BRun) (j : Nat) : conv (setBrun s k v) j = conv s j := rfl
@[simp] theorem port_setBrun (s : State) (k : Nat) (v : BRun) (j : Nat) : port (setBrun s k v) j = port s j := rfl

/-! ### setCtx -/

@[simp] theorem setCtx_pending (s : State) (k : Nat) (v : Ctx) : (setCtx s k v).pending = s.pending := rfl
@[simp] theorem setCtx_ident (s : State) (k : Nat) (v : Ctx) : (setCtx s k v).ident = s.ident := rfl
@[simp] theorem setCtx_mail (s : State) (k : Nat) (v : Ctx) : (setCtx s k v).mail = s.mail := rfl
@[simp] theorem setCtx_err (s : State) (k : Nat) (v : Ctx) : (setCtx s k v).err = s.err := rfl
@[simp] theorem setCtx_su (s : State) (k : Nat) (v : Ctx) : (setCtx s k v).su = s.su := rfl
@[simp] theorem setCtx_lar (s : State) (k : Nat) (v : Ctx) : (setCtx s k v).lar = s.lar := rfl
@[simp] theorem setCtx_host (s : State) (k : Nat) (v : Ctx) : (setCtx s k v).host = s.host := rfl
@[simp] theorem setCtx_fab (s : State) (k : Nat) (v : Ctx) : (setCtx s k v).fab = s.fab := rfl
@[simp] theorem setCtx_mon (s : State) (k : Nat) (v : Ctx) : (setCtx s k v).mon = s.mon := rfl
@[simp] theorem setCtx_pow (s : State) (k : Nat) (v : Ctx) : (setCtx s k v).pow = s.pow := rfl
@[simp] theorem setCtx_ten (s : State) (k : Nat) (v : Ctx) : (setCtx s k v).ten = s.ten := rfl
@[simp] theorem setCtx_hw (s : State) (k : Nat) (v : Ctx) : (setCtx s k v).hw = s.hw := rfl
@[simp] theorem setCtx_mem (s : State) (k : Nat) (v : Ctx) : (setCtx s k v).mem = s.mem := rfl
@[simp] theorem setCtx_memKeys (s : State) (k : Nat) (v : Ctx) : (setCtx s k v).memKeys = s.memKeys := rfl
@[simp] theorem setCtx_out (s : State) (k : Nat) (v : Ctx) : (setCtx s k v).out = s.out := rfl
@[simp] theorem setCtx_fresh (s : State) (k : Nat) (v : Ctx) : (setCtx s k v).fresh = s.fresh := rfl
@[simp] theorem setCtx_srv_run (s : State) (k : Nat) (v : Ctx) : (setCtx s k v).srv.run = s.srv.run := rfl
@[simp] theorem setCtx_srv_carry (s : State) (k : Nat) (v : Ctx) : (setCtx s k v).srv.carry = s.srv.carry := rfl
@[simp] theorem setCtx_srv_scale (s : State) (k : Nat) (v : Ctx) : (setCtx s k v).srv.scale = s.srv.scale := rfl
@[simp] theorem setCtx_srv_kvCarry (s : State) (k : Nat) (v : Ctx) : (setCtx s k v).srv.kvCarry = s.srv.kvCarry := rfl
@[simp] theorem setCtx_srv_hist (s : State) (k : Nat) (v : Ctx) : (setCtx s k v).srv.hist = s.srv.hist := rfl
/-- Reading after setCtx. -/
theorem ctx_setCtx (s : State) (k : Nat) (v : Ctx) (j : Nat) : ctx (setCtx s k v) j = if j = k then v else ctx s j :=
  look_put _ _ _ _ _
@[simp] theorem ctx_setCtx_same (s : State) (k : Nat) (v : Ctx) : ctx (setCtx s k v) k = v := look_put_same _ _ _ _
@[simp] theorem ring_setCtx (s : State) (k : Nat) (v : Ctx) (j : Nat) : ring (setCtx s k v) j = ring s j := rfl
@[simp] theorem mbox_setCtx (s : State) (k : Nat) (v : Ctx) (j : Nat) : mbox (setCtx s k v) j = mbox s j := rfl
@[simp] theorem lockReg_setCtx (s : State) (k : Nat) (v : Ctx) (j : Nat) : lockReg (setCtx s k v) j = lockReg s j := rfl
@[simp] theorem cluster_setCtx (s : State) (k : Nat) (v : Ctx) (j : Nat) : cluster (setCtx s k v) j = cluster s j := rfl
@[simp] theorem core_setCtx (s : State) (k : Nat) (v : Ctx) (j : Nat) : core (setCtx s k v) j = core s j := rfl
@[simp] theorem engine_setCtx (s : State) (k : Nat) (v : Ctx) (j : Nat) : engine (setCtx s k v) j = engine s j := rfl
@[simp] theorem plane_setCtx (s : State) (k : Nat) (v : Ctx) (j : Nat) : plane (setCtx s k v) j = plane s j := rfl
@[simp] theorem entry_setCtx (s : State) (k : Nat) (v : Ctx) (j : Nat) : entry (setCtx s k v) j = entry s j := rfl
@[simp] theorem brun_setCtx (s : State) (k : Nat) (v : Ctx) (j : Nat) : brun (setCtx s k v) j = brun s j := rfl
@[simp] theorem ctxRun_setCtx (s : State) (k : Nat) (v : Ctx) (j : Nat) : ctxRun (setCtx s k v) j = ctxRun s j := rfl
@[simp] theorem conv_setCtx (s : State) (k : Nat) (v : Ctx) (j : Nat) : conv (setCtx s k v) j = conv s j := rfl
@[simp] theorem port_setCtx (s : State) (k : Nat) (v : Ctx) (j : Nat) : port (setCtx s k v) j = port s j := rfl

/-! ### setCtxRun -/

@[simp] theorem setCtxRun_pending (s : State) (k : Nat) (v : CtxRun) : (setCtxRun s k v).pending = s.pending := rfl
@[simp] theorem setCtxRun_ident (s : State) (k : Nat) (v : CtxRun) : (setCtxRun s k v).ident = s.ident := rfl
@[simp] theorem setCtxRun_mail (s : State) (k : Nat) (v : CtxRun) : (setCtxRun s k v).mail = s.mail := rfl
@[simp] theorem setCtxRun_err (s : State) (k : Nat) (v : CtxRun) : (setCtxRun s k v).err = s.err := rfl
@[simp] theorem setCtxRun_su (s : State) (k : Nat) (v : CtxRun) : (setCtxRun s k v).su = s.su := rfl
@[simp] theorem setCtxRun_lar (s : State) (k : Nat) (v : CtxRun) : (setCtxRun s k v).lar = s.lar := rfl
@[simp] theorem setCtxRun_host (s : State) (k : Nat) (v : CtxRun) : (setCtxRun s k v).host = s.host := rfl
@[simp] theorem setCtxRun_fab (s : State) (k : Nat) (v : CtxRun) : (setCtxRun s k v).fab = s.fab := rfl
@[simp] theorem setCtxRun_mon (s : State) (k : Nat) (v : CtxRun) : (setCtxRun s k v).mon = s.mon := rfl
@[simp] theorem setCtxRun_pow (s : State) (k : Nat) (v : CtxRun) : (setCtxRun s k v).pow = s.pow := rfl
@[simp] theorem setCtxRun_ten (s : State) (k : Nat) (v : CtxRun) : (setCtxRun s k v).ten = s.ten := rfl
@[simp] theorem setCtxRun_hw (s : State) (k : Nat) (v : CtxRun) : (setCtxRun s k v).hw = s.hw := rfl
@[simp] theorem setCtxRun_mem (s : State) (k : Nat) (v : CtxRun) : (setCtxRun s k v).mem = s.mem := rfl
@[simp] theorem setCtxRun_memKeys (s : State) (k : Nat) (v : CtxRun) : (setCtxRun s k v).memKeys = s.memKeys := rfl
@[simp] theorem setCtxRun_out (s : State) (k : Nat) (v : CtxRun) : (setCtxRun s k v).out = s.out := rfl
@[simp] theorem setCtxRun_fresh (s : State) (k : Nat) (v : CtxRun) : (setCtxRun s k v).fresh = s.fresh := rfl
@[simp] theorem setCtxRun_srv_ctx (s : State) (k : Nat) (v : CtxRun) : (setCtxRun s k v).srv.ctx = s.srv.ctx := rfl
@[simp] theorem setCtxRun_srv_carry (s : State) (k : Nat) (v : CtxRun) : (setCtxRun s k v).srv.carry = s.srv.carry := rfl
@[simp] theorem setCtxRun_srv_scale (s : State) (k : Nat) (v : CtxRun) : (setCtxRun s k v).srv.scale = s.srv.scale := rfl
@[simp] theorem setCtxRun_srv_kvCarry (s : State) (k : Nat) (v : CtxRun) : (setCtxRun s k v).srv.kvCarry = s.srv.kvCarry := rfl
@[simp] theorem setCtxRun_srv_hist (s : State) (k : Nat) (v : CtxRun) : (setCtxRun s k v).srv.hist = s.srv.hist := rfl
/-- Reading after setCtxRun. -/
theorem ctxRun_setCtxRun (s : State) (k : Nat) (v : CtxRun) (j : Nat) : ctxRun (setCtxRun s k v) j = if j = k then v else ctxRun s j :=
  look_put _ _ _ _ _
@[simp] theorem ctxRun_setCtxRun_same (s : State) (k : Nat) (v : CtxRun) : ctxRun (setCtxRun s k v) k = v := look_put_same _ _ _ _
@[simp] theorem ring_setCtxRun (s : State) (k : Nat) (v : CtxRun) (j : Nat) : ring (setCtxRun s k v) j = ring s j := rfl
@[simp] theorem mbox_setCtxRun (s : State) (k : Nat) (v : CtxRun) (j : Nat) : mbox (setCtxRun s k v) j = mbox s j := rfl
@[simp] theorem lockReg_setCtxRun (s : State) (k : Nat) (v : CtxRun) (j : Nat) : lockReg (setCtxRun s k v) j = lockReg s j := rfl
@[simp] theorem cluster_setCtxRun (s : State) (k : Nat) (v : CtxRun) (j : Nat) : cluster (setCtxRun s k v) j = cluster s j := rfl
@[simp] theorem core_setCtxRun (s : State) (k : Nat) (v : CtxRun) (j : Nat) : core (setCtxRun s k v) j = core s j := rfl
@[simp] theorem engine_setCtxRun (s : State) (k : Nat) (v : CtxRun) (j : Nat) : engine (setCtxRun s k v) j = engine s j := rfl
@[simp] theorem plane_setCtxRun (s : State) (k : Nat) (v : CtxRun) (j : Nat) : plane (setCtxRun s k v) j = plane s j := rfl
@[simp] theorem entry_setCtxRun (s : State) (k : Nat) (v : CtxRun) (j : Nat) : entry (setCtxRun s k v) j = entry s j := rfl
@[simp] theorem brun_setCtxRun (s : State) (k : Nat) (v : CtxRun) (j : Nat) : brun (setCtxRun s k v) j = brun s j := rfl
@[simp] theorem ctx_setCtxRun (s : State) (k : Nat) (v : CtxRun) (j : Nat) : ctx (setCtxRun s k v) j = ctx s j := rfl
@[simp] theorem conv_setCtxRun (s : State) (k : Nat) (v : CtxRun) (j : Nat) : conv (setCtxRun s k v) j = conv s j := rfl
@[simp] theorem port_setCtxRun (s : State) (k : Nat) (v : CtxRun) (j : Nat) : port (setCtxRun s k v) j = port s j := rfl

/-! ### setConv -/

@[simp] theorem setConv_pending (s : State) (k : Nat) (v : Conv) : (setConv s k v).pending = s.pending := rfl
@[simp] theorem setConv_ident (s : State) (k : Nat) (v : Conv) : (setConv s k v).ident = s.ident := rfl
@[simp] theorem setConv_mail (s : State) (k : Nat) (v : Conv) : (setConv s k v).mail = s.mail := rfl
@[simp] theorem setConv_err (s : State) (k : Nat) (v : Conv) : (setConv s k v).err = s.err := rfl
@[simp] theorem setConv_su (s : State) (k : Nat) (v : Conv) : (setConv s k v).su = s.su := rfl
@[simp] theorem setConv_lar (s : State) (k : Nat) (v : Conv) : (setConv s k v).lar = s.lar := rfl
@[simp] theorem setConv_host (s : State) (k : Nat) (v : Conv) : (setConv s k v).host = s.host := rfl
@[simp] theorem setConv_fab (s : State) (k : Nat) (v : Conv) : (setConv s k v).fab = s.fab := rfl
@[simp] theorem setConv_pow (s : State) (k : Nat) (v : Conv) : (setConv s k v).pow = s.pow := rfl
@[simp] theorem setConv_ten (s : State) (k : Nat) (v : Conv) : (setConv s k v).ten = s.ten := rfl
@[simp] theorem setConv_srv (s : State) (k : Nat) (v : Conv) : (setConv s k v).srv = s.srv := rfl
@[simp] theorem setConv_hw (s : State) (k : Nat) (v : Conv) : (setConv s k v).hw = s.hw := rfl
@[simp] theorem setConv_mem (s : State) (k : Nat) (v : Conv) : (setConv s k v).mem = s.mem := rfl
@[simp] theorem setConv_memKeys (s : State) (k : Nat) (v : Conv) : (setConv s k v).memKeys = s.memKeys := rfl
@[simp] theorem setConv_out (s : State) (k : Nat) (v : Conv) : (setConv s k v).out = s.out := rfl
@[simp] theorem setConv_fresh (s : State) (k : Nat) (v : Conv) : (setConv s k v).fresh = s.fresh := rfl
@[simp] theorem setConv_mon_snapSeq (s : State) (k : Nat) (v : Conv) : (setConv s k v).mon.snapSeq = s.mon.snapSeq := rfl
@[simp] theorem setConv_mon_snapBeat (s : State) (k : Nat) (v : Conv) : (setConv s k v).mon.snapBeat = s.mon.snapBeat := rfl
@[simp] theorem setConv_mon_selfFailed (s : State) (k : Nat) (v : Conv) : (setConv s k v).mon.selfFailed = s.mon.selfFailed := rfl
@[simp] theorem setConv_mon_calDelta (s : State) (k : Nat) (v : Conv) : (setConv s k v).mon.calDelta = s.mon.calDelta := rfl
/-- Reading after setConv. -/
theorem conv_setConv (s : State) (k : Nat) (v : Conv) (j : Nat) : conv (setConv s k v) j = if j = k then v else conv s j :=
  look_put _ _ _ _ _
@[simp] theorem conv_setConv_same (s : State) (k : Nat) (v : Conv) : conv (setConv s k v) k = v := look_put_same _ _ _ _
@[simp] theorem ring_setConv (s : State) (k : Nat) (v : Conv) (j : Nat) : ring (setConv s k v) j = ring s j := rfl
@[simp] theorem mbox_setConv (s : State) (k : Nat) (v : Conv) (j : Nat) : mbox (setConv s k v) j = mbox s j := rfl
@[simp] theorem lockReg_setConv (s : State) (k : Nat) (v : Conv) (j : Nat) : lockReg (setConv s k v) j = lockReg s j := rfl
@[simp] theorem cluster_setConv (s : State) (k : Nat) (v : Conv) (j : Nat) : cluster (setConv s k v) j = cluster s j := rfl
@[simp] theorem core_setConv (s : State) (k : Nat) (v : Conv) (j : Nat) : core (setConv s k v) j = core s j := rfl
@[simp] theorem engine_setConv (s : State) (k : Nat) (v : Conv) (j : Nat) : engine (setConv s k v) j = engine s j := rfl
@[simp] theorem plane_setConv (s : State) (k : Nat) (v : Conv) (j : Nat) : plane (setConv s k v) j = plane s j := rfl
@[simp] theorem entry_setConv (s : State) (k : Nat) (v : Conv) (j : Nat) : entry (setConv s k v) j = entry s j := rfl
@[simp] theorem brun_setConv (s : State) (k : Nat) (v : Conv) (j : Nat) : brun (setConv s k v) j = brun s j := rfl
@[simp] theorem ctx_setConv (s : State) (k : Nat) (v : Conv) (j : Nat) : ctx (setConv s k v) j = ctx s j := rfl
@[simp] theorem ctxRun_setConv (s : State) (k : Nat) (v : Conv) (j : Nat) : ctxRun (setConv s k v) j = ctxRun s j := rfl
@[simp] theorem port_setConv (s : State) (k : Nat) (v : Conv) (j : Nat) : port (setConv s k v) j = port s j := rfl

/-! ### setPort -/

@[simp] theorem setPort_pending (s : State) (k : Nat) (v : Port) : (setPort s k v).pending = s.pending := rfl
@[simp] theorem setPort_ident (s : State) (k : Nat) (v : Port) : (setPort s k v).ident = s.ident := rfl
@[simp] theorem setPort_mail (s : State) (k : Nat) (v : Port) : (setPort s k v).mail = s.mail := rfl
@[simp] theorem setPort_err (s : State) (k : Nat) (v : Port) : (setPort s k v).err = s.err := rfl
@[simp] theorem setPort_su (s : State) (k : Nat) (v : Port) : (setPort s k v).su = s.su := rfl
@[simp] theorem setPort_lar (s : State) (k : Nat) (v : Port) : (setPort s k v).lar = s.lar := rfl
@[simp] theorem setPort_host (s : State) (k : Nat) (v : Port) : (setPort s k v).host = s.host := rfl
@[simp] theorem setPort_mon (s : State) (k : Nat) (v : Port) : (setPort s k v).mon = s.mon := rfl
@[simp] theorem setPort_pow (s : State) (k : Nat) (v : Port) : (setPort s k v).pow = s.pow := rfl
@[simp] theorem setPort_ten (s : State) (k : Nat) (v : Port) : (setPort s k v).ten = s.ten := rfl
@[simp] theorem setPort_srv (s : State) (k : Nat) (v : Port) : (setPort s k v).srv = s.srv := rfl
@[simp] theorem setPort_hw (s : State) (k : Nat) (v : Port) : (setPort s k v).hw = s.hw := rfl
@[simp] theorem setPort_mem (s : State) (k : Nat) (v : Port) : (setPort s k v).mem = s.mem := rfl
@[simp] theorem setPort_memKeys (s : State) (k : Nat) (v : Port) : (setPort s k v).memKeys = s.memKeys := rfl
@[simp] theorem setPort_out (s : State) (k : Nat) (v : Port) : (setPort s k v).out = s.out := rfl
@[simp] theorem setPort_fresh (s : State) (k : Nat) (v : Port) : (setPort s k v).fresh = s.fresh := rfl
@[simp] theorem setPort_fab_st (s : State) (k : Nat) (v : Port) : (setPort s k v).fab.st = s.fab.st := rfl
@[simp] theorem setPort_fab_cause (s : State) (k : Nat) (v : Port) : (setPort s k v).fab.cause = s.fab.cause := rfl
@[simp] theorem setPort_fab_mapRefused (s : State) (k : Nat) (v : Port) : (setPort s k v).fab.mapRefused = s.fab.mapRefused := rfl
@[simp] theorem setPort_fab_joinRefused (s : State) (k : Nat) (v : Port) : (setPort s k v).fab.joinRefused = s.fab.joinRefused := rfl
@[simp] theorem setPort_fab_leaveRefused (s : State) (k : Nat) (v : Port) : (setPort s k v).fab.leaveRefused = s.fab.leaveRefused := rfl
@[simp] theorem setPort_fab_locked (s : State) (k : Nat) (v : Port) : (setPort s k v).fab.locked = s.fab.locked := rfl
@[simp] theorem setPort_fab_domainId (s : State) (k : Nat) (v : Port) : (setPort s k v).fab.domainId = s.fab.domainId := rfl
@[simp] theorem setPort_fab_ringSize (s : State) (k : Nat) (v : Port) : (setPort s k v).fab.ringSize = s.fab.ringSize := rfl
@[simp] theorem setPort_fab_myPos (s : State) (k : Nat) (v : Port) : (setPort s k v).fab.myPos = s.fab.myPos := rfl
@[simp] theorem setPort_fab_mySeat (s : State) (k : Nat) (v : Port) : (setPort s k v).fab.mySeat = s.fab.mySeat := rfl
@[simp] theorem setPort_fab_seats (s : State) (k : Nat) (v : Port) : (setPort s k v).fab.seats = s.fab.seats := rfl
@[simp] theorem setPort_fab_seatTab (s : State) (k : Nat) (v : Port) : (setPort s k v).fab.seatTab = s.fab.seatTab := rfl
@[simp] theorem setPort_fab_join (s : State) (k : Nat) (v : Port) : (setPort s k v).fab.join = s.fab.join := rfl
@[simp] theorem setPort_fab_lead (s : State) (k : Nat) (v : Port) : (setPort s k v).fab.lead = s.fab.lead := rfl
@[simp] theorem setPort_fab_digest (s : State) (k : Nat) (v : Port) : (setPort s k v).fab.digest = s.fab.digest := rfl
@[simp] theorem setPort_fab_beat (s : State) (k : Nat) (v : Port) : (setPort s k v).fab.beat = s.fab.beat := rfl
@[simp] theorem setPort_fab_sched (s : State) (k : Nat) (v : Port) : (setPort s k v).fab.sched = s.fab.sched := rfl
@[simp] theorem setPort_fab_tt (s : State) (k : Nat) (v : Port) : (setPort s k v).fab.tt = s.fab.tt := rfl
@[simp] theorem setPort_fab_ext (s : State) (k : Nat) (v : Port) : (setPort s k v).fab.ext = s.fab.ext := rfl
@[simp] theorem setPort_fab_stretches (s : State) (k : Nat) (v : Port) : (setPort s k v).fab.stretches = s.fab.stretches := rfl
@[simp] theorem setPort_fab_inserted (s : State) (k : Nat) (v : Port) : (setPort s k v).fab.inserted = s.fab.inserted := rfl
@[simp] theorem setPort_fab_requests (s : State) (k : Nat) (v : Port) : (setPort s k v).fab.requests = s.fab.requests := rfl
@[simp] theorem setPort_fab_badRequests (s : State) (k : Nat) (v : Port) : (setPort s k v).fab.badRequests = s.fab.badRequests := rfl
@[simp] theorem setPort_fab_timeouts (s : State) (k : Nat) (v : Port) : (setPort s k v).fab.timeouts = s.fab.timeouts := rfl
@[simp] theorem setPort_fab_errCompl (s : State) (k : Nat) (v : Port) : (setPort s k v).fab.errCompl = s.fab.errCompl := rfl
@[simp] theorem setPort_fab_grant (s : State) (k : Nat) (v : Port) : (setPort s k v).fab.grant = s.fab.grant := rfl
@[simp] theorem setPort_fab_later (s : State) (k : Nat) (v : Port) : (setPort s k v).fab.later = s.fab.later := rfl
@[simp] theorem setPort_fab_waiting (s : State) (k : Nat) (v : Port) : (setPort s k v).fab.waiting = s.fab.waiting := rfl
@[simp] theorem setPort_fab_own (s : State) (k : Nat) (v : Port) : (setPort s k v).fab.own = s.fab.own := rfl
@[simp] theorem setPort_fab_misses (s : State) (k : Nat) (v : Port) : (setPort s k v).fab.misses = s.fab.misses := rfl
@[simp] theorem setPort_fab_raised (s : State) (k : Nat) (v : Port) : (setPort s k v).fab.raised = s.fab.raised := rfl
@[simp] theorem setPort_fab_noticed (s : State) (k : Nat) (v : Port) : (setPort s k v).fab.noticed = s.fab.noticed := rfl
@[simp] theorem setPort_fab_wordNext (s : State) (k : Nat) (v : Port) : (setPort s k v).fab.wordNext = s.fab.wordNext := rfl
@[simp] theorem setPort_fab_started (s : State) (k : Nat) (v : Port) : (setPort s k v).fab.started = s.fab.started := rfl
@[simp] theorem setPort_fab_txns (s : State) (k : Nat) (v : Port) : (setPort s k v).fab.txns = s.fab.txns := rfl
@[simp] theorem setPort_fab_nextTag (s : State) (k : Nat) (v : Port) : (setPort s k v).fab.nextTag = s.fab.nextTag := rfl
@[simp] theorem setPort_fab_ops (s : State) (k : Nat) (v : Port) : (setPort s k v).fab.ops = s.fab.ops := rfl
/-- Reading after setPort. -/
theorem port_setPort (s : State) (k : Nat) (v : Port) (j : Nat) : port (setPort s k v) j = if j = k then v else port s j :=
  look_put _ _ _ _ _
@[simp] theorem port_setPort_same (s : State) (k : Nat) (v : Port) : port (setPort s k v) k = v := look_put_same _ _ _ _
@[simp] theorem ring_setPort (s : State) (k : Nat) (v : Port) (j : Nat) : ring (setPort s k v) j = ring s j := rfl
@[simp] theorem mbox_setPort (s : State) (k : Nat) (v : Port) (j : Nat) : mbox (setPort s k v) j = mbox s j := rfl
@[simp] theorem lockReg_setPort (s : State) (k : Nat) (v : Port) (j : Nat) : lockReg (setPort s k v) j = lockReg s j := rfl
@[simp] theorem cluster_setPort (s : State) (k : Nat) (v : Port) (j : Nat) : cluster (setPort s k v) j = cluster s j := rfl
@[simp] theorem core_setPort (s : State) (k : Nat) (v : Port) (j : Nat) : core (setPort s k v) j = core s j := rfl
@[simp] theorem engine_setPort (s : State) (k : Nat) (v : Port) (j : Nat) : engine (setPort s k v) j = engine s j := rfl
@[simp] theorem plane_setPort (s : State) (k : Nat) (v : Port) (j : Nat) : plane (setPort s k v) j = plane s j := rfl
@[simp] theorem entry_setPort (s : State) (k : Nat) (v : Port) (j : Nat) : entry (setPort s k v) j = entry s j := rfl
@[simp] theorem brun_setPort (s : State) (k : Nat) (v : Port) (j : Nat) : brun (setPort s k v) j = brun s j := rfl
@[simp] theorem ctx_setPort (s : State) (k : Nat) (v : Port) (j : Nat) : ctx (setPort s k v) j = ctx s j := rfl
@[simp] theorem ctxRun_setPort (s : State) (k : Nat) (v : Port) (j : Nat) : ctxRun (setPort s k v) j = ctxRun s j := rfl
@[simp] theorem conv_setPort (s : State) (k : Nat) (v : Port) (j : Nat) : conv (setPort s k v) j = conv s j := rfl

/-! ### modCluster -/

@[simp] theorem modCluster_pending (k : Nat) (f : Cluster → Cluster) (s : State) : (modCluster k f s).pending = s.pending := rfl
@[simp] theorem modCluster_ident (k : Nat) (f : Cluster → Cluster) (s : State) : (modCluster k f s).ident = s.ident := rfl
@[simp] theorem modCluster_mail (k : Nat) (f : Cluster → Cluster) (s : State) : (modCluster k f s).mail = s.mail := rfl
@[simp] theorem modCluster_err (k : Nat) (f : Cluster → Cluster) (s : State) : (modCluster k f s).err = s.err := rfl
@[simp] theorem modCluster_su (k : Nat) (f : Cluster → Cluster) (s : State) : (modCluster k f s).su = s.su := rfl
@[simp] theorem modCluster_lar (k : Nat) (f : Cluster → Cluster) (s : State) : (modCluster k f s).lar = s.lar := rfl
@[simp] theorem modCluster_host (k : Nat) (f : Cluster → Cluster) (s : State) : (modCluster k f s).host = s.host := rfl
@[simp] theorem modCluster_fab (k : Nat) (f : Cluster → Cluster) (s : State) : (modCluster k f s).fab = s.fab := rfl
@[simp] theorem modCluster_mon (k : Nat) (f : Cluster → Cluster) (s : State) : (modCluster k f s).mon = s.mon := rfl
@[simp] theorem modCluster_pow (k : Nat) (f : Cluster → Cluster) (s : State) : (modCluster k f s).pow = s.pow := rfl
@[simp] theorem modCluster_ten (k : Nat) (f : Cluster → Cluster) (s : State) : (modCluster k f s).ten = s.ten := rfl
@[simp] theorem modCluster_srv (k : Nat) (f : Cluster → Cluster) (s : State) : (modCluster k f s).srv = s.srv := rfl
@[simp] theorem modCluster_mem (k : Nat) (f : Cluster → Cluster) (s : State) : (modCluster k f s).mem = s.mem := rfl
@[simp] theorem modCluster_memKeys (k : Nat) (f : Cluster → Cluster) (s : State) : (modCluster k f s).memKeys = s.memKeys := rfl
@[simp] theorem modCluster_out (k : Nat) (f : Cluster → Cluster) (s : State) : (modCluster k f s).out = s.out := rfl
@[simp] theorem modCluster_fresh (k : Nat) (f : Cluster → Cluster) (s : State) : (modCluster k f s).fresh = s.fresh := rfl
@[simp] theorem modCluster_hw_cores (k : Nat) (f : Cluster → Cluster) (s : State) : (modCluster k f s).hw.cores = s.hw.cores := rfl
@[simp] theorem modCluster_hw_engines (k : Nat) (f : Cluster → Cluster) (s : State) : (modCluster k f s).hw.engines = s.hw.engines := rfl
@[simp] theorem modCluster_hw_planes (k : Nat) (f : Cluster → Cluster) (s : State) : (modCluster k f s).hw.planes = s.hw.planes := rfl
@[simp] theorem modCluster_hw_masters (k : Nat) (f : Cluster → Cluster) (s : State) : (modCluster k f s).hw.masters = s.hw.masters := rfl
@[simp] theorem modCluster_hw_outliers (k : Nat) (f : Cluster → Cluster) (s : State) : (modCluster k f s).hw.outliers = s.hw.outliers := rfl
@[simp] theorem modCluster_hw_cellUsed (k : Nat) (f : Cluster → Cluster) (s : State) : (modCluster k f s).hw.cellUsed = s.hw.cellUsed := rfl
@[simp] theorem modCluster_hw_held (k : Nat) (f : Cluster → Cluster) (s : State) : (modCluster k f s).hw.held = s.hw.held := rfl
@[simp] theorem modCluster_hw_stretchPlanes (k : Nat) (f : Cluster → Cluster) (s : State) : (modCluster k f s).hw.stretchPlanes = s.hw.stretchPlanes := rfl
/-- Reading after modCluster. -/
theorem cluster_modCluster (k : Nat) (f : Cluster → Cluster) (s : State) (j : Nat) : cluster (modCluster k f s) j = if j = k then f (cluster s k) else cluster s j :=
  look_put _ _ _ _ _
@[simp] theorem cluster_modCluster_same (k : Nat) (f : Cluster → Cluster) (s : State) : cluster (modCluster k f s) k = f (cluster s k) := look_put_same _ _ _ _
@[simp] theorem ring_modCluster (k : Nat) (f : Cluster → Cluster) (s : State) (j : Nat) : ring (modCluster k f s) j = ring s j := rfl
@[simp] theorem mbox_modCluster (k : Nat) (f : Cluster → Cluster) (s : State) (j : Nat) : mbox (modCluster k f s) j = mbox s j := rfl
@[simp] theorem lockReg_modCluster (k : Nat) (f : Cluster → Cluster) (s : State) (j : Nat) : lockReg (modCluster k f s) j = lockReg s j := rfl
@[simp] theorem core_modCluster (k : Nat) (f : Cluster → Cluster) (s : State) (j : Nat) : core (modCluster k f s) j = core s j := rfl
@[simp] theorem engine_modCluster (k : Nat) (f : Cluster → Cluster) (s : State) (j : Nat) : engine (modCluster k f s) j = engine s j := rfl
@[simp] theorem plane_modCluster (k : Nat) (f : Cluster → Cluster) (s : State) (j : Nat) : plane (modCluster k f s) j = plane s j := rfl
@[simp] theorem entry_modCluster (k : Nat) (f : Cluster → Cluster) (s : State) (j : Nat) : entry (modCluster k f s) j = entry s j := rfl
@[simp] theorem brun_modCluster (k : Nat) (f : Cluster → Cluster) (s : State) (j : Nat) : brun (modCluster k f s) j = brun s j := rfl
@[simp] theorem ctx_modCluster (k : Nat) (f : Cluster → Cluster) (s : State) (j : Nat) : ctx (modCluster k f s) j = ctx s j := rfl
@[simp] theorem ctxRun_modCluster (k : Nat) (f : Cluster → Cluster) (s : State) (j : Nat) : ctxRun (modCluster k f s) j = ctxRun s j := rfl
@[simp] theorem conv_modCluster (k : Nat) (f : Cluster → Cluster) (s : State) (j : Nat) : conv (modCluster k f s) j = conv s j := rfl
@[simp] theorem port_modCluster (k : Nat) (f : Cluster → Cluster) (s : State) (j : Nat) : port (modCluster k f s) j = port s j := rfl

/-! ### modCore -/

@[simp] theorem modCore_pending (k : Nat) (f : Core → Core) (s : State) : (modCore k f s).pending = s.pending := rfl
@[simp] theorem modCore_ident (k : Nat) (f : Core → Core) (s : State) : (modCore k f s).ident = s.ident := rfl
@[simp] theorem modCore_mail (k : Nat) (f : Core → Core) (s : State) : (modCore k f s).mail = s.mail := rfl
@[simp] theorem modCore_err (k : Nat) (f : Core → Core) (s : State) : (modCore k f s).err = s.err := rfl
@[simp] theorem modCore_su (k : Nat) (f : Core → Core) (s : State) : (modCore k f s).su = s.su := rfl
@[simp] theorem modCore_lar (k : Nat) (f : Core → Core) (s : State) : (modCore k f s).lar = s.lar := rfl
@[simp] theorem modCore_host (k : Nat) (f : Core → Core) (s : State) : (modCore k f s).host = s.host := rfl
@[simp] theorem modCore_fab (k : Nat) (f : Core → Core) (s : State) : (modCore k f s).fab = s.fab := rfl
@[simp] theorem modCore_mon (k : Nat) (f : Core → Core) (s : State) : (modCore k f s).mon = s.mon := rfl
@[simp] theorem modCore_pow (k : Nat) (f : Core → Core) (s : State) : (modCore k f s).pow = s.pow := rfl
@[simp] theorem modCore_ten (k : Nat) (f : Core → Core) (s : State) : (modCore k f s).ten = s.ten := rfl
@[simp] theorem modCore_srv (k : Nat) (f : Core → Core) (s : State) : (modCore k f s).srv = s.srv := rfl
@[simp] theorem modCore_mem (k : Nat) (f : Core → Core) (s : State) : (modCore k f s).mem = s.mem := rfl
@[simp] theorem modCore_memKeys (k : Nat) (f : Core → Core) (s : State) : (modCore k f s).memKeys = s.memKeys := rfl
@[simp] theorem modCore_out (k : Nat) (f : Core → Core) (s : State) : (modCore k f s).out = s.out := rfl
@[simp] theorem modCore_fresh (k : Nat) (f : Core → Core) (s : State) : (modCore k f s).fresh = s.fresh := rfl
@[simp] theorem modCore_hw_clusters (k : Nat) (f : Core → Core) (s : State) : (modCore k f s).hw.clusters = s.hw.clusters := rfl
@[simp] theorem modCore_hw_engines (k : Nat) (f : Core → Core) (s : State) : (modCore k f s).hw.engines = s.hw.engines := rfl
@[simp] theorem modCore_hw_planes (k : Nat) (f : Core → Core) (s : State) : (modCore k f s).hw.planes = s.hw.planes := rfl
@[simp] theorem modCore_hw_masters (k : Nat) (f : Core → Core) (s : State) : (modCore k f s).hw.masters = s.hw.masters := rfl
@[simp] theorem modCore_hw_outliers (k : Nat) (f : Core → Core) (s : State) : (modCore k f s).hw.outliers = s.hw.outliers := rfl
@[simp] theorem modCore_hw_cellUsed (k : Nat) (f : Core → Core) (s : State) : (modCore k f s).hw.cellUsed = s.hw.cellUsed := rfl
@[simp] theorem modCore_hw_held (k : Nat) (f : Core → Core) (s : State) : (modCore k f s).hw.held = s.hw.held := rfl
@[simp] theorem modCore_hw_stretchPlanes (k : Nat) (f : Core → Core) (s : State) : (modCore k f s).hw.stretchPlanes = s.hw.stretchPlanes := rfl
/-- Reading after modCore. -/
theorem core_modCore (k : Nat) (f : Core → Core) (s : State) (j : Nat) : core (modCore k f s) j = if j = k then f (core s k) else core s j :=
  look_put _ _ _ _ _
@[simp] theorem core_modCore_same (k : Nat) (f : Core → Core) (s : State) : core (modCore k f s) k = f (core s k) := look_put_same _ _ _ _
@[simp] theorem ring_modCore (k : Nat) (f : Core → Core) (s : State) (j : Nat) : ring (modCore k f s) j = ring s j := rfl
@[simp] theorem mbox_modCore (k : Nat) (f : Core → Core) (s : State) (j : Nat) : mbox (modCore k f s) j = mbox s j := rfl
@[simp] theorem lockReg_modCore (k : Nat) (f : Core → Core) (s : State) (j : Nat) : lockReg (modCore k f s) j = lockReg s j := rfl
@[simp] theorem cluster_modCore (k : Nat) (f : Core → Core) (s : State) (j : Nat) : cluster (modCore k f s) j = cluster s j := rfl
@[simp] theorem engine_modCore (k : Nat) (f : Core → Core) (s : State) (j : Nat) : engine (modCore k f s) j = engine s j := rfl
@[simp] theorem plane_modCore (k : Nat) (f : Core → Core) (s : State) (j : Nat) : plane (modCore k f s) j = plane s j := rfl
@[simp] theorem entry_modCore (k : Nat) (f : Core → Core) (s : State) (j : Nat) : entry (modCore k f s) j = entry s j := rfl
@[simp] theorem brun_modCore (k : Nat) (f : Core → Core) (s : State) (j : Nat) : brun (modCore k f s) j = brun s j := rfl
@[simp] theorem ctx_modCore (k : Nat) (f : Core → Core) (s : State) (j : Nat) : ctx (modCore k f s) j = ctx s j := rfl
@[simp] theorem ctxRun_modCore (k : Nat) (f : Core → Core) (s : State) (j : Nat) : ctxRun (modCore k f s) j = ctxRun s j := rfl
@[simp] theorem conv_modCore (k : Nat) (f : Core → Core) (s : State) (j : Nat) : conv (modCore k f s) j = conv s j := rfl
@[simp] theorem port_modCore (k : Nat) (f : Core → Core) (s : State) (j : Nat) : port (modCore k f s) j = port s j := rfl

/-! ### modEngine -/

@[simp] theorem modEngine_pending (k : Nat) (f : Engine → Engine) (s : State) : (modEngine k f s).pending = s.pending := rfl
@[simp] theorem modEngine_ident (k : Nat) (f : Engine → Engine) (s : State) : (modEngine k f s).ident = s.ident := rfl
@[simp] theorem modEngine_mail (k : Nat) (f : Engine → Engine) (s : State) : (modEngine k f s).mail = s.mail := rfl
@[simp] theorem modEngine_err (k : Nat) (f : Engine → Engine) (s : State) : (modEngine k f s).err = s.err := rfl
@[simp] theorem modEngine_su (k : Nat) (f : Engine → Engine) (s : State) : (modEngine k f s).su = s.su := rfl
@[simp] theorem modEngine_lar (k : Nat) (f : Engine → Engine) (s : State) : (modEngine k f s).lar = s.lar := rfl
@[simp] theorem modEngine_host (k : Nat) (f : Engine → Engine) (s : State) : (modEngine k f s).host = s.host := rfl
@[simp] theorem modEngine_fab (k : Nat) (f : Engine → Engine) (s : State) : (modEngine k f s).fab = s.fab := rfl
@[simp] theorem modEngine_mon (k : Nat) (f : Engine → Engine) (s : State) : (modEngine k f s).mon = s.mon := rfl
@[simp] theorem modEngine_pow (k : Nat) (f : Engine → Engine) (s : State) : (modEngine k f s).pow = s.pow := rfl
@[simp] theorem modEngine_ten (k : Nat) (f : Engine → Engine) (s : State) : (modEngine k f s).ten = s.ten := rfl
@[simp] theorem modEngine_srv (k : Nat) (f : Engine → Engine) (s : State) : (modEngine k f s).srv = s.srv := rfl
@[simp] theorem modEngine_mem (k : Nat) (f : Engine → Engine) (s : State) : (modEngine k f s).mem = s.mem := rfl
@[simp] theorem modEngine_memKeys (k : Nat) (f : Engine → Engine) (s : State) : (modEngine k f s).memKeys = s.memKeys := rfl
@[simp] theorem modEngine_out (k : Nat) (f : Engine → Engine) (s : State) : (modEngine k f s).out = s.out := rfl
@[simp] theorem modEngine_fresh (k : Nat) (f : Engine → Engine) (s : State) : (modEngine k f s).fresh = s.fresh := rfl
@[simp] theorem modEngine_hw_clusters (k : Nat) (f : Engine → Engine) (s : State) : (modEngine k f s).hw.clusters = s.hw.clusters := rfl
@[simp] theorem modEngine_hw_cores (k : Nat) (f : Engine → Engine) (s : State) : (modEngine k f s).hw.cores = s.hw.cores := rfl
@[simp] theorem modEngine_hw_planes (k : Nat) (f : Engine → Engine) (s : State) : (modEngine k f s).hw.planes = s.hw.planes := rfl
@[simp] theorem modEngine_hw_masters (k : Nat) (f : Engine → Engine) (s : State) : (modEngine k f s).hw.masters = s.hw.masters := rfl
@[simp] theorem modEngine_hw_outliers (k : Nat) (f : Engine → Engine) (s : State) : (modEngine k f s).hw.outliers = s.hw.outliers := rfl
@[simp] theorem modEngine_hw_cellUsed (k : Nat) (f : Engine → Engine) (s : State) : (modEngine k f s).hw.cellUsed = s.hw.cellUsed := rfl
@[simp] theorem modEngine_hw_held (k : Nat) (f : Engine → Engine) (s : State) : (modEngine k f s).hw.held = s.hw.held := rfl
@[simp] theorem modEngine_hw_stretchPlanes (k : Nat) (f : Engine → Engine) (s : State) : (modEngine k f s).hw.stretchPlanes = s.hw.stretchPlanes := rfl
/-- Reading after modEngine. -/
theorem engine_modEngine (k : Nat) (f : Engine → Engine) (s : State) (j : Nat) : engine (modEngine k f s) j = if j = k then f (engine s k) else engine s j :=
  look_put _ _ _ _ _
@[simp] theorem engine_modEngine_same (k : Nat) (f : Engine → Engine) (s : State) : engine (modEngine k f s) k = f (engine s k) := look_put_same _ _ _ _
@[simp] theorem ring_modEngine (k : Nat) (f : Engine → Engine) (s : State) (j : Nat) : ring (modEngine k f s) j = ring s j := rfl
@[simp] theorem mbox_modEngine (k : Nat) (f : Engine → Engine) (s : State) (j : Nat) : mbox (modEngine k f s) j = mbox s j := rfl
@[simp] theorem lockReg_modEngine (k : Nat) (f : Engine → Engine) (s : State) (j : Nat) : lockReg (modEngine k f s) j = lockReg s j := rfl
@[simp] theorem cluster_modEngine (k : Nat) (f : Engine → Engine) (s : State) (j : Nat) : cluster (modEngine k f s) j = cluster s j := rfl
@[simp] theorem core_modEngine (k : Nat) (f : Engine → Engine) (s : State) (j : Nat) : core (modEngine k f s) j = core s j := rfl
@[simp] theorem plane_modEngine (k : Nat) (f : Engine → Engine) (s : State) (j : Nat) : plane (modEngine k f s) j = plane s j := rfl
@[simp] theorem entry_modEngine (k : Nat) (f : Engine → Engine) (s : State) (j : Nat) : entry (modEngine k f s) j = entry s j := rfl
@[simp] theorem brun_modEngine (k : Nat) (f : Engine → Engine) (s : State) (j : Nat) : brun (modEngine k f s) j = brun s j := rfl
@[simp] theorem ctx_modEngine (k : Nat) (f : Engine → Engine) (s : State) (j : Nat) : ctx (modEngine k f s) j = ctx s j := rfl
@[simp] theorem ctxRun_modEngine (k : Nat) (f : Engine → Engine) (s : State) (j : Nat) : ctxRun (modEngine k f s) j = ctxRun s j := rfl
@[simp] theorem conv_modEngine (k : Nat) (f : Engine → Engine) (s : State) (j : Nat) : conv (modEngine k f s) j = conv s j := rfl
@[simp] theorem port_modEngine (k : Nat) (f : Engine → Engine) (s : State) (j : Nat) : port (modEngine k f s) j = port s j := rfl

/-! ### modPlane -/

@[simp] theorem modPlane_pending (k : Nat) (f : Plane → Plane) (s : State) : (modPlane k f s).pending = s.pending := rfl
@[simp] theorem modPlane_ident (k : Nat) (f : Plane → Plane) (s : State) : (modPlane k f s).ident = s.ident := rfl
@[simp] theorem modPlane_mail (k : Nat) (f : Plane → Plane) (s : State) : (modPlane k f s).mail = s.mail := rfl
@[simp] theorem modPlane_err (k : Nat) (f : Plane → Plane) (s : State) : (modPlane k f s).err = s.err := rfl
@[simp] theorem modPlane_su (k : Nat) (f : Plane → Plane) (s : State) : (modPlane k f s).su = s.su := rfl
@[simp] theorem modPlane_lar (k : Nat) (f : Plane → Plane) (s : State) : (modPlane k f s).lar = s.lar := rfl
@[simp] theorem modPlane_host (k : Nat) (f : Plane → Plane) (s : State) : (modPlane k f s).host = s.host := rfl
@[simp] theorem modPlane_fab (k : Nat) (f : Plane → Plane) (s : State) : (modPlane k f s).fab = s.fab := rfl
@[simp] theorem modPlane_mon (k : Nat) (f : Plane → Plane) (s : State) : (modPlane k f s).mon = s.mon := rfl
@[simp] theorem modPlane_pow (k : Nat) (f : Plane → Plane) (s : State) : (modPlane k f s).pow = s.pow := rfl
@[simp] theorem modPlane_ten (k : Nat) (f : Plane → Plane) (s : State) : (modPlane k f s).ten = s.ten := rfl
@[simp] theorem modPlane_srv (k : Nat) (f : Plane → Plane) (s : State) : (modPlane k f s).srv = s.srv := rfl
@[simp] theorem modPlane_mem (k : Nat) (f : Plane → Plane) (s : State) : (modPlane k f s).mem = s.mem := rfl
@[simp] theorem modPlane_memKeys (k : Nat) (f : Plane → Plane) (s : State) : (modPlane k f s).memKeys = s.memKeys := rfl
@[simp] theorem modPlane_out (k : Nat) (f : Plane → Plane) (s : State) : (modPlane k f s).out = s.out := rfl
@[simp] theorem modPlane_fresh (k : Nat) (f : Plane → Plane) (s : State) : (modPlane k f s).fresh = s.fresh := rfl
@[simp] theorem modPlane_hw_clusters (k : Nat) (f : Plane → Plane) (s : State) : (modPlane k f s).hw.clusters = s.hw.clusters := rfl
@[simp] theorem modPlane_hw_cores (k : Nat) (f : Plane → Plane) (s : State) : (modPlane k f s).hw.cores = s.hw.cores := rfl
@[simp] theorem modPlane_hw_engines (k : Nat) (f : Plane → Plane) (s : State) : (modPlane k f s).hw.engines = s.hw.engines := rfl
@[simp] theorem modPlane_hw_masters (k : Nat) (f : Plane → Plane) (s : State) : (modPlane k f s).hw.masters = s.hw.masters := rfl
@[simp] theorem modPlane_hw_outliers (k : Nat) (f : Plane → Plane) (s : State) : (modPlane k f s).hw.outliers = s.hw.outliers := rfl
@[simp] theorem modPlane_hw_cellUsed (k : Nat) (f : Plane → Plane) (s : State) : (modPlane k f s).hw.cellUsed = s.hw.cellUsed := rfl
@[simp] theorem modPlane_hw_held (k : Nat) (f : Plane → Plane) (s : State) : (modPlane k f s).hw.held = s.hw.held := rfl
@[simp] theorem modPlane_hw_stretchPlanes (k : Nat) (f : Plane → Plane) (s : State) : (modPlane k f s).hw.stretchPlanes = s.hw.stretchPlanes := rfl
/-- Reading after modPlane. -/
theorem plane_modPlane (k : Nat) (f : Plane → Plane) (s : State) (j : Nat) : plane (modPlane k f s) j = if j = k then f (plane s k) else plane s j :=
  look_put _ _ _ _ _
@[simp] theorem plane_modPlane_same (k : Nat) (f : Plane → Plane) (s : State) : plane (modPlane k f s) k = f (plane s k) := look_put_same _ _ _ _
@[simp] theorem ring_modPlane (k : Nat) (f : Plane → Plane) (s : State) (j : Nat) : ring (modPlane k f s) j = ring s j := rfl
@[simp] theorem mbox_modPlane (k : Nat) (f : Plane → Plane) (s : State) (j : Nat) : mbox (modPlane k f s) j = mbox s j := rfl
@[simp] theorem lockReg_modPlane (k : Nat) (f : Plane → Plane) (s : State) (j : Nat) : lockReg (modPlane k f s) j = lockReg s j := rfl
@[simp] theorem cluster_modPlane (k : Nat) (f : Plane → Plane) (s : State) (j : Nat) : cluster (modPlane k f s) j = cluster s j := rfl
@[simp] theorem core_modPlane (k : Nat) (f : Plane → Plane) (s : State) (j : Nat) : core (modPlane k f s) j = core s j := rfl
@[simp] theorem engine_modPlane (k : Nat) (f : Plane → Plane) (s : State) (j : Nat) : engine (modPlane k f s) j = engine s j := rfl
@[simp] theorem entry_modPlane (k : Nat) (f : Plane → Plane) (s : State) (j : Nat) : entry (modPlane k f s) j = entry s j := rfl
@[simp] theorem brun_modPlane (k : Nat) (f : Plane → Plane) (s : State) (j : Nat) : brun (modPlane k f s) j = brun s j := rfl
@[simp] theorem ctx_modPlane (k : Nat) (f : Plane → Plane) (s : State) (j : Nat) : ctx (modPlane k f s) j = ctx s j := rfl
@[simp] theorem ctxRun_modPlane (k : Nat) (f : Plane → Plane) (s : State) (j : Nat) : ctxRun (modPlane k f s) j = ctxRun s j := rfl
@[simp] theorem conv_modPlane (k : Nat) (f : Plane → Plane) (s : State) (j : Nat) : conv (modPlane k f s) j = conv s j := rfl
@[simp] theorem port_modPlane (k : Nat) (f : Plane → Plane) (s : State) (j : Nat) : port (modPlane k f s) j = port s j := rfl

/-! ### modEntry -/

@[simp] theorem modEntry_pending (k : Nat) (f : BEntry → BEntry) (s : State) : (modEntry k f s).pending = s.pending := rfl
@[simp] theorem modEntry_ident (k : Nat) (f : BEntry → BEntry) (s : State) : (modEntry k f s).ident = s.ident := rfl
@[simp] theorem modEntry_mail (k : Nat) (f : BEntry → BEntry) (s : State) : (modEntry k f s).mail = s.mail := rfl
@[simp] theorem modEntry_err (k : Nat) (f : BEntry → BEntry) (s : State) : (modEntry k f s).err = s.err := rfl
@[simp] theorem modEntry_su (k : Nat) (f : BEntry → BEntry) (s : State) : (modEntry k f s).su = s.su := rfl
@[simp] theorem modEntry_lar (k : Nat) (f : BEntry → BEntry) (s : State) : (modEntry k f s).lar = s.lar := rfl
@[simp] theorem modEntry_host (k : Nat) (f : BEntry → BEntry) (s : State) : (modEntry k f s).host = s.host := rfl
@[simp] theorem modEntry_fab (k : Nat) (f : BEntry → BEntry) (s : State) : (modEntry k f s).fab = s.fab := rfl
@[simp] theorem modEntry_mon (k : Nat) (f : BEntry → BEntry) (s : State) : (modEntry k f s).mon = s.mon := rfl
@[simp] theorem modEntry_pow (k : Nat) (f : BEntry → BEntry) (s : State) : (modEntry k f s).pow = s.pow := rfl
@[simp] theorem modEntry_srv (k : Nat) (f : BEntry → BEntry) (s : State) : (modEntry k f s).srv = s.srv := rfl
@[simp] theorem modEntry_hw (k : Nat) (f : BEntry → BEntry) (s : State) : (modEntry k f s).hw = s.hw := rfl
@[simp] theorem modEntry_mem (k : Nat) (f : BEntry → BEntry) (s : State) : (modEntry k f s).mem = s.mem := rfl
@[simp] theorem modEntry_memKeys (k : Nat) (f : BEntry → BEntry) (s : State) : (modEntry k f s).memKeys = s.memKeys := rfl
@[simp] theorem modEntry_out (k : Nat) (f : BEntry → BEntry) (s : State) : (modEntry k f s).out = s.out := rfl
@[simp] theorem modEntry_fresh (k : Nat) (f : BEntry → BEntry) (s : State) : (modEntry k f s).fresh = s.fresh := rfl
@[simp] theorem modEntry_ten_runs (k : Nat) (f : BEntry → BEntry) (s : State) : (modEntry k f s).ten.runs = s.ten.runs := rfl
@[simp] theorem modEntry_ten_switches (k : Nat) (f : BEntry → BEntry) (s : State) : (modEntry k f s).ten.switches = s.ten.switches := rfl
@[simp] theorem modEntry_ten_owner (k : Nat) (f : BEntry → BEntry) (s : State) : (modEntry k f s).ten.owner = s.ten.owner := rfl
@[simp] theorem modEntry_ten_fwEnd (k : Nat) (f : BEntry → BEntry) (s : State) : (modEntry k f s).ten.fwEnd = s.ten.fwEnd := rfl
@[simp] theorem modEntry_ten_free (k : Nat) (f : BEntry → BEntry) (s : State) : (modEntry k f s).ten.free = s.ten.free := rfl
@[simp] theorem modEntry_ten_provisioned (k : Nat) (f : BEntry → BEntry) (s : State) : (modEntry k f s).ten.provisioned = s.ten.provisioned := rfl
@[simp] theorem modEntry_ten_keys (k : Nat) (f : BEntry → BEntry) (s : State) : (modEntry k f s).ten.keys = s.ten.keys := rfl
@[simp] theorem modEntry_ten_partKey (k : Nat) (f : BEntry → BEntry) (s : State) : (modEntry k f s).ten.partKey = s.ten.partKey := rfl
@[simp] theorem modEntry_ten_nSwitch (k : Nat) (f : BEntry → BEntry) (s : State) : (modEntry k f s).ten.nSwitch = s.ten.nSwitch := rfl
@[simp] theorem modEntry_ten_nPreempt (k : Nat) (f : BEntry → BEntry) (s : State) : (modEntry k f s).ten.nPreempt = s.ten.nPreempt := rfl
@[simp] theorem modEntry_ten_nScrub (k : Nat) (f : BEntry → BEntry) (s : State) : (modEntry k f s).ten.nScrub = s.ten.nScrub := rfl
@[simp] theorem modEntry_ten_nOwner (k : Nat) (f : BEntry → BEntry) (s : State) : (modEntry k f s).ten.nOwner = s.ten.nOwner := rfl
@[simp] theorem modEntry_ten_nRefusal (k : Nat) (f : BEntry → BEntry) (s : State) : (modEntry k f s).ten.nRefusal = s.ten.nRefusal := rfl
/-- Reading after modEntry. -/
theorem entry_modEntry (k : Nat) (f : BEntry → BEntry) (s : State) (j : Nat) : entry (modEntry k f s) j = if j = k then f (entry s k) else entry s j :=
  look_put _ _ _ _ _
@[simp] theorem entry_modEntry_same (k : Nat) (f : BEntry → BEntry) (s : State) : entry (modEntry k f s) k = f (entry s k) := look_put_same _ _ _ _
@[simp] theorem ring_modEntry (k : Nat) (f : BEntry → BEntry) (s : State) (j : Nat) : ring (modEntry k f s) j = ring s j := rfl
@[simp] theorem mbox_modEntry (k : Nat) (f : BEntry → BEntry) (s : State) (j : Nat) : mbox (modEntry k f s) j = mbox s j := rfl
@[simp] theorem lockReg_modEntry (k : Nat) (f : BEntry → BEntry) (s : State) (j : Nat) : lockReg (modEntry k f s) j = lockReg s j := rfl
@[simp] theorem cluster_modEntry (k : Nat) (f : BEntry → BEntry) (s : State) (j : Nat) : cluster (modEntry k f s) j = cluster s j := rfl
@[simp] theorem core_modEntry (k : Nat) (f : BEntry → BEntry) (s : State) (j : Nat) : core (modEntry k f s) j = core s j := rfl
@[simp] theorem engine_modEntry (k : Nat) (f : BEntry → BEntry) (s : State) (j : Nat) : engine (modEntry k f s) j = engine s j := rfl
@[simp] theorem plane_modEntry (k : Nat) (f : BEntry → BEntry) (s : State) (j : Nat) : plane (modEntry k f s) j = plane s j := rfl
@[simp] theorem brun_modEntry (k : Nat) (f : BEntry → BEntry) (s : State) (j : Nat) : brun (modEntry k f s) j = brun s j := rfl
@[simp] theorem ctx_modEntry (k : Nat) (f : BEntry → BEntry) (s : State) (j : Nat) : ctx (modEntry k f s) j = ctx s j := rfl
@[simp] theorem ctxRun_modEntry (k : Nat) (f : BEntry → BEntry) (s : State) (j : Nat) : ctxRun (modEntry k f s) j = ctxRun s j := rfl
@[simp] theorem conv_modEntry (k : Nat) (f : BEntry → BEntry) (s : State) (j : Nat) : conv (modEntry k f s) j = conv s j := rfl
@[simp] theorem port_modEntry (k : Nat) (f : BEntry → BEntry) (s : State) (j : Nat) : port (modEntry k f s) j = port s j := rfl

/-! ### modBrun -/

@[simp] theorem modBrun_pending (k : Nat) (f : BRun → BRun) (s : State) : (modBrun k f s).pending = s.pending := rfl
@[simp] theorem modBrun_ident (k : Nat) (f : BRun → BRun) (s : State) : (modBrun k f s).ident = s.ident := rfl
@[simp] theorem modBrun_mail (k : Nat) (f : BRun → BRun) (s : State) : (modBrun k f s).mail = s.mail := rfl
@[simp] theorem modBrun_err (k : Nat) (f : BRun → BRun) (s : State) : (modBrun k f s).err = s.err := rfl
@[simp] theorem modBrun_su (k : Nat) (f : BRun → BRun) (s : State) : (modBrun k f s).su = s.su := rfl
@[simp] theorem modBrun_lar (k : Nat) (f : BRun → BRun) (s : State) : (modBrun k f s).lar = s.lar := rfl
@[simp] theorem modBrun_host (k : Nat) (f : BRun → BRun) (s : State) : (modBrun k f s).host = s.host := rfl
@[simp] theorem modBrun_fab (k : Nat) (f : BRun → BRun) (s : State) : (modBrun k f s).fab = s.fab := rfl
@[simp] theorem modBrun_mon (k : Nat) (f : BRun → BRun) (s : State) : (modBrun k f s).mon = s.mon := rfl
@[simp] theorem modBrun_pow (k : Nat) (f : BRun → BRun) (s : State) : (modBrun k f s).pow = s.pow := rfl
@[simp] theorem modBrun_srv (k : Nat) (f : BRun → BRun) (s : State) : (modBrun k f s).srv = s.srv := rfl
@[simp] theorem modBrun_hw (k : Nat) (f : BRun → BRun) (s : State) : (modBrun k f s).hw = s.hw := rfl
@[simp] theorem modBrun_mem (k : Nat) (f : BRun → BRun) (s : State) : (modBrun k f s).mem = s.mem := rfl
@[simp] theorem modBrun_memKeys (k : Nat) (f : BRun → BRun) (s : State) : (modBrun k f s).memKeys = s.memKeys := rfl
@[simp] theorem modBrun_out (k : Nat) (f : BRun → BRun) (s : State) : (modBrun k f s).out = s.out := rfl
@[simp] theorem modBrun_fresh (k : Nat) (f : BRun → BRun) (s : State) : (modBrun k f s).fresh = s.fresh := rfl
@[simp] theorem modBrun_ten_entries (k : Nat) (f : BRun → BRun) (s : State) : (modBrun k f s).ten.entries = s.ten.entries := rfl
@[simp] theorem modBrun_ten_switches (k : Nat) (f : BRun → BRun) (s : State) : (modBrun k f s).ten.switches = s.ten.switches := rfl
@[simp] theorem modBrun_ten_owner (k : Nat) (f : BRun → BRun) (s : State) : (modBrun k f s).ten.owner = s.ten.owner := rfl
@[simp] theorem modBrun_ten_fwEnd (k : Nat) (f : BRun → BRun) (s : State) : (modBrun k f s).ten.fwEnd = s.ten.fwEnd := rfl
@[simp] theorem modBrun_ten_free (k : Nat) (f : BRun → BRun) (s : State) : (modBrun k f s).ten.free = s.ten.free := rfl
@[simp] theorem modBrun_ten_provisioned (k : Nat) (f : BRun → BRun) (s : State) : (modBrun k f s).ten.provisioned = s.ten.provisioned := rfl
@[simp] theorem modBrun_ten_keys (k : Nat) (f : BRun → BRun) (s : State) : (modBrun k f s).ten.keys = s.ten.keys := rfl
@[simp] theorem modBrun_ten_partKey (k : Nat) (f : BRun → BRun) (s : State) : (modBrun k f s).ten.partKey = s.ten.partKey := rfl
@[simp] theorem modBrun_ten_nSwitch (k : Nat) (f : BRun → BRun) (s : State) : (modBrun k f s).ten.nSwitch = s.ten.nSwitch := rfl
@[simp] theorem modBrun_ten_nPreempt (k : Nat) (f : BRun → BRun) (s : State) : (modBrun k f s).ten.nPreempt = s.ten.nPreempt := rfl
@[simp] theorem modBrun_ten_nScrub (k : Nat) (f : BRun → BRun) (s : State) : (modBrun k f s).ten.nScrub = s.ten.nScrub := rfl
@[simp] theorem modBrun_ten_nOwner (k : Nat) (f : BRun → BRun) (s : State) : (modBrun k f s).ten.nOwner = s.ten.nOwner := rfl
@[simp] theorem modBrun_ten_nRefusal (k : Nat) (f : BRun → BRun) (s : State) : (modBrun k f s).ten.nRefusal = s.ten.nRefusal := rfl
/-- Reading after modBrun. -/
theorem brun_modBrun (k : Nat) (f : BRun → BRun) (s : State) (j : Nat) : brun (modBrun k f s) j = if j = k then f (brun s k) else brun s j :=
  look_put _ _ _ _ _
@[simp] theorem brun_modBrun_same (k : Nat) (f : BRun → BRun) (s : State) : brun (modBrun k f s) k = f (brun s k) := look_put_same _ _ _ _
@[simp] theorem ring_modBrun (k : Nat) (f : BRun → BRun) (s : State) (j : Nat) : ring (modBrun k f s) j = ring s j := rfl
@[simp] theorem mbox_modBrun (k : Nat) (f : BRun → BRun) (s : State) (j : Nat) : mbox (modBrun k f s) j = mbox s j := rfl
@[simp] theorem lockReg_modBrun (k : Nat) (f : BRun → BRun) (s : State) (j : Nat) : lockReg (modBrun k f s) j = lockReg s j := rfl
@[simp] theorem cluster_modBrun (k : Nat) (f : BRun → BRun) (s : State) (j : Nat) : cluster (modBrun k f s) j = cluster s j := rfl
@[simp] theorem core_modBrun (k : Nat) (f : BRun → BRun) (s : State) (j : Nat) : core (modBrun k f s) j = core s j := rfl
@[simp] theorem engine_modBrun (k : Nat) (f : BRun → BRun) (s : State) (j : Nat) : engine (modBrun k f s) j = engine s j := rfl
@[simp] theorem plane_modBrun (k : Nat) (f : BRun → BRun) (s : State) (j : Nat) : plane (modBrun k f s) j = plane s j := rfl
@[simp] theorem entry_modBrun (k : Nat) (f : BRun → BRun) (s : State) (j : Nat) : entry (modBrun k f s) j = entry s j := rfl
@[simp] theorem ctx_modBrun (k : Nat) (f : BRun → BRun) (s : State) (j : Nat) : ctx (modBrun k f s) j = ctx s j := rfl
@[simp] theorem ctxRun_modBrun (k : Nat) (f : BRun → BRun) (s : State) (j : Nat) : ctxRun (modBrun k f s) j = ctxRun s j := rfl
@[simp] theorem conv_modBrun (k : Nat) (f : BRun → BRun) (s : State) (j : Nat) : conv (modBrun k f s) j = conv s j := rfl
@[simp] theorem port_modBrun (k : Nat) (f : BRun → BRun) (s : State) (j : Nat) : port (modBrun k f s) j = port s j := rfl

/-! ### modCtx -/

@[simp] theorem modCtx_pending (k : Nat) (f : Ctx → Ctx) (s : State) : (modCtx k f s).pending = s.pending := rfl
@[simp] theorem modCtx_ident (k : Nat) (f : Ctx → Ctx) (s : State) : (modCtx k f s).ident = s.ident := rfl
@[simp] theorem modCtx_mail (k : Nat) (f : Ctx → Ctx) (s : State) : (modCtx k f s).mail = s.mail := rfl
@[simp] theorem modCtx_err (k : Nat) (f : Ctx → Ctx) (s : State) : (modCtx k f s).err = s.err := rfl
@[simp] theorem modCtx_su (k : Nat) (f : Ctx → Ctx) (s : State) : (modCtx k f s).su = s.su := rfl
@[simp] theorem modCtx_lar (k : Nat) (f : Ctx → Ctx) (s : State) : (modCtx k f s).lar = s.lar := rfl
@[simp] theorem modCtx_host (k : Nat) (f : Ctx → Ctx) (s : State) : (modCtx k f s).host = s.host := rfl
@[simp] theorem modCtx_fab (k : Nat) (f : Ctx → Ctx) (s : State) : (modCtx k f s).fab = s.fab := rfl
@[simp] theorem modCtx_mon (k : Nat) (f : Ctx → Ctx) (s : State) : (modCtx k f s).mon = s.mon := rfl
@[simp] theorem modCtx_pow (k : Nat) (f : Ctx → Ctx) (s : State) : (modCtx k f s).pow = s.pow := rfl
@[simp] theorem modCtx_ten (k : Nat) (f : Ctx → Ctx) (s : State) : (modCtx k f s).ten = s.ten := rfl
@[simp] theorem modCtx_hw (k : Nat) (f : Ctx → Ctx) (s : State) : (modCtx k f s).hw = s.hw := rfl
@[simp] theorem modCtx_mem (k : Nat) (f : Ctx → Ctx) (s : State) : (modCtx k f s).mem = s.mem := rfl
@[simp] theorem modCtx_memKeys (k : Nat) (f : Ctx → Ctx) (s : State) : (modCtx k f s).memKeys = s.memKeys := rfl
@[simp] theorem modCtx_out (k : Nat) (f : Ctx → Ctx) (s : State) : (modCtx k f s).out = s.out := rfl
@[simp] theorem modCtx_fresh (k : Nat) (f : Ctx → Ctx) (s : State) : (modCtx k f s).fresh = s.fresh := rfl
@[simp] theorem modCtx_srv_run (k : Nat) (f : Ctx → Ctx) (s : State) : (modCtx k f s).srv.run = s.srv.run := rfl
@[simp] theorem modCtx_srv_carry (k : Nat) (f : Ctx → Ctx) (s : State) : (modCtx k f s).srv.carry = s.srv.carry := rfl
@[simp] theorem modCtx_srv_scale (k : Nat) (f : Ctx → Ctx) (s : State) : (modCtx k f s).srv.scale = s.srv.scale := rfl
@[simp] theorem modCtx_srv_kvCarry (k : Nat) (f : Ctx → Ctx) (s : State) : (modCtx k f s).srv.kvCarry = s.srv.kvCarry := rfl
@[simp] theorem modCtx_srv_hist (k : Nat) (f : Ctx → Ctx) (s : State) : (modCtx k f s).srv.hist = s.srv.hist := rfl
/-- Reading after modCtx. -/
theorem ctx_modCtx (k : Nat) (f : Ctx → Ctx) (s : State) (j : Nat) : ctx (modCtx k f s) j = if j = k then f (ctx s k) else ctx s j :=
  look_put _ _ _ _ _
@[simp] theorem ctx_modCtx_same (k : Nat) (f : Ctx → Ctx) (s : State) : ctx (modCtx k f s) k = f (ctx s k) := look_put_same _ _ _ _
@[simp] theorem ring_modCtx (k : Nat) (f : Ctx → Ctx) (s : State) (j : Nat) : ring (modCtx k f s) j = ring s j := rfl
@[simp] theorem mbox_modCtx (k : Nat) (f : Ctx → Ctx) (s : State) (j : Nat) : mbox (modCtx k f s) j = mbox s j := rfl
@[simp] theorem lockReg_modCtx (k : Nat) (f : Ctx → Ctx) (s : State) (j : Nat) : lockReg (modCtx k f s) j = lockReg s j := rfl
@[simp] theorem cluster_modCtx (k : Nat) (f : Ctx → Ctx) (s : State) (j : Nat) : cluster (modCtx k f s) j = cluster s j := rfl
@[simp] theorem core_modCtx (k : Nat) (f : Ctx → Ctx) (s : State) (j : Nat) : core (modCtx k f s) j = core s j := rfl
@[simp] theorem engine_modCtx (k : Nat) (f : Ctx → Ctx) (s : State) (j : Nat) : engine (modCtx k f s) j = engine s j := rfl
@[simp] theorem plane_modCtx (k : Nat) (f : Ctx → Ctx) (s : State) (j : Nat) : plane (modCtx k f s) j = plane s j := rfl
@[simp] theorem entry_modCtx (k : Nat) (f : Ctx → Ctx) (s : State) (j : Nat) : entry (modCtx k f s) j = entry s j := rfl
@[simp] theorem brun_modCtx (k : Nat) (f : Ctx → Ctx) (s : State) (j : Nat) : brun (modCtx k f s) j = brun s j := rfl
@[simp] theorem ctxRun_modCtx (k : Nat) (f : Ctx → Ctx) (s : State) (j : Nat) : ctxRun (modCtx k f s) j = ctxRun s j := rfl
@[simp] theorem conv_modCtx (k : Nat) (f : Ctx → Ctx) (s : State) (j : Nat) : conv (modCtx k f s) j = conv s j := rfl
@[simp] theorem port_modCtx (k : Nat) (f : Ctx → Ctx) (s : State) (j : Nat) : port (modCtx k f s) j = port s j := rfl

/-! ### modCtxRun -/

@[simp] theorem modCtxRun_pending (k : Nat) (f : CtxRun → CtxRun) (s : State) : (modCtxRun k f s).pending = s.pending := rfl
@[simp] theorem modCtxRun_ident (k : Nat) (f : CtxRun → CtxRun) (s : State) : (modCtxRun k f s).ident = s.ident := rfl
@[simp] theorem modCtxRun_mail (k : Nat) (f : CtxRun → CtxRun) (s : State) : (modCtxRun k f s).mail = s.mail := rfl
@[simp] theorem modCtxRun_err (k : Nat) (f : CtxRun → CtxRun) (s : State) : (modCtxRun k f s).err = s.err := rfl
@[simp] theorem modCtxRun_su (k : Nat) (f : CtxRun → CtxRun) (s : State) : (modCtxRun k f s).su = s.su := rfl
@[simp] theorem modCtxRun_lar (k : Nat) (f : CtxRun → CtxRun) (s : State) : (modCtxRun k f s).lar = s.lar := rfl
@[simp] theorem modCtxRun_host (k : Nat) (f : CtxRun → CtxRun) (s : State) : (modCtxRun k f s).host = s.host := rfl
@[simp] theorem modCtxRun_fab (k : Nat) (f : CtxRun → CtxRun) (s : State) : (modCtxRun k f s).fab = s.fab := rfl
@[simp] theorem modCtxRun_mon (k : Nat) (f : CtxRun → CtxRun) (s : State) : (modCtxRun k f s).mon = s.mon := rfl
@[simp] theorem modCtxRun_pow (k : Nat) (f : CtxRun → CtxRun) (s : State) : (modCtxRun k f s).pow = s.pow := rfl
@[simp] theorem modCtxRun_ten (k : Nat) (f : CtxRun → CtxRun) (s : State) : (modCtxRun k f s).ten = s.ten := rfl
@[simp] theorem modCtxRun_hw (k : Nat) (f : CtxRun → CtxRun) (s : State) : (modCtxRun k f s).hw = s.hw := rfl
@[simp] theorem modCtxRun_mem (k : Nat) (f : CtxRun → CtxRun) (s : State) : (modCtxRun k f s).mem = s.mem := rfl
@[simp] theorem modCtxRun_memKeys (k : Nat) (f : CtxRun → CtxRun) (s : State) : (modCtxRun k f s).memKeys = s.memKeys := rfl
@[simp] theorem modCtxRun_out (k : Nat) (f : CtxRun → CtxRun) (s : State) : (modCtxRun k f s).out = s.out := rfl
@[simp] theorem modCtxRun_fresh (k : Nat) (f : CtxRun → CtxRun) (s : State) : (modCtxRun k f s).fresh = s.fresh := rfl
@[simp] theorem modCtxRun_srv_ctx (k : Nat) (f : CtxRun → CtxRun) (s : State) : (modCtxRun k f s).srv.ctx = s.srv.ctx := rfl
@[simp] theorem modCtxRun_srv_carry (k : Nat) (f : CtxRun → CtxRun) (s : State) : (modCtxRun k f s).srv.carry = s.srv.carry := rfl
@[simp] theorem modCtxRun_srv_scale (k : Nat) (f : CtxRun → CtxRun) (s : State) : (modCtxRun k f s).srv.scale = s.srv.scale := rfl
@[simp] theorem modCtxRun_srv_kvCarry (k : Nat) (f : CtxRun → CtxRun) (s : State) : (modCtxRun k f s).srv.kvCarry = s.srv.kvCarry := rfl
@[simp] theorem modCtxRun_srv_hist (k : Nat) (f : CtxRun → CtxRun) (s : State) : (modCtxRun k f s).srv.hist = s.srv.hist := rfl
/-- Reading after modCtxRun. -/
theorem ctxRun_modCtxRun (k : Nat) (f : CtxRun → CtxRun) (s : State) (j : Nat) : ctxRun (modCtxRun k f s) j = if j = k then f (ctxRun s k) else ctxRun s j :=
  look_put _ _ _ _ _
@[simp] theorem ctxRun_modCtxRun_same (k : Nat) (f : CtxRun → CtxRun) (s : State) : ctxRun (modCtxRun k f s) k = f (ctxRun s k) := look_put_same _ _ _ _
@[simp] theorem ring_modCtxRun (k : Nat) (f : CtxRun → CtxRun) (s : State) (j : Nat) : ring (modCtxRun k f s) j = ring s j := rfl
@[simp] theorem mbox_modCtxRun (k : Nat) (f : CtxRun → CtxRun) (s : State) (j : Nat) : mbox (modCtxRun k f s) j = mbox s j := rfl
@[simp] theorem lockReg_modCtxRun (k : Nat) (f : CtxRun → CtxRun) (s : State) (j : Nat) : lockReg (modCtxRun k f s) j = lockReg s j := rfl
@[simp] theorem cluster_modCtxRun (k : Nat) (f : CtxRun → CtxRun) (s : State) (j : Nat) : cluster (modCtxRun k f s) j = cluster s j := rfl
@[simp] theorem core_modCtxRun (k : Nat) (f : CtxRun → CtxRun) (s : State) (j : Nat) : core (modCtxRun k f s) j = core s j := rfl
@[simp] theorem engine_modCtxRun (k : Nat) (f : CtxRun → CtxRun) (s : State) (j : Nat) : engine (modCtxRun k f s) j = engine s j := rfl
@[simp] theorem plane_modCtxRun (k : Nat) (f : CtxRun → CtxRun) (s : State) (j : Nat) : plane (modCtxRun k f s) j = plane s j := rfl
@[simp] theorem entry_modCtxRun (k : Nat) (f : CtxRun → CtxRun) (s : State) (j : Nat) : entry (modCtxRun k f s) j = entry s j := rfl
@[simp] theorem brun_modCtxRun (k : Nat) (f : CtxRun → CtxRun) (s : State) (j : Nat) : brun (modCtxRun k f s) j = brun s j := rfl
@[simp] theorem ctx_modCtxRun (k : Nat) (f : CtxRun → CtxRun) (s : State) (j : Nat) : ctx (modCtxRun k f s) j = ctx s j := rfl
@[simp] theorem conv_modCtxRun (k : Nat) (f : CtxRun → CtxRun) (s : State) (j : Nat) : conv (modCtxRun k f s) j = conv s j := rfl
@[simp] theorem port_modCtxRun (k : Nat) (f : CtxRun → CtxRun) (s : State) (j : Nat) : port (modCtxRun k f s) j = port s j := rfl

/-! ### modRing -/

@[simp] theorem modRing_pending (k : Nat) (f : Ring → Ring) (s : State) : (modRing k f s).pending = s.pending := rfl
@[simp] theorem modRing_ident (k : Nat) (f : Ring → Ring) (s : State) : (modRing k f s).ident = s.ident := rfl
@[simp] theorem modRing_mail (k : Nat) (f : Ring → Ring) (s : State) : (modRing k f s).mail = s.mail := rfl
@[simp] theorem modRing_err (k : Nat) (f : Ring → Ring) (s : State) : (modRing k f s).err = s.err := rfl
@[simp] theorem modRing_su (k : Nat) (f : Ring → Ring) (s : State) : (modRing k f s).su = s.su := rfl
@[simp] theorem modRing_lar (k : Nat) (f : Ring → Ring) (s : State) : (modRing k f s).lar = s.lar := rfl
@[simp] theorem modRing_fab (k : Nat) (f : Ring → Ring) (s : State) : (modRing k f s).fab = s.fab := rfl
@[simp] theorem modRing_mon (k : Nat) (f : Ring → Ring) (s : State) : (modRing k f s).mon = s.mon := rfl
@[simp] theorem modRing_pow (k : Nat) (f : Ring → Ring) (s : State) : (modRing k f s).pow = s.pow := rfl
@[simp] theorem modRing_ten (k : Nat) (f : Ring → Ring) (s : State) : (modRing k f s).ten = s.ten := rfl
@[simp] theorem modRing_srv (k : Nat) (f : Ring → Ring) (s : State) : (modRing k f s).srv = s.srv := rfl
@[simp] theorem modRing_hw (k : Nat) (f : Ring → Ring) (s : State) : (modRing k f s).hw = s.hw := rfl
@[simp] theorem modRing_mem (k : Nat) (f : Ring → Ring) (s : State) : (modRing k f s).mem = s.mem := rfl
@[simp] theorem modRing_memKeys (k : Nat) (f : Ring → Ring) (s : State) : (modRing k f s).memKeys = s.memKeys := rfl
@[simp] theorem modRing_out (k : Nat) (f : Ring → Ring) (s : State) : (modRing k f s).out = s.out := rfl
@[simp] theorem modRing_fresh (k : Nat) (f : Ring → Ring) (s : State) : (modRing k f s).fresh = s.fresh := rfl
@[simp] theorem modRing_host_msix (k : Nat) (f : Ring → Ring) (s : State) : (modRing k f s).host.msix = s.host.msix := rfl
@[simp] theorem modRing_host_pba (k : Nat) (f : Ring → Ring) (s : State) : (modRing k f s).host.pba = s.host.pba := rfl
@[simp] theorem modRing_host_quiesce (k : Nat) (f : Ring → Ring) (s : State) : (modRing k f s).host.quiesce = s.host.quiesce := rfl
@[simp] theorem modRing_host_quiesced (k : Nat) (f : Ring → Ring) (s : State) : (modRing k f s).host.quiesced = s.host.quiesced := rfl
@[simp] theorem modRing_host_degraded (k : Nat) (f : Ring → Ring) (s : State) : (modRing k f s).host.degraded = s.host.degraded := rfl
@[simp] theorem modRing_host_ideActive (k : Nat) (f : Ring → Ring) (s : State) : (modRing k f s).host.ideActive = s.host.ideActive := rfl
@[simp] theorem modRing_host_width (k : Nat) (f : Ring → Ring) (s : State) : (modRing k f s).host.width = s.host.width := rfl
@[simp] theorem modRing_host_speed (k : Nat) (f : Ring → Ring) (s : State) : (modRing k f s).host.speed = s.host.speed := rfl
@[simp] theorem modRing_host_ht (k : Nat) (f : Ring → Ring) (s : State) : (modRing k f s).host.ht = s.host.ht := rfl
@[simp] theorem modRing_host_hext (k : Nat) (f : Ring → Ring) (s : State) : (modRing k f s).host.hext = s.host.hext := rfl
@[simp] theorem modRing_host_timeouts (k : Nat) (f : Ring → Ring) (s : State) : (modRing k f s).host.timeouts = s.host.timeouts := rfl
@[simp] theorem modRing_host_replays (k : Nat) (f : Ring → Ring) (s : State) : (modRing k f s).host.replays = s.host.replays := rfl
@[simp] theorem modRing_host_recoveries (k : Nat) (f : Ring → Ring) (s : State) : (modRing k f s).host.recoveries = s.host.recoveries := rfl
@[simp] theorem modRing_host_resets (k : Nat) (f : Ring → Ring) (s : State) : (modRing k f s).host.resets = s.host.resets := rfl
@[simp] theorem modRing_host_ideFails (k : Nat) (f : Ring → Ring) (s : State) : (modRing k f s).host.ideFails = s.host.ideFails := rfl
@[simp] theorem modRing_host_recovery (k : Nat) (f : Ring → Ring) (s : State) : (modRing k f s).host.recovery = s.host.recovery := rfl
@[simp] theorem modRing_host_ideHold (k : Nat) (f : Ring → Ring) (s : State) : (modRing k f s).host.ideHold = s.host.ideHold := rfl
@[simp] theorem modRing_host_held (k : Nat) (f : Ring → Ring) (s : State) : (modRing k f s).host.held = s.host.held := rfl
@[simp] theorem modRing_host_reads (k : Nat) (f : Ring → Ring) (s : State) : (modRing k f s).host.reads = s.host.reads := rfl
@[simp] theorem modRing_host_readQ (k : Nat) (f : Ring → Ring) (s : State) : (modRing k f s).host.readQ = s.host.readQ := rfl
@[simp] theorem modRing_host_nextRead (k : Nat) (f : Ring → Ring) (s : State) : (modRing k f s).host.nextRead = s.host.nextRead := rfl
@[simp] theorem modRing_host_packetNo (k : Nat) (f : Ring → Ring) (s : State) : (modRing k f s).host.packetNo = s.host.packetNo := rfl
@[simp] theorem modRing_host_work (k : Nat) (f : Ring → Ring) (s : State) : (modRing k f s).host.work = s.host.work := rfl
/-- Reading after modRing. -/
theorem ring_modRing (k : Nat) (f : Ring → Ring) (s : State) (j : Nat) : ring (modRing k f s) j = if j = k then f (ring s k) else ring s j :=
  look_put _ _ _ _ _
@[simp] theorem ring_modRing_same (k : Nat) (f : Ring → Ring) (s : State) : ring (modRing k f s) k = f (ring s k) := look_put_same _ _ _ _
@[simp] theorem mbox_modRing (k : Nat) (f : Ring → Ring) (s : State) (j : Nat) : mbox (modRing k f s) j = mbox s j := rfl
@[simp] theorem lockReg_modRing (k : Nat) (f : Ring → Ring) (s : State) (j : Nat) : lockReg (modRing k f s) j = lockReg s j := rfl
@[simp] theorem cluster_modRing (k : Nat) (f : Ring → Ring) (s : State) (j : Nat) : cluster (modRing k f s) j = cluster s j := rfl
@[simp] theorem core_modRing (k : Nat) (f : Ring → Ring) (s : State) (j : Nat) : core (modRing k f s) j = core s j := rfl
@[simp] theorem engine_modRing (k : Nat) (f : Ring → Ring) (s : State) (j : Nat) : engine (modRing k f s) j = engine s j := rfl
@[simp] theorem plane_modRing (k : Nat) (f : Ring → Ring) (s : State) (j : Nat) : plane (modRing k f s) j = plane s j := rfl
@[simp] theorem entry_modRing (k : Nat) (f : Ring → Ring) (s : State) (j : Nat) : entry (modRing k f s) j = entry s j := rfl
@[simp] theorem brun_modRing (k : Nat) (f : Ring → Ring) (s : State) (j : Nat) : brun (modRing k f s) j = brun s j := rfl
@[simp] theorem ctx_modRing (k : Nat) (f : Ring → Ring) (s : State) (j : Nat) : ctx (modRing k f s) j = ctx s j := rfl
@[simp] theorem ctxRun_modRing (k : Nat) (f : Ring → Ring) (s : State) (j : Nat) : ctxRun (modRing k f s) j = ctxRun s j := rfl
@[simp] theorem conv_modRing (k : Nat) (f : Ring → Ring) (s : State) (j : Nat) : conv (modRing k f s) j = conv s j := rfl
@[simp] theorem port_modRing (k : Nat) (f : Ring → Ring) (s : State) (j : Nat) : port (modRing k f s) j = port s j := rfl

/-! ### emit -/

@[simp] theorem emit_pending (o : Out) (s : State) : (emit o s).pending = s.pending := rfl
@[simp] theorem emit_ident (o : Out) (s : State) : (emit o s).ident = s.ident := rfl
@[simp] theorem emit_mail (o : Out) (s : State) : (emit o s).mail = s.mail := rfl
@[simp] theorem emit_err (o : Out) (s : State) : (emit o s).err = s.err := rfl
@[simp] theorem emit_su (o : Out) (s : State) : (emit o s).su = s.su := rfl
@[simp] theorem emit_lar (o : Out) (s : State) : (emit o s).lar = s.lar := rfl
@[simp] theorem emit_host (o : Out) (s : State) : (emit o s).host = s.host := rfl
@[simp] theorem emit_fab (o : Out) (s : State) : (emit o s).fab = s.fab := rfl
@[simp] theorem emit_mon (o : Out) (s : State) : (emit o s).mon = s.mon := rfl
@[simp] theorem emit_pow (o : Out) (s : State) : (emit o s).pow = s.pow := rfl
@[simp] theorem emit_ten (o : Out) (s : State) : (emit o s).ten = s.ten := rfl
@[simp] theorem emit_srv (o : Out) (s : State) : (emit o s).srv = s.srv := rfl
@[simp] theorem emit_hw (o : Out) (s : State) : (emit o s).hw = s.hw := rfl
@[simp] theorem emit_mem (o : Out) (s : State) : (emit o s).mem = s.mem := rfl
@[simp] theorem emit_memKeys (o : Out) (s : State) : (emit o s).memKeys = s.memKeys := rfl
@[simp] theorem emit_fresh (o : Out) (s : State) : (emit o s).fresh = s.fresh := rfl
@[simp] theorem ring_emit (o : Out) (s : State) (j : Nat) : ring (emit o s) j = ring s j := rfl
@[simp] theorem mbox_emit (o : Out) (s : State) (j : Nat) : mbox (emit o s) j = mbox s j := rfl
@[simp] theorem lockReg_emit (o : Out) (s : State) (j : Nat) : lockReg (emit o s) j = lockReg s j := rfl
@[simp] theorem cluster_emit (o : Out) (s : State) (j : Nat) : cluster (emit o s) j = cluster s j := rfl
@[simp] theorem core_emit (o : Out) (s : State) (j : Nat) : core (emit o s) j = core s j := rfl
@[simp] theorem engine_emit (o : Out) (s : State) (j : Nat) : engine (emit o s) j = engine s j := rfl
@[simp] theorem plane_emit (o : Out) (s : State) (j : Nat) : plane (emit o s) j = plane s j := rfl
@[simp] theorem entry_emit (o : Out) (s : State) (j : Nat) : entry (emit o s) j = entry s j := rfl
@[simp] theorem brun_emit (o : Out) (s : State) (j : Nat) : brun (emit o s) j = brun s j := rfl
@[simp] theorem ctx_emit (o : Out) (s : State) (j : Nat) : ctx (emit o s) j = ctx s j := rfl
@[simp] theorem ctxRun_emit (o : Out) (s : State) (j : Nat) : ctxRun (emit o s) j = ctxRun s j := rfl
@[simp] theorem conv_emit (o : Out) (s : State) (j : Nat) : conv (emit o s) j = conv s j := rfl
@[simp] theorem port_emit (o : Out) (s : State) (j : Nat) : port (emit o s) j = port s j := rfl

@[simp] theorem emit_out (o : Out) (s : State) : (emit o s).out = s.out ++ [o] := rfl
/-! ### tickFresh -/

@[simp] theorem tickFresh_pending (s : State) : (tickFresh s).pending = s.pending := rfl
@[simp] theorem tickFresh_ident (s : State) : (tickFresh s).ident = s.ident := rfl
@[simp] theorem tickFresh_mail (s : State) : (tickFresh s).mail = s.mail := rfl
@[simp] theorem tickFresh_err (s : State) : (tickFresh s).err = s.err := rfl
@[simp] theorem tickFresh_su (s : State) : (tickFresh s).su = s.su := rfl
@[simp] theorem tickFresh_lar (s : State) : (tickFresh s).lar = s.lar := rfl
@[simp] theorem tickFresh_host (s : State) : (tickFresh s).host = s.host := rfl
@[simp] theorem tickFresh_fab (s : State) : (tickFresh s).fab = s.fab := rfl
@[simp] theorem tickFresh_mon (s : State) : (tickFresh s).mon = s.mon := rfl
@[simp] theorem tickFresh_pow (s : State) : (tickFresh s).pow = s.pow := rfl
@[simp] theorem tickFresh_ten (s : State) : (tickFresh s).ten = s.ten := rfl
@[simp] theorem tickFresh_srv (s : State) : (tickFresh s).srv = s.srv := rfl
@[simp] theorem tickFresh_hw (s : State) : (tickFresh s).hw = s.hw := rfl
@[simp] theorem tickFresh_mem (s : State) : (tickFresh s).mem = s.mem := rfl
@[simp] theorem tickFresh_memKeys (s : State) : (tickFresh s).memKeys = s.memKeys := rfl
@[simp] theorem tickFresh_out (s : State) : (tickFresh s).out = s.out := rfl
@[simp] theorem ring_tickFresh (s : State) (j : Nat) : ring (tickFresh s) j = ring s j := rfl
@[simp] theorem mbox_tickFresh (s : State) (j : Nat) : mbox (tickFresh s) j = mbox s j := rfl
@[simp] theorem lockReg_tickFresh (s : State) (j : Nat) : lockReg (tickFresh s) j = lockReg s j := rfl
@[simp] theorem cluster_tickFresh (s : State) (j : Nat) : cluster (tickFresh s) j = cluster s j := rfl
@[simp] theorem core_tickFresh (s : State) (j : Nat) : core (tickFresh s) j = core s j := rfl
@[simp] theorem engine_tickFresh (s : State) (j : Nat) : engine (tickFresh s) j = engine s j := rfl
@[simp] theorem plane_tickFresh (s : State) (j : Nat) : plane (tickFresh s) j = plane s j := rfl
@[simp] theorem entry_tickFresh (s : State) (j : Nat) : entry (tickFresh s) j = entry s j := rfl
@[simp] theorem brun_tickFresh (s : State) (j : Nat) : brun (tickFresh s) j = brun s j := rfl
@[simp] theorem ctx_tickFresh (s : State) (j : Nat) : ctx (tickFresh s) j = ctx s j := rfl
@[simp] theorem ctxRun_tickFresh (s : State) (j : Nat) : ctxRun (tickFresh s) j = ctxRun s j := rfl
@[simp] theorem conv_tickFresh (s : State) (j : Nat) : conv (tickFresh s) j = conv s j := rfl
@[simp] theorem port_tickFresh (s : State) (j : Nat) : port (tickFresh s) j = port s j := rfl

@[simp] theorem tickFresh_fresh (s : State) : (tickFresh s).fresh = s.fresh + 1 := rfl
/-! ### memPut -/

@[simp] theorem memPut_pending (a : Nat) (bs : List Byte) (s : State) : (memPut a bs s).pending = s.pending := rfl
@[simp] theorem memPut_ident (a : Nat) (bs : List Byte) (s : State) : (memPut a bs s).ident = s.ident := rfl
@[simp] theorem memPut_mail (a : Nat) (bs : List Byte) (s : State) : (memPut a bs s).mail = s.mail := rfl
@[simp] theorem memPut_err (a : Nat) (bs : List Byte) (s : State) : (memPut a bs s).err = s.err := rfl
@[simp] theorem memPut_su (a : Nat) (bs : List Byte) (s : State) : (memPut a bs s).su = s.su := rfl
@[simp] theorem memPut_lar (a : Nat) (bs : List Byte) (s : State) : (memPut a bs s).lar = s.lar := rfl
@[simp] theorem memPut_host (a : Nat) (bs : List Byte) (s : State) : (memPut a bs s).host = s.host := rfl
@[simp] theorem memPut_fab (a : Nat) (bs : List Byte) (s : State) : (memPut a bs s).fab = s.fab := rfl
@[simp] theorem memPut_mon (a : Nat) (bs : List Byte) (s : State) : (memPut a bs s).mon = s.mon := rfl
@[simp] theorem memPut_pow (a : Nat) (bs : List Byte) (s : State) : (memPut a bs s).pow = s.pow := rfl
@[simp] theorem memPut_ten (a : Nat) (bs : List Byte) (s : State) : (memPut a bs s).ten = s.ten := rfl
@[simp] theorem memPut_srv (a : Nat) (bs : List Byte) (s : State) : (memPut a bs s).srv = s.srv := rfl
@[simp] theorem memPut_hw (a : Nat) (bs : List Byte) (s : State) : (memPut a bs s).hw = s.hw := rfl
@[simp] theorem memPut_memKeys (a : Nat) (bs : List Byte) (s : State) : (memPut a bs s).memKeys = s.memKeys := rfl
@[simp] theorem memPut_out (a : Nat) (bs : List Byte) (s : State) : (memPut a bs s).out = s.out := rfl
@[simp] theorem memPut_fresh (a : Nat) (bs : List Byte) (s : State) : (memPut a bs s).fresh = s.fresh := rfl
@[simp] theorem ring_memPut (a : Nat) (bs : List Byte) (s : State) (j : Nat) : ring (memPut a bs s) j = ring s j := rfl
@[simp] theorem mbox_memPut (a : Nat) (bs : List Byte) (s : State) (j : Nat) : mbox (memPut a bs s) j = mbox s j := rfl
@[simp] theorem lockReg_memPut (a : Nat) (bs : List Byte) (s : State) (j : Nat) : lockReg (memPut a bs s) j = lockReg s j := rfl
@[simp] theorem cluster_memPut (a : Nat) (bs : List Byte) (s : State) (j : Nat) : cluster (memPut a bs s) j = cluster s j := rfl
@[simp] theorem core_memPut (a : Nat) (bs : List Byte) (s : State) (j : Nat) : core (memPut a bs s) j = core s j := rfl
@[simp] theorem engine_memPut (a : Nat) (bs : List Byte) (s : State) (j : Nat) : engine (memPut a bs s) j = engine s j := rfl
@[simp] theorem plane_memPut (a : Nat) (bs : List Byte) (s : State) (j : Nat) : plane (memPut a bs s) j = plane s j := rfl
@[simp] theorem entry_memPut (a : Nat) (bs : List Byte) (s : State) (j : Nat) : entry (memPut a bs s) j = entry s j := rfl
@[simp] theorem brun_memPut (a : Nat) (bs : List Byte) (s : State) (j : Nat) : brun (memPut a bs s) j = brun s j := rfl
@[simp] theorem ctx_memPut (a : Nat) (bs : List Byte) (s : State) (j : Nat) : ctx (memPut a bs s) j = ctx s j := rfl
@[simp] theorem ctxRun_memPut (a : Nat) (bs : List Byte) (s : State) (j : Nat) : ctxRun (memPut a bs s) j = ctxRun s j := rfl
@[simp] theorem conv_memPut (a : Nat) (bs : List Byte) (s : State) (j : Nat) : conv (memPut a bs s) j = conv s j := rfl
@[simp] theorem port_memPut (a : Nat) (bs : List Byte) (s : State) (j : Nat) : port (memPut a bs s) j = port s j := rfl

/-- The bytes stored are the bytes read there. -/
theorem memByte_memPut_in (a : Nat) (bs : List Byte) (s : State) (i : Nat) (h : i < bs.length) :
    memByte (memPut a bs s) (a + i) = bs[i] := look_putAll_in _ _ _ _ _ h
/-- Every byte outside the stored ones reads as before. -/
theorem memByte_memPut_out (a : Nat) (bs : List Byte) (s : State) (x : Nat) (h : x < a ∨ a + bs.length ≤ x) :
    memByte (memPut a bs s) x = memByte s x := look_putAll_other _ _ _ _ _ h
/-! ### setOwner -/

@[simp] theorem setOwner_pending (f : Nat) (b : FrameOwner) (s : State) : (setOwner f b s).pending = s.pending := rfl
@[simp] theorem setOwner_ident (f : Nat) (b : FrameOwner) (s : State) : (setOwner f b s).ident = s.ident := rfl
@[simp] theorem setOwner_mail (f : Nat) (b : FrameOwner) (s : State) : (setOwner f b s).mail = s.mail := rfl
@[simp] theorem setOwner_err (f : Nat) (b : FrameOwner) (s : State) : (setOwner f b s).err = s.err := rfl
@[simp] theorem setOwner_su (f : Nat) (b : FrameOwner) (s : State) : (setOwner f b s).su = s.su := rfl
@[simp] theorem setOwner_lar (f : Nat) (b : FrameOwner) (s : State) : (setOwner f b s).lar = s.lar := rfl
@[simp] theorem setOwner_host (f : Nat) (b : FrameOwner) (s : State) : (setOwner f b s).host = s.host := rfl
@[simp] theorem setOwner_fab (f : Nat) (b : FrameOwner) (s : State) : (setOwner f b s).fab = s.fab := rfl
@[simp] theorem setOwner_mon (f : Nat) (b : FrameOwner) (s : State) : (setOwner f b s).mon = s.mon := rfl
@[simp] theorem setOwner_pow (f : Nat) (b : FrameOwner) (s : State) : (setOwner f b s).pow = s.pow := rfl
@[simp] theorem setOwner_srv (f : Nat) (b : FrameOwner) (s : State) : (setOwner f b s).srv = s.srv := rfl
@[simp] theorem setOwner_hw (f : Nat) (b : FrameOwner) (s : State) : (setOwner f b s).hw = s.hw := rfl
@[simp] theorem setOwner_mem (f : Nat) (b : FrameOwner) (s : State) : (setOwner f b s).mem = s.mem := rfl
@[simp] theorem setOwner_memKeys (f : Nat) (b : FrameOwner) (s : State) : (setOwner f b s).memKeys = s.memKeys := rfl
@[simp] theorem setOwner_out (f : Nat) (b : FrameOwner) (s : State) : (setOwner f b s).out = s.out := rfl
@[simp] theorem setOwner_fresh (f : Nat) (b : FrameOwner) (s : State) : (setOwner f b s).fresh = s.fresh := rfl
@[simp] theorem setOwner_ten_entries (f : Nat) (b : FrameOwner) (s : State) : (setOwner f b s).ten.entries = s.ten.entries := rfl
@[simp] theorem setOwner_ten_runs (f : Nat) (b : FrameOwner) (s : State) : (setOwner f b s).ten.runs = s.ten.runs := rfl
@[simp] theorem setOwner_ten_switches (f : Nat) (b : FrameOwner) (s : State) : (setOwner f b s).ten.switches = s.ten.switches := rfl
@[simp] theorem setOwner_ten_fwEnd (f : Nat) (b : FrameOwner) (s : State) : (setOwner f b s).ten.fwEnd = s.ten.fwEnd := rfl
@[simp] theorem setOwner_ten_free (f : Nat) (b : FrameOwner) (s : State) : (setOwner f b s).ten.free = s.ten.free := rfl
@[simp] theorem setOwner_ten_provisioned (f : Nat) (b : FrameOwner) (s : State) : (setOwner f b s).ten.provisioned = s.ten.provisioned := rfl
@[simp] theorem setOwner_ten_keys (f : Nat) (b : FrameOwner) (s : State) : (setOwner f b s).ten.keys = s.ten.keys := rfl
@[simp] theorem setOwner_ten_partKey (f : Nat) (b : FrameOwner) (s : State) : (setOwner f b s).ten.partKey = s.ten.partKey := rfl
@[simp] theorem setOwner_ten_nSwitch (f : Nat) (b : FrameOwner) (s : State) : (setOwner f b s).ten.nSwitch = s.ten.nSwitch := rfl
@[simp] theorem setOwner_ten_nPreempt (f : Nat) (b : FrameOwner) (s : State) : (setOwner f b s).ten.nPreempt = s.ten.nPreempt := rfl
@[simp] theorem setOwner_ten_nScrub (f : Nat) (b : FrameOwner) (s : State) : (setOwner f b s).ten.nScrub = s.ten.nScrub := rfl
@[simp] theorem setOwner_ten_nOwner (f : Nat) (b : FrameOwner) (s : State) : (setOwner f b s).ten.nOwner = s.ten.nOwner := rfl
@[simp] theorem setOwner_ten_nRefusal (f : Nat) (b : FrameOwner) (s : State) : (setOwner f b s).ten.nRefusal = s.ten.nRefusal := rfl
@[simp] theorem ring_setOwner (f : Nat) (b : FrameOwner) (s : State) (j : Nat) : ring (setOwner f b s) j = ring s j := rfl
@[simp] theorem mbox_setOwner (f : Nat) (b : FrameOwner) (s : State) (j : Nat) : mbox (setOwner f b s) j = mbox s j := rfl
@[simp] theorem lockReg_setOwner (f : Nat) (b : FrameOwner) (s : State) (j : Nat) : lockReg (setOwner f b s) j = lockReg s j := rfl
@[simp] theorem cluster_setOwner (f : Nat) (b : FrameOwner) (s : State) (j : Nat) : cluster (setOwner f b s) j = cluster s j := rfl
@[simp] theorem core_setOwner (f : Nat) (b : FrameOwner) (s : State) (j : Nat) : core (setOwner f b s) j = core s j := rfl
@[simp] theorem engine_setOwner (f : Nat) (b : FrameOwner) (s : State) (j : Nat) : engine (setOwner f b s) j = engine s j := rfl
@[simp] theorem plane_setOwner (f : Nat) (b : FrameOwner) (s : State) (j : Nat) : plane (setOwner f b s) j = plane s j := rfl
@[simp] theorem entry_setOwner (f : Nat) (b : FrameOwner) (s : State) (j : Nat) : entry (setOwner f b s) j = entry s j := rfl
@[simp] theorem brun_setOwner (f : Nat) (b : FrameOwner) (s : State) (j : Nat) : brun (setOwner f b s) j = brun s j := rfl
@[simp] theorem ctx_setOwner (f : Nat) (b : FrameOwner) (s : State) (j : Nat) : ctx (setOwner f b s) j = ctx s j := rfl
@[simp] theorem ctxRun_setOwner (f : Nat) (b : FrameOwner) (s : State) (j : Nat) : ctxRun (setOwner f b s) j = ctxRun s j := rfl
@[simp] theorem conv_setOwner (f : Nat) (b : FrameOwner) (s : State) (j : Nat) : conv (setOwner f b s) j = conv s j := rfl
@[simp] theorem port_setOwner (f : Nat) (b : FrameOwner) (s : State) (j : Nat) : port (setOwner f b s) j = port s j := rfl

/-- The owner of a frame after a write of another one's or of its own. -/
theorem owner_setOwner (f : Nat) (b : FrameOwner) (s : State) (g : Nat) :
    owner (setOwner f b s) g = if g < s.ten.fwEnd then .firmware else if g = f then b else owner s g := by
  unfold owner setOwner
  by_cases h : g < s.ten.fwEnd <;> simp [h, look_put]

end Sys2Proof.Machine
end

