-- ==== Sys2Proof/Laws/Ops.lean ====
section
/-! SUPPORT. What each shared operation of Machine/Ops.lean can change: one lemma per field of the state it leaves alone, and
what it does to the fields it writes. -/

namespace Sys2Proof.Machine

/-! ### submitJob -/

@[simp] theorem submitJob_pending (p : Nat) (w : FlashJob) (s : State) : (submitJob p w s).pending = s.pending := rfl
@[simp] theorem submitJob_ident (p : Nat) (w : FlashJob) (s : State) : (submitJob p w s).ident = s.ident := rfl
@[simp] theorem submitJob_mail (p : Nat) (w : FlashJob) (s : State) : (submitJob p w s).mail = s.mail := rfl
@[simp] theorem submitJob_err (p : Nat) (w : FlashJob) (s : State) : (submitJob p w s).err = s.err := rfl
@[simp] theorem submitJob_su (p : Nat) (w : FlashJob) (s : State) : (submitJob p w s).su = s.su := rfl
@[simp] theorem submitJob_host (p : Nat) (w : FlashJob) (s : State) : (submitJob p w s).host = s.host := rfl
@[simp] theorem submitJob_fab (p : Nat) (w : FlashJob) (s : State) : (submitJob p w s).fab = s.fab := rfl
@[simp] theorem submitJob_mon (p : Nat) (w : FlashJob) (s : State) : (submitJob p w s).mon = s.mon := rfl
@[simp] theorem submitJob_pow (p : Nat) (w : FlashJob) (s : State) : (submitJob p w s).pow = s.pow := rfl
@[simp] theorem submitJob_ten (p : Nat) (w : FlashJob) (s : State) : (submitJob p w s).ten = s.ten := rfl
@[simp] theorem submitJob_srv (p : Nat) (w : FlashJob) (s : State) : (submitJob p w s).srv = s.srv := rfl
@[simp] theorem submitJob_hw (p : Nat) (w : FlashJob) (s : State) : (submitJob p w s).hw = s.hw := rfl
@[simp] theorem submitJob_mem (p : Nat) (w : FlashJob) (s : State) : (submitJob p w s).mem = s.mem := rfl
@[simp] theorem submitJob_memKeys (p : Nat) (w : FlashJob) (s : State) : (submitJob p w s).memKeys = s.memKeys := rfl
@[simp] theorem submitJob_out (p : Nat) (w : FlashJob) (s : State) : (submitJob p w s).out = s.out := rfl
@[simp] theorem submitJob_fresh (p : Nat) (w : FlashJob) (s : State) : (submitJob p w s).fresh = s.fresh := rfl
@[simp] theorem ring_submitJob (p : Nat) (w : FlashJob) (s : State) (j : Nat) : ring (submitJob p w s) j = ring s j := by simp [ring]
@[simp] theorem mbox_submitJob (p : Nat) (w : FlashJob) (s : State) (j : Nat) : mbox (submitJob p w s) j = mbox s j := by simp [mbox]
@[simp] theorem lockReg_submitJob (p : Nat) (w : FlashJob) (s : State) (j : Nat) : lockReg (submitJob p w s) j = lockReg s j := by simp [lockReg]
@[simp] theorem cluster_submitJob (p : Nat) (w : FlashJob) (s : State) (j : Nat) : cluster (submitJob p w s) j = cluster s j := by simp [cluster]
@[simp] theorem core_submitJob (p : Nat) (w : FlashJob) (s : State) (j : Nat) : core (submitJob p w s) j = core s j := by simp [core]
@[simp] theorem engine_submitJob (p : Nat) (w : FlashJob) (s : State) (j : Nat) : engine (submitJob p w s) j = engine s j := by simp [engine]
@[simp] theorem plane_submitJob (p : Nat) (w : FlashJob) (s : State) (j : Nat) : plane (submitJob p w s) j = plane s j := by simp [plane]
@[simp] theorem entry_submitJob (p : Nat) (w : FlashJob) (s : State) (j : Nat) : entry (submitJob p w s) j = entry s j := by simp [entry]
@[simp] theorem brun_submitJob (p : Nat) (w : FlashJob) (s : State) (j : Nat) : brun (submitJob p w s) j = brun s j := by simp [brun]
@[simp] theorem ctx_submitJob (p : Nat) (w : FlashJob) (s : State) (j : Nat) : ctx (submitJob p w s) j = ctx s j := by simp [ctx]
@[simp] theorem ctxRun_submitJob (p : Nat) (w : FlashJob) (s : State) (j : Nat) : ctxRun (submitJob p w s) j = ctxRun s j := by simp [ctxRun]
@[simp] theorem conv_submitJob (p : Nat) (w : FlashJob) (s : State) (j : Nat) : conv (submitJob p w s) j = conv s j := by simp [conv]
@[simp] theorem port_submitJob (p : Nat) (w : FlashJob) (s : State) (j : Nat) : port (submitJob p w s) j = port s j := by simp [port]

/-! ### writeCounters -/

@[simp] theorem writeCounters_pending (s : State) : (writeCounters s).pending = s.pending := rfl
@[simp] theorem writeCounters_ident (s : State) : (writeCounters s).ident = s.ident := rfl
@[simp] theorem writeCounters_mail (s : State) : (writeCounters s).mail = s.mail := rfl
@[simp] theorem writeCounters_err (s : State) : (writeCounters s).err = s.err := rfl
@[simp] theorem writeCounters_su (s : State) : (writeCounters s).su = s.su := rfl
@[simp] theorem writeCounters_host (s : State) : (writeCounters s).host = s.host := rfl
@[simp] theorem writeCounters_fab (s : State) : (writeCounters s).fab = s.fab := rfl
@[simp] theorem writeCounters_mon (s : State) : (writeCounters s).mon = s.mon := rfl
@[simp] theorem writeCounters_pow (s : State) : (writeCounters s).pow = s.pow := rfl
@[simp] theorem writeCounters_ten (s : State) : (writeCounters s).ten = s.ten := rfl
@[simp] theorem writeCounters_srv (s : State) : (writeCounters s).srv = s.srv := rfl
@[simp] theorem writeCounters_hw (s : State) : (writeCounters s).hw = s.hw := rfl
@[simp] theorem writeCounters_mem (s : State) : (writeCounters s).mem = s.mem := rfl
@[simp] theorem writeCounters_memKeys (s : State) : (writeCounters s).memKeys = s.memKeys := rfl
@[simp] theorem writeCounters_out (s : State) : (writeCounters s).out = s.out := rfl
@[simp] theorem writeCounters_fresh (s : State) : (writeCounters s).fresh = s.fresh := rfl
@[simp] theorem ring_writeCounters (s : State) (j : Nat) : ring (writeCounters s) j = ring s j := by simp [ring]
@[simp] theorem mbox_writeCounters (s : State) (j : Nat) : mbox (writeCounters s) j = mbox s j := by simp [mbox]
@[simp] theorem lockReg_writeCounters (s : State) (j : Nat) : lockReg (writeCounters s) j = lockReg s j := by simp [lockReg]
@[simp] theorem cluster_writeCounters (s : State) (j : Nat) : cluster (writeCounters s) j = cluster s j := by simp [cluster]
@[simp] theorem core_writeCounters (s : State) (j : Nat) : core (writeCounters s) j = core s j := by simp [core]
@[simp] theorem engine_writeCounters (s : State) (j : Nat) : engine (writeCounters s) j = engine s j := by simp [engine]
@[simp] theorem plane_writeCounters (s : State) (j : Nat) : plane (writeCounters s) j = plane s j := by simp [plane]
@[simp] theorem entry_writeCounters (s : State) (j : Nat) : entry (writeCounters s) j = entry s j := by simp [entry]
@[simp] theorem brun_writeCounters (s : State) (j : Nat) : brun (writeCounters s) j = brun s j := by simp [brun]
@[simp] theorem ctx_writeCounters (s : State) (j : Nat) : ctx (writeCounters s) j = ctx s j := by simp [ctx]
@[simp] theorem ctxRun_writeCounters (s : State) (j : Nat) : ctxRun (writeCounters s) j = ctxRun s j := by simp [ctxRun]
@[simp] theorem conv_writeCounters (s : State) (j : Nat) : conv (writeCounters s) j = conv s j := by simp [conv]
@[simp] theorem port_writeCounters (s : State) (j : Nat) : port (writeCounters s) j = port s j := by simp [port]

/-! ### writeRepair -/

@[simp] theorem writeRepair_pending (s : State) : (writeRepair s).pending = s.pending := rfl
@[simp] theorem writeRepair_ident (s : State) : (writeRepair s).ident = s.ident := rfl
@[simp] theorem writeRepair_mail (s : State) : (writeRepair s).mail = s.mail := rfl
@[simp] theorem writeRepair_err (s : State) : (writeRepair s).err = s.err := rfl
@[simp] theorem writeRepair_su (s : State) : (writeRepair s).su = s.su := rfl
@[simp] theorem writeRepair_host (s : State) : (writeRepair s).host = s.host := rfl
@[simp] theorem writeRepair_fab (s : State) : (writeRepair s).fab = s.fab := rfl
@[simp] theorem writeRepair_mon (s : State) : (writeRepair s).mon = s.mon := rfl
@[simp] theorem writeRepair_pow (s : State) : (writeRepair s).pow = s.pow := rfl
@[simp] theorem writeRepair_ten (s : State) : (writeRepair s).ten = s.ten := rfl
@[simp] theorem writeRepair_srv (s : State) : (writeRepair s).srv = s.srv := rfl
@[simp] theorem writeRepair_hw (s : State) : (writeRepair s).hw = s.hw := rfl
@[simp] theorem writeRepair_mem (s : State) : (writeRepair s).mem = s.mem := rfl
@[simp] theorem writeRepair_memKeys (s : State) : (writeRepair s).memKeys = s.memKeys := rfl
@[simp] theorem writeRepair_out (s : State) : (writeRepair s).out = s.out := rfl
@[simp] theorem writeRepair_fresh (s : State) : (writeRepair s).fresh = s.fresh := rfl
@[simp] theorem ring_writeRepair (s : State) (j : Nat) : ring (writeRepair s) j = ring s j := by simp [ring]
@[simp] theorem mbox_writeRepair (s : State) (j : Nat) : mbox (writeRepair s) j = mbox s j := by simp [mbox]
@[simp] theorem lockReg_writeRepair (s : State) (j : Nat) : lockReg (writeRepair s) j = lockReg s j := by simp [lockReg]
@[simp] theorem cluster_writeRepair (s : State) (j : Nat) : cluster (writeRepair s) j = cluster s j := by simp [cluster]
@[simp] theorem core_writeRepair (s : State) (j : Nat) : core (writeRepair s) j = core s j := by simp [core]
@[simp] theorem engine_writeRepair (s : State) (j : Nat) : engine (writeRepair s) j = engine s j := by simp [engine]
@[simp] theorem plane_writeRepair (s : State) (j : Nat) : plane (writeRepair s) j = plane s j := by simp [plane]
@[simp] theorem entry_writeRepair (s : State) (j : Nat) : entry (writeRepair s) j = entry s j := by simp [entry]
@[simp] theorem brun_writeRepair (s : State) (j : Nat) : brun (writeRepair s) j = brun s j := by simp [brun]
@[simp] theorem ctx_writeRepair (s : State) (j : Nat) : ctx (writeRepair s) j = ctx s j := by simp [ctx]
@[simp] theorem ctxRun_writeRepair (s : State) (j : Nat) : ctxRun (writeRepair s) j = ctxRun s j := by simp [ctxRun]
@[simp] theorem conv_writeRepair (s : State) (j : Nat) : conv (writeRepair s) j = conv s j := by simp [conv]
@[simp] theorem port_writeRepair (s : State) (j : Nat) : port (writeRepair s) j = port s j := by simp [port]

/-! ### writeJournal -/

@[simp] theorem writeJournal_pending (e : JEntry) (s : State) : (writeJournal e s).pending = s.pending := rfl
@[simp] theorem writeJournal_ident (e : JEntry) (s : State) : (writeJournal e s).ident = s.ident := rfl
@[simp] theorem writeJournal_mail (e : JEntry) (s : State) : (writeJournal e s).mail = s.mail := rfl
@[simp] theorem writeJournal_err (e : JEntry) (s : State) : (writeJournal e s).err = s.err := rfl
@[simp] theorem writeJournal_su (e : JEntry) (s : State) : (writeJournal e s).su = s.su := rfl
@[simp] theorem writeJournal_host (e : JEntry) (s : State) : (writeJournal e s).host = s.host := rfl
@[simp] theorem writeJournal_fab (e : JEntry) (s : State) : (writeJournal e s).fab = s.fab := rfl
@[simp] theorem writeJournal_mon (e : JEntry) (s : State) : (writeJournal e s).mon = s.mon := rfl
@[simp] theorem writeJournal_pow (e : JEntry) (s : State) : (writeJournal e s).pow = s.pow := rfl
@[simp] theorem writeJournal_ten (e : JEntry) (s : State) : (writeJournal e s).ten = s.ten := rfl
@[simp] theorem writeJournal_srv (e : JEntry) (s : State) : (writeJournal e s).srv = s.srv := rfl
@[simp] theorem writeJournal_hw (e : JEntry) (s : State) : (writeJournal e s).hw = s.hw := rfl
@[simp] theorem writeJournal_mem (e : JEntry) (s : State) : (writeJournal e s).mem = s.mem := rfl
@[simp] theorem writeJournal_memKeys (e : JEntry) (s : State) : (writeJournal e s).memKeys = s.memKeys := rfl
@[simp] theorem writeJournal_out (e : JEntry) (s : State) : (writeJournal e s).out = s.out := rfl
@[simp] theorem writeJournal_fresh (e : JEntry) (s : State) : (writeJournal e s).fresh = s.fresh := rfl
@[simp] theorem ring_writeJournal (e : JEntry) (s : State) (j : Nat) : ring (writeJournal e s) j = ring s j := by simp [ring]
@[simp] theorem mbox_writeJournal (e : JEntry) (s : State) (j : Nat) : mbox (writeJournal e s) j = mbox s j := by simp [mbox]
@[simp] theorem lockReg_writeJournal (e : JEntry) (s : State) (j : Nat) : lockReg (writeJournal e s) j = lockReg s j := by simp [lockReg]
@[simp] theorem cluster_writeJournal (e : JEntry) (s : State) (j : Nat) : cluster (writeJournal e s) j = cluster s j := by simp [cluster]
@[simp] theorem core_writeJournal (e : JEntry) (s : State) (j : Nat) : core (writeJournal e s) j = core s j := by simp [core]
@[simp] theorem engine_writeJournal (e : JEntry) (s : State) (j : Nat) : engine (writeJournal e s) j = engine s j := by simp [engine]
@[simp] theorem plane_writeJournal (e : JEntry) (s : State) (j : Nat) : plane (writeJournal e s) j = plane s j := by simp [plane]
@[simp] theorem entry_writeJournal (e : JEntry) (s : State) (j : Nat) : entry (writeJournal e s) j = entry s j := by simp [entry]
@[simp] theorem brun_writeJournal (e : JEntry) (s : State) (j : Nat) : brun (writeJournal e s) j = brun s j := by simp [brun]
@[simp] theorem ctx_writeJournal (e : JEntry) (s : State) (j : Nat) : ctx (writeJournal e s) j = ctx s j := by simp [ctx]
@[simp] theorem ctxRun_writeJournal (e : JEntry) (s : State) (j : Nat) : ctxRun (writeJournal e s) j = ctxRun s j := by simp [ctxRun]
@[simp] theorem conv_writeJournal (e : JEntry) (s : State) (j : Nat) : conv (writeJournal e s) j = conv s j := by simp [conv]
@[simp] theorem port_writeJournal (e : JEntry) (s : State) (j : Nat) : port (writeJournal e s) j = port s j := by simp [port]

/-! ### logEvent -/

@[simp] theorem logEvent_pending (always : Bool) (r : ErrRec) (s : State) : (logEvent always r s).pending = s.pending := by unfold logEvent; split <;> rfl
@[simp] theorem logEvent_ident (always : Bool) (r : ErrRec) (s : State) : (logEvent always r s).ident = s.ident := by unfold logEvent; split <;> rfl
@[simp] theorem logEvent_mail (always : Bool) (r : ErrRec) (s : State) : (logEvent always r s).mail = s.mail := by unfold logEvent; split <;> rfl
@[simp] theorem logEvent_err (always : Bool) (r : ErrRec) (s : State) : (logEvent always r s).err = s.err := by unfold logEvent; split <;> rfl
@[simp] theorem logEvent_su (always : Bool) (r : ErrRec) (s : State) : (logEvent always r s).su = s.su := by unfold logEvent; split <;> rfl
@[simp] theorem logEvent_host (always : Bool) (r : ErrRec) (s : State) : (logEvent always r s).host = s.host := by unfold logEvent; split <;> rfl
@[simp] theorem logEvent_fab (always : Bool) (r : ErrRec) (s : State) : (logEvent always r s).fab = s.fab := by unfold logEvent; split <;> rfl
@[simp] theorem logEvent_mon (always : Bool) (r : ErrRec) (s : State) : (logEvent always r s).mon = s.mon := by unfold logEvent; split <;> rfl
@[simp] theorem logEvent_pow (always : Bool) (r : ErrRec) (s : State) : (logEvent always r s).pow = s.pow := by unfold logEvent; split <;> rfl
@[simp] theorem logEvent_ten (always : Bool) (r : ErrRec) (s : State) : (logEvent always r s).ten = s.ten := by unfold logEvent; split <;> rfl
@[simp] theorem logEvent_srv (always : Bool) (r : ErrRec) (s : State) : (logEvent always r s).srv = s.srv := by unfold logEvent; split <;> rfl
@[simp] theorem logEvent_hw (always : Bool) (r : ErrRec) (s : State) : (logEvent always r s).hw = s.hw := by unfold logEvent; split <;> rfl
@[simp] theorem logEvent_mem (always : Bool) (r : ErrRec) (s : State) : (logEvent always r s).mem = s.mem := by unfold logEvent; split <;> rfl
@[simp] theorem logEvent_memKeys (always : Bool) (r : ErrRec) (s : State) : (logEvent always r s).memKeys = s.memKeys := by unfold logEvent; split <;> rfl
@[simp] theorem logEvent_out (always : Bool) (r : ErrRec) (s : State) : (logEvent always r s).out = s.out := by unfold logEvent; split <;> rfl
@[simp] theorem logEvent_fresh (always : Bool) (r : ErrRec) (s : State) : (logEvent always r s).fresh = s.fresh := by unfold logEvent; split <;> rfl
@[simp] theorem ring_logEvent (always : Bool) (r : ErrRec) (s : State) (j : Nat) : ring (logEvent always r s) j = ring s j := by simp [ring]
@[simp] theorem mbox_logEvent (always : Bool) (r : ErrRec) (s : State) (j : Nat) : mbox (logEvent always r s) j = mbox s j := by simp [mbox]
@[simp] theorem lockReg_logEvent (always : Bool) (r : ErrRec) (s : State) (j : Nat) : lockReg (logEvent always r s) j = lockReg s j := by simp [lockReg]
@[simp] theorem cluster_logEvent (always : Bool) (r : ErrRec) (s : State) (j : Nat) : cluster (logEvent always r s) j = cluster s j := by simp [cluster]
@[simp] theorem core_logEvent (always : Bool) (r : ErrRec) (s : State) (j : Nat) : core (logEvent always r s) j = core s j := by simp [core]
@[simp] theorem engine_logEvent (always : Bool) (r : ErrRec) (s : State) (j : Nat) : engine (logEvent always r s) j = engine s j := by simp [engine]
@[simp] theorem plane_logEvent (always : Bool) (r : ErrRec) (s : State) (j : Nat) : plane (logEvent always r s) j = plane s j := by simp [plane]
@[simp] theorem entry_logEvent (always : Bool) (r : ErrRec) (s : State) (j : Nat) : entry (logEvent always r s) j = entry s j := by simp [entry]
@[simp] theorem brun_logEvent (always : Bool) (r : ErrRec) (s : State) (j : Nat) : brun (logEvent always r s) j = brun s j := by simp [brun]
@[simp] theorem ctx_logEvent (always : Bool) (r : ErrRec) (s : State) (j : Nat) : ctx (logEvent always r s) j = ctx s j := by simp [ctx]
@[simp] theorem ctxRun_logEvent (always : Bool) (r : ErrRec) (s : State) (j : Nat) : ctxRun (logEvent always r s) j = ctxRun s j := by simp [ctxRun]
@[simp] theorem conv_logEvent (always : Bool) (r : ErrRec) (s : State) (j : Nat) : conv (logEvent always r s) j = conv s j := by simp [conv]
@[simp] theorem port_logEvent (always : Bool) (r : ErrRec) (s : State) (j : Nat) : port (logEvent always r s) j = port s j := by simp [port]

/-! ### route -/

@[simp] theorem route_pending (r : ErrRec) (s : State) : (route r s).pending = s.pending := rfl
@[simp] theorem route_ident (r : ErrRec) (s : State) : (route r s).ident = s.ident := rfl
@[simp] theorem route_mail (r : ErrRec) (s : State) : (route r s).mail = s.mail := rfl
@[simp] theorem route_su (r : ErrRec) (s : State) : (route r s).su = s.su := rfl
@[simp] theorem route_lar (r : ErrRec) (s : State) : (route r s).lar = s.lar := rfl
@[simp] theorem route_host (r : ErrRec) (s : State) : (route r s).host = s.host := rfl
@[simp] theorem route_fab (r : ErrRec) (s : State) : (route r s).fab = s.fab := rfl
@[simp] theorem route_mon (r : ErrRec) (s : State) : (route r s).mon = s.mon := rfl
@[simp] theorem route_pow (r : ErrRec) (s : State) : (route r s).pow = s.pow := rfl
@[simp] theorem route_ten (r : ErrRec) (s : State) : (route r s).ten = s.ten := rfl
@[simp] theorem route_srv (r : ErrRec) (s : State) : (route r s).srv = s.srv := rfl
@[simp] theorem route_hw (r : ErrRec) (s : State) : (route r s).hw = s.hw := rfl
@[simp] theorem route_mem (r : ErrRec) (s : State) : (route r s).mem = s.mem := rfl
@[simp] theorem route_memKeys (r : ErrRec) (s : State) : (route r s).memKeys = s.memKeys := rfl
@[simp] theorem route_out (r : ErrRec) (s : State) : (route r s).out = s.out := rfl
@[simp] theorem route_fresh (r : ErrRec) (s : State) : (route r s).fresh = s.fresh := rfl
@[simp] theorem ring_route (r : ErrRec) (s : State) (j : Nat) : ring (route r s) j = ring s j := by simp [ring]
@[simp] theorem mbox_route (r : ErrRec) (s : State) (j : Nat) : mbox (route r s) j = mbox s j := by simp [mbox]
@[simp] theorem lockReg_route (r : ErrRec) (s : State) (j : Nat) : lockReg (route r s) j = lockReg s j := by simp [lockReg]
@[simp] theorem cluster_route (r : ErrRec) (s : State) (j : Nat) : cluster (route r s) j = cluster s j := by simp [cluster]
@[simp] theorem core_route (r : ErrRec) (s : State) (j : Nat) : core (route r s) j = core s j := by simp [core]
@[simp] theorem engine_route (r : ErrRec) (s : State) (j : Nat) : engine (route r s) j = engine s j := by simp [engine]
@[simp] theorem plane_route (r : ErrRec) (s : State) (j : Nat) : plane (route r s) j = plane s j := by simp [plane]
@[simp] theorem entry_route (r : ErrRec) (s : State) (j : Nat) : entry (route r s) j = entry s j := by simp [entry]
@[simp] theorem brun_route (r : ErrRec) (s : State) (j : Nat) : brun (route r s) j = brun s j := by simp [brun]
@[simp] theorem ctx_route (r : ErrRec) (s : State) (j : Nat) : ctx (route r s) j = ctx s j := by simp [ctx]
@[simp] theorem ctxRun_route (r : ErrRec) (s : State) (j : Nat) : ctxRun (route r s) j = ctxRun s j := by simp [ctxRun]
@[simp] theorem conv_route (r : ErrRec) (s : State) (j : Nat) : conv (route r s) j = conv s j := by simp [conv]
@[simp] theorem port_route (r : ErrRec) (s : State) (j : Nat) : port (route r s) j = port s j := by simp [port]

/-! ### raiseOnly -/

@[simp] theorem raiseOnly_pending (r : ErrRec) (s : State) : (raiseOnly r s).pending = s.pending := rfl
@[simp] theorem raiseOnly_ident (r : ErrRec) (s : State) : (raiseOnly r s).ident = s.ident := rfl
@[simp] theorem raiseOnly_mail (r : ErrRec) (s : State) : (raiseOnly r s).mail = s.mail := rfl
@[simp] theorem raiseOnly_su (r : ErrRec) (s : State) : (raiseOnly r s).su = s.su := rfl
@[simp] theorem raiseOnly_lar (r : ErrRec) (s : State) : (raiseOnly r s).lar = s.lar := rfl
@[simp] theorem raiseOnly_host (r : ErrRec) (s : State) : (raiseOnly r s).host = s.host := rfl
@[simp] theorem raiseOnly_fab (r : ErrRec) (s : State) : (raiseOnly r s).fab = s.fab := rfl
@[simp] theorem raiseOnly_mon (r : ErrRec) (s : State) : (raiseOnly r s).mon = s.mon := rfl
@[simp] theorem raiseOnly_pow (r : ErrRec) (s : State) : (raiseOnly r s).pow = s.pow := rfl
@[simp] theorem raiseOnly_ten (r : ErrRec) (s : State) : (raiseOnly r s).ten = s.ten := rfl
@[simp] theorem raiseOnly_srv (r : ErrRec) (s : State) : (raiseOnly r s).srv = s.srv := rfl
@[simp] theorem raiseOnly_hw (r : ErrRec) (s : State) : (raiseOnly r s).hw = s.hw := rfl
@[simp] theorem raiseOnly_mem (r : ErrRec) (s : State) : (raiseOnly r s).mem = s.mem := rfl
@[simp] theorem raiseOnly_memKeys (r : ErrRec) (s : State) : (raiseOnly r s).memKeys = s.memKeys := rfl
@[simp] theorem raiseOnly_out (r : ErrRec) (s : State) : (raiseOnly r s).out = s.out := rfl
@[simp] theorem raiseOnly_fresh (r : ErrRec) (s : State) : (raiseOnly r s).fresh = s.fresh := rfl
@[simp] theorem ring_raiseOnly (r : ErrRec) (s : State) (j : Nat) : ring (raiseOnly r s) j = ring s j := by simp [ring]
@[simp] theorem mbox_raiseOnly (r : ErrRec) (s : State) (j : Nat) : mbox (raiseOnly r s) j = mbox s j := by simp [mbox]
@[simp] theorem lockReg_raiseOnly (r : ErrRec) (s : State) (j : Nat) : lockReg (raiseOnly r s) j = lockReg s j := by simp [lockReg]
@[simp] theorem cluster_raiseOnly (r : ErrRec) (s : State) (j : Nat) : cluster (raiseOnly r s) j = cluster s j := by simp [cluster]
@[simp] theorem core_raiseOnly (r : ErrRec) (s : State) (j : Nat) : core (raiseOnly r s) j = core s j := by simp [core]
@[simp] theorem engine_raiseOnly (r : ErrRec) (s : State) (j : Nat) : engine (raiseOnly r s) j = engine s j := by simp [engine]
@[simp] theorem plane_raiseOnly (r : ErrRec) (s : State) (j : Nat) : plane (raiseOnly r s) j = plane s j := by simp [plane]
@[simp] theorem entry_raiseOnly (r : ErrRec) (s : State) (j : Nat) : entry (raiseOnly r s) j = entry s j := by simp [entry]
@[simp] theorem brun_raiseOnly (r : ErrRec) (s : State) (j : Nat) : brun (raiseOnly r s) j = brun s j := by simp [brun]
@[simp] theorem ctx_raiseOnly (r : ErrRec) (s : State) (j : Nat) : ctx (raiseOnly r s) j = ctx s j := by simp [ctx]
@[simp] theorem ctxRun_raiseOnly (r : ErrRec) (s : State) (j : Nat) : ctxRun (raiseOnly r s) j = ctxRun s j := by simp [ctxRun]
@[simp] theorem conv_raiseOnly (r : ErrRec) (s : State) (j : Nat) : conv (raiseOnly r s) j = conv s j := by simp [conv]
@[simp] theorem port_raiseOnly (r : ErrRec) (s : State) (j : Nat) : port (raiseOnly r s) j = port s j := by simp [port]

/-! ### raise -/

@[simp] theorem raise_pending (r : ErrRec) (s : State) : (raise r s).pending = s.pending := by unfold raise; split <;> simp
@[simp] theorem raise_ident (r : ErrRec) (s : State) : (raise r s).ident = s.ident := by unfold raise; split <;> simp
@[simp] theorem raise_mail (r : ErrRec) (s : State) : (raise r s).mail = s.mail := by unfold raise; split <;> simp
@[simp] theorem raise_su (r : ErrRec) (s : State) : (raise r s).su = s.su := by unfold raise; split <;> simp
@[simp] theorem raise_host (r : ErrRec) (s : State) : (raise r s).host = s.host := by unfold raise; split <;> simp
@[simp] theorem raise_fab (r : ErrRec) (s : State) : (raise r s).fab = s.fab := by unfold raise; split <;> simp
@[simp] theorem raise_mon (r : ErrRec) (s : State) : (raise r s).mon = s.mon := by unfold raise; split <;> simp
@[simp] theorem raise_pow (r : ErrRec) (s : State) : (raise r s).pow = s.pow := by unfold raise; split <;> simp
@[simp] theorem raise_ten (r : ErrRec) (s : State) : (raise r s).ten = s.ten := by unfold raise; split <;> simp
@[simp] theorem raise_srv (r : ErrRec) (s : State) : (raise r s).srv = s.srv := by unfold raise; split <;> simp
@[simp] theorem raise_hw (r : ErrRec) (s : State) : (raise r s).hw = s.hw := by unfold raise; split <;> simp
@[simp] theorem raise_mem (r : ErrRec) (s : State) : (raise r s).mem = s.mem := by unfold raise; split <;> simp
@[simp] theorem raise_memKeys (r : ErrRec) (s : State) : (raise r s).memKeys = s.memKeys := by unfold raise; split <;> simp
@[simp] theorem raise_out (r : ErrRec) (s : State) : (raise r s).out = s.out := by unfold raise; split <;> simp
@[simp] theorem raise_fresh (r : ErrRec) (s : State) : (raise r s).fresh = s.fresh := by unfold raise; split <;> simp
@[simp] theorem ring_raise (r : ErrRec) (s : State) (j : Nat) : ring (raise r s) j = ring s j := by simp [ring]
@[simp] theorem mbox_raise (r : ErrRec) (s : State) (j : Nat) : mbox (raise r s) j = mbox s j := by simp [mbox]
@[simp] theorem lockReg_raise (r : ErrRec) (s : State) (j : Nat) : lockReg (raise r s) j = lockReg s j := by simp [lockReg]
@[simp] theorem cluster_raise (r : ErrRec) (s : State) (j : Nat) : cluster (raise r s) j = cluster s j := by simp [cluster]
@[simp] theorem core_raise (r : ErrRec) (s : State) (j : Nat) : core (raise r s) j = core s j := by simp [core]
@[simp] theorem engine_raise (r : ErrRec) (s : State) (j : Nat) : engine (raise r s) j = engine s j := by simp [engine]
@[simp] theorem plane_raise (r : ErrRec) (s : State) (j : Nat) : plane (raise r s) j = plane s j := by simp [plane]
@[simp] theorem entry_raise (r : ErrRec) (s : State) (j : Nat) : entry (raise r s) j = entry s j := by simp [entry]
@[simp] theorem brun_raise (r : ErrRec) (s : State) (j : Nat) : brun (raise r s) j = brun s j := by simp [brun]
@[simp] theorem ctx_raise (r : ErrRec) (s : State) (j : Nat) : ctx (raise r s) j = ctx s j := by simp [ctx]
@[simp] theorem ctxRun_raise (r : ErrRec) (s : State) (j : Nat) : ctxRun (raise r s) j = ctxRun s j := by simp [ctxRun]
@[simp] theorem conv_raise (r : ErrRec) (s : State) (j : Nat) : conv (raise r s) j = conv s j := by simp [conv]
@[simp] theorem port_raise (r : ErrRec) (s : State) (j : Nat) : port (raise r s) j = port s j := by simp [port]

/-! ### raiseEvent -/

@[simp] theorem raiseEvent_pending (always : Bool) (r : ErrRec) (s : State) : (raiseEvent always r s).pending = s.pending := by simp [raiseEvent]
@[simp] theorem raiseEvent_ident (always : Bool) (r : ErrRec) (s : State) : (raiseEvent always r s).ident = s.ident := by simp [raiseEvent]
@[simp] theorem raiseEvent_mail (always : Bool) (r : ErrRec) (s : State) : (raiseEvent always r s).mail = s.mail := by simp [raiseEvent]
@[simp] theorem raiseEvent_su (always : Bool) (r : ErrRec) (s : State) : (raiseEvent always r s).su = s.su := by simp [raiseEvent]
@[simp] theorem raiseEvent_host (always : Bool) (r : ErrRec) (s : State) : (raiseEvent always r s).host = s.host := by simp [raiseEvent]
@[simp] theorem raiseEvent_fab (always : Bool) (r : ErrRec) (s : State) : (raiseEvent always r s).fab = s.fab := by simp [raiseEvent]
@[simp] theorem raiseEvent_mon (always : Bool) (r : ErrRec) (s : State) : (raiseEvent always r s).mon = s.mon := by simp [raiseEvent]
@[simp] theorem raiseEvent_pow (always : Bool) (r : ErrRec) (s : State) : (raiseEvent always r s).pow = s.pow := by simp [raiseEvent]
@[simp] theorem raiseEvent_ten (always : Bool) (r : ErrRec) (s : State) : (raiseEvent always r s).ten = s.ten := by simp [raiseEvent]
@[simp] theorem raiseEvent_srv (always : Bool) (r : ErrRec) (s : State) : (raiseEvent always r s).srv = s.srv := by simp [raiseEvent]
@[simp] theorem raiseEvent_hw (always : Bool) (r : ErrRec) (s : State) : (raiseEvent always r s).hw = s.hw := by simp [raiseEvent]
@[simp] theorem raiseEvent_mem (always : Bool) (r : ErrRec) (s : State) : (raiseEvent always r s).mem = s.mem := by simp [raiseEvent]
@[simp] theorem raiseEvent_memKeys (always : Bool) (r : ErrRec) (s : State) : (raiseEvent always r s).memKeys = s.memKeys := by simp [raiseEvent]
@[simp] theorem raiseEvent_out (always : Bool) (r : ErrRec) (s : State) : (raiseEvent always r s).out = s.out := by simp [raiseEvent]
@[simp] theorem raiseEvent_fresh (always : Bool) (r : ErrRec) (s : State) : (raiseEvent always r s).fresh = s.fresh := by simp [raiseEvent]
@[simp] theorem ring_raiseEvent (always : Bool) (r : ErrRec) (s : State) (j : Nat) : ring (raiseEvent always r s) j = ring s j := by simp [ring]
@[simp] theorem mbox_raiseEvent (always : Bool) (r : ErrRec) (s : State) (j : Nat) : mbox (raiseEvent always r s) j = mbox s j := by simp [mbox]
@[simp] theorem lockReg_raiseEvent (always : Bool) (r : ErrRec) (s : State) (j : Nat) : lockReg (raiseEvent always r s) j = lockReg s j := by simp [lockReg]
@[simp] theorem cluster_raiseEvent (always : Bool) (r : ErrRec) (s : State) (j : Nat) : cluster (raiseEvent always r s) j = cluster s j := by simp [cluster]
@[simp] theorem core_raiseEvent (always : Bool) (r : ErrRec) (s : State) (j : Nat) : core (raiseEvent always r s) j = core s j := by simp [core]
@[simp] theorem engine_raiseEvent (always : Bool) (r : ErrRec) (s : State) (j : Nat) : engine (raiseEvent always r s) j = engine s j := by simp [engine]
@[simp] theorem plane_raiseEvent (always : Bool) (r : ErrRec) (s : State) (j : Nat) : plane (raiseEvent always r s) j = plane s j := by simp [plane]
@[simp] theorem entry_raiseEvent (always : Bool) (r : ErrRec) (s : State) (j : Nat) : entry (raiseEvent always r s) j = entry s j := by simp [entry]
@[simp] theorem brun_raiseEvent (always : Bool) (r : ErrRec) (s : State) (j : Nat) : brun (raiseEvent always r s) j = brun s j := by simp [brun]
@[simp] theorem ctx_raiseEvent (always : Bool) (r : ErrRec) (s : State) (j : Nat) : ctx (raiseEvent always r s) j = ctx s j := by simp [ctx]
@[simp] theorem ctxRun_raiseEvent (always : Bool) (r : ErrRec) (s : State) (j : Nat) : ctxRun (raiseEvent always r s) j = ctxRun s j := by simp [ctxRun]
@[simp] theorem conv_raiseEvent (always : Bool) (r : ErrRec) (s : State) (j : Nat) : conv (raiseEvent always r s) j = conv s j := by simp [conv]
@[simp] theorem port_raiseEvent (always : Bool) (r : ErrRec) (s : State) (j : Nat) : port (raiseEvent always r s) j = port s j := by simp [port]

/-! ### msix -/

@[simp] theorem msix_pending (v : Nat) (s : State) : (msix v s).pending = s.pending := by unfold msix; split <;> rfl
@[simp] theorem msix_ident (v : Nat) (s : State) : (msix v s).ident = s.ident := by unfold msix; split <;> rfl
@[simp] theorem msix_mail (v : Nat) (s : State) : (msix v s).mail = s.mail := by unfold msix; split <;> rfl
@[simp] theorem msix_err (v : Nat) (s : State) : (msix v s).err = s.err := by unfold msix; split <;> rfl
@[simp] theorem msix_su (v : Nat) (s : State) : (msix v s).su = s.su := by unfold msix; split <;> rfl
@[simp] theorem msix_lar (v : Nat) (s : State) : (msix v s).lar = s.lar := by unfold msix; split <;> rfl
@[simp] theorem msix_fab (v : Nat) (s : State) : (msix v s).fab = s.fab := by unfold msix; split <;> rfl
@[simp] theorem msix_mon (v : Nat) (s : State) : (msix v s).mon = s.mon := by unfold msix; split <;> rfl
@[simp] theorem msix_pow (v : Nat) (s : State) : (msix v s).pow = s.pow := by unfold msix; split <;> rfl
@[simp] theorem msix_ten (v : Nat) (s : State) : (msix v s).ten = s.ten := by unfold msix; split <;> rfl
@[simp] theorem msix_srv (v : Nat) (s : State) : (msix v s).srv = s.srv := by unfold msix; split <;> rfl
@[simp] theorem msix_hw (v : Nat) (s : State) : (msix v s).hw = s.hw := by unfold msix; split <;> rfl
@[simp] theorem msix_mem (v : Nat) (s : State) : (msix v s).mem = s.mem := by unfold msix; split <;> rfl
@[simp] theorem msix_memKeys (v : Nat) (s : State) : (msix v s).memKeys = s.memKeys := by unfold msix; split <;> rfl
@[simp] theorem msix_fresh (v : Nat) (s : State) : (msix v s).fresh = s.fresh := by unfold msix; split <;> rfl
@[simp] theorem mbox_msix (v : Nat) (s : State) (j : Nat) : mbox (msix v s) j = mbox s j := by simp [mbox]
@[simp] theorem lockReg_msix (v : Nat) (s : State) (j : Nat) : lockReg (msix v s) j = lockReg s j := by simp [lockReg]
@[simp] theorem cluster_msix (v : Nat) (s : State) (j : Nat) : cluster (msix v s) j = cluster s j := by simp [cluster]
@[simp] theorem core_msix (v : Nat) (s : State) (j : Nat) : core (msix v s) j = core s j := by simp [core]
@[simp] theorem engine_msix (v : Nat) (s : State) (j : Nat) : engine (msix v s) j = engine s j := by simp [engine]
@[simp] theorem plane_msix (v : Nat) (s : State) (j : Nat) : plane (msix v s) j = plane s j := by simp [plane]
@[simp] theorem entry_msix (v : Nat) (s : State) (j : Nat) : entry (msix v s) j = entry s j := by simp [entry]
@[simp] theorem brun_msix (v : Nat) (s : State) (j : Nat) : brun (msix v s) j = brun s j := by simp [brun]
@[simp] theorem ctx_msix (v : Nat) (s : State) (j : Nat) : ctx (msix v s) j = ctx s j := by simp [ctx]
@[simp] theorem ctxRun_msix (v : Nat) (s : State) (j : Nat) : ctxRun (msix v s) j = ctxRun s j := by simp [ctxRun]
@[simp] theorem conv_msix (v : Nat) (s : State) (j : Nat) : conv (msix v s) j = conv s j := by simp [conv]
@[simp] theorem port_msix (v : Nat) (s : State) (j : Nat) : port (msix v s) j = port s j := by simp [port]

/-- A fold over a list keeps whatever each of its steps keeps. -/
theorem forAll_keeps {α β : Type} (p : State → β) (f : α → State → State) (h : ∀ a s, p (f a s) = p s) (l : List α)
    (s : State) : p (forAll l f s) = p s := by
  unfold forAll
  induction l generalizing s with
  | nil => rfl
  | cons a t ih => rw [List.foldl_cons, ih, h]

/-! ### restartVector -/

@[simp] theorem restartVector_pending (v : Nat) (s : State) : (restartVector v s).pending = s.pending :=
  forAll_keeps (·.pending) _ (fun a t => by split <;> simp) _ _
@[simp] theorem restartVector_ident (v : Nat) (s : State) : (restartVector v s).ident = s.ident :=
  forAll_keeps (·.ident) _ (fun a t => by split <;> simp) _ _
@[simp] theorem restartVector_mail (v : Nat) (s : State) : (restartVector v s).mail = s.mail :=
  forAll_keeps (·.mail) _ (fun a t => by split <;> simp) _ _
@[simp] theorem restartVector_err (v : Nat) (s : State) : (restartVector v s).err = s.err :=
  forAll_keeps (·.err) _ (fun a t => by split <;> simp) _ _
@[simp] theorem restartVector_su (v : Nat) (s : State) : (restartVector v s).su = s.su :=
  forAll_keeps (·.su) _ (fun a t => by split <;> simp) _ _
@[simp] theorem restartVector_lar (v : Nat) (s : State) : (restartVector v s).lar = s.lar :=
  forAll_keeps (·.lar) _ (fun a t => by split <;> simp) _ _
@[simp] theorem restartVector_fab (v : Nat) (s : State) : (restartVector v s).fab = s.fab :=
  forAll_keeps (·.fab) _ (fun a t => by split <;> simp) _ _
@[simp] theorem restartVector_mon (v : Nat) (s : State) : (restartVector v s).mon = s.mon :=
  forAll_keeps (·.mon) _ (fun a t => by split <;> simp) _ _
@[simp] theorem restartVector_pow (v : Nat) (s : State) : (restartVector v s).pow = s.pow :=
  forAll_keeps (·.pow) _ (fun a t => by split <;> simp) _ _
@[simp] theorem restartVector_ten (v : Nat) (s : State) : (restartVector v s).ten = s.ten :=
  forAll_keeps (·.ten) _ (fun a t => by split <;> simp) _ _
@[simp] theorem restartVector_srv (v : Nat) (s : State) : (restartVector v s).srv = s.srv :=
  forAll_keeps (·.srv) _ (fun a t => by split <;> simp) _ _
@[simp] theorem restartVector_hw (v : Nat) (s : State) : (restartVector v s).hw = s.hw :=
  forAll_keeps (·.hw) _ (fun a t => by split <;> simp) _ _
@[simp] theorem restartVector_mem (v : Nat) (s : State) : (restartVector v s).mem = s.mem :=
  forAll_keeps (·.mem) _ (fun a t => by split <;> simp) _ _
@[simp] theorem restartVector_memKeys (v : Nat) (s : State) : (restartVector v s).memKeys = s.memKeys :=
  forAll_keeps (·.memKeys) _ (fun a t => by split <;> simp) _ _
@[simp] theorem restartVector_out (v : Nat) (s : State) : (restartVector v s).out = s.out :=
  forAll_keeps (·.out) _ (fun a t => by split <;> simp) _ _
@[simp] theorem restartVector_fresh (v : Nat) (s : State) : (restartVector v s).fresh = s.fresh :=
  forAll_keeps (·.fresh) _ (fun a t => by split <;> simp) _ _
@[simp] theorem mbox_restartVector (v : Nat) (s : State) (j : Nat) : mbox (restartVector v s) j = mbox s j := by simp [mbox]
@[simp] theorem lockReg_restartVector (v : Nat) (s : State) (j : Nat) : lockReg (restartVector v s) j = lockReg s j := by simp [lockReg]
@[simp] theorem cluster_restartVector (v : Nat) (s : State) (j : Nat) : cluster (restartVector v s) j = cluster s j := by simp [cluster]
@[simp] theorem core_restartVector (v : Nat) (s : State) (j : Nat) : core (restartVector v s) j = core s j := by simp [core]
@[simp] theorem engine_restartVector (v : Nat) (s : State) (j : Nat) : engine (restartVector v s) j = engine s j := by simp [engine]
@[simp] theorem plane_restartVector (v : Nat) (s : State) (j : Nat) : plane (restartVector v s) j = plane s j := by simp [plane]
@[simp] theorem entry_restartVector (v : Nat) (s : State) (j : Nat) : entry (restartVector v s) j = entry s j := by simp [entry]
@[simp] theorem brun_restartVector (v : Nat) (s : State) (j : Nat) : brun (restartVector v s) j = brun s j := by simp [brun]
@[simp] theorem ctx_restartVector (v : Nat) (s : State) (j : Nat) : ctx (restartVector v s) j = ctx s j := by simp [ctx]
@[simp] theorem ctxRun_restartVector (v : Nat) (s : State) (j : Nat) : ctxRun (restartVector v s) j = ctxRun s j := by simp [ctxRun]
@[simp] theorem conv_restartVector (v : Nat) (s : State) (j : Nat) : conv (restartVector v s) j = conv s j := by simp [conv]
@[simp] theorem port_restartVector (v : Nat) (s : State) (j : Nat) : port (restartVector v s) j = port s j := by simp [port]

/-! ### signalRing -/

@[simp] theorem signalRing_pending (r : Nat) (s : State) : (signalRing r s).pending = s.pending := by unfold signalRing; dsimp only; split <;> simp
@[simp] theorem signalRing_ident (r : Nat) (s : State) : (signalRing r s).ident = s.ident := by unfold signalRing; dsimp only; split <;> simp
@[simp] theorem signalRing_mail (r : Nat) (s : State) : (signalRing r s).mail = s.mail := by unfold signalRing; dsimp only; split <;> simp
@[simp] theorem signalRing_err (r : Nat) (s : State) : (signalRing r s).err = s.err := by unfold signalRing; dsimp only; split <;> simp
@[simp] theorem signalRing_su (r : Nat) (s : State) : (signalRing r s).su = s.su := by unfold signalRing; dsimp only; split <;> simp
@[simp] theorem signalRing_lar (r : Nat) (s : State) : (signalRing r s).lar = s.lar := by unfold signalRing; dsimp only; split <;> simp
@[simp] theorem signalRing_fab (r : Nat) (s : State) : (signalRing r s).fab = s.fab := by unfold signalRing; dsimp only; split <;> simp
@[simp] theorem signalRing_mon (r : Nat) (s : State) : (signalRing r s).mon = s.mon := by unfold signalRing; dsimp only; split <;> simp
@[simp] theorem signalRing_pow (r : Nat) (s : State) : (signalRing r s).pow = s.pow := by unfold signalRing; dsimp only; split <;> simp
@[simp] theorem signalRing_ten (r : Nat) (s : State) : (signalRing r s).ten = s.ten := by unfold signalRing; dsimp only; split <;> simp
@[simp] theorem signalRing_srv (r : Nat) (s : State) : (signalRing r s).srv = s.srv := by unfold signalRing; dsimp only; split <;> simp
@[simp] theorem signalRing_hw (r : Nat) (s : State) : (signalRing r s).hw = s.hw := by unfold signalRing; dsimp only; split <;> simp
@[simp] theorem signalRing_mem (r : Nat) (s : State) : (signalRing r s).mem = s.mem := by unfold signalRing; dsimp only; split <;> simp
@[simp] theorem signalRing_memKeys (r : Nat) (s : State) : (signalRing r s).memKeys = s.memKeys := by unfold signalRing; dsimp only; split <;> simp
@[simp] theorem signalRing_fresh (r : Nat) (s : State) : (signalRing r s).fresh = s.fresh := by unfold signalRing; dsimp only; split <;> simp
@[simp] theorem mbox_signalRing (r : Nat) (s : State) (j : Nat) : mbox (signalRing r s) j = mbox s j := by simp [mbox]
@[simp] theorem lockReg_signalRing (r : Nat) (s : State) (j : Nat) : lockReg (signalRing r s) j = lockReg s j := by simp [lockReg]
@[simp] theorem cluster_signalRing (r : Nat) (s : State) (j : Nat) : cluster (signalRing r s) j = cluster s j := by simp [cluster]
@[simp] theorem core_signalRing (r : Nat) (s : State) (j : Nat) : core (signalRing r s) j = core s j := by simp [core]
@[simp] theorem engine_signalRing (r : Nat) (s : State) (j : Nat) : engine (signalRing r s) j = engine s j := by simp [engine]
@[simp] theorem plane_signalRing (r : Nat) (s : State) (j : Nat) : plane (signalRing r s) j = plane s j := by simp [plane]
@[simp] theorem entry_signalRing (r : Nat) (s : State) (j : Nat) : entry (signalRing r s) j = entry s j := by simp [entry]
@[simp] theorem brun_signalRing (r : Nat) (s : State) (j : Nat) : brun (signalRing r s) j = brun s j := by simp [brun]
@[simp] theorem ctx_signalRing (r : Nat) (s : State) (j : Nat) : ctx (signalRing r s) j = ctx s j := by simp [ctx]
@[simp] theorem ctxRun_signalRing (r : Nat) (s : State) (j : Nat) : ctxRun (signalRing r s) j = ctxRun s j := by simp [ctxRun]
@[simp] theorem conv_signalRing (r : Nat) (s : State) (j : Nat) : conv (signalRing r s) j = conv s j := by simp [conv]
@[simp] theorem port_signalRing (r : Nat) (s : State) (j : Nat) : port (signalRing r s) j = port s j := by simp [port]

/-! ### putCompl -/

@[simp] theorem putCompl_pending (r : Nat) (c : Compl) (s : State) : (putCompl r c s).pending = s.pending := by simp [putCompl]
@[simp] theorem putCompl_ident (r : Nat) (c : Compl) (s : State) : (putCompl r c s).ident = s.ident := by simp [putCompl]
@[simp] theorem putCompl_mail (r : Nat) (c : Compl) (s : State) : (putCompl r c s).mail = s.mail := by simp [putCompl]
@[simp] theorem putCompl_err (r : Nat) (c : Compl) (s : State) : (putCompl r c s).err = s.err := by simp [putCompl]
@[simp] theorem putCompl_su (r : Nat) (c : Compl) (s : State) : (putCompl r c s).su = s.su := by simp [putCompl]
@[simp] theorem putCompl_lar (r : Nat) (c : Compl) (s : State) : (putCompl r c s).lar = s.lar := by simp [putCompl]
@[simp] theorem putCompl_fab (r : Nat) (c : Compl) (s : State) : (putCompl r c s).fab = s.fab := by simp [putCompl]
@[simp] theorem putCompl_mon (r : Nat) (c : Compl) (s : State) : (putCompl r c s).mon = s.mon := by simp [putCompl]
@[simp] theorem putCompl_pow (r : Nat) (c : Compl) (s : State) : (putCompl r c s).pow = s.pow := by simp [putCompl]
@[simp] theorem putCompl_ten (r : Nat) (c : Compl) (s : State) : (putCompl r c s).ten = s.ten := by simp [putCompl]
@[simp] theorem putCompl_srv (r : Nat) (c : Compl) (s : State) : (putCompl r c s).srv = s.srv := by simp [putCompl]
@[simp] theorem putCompl_hw (r : Nat) (c : Compl) (s : State) : (putCompl r c s).hw = s.hw := by simp [putCompl]
@[simp] theorem putCompl_mem (r : Nat) (c : Compl) (s : State) : (putCompl r c s).mem = s.mem := by simp [putCompl]
@[simp] theorem putCompl_memKeys (r : Nat) (c : Compl) (s : State) : (putCompl r c s).memKeys = s.memKeys := by simp [putCompl]
@[simp] theorem putCompl_fresh (r : Nat) (c : Compl) (s : State) : (putCompl r c s).fresh = s.fresh := by simp [putCompl]
@[simp] theorem mbox_putCompl (r : Nat) (c : Compl) (s : State) (j : Nat) : mbox (putCompl r c s) j = mbox s j := by simp [mbox]
@[simp] theorem lockReg_putCompl (r : Nat) (c : Compl) (s : State) (j : Nat) : lockReg (putCompl r c s) j = lockReg s j := by simp [lockReg]
@[simp] theorem cluster_putCompl (r : Nat) (c : Compl) (s : State) (j : Nat) : cluster (putCompl r c s) j = cluster s j := by simp [cluster]
@[simp] theorem core_putCompl (r : Nat) (c : Compl) (s : State) (j : Nat) : core (putCompl r c s) j = core s j := by simp [core]
@[simp] theorem engine_putCompl (r : Nat) (c : Compl) (s : State) (j : Nat) : engine (putCompl r c s) j = engine s j := by simp [engine]
@[simp] theorem plane_putCompl (r : Nat) (c : Compl) (s : State) (j : Nat) : plane (putCompl r c s) j = plane s j := by simp [plane]
@[simp] theorem entry_putCompl (r : Nat) (c : Compl) (s : State) (j : Nat) : entry (putCompl r c s) j = entry s j := by simp [entry]
@[simp] theorem brun_putCompl (r : Nat) (c : Compl) (s : State) (j : Nat) : brun (putCompl r c s) j = brun s j := by simp [brun]
@[simp] theorem ctx_putCompl (r : Nat) (c : Compl) (s : State) (j : Nat) : ctx (putCompl r c s) j = ctx s j := by simp [ctx]
@[simp] theorem ctxRun_putCompl (r : Nat) (c : Compl) (s : State) (j : Nat) : ctxRun (putCompl r c s) j = ctxRun s j := by simp [ctxRun]
@[simp] theorem conv_putCompl (r : Nat) (c : Compl) (s : State) (j : Nat) : conv (putCompl r c s) j = conv s j := by simp [conv]
@[simp] theorem port_putCompl (r : Nat) (c : Compl) (s : State) (j : Nat) : port (putCompl r c s) j = port s j := by simp [port]

/-! ### hold -/

@[simp] theorem hold_pending (h : HeldOut) (s : State) : (hold h s).pending = s.pending := rfl
@[simp] theorem hold_ident (h : HeldOut) (s : State) : (hold h s).ident = s.ident := rfl
@[simp] theorem hold_mail (h : HeldOut) (s : State) : (hold h s).mail = s.mail := rfl
@[simp] theorem hold_err (h : HeldOut) (s : State) : (hold h s).err = s.err := rfl
@[simp] theorem hold_su (h : HeldOut) (s : State) : (hold h s).su = s.su := rfl
@[simp] theorem hold_lar (h : HeldOut) (s : State) : (hold h s).lar = s.lar := rfl
@[simp] theorem hold_fab (h : HeldOut) (s : State) : (hold h s).fab = s.fab := rfl
@[simp] theorem hold_mon (h : HeldOut) (s : State) : (hold h s).mon = s.mon := rfl
@[simp] theorem hold_pow (h : HeldOut) (s : State) : (hold h s).pow = s.pow := rfl
@[simp] theorem hold_ten (h : HeldOut) (s : State) : (hold h s).ten = s.ten := rfl
@[simp] theorem hold_srv (h : HeldOut) (s : State) : (hold h s).srv = s.srv := rfl
@[simp] theorem hold_hw (h : HeldOut) (s : State) : (hold h s).hw = s.hw := rfl
@[simp] theorem hold_mem (h : HeldOut) (s : State) : (hold h s).mem = s.mem := rfl
@[simp] theorem hold_memKeys (h : HeldOut) (s : State) : (hold h s).memKeys = s.memKeys := rfl
@[simp] theorem hold_out (h : HeldOut) (s : State) : (hold h s).out = s.out := rfl
@[simp] theorem hold_fresh (h : HeldOut) (s : State) : (hold h s).fresh = s.fresh := rfl
@[simp] theorem mbox_hold (h : HeldOut) (s : State) (j : Nat) : mbox (hold h s) j = mbox s j := by simp [mbox]
@[simp] theorem lockReg_hold (h : HeldOut) (s : State) (j : Nat) : lockReg (hold h s) j = lockReg s j := by simp [lockReg]
@[simp] theorem cluster_hold (h : HeldOut) (s : State) (j : Nat) : cluster (hold h s) j = cluster s j := by simp [cluster]
@[simp] theorem core_hold (h : HeldOut) (s : State) (j : Nat) : core (hold h s) j = core s j := by simp [core]
@[simp] theorem engine_hold (h : HeldOut) (s : State) (j : Nat) : engine (hold h s) j = engine s j := by simp [engine]
@[simp] theorem plane_hold (h : HeldOut) (s : State) (j : Nat) : plane (hold h s) j = plane s j := by simp [plane]
@[simp] theorem entry_hold (h : HeldOut) (s : State) (j : Nat) : entry (hold h s) j = entry s j := by simp [entry]
@[simp] theorem brun_hold (h : HeldOut) (s : State) (j : Nat) : brun (hold h s) j = brun s j := by simp [brun]
@[simp] theorem ctx_hold (h : HeldOut) (s : State) (j : Nat) : ctx (hold h s) j = ctx s j := by simp [ctx]
@[simp] theorem ctxRun_hold (h : HeldOut) (s : State) (j : Nat) : ctxRun (hold h s) j = ctxRun s j := by simp [ctxRun]
@[simp] theorem conv_hold (h : HeldOut) (s : State) (j : Nat) : conv (hold h s) j = conv s j := by simp [conv]
@[simp] theorem port_hold (h : HeldOut) (s : State) (j : Nat) : port (hold h s) j = port s j := by simp [port]

/-! ### releaseResv -/

@[simp] theorem releaseResv_pending (r resv done : Nat) (s : State) : (releaseResv r resv done s).pending = s.pending := by unfold releaseResv; split <;> simp [modRing]
@[simp] theorem releaseResv_ident (r resv done : Nat) (s : State) : (releaseResv r resv done s).ident = s.ident := by unfold releaseResv; split <;> simp [modRing]
@[simp] theorem releaseResv_mail (r resv done : Nat) (s : State) : (releaseResv r resv done s).mail = s.mail := by unfold releaseResv; split <;> simp [modRing]
@[simp] theorem releaseResv_err (r resv done : Nat) (s : State) : (releaseResv r resv done s).err = s.err := by unfold releaseResv; split <;> simp [modRing]
@[simp] theorem releaseResv_su (r resv done : Nat) (s : State) : (releaseResv r resv done s).su = s.su := by unfold releaseResv; split <;> simp [modRing]
@[simp] theorem releaseResv_lar (r resv done : Nat) (s : State) : (releaseResv r resv done s).lar = s.lar := by unfold releaseResv; split <;> simp [modRing]
@[simp] theorem releaseResv_fab (r resv done : Nat) (s : State) : (releaseResv r resv done s).fab = s.fab := by unfold releaseResv; split <;> simp [modRing]
@[simp] theorem releaseResv_mon (r resv done : Nat) (s : State) : (releaseResv r resv done s).mon = s.mon := by unfold releaseResv; split <;> simp [modRing]
@[simp] theorem releaseResv_pow (r resv done : Nat) (s : State) : (releaseResv r resv done s).pow = s.pow := by unfold releaseResv; split <;> simp [modRing]
@[simp] theorem releaseResv_ten (r resv done : Nat) (s : State) : (releaseResv r resv done s).ten = s.ten := by unfold releaseResv; split <;> simp [modRing]
@[simp] theorem releaseResv_srv (r resv done : Nat) (s : State) : (releaseResv r resv done s).srv = s.srv := by unfold releaseResv; split <;> simp [modRing]
@[simp] theorem releaseResv_hw (r resv done : Nat) (s : State) : (releaseResv r resv done s).hw = s.hw := by unfold releaseResv; split <;> simp [modRing]
@[simp] theorem releaseResv_mem (r resv done : Nat) (s : State) : (releaseResv r resv done s).mem = s.mem := by unfold releaseResv; split <;> simp [modRing]
@[simp] theorem releaseResv_memKeys (r resv done : Nat) (s : State) : (releaseResv r resv done s).memKeys = s.memKeys := by unfold releaseResv; split <;> simp [modRing]
@[simp] theorem releaseResv_out (r resv done : Nat) (s : State) : (releaseResv r resv done s).out = s.out := by unfold releaseResv; split <;> simp [modRing]
@[simp] theorem releaseResv_fresh (r resv done : Nat) (s : State) : (releaseResv r resv done s).fresh = s.fresh := by unfold releaseResv; split <;> simp [modRing]
@[simp] theorem mbox_releaseResv (r resv done : Nat) (s : State) (j : Nat) : mbox (releaseResv r resv done s) j = mbox s j := by simp [mbox]
@[simp] theorem lockReg_releaseResv (r resv done : Nat) (s : State) (j : Nat) : lockReg (releaseResv r resv done s) j = lockReg s j := by simp [lockReg]
@[simp] theorem cluster_releaseResv (r resv done : Nat) (s : State) (j : Nat) : cluster (releaseResv r resv done s) j = cluster s j := by simp [cluster]
@[simp] theorem core_releaseResv (r resv done : Nat) (s : State) (j : Nat) : core (releaseResv r resv done s) j = core s j := by simp [core]
@[simp] theorem engine_releaseResv (r resv done : Nat) (s : State) (j : Nat) : engine (releaseResv r resv done s) j = engine s j := by simp [engine]
@[simp] theorem plane_releaseResv (r resv done : Nat) (s : State) (j : Nat) : plane (releaseResv r resv done s) j = plane s j := by simp [plane]
@[simp] theorem entry_releaseResv (r resv done : Nat) (s : State) (j : Nat) : entry (releaseResv r resv done s) j = entry s j := by simp [entry]
@[simp] theorem brun_releaseResv (r resv done : Nat) (s : State) (j : Nat) : brun (releaseResv r resv done s) j = brun s j := by simp [brun]
@[simp] theorem ctx_releaseResv (r resv done : Nat) (s : State) (j : Nat) : ctx (releaseResv r resv done s) j = ctx s j := by simp [ctx]
@[simp] theorem ctxRun_releaseResv (r resv done : Nat) (s : State) (j : Nat) : ctxRun (releaseResv r resv done s) j = ctxRun s j := by simp [ctxRun]
@[simp] theorem conv_releaseResv (r resv done : Nat) (s : State) (j : Nat) : conv (releaseResv r resv done s) j = conv s j := by simp [conv]
@[simp] theorem port_releaseResv (r resv done : Nat) (s : State) (j : Nat) : port (releaseResv r resv done s) j = port s j := by simp [port]

/-! ### putDue -/

@[simp] theorem putDue_pending (r : Nat) (c : Compl) (s : State) : (putDue r c s).pending = s.pending := by unfold putDue; dsimp only; split_ifs <;> simp
@[simp] theorem putDue_ident (r : Nat) (c : Compl) (s : State) : (putDue r c s).ident = s.ident := by unfold putDue; dsimp only; split_ifs <;> simp
@[simp] theorem putDue_mail (r : Nat) (c : Compl) (s : State) : (putDue r c s).mail = s.mail := by unfold putDue; dsimp only; split_ifs <;> simp
@[simp] theorem putDue_err (r : Nat) (c : Compl) (s : State) : (putDue r c s).err = s.err := by unfold putDue; dsimp only; split_ifs <;> simp
@[simp] theorem putDue_su (r : Nat) (c : Compl) (s : State) : (putDue r c s).su = s.su := by unfold putDue; dsimp only; split_ifs <;> simp
@[simp] theorem putDue_lar (r : Nat) (c : Compl) (s : State) : (putDue r c s).lar = s.lar := by unfold putDue; dsimp only; split_ifs <;> simp
@[simp] theorem putDue_fab (r : Nat) (c : Compl) (s : State) : (putDue r c s).fab = s.fab := by unfold putDue; dsimp only; split_ifs <;> simp
@[simp] theorem putDue_mon (r : Nat) (c : Compl) (s : State) : (putDue r c s).mon = s.mon := by unfold putDue; dsimp only; split_ifs <;> simp
@[simp] theorem putDue_pow (r : Nat) (c : Compl) (s : State) : (putDue r c s).pow = s.pow := by unfold putDue; dsimp only; split_ifs <;> simp
@[simp] theorem putDue_ten (r : Nat) (c : Compl) (s : State) : (putDue r c s).ten = s.ten := by unfold putDue; dsimp only; split_ifs <;> simp
@[simp] theorem putDue_srv (r : Nat) (c : Compl) (s : State) : (putDue r c s).srv = s.srv := by unfold putDue; dsimp only; split_ifs <;> simp
@[simp] theorem putDue_hw (r : Nat) (c : Compl) (s : State) : (putDue r c s).hw = s.hw := by unfold putDue; dsimp only; split_ifs <;> simp
@[simp] theorem putDue_mem (r : Nat) (c : Compl) (s : State) : (putDue r c s).mem = s.mem := by unfold putDue; dsimp only; split_ifs <;> simp
@[simp] theorem putDue_memKeys (r : Nat) (c : Compl) (s : State) : (putDue r c s).memKeys = s.memKeys := by unfold putDue; dsimp only; split_ifs <;> simp
@[simp] theorem putDue_fresh (r : Nat) (c : Compl) (s : State) : (putDue r c s).fresh = s.fresh := by unfold putDue; dsimp only; split_ifs <;> simp
@[simp] theorem mbox_putDue (r : Nat) (c : Compl) (s : State) (j : Nat) : mbox (putDue r c s) j = mbox s j := by simp [mbox]
@[simp] theorem lockReg_putDue (r : Nat) (c : Compl) (s : State) (j : Nat) : lockReg (putDue r c s) j = lockReg s j := by simp [lockReg]
@[simp] theorem cluster_putDue (r : Nat) (c : Compl) (s : State) (j : Nat) : cluster (putDue r c s) j = cluster s j := by simp [cluster]
@[simp] theorem core_putDue (r : Nat) (c : Compl) (s : State) (j : Nat) : core (putDue r c s) j = core s j := by simp [core]
@[simp] theorem engine_putDue (r : Nat) (c : Compl) (s : State) (j : Nat) : engine (putDue r c s) j = engine s j := by simp [engine]
@[simp] theorem plane_putDue (r : Nat) (c : Compl) (s : State) (j : Nat) : plane (putDue r c s) j = plane s j := by simp [plane]
@[simp] theorem entry_putDue (r : Nat) (c : Compl) (s : State) (j : Nat) : entry (putDue r c s) j = entry s j := by simp [entry]
@[simp] theorem brun_putDue (r : Nat) (c : Compl) (s : State) (j : Nat) : brun (putDue r c s) j = brun s j := by simp [brun]
@[simp] theorem ctx_putDue (r : Nat) (c : Compl) (s : State) (j : Nat) : ctx (putDue r c s) j = ctx s j := by simp [ctx]
@[simp] theorem ctxRun_putDue (r : Nat) (c : Compl) (s : State) (j : Nat) : ctxRun (putDue r c s) j = ctxRun s j := by simp [ctxRun]
@[simp] theorem conv_putDue (r : Nat) (c : Compl) (s : State) (j : Nat) : conv (putDue r c s) j = conv s j := by simp [conv]
@[simp] theorem port_putDue (r : Nat) (c : Compl) (s : State) (j : Nat) : port (putDue r c s) j = port s j := by simp [port]

/-! ### completeWith -/

@[simp] theorem completeWith_pending (r resv done : Nat) (c : Compl) (s : State) : (completeWith r resv done c s).pending = s.pending := by unfold completeWith; split <;> simp
@[simp] theorem completeWith_ident (r resv done : Nat) (c : Compl) (s : State) : (completeWith r resv done c s).ident = s.ident := by unfold completeWith; split <;> simp
@[simp] theorem completeWith_mail (r resv done : Nat) (c : Compl) (s : State) : (completeWith r resv done c s).mail = s.mail := by unfold completeWith; split <;> simp
@[simp] theorem completeWith_err (r resv done : Nat) (c : Compl) (s : State) : (completeWith r resv done c s).err = s.err := by unfold completeWith; split <;> simp
@[simp] theorem completeWith_su (r resv done : Nat) (c : Compl) (s : State) : (completeWith r resv done c s).su = s.su := by unfold completeWith; split <;> simp
@[simp] theorem completeWith_lar (r resv done : Nat) (c : Compl) (s : State) : (completeWith r resv done c s).lar = s.lar := by unfold completeWith; split <;> simp
@[simp] theorem completeWith_fab (r resv done : Nat) (c : Compl) (s : State) : (completeWith r resv done c s).fab = s.fab := by unfold completeWith; split <;> simp
@[simp] theorem completeWith_mon (r resv done : Nat) (c : Compl) (s : State) : (completeWith r resv done c s).mon = s.mon := by unfold completeWith; split <;> simp
@[simp] theorem completeWith_pow (r resv done : Nat) (c : Compl) (s : State) : (completeWith r resv done c s).pow = s.pow := by unfold completeWith; split <;> simp
@[simp] theorem completeWith_ten (r resv done : Nat) (c : Compl) (s : State) : (completeWith r resv done c s).ten = s.ten := by unfold completeWith; split <;> simp
@[simp] theorem completeWith_srv (r resv done : Nat) (c : Compl) (s : State) : (completeWith r resv done c s).srv = s.srv := by unfold completeWith; split <;> simp
@[simp] theorem completeWith_hw (r resv done : Nat) (c : Compl) (s : State) : (completeWith r resv done c s).hw = s.hw := by unfold completeWith; split <;> simp
@[simp] theorem completeWith_mem (r resv done : Nat) (c : Compl) (s : State) : (completeWith r resv done c s).mem = s.mem := by unfold completeWith; split <;> simp
@[simp] theorem completeWith_memKeys (r resv done : Nat) (c : Compl) (s : State) : (completeWith r resv done c s).memKeys = s.memKeys := by unfold completeWith; split <;> simp
@[simp] theorem completeWith_fresh (r resv done : Nat) (c : Compl) (s : State) : (completeWith r resv done c s).fresh = s.fresh := by unfold completeWith; split <;> simp
@[simp] theorem mbox_completeWith (r resv done : Nat) (c : Compl) (s : State) (j : Nat) : mbox (completeWith r resv done c s) j = mbox s j := by simp [mbox]
@[simp] theorem lockReg_completeWith (r resv done : Nat) (c : Compl) (s : State) (j : Nat) : lockReg (completeWith r resv done c s) j = lockReg s j := by simp [lockReg]
@[simp] theorem cluster_completeWith (r resv done : Nat) (c : Compl) (s : State) (j : Nat) : cluster (completeWith r resv done c s) j = cluster s j := by simp [cluster]
@[simp] theorem core_completeWith (r resv done : Nat) (c : Compl) (s : State) (j : Nat) : core (completeWith r resv done c s) j = core s j := by simp [core]
@[simp] theorem engine_completeWith (r resv done : Nat) (c : Compl) (s : State) (j : Nat) : engine (completeWith r resv done c s) j = engine s j := by simp [engine]
@[simp] theorem plane_completeWith (r resv done : Nat) (c : Compl) (s : State) (j : Nat) : plane (completeWith r resv done c s) j = plane s j := by simp [plane]
@[simp] theorem entry_completeWith (r resv done : Nat) (c : Compl) (s : State) (j : Nat) : entry (completeWith r resv done c s) j = entry s j := by simp [entry]
@[simp] theorem brun_completeWith (r resv done : Nat) (c : Compl) (s : State) (j : Nat) : brun (completeWith r resv done c s) j = brun s j := by simp [brun]
@[simp] theorem ctx_completeWith (r resv done : Nat) (c : Compl) (s : State) (j : Nat) : ctx (completeWith r resv done c s) j = ctx s j := by simp [ctx]
@[simp] theorem ctxRun_completeWith (r resv done : Nat) (c : Compl) (s : State) (j : Nat) : ctxRun (completeWith r resv done c s) j = ctxRun s j := by simp [ctxRun]
@[simp] theorem conv_completeWith (r resv done : Nat) (c : Compl) (s : State) (j : Nat) : conv (completeWith r resv done c s) j = conv s j := by simp [conv]
@[simp] theorem port_completeWith (r resv done : Nat) (c : Compl) (s : State) (j : Nat) : port (completeWith r resv done c s) j = port s j := by simp [port]

/-! ### complete -/

@[simp] theorem complete_pending (r : Nat) (c : Compl) (s : State) : (complete r c s).pending = s.pending := by simp [complete]
@[simp] theorem complete_ident (r : Nat) (c : Compl) (s : State) : (complete r c s).ident = s.ident := by simp [complete]
@[simp] theorem complete_mail (r : Nat) (c : Compl) (s : State) : (complete r c s).mail = s.mail := by simp [complete]
@[simp] theorem complete_err (r : Nat) (c : Compl) (s : State) : (complete r c s).err = s.err := by simp [complete]
@[simp] theorem complete_su (r : Nat) (c : Compl) (s : State) : (complete r c s).su = s.su := by simp [complete]
@[simp] theorem complete_lar (r : Nat) (c : Compl) (s : State) : (complete r c s).lar = s.lar := by simp [complete]
@[simp] theorem complete_fab (r : Nat) (c : Compl) (s : State) : (complete r c s).fab = s.fab := by simp [complete]
@[simp] theorem complete_mon (r : Nat) (c : Compl) (s : State) : (complete r c s).mon = s.mon := by simp [complete]
@[simp] theorem complete_pow (r : Nat) (c : Compl) (s : State) : (complete r c s).pow = s.pow := by simp [complete]
@[simp] theorem complete_ten (r : Nat) (c : Compl) (s : State) : (complete r c s).ten = s.ten := by simp [complete]
@[simp] theorem complete_srv (r : Nat) (c : Compl) (s : State) : (complete r c s).srv = s.srv := by simp [complete]
@[simp] theorem complete_hw (r : Nat) (c : Compl) (s : State) : (complete r c s).hw = s.hw := by simp [complete]
@[simp] theorem complete_mem (r : Nat) (c : Compl) (s : State) : (complete r c s).mem = s.mem := by simp [complete]
@[simp] theorem complete_memKeys (r : Nat) (c : Compl) (s : State) : (complete r c s).memKeys = s.memKeys := by simp [complete]
@[simp] theorem complete_fresh (r : Nat) (c : Compl) (s : State) : (complete r c s).fresh = s.fresh := by simp [complete]
@[simp] theorem mbox_complete (r : Nat) (c : Compl) (s : State) (j : Nat) : mbox (complete r c s) j = mbox s j := by simp [mbox]
@[simp] theorem lockReg_complete (r : Nat) (c : Compl) (s : State) (j : Nat) : lockReg (complete r c s) j = lockReg s j := by simp [lockReg]
@[simp] theorem cluster_complete (r : Nat) (c : Compl) (s : State) (j : Nat) : cluster (complete r c s) j = cluster s j := by simp [cluster]
@[simp] theorem core_complete (r : Nat) (c : Compl) (s : State) (j : Nat) : core (complete r c s) j = core s j := by simp [core]
@[simp] theorem engine_complete (r : Nat) (c : Compl) (s : State) (j : Nat) : engine (complete r c s) j = engine s j := by simp [engine]
@[simp] theorem plane_complete (r : Nat) (c : Compl) (s : State) (j : Nat) : plane (complete r c s) j = plane s j := by simp [plane]
@[simp] theorem entry_complete (r : Nat) (c : Compl) (s : State) (j : Nat) : entry (complete r c s) j = entry s j := by simp [entry]
@[simp] theorem brun_complete (r : Nat) (c : Compl) (s : State) (j : Nat) : brun (complete r c s) j = brun s j := by simp [brun]
@[simp] theorem ctx_complete (r : Nat) (c : Compl) (s : State) (j : Nat) : ctx (complete r c s) j = ctx s j := by simp [ctx]
@[simp] theorem ctxRun_complete (r : Nat) (c : Compl) (s : State) (j : Nat) : ctxRun (complete r c s) j = ctxRun s j := by simp [ctxRun]
@[simp] theorem conv_complete (r : Nat) (c : Compl) (s : State) (j : Nat) : conv (complete r c s) j = conv s j := by simp [conv]
@[simp] theorem port_complete (r : Nat) (c : Compl) (s : State) (j : Nat) : port (complete r c s) j = port s j := by simp [port]

/-! ### finish -/

@[simp] theorem finish_pending (r n : Nat) (c : Compl) (s : State) : (finish r n c s).pending = s.pending := by simp [finish]
@[simp] theorem finish_ident (r n : Nat) (c : Compl) (s : State) : (finish r n c s).ident = s.ident := by simp [finish]
@[simp] theorem finish_mail (r n : Nat) (c : Compl) (s : State) : (finish r n c s).mail = s.mail := by simp [finish]
@[simp] theorem finish_err (r n : Nat) (c : Compl) (s : State) : (finish r n c s).err = s.err := by simp [finish]
@[simp] theorem finish_su (r n : Nat) (c : Compl) (s : State) : (finish r n c s).su = s.su := by simp [finish]
@[simp] theorem finish_lar (r n : Nat) (c : Compl) (s : State) : (finish r n c s).lar = s.lar := by simp [finish]
@[simp] theorem finish_fab (r n : Nat) (c : Compl) (s : State) : (finish r n c s).fab = s.fab := by simp [finish]
@[simp] theorem finish_mon (r n : Nat) (c : Compl) (s : State) : (finish r n c s).mon = s.mon := by simp [finish]
@[simp] theorem finish_pow (r n : Nat) (c : Compl) (s : State) : (finish r n c s).pow = s.pow := by simp [finish]
@[simp] theorem finish_ten (r n : Nat) (c : Compl) (s : State) : (finish r n c s).ten = s.ten := by simp [finish]
@[simp] theorem finish_srv (r n : Nat) (c : Compl) (s : State) : (finish r n c s).srv = s.srv := by simp [finish]
@[simp] theorem finish_hw (r n : Nat) (c : Compl) (s : State) : (finish r n c s).hw = s.hw := by simp [finish]
@[simp] theorem finish_mem (r n : Nat) (c : Compl) (s : State) : (finish r n c s).mem = s.mem := by simp [finish]
@[simp] theorem finish_memKeys (r n : Nat) (c : Compl) (s : State) : (finish r n c s).memKeys = s.memKeys := by simp [finish]
@[simp] theorem finish_fresh (r n : Nat) (c : Compl) (s : State) : (finish r n c s).fresh = s.fresh := by simp [finish]
@[simp] theorem mbox_finish (r n : Nat) (c : Compl) (s : State) (j : Nat) : mbox (finish r n c s) j = mbox s j := by simp [mbox]
@[simp] theorem lockReg_finish (r n : Nat) (c : Compl) (s : State) (j : Nat) : lockReg (finish r n c s) j = lockReg s j := by simp [lockReg]
@[simp] theorem cluster_finish (r n : Nat) (c : Compl) (s : State) (j : Nat) : cluster (finish r n c s) j = cluster s j := by simp [cluster]
@[simp] theorem core_finish (r n : Nat) (c : Compl) (s : State) (j : Nat) : core (finish r n c s) j = core s j := by simp [core]
@[simp] theorem engine_finish (r n : Nat) (c : Compl) (s : State) (j : Nat) : engine (finish r n c s) j = engine s j := by simp [engine]
@[simp] theorem plane_finish (r n : Nat) (c : Compl) (s : State) (j : Nat) : plane (finish r n c s) j = plane s j := by simp [plane]
@[simp] theorem entry_finish (r n : Nat) (c : Compl) (s : State) (j : Nat) : entry (finish r n c s) j = entry s j := by simp [entry]
@[simp] theorem brun_finish (r n : Nat) (c : Compl) (s : State) (j : Nat) : brun (finish r n c s) j = brun s j := by simp [brun]
@[simp] theorem ctx_finish (r n : Nat) (c : Compl) (s : State) (j : Nat) : ctx (finish r n c s) j = ctx s j := by simp [ctx]
@[simp] theorem ctxRun_finish (r n : Nat) (c : Compl) (s : State) (j : Nat) : ctxRun (finish r n c s) j = ctxRun s j := by simp [ctxRun]
@[simp] theorem conv_finish (r n : Nat) (c : Compl) (s : State) (j : Nat) : conv (finish r n c s) j = conv s j := by simp [conv]
@[simp] theorem port_finish (r n : Nat) (c : Compl) (s : State) (j : Nat) : port (finish r n c s) j = port s j := by simp [port]

/-! ### bump -/

@[simp] theorem bump_pending (p off n : Nat) (s : State) : (bump p off n s).pending = s.pending := by unfold bump; split <;> simp
@[simp] theorem bump_ident (p off n : Nat) (s : State) : (bump p off n s).ident = s.ident := by unfold bump; split <;> simp
@[simp] theorem bump_mail (p off n : Nat) (s : State) : (bump p off n s).mail = s.mail := by unfold bump; split <;> simp
@[simp] theorem bump_err (p off n : Nat) (s : State) : (bump p off n s).err = s.err := by unfold bump; split <;> simp
@[simp] theorem bump_su (p off n : Nat) (s : State) : (bump p off n s).su = s.su := by unfold bump; split <;> simp
@[simp] theorem bump_lar (p off n : Nat) (s : State) : (bump p off n s).lar = s.lar := by unfold bump; split <;> simp
@[simp] theorem bump_host (p off n : Nat) (s : State) : (bump p off n s).host = s.host := by unfold bump; split <;> simp
@[simp] theorem bump_fab (p off n : Nat) (s : State) : (bump p off n s).fab = s.fab := by unfold bump; split <;> simp
@[simp] theorem bump_mon (p off n : Nat) (s : State) : (bump p off n s).mon = s.mon := by unfold bump; split <;> simp
@[simp] theorem bump_pow (p off n : Nat) (s : State) : (bump p off n s).pow = s.pow := by unfold bump; split <;> simp
@[simp] theorem bump_ten (p off n : Nat) (s : State) : (bump p off n s).ten = s.ten := by unfold bump; split <;> simp
@[simp] theorem bump_srv (p off n : Nat) (s : State) : (bump p off n s).srv = s.srv := by unfold bump; split <;> simp
@[simp] theorem bump_mem (p off n : Nat) (s : State) : (bump p off n s).mem = s.mem := by unfold bump; split <;> simp
@[simp] theorem bump_memKeys (p off n : Nat) (s : State) : (bump p off n s).memKeys = s.memKeys := by unfold bump; split <;> simp
@[simp] theorem bump_out (p off n : Nat) (s : State) : (bump p off n s).out = s.out := by unfold bump; split <;> simp
@[simp] theorem bump_fresh (p off n : Nat) (s : State) : (bump p off n s).fresh = s.fresh := by unfold bump; split <;> simp
@[simp] theorem ring_bump (p off n : Nat) (s : State) (j : Nat) : ring (bump p off n s) j = ring s j := by simp [ring]
@[simp] theorem mbox_bump (p off n : Nat) (s : State) (j : Nat) : mbox (bump p off n s) j = mbox s j := by simp [mbox]
@[simp] theorem lockReg_bump (p off n : Nat) (s : State) (j : Nat) : lockReg (bump p off n s) j = lockReg s j := by simp [lockReg]
@[simp] theorem entry_bump (p off n : Nat) (s : State) (j : Nat) : entry (bump p off n s) j = entry s j := by simp [entry]
@[simp] theorem brun_bump (p off n : Nat) (s : State) (j : Nat) : brun (bump p off n s) j = brun s j := by simp [brun]
@[simp] theorem ctx_bump (p off n : Nat) (s : State) (j : Nat) : ctx (bump p off n s) j = ctx s j := by simp [ctx]
@[simp] theorem ctxRun_bump (p off n : Nat) (s : State) (j : Nat) : ctxRun (bump p off n s) j = ctxRun s j := by simp [ctxRun]
@[simp] theorem conv_bump (p off n : Nat) (s : State) (j : Nat) : conv (bump p off n s) j = conv s j := by simp [conv]
@[simp] theorem port_bump (p off n : Nat) (s : State) (j : Nat) : port (bump p off n s) j = port s j := by simp [port]

/-! ### setWin -/

@[simp] theorem setWin_pending (p off : Nat) (v : W64) (s : State) : (setWin p off v s).pending = s.pending := by unfold setWin; split <;> simp
@[simp] theorem setWin_ident (p off : Nat) (v : W64) (s : State) : (setWin p off v s).ident = s.ident := by unfold setWin; split <;> simp
@[simp] theorem setWin_mail (p off : Nat) (v : W64) (s : State) : (setWin p off v s).mail = s.mail := by unfold setWin; split <;> simp
@[simp] theorem setWin_err (p off : Nat) (v : W64) (s : State) : (setWin p off v s).err = s.err := by unfold setWin; split <;> simp
@[simp] theorem setWin_su (p off : Nat) (v : W64) (s : State) : (setWin p off v s).su = s.su := by unfold setWin; split <;> simp
@[simp] theorem setWin_lar (p off : Nat) (v : W64) (s : State) : (setWin p off v s).lar = s.lar := by unfold setWin; split <;> simp
@[simp] theorem setWin_host (p off : Nat) (v : W64) (s : State) : (setWin p off v s).host = s.host := by unfold setWin; split <;> simp
@[simp] theorem setWin_fab (p off : Nat) (v : W64) (s : State) : (setWin p off v s).fab = s.fab := by unfold setWin; split <;> simp
@[simp] theorem setWin_mon (p off : Nat) (v : W64) (s : State) : (setWin p off v s).mon = s.mon := by unfold setWin; split <;> simp
@[simp] theorem setWin_pow (p off : Nat) (v : W64) (s : State) : (setWin p off v s).pow = s.pow := by unfold setWin; split <;> simp
@[simp] theorem setWin_ten (p off : Nat) (v : W64) (s : State) : (setWin p off v s).ten = s.ten := by unfold setWin; split <;> simp
@[simp] theorem setWin_srv (p off : Nat) (v : W64) (s : State) : (setWin p off v s).srv = s.srv := by unfold setWin; split <;> simp
@[simp] theorem setWin_mem (p off : Nat) (v : W64) (s : State) : (setWin p off v s).mem = s.mem := by unfold setWin; split <;> simp
@[simp] theorem setWin_memKeys (p off : Nat) (v : W64) (s : State) : (setWin p off v s).memKeys = s.memKeys := by unfold setWin; split <;> simp
@[simp] theorem setWin_out (p off : Nat) (v : W64) (s : State) : (setWin p off v s).out = s.out := by unfold setWin; split <;> simp
@[simp] theorem setWin_fresh (p off : Nat) (v : W64) (s : State) : (setWin p off v s).fresh = s.fresh := by unfold setWin; split <;> simp
@[simp] theorem ring_setWin (p off : Nat) (v : W64) (s : State) (j : Nat) : ring (setWin p off v s) j = ring s j := by simp [ring]
@[simp] theorem mbox_setWin (p off : Nat) (v : W64) (s : State) (j : Nat) : mbox (setWin p off v s) j = mbox s j := by simp [mbox]
@[simp] theorem lockReg_setWin (p off : Nat) (v : W64) (s : State) (j : Nat) : lockReg (setWin p off v s) j = lockReg s j := by simp [lockReg]
@[simp] theorem entry_setWin (p off : Nat) (v : W64) (s : State) (j : Nat) : entry (setWin p off v s) j = entry s j := by simp [entry]
@[simp] theorem brun_setWin (p off : Nat) (v : W64) (s : State) (j : Nat) : brun (setWin p off v s) j = brun s j := by simp [brun]
@[simp] theorem ctx_setWin (p off : Nat) (v : W64) (s : State) (j : Nat) : ctx (setWin p off v s) j = ctx s j := by simp [ctx]
@[simp] theorem ctxRun_setWin (p off : Nat) (v : W64) (s : State) (j : Nat) : ctxRun (setWin p off v s) j = ctxRun s j := by simp [ctxRun]
@[simp] theorem conv_setWin (p off : Nat) (v : W64) (s : State) (j : Nat) : conv (setWin p off v s) j = conv s j := by simp [conv]
@[simp] theorem port_setWin (p off : Nat) (v : W64) (s : State) (j : Nat) : port (setWin p off v s) j = port s j := by simp [port]

@[simp] theorem core_bump (p off n : Nat) (s : State) (j : Nat) : core (bump p off n s) j = core s j := by unfold bump; split <;> simp
@[simp] theorem engine_bump (p off n : Nat) (s : State) (j : Nat) : engine (bump p off n s) j = engine s j := by unfold bump; split <;> simp
@[simp] theorem plane_bump (p off n : Nat) (s : State) (j : Nat) : plane (bump p off n s) j = plane s j := by unfold bump; split <;> simp
@[simp] theorem bump_hw_cores (p off n : Nat) (s : State) : (bump p off n s).hw.cores = s.hw.cores := by unfold bump; split <;> simp
@[simp] theorem bump_hw_engines (p off n : Nat) (s : State) : (bump p off n s).hw.engines = s.hw.engines := by unfold bump; split <;> simp
@[simp] theorem bump_hw_planes (p off n : Nat) (s : State) : (bump p off n s).hw.planes = s.hw.planes := by unfold bump; split <;> simp
@[simp] theorem bump_hw_masters (p off n : Nat) (s : State) : (bump p off n s).hw.masters = s.hw.masters := by unfold bump; split <;> simp
@[simp] theorem bump_hw_outliers (p off n : Nat) (s : State) : (bump p off n s).hw.outliers = s.hw.outliers := by unfold bump; split <;> simp
@[simp] theorem bump_hw_cellUsed (p off n : Nat) (s : State) : (bump p off n s).hw.cellUsed = s.hw.cellUsed := by unfold bump; split <;> simp
@[simp] theorem bump_hw_held (p off n : Nat) (s : State) : (bump p off n s).hw.held = s.hw.held := by unfold bump; split <;> simp
@[simp] theorem bump_hw_stretchPlanes (p off n : Nat) (s : State) : (bump p off n s).hw.stretchPlanes = s.hw.stretchPlanes := by unfold bump; split <;> simp
@[simp] theorem core_setWin (p off : Nat) (v : W64) (s : State) (j : Nat) : core (setWin p off v s) j = core s j := by unfold setWin; split <;> simp
@[simp] theorem engine_setWin (p off : Nat) (v : W64) (s : State) (j : Nat) : engine (setWin p off v s) j = engine s j := by unfold setWin; split <;> simp
@[simp] theorem plane_setWin (p off : Nat) (v : W64) (s : State) (j : Nat) : plane (setWin p off v s) j = plane s j := by unfold setWin; split <;> simp
@[simp] theorem setWin_hw_cores (p off : Nat) (v : W64) (s : State) : (setWin p off v s).hw.cores = s.hw.cores := by unfold setWin; split <;> simp
@[simp] theorem setWin_hw_engines (p off : Nat) (v : W64) (s : State) : (setWin p off v s).hw.engines = s.hw.engines := by unfold setWin; split <;> simp
@[simp] theorem setWin_hw_planes (p off : Nat) (v : W64) (s : State) : (setWin p off v s).hw.planes = s.hw.planes := by unfold setWin; split <;> simp
@[simp] theorem setWin_hw_masters (p off : Nat) (v : W64) (s : State) : (setWin p off v s).hw.masters = s.hw.masters := by unfold setWin; split <;> simp
@[simp] theorem setWin_hw_outliers (p off : Nat) (v : W64) (s : State) : (setWin p off v s).hw.outliers = s.hw.outliers := by unfold setWin; split <;> simp
@[simp] theorem setWin_hw_cellUsed (p off : Nat) (v : W64) (s : State) : (setWin p off v s).hw.cellUsed = s.hw.cellUsed := by unfold setWin; split <;> simp
@[simp] theorem setWin_hw_held (p off : Nat) (v : W64) (s : State) : (setWin p off v s).hw.held = s.hw.held := by unfold setWin; split <;> simp
@[simp] theorem setWin_hw_stretchPlanes (p off : Nat) (v : W64) (s : State) : (setWin p off v s).hw.stretchPlanes = s.hw.stretchPlanes := by unfold setWin; split <;> simp

/-! ### ownerFault -/

@[simp] theorem ownerFault_pending (b f n : Nat) (w : Bool) (r : ErrRec) (s : State) : (ownerFault b f n w r s).pending = s.pending := by simp [ownerFault]
@[simp] theorem ownerFault_ident (b f n : Nat) (w : Bool) (r : ErrRec) (s : State) : (ownerFault b f n w r s).ident = s.ident := by simp [ownerFault]
@[simp] theorem ownerFault_mail (b f n : Nat) (w : Bool) (r : ErrRec) (s : State) : (ownerFault b f n w r s).mail = s.mail := by simp [ownerFault]
@[simp] theorem ownerFault_su (b f n : Nat) (w : Bool) (r : ErrRec) (s : State) : (ownerFault b f n w r s).su = s.su := by simp [ownerFault]
@[simp] theorem ownerFault_host (b f n : Nat) (w : Bool) (r : ErrRec) (s : State) : (ownerFault b f n w r s).host = s.host := by simp [ownerFault]
@[simp] theorem ownerFault_fab (b f n : Nat) (w : Bool) (r : ErrRec) (s : State) : (ownerFault b f n w r s).fab = s.fab := by simp [ownerFault]
@[simp] theorem ownerFault_mon (b f n : Nat) (w : Bool) (r : ErrRec) (s : State) : (ownerFault b f n w r s).mon = s.mon := by simp [ownerFault]
@[simp] theorem ownerFault_pow (b f n : Nat) (w : Bool) (r : ErrRec) (s : State) : (ownerFault b f n w r s).pow = s.pow := by simp [ownerFault]
@[simp] theorem ownerFault_srv (b f n : Nat) (w : Bool) (r : ErrRec) (s : State) : (ownerFault b f n w r s).srv = s.srv := by simp [ownerFault]
@[simp] theorem ownerFault_hw (b f n : Nat) (w : Bool) (r : ErrRec) (s : State) : (ownerFault b f n w r s).hw = s.hw := by simp [ownerFault]
@[simp] theorem ownerFault_mem (b f n : Nat) (w : Bool) (r : ErrRec) (s : State) : (ownerFault b f n w r s).mem = s.mem := by simp [ownerFault]
@[simp] theorem ownerFault_memKeys (b f n : Nat) (w : Bool) (r : ErrRec) (s : State) : (ownerFault b f n w r s).memKeys = s.memKeys := by simp [ownerFault]
@[simp] theorem ownerFault_out (b f n : Nat) (w : Bool) (r : ErrRec) (s : State) : (ownerFault b f n w r s).out = s.out := by simp [ownerFault]
@[simp] theorem ownerFault_fresh (b f n : Nat) (w : Bool) (r : ErrRec) (s : State) : (ownerFault b f n w r s).fresh = s.fresh := by simp [ownerFault]
@[simp] theorem ring_ownerFault (b f n : Nat) (w : Bool) (r : ErrRec) (s : State) (j : Nat) : ring (ownerFault b f n w r s) j = ring s j := by simp [ring]
@[simp] theorem mbox_ownerFault (b f n : Nat) (w : Bool) (r : ErrRec) (s : State) (j : Nat) : mbox (ownerFault b f n w r s) j = mbox s j := by simp [mbox]
@[simp] theorem lockReg_ownerFault (b f n : Nat) (w : Bool) (r : ErrRec) (s : State) (j : Nat) : lockReg (ownerFault b f n w r s) j = lockReg s j := by simp [lockReg]
@[simp] theorem cluster_ownerFault (b f n : Nat) (w : Bool) (r : ErrRec) (s : State) (j : Nat) : cluster (ownerFault b f n w r s) j = cluster s j := by simp [cluster]
@[simp] theorem core_ownerFault (b f n : Nat) (w : Bool) (r : ErrRec) (s : State) (j : Nat) : core (ownerFault b f n w r s) j = core s j := by simp [core]
@[simp] theorem engine_ownerFault (b f n : Nat) (w : Bool) (r : ErrRec) (s : State) (j : Nat) : engine (ownerFault b f n w r s) j = engine s j := by simp [engine]
@[simp] theorem plane_ownerFault (b f n : Nat) (w : Bool) (r : ErrRec) (s : State) (j : Nat) : plane (ownerFault b f n w r s) j = plane s j := by simp [plane]
@[simp] theorem ctx_ownerFault (b f n : Nat) (w : Bool) (r : ErrRec) (s : State) (j : Nat) : ctx (ownerFault b f n w r s) j = ctx s j := by simp [ctx]
@[simp] theorem ctxRun_ownerFault (b f n : Nat) (w : Bool) (r : ErrRec) (s : State) (j : Nat) : ctxRun (ownerFault b f n w r s) j = ctxRun s j := by simp [ctxRun]
@[simp] theorem conv_ownerFault (b f n : Nat) (w : Bool) (r : ErrRec) (s : State) (j : Nat) : conv (ownerFault b f n w r s) j = conv s j := by simp [conv]
@[simp] theorem port_ownerFault (b f n : Nat) (w : Bool) (r : ErrRec) (s : State) (j : Nat) : port (ownerFault b f n w r s) j = port s j := by simp [port]

/-! ### memFault -/

@[simp] theorem memFault_pending (r : ErrRec) (u : UnitFault) (s : State) : (memFault r u s).pending = s.pending := by cases u <;> simp [memFault]
@[simp] theorem memFault_ident (r : ErrRec) (u : UnitFault) (s : State) : (memFault r u s).ident = s.ident := by cases u <;> simp [memFault]
@[simp] theorem memFault_mail (r : ErrRec) (u : UnitFault) (s : State) : (memFault r u s).mail = s.mail := by cases u <;> simp [memFault]
@[simp] theorem memFault_su (r : ErrRec) (u : UnitFault) (s : State) : (memFault r u s).su = s.su := by cases u <;> simp [memFault]
@[simp] theorem memFault_host (r : ErrRec) (u : UnitFault) (s : State) : (memFault r u s).host = s.host := by cases u <;> simp [memFault]
@[simp] theorem memFault_fab (r : ErrRec) (u : UnitFault) (s : State) : (memFault r u s).fab = s.fab := by cases u <;> simp [memFault]
@[simp] theorem memFault_mon (r : ErrRec) (u : UnitFault) (s : State) : (memFault r u s).mon = s.mon := by cases u <;> simp [memFault]
@[simp] theorem memFault_pow (r : ErrRec) (u : UnitFault) (s : State) : (memFault r u s).pow = s.pow := by cases u <;> simp [memFault]
@[simp] theorem memFault_ten (r : ErrRec) (u : UnitFault) (s : State) : (memFault r u s).ten = s.ten := by cases u <;> simp [memFault]
@[simp] theorem memFault_srv (r : ErrRec) (u : UnitFault) (s : State) : (memFault r u s).srv = s.srv := by cases u <;> simp [memFault]
@[simp] theorem memFault_hw (r : ErrRec) (u : UnitFault) (s : State) : (memFault r u s).hw = s.hw := by cases u <;> simp [memFault]
@[simp] theorem memFault_mem (r : ErrRec) (u : UnitFault) (s : State) : (memFault r u s).mem = s.mem := by cases u <;> simp [memFault]
@[simp] theorem memFault_memKeys (r : ErrRec) (u : UnitFault) (s : State) : (memFault r u s).memKeys = s.memKeys := by cases u <;> simp [memFault]
@[simp] theorem memFault_out (r : ErrRec) (u : UnitFault) (s : State) : (memFault r u s).out = s.out := by cases u <;> simp [memFault]
@[simp] theorem memFault_fresh (r : ErrRec) (u : UnitFault) (s : State) : (memFault r u s).fresh = s.fresh := by cases u <;> simp [memFault]
@[simp] theorem ring_memFault (r : ErrRec) (u : UnitFault) (s : State) (j : Nat) : ring (memFault r u s) j = ring s j := by simp [ring]
@[simp] theorem mbox_memFault (r : ErrRec) (u : UnitFault) (s : State) (j : Nat) : mbox (memFault r u s) j = mbox s j := by simp [mbox]
@[simp] theorem lockReg_memFault (r : ErrRec) (u : UnitFault) (s : State) (j : Nat) : lockReg (memFault r u s) j = lockReg s j := by simp [lockReg]
@[simp] theorem cluster_memFault (r : ErrRec) (u : UnitFault) (s : State) (j : Nat) : cluster (memFault r u s) j = cluster s j := by simp [cluster]
@[simp] theorem core_memFault (r : ErrRec) (u : UnitFault) (s : State) (j : Nat) : core (memFault r u s) j = core s j := by simp [core]
@[simp] theorem engine_memFault (r : ErrRec) (u : UnitFault) (s : State) (j : Nat) : engine (memFault r u s) j = engine s j := by simp [engine]
@[simp] theorem plane_memFault (r : ErrRec) (u : UnitFault) (s : State) (j : Nat) : plane (memFault r u s) j = plane s j := by simp [plane]
@[simp] theorem entry_memFault (r : ErrRec) (u : UnitFault) (s : State) (j : Nat) : entry (memFault r u s) j = entry s j := by simp [entry]
@[simp] theorem brun_memFault (r : ErrRec) (u : UnitFault) (s : State) (j : Nat) : brun (memFault r u s) j = brun s j := by simp [brun]
@[simp] theorem ctx_memFault (r : ErrRec) (u : UnitFault) (s : State) (j : Nat) : ctx (memFault r u s) j = ctx s j := by simp [ctx]
@[simp] theorem ctxRun_memFault (r : ErrRec) (u : UnitFault) (s : State) (j : Nat) : ctxRun (memFault r u s) j = ctxRun s j := by simp [ctxRun]
@[simp] theorem conv_memFault (r : ErrRec) (u : UnitFault) (s : State) (j : Nat) : conv (memFault r u s) j = conv s j := by simp [conv]
@[simp] theorem port_memFault (r : ErrRec) (u : UnitFault) (s : State) (j : Nat) : port (memFault r u s) j = port s j := by simp [port]

/-! ### ungate -/

@[simp] theorem ungate_pending (p : Nat) (s : State) : (ungate p s).pending = s.pending := rfl
@[simp] theorem ungate_ident (p : Nat) (s : State) : (ungate p s).ident = s.ident := rfl
@[simp] theorem ungate_mail (p : Nat) (s : State) : (ungate p s).mail = s.mail := rfl
@[simp] theorem ungate_err (p : Nat) (s : State) : (ungate p s).err = s.err := rfl
@[simp] theorem ungate_su (p : Nat) (s : State) : (ungate p s).su = s.su := rfl
@[simp] theorem ungate_lar (p : Nat) (s : State) : (ungate p s).lar = s.lar := rfl
@[simp] theorem ungate_host (p : Nat) (s : State) : (ungate p s).host = s.host := rfl
@[simp] theorem ungate_fab (p : Nat) (s : State) : (ungate p s).fab = s.fab := rfl
@[simp] theorem ungate_mon (p : Nat) (s : State) : (ungate p s).mon = s.mon := rfl
@[simp] theorem ungate_pow (p : Nat) (s : State) : (ungate p s).pow = s.pow := rfl
@[simp] theorem ungate_ten (p : Nat) (s : State) : (ungate p s).ten = s.ten := rfl
@[simp] theorem ungate_srv (p : Nat) (s : State) : (ungate p s).srv = s.srv := rfl
@[simp] theorem ungate_mem (p : Nat) (s : State) : (ungate p s).mem = s.mem := rfl
@[simp] theorem ungate_memKeys (p : Nat) (s : State) : (ungate p s).memKeys = s.memKeys := rfl
@[simp] theorem ungate_out (p : Nat) (s : State) : (ungate p s).out = s.out := rfl
@[simp] theorem ungate_fresh (p : Nat) (s : State) : (ungate p s).fresh = s.fresh := rfl
@[simp] theorem ring_ungate (p : Nat) (s : State) (j : Nat) : ring (ungate p s) j = ring s j := by simp [ring]
@[simp] theorem mbox_ungate (p : Nat) (s : State) (j : Nat) : mbox (ungate p s) j = mbox s j := by simp [mbox]
@[simp] theorem lockReg_ungate (p : Nat) (s : State) (j : Nat) : lockReg (ungate p s) j = lockReg s j := by simp [lockReg]
@[simp] theorem entry_ungate (p : Nat) (s : State) (j : Nat) : entry (ungate p s) j = entry s j := by simp [entry]
@[simp] theorem brun_ungate (p : Nat) (s : State) (j : Nat) : brun (ungate p s) j = brun s j := by simp [brun]
@[simp] theorem ctx_ungate (p : Nat) (s : State) (j : Nat) : ctx (ungate p s) j = ctx s j := by simp [ctx]
@[simp] theorem ctxRun_ungate (p : Nat) (s : State) (j : Nat) : ctxRun (ungate p s) j = ctxRun s j := by simp [ctxRun]
@[simp] theorem conv_ungate (p : Nat) (s : State) (j : Nat) : conv (ungate p s) j = conv s j := by simp [conv]
@[simp] theorem port_ungate (p : Nat) (s : State) (j : Nat) : port (ungate p s) j = port s j := by simp [port]

/-! ### returnFrame -/

@[simp] theorem returnFrame_pending (b : Nat) (paged : Bool) (f : Nat) (s : State) : (returnFrame b paged f s).pending = s.pending := by unfold returnFrame; dsimp only; split_ifs <;> simp
@[simp] theorem returnFrame_ident (b : Nat) (paged : Bool) (f : Nat) (s : State) : (returnFrame b paged f s).ident = s.ident := by unfold returnFrame; dsimp only; split_ifs <;> simp
@[simp] theorem returnFrame_mail (b : Nat) (paged : Bool) (f : Nat) (s : State) : (returnFrame b paged f s).mail = s.mail := by unfold returnFrame; dsimp only; split_ifs <;> simp
@[simp] theorem returnFrame_err (b : Nat) (paged : Bool) (f : Nat) (s : State) : (returnFrame b paged f s).err = s.err := by unfold returnFrame; dsimp only; split_ifs <;> simp
@[simp] theorem returnFrame_su (b : Nat) (paged : Bool) (f : Nat) (s : State) : (returnFrame b paged f s).su = s.su := by unfold returnFrame; dsimp only; split_ifs <;> simp
@[simp] theorem returnFrame_lar (b : Nat) (paged : Bool) (f : Nat) (s : State) : (returnFrame b paged f s).lar = s.lar := by unfold returnFrame; dsimp only; split_ifs <;> simp
@[simp] theorem returnFrame_host (b : Nat) (paged : Bool) (f : Nat) (s : State) : (returnFrame b paged f s).host = s.host := by unfold returnFrame; dsimp only; split_ifs <;> simp
@[simp] theorem returnFrame_fab (b : Nat) (paged : Bool) (f : Nat) (s : State) : (returnFrame b paged f s).fab = s.fab := by unfold returnFrame; dsimp only; split_ifs <;> simp
@[simp] theorem returnFrame_mon (b : Nat) (paged : Bool) (f : Nat) (s : State) : (returnFrame b paged f s).mon = s.mon := by unfold returnFrame; dsimp only; split_ifs <;> simp
@[simp] theorem returnFrame_pow (b : Nat) (paged : Bool) (f : Nat) (s : State) : (returnFrame b paged f s).pow = s.pow := by unfold returnFrame; dsimp only; split_ifs <;> simp
@[simp] theorem returnFrame_srv (b : Nat) (paged : Bool) (f : Nat) (s : State) : (returnFrame b paged f s).srv = s.srv := by unfold returnFrame; dsimp only; split_ifs <;> simp
@[simp] theorem returnFrame_hw (b : Nat) (paged : Bool) (f : Nat) (s : State) : (returnFrame b paged f s).hw = s.hw := by unfold returnFrame; dsimp only; split_ifs <;> simp
@[simp] theorem returnFrame_mem (b : Nat) (paged : Bool) (f : Nat) (s : State) : (returnFrame b paged f s).mem = s.mem := by unfold returnFrame; dsimp only; split_ifs <;> simp
@[simp] theorem returnFrame_memKeys (b : Nat) (paged : Bool) (f : Nat) (s : State) : (returnFrame b paged f s).memKeys = s.memKeys := by unfold returnFrame; dsimp only; split_ifs <;> simp
@[simp] theorem returnFrame_out (b : Nat) (paged : Bool) (f : Nat) (s : State) : (returnFrame b paged f s).out = s.out := by unfold returnFrame; dsimp only; split_ifs <;> simp
@[simp] theorem returnFrame_fresh (b : Nat) (paged : Bool) (f : Nat) (s : State) : (returnFrame b paged f s).fresh = s.fresh := by unfold returnFrame; dsimp only; split_ifs <;> simp
@[simp] theorem ring_returnFrame (b : Nat) (paged : Bool) (f : Nat) (s : State) (j : Nat) : ring (returnFrame b paged f s) j = ring s j := by simp [ring]
@[simp] theorem mbox_returnFrame (b : Nat) (paged : Bool) (f : Nat) (s : State) (j : Nat) : mbox (returnFrame b paged f s) j = mbox s j := by simp [mbox]
@[simp] theorem lockReg_returnFrame (b : Nat) (paged : Bool) (f : Nat) (s : State) (j : Nat) : lockReg (returnFrame b paged f s) j = lockReg s j := by simp [lockReg]
@[simp] theorem cluster_returnFrame (b : Nat) (paged : Bool) (f : Nat) (s : State) (j : Nat) : cluster (returnFrame b paged f s) j = cluster s j := by simp [cluster]
@[simp] theorem core_returnFrame (b : Nat) (paged : Bool) (f : Nat) (s : State) (j : Nat) : core (returnFrame b paged f s) j = core s j := by simp [core]
@[simp] theorem engine_returnFrame (b : Nat) (paged : Bool) (f : Nat) (s : State) (j : Nat) : engine (returnFrame b paged f s) j = engine s j := by simp [engine]
@[simp] theorem plane_returnFrame (b : Nat) (paged : Bool) (f : Nat) (s : State) (j : Nat) : plane (returnFrame b paged f s) j = plane s j := by simp [plane]
@[simp] theorem ctx_returnFrame (b : Nat) (paged : Bool) (f : Nat) (s : State) (j : Nat) : ctx (returnFrame b paged f s) j = ctx s j := by simp [ctx]
@[simp] theorem ctxRun_returnFrame (b : Nat) (paged : Bool) (f : Nat) (s : State) (j : Nat) : ctxRun (returnFrame b paged f s) j = ctxRun s j := by simp [ctxRun]
@[simp] theorem conv_returnFrame (b : Nat) (paged : Bool) (f : Nat) (s : State) (j : Nat) : conv (returnFrame b paged f s) j = conv s j := by simp [conv]
@[simp] theorem port_returnFrame (b : Nat) (paged : Bool) (f : Nat) (s : State) (j : Nat) : port (returnFrame b paged f s) j = port s j := by simp [port]

end Sys2Proof.Machine
end

