-- ==== Sys2Proof/Laws/Memory.lean ====
section
/-! SUPPORT. Device memory keeps its canonical form. `memPut` writes bytes, `keyFrame` and `clearFrame` change what the unwritten
bytes of a frame read as, and nothing else of the model changes device memory. -/

namespace Sys2Proof.Machine

/-- Writing bytes keeps the canonical form. -/
theorem memPut_wf (a : Nat) (bs : List Byte) (s : State) (h : Memory.wf s = true) : Memory.wf (memPut a bs s) = true :=
  SMapWf_putAll _ bs s.mem a h

/-- Memory after reset lists nothing, and has the canonical form. -/
theorem reset_mem_wf : Memory.wf State.reset = true := rfl

/-- What `n` bytes read one by one are. -/
theorem memBytes_get (s : State) (a n i : Nat) (h : i < n) : (memBytes s a n)[i]? = some (memByte s (a + i)) :=
  look_lookAll _ _ _ _ _ h

theorem memBytes_length (s : State) (a n : Nat) : (memBytes s a n).length = n := lookAll_length _ _ _ _

/-- The canonical form depends on the two fields of device memory alone. -/
theorem Memory.wf_congr {s t : State} (hm : t.mem = s.mem) (hk : t.memKeys = s.memKeys) : Memory.wf t = Memory.wf s := by
  simp only [Memory.wf, hm, hk]

/-- Rising keys stay rising without some of them. -/
theorem rising_filter {α : Type} (p : Nat × α → Bool) :
    ∀ (m : SMap α) (b c : Option Nat), (∀ x, b = some x → ∃ y, c = some y ∧ x ≤ y) → rising c m = true → rising b (m.filter p) = true
  | [], _, _, _, _ => rfl
  | q :: t, b, c, hb, h => by
    simp only [rising, Bool.and_eq_true] at h
    rw [List.filter_cons]
    split
    · simp only [rising, Bool.and_eq_true]
      refine ⟨?_, rising_filter p t _ _ (fun x hx => ⟨x, hx, Nat.le_refl x⟩) h.2⟩
      cases b with
      | none => rfl
      | some x =>
        obtain ⟨y, hy, hxy⟩ := hb x rfl
        rw [hy] at h
        simp only [decide_eq_true_eq] at h ⊢
        omega
    · refine rising_filter p t b (some q.1) (fun x hx => ⟨q.1, rfl, ?_⟩) h.2
      obtain ⟨y, hy, hxy⟩ := hb x hx
      rw [hy] at h
      simp only [decide_eq_true_eq] at h
      omega

/-- A frame whose bytes are all taken out leaves the canonical form, whatever its unwritten bytes then read as. -/
theorem wf_without_frame (f : Nat) (k j : SMap (Option FrameKey)) (m : List Host.Cell)
    (hk : ∀ a, a / 65536 ≠ f → memDefault j a = memDefault k a) (h : SMapWf (memDefault k) m = true) :
    SMapWf (memDefault j) (m.filter fun x => x.1 / 65536 != f) = true := by
  simp only [SMapWf, Bool.and_eq_true, List.all_eq_true, decide_eq_true_eq, List.mem_filter, bne_iff_ne] at h ⊢
  refine ⟨rising_filter _ m _ _ (fun x hx => by cases hx) h.1, fun x hx => ?_⟩
  rw [hk x.1 hx.2]
  exact h.2 x hx.1

theorem memDefault_put (k : SMap (Option FrameKey)) (f : Nat) (q : Option FrameKey) (a : Nat) (h : a / 65536 ≠ f) :
    memDefault (put (fun _ => none) k f q) a = memDefault k a := by
  unfold memDefault
  rw [look_put]
  simp [h]

theorem setFrameKey_wf (f : Nat) (q : FrameKey) (s : State) (h : Memory.wf s = true) : Memory.wf (setFrameKey f q s) = true :=
  wf_without_frame f s.memKeys _ _ (fun a ha => memDefault_put s.memKeys f (some q) a ha) h

/-- A frame coming under a binding's key keeps the canonical form. -/
theorem keyFrame_wf (f b : Nat) (s : State) (h : Memory.wf s = true) : Memory.wf (keyFrame f b s) = true := by
  unfold keyFrame
  split
  · rename_i hn
    refine (SMapWf_congr fun a => ?_).trans h
    unfold memDefault
    rw [look_put]
    by_cases ha : a / 65536 = f
    · simp [ha, hn]
    · simp [ha]
  · dsimp only
    split
    · exact h
    · exact setFrameKey_wf _ _ _ h

/-- Clearing a frame keeps the canonical form. -/
theorem clearFrame_wf (f : Nat) (s : State) (h : Memory.wf s = true) : Memory.wf (clearFrame f s) = true := by
  unfold clearFrame
  split
  · exact wf_without_frame f _ _ _ (fun _ _ => rfl) h
  · exact setFrameKey_wf _ _ _ h

/-- What `keyFrame` and `clearFrame` leave: all but the two fields of device memory. -/
theorem keyFrame_eq (f b : Nat) (s : State) : ∃ k m, keyFrame f b s = { s with memKeys := k, mem := m } := by
  unfold keyFrame setFrameKey
  split
  · exact ⟨_, s.mem, rfl⟩
  · dsimp only
    split
    · exact ⟨s.memKeys, s.mem, rfl⟩
    · exact ⟨_, _, rfl⟩

theorem clearFrame_eq (f : Nat) (s : State) : ∃ k m, clearFrame f s = { s with memKeys := k, mem := m } := by
  unfold clearFrame setFrameKey
  split
  · exact ⟨s.memKeys, _, rfl⟩
  · exact ⟨_, _, rfl⟩

end Sys2Proof.Machine
end

