-- ==== Sys2Proof/WellFormed.lean ====
section
/-! DEFINITION. Which commands are well formed: the shapes that the operands' types do not say. No meaning depends on them:
`exec` answers for every command, well formed or not. -/

namespace Sys2Proof

/-- A host access that R20 completes normally: naturally aligned, 4 or 8 bytes wide. -/
def alignedAccess (off : Off) (wide : Bool) : Bool := off.toNat % (if wide then 8 else 4) == 0

/-- The low word of a 64-bit register, or its high word at offset +4, is addressed by the register's own offset (R21). -/
def alignedPair (off : Off) : Bool := off.toNat % 8 == 0

/-- A packet's payload: 48 bytes of the first entry and 56 of each of up to seven more (R371). -/
def Cmd.wf (c : Cmd) : Bool := decide (c.payload.length ≤ 440)

/-- A sensed cell lies in the array of 260 rows and 264 column pairs, at a level of at most 15, or 128 in the checksum column
(R51, R57). -/
def CellRead.wf (c : CellRead) : Bool := decide (c.row < 260 ∧ c.col < 264 ∧ c.level ≤ if c.col = 260 then 128 else 15)

/-- A chain hop carries a column block's 256 sums, and as many compensations in compensated mode (R163, R165). -/
def ChainMsg.wf (d : ChainMsg) : Bool := d.s.length == 256 && d.c.length == (if d.comp then 256 else 0)

/-- A REDUCE message carries at most 8 candidates (R162). -/
def ReduceMsg.wf (d : ReduceMsg) : Bool := decide (d.cands.length ≤ 8)

/-- The page images of a ring block fit a frame (R229, R257). -/
def RingBlk.wf (d : RingBlk) : Bool := d.pages.all fun x => decide (x.2.length ≤ 65536)

/-- An input vector of a test: 256 row codes, 8 drive levels and 256 ideal sums (R488). -/
def KatVec.wf (v : KatVec) : Bool := v.xs.length == 256 && v.ks.length == 8 && v.ideal.length == 256

/-- An engine's test has 64 vectors (R488). -/
def KatResult.wf (r : KatResult) : Bool := r.vecs.length == 64 && r.vecs.all KatVec.wf

/-- Fourteen converters calibrate at five gains each (R441), where the phase is the one that calibrates them; a core has one test. -/
def PhaseFacts.wf (f : PhaseFacts) : Bool :=
  decide (f.tests.map (·.1)).Nodup && f.tests.all (·.2.wf) &&
  (f.selfcal.isEmpty || (f.selfcal.length == 14 && f.selfcal.all fun c => c.zs.length == 5 && c.bs.length == 5))

/-- A window end reports a cluster at most once. -/
def WindowData.wf (d : WindowData) : Bool := decide (d.clusters.map (·.cluster)).Nodup

/-- The command is well formed. -/
def Instr.wf : Instr → Bool
  | .registerWrite off _ wide => alignedAccess off wide
  | .badAccess _ _ bytes _ => bytes != 0
  | .reg64LowRead off | .reg64LowWrite off _ | .reg64HighWrite off _ => alignedPair off
  | .mapWrite _ off _ => alignedAccess off false
  | .lockTake _ c => !c.readers.isEmpty && decide (c.readers.Nodup ∧ (c.writes.map (·.1)).Nodup)
  | .bindLoad c _ | .prefillOpen c _ | .prefillExtend c _ | .generate c _ | .queryBinding c _ | .queryContext c _
  | .queryPlanes c _ | .queryCellMap c _ => c.wf
  | .bindSwitch c | .unbind c | .unbindByTenant c | .cancel c | .flush c => c.wf
  | .windowEnd d => d.wf
  | .startupPhaseEnd f => f.wf
  | .chainArrival _ d => d.wf
  | .reduceResultArrival _ d => d.wf
  | .ringBlockArrival _ d => d.wf
  | .eraseComplete _ cells | .rowIteration _ cells => cells.all CellRead.wf
  | .adoptionComplete _ d => d.cells.all CellRead.wf
  | .calibrationMeasurementComplete _ volts => volts.isEmpty || (volts.length == 6 && volts.all fun l => l.length == 16)
  | .katComplete _ r => r.wf
  | .enable _ | .mailboxDataWrite _ _ _ _ | .go _ _ _ | .relSeq _ _ _ | .ackGo _ _ _ | .mailboxAckTimeout _ | .lockRelease _ _ _
  | .sqEnable _ _ | .ringFlush _ _ | .sqTail _ _ | .cqEnable _ _ | .cqHead _ _ | .quiesce _ | .d3hotWrite | .quiesceComplete
  | .hostTimersWrite _ | .transactionTimersWrite _ _ | .erEnable _ | .erHead _ | .snap _ | .join _ _ | .leave _ _
  | .packetFetch _ _ | .packetDispatch _ _ _ | .coalesceTimeout _ | .hostReadComplete _ _ | .hostReadTimeout _
  | .linkReplayEpisode | .linkRecoveryEntry | .linkRecoveryExit | .linkDown | .functionLevelReset | .hotReset
  | .perstDeassert _ _ | .ideFailure _ | .ideRekey | .tokenFill _ _ | .errorRingWrite | .ping | .calendarSet | .calendarGet
  | .powerLimitSet _ _ | .powerLimitGet | .getRecords _ | .ackRecords _ | .getCper _ | .getCounts | .getLarder | .getEvents _ _
  | .getAgeing _ _ | .getPlanes _ _ | .setCalendar _ _ | .i3cAddressAssign _ | .getVersion _ | .getCapabilities _
  | .negotiateAlgorithms _ | .getDigests _ | .getCertificate _ _ _ _ | .challenge _ _ _ | .getMeasurements _ _ _
  | .keyExchange _ _ _ | .finish _ _ | .endSession _ _ | .copyComplete _ | .beatEdge | .beatWordReceived _ _ | .beatLoss
  | .beatLock | .formationWord _ | .formationTimeout | .portTrainingComplete _ _ _ | .domainFaultNotice _ _ | .cableDisconnect _
  | .bondDown _ | .stretchRequestWord _ | .stretchResolve _ | .stretchStart | .stretchEnd | .flitLost _ | .episodeExhausted _
  | .retryNotice _ | .errorCompletion _ | .transactionReceived _ _ | .acknowledgement _ | .transactionTimeout _
  | .readyMessage _ | .refusalMessage _ | .epochMessage _ | .abortMessage _ | .readyWaitTimeout | .epochWaitTimeout | .switchEpoch
  | .scrubComplete _ _ | .switchHandover | .monitorSample _ _ _ | .powerWindowEnd _ _ | .pointSettle _ | .replanComplete _ _ | .clusterPowerGate _
  | .trivetTrip _ | .trivetRelease | .inputLoss | .inputRestore | .pwrSenseOpen | .modResetLow | .modResetHigh
  | .flashOwnAssert | .flashOwnDeassert | .coldStart | .clusterWake _ | .fold | .counterRecordTimer | .eventTokenRestore
  | .flashPageWriteComplete | .larderViewUpdate | .calendarTick | .holdUpEnd | .snoop _ | .conventionalReset
  | .nop _ _ | .lstep _ _ | .stepend _ _ | .select _ _ | .mwin _ _ | .maintenanceWindowEnd _ | .quant _ _ | .pass _ _ | .passSlot _
  | .splitHalf _ | .sieve _ _ | .chain _ _ | .tail _ _ | .layerStepStatus _ _ | .reduce _ _ | .act _ _ | .pool _ _ | .score _ _
  | .smax _ _ | .value _ _ | .merge _ _ | .mergeStateArrival _ _ | .ovf _ _ | .walk _ _ | .kvfetch _ _ | .kvappend _ _
  | .gather _ _ | .load _ _ | .store _ _ | .overrun _ | .programStart _ | .programAttemptEnd _ | .calibrationStart _ | .testDue _
  | .testForce _ | .katStart _ => true

end Sys2Proof
end

