-- ==== Sys2Proof/Tests/Slice0.lean ====
section
/-! SUPPORT. The model's own tests: single steps on small states, with expected values from the spec, and a witness for the
hypotheses of every statement. -/

namespace Sys2Proof.Tests

open Sys2Proof Sys2Proof.Machine Sys2Proof.Spec

-- The tests are evaluated one at a time: many at once would each take a thread's memory.
set_option Elab.async false

/-- The next state an outcome answers, if it answers one. -/
def nextOf : Host.Outcome State Fault Refusal → Option State
  | .next t => some t
  | _ => none

/-- What `f` reads in the state after a command. -/
def after {α : Type} (c : Instr) (s : State) (f : State → α) : Option α := (nextOf (exec c s)).map f

/-- A part in service: phase 7, enabled, physical cluster 0 enabled as logical cluster 0 with its core 0. -/
def up : State :=
  { State.reset with
    su := { phase := 7, enabled := true }
    mail := { lead := 0 }
    hw := { clusters := [(0, { st := 0, logical := 0, usable := 18 })],
            cores := [(0, { usable := true, logical := 0, inUse := 0xFFFF })] } }

/-! ### Registers, mailboxes, locks -/

/-- R12's worked register and Table 19.3: IDENT of variant H. -/
theorem test_ident : hostRead32 State.reset 0 = 0x01009624 := by decide +kernel

/-- The worked example of the Register Map: ring 5's completion control reads 0x0009_0600. -/
theorem test_ring5_completion_control : hostRead32 up 0x40158 = 0x00090600 := by decide +kernel

/-- The worked example of the Register Map: cluster 61 enabled as logical cluster 53 with 18 usable cores. -/
theorem test_cluster_state_word :
    cl32 { up with hw := { up.hw with clusters := [(61, { st := 0, logical := 53, usable := 18 })] } } 61 0 = 0x12023500 := by
  decide +kernel

/-- R20: a 16-bit read is bad, and its record is raised. -/
theorem test_bad_access : after (.badAccess .host 0x28 2 false) up (fun t => (t.err.raised, t.err.hostQ.length)) = some (1, 1) := by
  decide +kernel

theorem witness_BadAccessRecorded :
    badSize up 0x28 2 = true ∧ openBlock up 0x28 = true ∧ badSize up 0x2A 4 = true ∧ badSize up 0x28 8 = true := by decide +kernel

theorem witness_HostWritesReachOnlyWritableFields :
    0x44004 % 4 = 0 ∧ hostWritable 0x44004 = false ∧ val64 up 0x44004 = none ∧ val64 up 0x44000 = none := by decide +kernel

theorem witness_SixtyFourBitHalves :
    openBlock up 0x400020 = true ∧ (val64 up 0x400020).isSome = true ∧ up.err.erEnable = false ∧ below7 up = false
      ∧ (ring up 255).sqEnable = false := by decide +kernel

/-- R21: a high-word write takes the latched low word. -/
theorem test_base_in_halves :
    (after (.reg64LowWrite 0x40000 0xABCDE000) up id).bind (fun t => after (.reg64HighWrite 0x40000 5) t fun u =>
      (ring u 0).sqBase) = some 0x00005ABCDE := by decide +kernel

/-- R404 on the host-to-firmware mailbox: SEQ 1, FULL, and the lead's wake. -/
theorem test_go : after (.go 0 .host 1) up (fun t => ((mbox t 0).seq, (mbox t 0).full, t.out)) = some (1, true, [.wake 0]) := by
  decide +kernel

/-- Table 13.3: a release naming the old SEQ after GO is stale. -/
theorem test_stale_release : (after (.go 0 .host 1) up id).bind (fun t => after (.relSeq 0 (.core 0) (.release 0 {})) t fun u =>
    ((mbox u 0).full, (mbox u 0).stale)) = some (true, 1) := by decide +kernel

/-- Table 13.3: a release that names the old SEQ in the cycle of a GO leaves the mailbox full, with a collision. -/
theorem test_release_beside_go : (after (.go 2 (.core 1) 1) up id).bind (fun t =>
    after (.relSeq 2 (.core 0) (.release 1 { go := some (.core 1) })) t fun u =>
      ((mbox u 2).seq, (mbox u 2).full, (mbox u 2).collision, (mbox u 2).stale)) = some (2, true, true, 1) := by decide +kernel

/-- R410: a message that firmware releases on mailbox 0 is copied first, and waits in its queue. -/
theorem test_release_keeps_copy : (after (.go 0 .host 1) { up with mail := { up.mail with outQ := [] } } id).bind (fun t =>
    after (.relSeq 0 (.core 0) (.release 1 {})) t fun u => u.mail.inQ.length) = some 1 := by decide +kernel

theorem witness_MailboxSending :
    mayWrite up 0 .host = true ∧ mayWrite up 1 (.core 0) = true ∧ mayWrite up 2 (.core 111) = true
      ∧ mayWrite up 113 (.core 0) = false ∧ isSender up 0 .host = true ∧ isSender up 2 (.core 111) = true
      ∧ isSender up 113 (.core 0) = false ∧ isSender up 0 (.core 0) = false ∧ bitOf (1 : W32).toNat 0 = true := by decide +kernel

theorem witness_MailboxAnswers :
    isReceiver up 0 (.core 0) = true ∧ isReceiver up 1 .host = true ∧ isReceiver up 2 (.core 0) = true ∧ up.mail.outQ = []
      ∧ bitOf (0x101 : W32).toNat 8 = true ∧ isReceiver up 0 .host = false ∧ BitVec.ofNat 8 (0x101 : W32).toNat ≠ (mbox up 2).seq
      ∧ mayWrite up 2 (.core 1) = true ∧ BitVec.ofNat 8 (0x100 : W32).toNat = (mbox up 2).seq ∧ bitOf (0x100 : W32).toNat 8 = true
      ∧ ((after (.go 2 (.core 1) 1) up fun t => ((mbox t 2).full, isReceiver t 2 (.core 0), mayWrite t 2 (.core 1), (mbox t 2).seq))
          = some (true, true, true, 1))
      ∧ ((after (.go 0 .host 1) up fun t => (mbox t 0).timer) = some true) := by decide +kernel

/-- The worked example of R415: lock 20 read by cluster 9's control core and the host in one cycle. -/
theorem test_lock_example : after (.lockTake 20 { readers := [.host, .core 9] }) up (fun t => (t.out, lockWord (lockReg t 20)))
    = some ([.lockRead (.core 9) 20 0xFE00, .lockRead .host 20 0x0A01], 0x0A01) := by decide +kernel

theorem witness_LockCycleOrder : below7 up = false ∧ takerCode .mgmt < takerCode (.core 111)
    ∧ takerCode (.core 111) < takerCode .host := by decide +kernel

/-- R415: a release in the cycle of a read acts first. -/
theorem test_lock_release_first : (after (.lockTake 20 { readers := [.core 9] }) up id).bind (fun t =>
    after (.lockTake 20 { writes := [(.host, 0)], readers := [.core 3] }) t fun u => (u.out.drop 1, lockWord (lockReg u 20)))
    = some ([.lockRead (.core 3) 20 0x0A00], 0x0401) := by decide +kernel

/-! ### Rings -/

/-- A CANCEL of every record of binding 3: one entry, FIRST set, TAG 7, ALL. -/
def cancelEntry : BitVec 512 := BitVec.ofNat 512 (0x12 + 2 ^ 11 + 7 * 2 ^ 32 + 3 * 2 ^ 64 + 0xFFFFFFFF * 2 ^ 96 + 2 ^ 128)

/-- Ring 5 enabled with one entry waiting at index 60 of 64, its completion ring enabled, and its read outstanding. -/
def ringUp : State :=
  let s := setRing up 5 { ringReset 5 with sqEnable := true, sqHead := 60, sqTail := 61, cqEnable := true }
  { s with host := { s.host with reads := [{ id := 0, what := .entries 5, left := 100, reissued := false }] } }

/-- Ring 5 with its two last entries before the wrap to flush, and a read outstanding. -/
def flushing : State :=
  let s := setRing up 5 { ringReset 5 with sqEnable := true, sqHead := 63, sqTail := 0, cqEnable := true, flushLeft := 1 }
  { s with host := { s.host with reads := [{ id := 0, what := .entries 5, left := 100, reissued := false }] } }

theorem test_packet_ok : packetOk [cancelEntry] = true ∧ packetOk [cancelEntry + 2 ^ 12] = false := by decide +kernel

/-- R372, R375: the packet is accepted and SQ_HEAD moves past it. -/
theorem test_packet_fetch : after (.packetFetch 5 [cancelEntry]) ringUp
    (fun t => ((ring t 5).sqHead, (ring t 5).accepted, (ring t 5).queue.map (·.opcode))) = some (61, 1, [0x12]) := by decide +kernel

/-- R379's worked example: packet C, cut by the flush tail, is discarded whole. -/
theorem test_flush_cuts_no_packet :
    after (.packetFetch 5 [BitVec.ofNat 512 (0x10 + 2 ^ 8 + 2 ^ 11)]) flushing
      (fun t => ((ring t 5).sqHead, (ring t 5).flushLeft, (ring t 5).discard)) = some (0, 0, 1) := by decide +kernel

theorem witness_RingDoorbellsAndEnables :
    (ring up 5).sqEnable = false ∧ (ring up 5).cqEnable = false ∧ bitOf (0x601 : W32).toNat 0 = true
      ∧ bitOf (0x601 : W32).toNat 1 = false ∧ ringQuiet (ring up 5) = true ∧ up.host.quiesce = false ∧ up.host.ideHold = false
      ∧ (let s := setRing up 5 { ringReset 5 with sqEnable := true }
         ringQuiet (ring s 5) = true ∧ (ring s 5).sqEnable = true ∧ fld (0x3 : W32).toNat 0 16 < 2 ^ (ring s 5).sqLog2.toNat) ∧ fld (0x601 : W32).toNat 8 5 = 6
      ∧ fld (0x1001 : W32).toNat 8 5 = 16 ∧ fld (0x1101 : W32).toNat 8 5 = 17 := by decide +kernel

theorem witness_PacketAcceptedOrFlushed :
    below7 ringUp = false ∧ ringUp.host.quiesce = false ∧ ringUp.host.ideHold = false ∧ (ring ringUp 5).sqEnable = true
      ∧ (ring ringUp 5).flush = false ∧ (ring ringUp 5).readFirst = false ∧ (ring ringUp 5).flushLeft = 0
      ∧ (ring ringUp 5).pendFlush = [] ∧ reading 5 ringUp = true ∧ (ring ringUp 5).buf = [] ∧ (ring ringUp 5).queue.length < 4096
      ∧ pointersOk (ring ringUp 5) = true ∧ (ring ringUp 5).discard = 0 ∧ (ring ringUp 5).sqHead.toNat < 2 ^ 6
      ∧ packetLen ([cancelEntry] ++ []) = 1 ∧ sqAvail (ring ringUp 5) = 1 ∧ packetOk [cancelEntry] = true
      ∧ (ring ringUp 5).reserved + packetResv (entryHead cancelEntry).opcode (packetPayload [cancelEntry])
          ≤ cqFree (ring ringUp 5) ∧ packetOk [(0 : BitVec 512)] = false ∧ packetLen [(0 : BitVec 512)] = 1
      ∧ (ring ringUp 5).cqEnable = true ∧ (ring ringUp 5).reserved < cqFree (ring ringUp 5)
      ∧ (let s := setRing up 5 { ringReset 5 with sqEnable := true, sqTail := 3 }
         ringQuiet (ring s 5) = true ∧ sqAvail (ring s 5) ≠ 0 ∧ fld (0x603 : W32).toNat 8 5 = (ring s 5).sqLog2.toNat
           ∧ bitOf (0x603 : W32).toNat 0 = true)
      ∧ bitOf (0x603 : W32).toNat 1 = true
      ∧ (let c : Cmd := { ring := 5, tag := 9, binding := 3, record := 0xFFFFFFFF, payload := [2] }
         (0x12, Instr.cancel c) ∈ commandRows c { plan := [], map := [], tokens := [], badAddr := false }
           ∧ payloadClean 0x12 c.payload = false ∧ (ring ringUp c.ring).reserved < cqFree (ring ringUp c.ring)) := by decide +kernel

theorem witness_FlushAtPacketBoundary :
    let s := flushing
    below7 s = false ∧ s.host.quiesce = false ∧ s.host.ideHold = false ∧ (ring s 5).flush = false ∧ (ring s 5).readFirst = false
      ∧ (ring s 5).discard = 0 ∧ (ring s 5).pendFlush = [] ∧ (ring s 5).buf = [] ∧ reading 5 s = true
      ∧ (ring s 5).flushLeft = sqAvail (ring s 5) ∧ (entryHead (BitVec.ofNat 512 (2 ^ 8 + 2 ^ 11))).first = true
      ∧ sqAvail (ring s 5) = 1 ∧ (entryHead (BitVec.ofNat 512 (2 ^ 8 + 2 ^ 11))).count = 1 ∧ (ring s 5).cqEnable = true
      ∧ (ring s 5).reserved + 1 ≤ cqFree (ring s 5) ∧ (ring s 5).sqLog2.toNat = 6 ∧ (ring s 5).sqTail.toNat < 64
      ∧ (ring s 5).sqHead.toNat < 64 := by decide +kernel

/-- Ring 5 with one accepted packet waiting. -/
def queued : State := (after (.packetFetch 5 [cancelEntry]) ringUp id).getD up

theorem witness_QueueResetStandsForEveryPacket :
    (ring queued 5).queue.map (fun p => decide (1 ≤ p.resv)) = [true] ∧ (ring queued 5).cqEnable = true ∧ queued.host.ideHold = false
      ∧ (ring queued 5).buf = [] ∧ pointersOk (ring queued 5) = true
      ∧ numbersOk (ring queued 5) ((spilled (ring queued 5)).take 1) = true
      ∧ pointersOk { ring queued 5 with qHeadInv := 0 } = false := by decide +kernel

/-- R378: one RING_FAULT entry with the range 60 to 61. -/
theorem test_queue_reset : after (.packetDispatch 5 true ⟨[], [], [], false⟩) queued
    (fun t => ((ring t 5).queue.length, (ring t 5).reserved, t.host.resets, t.out.length)) = some (0, 0, 1, 1) := by decide +kernel

/-! ### Timers, removal, IDE -/

/-- R393: smaller values store the minimum. -/
theorem test_timer_minimum : after (.hostTimersWrite 0x00010001) up (fun t => (t.host.ht, t.host.hext)) = some (16, 8) := by decide +kernel

/-- A part with one expired entry read of ring 5, and an unsignalled completion on it. -/
def timed : State :=
  { setRing up 5 { ringReset 5 with unsignalled := 1, coTime := 9 } with
    host := { (setRing up 5 { ringReset 5 with unsignalled := 1, coTime := 9 }).host with
      reads := [{ id := 3, what := .entries 5, left := 0, reissued := true }],
      msix := [(9, { ctl := 0 })] } }

theorem witness_HostTimersAndLinkEpisodes :
    (timed.host.reads.find? (fun y => y.id == 3)).isSome = true ∧ (ring timed 5).vector.toNat = 9
      ∧ (ring timed 5).unsignalled ≠ 0 ∧ (ring timed 5).coTime ≠ 0 ∧ (msixEntry timed 9).ctl.toNat % 2 = 0
      ∧ below7 timed = false ∧ timed.host.readQ = [] ∧ (ring timed 5).pendFlush = []
      ∧ timed.host.reads.map (fun x => (x.left, x.reissued, x.what == .entries 5)) = [(0, true, true)] := by decide +kernel

theorem test_read_timeout : after (.hostReadTimeout 3) timed
    (fun t => (t.host.timeouts, t.host.reads.length, (ring t 5).fetchFault, t.err.raised)) = some (1, 0, true, 1) := by decide +kernel

theorem test_coalesce_timeout : after (.coalesceTimeout 9) timed (fun t => (t.out, (ring t 5).unsignalled))
    = some ([.msix 9], 0) := by decide +kernel

theorem witness_ManagedRemovalStops :
    up.host.quiesce = false ∧ up.ten.switches = [] ∧ up.host.rings = [] ∧ SMapWf ringReset up.host.rings = true
      ∧ pointersOk (ring up 3) = true ∧ (ring up 3).qHead = (ring up 3).qTail
      ∧ bitOf (1 : W32).toNat 0 = true
      ∧ quiesceDone { up with host := { up.host with quiesce := true } } = true ∧ up.fab.st ≠ 2 := by decide +kernel

theorem test_quiesced : after .quiesceComplete { up with host := { up.host with quiesce := true } }
    (fun t => t.host.quiesced) = some true := by decide +kernel

theorem witness_IdeFailureAndRekey :
    let s := { up with host := { up.host with ideActive := true } }
    let h := { ringUp with host := { ringUp.host with held := [.entry 5 0 0 (compl 1 0)] }, su := { ringUp.su with sessions := [{ port := .doe, id := 1, finished := true }] } }
    s.host.ideActive = true ∧ s.host.reads = [] ∧ h.host.ideActive = false ∧ (compl 1 0).kind = 0 ∧ (ring h 5).buf = [] ∧ (ring h 5).pendFlush = []
      ∧ (h.su.sessions.any fun x => x.port == .doe && x.finished) = true ∧ (s.su.sessions.any fun x => x.port == .doe && x.finished) = false
      ∧ (ring h 5).cqEnable = true := by decide +kernel

/-! ### Error rings, management, SPDM, host messages -/

/-- A part with one record waiting on both queues. -/
def erred : State := (after (.badAccess .host 0x28 2 false) { up with err := { up.err with erEnable := true } } id).getD up

theorem witness_ErrorRingDelivery :
    erred.err.hostQ.length = 1 ∧ erred.err.erEnable = true ∧ erred.host.ideHold = false
      ∧ (erred.err.erTail.toNat + 1) % 2 ^ erred.err.erLog2.toNat ≠ erred.err.erHead.toNat % 2 ^ erred.err.erLog2.toNat
      ∧ fld (0x601 : W32).toNat 8 5 = 6 ∧ fld (0x1001 : W32).toNat 8 5 = 16 ∧ fld (0x501 : W32).toNat 8 5 = 5
      ∧ fld (0x1101 : W32).toNat 8 5 = 17 ∧ bitOf (0x601 : W32).toNat 0 = true ∧ up.err.hostQ = [] := by decide +kernel

/-- R499: the entry goes to slot 0, and ER_TAIL moves. -/
theorem test_error_ring_write : after .errorRingWrite erred (fun t => (t.err.hostQ.length, t.err.erTail)) = some (0, 1) := by
  decide +kernel

theorem witness_ManagementRecordDelivery :
    1 ≤ (8 : Byte).toNat ∧ (9 : Byte).toNat = 9 ∧ erred.err.mgmtQ.length = 1 ∧ alert erred = true := by decide +kernel

/-- R500: the record is returned, ALERT falls, and the record stands until it is acknowledged. -/
theorem test_get_and_ack :
    (after (.getRecords 8) erred id).bind (fun t => after (.ackRecords 0) t fun u => (alert t, t.err.mgmtQ.length, u.err.mgmtQ.length))
      = some (false, 1, 0) := by decide +kernel

theorem witness_ManagementReads :
    (15 : Byte).toNat < 16 ∧ (1 : Byte).toNat = 1 ∧ (8 : Byte).toNat = 8 ∧ (0x21FDDF : W32).toNat + 1 = 2227680
      ∧ (0x21FDA0 : W32).toNat + (64 : Byte).toNat = 2227680 ∧ (0x1FFFFFFFFFFFF : W64).toNat < 2 ^ 49 ∧ (0x7FFF : W32).toNat < 2 ^ 15
      ∧ 4 ≤ up.su.phase.toNat := by decide +kernel

theorem witness_SpdmResponder :
    let n := { up with su := { up.su with negotiated := [.doe], sessions := [{ port := .doe, id := 5, finished := false }] } }
    2 ≤ n.su.phase.toNat ∧ State.reset.su.phase.toNat < 2 ∧ n.su.phase = 7 ∧ SpdmPort.doe ∈ n.su.negotiated
      ∧ n.su.sessions.all (fun x => !(x.port == .doe && x.id == 6)) = true ∧ n.su.sessions.length = 1 := by decide +kernel

/-- A message of these words waits in the host-to-firmware mailbox. -/
def asking (ws : List W32) : State := (after (.go 0 .host 1) (setMbox up 0 { data := ws.zipIdx.map fun x => (x.2, x.1) }) id).getD up

theorem witness_HostMessagesAnswered :
    Asked ((List.range 16).map fun i => [(0xABCD0001 : W32)].getD i 0) (asking [0xABCD0001])
      ∧ Asked ((List.range 16).map fun i => [(0x0302 : W32), 0xFFFFFFFF, 0x1FFFF, 0x7FFF].getD i 0)
          (asking [0x0302, 0xFFFFFFFF, 0x1FFFF, 0x7FFF])
      ∧ msgType [0xABCD0001] = 1 ∧ msgWords [0xABCD0001] = 0 ∧ fld (msgAt [0xABCD0001] 0) 12 4 = 0 ∧ fld (msgAt [0xABCD1001] 0) 12 4 ≠ 0 := by
  refine ⟨⟨?_, ?_, ?_⟩, ⟨?_, ?_, ?_⟩, ?_⟩ <;> decide +kernel

/-- R413: a reserved bit that is not zero is answered with status 3, whatever the WORDS. -/
theorem test_reserved_bit : after .ping (asking [0xABC01101]) (fun t => look (fun _ => 0) (mbox t 1).data 1) = some 3 := by decide +kernel

/-- Table 13.6: PING answers TYPE 0x81, two words, the request's TAG, status 0 and FW_VERSION. -/
theorem test_ping : after .ping (asking [0xABC00001]) (fun t => ((mbox t 0).ack, (mbox t 1).full, (mbox t 1).data))
    = some (true, true, [(0, 0xABC00281)]) := by decide +kernel

/-! ### Resets, start-up, pins, power -/

theorem witness_ResetsLoseRuntimeState :
    RunsAlone up ∧ up.su.phase ≠ 0 ∧ up.host.quiesced = false ∧ State.reset.su.phase = 0
      ∧ ({ up with host := { up.host with quiesced := true } } : State).host.quiesced = true := by
  refine ⟨⟨?_, ?_, ?_, ?_⟩, ?_⟩ <;> decide +kernel

/-- The settings section of the images below (Table 14.5). -/
def settings : List Byte := [4, 4, 0x52, 0x03, 0x20] ++ List.replicate 59 0

/-- The maker's key as PUBKEY holds it. -/
def makerPub : List Byte := (List.range 133).map fun j => Config.makerKey.getD j 0

/-- Bytes 0 to 31 of an image: the fields of its header (Table 14.2). -/
def imgFields (v : Nat) : List Byte :=
  leBytes 4 0x5142454E ++ leBytes 2 1 ++ leBytes 2 7 ++ leBytes 4 4160 ++ leBytes 4 v ++ leBytes 4 1 ++ leBytes 8 0x1122
    ++ List.replicate 4 0

/-- Bytes 0 to 255: the fields and the maker's key. -/
def imgHead (v : Nat) : List Byte := imgFields v ++ makerPub ++ List.replicate 91 0

/-- Bytes 388 to 4,159: the section table (Table 14.3), of which only the settings have bytes, and those. -/
def imgTail : List Byte :=
  List.replicate 124 0
    ++ ((List.range 7).flatMap fun j => leBytes 4 (j + 1) ++ leBytes 4 4096 ++ leBytes 4 (if j = 2 then 64 else 0)
        ++ leBytes 4 (if j = 2 then (crc32 settings).toNat else 0))
    ++ List.replicate 3472 0 ++ settings

/-- The maker's signature of the digest, with the signature read as zero (R422). -/
def imgSig (v : Nat) : List Byte :=
  (List.range 132).map fun j =>
    (Config.makerSign (Config.sha512 (imgHead v ++ List.replicate 132 0 ++ imgTail))).getD j 0

/-- A sound image of this security version, signed by the maker. -/
def image (v : Nat) : ImageFact := { readable := true, fwVersion := 0x00010203, bytes := imgHead v ++ imgSig v ++ imgTail }

/-- What a phase finds with these two images. -/
def facts (a b : ImageFact) : PhaseFacts :=
  { flash := { found := true, octal := true, size := 0x8000000 }, noFloor := false
    slotA := a, slotB := b, failures := [], tests := [], copyB := false, torn := 0, selfcal := [], micros := 100 }

theorem imgFields_length (v : Nat) : (imgFields v).length = 32 := by simp [imgFields, leBytes]

theorem imgHead_length (v : Nat) : (imgHead v).length = 256 := by simp [imgHead, makerPub, imgFields_length]

theorem imgSig_length (v : Nat) : (imgSig v).length = 132 := by simp [imgSig]

theorem imgTail_length : imgTail.length = 3772 := by decide +kernel

theorem image_digest (v : Nat) (h : imgLen (image v) = 4160) :
    imgDigest (image v) = Config.sha512 (imgHead v ++ List.replicate 132 0 ++ imgTail) := by
  have hl : (image v).bytes.length = 4160 := by simp [image, imgHead_length, imgSig_length, imgTail_length]
  have h1 : (image v).bytes.take 256 = imgHead v := by simp [image, imgHead_length]
  have h2 : (image v).bytes.drop 388 = imgTail := by simp [image, imgHead_length, imgSig_length, List.drop_append]
  unfold imgDigest
  rw [h, List.take_of_length_le (by omega)]
  dsimp only
  rw [h1, h2]

theorem image_key (v : Nat) : imgKey (image v) = makerPub := by
  simp [imgKey, imgBytes, image, imgHead, makerPub, imgFields_length]

theorem image_signature (v : Nat) : imgSignature (image v) = imgSig v := by
  simp [imgSignature, imgBytes, image, imgHead_length, imgSig_length]

theorem image_signed (v : Nat) (h : imgLen (image v) = 4160) : keyOk (image v) = true ∧ signatureOk (image v) = true := by
  refine ⟨by simp [keyOk, romDigests, image_key, makerPub], ?_⟩
  unfold signatureOk
  rw [image_key, image_signature, image_digest v h]
  simp [imgSig, makerPub]

theorem orElse_free (A C : Option Nat) (c : Bool) (free : Nat)
    (h : (A.orElse fun _ => (if c then none else some 0).orElse fun _ => C) = none) :
    (A.orElse fun _ => (if c then none else some free).orElse fun _ => C) = none := by
  cases A <;> cases c <;> simp_all

theorem badSection_free (i : ImageFact) (free : Nat) (h : badSection 0 i = none) : badSection free i = none :=
  orElse_free _ _ _ free h

/-- R422: the image passes each of the seven steps where its version is not below the floor, and below it fails with reason 5. -/
theorem image_verified (v free floor : Nat) (hv : v = 1 ∨ v = 2) : verifyImage free floor (image v)
    = if v < floor then some (5, min floor 0xFFFF * 2 ^ 16) else none := by
  have hl : imgLen (image v) = 4160 := by rcases hv with rfl | rfl <;> decide +kernel
  have hs := image_signed v hl
  have hh : headerOk (image v) = true := by rcases hv with rfl | rfl <;> decide +kernel
  have hver : imgVersion (image v) = v := by rcases hv with rfl | rfl <;> decide +kernel
  have hb : badSection free (image v) = none := badSection_free _ _ (by rcases hv with rfl | rfl <;> decide +kernel)
  have hset : badSetting (sectionOf (image v) 3) = none := by rcases hv with rfl | rfl <;> decide +kernel
  unfold verifyImage
  simp [hs.1, hs.2, hh, hver, hb, hset, show (image v).readable = true from rfl]

theorem witness_StartUpPhases :
    (State.reset.pow.inputGood = true ∧ State.reset.pow.modReset = false ∧ State.reset.pow.tripped = false
      ∧ State.reset.pow.railsUp = true ∧ State.reset.su.phase0Done = false ∧ State.reset.su.phase = 0
      ∧ firstIsB (image 1) (image 2) = true ∧ firstIsB (image 1) (image 1) = false)
      ∧ verifyImage (Config.freeByte 0).toNat 1 (image 1) = none
      ∧ (verifyImage (Config.freeByte 0).toNat 2 (image 1)).isSome = true
      ∧ readSlot (facts (image 1) (image 2)) (image 1) = image 1 := by
  refine ⟨by decide +kernel, ?_, ?_, rfl⟩ <;> rw [image_verified 1 _ _ (.inl rfl)] <;> rfl

/-- R423: of two sound images, the one of the higher security version runs. -/
theorem test_higher_version_runs :
    (fun t : State => (t.su.phase, t.su.slotB, t.su.secVersion, t.ident.fwVersion, t.su.auto))
      (endImage (facts (image 1) (image 2)) { State.reset with su := { phase := 1 } }) = (2, true, 2, 0x00010203, true) := by
  have h1 : readSlot (facts (image 1) (image 2)) (facts (image 1) (image 2)).slotA = image 1 := rfl
  have h2 : readSlot (facts (image 1) (image 2)) (facts (image 1) (image 2)).slotB = image 2 := rfl
  have hb : firstIsB (image 1) (image 2) = true := by decide +kernel
  unfold endImage
  simp only [h1, h2, hb, if_true, image_verified 2 _ _ (.inr rfl)]
  decide +kernel

/-- R422: an image below the floor fails with reason 5, and with both failing, start-up halts in phase FAILED. -/
theorem test_rollback_fails :
    (fun t : State => (t.su.phase, t.su.reason)) (endImage (facts (image 2) (image 1))
      { State.reset with su := { phase := 1 }, lar := { State.reset.lar with live := { State.reset.lar.live with floor := 3 } } })
      = (8, 5) := by
  have h1 : readSlot (facts (image 2) (image 1)) (facts (image 2) (image 1)).slotA = image 2 := rfl
  have h2 : readSlot (facts (image 2) (image 1)) (facts (image 2) (image 1)).slotB = image 1 := rfl
  have hb : firstIsB (image 2) (image 1) = false := by decide +kernel
  unfold endImage
  simp only [h1, h2, hb, Bool.false_eq_true, if_false, image_verified 2 _ _ (.inr rfl), image_verified 1 _ _ (.inl rfl)]
  decide +kernel

/-- A part waiting in phase 6 that lost a quadrant's clusters, or failed a test. -/
def waiting (f : SMap (Option W32)) : State := { up with su := { phase := 6, failures := f, secVersion := 9 } }

theorem witness_DeviceEnableCheck :
    firstFailure (waiting []) = none ∧ firstFailure (waiting [(0x18, some 5), (0x12, some 3)]) = some (0x12, 3) ∧ bitOf (1 : W32).toNat 0 = true ∧ (waiting []).su.phase = 6
      ∧ up.su.phase = 7 ∧ State.reset.su.phase.toNat < 6 := by decide +kernel

theorem witness_ModulePins :
    up.pow.modReset = false ∧ up.su.phase0Done = false ∧ up.pow.inputGood = true ∧ up.pow.tripped = false
      ∧ (after .modResetLow up (fun t => t.pow.modReset) = some true) := by decide +kernel

/-- R540: MOD_RESET# rises with FLASH_OWN# low, phase 0 ends and holds, and the rise of FLASH_OWN# enters phase 1. -/
theorem test_flash_own_hold :
    ((((after .flashOwnAssert up id).bind fun t => after .modResetLow t id).bind fun t => after .modResetHigh t id).bind fun t =>
      after (.startupPhaseEnd (facts (image 1) (image 1))) t id).bind (fun t => after .flashOwnDeassert t fun u =>
        (t.su.phase, t.su.phase0Done, u.su.phase)) = some (0, true, 1) := by decide +kernel

theorem witness_TripsAndInputLoss :
    up.pow.railsUp = true ∧ up.pow.inputGood = true ∧ up.pow.modReset = false ∧ up.pow.tripTimes.length ≤ 4
      ∧ (let s := { up with pow := { up.pow with tripped := true, railsUp := false, ticks := 3277, tripTick := 0 } }
         s.pow.tripped = true ∧ s.pow.latched = false ∧ 3277 ≤ s.pow.ticks - s.pow.tripTick)
      ∧ (let s := { up with pow := { up.pow with tripped := true, railsUp := false, ticks := 3276, tripTick := 0 } }
         s.pow.tripped = true ∧ s.pow.ticks - s.pow.tripTick < 3277)
      ∧ ({ up with pow := { up.pow with inputGood := false, railsUp := false } } : State).pow.modReset = false := by decide +kernel

/-- R474: the fourth trip within an hour latches. -/
theorem test_fourth_trip_latches :
    (after (.trivetTrip none) { up with pow := { up.pow with ticks := 117964799, tripTimes := [0, 5, 9] } } fun t => t.pow.latched)
        = some true
      ∧ (after (.trivetTrip none) { up with pow := { up.pow with ticks := 117964800, tripTimes := [0, 5, 9] } } fun t =>
          t.pow.latched) = some false := by decide +kernel

/-- Cluster 0 at 105 °C with STEP at 16. -/
def hot : State :=
  setCluster { up with pow := { up.pow with step := 16 } } 0 { cluster up 0 with pow := { (cluster up 0).pow with tP := 1680 } }

theorem witness_WindowEndThrottle : viewOn up = true ∧ up.mon.conv = [] ∧ shuts up (updateTemps up) = false ∧ viewOn hot = true
    ∧ shuts hot (updateTemps hot) = true ∧ viewOn State.reset = false := by decide +kernel

/-- R468: below 90 °C everywhere, STEP falls by 1 and the limit in force rises by 25 W. -/
theorem test_step_falls :
    after (.windowEnd { powerAvg := 4000, powerPeak := 4200, inputV := 5400, clusters := [] })
      { up with pow := { up.pow with step := 2, limitSet := 850, limitForce := 800 } }
      (fun t => (t.pow.step, t.pow.limitForce)) = some (1, 825) := by decide +kernel

/-- Cluster 0 above its share with a point left to drop to, or waiting to settle one up. -/
def tight (settle : Option W64) : State :=
  setCluster up 0 { cluster up 0 with pow := { (cluster up 0).pow with share := 100, point := 3, settle := settle } }

theorem witness_ClusterPoints :
    enabledCl up 0 = true ∧ viewOn up = true ∧ (cluster up 0).pow.valid = 0xFF ∧ clusterIdle up 0 = true
      ∧ (cluster (tight none) 0).pow.share.toNat < (101 : W16).toNat ∧ (100 : W16).toNat ≤ (cluster (tight none) 0).pow.share.toNat
      ∧ (cluster (tight none) 0).pow.point ≠ 7 ∧ (cluster (tight (some 9)) 0).pow.settle.isSome = true
      ∧ (cluster (tight (some 9)) 0).pow.point ≠ 0 ∧ (9 : W64).toNat ≤ { up.fab with beat := 9 }.beat.toNat
      ∧ enabledCl up 5 = false
      ∧ (let s := setCluster up 0 { cluster up 0 with pow := { (cluster up 0).pow with clkGated := true, idle := 1024 } }
         clusterIdle s 0 = true ∧ viewOn s = true ∧ (cluster s 0).pow.clkGated = true ∧ 1024 ≤ (cluster s 0).pow.idle) := by decide +kernel

/-- R470: a cluster over its share drops one point. -/
theorem test_point_drops : after (.powerWindowEnd 0 101) (tight none) (fun t => ((cluster t 0).pow.point, (cluster t 0).pow.drops))
    = some (4, 1) := by decide +kernel

theorem witness_AgeingReplan :
    let s := setCluster up 0 { cluster up 0 with pow := { (cluster up 0).pow with due := true, vDelta := 3 } }
    enabledCl s 0 = true ∧ (cluster s 0).pow.due = true ∧ (cluster s 0).pow.vDelta.toNat + look (fun _ => 0) (cluster s 0).pow.raises (cluster s 0).pow.point.toNat = 3
      ∧ 0 ≤ ((3 : Nat) : Int) + (-3) ∧ ((3 : Nat) : Int) + 252 < 256
      ∧ (∀ i < 18, boundOf s (18 * 0 + i) = none)
      ∧ (let w : State := { s with hw := { s.hw with cores := [(0, { usable := true, bound := some 1, window := some (4, 200) })] } }
         (∀ j < 0, boundOf w (18 * 0 + j) = none) ∧ (boundOf w (18 * 0 + 0)).isSome = true ∧ windowOpen w (18 * 0 + 0) 2 0 = true)
      ∧ (let w : State := { s with hw := { s.hw with cores := [(0, { usable := true, bound := some 1 })] } }
         (boundOf w 0).isSome = true ∧ ∀ j < 18, windowOpen w (18 * 0 + j) 2 0 = false) := by decide +kernel

/-- Converter 0 running with entry 2 in use. -/
def sampled : State := { up with mon := { up.mon with conv := [(0, { st := 2, cfg := [(2, 0x40000)] })] } }

theorem witness_MonitorSamplesAndSnapshot :
    (conv sampled 0).st = 2 ∧ nextEntry (conv sampled 0) = some 2 ∧ bitOf (convCfg sampled 0 3) 18 = false
      ∧ (conv sampled 13).st ≠ 2 ∧ below7 sampled = false ∧ bitOf (1 : W32).toNat 0 = true := by decide +kernel

theorem witness_LarderWrites :
    let w : FlashWrite := { prio := 2, copyB := false, job := .counters { version := 4 } }
    let q := { up with lar := { up.lar with queue := [w] } }
    q.lar.queue = w :: [] ∧ q.pow.flashFree = false ∧ viewOn up = true ∧ up.lar.folding = none
      ∧ (let s := { up with lar := { up.lar with appended := 163840 } }; s.lar.folding = none ∧ 163840 ≤ s.lar.appended ∧ viewOn s = true)
      ∧ up.lar.calSets = [] ∧ ({ up with lar := { up.lar with calSets := [7] } } : State).lar.calSets.getLast? = some 7 := by
  decide +kernel

/-- R519: a page write of copy A puts the counter record into flash. -/
theorem test_counter_record_written :
    after .flashPageWriteComplete { up with lar := { up.lar with queue := [{ prio := 2, copyB := false, job := .counters { version := 4 } }] } }
      (fun t => (t.lar.queue.length, t.lar.flash.version)) = some (0, 4) := by decide +kernel

/-! ### The Miotor fabric -/

/-- Table 10.6: the lead of rings of 1, 8, 64 and 512 parts. -/
theorem test_stretch_lead : (lamOf 1, lamOf 8, lamOf 64, lamOf 512) = (2, 6, 34, 258) := by decide +kernel

/-- Position `pos` of a ring of 8 parts, seated in ring order, all ports up, in this fabric state. -/
def ring8 (st : BitVec 2) (pos : BitVec 9) : State :=
  { up with fab := { up.fab with
      st := st, ringSize := 8, myPos := pos, mySeat := pos.setWidth 10, seats := 8, locked := true, lead := 6,
      seatTab := (List.range 7).map fun i => (i + 1, BitVec.ofNat 16 (i + 1)),
      ports := (List.range 8).map fun k => (k, { st := 2 }) } }

theorem witness_MapWrittenOnlyOutsideADomain :
    fabricOpen up .host = true ∧ fabricOpen State.reset .host = false ∧ isMapReg 0x4013FC = true ∧ isMapReg 0x401400 = false
      ∧ up.fab.st = 0 ∧ (ring8 1 0).fab.st = 1 ∧ (ring8 2 0).fab.st = 2 ∧ fabricOpen (ring8 2 0) .mgmt = true := by decide +kernel

/-- Table 10.7: seats 510 and 511 in the last map word. -/
theorem test_map_write : after (.mapWrite .host 0x4013FC 0x00070003) up (fun t => (seatPos t 510, seatPos t 511, seatPos t 509))
    = some (3, 7, 0xFFFF) := by decide +kernel

theorem witness_TransactionTimerMinimums :
    fabricOpen up .host = true ∧ fabricOpen up .mgmt = true ∧ up.fab.txns = [] := by decide +kernel

theorem witness_DomainForms :
    let f := ring8 1 3
    let good : FormWord := { domainId := f.fab.domainId, digest := f.fab.digest, pos := 2 }
    bitOf (1 : W32).toNat 0 = true ∧ bitOf (1 : W32).toNat 1 = false ∧ anyEnabled (ring8 0 3) = false ∧ mapValid (ring8 0 3) = true
      ∧ mapValid up = true ∧ up.fab.ringSize = 1
      ∧ mapValid { up with fab := { up.fab with ringSize := 0 } } = false
      ∧ f.fab.st = 1 ∧ good.pos.toNat = (f.fab.myPos.toNat + ringN f - 1) % ringN f ∧ seatedRight f = true ∧ f.fab.myPos ≠ 0
      ∧ ((3 : Nat) + 1) % ringN f ≠ f.fab.myPos.toNat % ringN f
      ∧ ((7 : BitVec 9).toNat = ((ring8 1 0).fab.myPos.toNat + ringN (ring8 1 0) - 1) % ringN (ring8 1 0))
      ∧ (port { f with fab := { f.fab with ports := [] } } 0).st = 0
      ∧ (let t := { f with fab := { f.fab with ports := (List.range 8).map fun k => (k, { st := 1 }) } }
         (port t 0).st = 1 ∧ t.fab.st = 1) := by decide +kernel

/-- R302: a ring of one forms at once; R301: a map whose position lies outside the ring is cause 6. -/
theorem test_join :
    after (.join .host 1) up (fun t => (t.fab.st, t.fab.beat)) = some (2, 0)
      ∧ after (.join .host 1) { up with fab := { up.fab with myPos := 1 } } (fun t => (t.fab.st, t.fab.cause)) = some (3, 6) := by
  decide +kernel

/-- R294: 240 ns is the longest raw latency that a port trains with. -/
theorem test_port_latency :
    let s := { up with fab := { up.fab with ports := [(2, { st := 1 })] } }
    after (.portTrainingComplete 2 240 true) s (fun t => (port t 2).st) = some 2
      ∧ after (.portTrainingComplete 2 241 true) s (fun t => (port t 2).st) = some 3 := by decide +kernel

theorem witness_LeaveKeepsTheBeat :
    bitOf (2 : W32).toNat 0 = false ∧ bitOf (2 : W32).toNat 1 = true ∧ fabricOpen (ring8 2 3) .host = true
      ∧ liveBindings (ring8 2 3) = []
      ∧ (let s := { ring8 2 3 with ten := { up.ten with
            entries := [(1, { st := 3 })], runs := [(1, { plan := List.replicate 64 0 ++ [2, 0] })] } }
         liveBindings s = [1] ∧ holds s 1 = true ∧ 1 < plParts (planOf s 1)) := by decide +kernel

theorem witness_DomainFaultRaisedOnce :
    (ring8 1 3).fab.st = 1 ∧ (ring8 3 3).fab.st = 3 ∧ (ring8 2 3).fab.st = 2 ∧ (ring8 2 3).fab.myPos ≠ 0
      ∧ ((9, 5) : BitVec 4 × BitVec 9) ∉ (ring8 2 3).fab.noticed
      ∧ ((9, 5) : BitVec 4 × BitVec 9) ∈ { (ring8 2 3).fab with noticed := [(9, 5)] }.noticed := by decide +kernel

/-- R307: the notice is cause 7 here and goes on; the same one from the other side changes nothing, and one of another fault is only
passed on. -/
theorem test_fault_notice :
    (after (.domainFaultNotice 9 ⟨5, true⟩) (ring8 2 3) id).bind (fun t => (after (.domainFaultNotice 9 ⟨5, false⟩) t id).map fun u =>
        (t.fab.st, t.fab.cause, t.err.raised, t == u)) = some (3, 7, 1, true)
      ∧ after (.domainFaultNotice 10 ⟨2, true⟩) (ring8 3 3) (fun u => (u.err.raised, u.out.contains (.faultNotice 10 2)))
          = some (0, true) := by decide +kernel

theorem witness_BeatEdgeCounts :
    beats State.reset = false ∧ beats (ring8 2 3) = true
      ∧ inStretch { ring8 2 3 with fab := { (ring8 2 3).fab with beat := 9, grant := some { x0 := 10, e0 := 12 } } } 10 = true
      ∧ inStretch (ring8 2 3) 1 = false ∧ wordMissing { ring8 2 3 with fab := { (ring8 2 3).fab with wordNext := 1 } } = false
      ∧ (let s := { ring8 2 3 with fab := { (ring8 2 3).fab with beat := 9, wordNext := 8, misses := 2 } }
         wordMissing s = true ∧ s.fab.misses < 3 ∧ 3 ≤ { s.fab with misses := 3 }.misses) := by decide +kernel

/-- R304: a stretch [10, 12) inserts its beats, and the schedule count stands still. -/
theorem test_beat_edge :
    let s := { ring8 2 3 with fab := { (ring8 2 3).fab with beat := 10, sched := 9, wordNext := 11, grant := some { x0 := 10, e0 := 12 } } }
    after .beatEdge s (fun t => (t.fab.beat, t.fab.sched, t.fab.inserted)) = some (11, 9, 1)
      ∧ (after .beatEdge s id).bind (fun t => after .beatEdge t fun u => (u.fab.beat, u.fab.sched)) = some (12, 10) := by
  decide +kernel

/-- A beat word of beat 5 with its check byte. -/
def word5 : BeatWord :=
  let w : BeatWord := { beat := 5, toPoint := 0, toEnd := 0, token := false, check := 0 }
  { w with check := crc8 (beatBytes w) }

theorem witness_FourMissesLoseTheBeat :
    let s := { ring8 2 3 with fab := { (ring8 2 3).fab with beat := 5, misses := 2 } }
    s.fab.st = 2 ∧ s.fab.myPos ≠ 0 ∧ word5.check = crc8 (beatBytes word5) ∧ expects s word5.beat ∧ ¬ expects s (word5.beat + 1) ∧ s.fab.myPos.toNat + 1 < ringN s
      ∧ ringN (ring8 2 7) ≤ (ring8 2 7).fab.myPos.toNat + 1 ∧ word5.token = false
      ∧ s.fab.misses < 3 ∧ { word5 with check := word5.check + 1 }.check ≠ crc8 (beatBytes { word5 with check := word5.check + 1 })
      ∧ 3 ≤ { s.fab with misses := 3 }.misses ∧ (ring8 2 0).fab.myPos = 0 := by
  unfold expects; decide +kernel

/-- R305: the fourth miss in a row loses the beat. -/
theorem test_fourth_miss :
    after (.beatWordReceived word5 false) { ring8 2 3 with fab := { (ring8 2 3).fab with beat := 5, misses := 3 } }
      (fun t => (t.fab.st, t.fab.cause)) = some (3, 8) := by decide +kernel

/-- The master of the ring with two requests of beat 20 waiting, two resolution beats later. -/
def resolving (g : Option Stretch) : State :=
  { ring8 2 0 with fab := { (ring8 2 0).fab with
      beat := 23, grant := g, waiting := [{ beat := 20, len := 4, pos := 3 }, { beat := 20, len := 9, pos := 5 }] } }

theorem witness_StretchesGranted :
    (ring8 2 0).fab.st = 2 ∧ (ring8 2 0).fab.myPos = 0 ∧ ringN (ring8 2 0) = 8 ∧ (ring8 2 3).fab.myPos ≠ 0
      ∧ (20 : W64).toNat + lamR (ringN (resolving none)) ≤ (resolving none).fab.beat.toNat
      ∧ (resolving none).fab.waiting.any (fun q => q.beat == 20 && q.len.toNat == 9) = true
      ∧ (resolving none).fab.waiting.all (fun q => q.len.toNat ≤ 9) = true
      ∧ (resolving (some { x0 := 24, e0 := 30 })).fab.grant = some { x0 := 24, e0 := 30 } ∧ 24 ≤ 20 + 6 ∧ 20 + 6 ≤ 30
      ∧ (let s := resolving (some { x0 := 20, e0 := 25 })
         s.fab.grant = some { x0 := 20, e0 := 25 } ∧ 25 < (20 : W64).toNat + s.fab.lead.toNat ∧ s.fab.later = [])
      ∧ inStretch (resolving (some { x0 := 20, e0 := 25 })) 23 = true ∧ (resolving none).fab.started = false
      ∧ (let s := { ring8 2 3 with fab := { (ring8 2 3).fab with beat := 30, grant := some { x0 := 24, e0 := 30 } } }
         s.fab.grant = some { x0 := 24, e0 := 30 } ∧ (30 : W64).toNat ≤ s.fab.beat.toNat) := by decide +kernel

/-- R318: the longest of the beat's requests starts at its beat + the lead; one that meets a grant lengthens it. -/
theorem test_stretch_resolve :
    after (.stretchResolve 20) (resolving none) (fun t => (t.fab.grant, t.fab.stretches)) = some (some { x0 := 26, e0 := 35 }, 1)
      ∧ after (.stretchResolve 20) (resolving (some { x0 := 24, e0 := 30 })) (fun t => (t.fab.grant, t.fab.stretches))
          = some (some { x0 := 24, e0 := 35 }, 0) := by decide +kernel

/-- One outstanding transaction of the member, sent down, due at beat 64. -/
def sent (resent : Bool) (beat : W64) : State :=
  { ring8 2 3 with fab := { (ring8 2 3).fab with
      beat := beat, txns := [{ tag := 7, dst := 5, down := true, expiry := 64, ext := 9, resent := resent, data := [1, 2] }] } }

theorem witness_LinkRetryAndTransactions :
    (port (ring8 2 3) 4).st = 2 ∧ ((sent false 0).fab.txns.find? (·.tag == 7)).isSome = true ∧ bondPorts (sent false 0) true ≠ 0
      ∧ (sent false 0).fab.txns.length < 2 ^ 24
      ∧ (let s := { ring8 2 3 with fab := { (ring8 2 3).fab with ports := [(0, { st := 2 }), (4, { st := 2 })] } }
         s.fab.st = 2 ∧ (port s 0).st = 2 ∧ (List.range 4).all (fun j => j == 0 || (port s j).st != 2) = true)
      ∧ (port (ring8 2 3) 1).st = 2
      ∧ startsEpisode (port (ring8 2 3) 4).used (port (ring8 2 3) 4).upTo 7
      ∧ (let s := { ring8 2 3 with fab := { (ring8 2 3).fab with ports := [(4, { st := 2, used := 3, upTo := 9, sentAgain := 8, sentUpTo := 9 })] } }
         ¬ startsEpisode (port s 4).used (port s 4).upTo 7 ∧ (port s 4).used < 8 ∧ startsEpisode (port s 4).used (port s 4).upTo 10
           ∧ ¬ startsEpisode (port s 4).sentAgain (port s 4).sentUpTo 9 ∧ 8 ≤ (port s 4).sentAgain)
      ∧ boundOf { ring8 2 3 with hw := { up.hw with cores := [(0, { usable := true, bound := some 1 })] } } 0 = some 1 := by
  unfold startsEpisode; decide +kernel

/-- R324: flit 7 of 10 sent is lost: the flits from it on go again, and each source that has one held is told. -/
theorem test_go_back :
    after (.flitLost ⟨4, some [(2, 7)], 7, 9⟩) { ring8 2 3 with fab := { (ring8 2 3).fab with ports := [(4, { st := 2, seq := 10, flits := 10 })] } }
      (fun t => ((port t 4).flits, (port t 4).retransmits, t.out.contains (.retryNotice 2 [7]))) = some (13, 1, true) := by decide +kernel

/-- R325, R326: the first error completion sends again, a second one faults the domain; the timer counts to its beat. -/
theorem test_transactions :
    after (.errorCompletion 7) (sent false 0) (fun t => (t.fab.errCompl, t.fab.txns.map (·.resent), t.fab.st)) = some (1, [true], 2)
      ∧ after (.errorCompletion 7) (sent true 0) (fun t => (t.fab.st, t.fab.cause)) = some (3, 10)
      ∧ after (.transactionTimeout 7) (sent false 63) (fun t => t.fab.timeouts) = some 0
      ∧ after (.transactionTimeout 7) (sent false 64) (fun t => (t.fab.timeouts, t.fab.st, t.err.raised)) = some (1, 3, 2) := by
  decide +kernel

/-- Plan part 0 of a two-part plan waiting for ready messages. -/
def gathering (ready : List (BitVec 9)) : State :=
  { ring8 2 3 with fab := { (ring8 2 3).fab with
      sched := 100, ops := [{ planId := 0x77, parts := 2, lead := true, ready := ready, since := some 0, sent := none, epoch := none }] } }

theorem witness_MultiPartOperations :
    let q : PlanMsg := { planId := 0x77, part := 1, reason := 0, detail := 0, epoch := 0 }
    let o (r : List (BitVec 9)) : MultiOp :=
      { planId := 0x77, parts := 2, lead := true, ready := r, since := some 0, sent := none, epoch := none }
    (ring8 0 3).fab.st ≠ 2 ∧ leadOp (gathering []) 0x77 = o [] ∧ q.part ∉ (o []).ready ∧ (o []).ready.length + 1 < (o []).parts
      ∧ leadOp (gathering [0]) 0x77 = o [0] ∧ q.part ∉ (o [0]).ready ∧ (o [0]).parts ≤ (o [0]).ready.length + 1
      ∧ partPos (gathering [0]) 3 1 = 4
      ∧ (let w : SwitchOp := { incoming := some 1, outgoing := [], cores := [], cmd := none, release := [], accept := 0, epoch := none, begun := false, failed := none, scrubs := [], planId := 0x77 }
         let s := { ring8 2 3 with ten := { up.ten with entries := [(1, { st := 4 })], runs := [(1, { prev := 2 })], switches := [w] } }
         s.ten.switches.filter (fun o => o.epoch.isNone && o.planId == 0x77) = [w] ∧ (brun s 1).prev = 2)
      ∧ (let m : MultiOp := { planId := 0x77, parts := 2, lead := false, ready := [], since := none, sent := some 0, epoch := none }
         let s := { ring8 2 3 with fab := { (ring8 2 3).fab with sched := 131072, ops := [m] } }
         m ∈ s.fab.ops ∧ m.sent = some 0 ∧ (0 : W64).toNat + 131072 ≤ s.fab.sched.toNat)
      ∧ (let s := { gathering [0] with fab := { (gathering [0]).fab with sched := 65536 } }
         o [0] ∈ s.fab.ops ∧ (o [0]).since = some 0 ∧ (0 : W64).toNat + 65536 ≤ s.fab.sched.toNat
           ∧ partPos s s.fab.mySeat.toNat 0 = s.fab.myPos.toNat ∧ partPos s s.fab.mySeat.toNat 1 ≠ s.fab.myPos.toNat) := by
  decide +kernel

/-- R311: the last ready message names the epoch of the lead and two beats on, rounded up. -/
theorem test_ready_names_epoch :
    after (.readyMessage { planId := 0x77, part := 1, reason := 0, detail := 0, epoch := 0 }) (gathering [0]) (fun t =>
      t.out.contains (.planMsg 2 4 { planId := 0x77, part := 0, reason := 0, detail := 0, epoch := 1 })) = some true := by
  decide +kernel

/-- R312: a lead that has waited 65,536 schedule beats tells the other part, with check 6 of Table 10.4. -/
theorem test_ready_wait :
    after .readyWaitTimeout { gathering [0] with fab := { (gathering [0]).fab with sched := 65536 } } (fun t =>
      (t.fab.ops.length, t.out.contains (.planMsg 3 4 { planId := 0x77, part := 0x1FF, reason := 0x40, detail := 0x61FF, epoch := 0 })))
      = some (0, true)
      ∧ after .readyWaitTimeout { gathering [0] with fab := { (gathering [0]).fab with sched := 65535 } } (fun t => t.fab.ops.length)
        = some 1 := by decide +kernel

/-! ### A plan, its load and its switch -/

/-- One op record: OPCODE, FLAGS, BEAT, RSEQ and the fields from bit 64 on (Table 6.4), of layer 0. -/
def recWord (op flags beat seq hi : Nat) : Nat := op + 2 ^ 8 * flags + 2 ^ 32 * beat + 2 ^ 240 * seq + 2 ^ 64 * hi

/-- Layer 0 of the plan: W and N 256, η 1.875, σ_min 2^-14, θ 2, CARRY on, a 1, B and P 2, start scales at 512 of the image. -/
def tinyLayer : List Byte :=
  leBytes 64 (packBits ([(256, 32), (256, 32), (0x3F80, 16), (0x0400, 16), (0, 16), (2, 8), (5, 8), (2, 16), (2, 16), (512, 32),
    (0xFFFFFFFF, 32), (0, 32)] ++ [(0xFFFFFFFF, 32), (0xFFFFFFFF, 32), (0xFFFFFFFF, 32), (0, 32), (0xFFFFFFFF, 32), (0xFFFFFFFF, 32)]))

/-- The serving and fabric blocks, and the start scales 4.0, 1.0 and 2.0 of the quantiser's worked example. -/
def tinyParams : List Byte :=
  leBytes 128 (packBits [(4, 8), (0, 120), (32000, 32), (0, 352), (1, 16), (1, 8), (1, 8)])
    ++ leBytes 64 (packBits ([(0x4400, 16), (0x3C00, 16)] ++ List.replicate 6 (0x4000, 16)))

/-- A plan image of one core and one layer without planes: 592 bytes; the CRC-32 is computed outside the model. -/
def tiny : List Byte :=
  leBytes 64 (packBits [(0x5350414E, 32), (1, 16), (1, 16), (1, 32), (8, 32), (64, 32), (128, 32), (384, 32), (576, 32), (592, 32),
    (0x0F3BB9D3, 32), (0x77, 64)])
    ++ tinyLayer ++ leBytes 64 (packBits [(192, 32), (2, 32), (256, 32), (3, 32)])
    ++ leBytes 32 (recWord 1 0 0 0 0) ++ leBytes 32 (recWord 2 0 8 1 0)
    ++ leBytes 32 (recWord 1 0 0 0 0) ++ leBytes 32 (recWord 1 0 8 1 0) ++ leBytes 32 (recWord 2 0 16 2 0) ++ leBytes 32 0
    ++ tinyParams ++ leBytes 16 0

/-- R176 to R200 and R226: the image passes every check of binding enable. -/
theorem test_plan_accepted : checkImage tiny 592 (regionsOf tiny 0 [0] 0) = none := by decide +kernel

/-- A command on the privileged ring 5. -/
def cmd (b : BitVec 12) (rec : W32) (p : List Byte) : Cmd := { ring := 5, tag := 7, binding := b, record := rec, payload := p }

/-- What host memory holds for the load: the image, and a core map that names core 0 of cluster 0. -/
def loadData : CmdData := { plan := tiny, map := [0, 0], tokens := [], badAddr := false }

/-- BIND_LOAD of tenant 9 with this PEER (Table 12.6): 10 pages, 4 records. -/
def loadCmd (peer : Nat) : Cmd :=
  cmd 1 0xFFFFFFFF (leBytes 64 (packBits [(9, 64), (0x1000, 64), (592, 32), (0x41D912FF, 32), (0x2000, 64), (10, 32), (4, 32), (0, 32), (0, 32),
    (0, 16), (0, 16), (0, 16), (peer, 16), (0, 8), (5, 8)]))

/-- The part in service with a privileged ring 5 and 100 free frames. -/
def hosted : State :=
  { setRing up 5 { ringReset 5 with priv := true, cqEnable := true } with ten := { up.ten with free := 100, fwEnd := 16 } }

theorem witness_BindingLoads :
    Taken 0x01 1 (loadCmd 0xFFF) hosted ∧ (ring hosted 5).priv = true ∧ (ring up 5).priv = false ∧ loadRanges (loadCmd 0xFFF) = true
      ∧ loadRanges { loadCmd 0xFFF with record := 0 } = false ∧ bindingBusy hosted 1 = false
      ∧ bindingBusy { hosted with ten := { hosted.ten with entries := [(1, { st := 4 })] } } 1 = true
      ∧ loadCheck hosted 1 (loadCmd 0xFFF) loadData = none ∧ loadCheck hosted 1 (loadCmd 1) loadData = some (0x36, 1)
      ∧ loadCheck hosted 1 (loadCmd 0xFFF) { loadData with map := [1, 0] } = some (0x37, 2 ^ 12) := by
  refine ⟨⟨?_, ?_, ?_, ?_⟩, ?_⟩ <;> decide +kernel

/-- The binding RESIDENT, with its plan; its frames stand for those of the free choice of frames (log entry 6). -/
def loaded : State :=
  { hosted with ten := { hosted.ten with
      entries := [(1, { st := 2, tenant := 9, planId := 0x77, peer := 0xFFF, planFrame := 16, planLen := 592, mapFrame := 17, pageQuota := 10,
                        ctxQuota := 4, ring := 5, cores := 1, keyGen := 1 })]
      runs := [(1, { plan := tiny, coreMap := [0], fixed := 2 })], owner := [(16, .tenant 1), (17, .tenant 1)], free := 98, keys := [(1, 1)] } }

/-- BIND_SWITCH of binding 1 with no outgoing bindings. -/
def switchCmd : Cmd := cmd 1 0xFFFFFFFF (leBytes 8 0)

theorem witness_SwitchesAccepted :
    Taken 0x02 1 switchCmd loaded ∧ (entry loaded 1).st ≠ 0 ∧ outList switchCmd.payload = [] ∧ leAt switchCmd.payload 0 2 ≤ 218
      ∧ [1].Nodup ∧ bindingBusy loaded 1 = false ∧ switchCheck loaded (some 1) [] = none ∧ plParts (planOf loaded 1) ≤ 1
      ∧ (switchCheck { loaded with ten := { loaded.ten with entries := [(1, { entry loaded 1 with st := 6 })] } } (some 1) []).isSome = true
      ∧ 218 < leAt (leBytes 8 219) 0 2 := by
  refine ⟨⟨?_, ?_, ?_, ?_⟩, ?_⟩ <;> decide +kernel

/-- The switch accepted, its epoch begun (its core scrubbing), and its core handed over (R339 to R343). -/
def switching : State := (after (.bindSwitch switchCmd) loaded id).getD up
/-- At schedule beat 1,024. -/
def begunSt : State := (after .switchEpoch { switching with fab := { switching.fab with beat := 1024, sched := 1024 } } id).getD up
/-- The scrub verified, and beat 64 of the epoch: the recipes are loaded and the window opens. -/
def windowed : State :=
  ((after (.scrubComplete 0 false) { begunSt with fab := { begunSt.fab with beat := 1087, sched := 1087, locked := true } } id).bind fun t =>
    after .beatEdge t id).getD up
/-- The hand-over beat, 1,016 of the epoch. -/
def handing : State := { windowed with fab := { windowed.fab with beat := 2040, sched := 2040 } }

theorem test_switch :
    (entry switching 1).st = 4 ∧ (entry begunSt 1).st = 3 ∧ (entry begunSt 1).epoch = 1 ∧ windowed.ten.nScrub = 1
      ∧ (Machine.core windowed 0).recipes = true ∧ (Machine.core windowed 0).window = some (0xF, 2040)
      ∧ after .switchHandover handing (fun t => ((Machine.core t 0).bound, (Machine.core t 0).window, (brun t 1).since))
          = some (some (1, 9), none, 2048) := by
  decide +kernel

theorem witness_SwitchEpochScrubs :
    let s := { switching with fab := { switching.fab with beat := 1024, sched := 1024 } }
    loaded.ten.switches.filter (due loaded) = [] ∧ (s.ten.switches.filter (due s)).length = 1
      ∧ begunSt.ten.switches.length = 1 ∧ (begunSt.ten.switches.map (·.begun)) = [true] ∧ (begunSt.ten.switches.map (·.scrubs)) = [[0]]
      ∧ (Machine.core begunSt 0).failed = false ∧ (handing.ten.switches.map (·.incoming)) = [some 1] ∧ (handing.ten.switches.map (·.failed)) = [none]
      ∧ 1024 * ((handing.ten.switches.map fun (o : SwitchOp) => o.epoch.getD 0).headD 0).toNat + 1016 ≤ handing.fab.sched.toNat ∧ (entry handing 1).st = 3
      ∧ heldBy handing 1 = [] ∧ (Machine.core handing 0).recipes = true ∧ (Machine.core handing 0).subWait = none
      ∧ (cluster handing 0).pow.replan = none ∧ liveBindings handing = [1] := by decide +kernel

theorem witness_UnbindReleases :
    Taken 0x03 1 switchCmd loaded ∧ (ring loaded 5).priv = true ∧ (entry loaded 1).st = 2 ∧ (entry loaded 1).peer = 0xFFF
      ∧ (entry handing 1).st = 3 ∧ bindingBusy switching 1 = true ∧ (entry loaded 2).st = 0
      ∧ BitVec.ofNat 64 (leAt (leBytes 16 (2 ^ 64 * 8)) 8 8) = 8#64 ∧ liveBindings loaded = [1] ∧ (entry loaded 1).tenant ≠ 8 := by
  refine ⟨⟨?_, ?_, ?_, ?_⟩, ?_⟩ <;> decide +kernel

/-- R348: an unheld binding is released and its frames go back. -/
theorem test_unbind : after (.unbind switchCmd) loaded (fun t => (entry t 1, t.ten.free, t.ten.owner)) = some ({}, 100, []) := by
  decide +kernel

/-- Frame 40 with a byte that binding 1 wrote. -/
def keyed : State :=
  { up with mem := [(65536 * 40, 5)], memKeys := [(40, some { binding := 1, gen := 1, stale := none })], ten := { up.ten with keys := [(1, 1), (2, 7)] } }

/-- R354: another binding reads an earlier owner's data as its own key decrypts them; the same binding reads its own. -/
theorem test_key_change :
    memByte (keyFrame 40 1 keyed) (65536 * 40) = 5 ∧ memByte (keyFrame 40 2 keyed) (65536 * 40) = Config.staleByte 0 (65536 * 40)
      ∧ memByte (clearFrame 40 (keyFrame 40 2 keyed)) (65536 * 40) = 0 := ⟨rfl, rfl, rfl⟩

/-! ### Records -/

/-- The binding in service on core 0, at the first beat of its steps. -/
def serving : State :=
  let t := (after .switchHandover handing id).getD up
  { t with fab := { t.fab with beat := 2048, sched := 2048 } }

/-- An opening PREFILL of 3 prompt tokens, 16 to generate, limit 100 (Table 12.6), whose binding's plan has no attention layer. -/
def openCmd : Cmd :=
  cmd 1 0xFFFFFFFF (leBytes 48 (packBits [(1, 32), (0, 32), (0x1000, 64), (3, 32), (16, 32), (100, 32), (0, 64), (0x4000, 64), (64, 32)]))

/-- The prompt. -/
def prompt : CmdData := { plan := [], map := [], tokens := [5, 6, 31999], badAddr := false }

theorem prompt_in_vocab : (prompt.tokens.take (leAt openCmd.payload 16 4)).all
    (fun t => decide (t.toNat < plVocab (planOf serving openCmd.binding.toNat))) = true := by decide +kernel

/-- Record 0 opened and QUEUED (Table 9.1), its tokens not read yet. -/
def openedRec : State :=
  { serving with
    srv := { ctx := [(0, { st := 1, tenant := 1, tokbuf := 20, inputEnd := 3, genLeft := 16, limit := 100 })], run := [(0, { prompt := 3, fillEnd := 3 })] }
    ten := { serving.ten with runs := [(1, { brun serving 1 with queued := [0] })], owner := [(16, .tenant 1), (17, .tenant 1), (20, .tenant 1)], free := 97 }
    host := { serving.host with work := [(0, some { cmd := { ring := 5, tag := 7 }, outAddr := 0x4000, outCap := 64, count := 0,
                                                    progress := false, tokensAddr := 0x1000, opening := true })] } }

/-- The record's frames are had, wherever the free choice of frames falls. -/
theorem frames_had : framesHad serving 1 = true :=
  allocMany_room [] ⟨by decide +kernel, .inr (by decide +kernel), by decide +kernel⟩

theorem witness_RecordsOpened :
    Taken 0x10 2 openCmd serving ∧ OpenFields openCmd prompt serving ∧ bindingStatus serving openCmd false = none
      ∧ bindingStatus serving { openCmd with binding := 2 } false = some 9 ∧ (brun serving 1).fabricFault = false
      ∧ recordAllowed serving 1 = true ∧ draftBinding serving 1 = none
      ∧ recordAllowed { openedRec with ten := { openedRec.ten with entries := [(1, { entry serving 1 with ctxQuota := 1 })] } } 1 = false
      ∧ framesHad { serving with ten := { serving.ten with free := 0 } } 1 = false
      ∧ SMapWf (fun _ => ({} : Ctx)) serving.srv.ctx = true := by
  refine ⟨⟨?_, ?_, ?_, ?_⟩, ⟨?_, ?_, ?_, ?_, ?_, ?_, ?_, ?_, ?_,
    fun t h => of_decide_eq_true (List.all_eq_true.mp prompt_in_vocab t h), ?_, ?_, ?_⟩, ?_⟩ <;> decide +kernel

/-- The binding paired with binding 2; its plan's serving block names the main's role (R286). -/
def pairedUp : State :=
  { serving with ten := { serving.ten with
      entries := [(1, { entry serving 1 with peer := 2 }), (2, { entry serving 1 with peer := 1 })]
      runs := [(1, { brun serving 1 with plan := tiny.set 386 1 }), (2, { brun serving 1 with plan := tiny.set 386 2 })] } }

theorem witness_RecordsOpened_pair :
    draftBinding pairedUp 1 = some 2 ∧ recordAllowed pairedUp 1 = true ∧ recordAllowed pairedUp 2 = true
      ∧ bindingStatus pairedUp openCmd false = none ∧ (brun pairedUp 1).fabricFault = false
      ∧ (pairedUp.srv.ctx.filter fun z => z.2.st != 0).length + 2 ≤ 262144
      ∧ (prompt.tokens.take 3).all (fun t => decide (t.toNat < plVocab (planOf pairedUp 1))) = true
      ∧ leAt openCmd.payload 24 4 ≤ maxCtx (planOf pairedUp 1) := by decide +kernel

/-- The record after its work ended, holding no slot and no command. -/
def rested : State :=
  { openedRec with
    srv := { openedRec.srv with ctx := [(0, { ctx openedRec 0 with st := 3, length := 3, genLeft := 0 })] },
    host := { openedRec.host with work := [] } }

/-- GENERATE of 8 tokens by record 0. -/
def genCmd : Cmd := cmd 1 0 (leBytes 28 (packBits [(0, 64), (8, 32), (0, 32), (0x4000, 64), (32, 32)]))


/-- An extending PREFILL of 2 tokens, generating 8. -/
def extendCmd : Cmd := cmd 1 0 (leBytes 48 (packBits [(0, 64), (0x1000, 64), (2, 32), (8, 32), (0, 96), (0x4000, 64), (32, 32)]))

theorem witness_RecordsExtended :
    Taken 0x11 1 genCmd rested ∧ Taken 0x10 1 extendCmd rested ∧ bindingStatus rested genCmd false = none ∧ (brun rested 1).fabricFault = false
      ∧ extendStatus rested genCmd = none ∧ extendStatus openedRec genCmd = some 0x0B ∧ extendStatus serving genCmd = some 0x0B
      ∧ extendStatus rested { genCmd with record := 262144 } = some 0x0A
      ∧ leAt genCmd.payload 8 4 = 8 ∧ 4 * leAt genCmd.payload 8 4 ≤ leAt genCmd.payload 24 4 ∧ leAt genCmd.payload 16 8 % 64 = 0
      ∧ leAt extendCmd.payload 16 4 = 2 ∧ 4 * leAt extendCmd.payload 20 4 ≤ leAt extendCmd.payload 44 4
      ∧ leAt extendCmd.payload 8 8 % 4 = 0 ∧ leAt extendCmd.payload 36 8 % 64 = 0 ∧ plVocab (planOf rested 1) = 32000 := by
  refine ⟨⟨?_, ?_, ?_, ?_⟩, ⟨?_, ?_, ?_, ?_⟩, ?_⟩ <;> decide +kernel

/-- R382: GENERATE waits for the next boundary with its count. -/
theorem test_generate : after (.generate genCmd loadData) rested (fun t => (ctxRun t 0).extend) = some (some { tokens := 0, gen := 8, keep := false, floor := none, behind := 0 }) := by
  decide +kernel

/-- CANCEL of record 0, and one of every record (FLAGS [0]). -/
def cancelOne : Cmd := cmd 1 0 (leBytes 16 0)
def cancelAll : Cmd := cmd 1 0xFFFFFFFF (leBytes 16 1)
/-- QUERY_CONTEXT of record 0 with 64 bytes of room. -/
def queryCmd : Cmd := cmd 1 0 (leBytes 20 (packBits [(0, 64), (0x8000, 64), (64, 32)]))

theorem witness_CancelFlushAndQuery :
    Taken 0x12 1 cancelOne openedRec ∧ Taken 0x13 1 cancelOne openedRec ∧ Taken 0x20 1 queryCmd openedRec ∧ bindingStatus openedRec cancelOne false = none ∧ targetStatus openedRec cancelOne = none
      ∧ targetStatus openedRec cancelAll = none ∧ bitOf (leAt cancelAll.payload 0 1) 0 = true
      ∧ targetStatus serving cancelOne = some 0x0A ∧ bindingStatus serving { cancelOne with binding := 2 } false = some 9
      ∧ bindingStatus openedRec queryCmd true = none ∧ 16 ≤ leAt queryCmd.payload 16 4 ∧ leAt queryCmd.payload 8 8 % 64 = 0
      ∧ (ctx openedRec 0).st ≠ 0 ∧ (ctx openedRec 0).tenant = queryCmd.binding ∧ leAt (leBytes 20 (2 ^ 128 * 15)) 16 4 < 16 := by
  refine ⟨⟨?_, ?_, ?_, ?_⟩, ⟨?_, ?_, ?_, ?_⟩, ⟨?_, ?_, ?_, ?_⟩, ?_⟩ <;> decide +kernel

/-- R383, R384: the requests wait for stage 2 of the next boundary. -/
theorem test_cancel :
    after (.cancel cancelOne) openedRec (fun t => (brun t 1).stageReqs)
      = some [{ cmd := { ring := 5, tag := 7 }, isFlush := false, target := some 0 }] := by decide +kernel

theorem witness_PromptTokensAndCopies :
    hasWork openedRec 0 = true ∧ (ctxRun openedRec 0).extend = none ∧ (ctxRun openedRec 0).endWith = none
      ∧ owner openedRec (ctx openedRec 0).tokbuf.toNat = .tenant (tenantOf openedRec 0)
      ∧ owner openedRec 99 ≠ .tenant (tenantOf openedRec 0)
      ∧ (ctx openedRec 0).st ≠ 0 ∧ (ctx openedRec 0).st ≠ 4 ∧ openedRec.host.ideHold = false
      ∧ 3 = min [5#32, 6, 31999].length (min ((ctxRun openedRec 0).fillEnd - (ctxRun openedRec 0).filled)
          ((ctx openedRec 0).length.toNat + 16384 - (ctxRun openedRec 0).filled))
      ∧ [5#32, 6, 31999].all (fun x => decide (x.toNat < plVocab (planOf openedRec (tenantOf openedRec 0)))) = true
      ∧ plVocab (planOf openedRec (tenantOf openedRec 0)) ≤ (32000#32).toNat
      ∧ (let s := { openedRec with srv := { openedRec.srv with ctx := [(0, { ctx openedRec 0 with copying := true, inSlot := true })] } }
         (ctx s 0).copying = true ∧ (ctx s 0).inSlot = true) ∧ (ctx openedRec 0).copying = false := by decide +kernel

/-- R272: the prompt's tokens stand in the token buffer. -/
theorem test_token_fill : after (.tokenFill 0 [5, 6, 31999]) openedRec (fun t => ([0, 1, 2].map (tokenAt t 0), (ctxRun t 0).filled))
    = some ([5, 6, 31999], 3) := by decide +kernel

/-- R272: a token of VOCAB or above is stored nowhere, and its command ends with BAD_FIELD at the boundary. -/
theorem test_bad_token : after (.tokenFill 0 [5, 32000]) openedRec (fun t => ((ctxRun t 0).endWith, (ctxRun t 0).filled, (ctx t 0).st))
    = some (some 7, 0, 1) := by decide +kernel

/-! ### Op records -/

/-- An op record of Table 6.4 from its fields. -/
def mk (op : Nat) (flags layer beat slot eng ta ca tb cb td cd plane rsh row col oa ob imm len mask seq : Nat := 0) : Nat :=
  packBits [(op, 8), (flags, 8), (layer, 16), (beat, 24), (slot, 4), (eng, 4), (ta, 5), (ca, 5), (tb, 5), (cb, 5), (td, 5), (cd, 5),
    (0, 2), (plane, 6), (rsh, 3), (row, 8), (col, 12), (0, 3), (oa, 32), (ob, 32), (imm, 16), (len, 16), (mask, 4), (0, 12), (seq, 16)]

/-- The worked record of Recipes and Op Records, word by word. -/
theorem test_pass_record :
    mk 0x11 (flags := 1) (layer := 5) (beat := 40) (slot := 3) (eng := 7) (plane := 12) (rsh := 2) (row := 1) (col := 3) (mask := 4) (seq := 130)
        = packBits [(0x00050111, 32), (0x73000028, 32), (0, 32), (0x0006028C, 32), (0, 96), (0x00820004, 32)]
      ∧ (let x := packBits [(0x00050111, 32), (0x73000028, 32), (0, 32), (0x0006028C, 32), (0, 96), (0x00820004, 32)]
         (rOp x, rLayer x, rBeat x, rSlot x, rEngine x, rPlane x) = (0x11, 5, 40, 3, 7, 12)
           ∧ (rShift x, rRow x, rCol x, rImm x, maskSlots x, rSeq x) = (2, 1, 3, 0, [2], 130) ∧ recordClean x = true) := by decide +kernel

/-- A record as core 0 reads it, at index 0 of the narrow recipe. -/
def rd (x : Nat) : RecRead := { idx := 0, wide := false, bits := BitVec.ofNat 256 x, bad := false }

/-- The same, taken by plan core 0 of binding 1. -/
def iss (x : Nat) : Iss := { k := 0, b := 1, i := 0, x := (BitVec.ofNat 256 x).toNat, idx := 0, wide := false }

/-- Core 0 with binding 1 enabled on it, record 0 in slot 0 feeding one token, at the first beat of its steps. -/
def live : State :=
  { loaded with
    fab := { loaded.fab with beat := 2048, sched := 2048 },
    ten := { loaded.ten with
      entries := [(1, { entry loaded 1 with st := 3, epoch := 1, actFrames := 1, ovfFrames := 1, embFrames := 1 })],
      runs := [(1, { brun loaded 1 with slots := [some 0, none, none, none], since := 2048, stepAt := 2048, actBase := [40], ovfBase := [41],
                                        embBase := [42] })],
      owner := [16, 17, 20, 40, 41, 42].map fun f => (f, .tenant 1) },
    srv := { ctx := [(0, { st := 2, tenant := 1, inSlot := true, tokbuf := 20, length := 5, inputEnd := 5, genLeft := 16, limit := 100 })],
             run := [(0, { prompt := 3, fed := 1 })] },
    hw := { loaded.hw with cores := [(0, { usable := true, logical := 0, inUse := 0xFFFF, bound := some (1, 9), recipes := true, stepAt := 2048 })] } }

/-- The same with core 0 changed. -/
def liveCore (f : Core → Core) : State := { live with hw := { live.hw with cores := [(0, f (Machine.core live 0))] } }

/-- The same with layer step 0 open on core 0. -/
def inStep (f : LayerRun → LayerRun) : State := liveCore fun c => { c with ls := f { opened := true, start := 2048 } }

/-- The core's sequencer reads the record, and it issues. -/
def issuable (op x : Nat) (s : State) : Bool :=
  boundOf s 0 == some 1 && planIndex s 1 0 == some 0 && !(Machine.core s 0).failed && (Machine.core s 0).window.isNone
  && beatDue s (iss x) && orderOk s (iss x) && damageOf s op (rd x) == none && Machine.takes s 1 false (iss x).x && !tilesBusy s (iss x)
  && recordOpnds (planOf s 1) (boundRegions s 1 0) (lsOf s 0).layer (iss x).x

theorem issuable_ok {op x : Nat} {s : State} (h : issuable op x s = true) : Reads (iss x) 0 (rd x) s ∧ Issued op (iss x) (rd x) s := by
  simp only [issuable, Bool.and_eq_true, beq_iff_eq, Bool.not_eq_true', Option.isNone_iff_eq_none] at h
  obtain ⟨⟨⟨⟨⟨⟨⟨⟨⟨h1, h2⟩, h3⟩, h4⟩, h5⟩, h6⟩, h7⟩, h8⟩, h9⟩, h10⟩ := h
  exact ⟨⟨rfl, h1, h2, rfl, rfl, rfl, rfl⟩, ⟨⟨h3, h4, h5, h6⟩, h7, h8, h9, h10⟩, rfl⟩

theorem witness_RecordsIssue :
    issuable 0 (mk 0) live = true ∧ issuable 4 (mk 4 (flags := 3) (len := 48)) live = true ∧ boundOf State.reset 0 = none
      ∧ beatDue live (iss (mk 0 (beat := 1))) = false ∧ beatDue live (iss (mk 0)) = true
      ∧ damageOf live 0 (rd (mk 0x13)) = some 0 ∧ damageOf live 0 (rd (mk 0 (seq := 1))) = some 1 ∧ damageOf live 0 (rd (mk 0 (imm := 1))) = some 2
      ∧ Machine.takes live 1 true (iss (mk 3 (mask := 1))).x = false
      ∧ tilesBusy (liveCore fun c => { c with tileUse := 4 }) (iss (mk 0x41 (ta := 2) (ca := 1))) = true
      ∧ (let x := mk 0x71 (oa := 2 ^ 28 + 4) (ob := 2 ^ 28) (len := 262144)
         recordOpnds (planOf live 1) (boundRegions live 1 0) 0 (iss (mk 0x71 (oa := 2 ^ 28 + 262144) (ob := 2 ^ 28) (len := 1))).x = false ∧ rOp x = 0x71)
      ∧ (Machine.core live 0).damaged = [] ∧ (liveCore fun c => { c with window := some (3, 2100) }).host = live.host
      ∧ hasRequest live 0 = false ∧ (Machine.core live 0).ptr < recCount (planOf live 1) 0 false
      ∧ dueAt live { k := 0, b := 1, i := 0, x := recAt (planOf live 1) 0 false 0, idx := 0, wide := false } = 2048 := by decide +kernel

/-- R191: a record whose RSEQ disagrees is damaged: the step ends and cause 1 is recorded. -/
theorem test_damaged_record : after (.nop 0 (rd (mk 0 (seq := 1)))) live (fun t => ((brun t 1).dead, t.err.raised, (Machine.core t 0).damaged))
    = some (true, 1, [(0, false, 2)]) := by decide +kernel

theorem witness_LayerStepOpensAndSteps :
    issuable 1 (mk 1) live = true ∧ openReady (iss (mk 1)) live = true
      ∧ openReady (iss (mk 1)) (inStep fun q => q) = false ∧ (lsOf (inStep fun q => q) 0).opened = true
      ∧ stepJudged (iss (mk 2)) (inStep fun q => q) = false ∧ stepJudged (iss (mk 2)) live = true ∧ (brun live 1).dead = false
      ∧ openReady (iss (mk 1)) (inStep fun q => { q with run := 1 }) = true
      ∧ issuable 2 (mk 2) live = true
      ∧ (let x := mk 3 (oa := 2 ^ 28) (imm := 8) (mask := 1)
         issuable 3 x live = true ∧ vecSlot (iss x) = some 0 ∧ slotRec live 1 0 = some 0 ∧ slotFed live 1 0 ≠ 0) := by decide +kernel

/-- R185: LSTEP opens the layer step at its beat. -/
theorem test_lstep : after (.lstep 0 (rd (mk 1))) live (fun t => ((lsOf t 0).opened, (lsOf t 0).layer, (lsOf t 0).start, (lsOf t 0).run))
    = some (true, 0, 2048, 0) := by decide +kernel

/-- The worked example of the quantiser: channels 3, 7, 9 and 40 in staging, carries into channels 3 and 40, and 3.75 on channel
200 for another group. -/
def quantising : State :=
  let w (i : Nat) (v : Nat) (m : SMap Byte) : SMap Byte := putAll (fun _ => 0) m (4 * i) (leBytes 4 v)
  { inStep (fun q => q) with
    srv := { live.srv with carry := [(3, 0x2C00), (40, 0xA800)] },
    hw := { live.hw with cores := [(0, { Machine.core (inStep fun q => q) 0 with
      sram := w 40 0xBF500000 (w 9 0x41160000 (w 7 0x40C80000 (w 3 0x40180000 []))) })] } }

/-- QUANT of row block 0, vector 0, slot 0. -/
def quantRec : Nat := mk 0x10 (oa := 2 ^ 28) (mask := 1)

/-- R124, R125: codes +5, +12, +15 (clamped) and -7; levels 64 and 16; carries out -0.0625, +0.25, +0.25 and +0.03125. -/
theorem test_quantiser :
    after (.quant 0 (rd quantRec)) quantising (fun t => [3, 7, 9, 40].map (look (fun _ => (false, 0)) (lsOf t 0).codes))
        = some [(false, 5), (false, 12), (false, 15), (true, 7)]
      ∧ after (.quant 0 (rd quantRec)) quantising (fun t => ([0, 1].map (look (fun _ => 64) (lsOf t 0).drive), (lsOf t 0).clamps))
        = some ([64, 16], 1)
      ∧ after (.quant 0 (rd quantRec)) quantising (fun t => [3, 7, 9, 40].map (look (fun _ => none) (lsOf t 0).carry))
        = some [some 0xAC00, some 0x3400, some 0x3400, some 0x2800]
      ∧ after (.quant 0 (rd quantRec)) quantising (fun t => look (fun _ => none) (lsOf t 0).maxima 0) = some (some 0x41160000) := by
  decide +kernel

/-- The two compares' first worked example: k_0 = 6 and k_5 = -2 leave e_0 = 4 and e_5 = -8; the pass reads 243.5 and 14.25. -/
theorem test_compares :
    (let v := compares {} { resid := [(0, 4), (5, -8)] } 0 ([0x43738000] ++ List.replicate 255 0 ++ [0x41640000, 0, 0, 0])
        ([2, 0, 0, 0, 0, -1] ++ List.replicate 250 0) (List.replicate 8 64)
     (v.dcs, v.din, v.csMiss, v.inMiss)) = (0xBF000000, 0xC1000000, false, false) := by decide +kernel

/-- A plan whose layer 0 names channel 2 as an outlier, with two planes of weights on engine 0. -/
def sieving : State :=
  { inStep (fun q => q) with
    ten := { live.ten with runs := [(1, { brun live 1 with
      plan := tiny.take 88 ++ leBytes 4 544 ++ leBytes 2 1 ++ tiny.drop 94 |>.take 544 |> (· ++ leBytes 4 2 ++ tiny.drop 548) })] },
    hw := { live.hw with cores := (inStep fun q => q).hw.cores, outliers := [(65536, some { owner := 9, data := leBytes 2 0x3C00 ++ List.replicate 256 0x38, crc := 0 })] } }

/-- Core 0 with plane 0 of engine 0 READY and the plane map naming it as tenant plane 0. -/
def passing (st : BitVec 3) (q : List QPass) : State :=
  { inStep (fun q => q) with
    ten := { live.ten with runs := [(1, { brun live 1 with
      planes := [{ pcore := 0, engine := 0, tplane := 0, block := 0, plane := 0, shadow := false }] })] },
    hw := { live.hw with cores := (inStep fun q => q).hw.cores, planes := [(0, { st := st, owner := 9, home := some (1, 0, 0, 0, 0) })],
                         engines := [(0, { queue := q })], masters := [(0, some { data := [1, 2], crc := crc32 [1, 2] })] } }

/-- A PASS of plane 0 at column block 0, and the same in its queue. -/
def passRec : Nat := mk 0x11 (flags := 1) (mask := 1)
def queuedPass : QPass := { bits := BitVec.ofNat 256 passRec, idx := 0, wide := false, plane := 0, shadow := false, prim := 0, at_ := 26215 }

theorem witness_QuantAndPass :
    issuable 0x10 quantRec quantising = true ∧ vecUsed quantising (iss quantRec) 0 = true ∧ vecSlot (iss quantRec) = some 0
      ∧ vecUsed quantising (iss quantRec) 1 = false ∧ min 256 (lyW (planOf quantising 1) 0) % 32 = 0
      ∧ issuable 0x11 passRec (passing 2 []) = true ∧ passReady (iss passRec) (passing 2 []) = true
      ∧ passReady (iss passRec) (passing 2 (List.replicate 4 queuedPass)) = false ∧ (passUse (passing 2 []) (iss passRec)).isSome = true
      ∧ (passUse (passing 2 []) (iss passRec)).map (passPlane (passing 2 []) 1) = some (some (0, false))
      ∧ (passUse (passing 3 []) (iss passRec)).map (passPlane (passing 3 []) 1) = some none ∧ masterGood (passing 3 []) 0 = true
      ∧ masterGood live 0 = false ∧ issuable 0x20 (mk 0x20 (oa := 2 ^ 28) (mask := 1)) sieving = true
      ∧ lyNamed (planOf sieving 1) 0 = [2] ∧ vecUsed sieving (iss (mk 0x20 (oa := 2 ^ 28) (mask := 1))) 0 = true
      ∧ ((look (fun _ => none) sieving.hw.outliers 65536).map (·.owner)) = some (entry sieving 1).tenant := by decide +kernel

theorem witness_QuantAndPass_slots :
    let s := passing 2 [queuedPass]
    engineHolder s 0 = some (1, 0) ∧ (engine s 0).split = none ∧ (engine s 0).queue = [queuedPass] ∧ planeWaits (plane s 0) = false
      ∧ ownerOk s 1 0 = true ∧ passNib (iss passRec).x = 0 ∧ (codesFor s (iss passRec)).all (· == 0) = true ∧ (lsOf s 0).badBlk = [] ∧ freeSlot s 0 39 = some 26215 ∧ freeSlot s 0 38 = none
      ∧ (queuedPass.at_ ≤ 26215) ∧ ({ queuedPass with at_ := 26216 } : QPass).at_ > 26215
      ∧ ownerOk { s with hw := { s.hw with planes := [(0, { st := 2, owner := 8 })] } } 1 0 = false
      ∧ engineHolder live 17 = none := by decide +kernel

/-- R79: a pass whose codes are all zero is skipped and contributes +0.0. -/
theorem test_zero_pass : after (.passSlot ⟨0, 39⟩) (passing 2 [queuedPass]) (fun t => ((engine t 0).queue.length, (lsOf t 0).contrib.map (·.vals)))
    = some (0, [List.replicate 256 0]) := by decide +kernel

/-- R62: a plane of another owner ends the step without a token. -/
theorem test_owner_check :
    (let s := passing 2 [queuedPass]
     after (.passSlot ⟨0, 39⟩) { s with hw := { s.hw with planes := [(0, { st := 2, owner := 8 })] } } fun t => ((brun t 1).dead, t.err.raised))
      = some (true, 1) := by decide +kernel

/-- One contribution of output 0. -/
def part (e rb : Nat) (v : W32) (comp : Bool) : Contrib := { vec := 0, col := 0, key := 256 * e + rb, comp := comp, vals := [v] }

/-- The worked example of the chain: +1.0, +2^25, +1.0, -2^25 and +0.5 in key order, whatever order they came in. -/
theorem test_chain_order :
    (let go (comp : Bool) := runSum { contrib := [part 7 1 0x3F800000 comp, part 12 2 0xCC000000 comp, part 3 4 0x4C000000 comp,
        part 3 0 0x3F800000 comp, part 13 3 0x3F000000 comp] } 0 0 comp
     ((go false).s.headD 0, (go true).s.headD 0, (go true).c.headD 0)) = (0x3F000000, 0x3F000000, 0x40000000) := by decide +kernel

/-- R485: a datapath mismatch is recorded and is a miss of the open layer step. -/
theorem test_datapath_check :
    after (.nop 0 { rd (mk 0) with faults := [.datapath 1 5] }) (inStep fun q => q) (fun t =>
      (t.err.raised, (lsOf t 0).misses, look winReset (cluster t 0).win 0xB18)) = some (1, 1, 1) := by decide +kernel

/-! ### Chains, reductions, attention -/

/-- Bytes of a plan replaced. -/
def patch (p : List Byte) (o : Nat) (bs : List Byte) : List Byte := p.take o ++ bs ++ p.drop (o + bs.length)

/-- A plan of two cores and two parts whose core 1 sends a CHAIN and a REDUCE to core 0. -/
def twoPlan : List Byte :=
  patch (patch (patch tiny 6 [2, 0]) 144 (leBytes 8 (592 + 2 ^ 32 * 2))) 448 [2, 0]
    ++ leBytes 32 (mk 0x30 (ob := 7 * 2 ^ 28)) ++ leBytes 32 (mk 0x32 (oa := 2 ^ 28) (ob := 7 * 2 ^ 28) (len := 4))

/-- Binding 1 on cores 0 and 1 with this plan, a layer step open on both, core 0's changed. -/
def twoCores (p : List Byte) (f : LayerRun → LayerRun) : State :=
  { live with
    ten := { live.ten with runs := [(1, { brun live 1 with plan := p, coreMap := [0, 128] })] },
    hw := { live.hw with cores :=
      [(0, { Machine.core live 0 with ls := f { opened := true, start := 2048 } }),
       (1, { Machine.core live 0 with logical := 1, ls := { opened := true, start := 2048 } })] } }

/-- The same with core 1 running no such record. -/
def freeCores (f : LayerRun → LayerRun) : State := twoCores (patch twoPlan 144 (leBytes 8 0)) f

/-- The same with every record of the layer step issued on core 0. -/
def doneCores (f : LayerRun → LayerRun) : State :=
  let s := freeCores f
  { s with hw := { s.hw with cores := [(0, { Machine.core s 0 with ptr := 1 }), (1, { Machine.core s 1 with ptr := 1 })] } }

/-- A running sum that core 1 sent. -/
def sumMsg : ChainMsg :=
  { layer := 0, col := 0, vec := 0, comp := false, s := [0x3F800000], c := [], last := true, status := { dirty := true, impl := 1 } }

theorem witness_ChainTailCommit :
    let here := 7 * 2 ^ 28 + 65536
    issuable 0x30 (mk 0x30 (ob := here)) (freeCores id) = true ∧ chainReady (iss (mk 0x30 (ob := here))) (freeCores id) = true
      ∧ chainReady (iss (mk 0x30 (ob := here))) (twoCores twoPlan id) = false ∧ issuable 0x30 (mk 0x30 (ob := here)) (twoCores twoPlan id) = true
      ∧ peerCore (freeCores id) 1 (rOpB (iss (mk 0x30 (ob := here))).x) = some 1
      ∧ (let away := mk 0x30 (ob := 7 * 2 ^ 28 + 1)
         issuable 0x30 away (freeCores id) = true ∧ peerCore (freeCores id) 1 (rOpB (iss away).x) = none
           ∧ peerAway (freeCores id) 1 (rOpB (iss away).x) = true)
      ∧ issuable 0x31 (mk 0x31 (oa := 2 ^ 28)) (freeCores id) = true ∧ issuable 0x31 (mk 0x31 (oa := 4 * 2 ^ 28)) (freeCores id) = true
      ∧ (lsOf (freeCores id) 1).layer = sumMsg.layer.toNat ∧ boundOf (freeCores id) 1 = some 1 ∧ (lsOf (freeCores id) 1).opened = true
      ∧ boundOf State.reset 0 = none ∧ boundOf live 0 = some 1 ∧ (lsOf live 0).opened = false
      ∧ (let shut := { freeCores id with hw := { (freeCores id).hw with cores :=
            [(0, Machine.core (freeCores id) 0), (1, { Machine.core (freeCores id) 1 with ls := {} })] } }
         issuable 0x30 (mk 0x30 (ob := here)) shut = true ∧ chainReady (iss (mk 0x30 (ob := here))) shut = true
           ∧ peerCore shut 1 (rOpB (iss (mk 0x30 (ob := here))).x) = some 1 ∧ (lsOf shut 1).opened = false) := by decide +kernel

/-- R160, R99: a TAIL of one contribution of 1.5 leaves it with the bias of +0.0. -/
theorem test_tail :
    after (.tail 0 (rd (mk 0x31 (oa := 2 ^ 28)))) (inStep fun q => { q with contrib := [part 0 0 0x3FC00000 false] })
      (fun t => lookAll (fun _ => 0) (Machine.core t 0).sram 0 8) = some (leBytes 8 0x3FC00000) := by decide +kernel

theorem witness_ChainTailCommit_judged :
    openGroup live 1 = [] ∧ openGroup (freeCores id) 1 = [0, 1] ∧ (coreStatus (freeCores id) 0 1).dirty = false
      ∧ (coreStatus (freeCores fun q => { q with misses := 1 }) 0 1).dirty = true ∧ lyA (planOf (freeCores id) 1) 0 = 1
      ∧ (coreStatus (freeCores fun q => { q with clamps := 2 }) 0 1).dirty = false
      ∧ (coreStatus (freeCores fun q => { q with clamps := 3 }) 0 1).dirty = true
      ∧ abandonedSlots (freeCores id) 1 0 = [0] ∧ groupDone (freeCores id) 1 0 = false ∧ groupDone (doneCores id) 1 0 = true
      ∧ openGroup (doneCores id) 1 = [0, 1] ∧ abandonedSlots (doneCores id) 1 0 = [0] := by decide +kernel

/-- R142 to R147: a clean step commits, a dirty one is replayed, and a dirty second stretched replay is abandoned. -/
theorem test_layer_step_status :
    after (.layerStepStatus 1 { dirty := false, impl := 0 }) (doneCores id) (fun t => (lsOf t 0).opened) = some false
      ∧ after (.layerStepStatus 1 { dirty := true, impl := 0 }) (doneCores id) (fun t => ((lsOf t 0).opened, (lsOf t 0).run)) = some (true, 1)
      ∧ after (.layerStepStatus 1 { dirty := true, impl := 0 }) (doneCores fun q => { q with run := 3 }) (fun t =>
          ((lsOf t 0).opened, (brun t 1).removed)) = some (false, 1) := by decide +kernel

theorem witness_ReduceAndActivation :
    issuable 0x32 (mk 0x32 (oa := 2 ^ 28) (len := 4)) (inStep id) = true ∧ reduceReady (iss (mk 0x32 (oa := 2 ^ 28) (len := 4))) (inStep id) = true
      ∧ issuable 0x32 (mk 0x32 (oa := 2 ^ 28) (len := 4)) (twoCores twoPlan id) = true
      ∧ reduceReady (iss (mk 0x32 (oa := 2 ^ 28) (len := 4))) (twoCores twoPlan id) = false
      ∧ issuable 0x32 (mk 0x32 (flags := 2) (oa := 2 ^ 28) (len := 4)) (inStep id) = true ∧ heldBy (inStep id) 1 = [0]
      ∧ issuable 0x32 (mk 0x32 (flags := 1) (oa := 2 ^ 28) (ob := 7 * 2 ^ 28 + 65536) (len := 4)) (freeCores id) = true
      ∧ issuable 0x40 (mk 0x40 (oa := 2 ^ 28) (ob := 2 ^ 28 + 64) (len := 4)) (inStep id) = true
      ∧ issuable 0x40 (mk 0x40 (imm := 8) (oa := 2 ^ 28) (ob := 2 ^ 28 + 64) (len := 4)) (inStep id) = true
      ∧ issuable 0x40 (mk 0x40 (imm := 1) (ta := 1) (ca := 1) (td := 2) (cd := 1) (len := 4)) (inStep id) = true
      ∧ issuable 0x40 (mk 0x40 (imm := 5) (ta := 1) (ca := 1) (td := 2) (cd := 1) (len := 4)) (inStep fun q => { q with redC2 := 4 }) = true
      ∧ issuable 0x40 (mk 0x40 (imm := 7) (oa := 2 ^ 28) (len := 4) (mask := 1)) (inStep id) = true
      ∧ issuable 0x40 (mk 0x40 (imm := 7) (flags := 1) (oa := 2 ^ 28) (td := 2) (cd := 1) (len := 4) (mask := 1)) (inStep id) = true
      ∧ issuable 0x41 (mk 0x41 (ta := 1) (ca := 1) (td := 2) (cd := 1) (len := 4)) (inStep id) = true
      ∧ issuable 0x41 (mk 0x41 (ta := 1) (ca := 1) (len := 4)) (inStep id) = true := by decide +kernel

/-- R162: the sum of 1, 2, 3 and 4 reaches the layer step as 10.0 with its count. -/
theorem test_reduce :
    after (.reduce 0 (rd (mk 0x32 (oa := 2 ^ 28) (len := 4))))
      (let s := inStep id
       { s with hw := { s.hw with cores := [(0, { Machine.core s 0 with
          sram := putAll (fun _ => 0) [] 0 (wordsBytes [0x3F800000, 0x40000000, 0x40400000, 0x40800000]) })] } })
      (fun t => ((lsOf t 0).redS, (lsOf t 0).redC)) = some (0x41200000, 4) := by decide +kernel

/-- The plan with its layer an attention layer of 2 query heads on 1 key-value head of 32 elements, 8 tokens to a page. -/
def attnPlan : List Byte :=
  patch (patch (patch tiny 79 [13]) 116 (leBytes 4 528)) 528
    (leBytes 32 (packBits [(2, 16), (1, 16), (32, 16), (3, 8), (1, 8), (0, 16), (1, 16), (0, 32), (0x3F800000, 32), (4096, 32), (0, 32), (0, 16), (1, 16)]))

/-- The layer step of that layer on core 0. -/
def attending (f : Core → Core) : State :=
  { live with
    ten := { live.ten with runs := [(1, { brun live 1 with plan := attnPlan })] },
    hw := { live.hw with cores := [(0, f { Machine.core live 0 with ls := { opened := true, start := 2048 } })] } }

theorem test_attention_plan : attnOk attnPlan 0 = true ∧ layerOk attnPlan 0 = true := by decide +kernel

theorem witness_AttentionTiles :
    issuable 0x50 (mk 0x50 (ta := 0) (ca := 1) (tb := 1) (cb := 1) (td := 2) (cd := 1)) (attending id) = true
      ∧ issuable 0x51 (mk 0x51 (ta := 2) (ca := 1) (td := 4) (cd := 2) (mask := 1)) (attending id) = true
      ∧ atQ attnPlan 0 * (atD attnPlan 0 * ceilDiv (atDh attnPlan 0) (atD attnPlan 0)) ≤ 256 * (2 - 1)
      ∧ issuable 0x52 (mk 0x52 (ta := 2) (ca := 1) (tb := 3) (cb := 1) (td := 5) (cd := 1)) (attending id) = true
      ∧ issuable 0x53 (mk 0x53 (ta := 4) (ca := 2) (len := 1)) (attending id) = true
      ∧ issuable 0x53 (mk 0x53 (ta := 4) (ca := 2)) (attending id) = true
      ∧ (Machine.core (attending id) 0).mergeWait = none ∧ (Machine.core (attending id) 0).mergeIn = []
      ∧ issuable 0x53 (mk 0x53 (ta := 4) (ca := 2)) (attending fun c => { c with mergeWait := some { tile := 9, cnt := 2, peer := 0 } }) = true
      ∧ issuable 0x54 (mk 0x54 (ta := 0) (ca := 1) (ob := 6 * 2 ^ 28) (td := 2) (cd := 1) (len := 1)) (attending id) = true
      ∧ foreignFrame (attending id) 1 (regionFrames (spaceFrames (attending id) 1 6) (spaceByte (attending id) 1 (6 * 2 ^ 28)) 4096) = none := by
  decide +kernel

/-- R169: one score of eight ones against eight twos, in E4M3, is 16.0. -/
theorem test_score :
    after (.score 0 (rd (mk 0x50 (ta := 0) (ca := 1) (tb := 1) (cb := 1) (td := 2) (cd := 1))))
      (attending fun c => { c with tiles := [(0, 0x38383838), (1, 0x38383838), (256, 0x40404040), (257, 0x40404040)] })
      (fun t => (tileWord t 0 2 0, tileWord t 0 2 1)) = some (0x41800000, 0) := by decide +kernel

/-- A descriptor of the page in a ring block, with 3 tokens of record 0's slot. -/
def desc (tenant : BitVec 12) : PageDesc :=
  { frame := 20, shared := false, last := false, first := 0, count := 3, pos := 0, head := 0, heads := 1, slot := 0, tenant := tenant,
    image := some [], kRead := 0, vRead := 0 }

theorem witness_KvRecords :
    issuable 0x60 (mk 0x60 (mask := 1) (len := 1)) (attending id) = true ∧ walkReady (iss (mk 0x60 (mask := 1) (len := 1))) (attending id) = true
      ∧ walkReady (iss (mk 0x60 (mask := 1) (len := 1))) (attending fun c => { c with fetchQ := List.replicate 65 (desc 1) }) = false
      ∧ issuable 0x60 (mk 0x60 (mask := 1) (len := 1)) (inStep id) = true ∧ lyAttn (planOf (inStep id) 1) 0 = false
      ∧ issuable 0x61 (mk 0x61 (td := 6) (cd := 1) (len := 2) (mask := 1)) (attending fun c => { c with fetchQ := [desc 1] }) = true
      ∧ issuable 0x61 (mk 0x61 (td := 6) (cd := 1) (len := 2) (mask := 1)) (attending fun c => { c with fetchQ := [desc 2] }) = true
      ∧ bitOf (rMask (iss (mk 0x61 (td := 6) (cd := 1) (len := 2) (mask := 1))).x) (desc 1).slot = true ∧ 2 + (desc 1).kRead ≤ (desc 1).count
      ∧ 2 ≤ atK attnPlan 0 ∧ issuable 0x61 (mk 0x61 (td := 6) (cd := 1) (len := 2) (mask := 1)) (attending id) = true
      ∧ issuable 0x62 (mk 0x62 (oa := 2 ^ 28) (mask := 1)) (attending id) = true ∧ PageFits attnPlan 0
      ∧ slotRec (attending id) 1 1 = none ∧ slotRec (attending id) 1 0 = some 0 ∧ (lsOf (attending id) 0).opened = true := by
  refine ⟨?_, ?_, ?_, ?_, ?_, ?_, ?_, ?_, ?_, ?_, ?_, ?_, ⟨?_, ?_, ?_⟩, ?_⟩ <;> decide +kernel

/-- R246: the fetched keys carry their positions and slot. -/
theorem test_kvfetch :
    after (.kvfetch 0 (rd (mk 0x61 (td := 6) (cd := 1) (len := 2) (mask := 1)))) (attending fun c => { c with fetchQ := [desc 1] })
      (fun t => ([0, 1, 2].map fun i => look (fun _ => 0) (Machine.core t 0).keyPos (96 + i), (Machine.core t 0).fetchQ.map (·.kRead)))
      = some ([4, 8, 0], [2]) := by decide +kernel

/-- The premises of the further clauses of the KVFETCH, of the KVAPPEND and of the ring blocks. -/
theorem witness_KvRecords_clauses :
    let fetch := mk 0x61 (td := 6) (cd := 1) (len := 2) (mask := 1)
    let two := attending fun c => { c with fetchQ := [desc 1, desc 2] }
    let held := attending fun c => { c with ls := { c.ls with leaves := [(1, 16, 4)] } }
    let app := mk 0x62 (oa := 2 ^ 28) (mask := 1)
    let ring := { attending id with ten := { (attending id).ten with runs := [(1, { brun (attending id) 1 with plan := patch attnPlan 553 [4] })] } }
    atK attnPlan 0 ≤ 16 ∧ issuable 0x61 fetch two = true ∧ 2 + (desc 1).kRead ≤ (desc 1).count ∧ (desc 2).vRead < (desc 2).count
      ∧ (desc 2).tenant.toNat ≠ 1 ∧ (desc 1).image.isSome = true ∧ rCntD (iss fetch).x ≠ 0 ∧ lyKv attnPlan 0 ≠ 2
      ∧ issuable 0x62 app held = true ∧ appendWaits held (iss app) = true ∧ appendWaits (attending id) (iss app) = false
      ∧ issuable 0x62 (mk 0x62 (oa := 2 ^ 28) (mask := 2)) (attending id) = true
      ∧ boundOf ring 0 = some 1 ∧ atRing (planOf ring 1) (lsOf ring 0).layer = 4 ∧ atRing attnPlan 0 ≤ 0 + 1 := by
  refine ⟨?_, ?_, ?_, ?_, ?_, ?_, ?_, ?_, ?_, ?_, ?_, ?_, ?_, ?_, ?_⟩ <;> decide +kernel

/-- R236: a foreign descriptor that a fetch does not reach stays, and no error is raised. -/
theorem test_kvfetch_reach :
    after (.kvfetch 0 (rd (mk 0x61 (td := 6) (cd := 1) (len := 2) (mask := 1)))) (attending fun c => { c with fetchQ := [desc 1, desc 2] })
      (fun t => (decide (t.err = live.err), (Machine.core t 0).fetchQ.map (·.tenant))) = some (true, [1, 2]) := by decide +kernel

/-- R117, R162, R251: what the arrivals' clauses ask of the core. -/
theorem witness_arrivals :
    let wait : RedWait := { layer := 0, kind := 2, dest := 2 ^ 28 }
    let s := inStep id
    let t := { s with hw := { s.hw with cores := [(0, { Machine.core s 0 with redWaits := [wait] })] } }
    let u := { s with hw := { s.hw with cores := [(0, { Machine.core s 0 with mergeOuts := [{ tile := 9, cnt := 2, layer := 0 }] })] } }
    let v := { s with hw := { s.hw with cores := [(0, { Machine.core s 0 with mergeWait := some { tile := 9, cnt := 2, peer := 0 } })] } }
    boundOf s 0 = some 1 ∧ (lsOf s 0).opened = true ∧ (lsOf s 0).layer = 0 ∧ (Machine.core s 0).redWaits = [] ∧ boundOf t 0 = some 1
      ∧ (Machine.core t 0).redWaits = [wait] ∧ wait.kind = 2 ∧ wait.layer = (0 : Nat) ∧ ((heldBy s 1).all fun m => (Machine.core s m).redWaits == []) = true ∧ opSpace wait.dest.toNat = 1 ∧ boundOf u 0 = some 1 ∧ (Machine.core u 0).mergeOuts ≠ []
      ∧ (Machine.core s 0).mergeOuts = [] ∧ boundOf v 0 = some 1 ∧ (Machine.core v 0).mergeWait ≠ none ∧ 9 < 32 := by
  refine ⟨?_, ?_, ?_, ?_, ?_, ?_, ?_, ?_, ?_, ?_, ?_, ?_, ?_, ?_, ?_, ?_⟩ <;> decide +kernel

/-- A fetch of two keys into tile 6. -/
def fetchRec (seq : Nat) : Nat := mk 0x61 (td := 6) (cd := 1) (len := 2) (mask := 1) (seq := seq)

/-- The attention layer on a rotation ring of two parts, two fetches in its narrow recipe. -/
def ringPlan : List Byte := patch (patch attnPlan 553 [2]) 192 (leBytes 32 (fetchRec 0) ++ leBytes 32 (fetchRec 1))

/-- Core 0 at the second of those fetches, with these blocks arrived. -/
def onRing (blks : List RingBlk) : State :=
  { attending id with
    ten := { live.ten with runs := [(1, { brun live 1 with plan := ringPlan })] },
    hw := { live.hw with cores := [(0, { Machine.core (attending id) 0 with ptr := 1, ringBlks := blks })] } }

/-- R257, R314: what the clauses of the rounds ask of the fetch, its core and the block. -/
theorem witness_KvRecords_rounds :
    let c : Iss := { iss (fetchRec 1) with idx := 1 }
    let c0 : Iss := iss (fetchRec 0)
    let r : RecRead := { rd (fetchRec 1) with idx := 1 }
    let blk : RingBlk := { round := 0, pages := [(0, [])], linkOk := true }
    Reads c 0 r (onRing []) ∧ Issued 0x61 c r (onRing []) ∧ (lyAttn (c.plan (onRing [])) 0 && rotation (c.plan (onRing [])) 0) = true
      ∧ (Machine.core (onRing []) 0).ringBlks = [] ∧ fetchRound c 0 (onRing []) = (lsOf (onRing []) 0).round + 1
      ∧ fetchReady c (onRing []) = false ∧ fetchReady c (onRing [blk]) = true
      ∧ fetchRound c0 0 (onRing []) ≤ (lsOf (onRing []) 0).round ∧ issuable 0x61 (fetchRec 0) (liveCore id) = true
      ∧ (Machine.core (onRing [blk]) 0).ringBlks = [blk] ∧ blk.round + 1 < atRing (c.plan (onRing [blk])) 0
      ∧ atRing (c.plan (onRing [])) 0 ≤ 1 + 1
      ∧ fetchReady (iss (fetchRec 0)) (attending id) = true ∧ serveRound (iss (fetchRec 0)) (attending id) = attending id
      ∧ (lyAttn attnPlan 0 && rotation attnPlan 0) = false := by
  refine ⟨⟨?_, ?_, ?_, ?_, ?_, ?_, ?_⟩, ⟨⟨⟨?_, ?_, ?_, ?_⟩, ?_, ?_, ?_, ?_⟩, ?_⟩, ?_, ?_, ?_, ?_, ?_, ?_, ?_, ?_, ?_, ?_, ?_, ?_, ?_⟩ <;> decide +kernel

/-- R257: the fetch takes the block that has arrived and sends it on. -/
theorem test_ring_round :
    after (.kvfetch 0 { rd (fetchRec 1) with idx := 1 }) (onRing [{ round := 0, pages := [], linkOk := true }])
      (fun t => ((Machine.core t 0).ringBlks, (lsOf t 0).round, t.out)) = some ([], 1, [.ringBlk 0 { round := 1, pages := [], linkOk := true }]) := by
  decide +kernel

/-- The plan with an embedding table of 2 rows of 32 E4M3 values. -/
def embPlan : List Byte :=
  patch tiny 576 (leBytes 4 1) ++ leBytes 16 (packBits [(0xFFFF, 16), (3, 8), (0, 72), (608, 32)])
    ++ leBytes 16 (packBits [(2, 32), (32, 32)]) ++ List.replicate 64 0

/-- The layer step with that plan, and a byte 0x38 (1.0) at row 1, column 2 of the table. -/
def embedding : State :=
  { inStep id with
    ten := { live.ten with runs := [(1, { brun live 1 with plan := embPlan })] },
    mem := [(65536 * 42 + 16 + 32 + 2, 0x38)] }

theorem witness_CopiesLeaveBytes :
    let ld := mk 0x71 (oa := 4 * 2 ^ 28) (ob := 2 ^ 28) (len := 8)
    let st := mk 0x72 (oa := 2 ^ 28) (ob := 4 * 2 ^ 28) (len := 8)
    issuable 0x71 ld live = true ∧ issuable 0x72 st (inStep id) = true ∧ issuable 0x72 st live = true ∧ (lsOf live 0).opened = false
      ∧ foreignFrame live 1 (regionFrames (opFrames (iss ld) live (4 * 2 ^ 28)) (spaceByte live 1 (4 * 2 ^ 28)) 8) = none ∧ opFrames (iss ld) live (4 * 2 ^ 28) = [40] ∧ owner live 40 = .tenant 1
      ∧ foreignFrame { live with ten := { live.ten with owner := [(40, .tenant 2)] } } 1 [40] = some 40
      ∧ issuable 0x70 (mk 0x70 (oa := 5 * 2 ^ 28 + 1) (ob := 2 ^ 28) (len := 4)) embedding = true
      ∧ foreignFrame embedding 1 (regionFrames (opFrames (iss 0) embedding (5 * 2 ^ 28 + 1)) (spaceByte embedding 1 (5 * 2 ^ 28 + 1)) 4) = none := by
  refine ⟨?_, ?_, ?_, ?_, ?_, ?_, ?_, ?_, ?_, ?_⟩ <;> decide +kernel

/-- R548: row 1 of the table begins at byte 16 + 32, and its third element is 1.0. -/
theorem test_gather :
    after (.gather 0 (rd (mk 0x70 (oa := 5 * 2 ^ 28 + 1) (ob := 2 ^ 28) (len := 4)))) embedding
      (fun t => lookAll (fun _ => 0) (Machine.core t 0).sram 0 16) = some (wordsBytes [0, 0, 0x3F800000, 0]) := by decide +kernel

/-! ### Programs, calibration and tests -/

/-- Plane 5 of engine 0 in this state, with a home and a master copy. -/
def planing (st : BitVec 3) : State :=
  { up with hw := { up.hw with
      planes := [(5, { st := st, home := some (1, 0, 0, 0, 0) })], masters := [(5, some { data := [1, 2], crc := crc32 [1, 2] })] } }

/-- The same at its rating, with the other planes RETIRED where `full`. -/
def worn (full : Bool) : State :=
  { planing 3 with
    hw := { (planing 3).hw with planes :=
      if full then (List.range 64).map fun i => (i, if i = 5 then plane (planing 3) 5 else { st := 5 }) else (planing 3).hw.planes },
    lar := { up.lar with planesNow := [(5, { count := 10000 })] } }

/-- A program of plane 5. -/
def prog (erasing waiting : Bool) (row iter : Nat) : Prog :=
  { plane := 5, purpose := 0, old := 5, attempt := 1, erasing := erasing, row := row, iter := iter, extending := false, exts := 0,
    target := [], faults := [], adjusted := [], waiting := waiting, late := 0, wanted := 0, failedCells := 0, held := false }

/-- The plane PROGRAMMING with that program on engine 0. -/
def writing (g : Prog) : State := { planing 1 with hw := { (planing 1).hw with engines := [(0, { prog := some g })] } }

/-- A master copy that its CRC-32 does not match. -/
def spoilt : State := { planing 0 with hw := { (planing 0).hw with masters := [(5, some { data := [1, 2], crc := 0 })] } }

/-- The same once a check has failed. -/
def marked : State := { spoilt with hw := { spoilt.hw with masters := [(5, some { data := [1, 2], crc := 0, bad := true })] } }

theorem witness_ProgramStarts :
    (engine (planing 0) 0).prog = none ∧ purposeOf (planing 0) 5 = some 0 ∧ purposeOf (planing 2) 5 = none
      ∧ MayStart 5 0 (planing 0) = true ∧ masterGood (planing 0) 5 = true
      ∧ MayStart 5 0 { planing 0 with host := { up.host with quiesce := true } } = false
      ∧ purposeOf (worn false) 5 = some 1 ∧ MayStart 5 1 (worn false) = true ∧ 10000 ≤ planeCount (worn false) 5
      ∧ (pickPlane (worn false) 0).isSome = true ∧ purposeOf (worn true) 5 = some 1 ∧ MayStart 5 1 (worn true) = true
      ∧ pickPlane (worn true) 0 = none ∧ MayStart 5 0 spoilt = true ∧ masterGood spoilt 5 = false ∧ (plane spoilt 5).home = some (1, 0, 0, 0, 0)
      ∧ masterBad spoilt 5 = false ∧ masterBad marked 5 = true := by decide +kernel

theorem witness_ProgramStarts_again :
    (engine (writing (prog false true 256 0)) 0).prog = some (prog false true 256 0)
      ∧ engineFree (writing (prog false true 256 0)) 0 = true ∧ timeToStart (writing (prog false true 256 0)) 5 0 false = true
      ∧ underCap (writing (prog false true 256 0)) 5 = true ∧ masterGood (writing (prog false true 256 0)) 5 = true
      ∧ mustAbandon (writing (prog false true 256 0)) (prog false true 256 0) = true
      ∧ (let g := prog false true 256 0
         let s := { writing g with ten := { up.ten with entries := [(1, { st := 1 })] },
                                   lar := { up.lar with planesNow := [(5, { count := 10000 })] } }
         mustAbandon s g = false ∧ engineFree s 0 = true ∧ timeToStart s 5 0 false = true ∧ underCap s 5 = true ∧ masterGood s 5 = true
           ∧ 10000 ≤ planeCount s 5 ∧ (pickPlane s 0).isSome = true ∧ g.purpose = 0)
      ∧ ([1, 2].all fun u =>
          let g := { prog false true 256 0 with purpose := u }
          let s := { writing g with ten := { up.ten with entries := [(1, { st := 1 })] },
                                    lar := { up.lar with planesNow := [(5, { count := 10000 })] } }
          !mustAbandon s g && engineFree s 0 && timeToStart s 5 u false && underCap s 5 && masterGood s 5 && (pickPlane s 0).isSome) = true
      ∧ masterBad (writing (prog false true 256 0)) 5 = false
      ∧ (let s := { writing (prog false true 256 0) with ten := { up.ten with entries := [(1, { st := 1 })] } }
         mustAbandon s (prog false true 256 0) = false ∧ engineFree s 0 = true ∧ timeToStart s 5 0 false = true) := by decide +kernel

/-- R193: a first program counts, and its plane goes to PROGRAMMING. -/
theorem test_program_start :
    after (.programStart ⟨5, []⟩) (planing 0) (fun t => ((plane t 5).st, planeCount t 5, (engine t 0).prog.map (·.erasing)))
      = some (1, 1, some true) := by decide +kernel

/-- The same with a pass in the queue. -/
def passComing (g : Prog) : State :=
  { writing g with hw := { (writing g).hw with engines := [(0, { prog := some g, queue := [{ bits := 0, idx := 0, wide := false, plane := 5, shadow := false, prim := 5, at_ := 0 }] })] } }

theorem witness_RowsProgrammed :
    startQueued (writing (prog true false 0 0)) 5 = false ∧ startQueued (planing 0) 5 = false
      ∧ (after (.programStart ⟨5, []⟩) (planing 0) fun t => startQueued t 5) = some true
      ∧ (prog false false 0 3).iter + 1 < 8
      ∧ offTarget (writing (prog false false 0 3)) (prog false false 0 3) 0 0 false = true
      ∧ offTarget (writing (prog false false 0 3)) (prog false false 0 3) 0 2 true = false
      ∧ cellsOff (let s := writing (prog false false 255 7)
                  { s with hw := { s.hw with masters := [] , planes := [(5, { st := 1, home := some (1, 0, 0, 0, 0), cells :=
                      [(cellKey 255 261 false, 4), (cellKey 255 262 true, 4), (cellKey 255 263 false, 8), (cellKey 255 263 true, 8)] })] } })
          (prog false false 255 7) 255 = []
      ∧ passSoon (writing (prog false false 0 3)) 0 = false ∧ passSoon (passComing (prog false false 0 3)) 0 = true
      ∧ passSoon (writing (prog false false 255 7)) 0 = false
      ∧ mustAbandon (writing (prog false false 0 0)) (prog false false 0 0) = true
      ∧ mustAbandon { writing (prog false false 0 0) with ten := { up.ten with entries := [(1, { st := 1 })] } } (prog false false 0 0) = false
      ∧ rowMayStart { writing (prog false false 0 0) with ten := { up.ten with entries := [(1, { st := 1 })] } } 0 (prog false false 0 0) = true := by
  decide +kernel

/-- R193: the erase leaves the cells listed and no others above level 0. -/
theorem test_erase :
    after (.eraseComplete 0 [{ row := 3, col := 9, neg := true, level := 2 }]) (writing (prog true false 0 0)) (fun t =>
      (level 5 (plane t 5) 3 9 true, level 5 (plane t 5) 3 9 false, (engine t 0).prog.map (·.erasing))) = some (2, 0, some false) := by
  decide +kernel

/-- R194: a cell at its target is inhibited; one that is not issuable what the read senses. -/
theorem test_row_iteration :
    after (.rowIteration 0 [{ row := 0, col := 2, neg := true, level := 6 }, { row := 0, col := 0, neg := false, level := 1 }])
      (writing (prog false false 0 3)) (fun t => (level 5 (plane t 5) 0 2 true, level 5 (plane t 5) 0 0 false, (engine t 0).prog.map (·.iter)))
      = some (0, 1, some 4) := by decide +kernel

/-- R214's example of a partner: weight +3 with the positive cell stuck at level 9 issuable the negative cell to level 6. -/
theorem test_partner : partnerTarget true 9 0 15 3 (-8) 7 = 6 := by decide +kernel

/-- The block of zero weights, all of its rows programmed with no fault. -/
def ended (g : Prog) : State :=
  let s := writing g
  { s with ten := { up.ten with entries := [(1, { st := 1 })] },
           hw := { s.hw with masters := [(5, some { data := [], crc := crc32 [] })] } }

theorem weights_zero (g : Prog) (i j : Nat) : planeWeight (ended g) 5 i j = 0 := by
  show blockWeight [] i j = 0
  unfold blockWeight fld
  simp

theorem cells_zero (g : Prog) (r c : Nat) : cellWeight 5 (plane (ended g) 5) r c = 0 := by
  have h : ∀ x, cellLevel 5 (plane (ended g) 5) x = 0 := fun x => rfl
  unfold cellWeight
  rw [h, h]
  rfl

theorem residual_zero (g : Prog) (i : Nat) : residualOf (ended g) 5 i = 0 := by
  have hz : ∀ l : List Nat, l.foldl (fun a j => a + planeWeight (ended g) 5 i j) (0 : Int) = 0 := by
    intro l
    induction l with
    | nil => rfl
    | cons x l ih => rw [List.foldl_cons, weights_zero, Int.add_zero]; exact ih
  have hc : ∀ (r : Nat) (l : List Nat), l.foldl (fun a c => a + cellWeight 5 (plane (ended g) 5) r c) (0 : Int) = 0 := by
    intro r l
    induction l with
    | nil => rfl
    | cons x l ih => rw [List.foldl_cons, cells_zero, Int.add_zero]; exact ih
  unfold residualOf checkWeight
  simp only [hc, hz]
  rfl

theorem badRows_faults (g : Prog) (faults : List (Nat × Nat)) : badRows (ended g) 5 true faults = (List.range 256).filter fun i =>
    decide (4 < (faults.filter (·.1 == (rowMap (ended g) 5).getD i 0)).length) := by
  unfold badRows
  simp [residual_zero]

theorem sparesFor_none (g : Prog) : sparesFor (ended g) 5 true [] = ([], []) := by
  unfold sparesFor badCols
  rw [badRows_faults]
  simp

/-- Five faults of physical row 7 call for its spare. -/
def faulty : List (Nat × Nat) := (List.range 5).map fun c => (7, c)

/-- The repair map with four rows of plane 5 off already, the plane being refreshed. -/
def spent (g : Prog) : State :=
  let s := ended g
  { s with lar := { s.lar with repair := { s.lar.repair with rowsOff := [(5, [0, 1, 2, 3])] } } }

theorem badRows_seven (g : Prog) : (7 ∈ badRows (ended g) 5 true faulty) ∧ (badRows (ended g) 5 true faulty).length ≤ 4 := by
  rw [badRows_faults]
  have h : (List.range 256).filter (fun i => decide (4 < (faulty.filter (·.1 == (rowMap (ended g) 5).getD i 0)).length)) = [7] := by
    show (List.range 256).filter (fun i => decide (4 < (faulty.filter (·.1 == (rowMap (planing 1) 5).getD i 0)).length)) = [7]
    decide +kernel
  rw [h]
  decide

theorem witness_AttemptEnds :
    let g := prog false false 256 0
    (engine (ended g) 0).prog = some g ∧ mustAbandon (ended g) g = false ∧ mustAbandon (writing g) g = true
      ∧ inHeldStretch (ended g) 5 = false ∧ masterGood (ended g) 5 = true ∧ (plane (ended g) 5).home ≠ none ∧ (plane (ended g) 5).st = 1
      ∧ look (fun _ => []) (ended g).lar.repair.rowsOff 5 = [] ∧ engOf 5 = 0 ∧ 5 % 65 ≠ 64 ∧ g.attempt < 3 ∧ g.held = false
      ∧ (let s := ended g
         unheld { s with hw := { s.hw with planes := [(5, { st := 4 })], cores := [(0, { usable := true, logical := 0, inUse := 0xFFFF, bound := some (1, 9) })] } } 0 = false) := by
  decide +kernel

/-- A fifth row: the plane has four rows off, its program found the faults of row 7, and it is being refreshed on an unheld core. -/
theorem witness_AttemptEnds_fifth :
    let g := { prog false false 256 0 with faults := faulty }
    let s := { spent g with hw := { (spent g).hw with planes := [(5, { st := 4, home := some (1, 0, 0, 0, 0) })] } }
    look (fun _ => []) s.lar.repair.rowsOff 5 = [0, 1, 2, 3] ∧ (sparesFor s 5 false g.faults).1 = [7] ∧ (plane s 5).st ≠ 1
      ∧ unheld s (coreOf 0) = true ∧ mustAbandon s g = false := by
  decide +kernel

/-- What a verify read of adopted plane 5 measures. -/
def adopted : AdoptData := { cells := [], m := 2352000, x := 2400000, z := 0, a := 0 }

theorem witness_Adoption :
    let s := { planing 2 with hw := { (planing 2).hw with planes := [(5, { st := 2, home := some (1, 0, 0, 0, 0), adopting := true })] } }
    freeFor s (coreOf (engOf 5)) 0 = true ∧ (plane s 5).adopting = true ∧ (plane s 5).home ≠ none ∧ (plane s 5).st = 2 ∧ unheld s (coreOf (engOf 5)) = true
      ∧ (evalDrift { plane s 5 with dp := 0x3C00, n := 64, m := adopted.m, x := adopted.x, z := adopted.z, a := adopted.a }).isSome = true := by
  decide +kernel

/-- The worked example of drift compensation: D_p 1.0 and sums M = 2,352,000 and X = 2,400,000 give 1,045 · 2^-10. -/
theorem test_drift : evalDrift { dp := 0x3C00, n := 64, m := 2352000, x := 2400000 } = some 0x3C15 := by decide +kernel

/-- A held core's plane with the sums of that example, in a window. -/
def inWindow : State :=
  liveCore (fun c => { c with window := some (3, 2048) })
    |> fun s => { s with hw := { s.hw with planes := [(5, { st := 2, owner := 9, home := some (1, 0, 0, 0, 0), n := 64, m := 2352000, x := 2400000 }),
                                                      (6, { st := 2, owner := 9, home := some (1, 1, 0, 0, 0), n := 64, m := 1, x := 2400000 })] } }

theorem witness_WindowEnds :
    (Machine.core inWindow 0).window = some (3, 2048) ∧ inWindow.fab.sched = 2048 ∧ (Machine.core inWindow 0).subWait = none
      ∧ (∀ m ∈ evaluated inWindow 0, m ∈ listedPlanes inWindow 0)
      ∧ (Machine.core (liveCore fun c => { c with window := some (3, 2100) }) 0).window = some (3, 2100) ∧ live.fab.sched = 2048
      ∧ (Machine.core up 0).window = none ∧ evaluated inWindow 0 = [5, 6]
      ∧ (listedPlanes inWindow 0).all (fun m => (plane inWindow m).next.isNone && (plane inWindow m).moveOf.isNone) = true
      ∧ (liveBindings inWindow).all (fun b => (entry inWindow b).st != 5) = true
      ∧ (evalDrift (plane inWindow 5)).isSome = true ∧ evalDrift (plane inWindow 6) = none := by decide +kernel

/-- R95: the plane issuable the trim of its sums; one outside the range becomes STALE. -/
theorem test_window_end :
    after (.maintenanceWindowEnd 0) inWindow (fun t => ((plane t 5).dp, (plane t 5).st, (plane t 5).n, (plane t 6).st)) = some (0x3C15, 2, 0, 3) := by
  decide +kernel

/-- A measurement of columns with offset 0 and gain 1. -/
def measures : CalMeas :=
  { p := List.replicate 261 4096 ++ [-2048, 2048, 0], n := List.replicate 261 (-4096) ++ [2048, -2048, 0], z := List.replicate 264 0,
    p7 := List.replicate 64 (List.replicate 264 64), n7 := List.replicate 64 (List.replicate 264 (-64)), sat := [] }

/-- Engine 0 in its first measurement, its core unheld or held. -/
def calibrating (second held : Bool) (failed : List Nat) : State :=
  let s := if held then live else up
  { s with hw := { s.hw with engines := [(0, { cal := some { second := second, failed := failed, stages := [] } })] } }

/-- A cluster whose run is due. -/
def calDueSt : State :=
  { up with hw := { up.hw with clusters := [(0, { cluster up 0 with cal := { (cluster up 0).cal with due := true } })] } }

/-- The outcome of a measurement on engine 0. -/
def outcome (second held : Bool) (m : CalMeas) : State :=
  calOutcome 0 { second := second, failed := [], stages := [] } m [] (calibrating second held [])

theorem witness_Calibrates :
    calMayStart calDueSt 0 = true ∧ calMayStart up 0 = false ∧ (engine up 0).cal = none
      ∧ (engine (calibrating false false []) 0).cal = some { second := false, failed := [], stages := [] }
      ∧ failedCols (calibrating false false []) 0 measures = []
      ∧ failedCols (calibrating false true []) 0 measures = [] ∧ unheld (calibrating false true []) 0 = false
      ∧ unheld (calibrating false false []) 0 = true
      ∧ failedCols (calibrating false false []) 0 { measures with sat := [17] } = [17]
      ∧ 64 < ((failedCols (calibrating false false []) 0 { measures with sat := List.range 65 }).filter (· < 260)).length
      ∧ 17 ∈ measuredCols (calibrating false true []) 0 ∧ evaluated { calibrating false false [] with hw := { (calibrating false false []).hw with
          planes := [(5, { st := 2, home := some (1, 0, 0, 0, 0), n := 64, m := 2352000, x := 2400000 })] } } 0 = [5]
      ∧ (engine (outcome false false { measures with sat := [17] }) 0).cal = some { second := true, failed := [17], stages := [4] }
      ∧ (engine (outcome true false { measures with sat := [17] }) 0).cal = none := by decide +kernel

/-- The worked example of array calibration: offset 0.5 and gain 127/128 give O 0.5 and G 1.0078125. -/
theorem test_gain : (f2h 0x3F000000, invHalf (fsub 0x3F800000 0x3C000000)) = (0x3800, 0x3C08) := by decide +kernel

/-- Core 0 with a test due since beat 0, late or not. -/
def inTests (held : Bool) (running : Bool) (beat : Nat) : State :=
  let s := if held then live else up
  { s with
    fab := { s.fab with beat := BitVec.ofNat 64 beat, sched := 2054, lead := 2 },
    hw := { s.hw with cores := [(0, { Machine.core s 0 with kat := { (Machine.core s 0).kat with due := some 0, running := running } })] } }

/-- The core before any test falls due. -/
def untested (beat : W64) : State := { up with fab := { up.fab with beat := beat } }

theorem interval_bound : Config.testInterval ≤ 84375000000 := by unfold Config.testInterval; omega

theorem witness_Tests :
    tested (untested 84375000000) 0 = true ∧ (Machine.core (untested 84375000000) 0).kat.due = none
      ∧ (Machine.core (untested 84375000000) 0).kat.lastDone = 0 ∧ tested State.reset 0 = false
      ∧ boundOf up 0 = none ∧ boundOf (inTests true false 58593750) 0 = some 1 ∧ tested (inTests true false 58593750) 0 = true
      ∧ overdue (inTests true false 58593750) 0 = true ∧ beforeBoundary (inTests true false 58593750) 1 = true
      ∧ forcedAsk (inTests true false 58593750) 0 = false ∧ inserted (inTests true false 58593750) = false
      ∧ enabledCl (inTests true false 58593750) 0 = true
      ∧ (katMayStart (inTests false false 1) 0 && katFirst (inTests false false 1) 0) = true ∧ katMayStart up 0 = false
      ∧ (Machine.core (inTests false true 1) 0).kat.running = true := by decide +kernel

theorem witness_Tests_results :
    failedEngines (inTests false true 1) 0 0 [] = [] ∧ unequal [(3, 3)] = 0 ∧ unequal [(3, 4)] = 1
      ∧ columnFails 0 0 [0, 0, 0, 0] = false ∧ columnFails 0 1000000 [0, 0, 0, 0] = true ∧ 0 ∈ testEngines (inTests false true 1) 0 := by
  decide +kernel

/-- R492: an attention test that fails twice fails the core. -/
theorem test_kat_fails :
    after (.katComplete 0 { vecs := [], att1 := [(3, 4)], att2 := [(2, 4)], path1 := [], path2 := [] }) (inTests false true 1)
      (fun t => ((Machine.core t 0).failed, (Machine.core t 0).kat.running)) = some (true, false) := by decide +kernel

/-! ### The invariant -/

theorem witness_StepKeepsInvariant : Inv State.reset ∧ step State.reset = .next State.reset := by
  refine ⟨⟨?_, ?_, ?_⟩, rfl⟩ <;> decide +kernel

/-! ### Well-formed commands: each check refuses something and passes something -/

theorem test_wf_registers :
    (Instr.registerWrite 0x400 1 true).wf = true ∧ (Instr.registerWrite 0x404 1 true).wf = false
      ∧ (Instr.registerWrite 0x402 1 false).wf = false ∧ (Instr.badAccess .host 0x401 2 true).wf = true
      ∧ (Instr.badAccess .host 0x401 0 true).wf = false ∧ (Instr.reg64LowRead 0x408).wf = true
      ∧ (Instr.reg64LowRead 0x40C).wf = false ∧ (Instr.reg64LowWrite 0x40C 0).wf = false ∧ (Instr.reg64HighWrite 0x40C 0).wf = false
      ∧ (Instr.mapWrite .host 0x60005 0).wf = false := by decide +kernel

theorem test_wf_lists :
    (Instr.lockTake 0 { readers := [.host, .mgmt], writes := [] }).wf = true ∧ (Instr.lockTake 0 { readers := [], writes := [] }).wf = false
      ∧ (Instr.lockTake 0 { readers := [.host, .host], writes := [] }).wf = false
      ∧ (Instr.lockTake 0 { readers := [.host], writes := [(.mgmt, 1), (.mgmt, 2)] }).wf = false
      ∧ (Instr.flush (cmd 1 0 [])).wf = true ∧ (Instr.flush (cmd 1 0 (List.replicate 441 0))).wf = false
      ∧ (Instr.generate (cmd 1 0 (List.replicate 441 0)) prompt).wf = false := by decide +kernel

/-- A window end with these clusters, and a start-up phase with these self-calibration sums. -/
def windowOf (cs : List (Fin 112)) : WindowData :=
  { powerAvg := 0, powerPeak := 0, inputV := 0, clusters := cs.map fun c => { cluster := c, power := 0, slack := 0 } }
def phaseOf (cs : List SelfCal) (ts : List (Fin 2016 × KatResult) := []) : PhaseFacts :=
  { flash := { found := true, octal := true, size := 2 ^ 26 }, noFloor := false, slotA := { readable := false, bytes := [], fwVersion := 0 },
    slotB := { readable := false, bytes := [], fwVersion := 0 }, failures := [], tests := ts, copyB := false, torn := 0, selfcal := cs,
    micros := 0 }

theorem test_wf_readings :
    (Instr.windowEnd (windowOf [0, 1])).wf = true ∧ (Instr.windowEnd (windowOf [1, 1])).wf = false
      ∧ (let vec : KatVec := { xs := List.replicate 256 0, ks := List.replicate 8 64, ideal := List.replicate 256 0 }
         let none : KatResult := { vecs := List.replicate 64 vec, att1 := [], path1 := [], att2 := [], path2 := [] }
         (Instr.startupPhaseEnd (phaseOf [] [(0, none), (1, none)])).wf = true ∧ (Instr.startupPhaseEnd (phaseOf [] [(1, none), (1, none)])).wf = false)
      ∧ (Instr.startupPhaseEnd (phaseOf [])).wf = true ∧ (Instr.startupPhaseEnd (phaseOf [{ zs := [], bs := [] }])).wf = false := by
  decide +kernel

theorem test_wf_datapath :
    (let sums (n : Nat) (comp : Bool) : ChainMsg :=
       { layer := 0, col := 0, vec := 0, comp := comp, s := List.replicate n 0, c := [], last := true, status := { dirty := false, impl := 0 } }
     (Instr.chainArrival 0 (sums 256 false)).wf = true ∧ (Instr.chainArrival 0 (sums 255 false)).wf = false
       ∧ (Instr.chainArrival 0 (sums 256 true)).wf = false)
      ∧ (let red (n : Nat) : ReduceMsg := { layer := 0, kind := 3, value := 0, count := 0, cands := List.replicate n (0, 0), final := true, zero := false }
         (Instr.reduceResultArrival 0 (red 8)).wf = true ∧ (Instr.reduceResultArrival 0 (red 9)).wf = false) := by decide +kernel

theorem test_wf_ring_block (n : Nat) :
    (Instr.ringBlockArrival 0 { round := 0, pages := [(0, List.replicate n 0)], linkOk := true }).wf = decide (n ≤ 65536) := by
  simp [Instr.wf, RingBlk.wf]

theorem test_wf_cells :
    (Instr.eraseComplete 0 [{ row := 259, col := 260, neg := false, level := 128 }]).wf = true
      ∧ (Instr.eraseComplete 0 [{ row := 260, col := 0, neg := false, level := 1 }]).wf = false
      ∧ (Instr.rowIteration 0 [{ row := 0, col := 264, neg := false, level := 1 }]).wf = false
      ∧ (Instr.rowIteration 0 [{ row := 0, col := 0, neg := false, level := 16 }]).wf = false
      ∧ (Instr.adoptionComplete 0 { adopted with cells := [{ row := 0, col := 260, neg := false, level := 129 }] }).wf = false
      ∧ (Instr.calibrationMeasurementComplete 0 []).wf = true
      ∧ (Instr.calibrationMeasurementComplete 0 (List.replicate 6 (List.replicate 16 0))).wf = true
      ∧ (Instr.calibrationMeasurementComplete 0 [[0]]).wf = false
      ∧ (Instr.calibrationMeasurementComplete 0 (List.replicate 6 [0])).wf = false
      ∧ (Instr.katComplete 0 { vecs := [], att1 := [], path1 := [], att2 := [], path2 := [] }).wf = false := by decide +kernel

end Sys2Proof.Tests
end

section
/-! SUPPORT. What raising an error record does to the error state, and that it touches nothing else below severity 2. -/

open Sys2Proof.Spec

namespace Sys2Proof.Machine

/-! ### The two queues -/

/-- What entering a record in the host queue leaves of the error state. -/
@[simp] theorem enterHost_mgmtQ (r : ErrRec) (e : ErrState) : (enterHost r e).mgmtQ = e.mgmtQ := by
  unfold enterHost; split
  · rfl
  · split <;> rfl
@[simp] theorem enterHost_nextSeq (r : ErrRec) (e : ErrState) : (enterHost r e).nextSeq = e.nextSeq := by
  unfold enterHost; split
  · rfl
  · split <;> rfl
@[simp] theorem enterHost_raised (r : ErrRec) (e : ErrState) : (enterHost r e).raised = e.raised := by
  unfold enterHost; split
  · rfl
  · split <;> rfl
@[simp] theorem enterHost_lastSeq (r : ErrRec) (e : ErrState) : (enterHost r e).lastSeq = e.lastSeq := by
  unfold enterHost; split
  · rfl
  · split <;> rfl

/-- What entering a record in the management queue leaves of the error state. -/
@[simp] theorem enterMgmt_hostQ (r : ErrRec) (e : ErrState) : (enterMgmt r e).hostQ = e.hostQ := by
  unfold enterMgmt; split
  · rfl
  · split <;> rfl
@[simp] theorem enterMgmt_nextSeq (r : ErrRec) (e : ErrState) : (enterMgmt r e).nextSeq = e.nextSeq := by
  unfold enterMgmt; split
  · rfl
  · split <;> rfl
@[simp] theorem enterMgmt_raised (r : ErrRec) (e : ErrState) : (enterMgmt r e).raised = e.raised := by
  unfold enterMgmt; split
  · rfl
  · split <;> rfl
@[simp] theorem enterMgmt_lastSeq (r : ErrRec) (e : ErrState) : (enterMgmt r e).lastSeq = e.lastSeq := by
  unfold enterMgmt; split
  · rfl
  · split <;> rfl

/-- The queue after a record is entered depends on the queue before and on nothing else of the error state. -/
theorem enterHost_hostQ_congr (r : ErrRec) {e f : ErrState} (h : e.hostQ = f.hostQ) :
    (enterHost r e).hostQ = (enterHost r f).hostQ := by
  unfold enterHost; rw [h]; split
  · rfl
  · split <;> simp
theorem enterMgmt_mgmtQ_congr (r : ErrRec) {e f : ErrState} (h : e.mgmtQ = f.mgmtQ) :
    (enterMgmt r e).mgmtQ = (enterMgmt r f).mgmtQ := by
  unfold enterMgmt; rw [h]; split
  · rfl
  · split <;> simp

/-! ### Routing -/

@[simp] theorem route_err_nextSeq (r : ErrRec) (s : State) : (route r s).err.nextSeq = s.err.nextSeq := by
  unfold route; dsimp only; split <;> simp
@[simp] theorem route_err_raised (r : ErrRec) (s : State) : (route r s).err.raised = s.err.raised := by
  unfold route; dsimp only; split <;> simp
@[simp] theorem route_err_lastSeq (r : ErrRec) (s : State) : (route r s).err.lastSeq = s.err.lastSeq := by
  unfold route; dsimp only; split <;> simp

theorem route_err_mgmtQ (r : ErrRec) (s : State) {e : ErrState} (h : s.err.mgmtQ = e.mgmtQ) :
    (route r s).err.mgmtQ = (enterMgmt r e).mgmtQ := by
  unfold route; dsimp only
  split
  · exact enterMgmt_mgmtQ_congr r h
  · exact enterMgmt_mgmtQ_congr r (by simpa using h)

theorem route_err_hostQ (r : ErrRec) (s : State) {e : ErrState} (h : s.err.hostQ = e.hostQ) :
    (route r s).err.hostQ = if below7 s then e.hostQ else (enterHost r e).hostQ := by
  unfold route; dsimp only
  split
  · simpa using h
  · rw [enterMgmt_hostQ]; exact enterHost_hostQ_congr r h

/-! ### Raising -/

/-- A record raised is the stamped one, entered in both queues (R494 to R498). -/
theorem raised_raiseOnly (r : ErrRec) (s : State) :
    Raised r.typ.toNat r.severity.toNat r.d0.toNat r.d1.toNat r.d2.toNat s (raiseOnly r s) := by
  refine ⟨stamp s r, rfl, rfl, rfl, rfl, rfl, rfl, ?_, ?_, ?_, ?_, ?_⟩
  · exact route_err_mgmtQ _ _ (by dsimp only; split <;> rfl)
  · exact route_err_hostQ _ _ (by dsimp only; split <;> rfl)
  all_goals
    unfold raiseOnly
    simp only [route_err_nextSeq, route_err_raised, route_err_lastSeq]
    split <;> rfl

/-- Whether a record was raised shows in the error state and the phase alone. -/
theorem raised_congr {typ sev d0 d1 d2 : Nat} {s s' t t' : State} (h : Raised typ sev d0 d1 d2 s t)
    (hs : s'.err = s.err) (hp : below7 s' = below7 s) (ht : t'.err = t.err) : Raised typ sev d0 d1 d2 s' t' := by
  unfold Raised; rw [hs, hp, ht]; exact h

/-- Below severity 2 nothing goes to the event log (R501). -/
theorem raise_minor {r : ErrRec} (h : r.severity.toNat < 2) (s : State) : raise r s = raiseOnly r s := by
  unfold raise; exact if_neg (by omega)

theorem raise_eq_err {r : ErrRec} (h : r.severity.toNat < 2) (s : State) : raise r s = { s with err := (raise r s).err } := by
  rw [raise_minor h]; rfl

theorem raised_raise {r : ErrRec} (h : r.severity.toNat < 2) (s : State) :
    Raised r.typ.toNat r.severity.toNat r.d0.toNat r.d1.toNat r.d2.toNat s (raise r s) := by
  rw [raise_minor h]; exact raised_raiseOnly r s

end Sys2Proof.Machine
end


section
/-! SUPPORT. Bad accesses (R20, R416). -/

open Sys2Proof Sys2Proof.Machine Sys2Proof.Spec

namespace Sys2Proof.Machine

/-- The record of a bad access has these words, whatever its master. -/
theorem badRecord_words (m : Master) (o n : Nat) (write : Bool) :
    (badRecord m o n write).typ = 1 ∧ (badRecord m o n write).severity = 0 ∧ (badRecord m o n write).d0 = BitVec.ofNat 32 o
      ∧ (badRecord m o n write).d1 = BitVec.ofNat 32 (bit write + 2 * n) ∧ (badRecord m o n write).d2 = 0 := by
  cases m <;> exact ⟨rfl, rfl, rfl, rfl, rfl⟩

/-- A bad access of a master that is answered: the zero reply of a read, and one record. -/
theorem badAccessAt_raised {m : Master} {o n : Nat} (write : Bool) {s : State} (ho : o < 2 ^ 26) (hn : n < 2 ^ 4)
    (hm : m = .host → openBlock s o = true) :
    badAccessAt m o n write s = { s with
        err := (badAccessAt m o n write s).err,
        out := if write then s.out else s.out ++ [.readBad (BitVec.ofNat 26 o) (BitVec.ofNat 4 n)] }
      ∧ Raised 1 0 o (bit write + 2 * n) 0 s (badAccessAt m o n write s) := by
  obtain ⟨htyp, hsev, hd0, hd1, hd2⟩ := badRecord_words m o n write
  have hminor : (badRecord m o n write).severity.toNat < 2 := by rw [hsev]; decide
  have hopen : ¬(m = .host ∧ (!openBlock s o) = true) := fun h => by simp [hm h.1] at h
  have hbit : bit write ≤ 1 := by cases write <;> decide
  have heq : badAccessAt m o n write s = raise (badRecord m o n write)
      (if write then s else emit (.readBad (BitVec.ofNat 26 o) (BitVec.ofNat 4 n)) s) := if_neg hopen
  have hraised := raised_raise hminor (if write then s else emit (.readBad (BitVec.ofNat 26 o) (BitVec.ofNat 4 n)) s)
  rw [htyp, hsev, hd0, hd1, hd2, BitVec.toNat_ofNat, BitVec.toNat_ofNat, Nat.mod_eq_of_lt (by omega),
    Nat.mod_eq_of_lt (by omega)] at hraised
  rw [heq]
  refine ⟨?_, raised_congr hraised ?_ ?_ rfl⟩
  · conv_lhs => rw [raise_eq_err hminor]
    cases write <;> rfl
  all_goals cases write <;> rfl

/-- BAD_ACCESS and REGISTER_WRITE on an access that breaks R20. -/
theorem exec_badAccess_of_bad {m : Master} {off : Off} {n : BitVec 4} {write : Bool} {s : State}
    (h : badSize s off.toNat n.toNat = true) :
    exec (.badAccess m off n write) s = .next (badAccessAt m off.toNat n.toNat write s) :=
  congrArg Host.Outcome.next (if_pos h)

theorem exec_registerWrite_of_bad {off : Off} {v : W64} {wide : Bool} {s : State}
    (h : badSize s off.toNat (if wide then 8 else 4) = true) :
    exec (.registerWrite off v wide) s = .next (badAccessAt .host off.toNat (if wide then 8 else 4) true s) :=
  congrArg Host.Outcome.next (if_pos h)

end Sys2Proof.Machine

/-- Settles O4: `badAccessAt` is the raise of one record on the state that has logged the zero reply. -/
theorem badAccessRecorded : Obligations.BadAccessRecorded := by
  unfold Obligations.BadAccessRecorded
  constructor
  · intro m off n write s hbad hm
    obtain ⟨heq, hraised⟩ := badAccessAt_raised write off.isLt n.isLt hm
    simp only [BitVec.ofNat_toNat, BitVec.setWidth_eq] at heq
    exact ⟨_, exec_badAccess_of_bad hbad, heq, hraised⟩
  · intro off v wide s hbad hopen
    obtain ⟨heq, hraised⟩ := badAccessAt_raised (m := .host) (n := if wide then 8 else 4) true off.isLt
      (by split <;> decide) fun _ => hopen
    exact ⟨_, exec_registerWrite_of_bad hbad, heq, hraised⟩
end

section
/-! SUPPORT. The halves of 64-bit registers (R21). -/

open Sys2Proof Sys2Proof.Machine Sys2Proof.Spec

namespace Sys2Proof.Machine

/-! ### Where the host-writable bases lie (Tables 12.3, 17.3) -/

/-- The offset of a ring's SQ_BASE. -/
def sqBaseOff (r : Nat) : Nat := 0x40000 + 0x40 * r

theorem val64_erBase (s : State) : val64 s 0x80000 = some (s.err.erBase ++ (0 : BitVec 12)) := rfl

theorem val64_sqBase {r : Nat} (hr : r < 256) (s : State) :
    val64 s (sqBaseOff r) = some ((ring s r).sqBase ++ (0 : BitVec 12)) := by
  have hidx : (sqBaseOff r - 0x40000) / 0x40 = r := by unfold sqBaseOff; omega
  have hin : 0x40000 ≤ sqBaseOff r ∧ sqBaseOff r < 0x44000 ∧ sqBaseOff r % 0x40 = 0 := by unfold sqBaseOff; omega
  unfold val64 glob64
  rw [if_neg (by omega), if_neg (by omega), if_neg (by omega), if_neg (by omega), if_pos hin, hidx]

theorem sqBaseOff_toNat {r : Nat} (hr : r < 256) : (BitVec.ofNat 26 (sqBaseOff r)).toNat = sqBaseOff r := by
  rw [BitVec.toNat_ofNat]; unfold sqBaseOff; omega

/-! ### The value a base takes -/

/-- The low word of a base is its low 20 bits above a zero page offset. -/
theorem base_low (b : BitVec 52) : BitVec.ofNat 32 (b ++ (0 : BitVec 12)).toNat = BitVec.ofNat 32 (b.toNat * 2 ^ 12) := by
  rw [BitVec.toNat_append]; simp [Nat.shiftLeft_eq]

/-- The base that two halves spell. -/
theorem base_of_halves (hi lo : W32) :
    BitVec.ofNat 52 ((hi ++ lo).toNat / 2 ^ 12) = BitVec.ofNat 52 (hi.toNat * 2 ^ 20 + lo.toNat / 2 ^ 12) := by
  have hval : (hi ++ lo).toNat = hi.toNat * 2 ^ 32 + lo.toNat := by
    rw [BitVec.toNat_append, Nat.shiftLeft_eq, Nat.mul_comm, Nat.two_pow_add_eq_or_of_lt lo.isLt, Nat.mul_comm]
  rw [hval]; congr 1; omega

/-! ### What each half access does -/

theorem take64_erBase {v : W64} {s : State} (h : s.err.erEnable = false) :
    take64 0x80000 v s = { s with
      ident := { s.ident with lowLatch := put (fun _ => none) s.ident.lowLatch 0x80000 none },
      err := { s.err with erBase := BitVec.ofNat 52 (v.toNat / 2 ^ 12) } } := by
  unfold take64; simp [h]

theorem take64_sqBase {r : Nat} (hr : r < 256) (v : W64) (s : State) :
    take64 (sqBaseOff r) v s = baseWrite r true v { s with
      ident := { s.ident with lowLatch := put (fun _ => none) s.ident.lowLatch (sqBaseOff r) none } } := by
  have hidx : (sqBaseOff r - 0x40000) / 0x40 = r := by unfold sqBaseOff; omega
  have hin : 0x40000 ≤ sqBaseOff r ∧ sqBaseOff r < 0x44000 ∧ sqBaseOff r % 0x40 = 0 := by unfold sqBaseOff; omega
  unfold take64; dsimp only; rw [if_pos hin, hidx]

theorem ring_baseWrite_sq {r : Nat} {s : State} (v : W64) (h : (ring s r).sqEnable = false) (j : Nat) :
    ring (baseWrite r true v s) j =
      if j = r then { ring s r with sqBase := BitVec.ofNat 52 (v.toNat / 2 ^ 12) } else ring s j := by
  unfold baseWrite; rw [ring_modRing]; simp [h]

theorem exec_reg64LowRead {off : Off} {v : W64} {s : State} (hopen : openBlock s off.toNat = true)
    (hv : val64 s off.toNat = some v) :
    exec (.reg64LowRead off) s = .next (emit (.read64 off v) { s with ident := { s.ident with
      highLatch := put (fun _ => none) s.ident.highLatch off.toNat (some (BitVec.ofNat 32 (v.toNat / 2 ^ 32))) } }) := by
  show execReg64LowRead off s = _
  unfold execReg64LowRead; simp [hopen, hv]

theorem exec_reg64LowWrite {off : Off} (lo : W32) {s : State} (hopen : openBlock s off.toNat = true)
    (hv : (val64 s off.toNat).isSome = true) : exec (.reg64LowWrite off lo) s = .next (lowWrite off.toNat lo s) :=
  congrArg Host.Outcome.next (if_pos ⟨hopen, hv⟩)

/-- A high-word write takes the word with the latched low word, or with the register's own where none was written. -/
theorem exec_reg64HighWrite {off : Off} (hi : W32) {cur : W64} {s : State} (hopen : openBlock s off.toNat = true)
    (hv : val64 s off.toNat = some cur) :
    exec (.reg64HighWrite off hi) s =
      .next (take64 off.toNat (hi ++ latchedLow s off.toNat (BitVec.ofNat 32 cur.toNat)) s) := by
  show execReg64HighWrite off hi s = _
  unfold execReg64HighWrite; simp [hopen, hv]; rfl

end Sys2Proof.Machine

/-- Settles O5: each access is an equation, and what the latches and the bases then read is a law of sparse maps. -/
theorem sixtyFourBitHalves : Obligations.SixtyFourBitHalves := by
  unfold Obligations.SixtyFourBitHalves
  refine ⟨?lowRead, ?lowWrite, ?erHigh, ?sqHigh⟩
  case lowRead =>
    intro off v s hopen hv
    exact ⟨_, exec_reg64LowRead hopen hv, rfl, fun o => look_put (fun _ => none) s.ident.highLatch off.toNat o (some _)⟩
  case lowWrite =>
    intro off lo s hopen hv
    exact ⟨_, exec_reg64LowWrite lo hopen hv, rfl, fun o => look_put (fun _ => none) s.ident.lowLatch off.toNat o (some lo)⟩
  case erHigh =>
    intro hi s hen
    have hexec := exec_reg64HighWrite (off := 0x80000) hi (s := s) (by simp [openBlock]) (val64_erBase s)
    rw [show (0x80000 : Off).toNat = 0x80000 from rfl, base_low, take64_erBase hen, base_of_halves] at hexec
    exact ⟨_, hexec, rfl, rfl, look_put_same (fun _ => none) s.ident.lowLatch 0x80000 none⟩
  case sqHigh =>
    intro r hi s hphase hen
    have hopen : openBlock s (sqBaseOff r.val) = true := by simp [openBlock, hphase]
    have hexec := exec_reg64HighWrite (off := BitVec.ofNat 26 (sqBaseOff r.val)) hi (s := s)
      (by rwa [sqBaseOff_toNat r.isLt]) (by rw [sqBaseOff_toNat r.isLt]; exact val64_sqBase r.isLt s)
    rw [sqBaseOff_toNat r.isLt, base_low, take64_sqBase r.isLt] at hexec
    refine ⟨_, hexec, ?_, fun j hj => ?_⟩ <;> rw [ring_baseWrite_sq _ (by exact hen)]
    · rw [if_pos rfl, base_of_halves]; rfl
    · exact if_neg hj
end

section
/-! SUPPORT. Restarts: what a loss of runtime state keeps (R23, R368, R397, Table 12.13), and the training of the host link (R363,
R429). -/

open Sys2Proof Sys2Proof.Machine Sys2Proof.Spec

namespace Sys2Proof.Machine

/-! ### The planes' cells -/

/-- A key at or below every listed one reads as unlisted. -/
theorem look_of_above {α : Type} (d : Nat → α) {k : Nat} {m : SMap α} (h : above k m) : look d m k = d k := by
  induction m with
  | nil => rfl
  | cons p t ih =>
    have hp : p.1 ≠ k := Nat.ne_of_gt (h p (by simp))
    rw [look, if_neg hp]
    exact ih fun q hq => h q (by simp [hq])

/-- What a loss of runtime state makes of one listed plane. -/
def keptEntry (x : Nat × Plane) : Option (Nat × Plane) :=
  let q := keptPlane x.1 x.2
  if q = planeReset x.1 then none else some (x.1, q)

theorem lostState_planes (cold : Bool) (s : State) : (lostState cold s).hw.planes = s.hw.planes.filterMap keptEntry := rfl

theorem keptEntry_key {x y : Nat × Plane} (h : keptEntry x = some y) : y.1 = x.1 := by
  unfold keptEntry at h; dsimp only at h
  split at h
  · cases h
  · cases h; rfl

theorem above_keptEntry {k : Nat} {m : SMap Plane} (h : above k m) : above k (m.filterMap keptEntry) := by
  intro y hy
  obtain ⟨x, hx, hxy⟩ := List.mem_filterMap.mp hy
  rw [keptEntry_key hxy]; exact h x hx

theorem keptPlane_cells (n : Nat) (p : Plane) : (keptPlane n p).cells = p.cells := rfl

/-- The listed planes that are kept have the cells they had. -/
theorem look_keptEntry_cells (n : Nat) {m : SMap Plane} (h : rising none m = true) :
    (look planeReset (m.filterMap keptEntry) n).cells = (look planeReset m n).cells := by
  induction m with
  | nil => rfl
  | cons p t ih =>
    obtain ⟨habove, hrising⟩ := (rising_cons p t).1 h
    by_cases hreset : keptPlane p.1 p.2 = planeReset p.1
    · have hdrop : keptEntry p = none := if_pos hreset
      rw [List.filterMap_cons_none hdrop, look]
      split
      · rename_i hkey
        subst hkey
        rw [look_of_above _ (above_keptEntry habove), ← hreset, keptPlane_cells]
      · exact ih hrising
    · have hkeep : keptEntry p = some (p.1, keptPlane p.1 p.2) := if_neg hreset
      rw [List.filterMap_cons_some hkeep, look, look]
      split
      · exact keptPlane_cells _ _
      · exact ih hrising

/-! ### The host link -/

/-- The host block once the link has trained, pending interrupts apart. -/
def linkedHost (s : State) : HostIf :=
  let up := trains s.su.trainWidth s.su.trainSpeed
  { s.host with
    width := if up then s.su.trainWidth else 0, speed := if up then s.su.trainSpeed else 0,
    degraded := up && decide (s.su.trainWidth.toNat < 16 ∨ s.su.trainSpeed.toNat < 6), recovery := false }

/-- A width and speed that train are degraded below 16 lanes or 64 GT/s (Table 12.14). -/
theorem degraded_iff {w : BitVec 5} {v : BitVec 4} (h : trains w v = true) :
    (w.toNat = 8 ∨ v.toNat = 5) ↔ (w.toNat < 16 ∨ v.toNat < 6) := by
  simp only [trains, Bool.and_eq_true, Bool.or_eq_true, beq_iff_eq] at h
  omega

theorem trains_eq (w : BitVec 5) (v : BitVec 4) :
    trains w v = decide ((w.toNat = 8 ∨ w.toNat = 16) ∧ (v.toNat = 5 ∨ v.toNat = 6)) := by
  rw [Bool.eq_iff_iff]; simp [trains]

theorem linkedHost_degraded (s : State) : (linkedHost s).degraded =
    (trains s.su.trainWidth s.su.trainSpeed && decide (s.su.trainWidth.toNat = 8 ∨ s.su.trainSpeed.toNat = 5)) := by
  unfold linkedHost
  cases h : trains s.su.trainWidth s.su.trainSpeed
  · rfl
  · simp only [Bool.true_and, degraded_iff h]

/-- Training puts the link up and may signal vector 2. -/
theorem trainLink_eq (s : State) :
    trainLink s = { s with host := linkedHost s } ∨ trainLink s = msix 2 { s with host := linkedHost s } := by
  have hhost : linkedHost s = { s.host with
      width := if trains s.su.trainWidth s.su.trainSpeed then s.su.trainWidth else 0
      speed := if trains s.su.trainWidth s.su.trainSpeed then s.su.trainSpeed else 0
      degraded := trains s.su.trainWidth s.su.trainSpeed && decide (s.su.trainWidth.toNat = 8 ∨ s.su.trainSpeed.toNat = 5)
      recovery := false } := by rw [← linkedHost_degraded]; rfl
  rw [hhost, trains_eq]
  unfold trainLink; dsimp only
  split
  · exact .inr rfl
  · exact .inl rfl

/-- An interrupt is sent or pending, and that is all. -/
theorem msix_eq (v : Nat) (s : State) :
    msix v s = { s with host := { s.host with pba := (msix v s).host.pba }, out := (msix v s).out } := by
  unfold msix; split <;> rfl

/-- What training changes. -/
theorem trainLink_frame (s : State) : trainLink s =
    { s with host := { linkedHost s with pba := (trainLink s).host.pba }, out := (trainLink s).out } := by
  rcases trainLink_eq s with h | h
  · rw [h]
  · rw [h]; exact msix_eq 2 { s with host := linkedHost s }

@[simp] theorem trainLink_host_width (s : State) :
    (trainLink s).host.width = if trains s.su.trainWidth s.su.trainSpeed then s.su.trainWidth else 0 := by
  rw [trainLink_frame]; rfl
@[simp] theorem trainLink_host_speed (s : State) :
    (trainLink s).host.speed = if trains s.su.trainWidth s.su.trainSpeed then s.su.trainSpeed else 0 := by
  rw [trainLink_frame]; rfl
@[simp] theorem trainLink_host_degraded (s : State) : (trainLink s).host.degraded =
    (trains s.su.trainWidth s.su.trainSpeed && decide (s.su.trainWidth.toNat < 16 ∨ s.su.trainSpeed.toNat < 6)) := by
  rw [trainLink_frame]; rfl
@[simp] theorem trainLink_host_rings (s : State) : (trainLink s).host.rings = s.host.rings := by rw [trainLink_frame]; rfl

/-- Runtime state is lost whatever the link does. -/
theorem lost_trainLink {s t : State} (h : Lost s t) : Lost s (trainLink t) := by
  rw [trainLink_frame]; exact h

/-! ### Restarts -/

/-- A loss of runtime state (R23). -/
theorem lost_lostState (s : State) : Lost s (lostState false s) :=
  ⟨rfl, rfl, rfl, rfl, rfl, rfl, rfl, rfl, rfl, rfl, rfl, rfl, rfl,
    fun hwf n => look_keptEntry_cells n (by simp only [SMapWf, Bool.and_eq_true] at hwf; exact hwf.1),
    rfl, rfl, rfl, rfl, rfl, rfl⟩

/-- Start-up begun again after a loss of runtime state. -/
theorem restarted_beginStart (cause : Nat) (hc : cause < 8) (s : State) :
    Restarted 1 cause s (beginStart 1 cause (lostState false s)) :=
  ⟨lost_lostState s, rfl, by show (BitVec.ofNat 3 cause).toNat = cause; rw [BitVec.toNat_ofNat]; omega, rfl, rfl, rfl, fun _ => rfl⟩

/-- A restart stands whatever the link then does. -/
theorem restarted_trainLink {phase cause : Nat} {s t : State} (h : Restarted phase cause s t) :
    Restarted phase cause s (trainLink t) := by
  obtain ⟨hlost, hrest⟩ := h
  refine ⟨lost_trainLink hlost, ?_⟩
  rw [trainLink_frame]; exact hrest

/-- The link after a restart: as it was, down, or trained again while PERST# is high (R429). -/
def relink (up : Bool) (t : State) : State :=
  if up then t
  else
    let d := { t with host := { t.host with width := 0, speed := 0, degraded := false } }
    if d.su.perst then trainLink d else d

/-- A warm restart of a part that runs and is no domain member. -/
theorem warmRestart_eq {s : State} (h : RunsAlone s) (hphase : s.su.phase ≠ 0) (cause : Nat) (link : Bool) :
    warmRestart cause link s = relink link (beginStart 1 cause (lostState false s)) := by
  obtain ⟨hinput, hreset, htrip, hdomain⟩ := h
  unfold warmRestart
  rw [if_neg (by simpa [hinput, hreset, htrip] using hphase)]
  simp only [if_neg hdomain]; rfl

theorem restarted_relink {phase cause : Nat} {s t : State} (h : Restarted phase cause s t) (up : Bool) :
    Restarted phase cause s (relink up t) := by
  cases up
  · show Restarted phase cause s (if t.su.perst then _ else _)
    split
    · exact restarted_trainLink h
    · exact h
  · exact h

/-- A part that runs and is no domain member restarts at phase 1. -/
theorem restarted_warmRestart {s : State} (h : RunsAlone s) (hphase : s.su.phase ≠ 0) {cause : Nat} (hc : cause < 8) (link : Bool) :
    Restarted 1 cause s (warmRestart cause link s) := by
  rw [warmRestart_eq h hphase]; exact restarted_relink (restarted_beginStart cause hc s) link

/-- The link after one that went down. -/
theorem relink_down_width (t : State) : (relink false t).host.width =
    if t.su.perst ∧ trains t.su.trainWidth t.su.trainSpeed then t.su.trainWidth else 0 := by
  show (if t.su.perst then trainLink _ else _ : State).host.width = _
  cases t.su.perst
  · rfl
  · simp

theorem exec_linkDown_unexpected {s : State} (h : s.host.quiesced = false) : exec .linkDown s = .next (warmRestart 2 false s) :=
  congrArg Host.Outcome.next (if_neg (by simp [h]))

theorem exec_perstDeassert {s : State} (h : s.su.phase ≠ 0) (w : BitVec 5) (v : BitVec 4) : exec (.perstDeassert w v) s =
    .next (trainLink { s with su := { s.su with perst := true, trainWidth := w, trainSpeed := v } }) :=
  congrArg Host.Outcome.next (if_neg h)

end Sys2Proof.Machine

/-- Settles O21: every restart is a loss of runtime state, a start at phase 1, and what the link then does. -/
theorem resetsLoseRuntimeState : Obligations.ResetsLoseRuntimeState := by
  unfold Obligations.ResetsLoseRuntimeState
  refine ⟨fun s hruns hphase => ⟨?functionLevel, ?hot, ?conventional, ?linkDown⟩, ?expected, fun w v s => ⟨?perstOff, ?perstOn⟩⟩
  case functionLevel => exact ⟨_, rfl, restarted_warmRestart hruns hphase (by decide) true⟩
  case hot => exact ⟨_, rfl, restarted_warmRestart hruns hphase (by decide) true⟩
  case conventional =>
    refine ⟨_, rfl, restarted_warmRestart (s := { s with su := { s.su with perst := false } }) hruns hphase (by decide) false, ?_⟩
    rw [warmRestart_eq (s := { s with su := { s.su with perst := false } }) hruns hphase]
    exact ⟨rfl, rfl⟩
  case linkDown =>
    intro hq
    refine ⟨_, exec_linkDown_unexpected hq, restarted_warmRestart hruns hphase (by decide) false, ?_⟩
    rw [warmRestart_eq hruns hphase]
    exact relink_down_width _
  case expected =>
    intro s hq
    exact congrArg Host.Outcome.next (if_pos hq)
  case perstOff =>
    intro h
    exact ⟨_, congrArg Host.Outcome.next (if_pos h), rfl, rfl⟩
  case perstOn =>
    intro h
    refine ⟨_, exec_perstDeassert h w v, ?_, trainLink_host_width _, trainLink_host_speed _, trainLink_host_degraded _,
      trainLink_host_rings _, ?_⟩ <;> rw [trainLink_frame]
end

section
/-! SUPPORT. What the issue of an op record does before its unit works (R187 to R191): the state `begun`, which keeps everything but
flags, counters and pointers of the cores. -/

open Sys2Proof Sys2Proof.Machine Sys2Proof.Spec

namespace Sys2Proof.Machine

/-! ### What issue keeps -/

/-- The state without the arrays and cores and the counter of free values. -/
def offCores (s : State) : State := { s with hw := {}, fresh := 0 }

theorem offCores_eq {s t : State} (h : offCores t = offCores s) : t = { s with hw := t.hw, fresh := t.fresh } :=
  congrArg (fun x : State => { x with hw := t.hw, fresh := t.fresh }) h

theorem mem_of_offCores {s t : State} (h : offCores t = offCores s) : t.mem = s.mem := (congrArg State.mem h :)
theorem memKeys_of_offCores {s t : State} (h : offCores t = offCores s) : t.memKeys = s.memKeys := (congrArg State.memKeys h :)
theorem ten_of_offCores {s t : State} (h : offCores t = offCores s) : t.ten = s.ten := (congrArg State.ten h :)
theorem brun_of_offCores {s t : State} (h : offCores t = offCores s) (b : Nat) : brun t b = brun s b := by
  unfold brun; rw [ten_of_offCores h]
theorem srv_of_offCores {s t : State} (h : offCores t = offCores s) : t.srv = s.srv := (congrArg State.srv h :)
theorem err_of_offCores {s t : State} (h : offCores t = offCores s) : t.err = s.err := (congrArg State.err h :)

@[simp] theorem offCores_modCore (k : Nat) (f : Core → Core) (s : State) : offCores (modCore k f s) = offCores s := rfl
@[simp] theorem offCores_modLs (k : Nat) (f : LayerRun → LayerRun) (s : State) : offCores (modLs k f s) = offCores s := rfl
@[simp] theorem offCores_tickFresh (s : State) : offCores (tickFresh s) = offCores s := rfl
@[simp] theorem offCores_bump (p off n : Nat) (s : State) : offCores (bump p off n s) = offCores s := by
  unfold bump; split <;> rfl
@[simp] theorem offCores_endWait (k off : Nat) (s : State) : offCores (endWait k off s) = offCores s := by simp [endWait]
@[simp] theorem offCores_openWait (k : Nat) (s : State) : offCores (openWait k s) = offCores s := by
  unfold openWait; dsimp only; split <;> simp
@[simp] theorem offCores_when {c : Bool} {f : State → State} {s : State} (h : offCores (f s) = offCores s) :
    offCores (when c f s) = offCores s := by
  cases c
  · rfl
  · exact h
@[simp] theorem offCores_endWaits (k : Nat) (ts : List Nat) (s : State) : offCores (endWaits k ts s) = offCores s := by
  unfold endWaits; dsimp only
  rw [offCores_modCore]
  unfold when
  split_ifs <;> simp
@[simp] theorem offCores_markCarried (c : Iss) (s : State) : offCores (markCarried c s) = offCores s := by
  unfold markCarried; split <;> rfl
@[simp] theorem offCores_advance (c : Iss) (s : State) : offCores (advance c s) = offCores s := rfl

/-- Issue changes cores, clusters and the counter of free values alone. -/
theorem offCores_begun (c : Iss) (s : State) : offCores (begun c s) = offCores s := by simp [begun]

@[simp] theorem begun_mem (c : Iss) (s : State) : (begun c s).mem = s.mem := mem_of_offCores (offCores_begun c s)
@[simp] theorem begun_memKeys (c : Iss) (s : State) : (begun c s).memKeys = s.memKeys := memKeys_of_offCores (offCores_begun c s)
@[simp] theorem begun_ten (c : Iss) (s : State) : (begun c s).ten = s.ten := ten_of_offCores (offCores_begun c s)
@[simp] theorem begun_srv (c : Iss) (s : State) : (begun c s).srv = s.srv := srv_of_offCores (offCores_begun c s)
@[simp] theorem begun_err (c : Iss) (s : State) : (begun c s).err = s.err := err_of_offCores (offCores_begun c s)

/-- What a core stores of the bytes that records leave, and the layer step that holds them. -/
def storeOf (q : Core) : SMap Byte × SMap Byte × Bool × List TailOut := (q.sram, q.cshare, q.ls.opened, q.ls.tails)

theorem storeOf_modCore {f : Core → Core} (h : ∀ q, storeOf (f q) = storeOf q) (k j : Nat) (s : State) :
    storeOf (core (modCore k f s) j) = storeOf (core s j) := by
  rw [core_modCore]; split
  · rename_i hj; rw [h, hj]
  · rfl

@[simp] theorem storeOf_bump (p off n j : Nat) (s : State) : storeOf (core (bump p off n s) j) = storeOf (core s j) := by
  unfold bump; split <;> rfl
@[simp] theorem storeOf_tickFresh (j : Nat) (s : State) : storeOf (core (tickFresh s) j) = storeOf (core s j) := rfl
@[simp] theorem storeOf_endWait (k off j : Nat) (s : State) : storeOf (core (endWait k off s) j) = storeOf (core s j) := by
  simp [endWait]
@[simp] theorem storeOf_openWait (k j : Nat) (s : State) : storeOf (core (openWait k s) j) = storeOf (core s j) := by
  unfold openWait; dsimp only; split <;> simp
@[simp] theorem storeOf_endWaits (k : Nat) (ts : List Nat) (j : Nat) (s : State) :
    storeOf (core (endWaits k ts s) j) = storeOf (core s j) := by
  unfold endWaits; dsimp only
  rw [storeOf_modCore fun q => by rfl]
  unfold when
  split_ifs <;> simp
@[simp] theorem storeOf_markCarried (c : Iss) (j : Nat) (s : State) : storeOf (core (markCarried c s) j) = storeOf (core s j) := by
  unfold markCarried; split
  · unfold modLs; exact storeOf_modCore (fun q => by rfl) _ _ _
  · rfl
@[simp] theorem storeOf_advance (c : Iss) (j : Nat) (s : State) : storeOf (core (advance c s) j) = storeOf (core s j) := by
  refine storeOf_modCore (fun q => ?_) _ _ _
  unfold setPtr; split_ifs <;> rfl

/-- Issue leaves what the cores store. -/
theorem storeOf_begun (c : Iss) (j : Nat) (s : State) : storeOf (core (begun c s) j) = storeOf (core s j) := by simp [begun]

@[simp] theorem begun_core_sram (c : Iss) (j : Nat) (s : State) : (core (begun c s) j).sram = (core s j).sram :=
  (congrArg (·.1) (storeOf_begun c j s) :)
@[simp] theorem begun_ls_opened (c : Iss) (j : Nat) (s : State) : (lsOf (begun c s) j).opened = (lsOf s j).opened :=
  (congrArg (·.2.2.1) (storeOf_begun c j s) :)
@[simp] theorem begun_core_ls_tails (c : Iss) (j : Nat) (s : State) : (core (begun c s) j).ls.tails = (core s j).ls.tails :=
  (congrArg (·.2.2.2) (storeOf_begun c j s) :)

/-! ### Issue -/

/-- A record that is ready at its core goes to its unit, and waits where the unit cannot take it. -/
theorem issueTo_ready {op : Nat} {c : Iss} {k : Fin 2016} {r : RecRead} {s : State} (hreads : Reads c k r s)
    (hready : Ready op c r s) (unit : Bool) (ready : Iss → State → Bool) (f : Iss → State → State) :
    issueTo op unit ready f k r s =
      if !ready c s then (if unit then modCore k (fun q => { q with unitWait := true }) s else s) else runRecord f c s := by
  obtain ⟨hk, hbound, hplan, hx, hidx, hwide, hfaults⟩ := hreads
  obtain ⟨⟨hfailed, hwindow, hbeat, horder⟩, hdamage, htakes, htiles, -⟩ := hready
  obtain ⟨_, b, i, _, _, _, _⟩ := c
  dsimp only at hk hbound hplan hx hidx hwide hfaults hfailed hwindow htakes
  subst hk hx hidx hwide hfaults
  unfold issueTo
  simp only [hbound, hplan, hdamage]
  rw [if_neg (by simp [hfailed, hwindow, hbeat, horder])]
  simp [htakes, htiles]

/-- A record with legal operands and no finding of the checks runs in the state `begun`. -/
theorem runRecord_issued {op : Nat} {c : Iss} {k : Fin 2016} {r : RecRead} {s : State} (hreads : Reads c k r s)
    (hissued : Issued op c r s) (f : Iss → State → State) : runRecord f c s = f c (begun c s) := by
  obtain ⟨⟨-, -, -, -, hopnds⟩, hnone⟩ := hissued
  have hfaults : c.faults = [] := by rw [hreads.2.2.2.2.2.2, hnone]
  unfold runRecord
  rw [if_neg (by simp [hopnds]), hfaults]; rfl

/-- A record whose unit can always take it. -/
theorem issue_issued {op : Nat} {c : Iss} {k : Fin 2016} {r : RecRead} {s : State} (hreads : Reads c k r s)
    (hissued : Issued op c r s) (f : Iss → State → State) : issue op f k r s = f c (begun c s) := by
  unfold issue
  rw [issueTo_ready hreads hissued.1, runRecord_issued hreads hissued]; rfl

end Sys2Proof.Machine
end

section
/-! SUPPORT. What an end of the step keeps (R62), and reads and writes of operands (Table 6.5) under the frame owner check (R352). -/

open Sys2Proof Sys2Proof.Machine Sys2Proof.Spec

namespace Sys2Proof.Machine

/-! ### The end of a step (R62, R352) -/

/-- The state without the arrays and cores, firmware's data of bindings and records, and the carries and scale states. -/
def offStep (s : State) : State :=
  { s with hw := {}, ten := { s.ten with runs := [] }, srv := { ctx := s.srv.ctx, hist := s.srv.hist } }

@[simp] theorem offStep_modCore (k : Nat) (f : Core → Core) (s : State) : offStep (modCore k f s) = offStep s := rfl
@[simp] theorem offStep_modEngine (e : Nat) (f : Engine → Engine) (s : State) : offStep (modEngine e f s) = offStep s := rfl
@[simp] theorem offStep_modBrun (b : Nat) (f : BRun → BRun) (s : State) : offStep (modBrun b f s) = offStep s := rfl
@[simp] theorem offStep_modCtxRun (c : Nat) (f : CtxRun → CtxRun) (s : State) : offStep (modCtxRun c f s) = offStep s := rfl
@[simp] theorem offStep_restoreSeq (c : Nat) (s : State) : offStep (restoreSeq c s) = offStep s := rfl

theorem offStep_abandonStep (b : Nat) (s : State) : offStep (abandonStep b s) = offStep s := by
  unfold abandonStep
  rw [forAll_keeps offStep _ fun c s => by simp, forAll_keeps offStep _ fun k s => by simp]

/-- A step that ends changes cores, engines, firmware's data of its binding and records, and what the step had not committed. -/
theorem offStep_endStep (b : Nat) (s : State) : offStep (endStep b s) = offStep s := by
  unfold endStep
  rw [offStep_modBrun, offStep_abandonStep, forAll_keeps offStep]
  intro k s
  rw [forAll_keeps offStep _ fun e s => by simp, offStep_modCore]

theorem mem_of_offStep {s t : State} (h : offStep t = offStep s) : t.mem = s.mem := (congrArg State.mem h :)
theorem memKeys_of_offStep {s t : State} (h : offStep t = offStep s) : t.memKeys = s.memKeys := (congrArg State.memKeys h :)
theorem ctx_of_offStep {s t : State} (h : offStep t = offStep s) : t.srv.ctx = s.srv.ctx :=
  (congrArg (fun x : State => x.srv.ctx) h :)
theorem nOwner_of_offStep {s t : State} (h : offStep t = offStep s) : t.ten.nOwner = s.ten.nOwner :=
  (congrArg (fun x : State => x.ten.nOwner) h :)

@[simp] theorem endStep_mem (b : Nat) (s : State) : (endStep b s).mem = s.mem := mem_of_offStep (offStep_endStep b s)
@[simp] theorem endStep_memKeys (b : Nat) (s : State) : (endStep b s).memKeys = s.memKeys :=
  memKeys_of_offStep (offStep_endStep b s)
@[simp] theorem endStep_srv_ctx (b : Nat) (s : State) : (endStep b s).srv.ctx = s.srv.ctx := ctx_of_offStep (offStep_endStep b s)
@[simp] theorem endStep_ten_nOwner (b : Nat) (s : State) : (endStep b s).ten.nOwner = s.ten.nOwner :=
  nOwner_of_offStep (offStep_endStep b s)

theorem endStep_dead (b : Nat) (s : State) : (brun (endStep b s) b).dead = true := by
  unfold endStep; rw [brun_modBrun_same]

@[simp] theorem ownerFault_ten_nOwner (b f n : Nat) (w : Bool) (r : ErrRec) (s : State) :
    (ownerFault b f n w r s).ten.nOwner = s.ten.nOwner + 1 := by
  unfold ownerFault; rw [raise_ten]

/-- An owner fault of a core's access: device memory and the context records stay, and the fault is counted. -/
theorem ownerStop_keeps (k b f blk : Nat) (write : Bool) (s : State) :
    (ownerStop k b f blk write s).mem = s.mem ∧ (ownerStop k b f blk write s).memKeys = s.memKeys
      ∧ (ownerStop k b f blk write s).srv.ctx = s.srv.ctx ∧ (ownerStop k b f blk write s).ten.nOwner = s.ten.nOwner + 1 := by
  unfold ownerStop
  refine ⟨?_, ?_, ?_, ?_⟩ <;> simp

theorem ownerStop_dead (k b f blk : Nat) (write : Bool) (s : State) : (brun (ownerStop k b f blk write s) b).dead = true :=
  endStep_dead _ _

theorem memKept_of_eq {s t : State} (hm : t.mem = s.mem) (hk : t.memKeys = s.memKeys) : MemKept s t := by
  intro a; unfold memByte; rw [hm, hk]

theorem memKept_of_offCores {s t : State} (h : offCores t = offCores s) : MemKept s t :=
  memKept_of_eq (mem_of_offCores h) (memKeys_of_offCores h)

/-! ### Reads of a region -/

/-- Byte `q` of a region as a read of binding `b` gives it: zero outside the region and in a frame of another owner. -/
def regionByte (s : State) (b : Nat) (fs : List Nat) (q : Nat) : Byte :=
  match regionAddr fs q with
  | none => 0
  | some a => if owner s (a / 65536) = .tenant b then memByte s a else 0

theorem regionByte_owned {s : State} {b : Nat} {fs : List Nat} {q a : Nat} (ha : regionAddr fs q = some a)
    (ho : owner s (a / 65536) = .tenant b) : regionByte s b fs q = memByte s a := by
  unfold regionByte; rw [ha]; exact if_pos ho

theorem readRegion_fst (k b : Nat) (fs : List Nat) (q n : Nat) (s : State) :
    (readRegion k b fs q n s).1 = (List.range n).map fun i => regionByte s b fs (q + i) := by
  unfold readRegion; dsimp only; split <;> rfl

theorem readRegion_own {k b : Nat} {fs : List Nat} {q n : Nat} {s : State} (h : foreignFrame s b (regionFrames fs q n) = none) :
    (readRegion k b fs q n s).2 = s := by
  unfold readRegion; dsimp only; rw [h]

theorem readRegion_foreign {k b : Nat} {fs : List Nat} {q n f : Nat} {s : State}
    (h : foreignFrame s b (regionFrames fs q n) = some f) :
    (readRegion k b fs q n s).2 = ownerStop k b f (firstBlock fs q f) false s := by
  unfold readRegion; dsimp only; rw [h]

theorem inDevice_cases {o : Nat} (h : inDevice o = true) : opSpace o = 4 ∨ opSpace o = 5 ∨ opSpace o = 6 := by
  simpa [inDevice, or_assoc] using h

/-- A read of a device-memory operand is one of its region. -/
theorem readOp_device {o : Nat} (h : inDevice o = true) (k b n : Nat) (s : State) :
    readOp k b o n s = readRegion k b (spaceFrames s b (opSpace o)) (spaceByte s b o) n s := by
  have hcases := inDevice_cases h
  unfold readOp readAt
  rw [if_neg (by omega), if_neg (by omega), if_neg (by omega), if_pos h]; rfl

theorem readOp_staging {o : Nat} (h : opSpace o = 1) (k b n : Nat) (s : State) :
    readOp k b o n s = (lookAll (fun _ => 0) (core s k).sram (opOff o) n, s) := by
  unfold readOp readAt; rw [if_pos h]; rfl

/-! ### Writes of a region -/

/-- One byte written to a region: discarded in a frame of another owner. -/
def regionPut (b : Nat) (fs : List Nat) (q : Nat) (x : Nat × Byte) (s : State) : State :=
  match regionAddr fs (q + x.1) with
  | none => s
  | some a => if owner s (a / 65536) = .tenant b then memPut a [x.2] s else s

/-- Bytes written to a region one by one. -/
def regionPuts (b : Nat) (fs : List Nat) (q : Nat) (xs : List (Nat × Byte)) (s : State) : State :=
  xs.foldl (fun s x => regionPut b fs q x s) s

/-- The state without the bytes of device memory. -/
def offMem (s : State) : State := { s with mem := [] }

theorem offMem_eq {s t : State} (h : offMem t = offMem s) : t = { s with mem := t.mem } :=
  congrArg (fun x : State => { x with mem := t.mem }) h

theorem offMem_regionPut (b : Nat) (fs : List Nat) (q : Nat) (x : Nat × Byte) (s : State) :
    offMem (regionPut b fs q x s) = offMem s := by
  unfold regionPut; split
  · rfl
  · split <;> rfl

theorem offMem_regionPuts (b : Nat) (fs : List Nat) (q : Nat) (xs : List (Nat × Byte)) (s : State) :
    offMem (regionPuts b fs q xs s) = offMem s :=
  forAll_keeps offMem (regionPut b fs q) (offMem_regionPut b fs q) xs s

theorem owner_regionPut (b : Nat) (fs : List Nat) (q : Nat) (x : Nat × Byte) (s : State) (f : Nat) :
    owner (regionPut b fs q x s) f = owner s f := by
  rw [offMem_eq (offMem_regionPut b fs q x s)]; rfl

theorem memByte_memPut_one (a : Nat) (v : Byte) (s : State) (x : Nat) :
    memByte (memPut a [v] s) x = if x = a then v else memByte s x := look_put _ _ _ _ _

/-- A byte that is not the one addressed, or that lies in a frame of another owner, is left. -/
theorem memByte_regionPut_other {b : Nat} {fs : List Nat} {q : Nat} {y : Nat × Byte} {s : State} {x : Nat}
    (h : regionAddr fs (q + y.1) ≠ some x ∨ owner s (x / 65536) ≠ .tenant b) :
    memByte (regionPut b fs q y s) x = memByte s x := by
  unfold regionPut
  split
  · rfl
  · rename_i a ha
    split
    · rename_i ho
      rw [memByte_memPut_one, if_neg]
      rintro rfl
      rcases h with h | h
      · exact h ha
      · exact h ho
    · rfl

theorem memByte_regionPut_same {b : Nat} {fs : List Nat} {q : Nat} {y : Nat × Byte} {s : State} {x : Nat}
    (ha : regionAddr fs (q + y.1) = some x) (ho : owner s (x / 65536) = .tenant b) :
    memByte (regionPut b fs q y s) x = y.2 := by
  unfold regionPut
  rw [ha]; dsimp only
  rw [if_pos ho, memByte_memPut_one, if_pos rfl]

theorem memByte_regionPuts_other {b : Nat} {fs : List Nat} {q : Nat} {x : Nat} (ys : List (Nat × Byte)) :
    ∀ s, ((∀ y ∈ ys, regionAddr fs (q + y.1) ≠ some x) ∨ owner s (x / 65536) ≠ .tenant b) →
      memByte (regionPuts b fs q ys s) x = memByte s x := by
  induction ys with
  | nil => exact fun _ _ => rfl
  | cons y ys ih =>
    intro s h
    show memByte (regionPuts b fs q ys (regionPut b fs q y s)) x = _
    rw [ih _ (by rw [owner_regionPut]; exact h.imp_left fun h z hz => h z (by simp [hz])),
      memByte_regionPut_other (h.imp_left fun h => h y (by simp))]

/-- The byte that one of the writes addresses, and no other, is the one written. -/
theorem memByte_regionPuts_in {b : Nat} {fs : List Nat} {q : Nat} {x : Nat} {y : Nat × Byte} (ha : regionAddr fs (q + y.1) = some x)
    (ys : List (Nat × Byte)) : ∀ s, y ∈ ys → (∀ z ∈ ys, regionAddr fs (q + z.1) = some x → z = y) →
      owner s (x / 65536) = .tenant b → memByte (regionPuts b fs q ys s) x = y.2 := by
  induction ys with
  | nil => intro s hy; simp at hy
  | cons w ys ih =>
    intro s hy honly ho
    show memByte (regionPuts b fs q ys (regionPut b fs q w s)) x = _
    by_cases hmem : y ∈ ys
    · exact ih _ hmem (fun z hz => honly z (by simp [hz])) (by rwa [owner_regionPut])
    · have hw : y = w := by simpa [hmem] using hy
      subst hw
      have hlater : ∀ z ∈ ys, regionAddr fs (q + z.1) ≠ some x := fun z hz hzx =>
        hmem (honly z (by simp [hz]) hzx ▸ hz)
      rw [memByte_regionPuts_other ys _ (.inl hlater), memByte_regionPut_same ha ho]

/-- Bytes of a list with their numbers. -/
def numberedBytes (bs : List Byte) : List (Nat × Byte) := (List.range bs.length).zip bs

theorem mem_numberedBytes {bs : List Byte} {y : Nat × Byte} : y ∈ numberedBytes bs ↔ bs[y.1]? = some y.2 := by
  obtain ⟨i, v⟩ := y
  unfold numberedBytes
  constructor
  · intro h
    obtain ⟨j, hj, hjy⟩ := List.getElem_of_mem h
    simp only [List.getElem_zip, List.getElem_range, Prod.mk.injEq] at hjy
    obtain ⟨rfl, hv⟩ := hjy
    rw [← hv]; exact List.getElem?_eq_getElem _
  · intro h
    obtain ⟨hi, hv⟩ := List.getElem?_eq_some_iff.mp h
    refine List.mem_iff_getElem.mpr ⟨i, by simpa using hi, ?_⟩
    simp [hv]

/-- A write to a region is its bytes written one by one, and an owner fault where they meet a frame of another owner. -/
theorem writeRegion_eq (k b : Nat) (fs : List Nat) (q : Nat) (bs : List Byte) (s : State) :
    writeRegion k b fs q bs s = match foreignFrame s b (regionFrames fs q bs.length) with
      | none => regionPuts b fs q (numberedBytes bs) s
      | some f => ownerStop k b f (firstBlock fs q f) true (regionPuts b fs q (numberedBytes bs) s) := by
  unfold writeRegion; rfl

/-- What a write to a region leaves, foreign frames or not. -/
theorem writeRegion_keeps (k b : Nat) (fs : List Nat) (q : Nat) (bs : List Byte) (s : State) :
    (writeRegion k b fs q bs s).mem = (regionPuts b fs q (numberedBytes bs) s).mem
      ∧ (writeRegion k b fs q bs s).memKeys = s.memKeys ∧ (writeRegion k b fs q bs s).srv.ctx = s.srv.ctx := by
  have hputs := offMem_eq (offMem_regionPuts b fs q (numberedBytes bs) s)
  rw [writeRegion_eq]
  split
  · refine ⟨rfl, ?_, ?_⟩ <;> rw [hputs]
  · rename_i f _
    obtain ⟨hmem, hkeys, hctx, -⟩ := ownerStop_keeps k b f (firstBlock fs q f) true (regionPuts b fs q (numberedBytes bs) s)
    refine ⟨hmem, hkeys.trans ?_, hctx.trans ?_⟩ <;> rw [hputs]

theorem memByte_writeRegion (k b : Nat) (fs : List Nat) (q : Nat) (bs : List Byte) (s : State) (x : Nat) :
    memByte (writeRegion k b fs q bs s) x = memByte (regionPuts b fs q (numberedBytes bs) s) x := by
  obtain ⟨hmem, hkeys, -⟩ := writeRegion_keeps k b fs q bs s
  have hkeys' : (regionPuts b fs q (numberedBytes bs) s).memKeys = s.memKeys := by
    rw [offMem_eq (offMem_regionPuts b fs q (numberedBytes bs) s)]
  unfold memByte; rw [hmem, hkeys, hkeys']

/-- The bytes of a region of distinct frames have distinct addresses. -/
theorem regionAddr_inj {fs : List Nat} (h : fs.Nodup) {p q x : Nat} (hp : regionAddr fs p = some x) (hq : regionAddr fs q = some x) :
    p = q := by
  unfold regionAddr at hp hq
  obtain ⟨f, hf, hfx⟩ := Option.map_eq_some_iff.mp hp
  obtain ⟨g, hg, hgx⟩ := Option.map_eq_some_iff.mp hq
  have hfg : f = g := by omega
  obtain ⟨hi, hfi⟩ := List.getElem?_eq_some_iff.mp hf
  obtain ⟨hj, hgj⟩ := List.getElem?_eq_some_iff.mp hg
  have : p / 65536 = q / 65536 := (List.Nodup.getElem_inj_iff h).mp (by rw [hfi, hgj, hfg])
  omega

/-! ### What a record leaves at an operand (R117) -/

/-- Bytes left in staging change the core's SRAM there, and of the state the cores alone. -/
theorem leaveOp_staging {o : Nat} (h : opSpace o = 1) (k b : Nat) (bs : List Byte) (s : State) :
    offCores (leaveOp k b o bs s) = offCores s
      ∧ (core (leaveOp k b o bs s) k).sram = putAll (fun _ => 0) (core s k).sram (opOff o) bs := by
  have hdev : inDevice o = false := by simp [inDevice, h]
  unfold leaveOp leaveOpAt writeAt
  simp only [hdev, if_pos h, Bool.false_eq_true, if_false]
  split
  · exact ⟨offCores_modCore _ _ _, by simp⟩
  · exact ⟨by rw [offCores_modLs, offCores_modCore], by simp [modLs]⟩

/-- In a layer step, bytes for device memory wait for the commit. -/
theorem leaveOp_held {o : Nat} (h : inDevice o = true) {k : Nat} {s : State} (hopen : (lsOf s k).opened = true) (b : Nat)
    (bs : List Byte) : leaveOp k b o bs s =
      modLs k (fun l => { l with tails := l.tails ++ [{ dest := BitVec.ofNat 32 o, peer := 0, byte := 0, data := bs }] }) s := by
  unfold leaveOp leaveOpAt
  rw [if_neg (by simp [hopen]), if_pos h]

/-- Outside one they are written. -/
theorem leaveOp_now {o : Nat} (h : inDevice o = true) {k : Nat} {s : State} (hopen : (lsOf s k).opened = false) (b : Nat)
    (bs : List Byte) : leaveOp k b o bs s = writeRegion k b (spaceFrames s b (opSpace o)) (spaceByte s b o) bs s := by
  have hcases := inDevice_cases h
  unfold leaveOp leaveOpAt writeAt
  rw [if_pos (by simp [hopen]), if_neg (by omega), if_neg (by omega), if_neg (by omega), if_pos h]; rfl

end Sys2Proof.Machine
end

section
/-! SUPPORT. GATHER, LOAD and STORE (R117, R181, R352, R545, R548). -/

open Sys2Proof Sys2Proof.Machine Sys2Proof.Spec

namespace Sys2Proof.Machine

/-! ### Regions and bytes as issue leaves them -/

@[simp] theorem spaceFrames_begun (c : Iss) (s : State) (b sp : Nat) : spaceFrames (begun c s) b sp = spaceFrames s b sp := by
  unfold spaceFrames brun; rw [begun_ten]
@[simp] theorem planOf_begun (c : Iss) (s : State) (b : Nat) : planOf (begun c s) b = planOf s b := by
  unfold planOf brun; rw [begun_ten]
@[simp] theorem spaceByte_begun (c : Iss) (s : State) (b o : Nat) : spaceByte (begun c s) b o = spaceByte s b o := by
  unfold spaceByte; rw [planOf_begun]
@[simp] theorem owner_begun (c : Iss) (s : State) (f : Nat) : owner (begun c s) f = owner s f := by
  unfold owner; rw [begun_ten]
@[simp] theorem memByte_begun (c : Iss) (s : State) (a : Nat) : memByte (begun c s) a = memByte s a := by
  unfold memByte; rw [begun_mem, begun_memKeys]
@[simp] theorem foreignFrame_begun (c : Iss) (s : State) (b : Nat) (fs : List Nat) :
    foreignFrame (begun c s) b fs = foreignFrame s b fs := by simp [foreignFrame]
@[simp] theorem regionByte_begun (c : Iss) (s : State) (b : Nat) (fs : List Nat) (q : Nat) :
    regionByte (begun c s) b fs q = regionByte s b fs q := by simp [regionByte]

/-! ### Bytes written and read back -/

theorem lookAll_putAll {α : Type} [DecidableEq α] (d : Nat → α) (m : SMap α) (k : Nat) (vs : List α) :
    lookAll d (putAll d m k vs) k vs.length = vs := by
  apply List.ext_getElem?
  intro i
  by_cases hi : i < vs.length
  · rw [look_lookAll _ _ _ _ _ hi, look_putAll_in d vs m k i hi, List.getElem?_eq_getElem hi]
  · rw [List.getElem?_eq_none (by rw [lookAll_length]; omega), List.getElem?_eq_none (by omega)]

theorem leBytes_length (n x : Nat) : (leBytes n x).length = n := by
  induction n generalizing x with
  | zero => rfl
  | succ n ih => simp [leBytes, ih]

theorem wordsBytes_length (ws : List W32) : (wordsBytes ws).length = 4 * ws.length := by
  induction ws with
  | nil => rfl
  | cons w ws ih =>
    simp only [wordsBytes, List.flatMap_cons, List.length_append, leBytes_length, List.length_cons] at ih ⊢
    omega

/-- A finite element is converted exactly (R548). -/
theorem fp8Word_finite {f : Fmt} {x : Byte} (h : finiteF f x.toNat = true) : fp8Word f x = b2f f x := if_pos h

/-! ### LOAD -/

theorem exec_load {c : Iss} {k : Fin 2016} {r : RecRead} {s : State} (hreads : Reads c k r s) (hissued : Issued 0x71 c r s) :
    exec (.load k r) s = .next (copyBytes c (begun c s)) :=
  congrArg Host.Outcome.next (issue_issued hreads hissued copyBytes)

/-- What a copy from device memory to staging leaves: the bytes read, whatever the read did besides. -/
theorem copyBytes_load {c : Iss} (hdev : inDevice (rOpA c.x) = true) (hstage : opSpace (rOpB c.x) = 1) (s : State) :
    offCores (copyBytes c s) = offCores (readOp c.k c.b (rOpA c.x) (rLen c.x) s).2
      ∧ ∀ i < rLen c.x, look (fun _ => 0) (core (copyBytes c s) c.k).sram (opOff (rOpB c.x) + i)
          = regionByte s c.b (opFrames c s (rOpA c.x)) (spaceByte s c.b (rOpA c.x) + i) := by
  obtain ⟨hcores, hsram⟩ := leaveOp_staging hstage c.k c.b (readOp c.k c.b (rOpA c.x) (rLen c.x) s).1
    (readOp c.k c.b (rOpA c.x) (rLen c.x) s).2
  refine ⟨hcores, fun i hi => ?_⟩
  show look _ (core (leaveOp _ _ _ _ _) c.k).sram _ = _
  rw [hsram, look_putAll_in _ _ _ _ i (by rw [readOp_device hdev, readRegion_fst]; simpa using hi)]
  simp only [readOp_device hdev, readRegion_fst, List.getElem_map, List.getElem_range]
  rfl

theorem loaded_of_issued {c : Iss} {k : Fin 2016} {r : RecRead} {s : State} (hreads : Reads c k r s) (hissued : Issued 0x71 c r s) :
    Loaded c k r s := by
  have hk : c.k = k.val := hreads.1
  intro hdev hstage
  obtain ⟨hcores, hbytes⟩ := copyBytes_load hdev hstage (begun c s)
  simp only [opFrames, spaceFrames_begun, spaceByte_begun, regionByte_begun, hk] at hbytes
  rw [readOp_device hdev, spaceFrames_begun, spaceByte_begun] at hcores
  constructor
  · intro hown
    rw [readRegion_own (by rw [foreignFrame_begun]; exact hown), offCores_begun] at hcores
    refine ⟨_, exec_load hreads hissued, memKept_of_offCores hcores,
      srv_of_offCores hcores, err_of_offCores hcores, fun i hi a ha ho => ?_⟩
    exact (hbytes i hi).trans (regionByte_owned ha ho)
  · intro f hforeign
    rw [readRegion_foreign (by rw [foreignFrame_begun]; exact hforeign)] at hcores
    obtain ⟨hmem, hkeys, -, hcount⟩ := ownerStop_keeps c.k c.b f
      (firstBlock (spaceFrames s c.b (opSpace (rOpA c.x))) (spaceByte s c.b (rOpA c.x)) f) false (begun c s)
    have hexec := exec_load hreads hissued
    refine ⟨_, hexec, ?_, ?_, ?_⟩
    · apply memKept_of_eq
      · rw [mem_of_offCores hcores, hmem, begun_mem]
      · rw [memKeys_of_offCores hcores, hkeys, begun_memKeys]
    · rw [brun_of_offCores hcores]; exact ownerStop_dead ..
    · rw [ten_of_offCores hcores, hcount, begun_ten]

/-! ### STORE -/

theorem exec_store {c : Iss} {k : Fin 2016} {r : RecRead} {s : State} (hreads : Reads c k r s) (hissued : Issued 0x72 c r s) :
    exec (.store k r) s = .next (copyBytes c (begun c s)) :=
  congrArg Host.Outcome.next (issue_issued hreads hissued copyBytes)

/-- The bytes of a core's SRAM that a STORE from staging carries. -/
def storedBytes (c : Iss) (s : State) : List Byte := lookAll (fun _ => 0) (core s c.k).sram (opOff (rOpA c.x)) (rLen c.x)

/-- Byte `i` of them, numbered. -/
theorem mem_numbered_stored {c : Iss} {s : State} {y : Nat × Byte} : y ∈ numberedBytes (storedBytes c s) ↔
    y.1 < rLen c.x ∧ y.2 = look (fun _ => 0) (core s c.k).sram (opOff (rOpA c.x) + y.1) := by
  rw [mem_numberedBytes]; unfold storedBytes
  by_cases hi : y.1 < rLen c.x
  · rw [look_lookAll _ _ _ _ _ hi]; simp [hi, eq_comm]
  · rw [List.getElem?_eq_none (by rw [lookAll_length]; omega)]; simp [hi]

theorem copyBytes_store {c : Iss} (hstage : opSpace (rOpA c.x) = 1) (s : State) :
    copyBytes c (begun c s) = leaveOp c.k c.b (rOpB c.x) (storedBytes c s) (begun c s) := by
  unfold copyBytes storedBytes; rw [readOp_staging hstage, begun_core_sram]

theorem stored_of_issued {c : Iss} {k : Fin 2016} {r : RecRead} {s : State} (hreads : Reads c k r s) (hissued : Issued 0x72 c r s) :
    Stored c k r s := by
  have hk : c.k = k.val := hreads.1
  intro hstage hdev
  have hexec := exec_store hreads hissued
  rw [copyBytes_store hstage] at hexec
  rw [← hk]
  constructor
  · intro hopen
    rw [leaveOp_held hdev (by rwa [begun_ls_opened])] at hexec
    refine ⟨_, { dest := BitVec.ofNat 32 (rOpB c.x), peer := 0, byte := 0, data := storedBytes c s }, hexec,
      memKept_of_offCores ((offCores_modLs _ _ _).trans (offCores_begun c s)), ?_, rfl, rfl, rfl⟩
    simp [lsOf, modLs]
  · intro hclosed
    rw [leaveOp_now hdev (by rwa [begun_ls_opened]), spaceFrames_begun, spaceByte_begun] at hexec
    refine ⟨_, hexec, ?_, fun x hx => ?_, fun x ho => ?_, fun hnodup i hi x hx ho => ?_⟩
    · rw [(writeRegion_keeps ..).2.2, begun_srv]
    · rw [memByte_writeRegion, ← memByte_begun c s x]
      exact memByte_regionPuts_other _ _ (.inl fun y hy => hx y.1 (mem_numbered_stored.mp hy).1)
    · rw [memByte_writeRegion, ← memByte_begun c s x]
      exact memByte_regionPuts_other _ _ (.inr (by rwa [owner_begun]))
    · rw [memByte_writeRegion]
      refine memByte_regionPuts_in (y := (i, look (fun _ => 0) (core s c.k).sram (opOff (rOpA c.x) + i))) hx _ _
        (mem_numbered_stored.mpr ⟨hi, rfl⟩) (fun z hz hzx => ?_) (by rwa [owner_begun])
      have hzi : z.1 = i := Nat.add_left_cancel (regionAddr_inj hnodup hzx hx)
      exact Prod.ext hzi (by rw [(mem_numbered_stored.mp hz).2, hzi])

/-! ### GATHER -/

theorem exec_gather {c : Iss} {k : Fin 2016} {r : RecRead} {s : State} (hreads : Reads c k r s) (hissued : Issued 0x70 c r s) :
    exec (.gather k r) s = .next (gather c (begun c s)) :=
  congrArg Host.Outcome.next (issue_issued hreads hissued gather)

/-- The bytes that a read of a device-memory operand gives are the same once the record has issued. -/
theorem readOp_fst_begun {o : Nat} (h : inDevice o = true) (c : Iss) (k b n : Nat) (s : State) :
    (readOp k b o n (begun c s)).1 = (readOp k b o n s).1 := by
  simp [readOp_device h, readRegion_fst]

theorem gathered_of_issued {c : Iss} {k : Fin 2016} {r : RecRead} {s : State} (hreads : Reads c k r s) (hissued : Issued 0x70 c r s) :
    Gathered c k r s := by
  have hk : c.k = k.val := hreads.1
  intro f bs hspace hstage hown hf hbs hfinite
  have hdev : inDevice (rOpA c.x) = true := by simp [inDevice, hspace]
  have hlen : bs.length = rLen c.x := by rw [hbs, readOp_device hdev, readRegion_fst]; simp
  have hread : readOp c.k c.b (rOpA c.x) (rLen c.x) (begun c s) = (bs, begun c s) := by
    refine Prod.ext ?_ ?_
    · rw [readOp_fst_begun hdev, hk]; exact hbs.symm
    · rw [readOp_device hdev, spaceFrames_begun, spaceByte_begun]
      exact readRegion_own (by rw [foreignFrame_begun]; exact hown)
  have hwords : bs.map (fp8Word f) = bs.map (b2f f) := List.map_congr_left fun x hx => fp8Word_finite (hfinite x hx)
  have hgather : gather c (begun c s) = leaveOp c.k c.b (rOpB c.x) (wordsBytes (bs.map (b2f f))) (begun c s) := by
    unfold gather Iss.plan; dsimp only
    rw [hread, planOf_begun, ← hwords, hf]; rfl
  obtain ⟨hcores, hsram⟩ := leaveOp_staging hstage c.k c.b (wordsBytes (bs.map (b2f f))) (begun c s)
  rw [← hgather] at hcores hsram
  rw [offCores_begun] at hcores
  refine ⟨_, exec_gather hreads hissued, memKept_of_offCores hcores,
    srv_of_offCores hcores, err_of_offCores hcores, ?_⟩
  rw [← hk, hsram, ← hlen, ← List.length_map (f := b2f f), ← wordsBytes_length, lookAll_putAll]

end Sys2Proof.Machine

/-- Settles O56: each copy is its read and its write in the state `begun`. -/
theorem copiesLeaveBytes : Obligations.CopiesLeaveBytes := by
  unfold Obligations.CopiesLeaveBytes
  exact fun k r c s hreads => ⟨loaded_of_issued hreads, stored_of_issued hreads, gathered_of_issued hreads⟩
end

section
/-! SUPPORT. What a ring does with the entries read (R372 to R374, R379), what a completion entry changes (R386), and what the reads of
the ladle change (R364). -/

open Sys2Proof Sys2Proof.Machine Sys2Proof.Spec

namespace Sys2Proof.Machine

/-! ### The ladle's reads (R364) -/

/-- The state without the ladle's reads. -/
def offReads (s : State) : State := { s with host := { s.host with reads := [], readQ := [], nextRead := 0 } }

/-- The state without the rings and the ladle's reads. -/
def offRings (s : State) : State := { s with host := { s.host with rings := [], reads := [], readQ := [], nextRead := 0 } }

/-- The state without the host block. -/
def offHost (s : State) : State := { s with host := {} }

/-- The state without the host block and the output. -/
def offHostOut (s : State) : State := { s with host := {}, out := [] }

theorem hostReadsOnly_of_offRings {s t : State} (h : offRings t = offRings s) : hostReadsOnly s t :=
  (congrArg (fun x : State => { x with host := { x.host with
    rings := t.host.rings, reads := t.host.reads, readQ := t.host.readQ, nextRead := t.host.nextRead } }) h :)

theorem ring_of_offReads {s t : State} (h : offReads t = offReads s) (j : Nat) : ring t j = ring s j := by
  have hrings : t.host.rings = s.host.rings := (congrArg (fun x : State => x.host.rings) h :)
  unfold ring; rw [hrings]

theorem offRings_of_offReads {s t : State} (h : offReads t = offReads s) : offRings t = offRings s :=
  (congrArg offRings h :)

theorem offHost_of_offRings {s t : State} (h : offRings t = offRings s) : offHost t = offHost s := (congrArg offHost h :)
theorem offHostOut_of_offRings {s t : State} (h : offRings t = offRings s) : offHostOut t = offHostOut s :=
  (congrArg offHostOut h :)
theorem out_of_offRings {s t : State} (h : offRings t = offRings s) : t.out = s.out := (congrArg State.out h :)
theorem quiesce_of_offRings {s t : State} (h : offRings t = offRings s) : t.host.quiesce = s.host.quiesce :=
  (congrArg (fun x : State => x.host.quiesce) h :)
theorem ideHold_of_offRings {s t : State} (h : offRings t = offRings s) : t.host.ideHold = s.host.ideHold :=
  (congrArg (fun x : State => x.host.ideHold) h :)
theorem packetNo_of_offRings {s t : State} (h : offRings t = offRings s) : t.host.packetNo = s.host.packetNo :=
  (congrArg (fun x : State => x.host.packetNo) h :)
theorem eq_of_offHost {s t : State} (h : offHost t = offHost s) : t = { s with host := t.host } :=
  (congrArg (fun x : State => { x with host := t.host }) h :)
theorem eq_of_offHostOut {s t : State} (h : offHostOut t = offHostOut s) : t = { s with host := t.host, out := t.out } :=
  (congrArg (fun x : State => { x with host := t.host, out := t.out }) h :)

theorem offReads_startRead (w : ReadFor) (s : State) : offReads (startRead w s) = offReads s := by
  unfold startRead; dsimp only; split <;> rfl

theorem offReads_startReads (s : State) : offReads (startReads s) = offReads s := by
  unfold startReads; rw [forAll_keeps offReads startRead offReads_startRead]; rfl

theorem offReads_dropReads (p : ReadFor → Bool) (s : State) : offReads (dropReads p s) = offReads s := by
  unfold dropReads; rw [offReads_startReads]; rfl

theorem offReads_fetchOn (r : Nat) (s : State) : offReads (fetchOn r s) = offReads s := by
  unfold fetchOn; split
  · exact offReads_startRead _ _
  · rfl

theorem offHost_setRing (s : State) (r : Nat) (g : Ring) : offHost (setRing s r g) = offHost s := rfl
theorem offRings_setRing (s : State) (r : Nat) (g : Ring) : offRings (setRing s r g) = offRings s := rfl
theorem offRings_modRing (r : Nat) (f : Ring → Ring) (s : State) : offRings (modRing r f s) = offRings s := rfl

/-! ### Completion entries (R386, R391, R392) -/

/-- The ring without its entries not yet signalled. -/
def offSignals (g : Ring) : Ring := { g with unsignalled := 0 }

theorem ring_eq_of_offSignals {g h : Ring} (e : offSignals h = offSignals g) : h = { g with unsignalled := h.unsignalled } :=
  (congrArg (fun x : Ring => { x with unsignalled := h.unsignalled }) e :)

theorem offSignals_restartVector (v j : Nat) (s : State) : offSignals (ring (restartVector v s) j) = offSignals (ring s j) := by
  unfold restartVector
  refine forAll_keeps (fun s => offSignals (ring s j)) _ (fun r s => ?_) _ _
  split
  · rw [ring_modRing]; split
    · rename_i hj; rw [hj]; rfl
    · rfl
  · rfl

theorem ring_msix (v j : Nat) (s : State) : ring (msix v s) j = ring s j := by unfold msix; split <;> rfl

theorem offSignals_signalRing (r j : Nat) (s : State) : offSignals (ring (signalRing r s) j) = offSignals (ring s j) := by
  unfold signalRing; dsimp only; split
  · rw [offSignals_restartVector, ring_msix]
  · rfl

/-- A signal sends at most an interrupt. -/
theorem signalRing_out (r : Nat) (s : State) : ∃ more, (signalRing r s).out = s.out ++ more := by
  unfold signalRing; dsimp only; split
  · rw [restartVector_out]; unfold msix; split
    · exact ⟨[], by simp⟩
    · exact ⟨[.msix (ring s r).vector.toNat], rfl⟩
  · exact ⟨[], by simp⟩

theorem offHostOut_msix (v : Nat) (s : State) : offHostOut (msix v s) = offHostOut s := by unfold msix; split <;> rfl

theorem offHostOut_signalRing (r : Nat) (s : State) : offHostOut (signalRing r s) = offHostOut s := by
  unfold signalRing restartVector; dsimp only; split
  · rw [forAll_keeps offHostOut, offHostOut_msix]
    intro j t; split <;> rfl
  · rfl

/-- A ring with one more completion entry at its CQ_TAIL. -/
def withEntry (g : Ring) : Ring :=
  let next := (g.cqTail.toNat + 1) % 2 ^ g.cqLog2.toNat
  { g with cqTail := BitVec.ofNat 16 next, phase := if next = 0 then !g.phase else g.phase, unsignalled := g.unsignalled + 1 }

theorem putCompl_eq (r : Nat) (c : Compl) (s : State) :
    putCompl r c s = signalRing r (setRing (emit (complOut r (ring s r) c) s) r (withEntry (ring s r))) := rfl

/-- A completion entry written at CQ_TAIL. -/
theorem putCompl_spec (r : Nat) (c : Compl) (s : State) : offHostOut (putCompl r c s) = offHostOut s
    ∧ (∃ tail phase n, ring (putCompl r c s) r = { ring s r with cqTail := tail, phase := phase, unsignalled := n })
    ∧ ∃ more, (putCompl r c s).out = s.out ++ complOut r (ring s r) c :: more := by
  rw [putCompl_eq]
  refine ⟨?_, ?_, ?_⟩
  · rw [offHostOut_signalRing]; rfl
  · have h := ring_eq_of_offSignals (offSignals_signalRing r r
      (setRing (emit (complOut r (ring s r) c) s) r (withEntry (ring s r))))
    rw [ring_setRing_same] at h
    exact ⟨_, _, _, h⟩
  · obtain ⟨more, hmore⟩ := signalRing_out r (setRing (emit (complOut r (ring s r) c) s) r (withEntry (ring s r)))
    refine ⟨more, hmore.trans ?_⟩
    rw [setRing_out]; simp [emit]

/-- A final completion entry due on a ring that takes entries is written at once. -/
theorem complete_final {r : Nat} {c : Compl} {s : State} (hide : s.host.ideHold = false) (hen : (ring s r).cqEnable = true)
    (hkind : c.kind = 0) : complete r c s = putCompl r c s := by
  unfold complete completeWith releaseResv putDue
  simp [hide, hen, hkind]

/-- A packet refused with room for its completion entry (R373). -/
theorem refusePacket_spec {r : Nat} (tag : W32) {g : Ring} {s : State} (hroom : (ring s r).reserved < cqFree (ring s r))
    (hide : s.host.ideHold = false) (hen : g.cqEnable = true) :
    offHostOut (refusePacket r tag g s) = offHostOut s
    ∧ (∃ tail phase n, ring (refusePacket r tag g s) r =
        { g with badPacket := true, cqTail := tail, phase := phase, unsignalled := n })
    ∧ ∃ more, (refusePacket r tag g s).out = s.out ++ complOut r g (compl tag 6) :: more := by
  have heq : refusePacket r tag g s = putCompl r (compl tag 6) (setRing s r { g with badPacket := true }) := by
    unfold refusePacket
    rw [if_neg (by omega)]
    exact complete_final hide (by simp [hen]) rfl
  obtain ⟨hoff, hring, hout⟩ := putCompl_spec r (compl tag 6) (setRing s r { g with badPacket := true })
  rw [ring_setRing_same] at hring hout
  rw [heq]
  exact ⟨hoff, hring, hout⟩

/-! ### A ring with nothing to do -/

/-- The ring holds no entries read, and neither a flush nor a FLUSH command can act before one is. -/
structure Idle (g : Ring) : Prop where
  buf       : g.buf = []
  pendFlush : g.pendFlush = []
  flush     : g.flush = true → g.readFirst = true
  readFirst : g.readFirst = true → sqAvail g ≠ 0

theorem takePacket_empty {r : Fin 256} {s : State} (h : (ring s r.val).buf = []) : takePacket r s = s := by
  unfold takePacket; simp [h]

theorem flushPacket_empty {r : Nat} {s : State} (h : (ring s r).buf = []) : flushPacket r s = s := by
  unfold flushPacket; simp only [h]

theorem pumpOnce_idle {r : Fin 256} {s : State} (h : Idle (ring s r.val)) : pumpOnce r s = s := by
  obtain ⟨hbuf, -, hflush, hfirst⟩ := h
  have hlen : packetLen (ring s r.val).buf = 1 := by rw [hbuf]; rfl
  unfold pumpOnce; dsimp only
  rw [if_neg (by rintro ⟨ha, hb⟩; simp [hflush ha] at hb), flushPacket_empty hbuf, takePacket_empty hbuf, hlen]
  split
  · exact ite_self _
  · rw [if_neg fun h : _ ∧ _ => hfirst h.1 (by omega)]; exact ite_self _

theorem pump_idle {r : Fin 256} {s : State} (h : Idle (ring s r.val)) (n : Nat) : pump r n s = s := by
  cases n with
  | zero => rfl
  | succ n => simp [pump, pumpOnce_idle h]

/-- A ring that is idle after one turn takes one turn. -/
theorem pump_succ_idle {r : Fin 256} {s : State} (h : Idle (ring (pumpOnce r s) r.val)) (n : Nat) :
    pump r (n + 1) s = pumpOnce r s := by
  rw [pump]; split
  · rfl
  · exact pump_idle h n

theorem flushBoundary_idle {r : Nat} {s : State} (h : (ring s r).pendFlush = []) :
    (∀ j, ring (flushBoundary r s) j = ring s j) ∧ offRings (flushBoundary r s) = offRings s := by
  unfold flushBoundary; split
  · exact ⟨fun _ => rfl, rfl⟩
  · rw [h]
    refine ⟨fun j => ?_, rfl⟩
    show ring (modRing r (fun g => { g with pendFlush := [] }) s) j = ring s j
    rw [ring_modRing]; split
    · rename_i hj; rw [hj, ← h]
    · rfl

/-- The ring goes on for one turn where it is idle then, and the ladle may read on. -/
theorem ringOn_idle {r : Fin 256} {s : State} (h : Idle (ring (pumpOnce r s) r.val)) :
    (∀ j, ring (ringOn r s) j = ring (pumpOnce r s) j) ∧ offRings (ringOn r s) = offRings (pumpOnce r s) := by
  obtain ⟨hrings, hoff⟩ := flushBoundary_idle h.pendFlush
  unfold ringOn
  rw [pump_succ_idle h]
  exact ⟨fun j => (ring_of_offReads (offReads_fetchOn _ _) j).trans (hrings j),
    (offRings_of_offReads (offReads_fetchOn _ _)).trans hoff⟩

/-- With a flush that no packet being read keeps waiting, the ring starts to flush (R379). -/
theorem pumpOnce_flushes {r : Fin 256} {s : State} (hflush : (ring s r.val).flush = true)
    (hfirst : (ring s r.val).readFirst = false) : pumpOnce r s = setRing s r.val (flushNow (ring s r.val)) := by
  unfold pumpOnce; exact if_pos ⟨hflush, by simp [hfirst]⟩

/-! ### A packet read whole -/

/-- With no flush about, an enabled ring takes the packet at its head. -/
theorem pumpOnce_takes {r : Fin 256} {s : State} (hflush : (ring s r.val).flush = false) (hleft : (ring s r.val).flushLeft = 0)
    (hfirst : (ring s r.val).readFirst = false) (hen : (ring s r.val).sqEnable = true) (hq : s.host.quiesce = false) :
    pumpOnce r s = takePacket r s := by
  unfold pumpOnce; simp [hflush, hleft, hfirst, hen, hq]

theorem packetLen_pos (es : List (BitVec 512)) : 0 < packetLen es := by
  unfold packetLen; split
  · decide
  · split <;> omega

/-- A packet of these entries, read whole at the ring's head. -/
structure ReadWhole (g : Ring) : Prop where
  whole  : g.buf.length = packetLen g.buf
  before : g.buf.length ≤ sqAvail g

theorem takePacket_malformed {r : Fin 256} {s : State} (h : ReadWhole (ring s r.val)) (hbad : packetOk (ring s r.val).buf = false) :
    takePacket r s = refusePacket r.val (entryHead ((ring s r.val).buf.headD 0)).tag
      (pastPacket (ring s r.val) (ring s r.val).buf.length) s := by
  obtain ⟨hwhole, hbefore⟩ := h
  unfold takePacket; dsimp only
  rw [← hwhole, List.take_length]
  generalize hes : (ring s r.val).buf = es at *
  cases es with
  | nil => exact absurd (packetLen_pos []) (by rw [← hwhole]; simp)
  | cons e t =>
    dsimp only
    rw [if_neg (by simp only [List.length_cons] at *; omega), if_pos (by simp [hbad])]; rfl

/-- The packet that the entries at a ring's head give, as it joins the internal queue. -/
def joined (r : Fin 256) (s : State) : Packet :=
  let g := ring s r.val
  let h := entryHead (g.buf.headD 0)
  { opcode := BitVec.ofNat 8 h.opcode, cmd := packetCmd r g.buf, first := g.sqHead,
    past := (pastPacket g g.buf.length).sqHead, resv := packetResv h.opcode (packetCmd r g.buf).payload,
    no := s.host.packetNo, seq := g.qTail }

theorem takePacket_accepts {r : Fin 256} {s : State} (h : ReadWhole (ring s r.val)) (hok : packetOk (ring s r.val).buf = true)
    (hroom : (ring s r.val).reserved + (joined r s).resv ≤ cqFree (ring s r.val)) (hqueue : (ring s r.val).queue.length < 4096)
    (hptr : pointersOk (ring s r.val) = true) :
    takePacket r s = setRing { s with host := { s.host with packetNo := s.host.packetNo + 1 } } r.val
      { movePointers (ring s r.val).qHead ((ring s r.val).qTail + 1) (pastPacket (ring s r.val) (ring s r.val).buf.length) with
        accepted := (ring s r.val).accepted + 1, outstanding := (ring s r.val).outstanding + 1,
        reserved := (ring s r.val).reserved + (joined r s).resv, queue := (ring s r.val).queue ++ [joined r s] } := by
  obtain ⟨hwhole, hbefore⟩ := h
  have hcheck : checkQueue r.val s = s := if_pos hptr
  unfold joined at *
  unfold takePacket; dsimp only at *
  rw [← hwhole, List.take_length, hcheck]
  generalize hes : (ring s r.val).buf = es at *
  cases es with
  | nil => exact absurd (packetLen_pos []) (by rw [← hwhole]; simp)
  | cons e t =>
    dsimp only [List.headD_cons] at *
    rw [if_neg (by simp only [List.length_cons] at *; omega), if_neg (by simp [hok]), if_neg (by omega)]

end Sys2Proof.Machine
end

section
/-! SUPPORT. PACKET_FETCH on one packet, a write of FLUSH, and a command row with a reserved payload bit (R18, R371 to R374, R379). -/

open Sys2Proof Sys2Proof.Machine Sys2Proof.Spec

namespace Sys2Proof.Machine

/-! ### PACKET_FETCH -/

/-- The state in which the ring goes on with the entries of a read. -/
def entriesFetched (r : Fin 256) (new : List (BitVec 512)) (s : State) : State :=
  modRing r.val (fun g => { g with buf := g.buf ++ new.take (sqAvail g - g.buf.length) }) (dropReads (· == .entries r.val) s)

theorem exec_packetFetch {r : Fin 256} {s : State} (new : List (BitVec 512)) (hphase : below7 s = false)
    (hq : s.host.quiesce = false) (hide : s.host.ideHold = false) (hread : (reading r.val s || mayRead r.val s) = true) :
    exec (.packetFetch r new) s = .next (ringOn r (entriesFetched r new s)) := by
  show execPacketFetch r new s = _
  unfold execPacketFetch
  simp only [hread, hide, hphase, hq, Bool.not_true, Bool.false_eq_true, or_self, if_false]; rfl

theorem offRings_entriesFetched (r : Fin 256) (new : List (BitVec 512)) (s : State) : offRings (entriesFetched r new s) = offRings s :=
  (offRings_modRing _ _ _).trans (offRings_of_offReads (offReads_dropReads _ s))

theorem ring_entriesFetched_other {r : Fin 256} {j : Nat} (h : j ≠ r.val) (new : List (BitVec 512)) (s : State) :
    ring (entriesFetched r new s) j = ring s j := by
  unfold entriesFetched; rw [ring_modRing, if_neg h, ring_of_offReads (offReads_dropReads _ s)]

/-- Entries that lie before SQ_TAIL are all taken. -/
theorem ring_entriesFetched {r : Fin 256} {new es : List (BitVec 512)} {s : State} (hes : es = (ring s r.val).buf ++ new)
    (h : es.length ≤ sqAvail (ring s r.val)) : ring (entriesFetched r new s) r.val = { ring s r.val with buf := es } := by
  have hnew : new.length ≤ sqAvail (ring s r.val) - (ring s r.val).buf.length := by
    rw [hes, List.length_append] at h; omega
  unfold entriesFetched
  rw [ring_modRing_same, ring_of_offReads (offReads_dropReads _ s), List.take_of_length_le hnew, ← hes]

/-- A ring that reads on with no flush about. -/
structure Fetching (r : Nat) (s : State) : Prop where
  phase     : below7 s = false
  quiesce   : s.host.quiesce = false
  ideHold   : s.host.ideHold = false
  sqEnable  : (ring s r).sqEnable = true
  flush     : (ring s r).flush = false
  readFirst : (ring s r).readFirst = false
  flushLeft : (ring s r).flushLeft = 0
  pendFlush : (ring s r).pendFlush = []
  reads     : (reading r s || mayRead r s) = true

/-- A read that completes the packet at SQ_HEAD has the ring take it. -/
theorem pumpOnce_entriesFetched {r : Fin 256} {new es : List (BitVec 512)} {s : State} (h : Fetching r.val s)
    (hes : es = (ring s r.val).buf ++ new) (hbefore : es.length ≤ sqAvail (ring s r.val)) :
    pumpOnce r (entriesFetched r new s) = takePacket r (entriesFetched r new s) := by
  have hring := ring_entriesFetched hes hbefore
  apply pumpOnce_takes
  · rw [hring]; exact h.flush
  · rw [hring]; exact h.flushLeft
  · rw [hring]; exact h.readFirst
  · rw [hring]; exact h.sqEnable
  · rw [quiesce_of_offRings (offRings_entriesFetched r new s)]; exact h.quiesce

theorem readWhole_entriesFetched {r : Fin 256} {new es : List (BitVec 512)} {s : State} (hes : es = (ring s r.val).buf ++ new)
    (hwhole : es.length = packetLen es) (hbefore : es.length ≤ sqAvail (ring s r.val)) :
    ReadWhole (ring (entriesFetched r new s) r.val) := by
  rw [ring_entriesFetched hes hbefore]; exact ⟨hwhole, hbefore⟩

/-- What a packet joins the internal queue with. -/
theorem joined_entriesFetched {r : Fin 256} {new es : List (BitVec 512)} {s : State} (hes : es = (ring s r.val).buf ++ new)
    (hbefore : es.length ≤ sqAvail (ring s r.val)) : ∀ p, p = joined r (entriesFetched r new s) →
    p.cmd = packetCmd r es ∧ p.opcode.toNat = (entryHead (es.headD 0)).opcode ∧ p.first = (ring s r.val).sqHead
      ∧ p.resv = packetResv p.opcode.toNat p.cmd.payload ∧ p.seq = (ring s r.val).qTail ∧ p.no = s.host.packetNo := by
  rintro p rfl
  have hcode : (BitVec.ofNat 8 (entryHead (es.headD 0)).opcode).toNat = (entryHead (es.headD 0)).opcode := by
    rw [BitVec.toNat_ofNat]; exact Nat.mod_eq_of_lt (Nat.mod_lt _ (by decide))
  unfold joined
  rw [ring_entriesFetched hes hbefore]
  exact ⟨rfl, hcode, rfl, by dsimp only; rw [hcode], rfl, packetNo_of_offRings (offRings_entriesFetched r new s)⟩

/-- The ring `g` once it has accepted the packet `p` of `n` entries (R374). -/
def accepting (g : Ring) (p : Packet) (n : Nat) : Ring :=
  { g with
    sqHead := BitVec.ofNat 16 ((g.sqHead.toNat + n) % 2 ^ g.sqLog2.toNat), accepted := g.accepted + 1,
    outstanding := g.outstanding + 1, reserved := g.reserved + p.resv, queue := g.queue ++ [p],
    qTail := g.qTail + 1, qTailInv := ~~~(g.qTail + 1), buf := [], last := false }

/-- A read that completes a well-formed packet with room has the ring accept it. -/
theorem pumpOnce_accepts {r : Fin 256} {new es : List (BitVec 512)} {s : State} (h : Fetching r.val s)
    (hes : es = (ring s r.val).buf ++ new) (hwhole : es.length = packetLen es) (hbefore : es.length ≤ sqAvail (ring s r.val))
    (hok : packetOk es = true)
    (hroom : (ring s r.val).reserved + packetResv (entryHead (es.headD 0)).opcode (packetPayload es) ≤ cqFree (ring s r.val))
    (hqueue : (ring s r.val).queue.length < 4096) (hptr : pointersOk (ring s r.val) = true) :
    pumpOnce r (entriesFetched r new s) = setRing
      { entriesFetched r new s with host := { (entriesFetched r new s).host with
          packetNo := (entriesFetched r new s).host.packetNo + 1 } } r.val
      (accepting (ring s r.val) (joined r (entriesFetched r new s)) es.length) := by
  have hring := ring_entriesFetched hes hbefore
  have hresv : (joined r (entriesFetched r new s)).resv = packetResv (entryHead (es.headD 0)).opcode (packetPayload es) := by
    unfold joined; rw [hring]; rfl
  have hinv : ~~~(ring s r.val).qHead = (ring s r.val).qHeadInv := by
    simp only [pointersOk, Bool.and_eq_true, beq_iff_eq] at hptr; exact hptr.1.symm
  rw [pumpOnce_entriesFetched h hes hbefore, takePacket_accepts (readWhole_entriesFetched hes hwhole hbefore)
    (by rw [hring]; exact hok) (by rw [hresv, hring]; exact hroom) (by rw [hring]; exact hqueue) (by rw [hring]; exact hptr), hring]
  simp only [accepting, movePointers, pastPacket, headOn, sqSize, hinv, List.drop_length, h.readFirst]

/-- A well-formed packet with room is accepted (R374). -/
theorem packetFetch_accepts {r : Fin 256} {new es : List (BitVec 512)} {s : State} (h : Fetching r.val s)
    (hes : es = (ring s r.val).buf ++ new) (hwhole : es.length = packetLen es) (hbefore : es.length ≤ sqAvail (ring s r.val))
    (hok : packetOk es = true)
    (hroom : (ring s r.val).reserved + packetResv (entryHead (es.headD 0)).opcode (packetPayload es) ≤ cqFree (ring s r.val))
    (hqueue : (ring s r.val).queue.length < 4096) (hptr : pointersOk (ring s r.val) = true) :
    ∃ t p, exec (.packetFetch r new) s = .next t
      ∧ p.cmd = packetCmd r es ∧ p.opcode.toNat = (entryHead (es.headD 0)).opcode ∧ p.first = (ring s r.val).sqHead
      ∧ p.resv = packetResv p.opcode.toNat p.cmd.payload ∧ p.seq = (ring s r.val).qTail ∧ p.no = s.host.packetNo
      ∧ ring t r.val = accepting (ring s r.val) p es.length
      ∧ (∀ j, j ≠ r.val → ring t j = ring s j) ∧ t = { s with host := t.host } := by
  obtain ⟨hcmd, hcode, hfirst, hresv, hseq, hno⟩ := joined_entriesFetched hes hbefore _ rfl
  have hturn := pumpOnce_accepts h hes hwhole hbefore hok hroom hqueue hptr
  have hafter : ring (pumpOnce r (entriesFetched r new s)) r.val
      = accepting (ring s r.val) (joined r (entriesFetched r new s)) es.length := by rw [hturn, ring_setRing_same]
  have hhost : offHost (pumpOnce r (entriesFetched r new s)) = offHost (entriesFetched r new s) := by
    rw [hturn, offHost_setRing]; rfl
  obtain ⟨hrings, hoff⟩ := ringOn_idle (r := r) (s := entriesFetched r new s) (by
    rw [hafter]
    exact ⟨rfl, h.pendFlush, fun hf => absurd hf (by simp [accepting, h.flush]),
      fun hf => absurd hf (by simp [accepting, h.readFirst])⟩)
  refine ⟨_, _, exec_packetFetch new h.phase h.quiesce h.ideHold h.reads, hcmd, hcode, hfirst, hresv, hseq, hno,
    (hrings r.val).trans hafter, fun j hj => ?_, ?_⟩
  · rw [hrings, hturn, ring_setRing, if_neg hj]; exact ring_entriesFetched_other hj new s
  · exact eq_of_offHost ((offHost_of_offRings hoff).trans (hhost.trans (offHost_of_offRings (offRings_entriesFetched r new s))))

/-- A malformed packet with room is refused (R373). -/
theorem packetFetch_refuses {r : Fin 256} {new es : List (BitVec 512)} {s : State} (h : Fetching r.val s)
    (hes : es = (ring s r.val).buf ++ new) (hwhole : es.length = packetLen es) (hbefore : es.length ≤ sqAvail (ring s r.val))
    (hbad : packetOk es = false) (hroom : (ring s r.val).reserved < cqFree (ring s r.val)) (hcq : (ring s r.val).cqEnable = true) :
    ∃ t, exec (.packetFetch r new) s = .next t
      ∧ (ring t r.val).badPacket = true ∧ (ring t r.val).queue = (ring s r.val).queue
      ∧ (ring t r.val).sqHead =
          BitVec.ofNat 16 (((ring s r.val).sqHead.toNat + es.length) % 2 ^ (ring s r.val).sqLog2.toNat)
      ∧ t = { s with host := t.host, out := t.out }
      ∧ ∃ more, t.out = s.out ++ complOut r.val { ring s r.val with sqHead := (ring t r.val).sqHead }
          (compl (entryHead (es.headD 0)).tag 0x06) :: more := by
  have hring := ring_entriesFetched hes hbefore
  have htake := (pumpOnce_entriesFetched h hes hbefore).trans
    (takePacket_malformed (readWhole_entriesFetched hes hwhole hbefore) (by rw [hring]; exact hbad))
  rw [hring] at htake
  obtain ⟨hoff0, ⟨tail, phase, n, hring1⟩, more, hout⟩ := refusePacket_spec (r := r.val) (s := entriesFetched r new s)
    (entryHead (es.headD 0)).tag (g := pastPacket { ring s r.val with buf := es } es.length)
    (by rw [hring]; exact hroom) (by rw [ideHold_of_offRings (offRings_entriesFetched r new s)]; exact h.ideHold) hcq
  rw [← htake] at hoff0 hring1 hout
  obtain ⟨hrings, hoff⟩ := ringOn_idle (r := r) (s := entriesFetched r new s) (by
    rw [hring1]
    exact ⟨List.drop_length, h.pendFlush, fun hf => absurd hf (by simp [pastPacket, headOn, h.flush]),
      fun hf => absurd hf (by simp [pastPacket])⟩)
  refine ⟨_, exec_packetFetch new h.phase h.quiesce h.ideHold h.reads, ?_, ?_, ?_, ?_, more, ?_⟩
  · rw [hrings, hring1]
  · rw [hrings, hring1]; rfl
  · rw [hrings, hring1]; rfl
  · exact eq_of_offHostOut ((offHostOut_of_offRings hoff).trans (hoff0.trans (offHostOut_of_offRings (offRings_entriesFetched r new s))))
  · rw [out_of_offRings hoff, hout, out_of_offRings (offRings_entriesFetched r new s), hrings, hring1]; rfl

/-! ### FLUSH -/

theorem ringQuiet_iff (g : Ring) : ringQuiet g = true ↔ g.buf = [] ∧ g.flush = false ∧ g.readFirst = false ∧ g.flushLeft = 0
    ∧ g.discard = 0 ∧ g.pendFlush = [] := by
  simp [ringQuiet, and_assoc]

/-- The ring as a write of FLUSH to it leaves its register, with no flush standing. -/
def flushWritten (r : Nat) (s : State) : Ring := { ring s r with flush := true, readFirst := reading r s }

/-- FLUSH written with SQ_ENABLE still 1 and the ring's own size (Table 12.3). -/
theorem exec_ringFlush {r : Fin 256} {v : W32} {s : State} (hphase : below7 s = false) (hen : (ring s r.val).sqEnable = true)
    (h0 : bitOf v.toNat 0 = true) (h1 : bitOf v.toNat 1 = true) (hlog : fld v.toNat 8 5 = (ring s r.val).sqLog2.toNat)
    (hlo : 6 ≤ fld v.toNat 8 5) (hhi : fld v.toNat 8 5 ≤ 16) (hflush : (ring s r.val).flush = false)
    (hfirst : (ring s r.val).readFirst = false) :
    exec (.ringFlush r v) s = .next (ringOn r (setRing s r.val (flushWritten r.val s))) := by
  have hrange : ¬((ring s r.val).sqLog2.toNat < 6 ∨ 16 < (ring s r.val).sqLog2.toNat) := by omega
  show execRingFlush r v s = _
  unfold execRingFlush sqControl flushWritten
  simp [hphase, hrange, h0, h1, hen, hflush, hfirst, hlog]

/-- A write of FLUSH to a quiet ring with entries waiting: at once, or after the packet being read (R379). -/
theorem ringFlush_quiet {r : Fin 256} {v : W32} {s : State} (hphase : below7 s = false) (hen : (ring s r.val).sqEnable = true)
    (h0 : bitOf v.toNat 0 = true) (h1 : bitOf v.toNat 1 = true) (hlog : fld v.toNat 8 5 = (ring s r.val).sqLog2.toNat)
    (hlo : 6 ≤ fld v.toNat 8 5) (hhi : fld v.toNat 8 5 ≤ 16) (havail : sqAvail (ring s r.val) ≠ 0)
    (hquiet : ringQuiet (ring s r.val) = true) :
    ∃ t, exec (.ringFlush r v) s = .next t ∧ (∀ j, j ≠ r.val → ring t j = ring s j) ∧ hostReadsOnly s t
      ∧ ring t r.val = if reading r.val s then { ring s r.val with flush := true, readFirst := true }
          else { ring s r.val with flushLeft := sqAvail (ring s r.val) } := by
  obtain ⟨hbuf, hflush, hfirst, -, -, hpend⟩ := (ringQuiet_iff _).mp hquiet
  have hexec := exec_ringFlush hphase hen h0 h1 hlog hlo hhi hflush hfirst
  generalize hu : setRing s r.val (flushWritten r.val s) = u at hexec
  have hur : ring u r.val = flushWritten r.val s := by rw [← hu, ring_setRing_same]
  have hother : ∀ j, j ≠ r.val → ring u j = ring s j := fun j hj => by rw [← hu, ring_setRing, if_neg hj]
  have hoffu : offRings u = offRings s := by rw [← hu, offRings_setRing]
  cases hread : reading r.val s with
  | true =>
    have hwritten : flushWritten r.val s = { ring s r.val with flush := true, readFirst := true } := by
      unfold flushWritten; rw [hread]
    have hidle : Idle (ring u r.val) := by
      rw [hur, hwritten]; exact ⟨hbuf, hpend, fun _ => rfl, fun _ => havail⟩
    have honce := pumpOnce_idle hidle
    obtain ⟨hrings, hoff⟩ := ringOn_idle (r := r) (s := u) (by rwa [honce])
    rw [honce] at hoff
    refine ⟨_, hexec, fun j hj => ?_, hostReadsOnly_of_offRings (hoff.trans hoffu), ?_⟩
    · rw [hrings, honce, hother j hj]
    · rw [hrings, honce, hur, hwritten]; rfl
  | false =>
    have hwritten : flushNow (flushWritten r.val s) = { ring s r.val with flushLeft := sqAvail (ring s r.val) } := by
      simp only [flushWritten, flushNow, hread, hflush, hfirst]; rfl
    have honce : pumpOnce r u = setRing u r.val { ring s r.val with flushLeft := sqAvail (ring s r.val) } := by
      rw [pumpOnce_flushes (by rw [hur]; rfl) (by rw [hur]; exact hread), hur, hwritten]
    obtain ⟨hrings, hoff⟩ := ringOn_idle (r := r) (s := u) (by
      rw [honce, ring_setRing_same]
      exact ⟨hbuf, hpend, fun hf => absurd hf (by simp [hflush]), fun hf => absurd hf (by simp [hfirst])⟩)
    rw [honce, offRings_setRing] at hoff
    refine ⟨_, hexec, fun j hj => ?_, hostReadsOnly_of_offRings (hoff.trans hoffu), ?_⟩
    · rw [hrings, honce, ring_setRing, if_neg hj, hother j hj]
    · rw [hrings, honce, ring_setRing_same]; rfl

/-! ### Command rows -/

/-- Every command row is a packet accepted and dispatched at once (log entry 37). -/
theorem exec_commandRow {op : Nat} {i : Instr} {c : Cmd} {d : CmdData} (h : (op, i) ∈ commandRows c d) (s : State) :
    ∃ k f, exec i s = .next (asPacket op c k f s) := by
  simp only [commandRows, List.mem_cons, Prod.mk.injEq, List.not_mem_nil, or_false] at h
  rcases h with ⟨rfl, rfl⟩ | ⟨rfl, rfl⟩ | ⟨rfl, rfl⟩ | ⟨rfl, rfl⟩ | ⟨rfl, rfl⟩ | ⟨rfl, rfl⟩ | ⟨rfl, rfl⟩ | ⟨rfl, rfl⟩ | ⟨rfl, rfl⟩
    | ⟨rfl, rfl⟩ | ⟨rfl, rfl⟩ | ⟨rfl, rfl⟩ | ⟨rfl, rfl⟩ <;> exact ⟨_, _, rfl⟩

theorem asPacket_unclean {op k : Nat} {c : Cmd} {f : State → State} {s : State} (hphase : below7 s = false)
    (hq : s.host.quiesce = false) (hide : s.host.ideHold = false) (hbad : payloadClean op c.payload = false) :
    asPacket op c k f s = refusePacket c.ring c.tag (ring s c.ring) s := by
  unfold asPacket
  simp only [hphase, hq, hide, hbad, Bool.false_eq_true, or_self, if_false, Bool.not_false, if_true]

theorem commandRow_refused {op : Nat} {i : Instr} {c : Cmd} {d : CmdData} {s : State} (hrow : (op, i) ∈ commandRows c d)
    (hphase : below7 s = false) (hq : s.host.quiesce = false) (hide : s.host.ideHold = false)
    (hbad : payloadClean op c.payload = false) (hroom : (ring s c.ring).reserved < cqFree (ring s c.ring))
    (hcq : (ring s c.ring).cqEnable = true) :
    ∃ t more, exec i s = .next t ∧ t = { s with host := t.host, out := t.out } ∧ (ring t c.ring).badPacket = true
      ∧ (ring t c.ring).accepted = (ring s c.ring).accepted
      ∧ t.out = s.out ++ complOut c.ring.val { ring s c.ring with sqHead := (ring t c.ring).sqHead } (compl c.tag 0x06) :: more := by
  obtain ⟨k, f, hexec⟩ := exec_commandRow hrow s
  rw [asPacket_unclean hphase hq hide hbad] at hexec
  obtain ⟨hoff, ⟨tail, phase, n, hring⟩, more, hout⟩ := refusePacket_spec (r := c.ring.val) c.tag hroom hide hcq
  refine ⟨_, more, hexec, eq_of_offHostOut hoff, ?_, ?_, ?_⟩
  · rw [hring]
  · rw [hring]
  · rw [hout, hring]

end Sys2Proof.Machine

/-- Settles O10: the ring takes one turn with the entries read, and is idle after it. -/
theorem packetAcceptedOrFlushed : Obligations.PacketAcceptedOrFlushed := by
  unfold Obligations.PacketAcceptedOrFlushed
  refine ⟨?packet, ?flush, ?row⟩
  case packet =>
    intro r new es s hphase hq hide hen hflush hfirst hleft hpend hread hes _ hwhole hbefore
    have hfetching : Fetching r.val s := ⟨hphase, hq, hide, hen, hflush, hfirst, hleft, hpend, hread⟩
    exact ⟨packetFetch_accepts hfetching hes hwhole hbefore, packetFetch_refuses hfetching hes hwhole hbefore⟩
  case flush =>
    exact fun r v s hphase hen h0 h1 hlog hlo hhi havail hquiet => ringFlush_quiet hphase hen h0 h1 hlog hlo hhi havail hquiet
  case row =>
    exact fun c d op i s hrow hphase hq hbad hroom hcq hide => commandRow_refused hrow hphase hq hide hbad hroom hcq
end

section
/-! SUPPORT. Words of the register map that are no part of a 64-bit register (Tables 12.3, 13.7, 19.3 to 19.6), and the words of the
window of a cluster that is not enabled (R39, R523). -/

open Sys2Proof Sys2Proof.Machine Sys2Proof.Spec

namespace Sys2Proof.Machine

/-! ### Words of the map -/

/-- A word that belongs to no 64-bit register is that of its 32-bit register. -/
theorem regWord_of_none {s : State} {o : Nat} (ho : val64 s o = none) (hbelow : val64 s (o - 4) = none) :
    regWord s o = val32 s o := by
  unfold regWord; simp [ho, hbelow]

/-- No 64-bit register has its low word in the lock registers, the MSI-X table or the seat table, and of a ring the two bases
alone. -/
theorem val64_eq_none {o : Nat} (s : State)
    (h : (0x2FFFC ≤ o ∧ o < 0x30100) ∨ (0x40000 ≤ o ∧ o < 0x44000 ∧ o % 0x40 ≠ 0 ∧ o % 0x40 ≠ 0x10)
      ∨ (0x5FFFC ≤ o ∧ o < 0x61040) ∨ (0x400FFC ≤ o ∧ o < 0x401400)) : val64 s o = none := by
  unfold val64 glob64
  repeat rw [if_neg (by omega)]

/-- A word of ring `r` outside its two bases. -/
theorem regWord_ring (s : State) {r i : Nat} (hr : r < 256) (hi : i < 0x40)
    (hbase : i ≠ 0 ∧ i ≠ 4 ∧ i ≠ 0x10 ∧ i ≠ 0x14) (hi4 : 4 ≤ i) :
    regWord s (0x40000 + 0x40 * r + i) = BitVec.ofNat 32 (ringWord (ring s r) i) := by
  have hidx : (0x40000 + 0x40 * r + i - 0x40000) / 0x40 = r := by omega
  have hoff : (0x40000 + 0x40 * r + i) % 0x40 = i := by omega
  rw [regWord_of_none (val64_eq_none s (by omega)) (val64_eq_none s (by omega))]
  unfold val32 low32
  rw [if_pos (by omega)]
  repeat rw [if_neg (by omega)]
  rw [if_pos (by omega), hidx, hoff]

theorem regWord_lock (s : State) {k : Nat} (hk : k < 64) :
    regWord s (0x30000 + 4 * k) = BitVec.ofNat 32 (lockWord (lockReg s k)) := by
  have hidx : (0x30000 + 4 * k - 0x30000) / 4 = k := by omega
  rw [regWord_of_none (val64_eq_none s (by omega)) (val64_eq_none s (by omega))]
  unfold val32 low32
  rw [if_pos (by omega)]
  repeat rw [if_neg (by omega)]
  rw [if_pos (by omega), hidx]

/-- The vector control word of MSI-X entry `v`. -/
theorem regWord_msixCtl (s : State) {v : Nat} (hv : v < 260) :
    regWord s (0x60000 + 16 * v + 12) = BitVec.ofNat 32 (msixEntry s v).ctl.toNat := by
  have hidx : (0x60000 + 16 * v + 12 - 0x60000) / 16 = v := by omega
  rw [regWord_of_none (val64_eq_none s (by omega)) (val64_eq_none s (by omega))]
  unfold val32 low32
  rw [if_pos (by omega)]
  repeat rw [if_neg (by omega)]
  rw [if_pos (by omega), hidx]
  dsimp only
  rw [if_neg (by omega), if_neg (by omega), if_neg (by omega), if_pos (by omega)]

theorem regWord_seats (s : State) {i : Nat} (hi : i < 256) :
    regWord s (0x401000 + 4 * i)
      = BitVec.ofNat 32 (packBits [((seatPos s (2 * i)).toNat, 16), ((seatPos s (2 * i + 1)).toNat, 16)]) := by
  have hidx : (0x401000 + 4 * i - 0x401000) / 2 = 2 * i := by omega
  rw [regWord_of_none (val64_eq_none s (by omega)) (val64_eq_none s (by omega))]
  unfold val32 high32
  repeat rw [if_neg (by omega)]
  rw [if_pos (by omega), hidx]

/-! ### The window of a cluster -/

theorem val64_window (s : State) {p o : Nat} (hp : p < 112) (ho : o < 0x1000) : val64 s (0x200000 + 0x1000 * p + o) = cl64 s p o := by
  have hidx : (0x200000 + 0x1000 * p + o - 0x200000) / 0x1000 = p := by omega
  have hoff : (0x200000 + 0x1000 * p + o) % 0x1000 = o := by omega
  unfold val64; rw [if_pos (by omega), hidx, hoff]

theorem val32_window (s : State) {p o : Nat} (hp : p < 112) (ho : o < 0x1000) :
    val32 s (0x200000 + 0x1000 * p + o) = BitVec.ofNat 32 (cl32 s p o) := by
  have hidx : (0x200000 + 0x1000 * p + o - 0x200000) / 0x1000 = p := by omega
  have hoff : (0x200000 + 0x1000 * p + o) % 0x1000 = o := by omega
  unfold val32; rw [if_neg (by omega), if_neg (by omega), if_pos (by omega), hidx, hoff]

theorem cl64_disabled {s : State} {p : Nat} (h : enabledCl s p = false) (o : Nat) : cl64 s p o = none ∨ cl64 s p o = some 0 := by
  unfold cl64; rw [h]; split
  · exact .inr rfl
  · split
    · exact .inr rfl
    · exact .inl rfl

theorem cl32_disabled {s : State} {p o : Nat} (h : enabledCl s p = false) (ho : o ≠ 0) : cl32 s p o = 0 := by
  unfold cl32; simp [h, ho]

/-- The window of a cluster that is not enabled reads zero but for its state word. -/
theorem regWord_window_disabled {s : State} {p o : Nat} (hp : p < 112) (h : enabledCl s p = false) (h0 : 0 < o) (ho : o < 0x1000)
    (h4 : o % 4 = 0) : regWord s (0x200000 + 0x1000 * p + o) = 0 := by
  have hbelow : 0x200000 + 0x1000 * p + o - 4 = 0x200000 + 0x1000 * p + (o - 4) := by omega
  have hzero : val32 s (0x200000 + 0x1000 * p + o) = 0 := by rw [val32_window s hp ho, cl32_disabled h (by omega)]; rfl
  unfold regWord
  rw [if_pos (by omega), hbelow, val64_window s hp ho, val64_window s hp (by omega), hzero]
  rcases cl64_disabled h o with hlow | hlow <;> rcases cl64_disabled h (o - 4) with hhigh | hhigh <;> rw [hlow, hhigh] <;> rfl

/-- The state word of a cluster's window. -/
theorem regWord_window_state (s : State) {p : Nat} (hp : p < 112) :
    regWord s (0x200000 + 0x1000 * p) = BitVec.ofNat 32 (cl32 s p 0) := by
  have hbelow : val64 s (0x200000 + 0x1000 * p - 4) = none := by
    obtain _ | q := p
    · rfl
    · rw [show 0x200000 + 0x1000 * (q + 1) - 4 = 0x200000 + 0x1000 * q + 0xFFC by omega, val64_window s (by omega) (by omega)]; rfl
  rw [regWord_of_none (o := 0x200000 + 0x1000 * p) (val64_window s (o := 0) hp (by omega)) hbelow]
  exact val32_window s (o := 0) hp (by omega)

/-! ### At reset -/

/-- The words of Table 12.3 of a ring that nothing wrote: LOG2 fields 6, PRIV on ring 0 alone, VECTOR 4 + r, phase 1, CO_COUNT 1. -/
theorem ringWord_reset_control (r : Nat) : ringWord (ringReset r) 0x08 = if r = 0 then 0x604 else 0x600 := by
  by_cases h : r = 0 <;> simp [ringWord, ringReset, packBits, bit, h]
theorem ringWord_reset_vector {r : Nat} (hr : r < 256) : ringWord (ringReset r) 0x18 = 0x600 + 0x10000 * (4 + r) := by
  have hv : (4 + r) % 512 = 4 + r := by omega
  simp [ringWord, ringReset, packBits, bit, hv]; omega
theorem ringWord_reset_tail (r : Nat) : ringWord (ringReset r) 0x24 = 0x10000 := by simp [ringWord, ringReset, packBits, bit]
theorem ringWord_reset_coalescing (r : Nat) : ringWord (ringReset r) 0x2C = 1 := by simp [ringWord, ringReset, packBits]

/-- A free lock (Table 13.7). -/
theorem lockWord_free : lockWord {} = 0xFE00 := by decide

/-- The seat table of Table 10.8: seat 0 has ring position 0 and no other seat has one. -/
theorem seatWord_reset (i : Nat) : packBits [((seatReset (2 * i)).toNat, 16), ((seatReset (2 * i + 1)).toNat, 16)]
    = if i = 0 then 0xFFFF0000 else 0xFFFFFFFF := by
  by_cases h : i = 0
  · subst h; rfl
  · have h2 : 2 * i ≠ 0 := by omega
    simp [seatReset, h, packBits]

theorem enabledCl_reset (p : Nat) : enabledCl State.reset p = false := rfl

/-- A spare cluster's state word (Table 1.7): STATE 0b01, no logical index, its quadrant. -/
theorem cl32_reset_state {p : Nat} (hp : p < 112) : cl32 State.reset p 0 = 0x7F01 + 0x10000 * (p / 28) := by
  show packBits [(1, 8), (0x7F, 8), (p / 28, 8), (0, 5)] = _
  simp only [packBits]; omega

end Sys2Proof.Machine

/-- Settles O2: every block's word is its register's fields packed, and at reset those are the fields' defaults. -/
theorem resetRegisterValues : Obligations.ResetRegisterValues := by
  unfold Obligations.ResetRegisterValues
  refine ⟨?fixed, ?rings, ?locks, ?vectors, ?seats, ?windows⟩
  case fixed => decide +kernel
  case rings =>
    intro r hr
    have hword : ∀ i, 4 < i → i < 0x40 → i ≠ 0x10 → i ≠ 0x14 →
        regWord State.reset (0x40000 + i + 0x40 * r) = BitVec.ofNat 32 (ringWord (ringReset r) i) := by
      intro i h4 hi h10 h14
      rw [show 0x40000 + i + 0x40 * r = 0x40000 + 0x40 * r + i by omega,
        regWord_ring _ hr hi ⟨by omega, by omega, h10, h14⟩ (by omega)]; rfl
    refine ⟨?control, ?vector, ?tail, ?coalescing⟩
    case control =>
      rw [hword 0x08 (by decide) (by decide) (by decide) (by decide), ringWord_reset_control]; split <;> rfl
    case vector => rw [hword 0x18 (by decide) (by decide) (by decide) (by decide), ringWord_reset_vector hr]
    case tail => rw [hword 0x24 (by decide) (by decide) (by decide) (by decide), ringWord_reset_tail]; rfl
    case coalescing => rw [hword 0x2C (by decide) (by decide) (by decide) (by decide), ringWord_reset_coalescing]; rfl
  case locks =>
    intro k hk
    rw [regWord_lock _ hk]
    exact congrArg (BitVec.ofNat 32) lockWord_free
  case vectors => intro v hv; rw [regWord_msixCtl _ hv]; rfl
  case seats =>
    intro i hi
    rw [regWord_seats _ hi]
    refine (congrArg (BitVec.ofNat 32) (seatWord_reset i)).trans ?_
    split <;> rfl
  case windows =>
    intro p hp
    refine ⟨?_, fun o h0 ho h4 => regWord_window_disabled hp (enabledCl_reset p) h0 ho h4⟩
    rw [regWord_window_state _ hp, cl32_reset_state hp]
end

section
/-! SUPPORT. Drift evaluation at the end of a window (R95): each evaluated plane is cleared once and keeps what the evaluation gave it
through everything else that happens there. -/

open Sys2Proof Sys2Proof.Machine Sys2Proof.Spec

namespace Sys2Proof.Machine

/-! ### Folds over a list -/

/-- A fold whose steps change nothing. -/
theorem forAll_id {α : Type} {f : α → State → State} {s : State} : ∀ {l : List α}, (∀ a ∈ l, f a s = s) → forAll l f s = s
  | [], _ => rfl
  | a :: l, h => by
    have htail : forAll l f s = s := forAll_id fun x hx => h x (List.mem_cons_of_mem a hx)
    unfold forAll at *
    rw [List.foldl_cons, h a (List.mem_cons_self ..), htail]

/-- A fold keeps what each of its steps keeps true. -/
theorem forAll_invariant {α : Type} {P : State → Prop} {f : α → State → State} :
    ∀ {l : List α} {s : State}, (∀ a ∈ l, ∀ s, P s → P (f a s)) → P s → P (forAll l f s)
  | [], _, _, hs => hs
  | a :: _, s, h, hs =>
    forAll_invariant (s := f a s) (fun x hx => h x (List.mem_cons_of_mem a hx)) (h a (List.mem_cons_self ..) s hs)

/-- A key that a map lists after a write is the one written or was listed before. -/
theorem mem_put_key {α : Type} [DecidableEq α] {d : Nat → α} {m : SMap α} {k : Nat} {v : α} {x : Nat × α} (h : x ∈ put d m k v) :
    x.1 = k ∨ x ∈ m := by
  unfold put at h
  split at h
  · exact .inr (mem_dropKey h)
  · rcases mem_insKey h with rfl | h
    · exact .inl rfl
    · exact .inr (mem_dropKey h)

/-! ### One plane -/

/-- `r` is plane `q` after its evaluation (R95): its sums cleared, and its trim the new one or, where it became STALE, the old. -/
structure DriftEvaluated (q r : Plane) : Prop where
  cleared : clearDrift r = r
  trimmed : ∀ d, evalDrift q = some d → r.dp = d ∧ r.st = q.st
  stale : evalDrift q = none → r.dp = q.dp ∧ r.st = 3

theorem driftEvaluated_drifted (s : State) (q : Plane) : DriftEvaluated q (drifted s q) := by
  unfold drifted
  cases h : evalDrift q with
  | some d => exact ⟨rfl, fun _ hd => ⟨Option.some.inj (h ▸ hd), rfl⟩, fun hn => by simp [h] at hn⟩
  | none => exact ⟨rfl, fun _ hd => by simp [h] at hd, fun _ => ⟨rfl, rfl⟩⟩

/-- Cleared sums keep the trim (R95). -/
theorem evalDrift_clearDrift (q : Plane) : evalDrift (clearDrift q) = some q.dp := by
  have hfin : fin32 0#32 = true := by decide
  have hzero : zeroF f32 0 = true := by decide
  simp [evalDrift, clearDrift, hfin, hzero]

/-- A second evaluation of the same plane changes nothing that the first one gave. -/
theorem DriftEvaluated.again {q r : Plane} (h : DriftEvaluated q r) (s : State) : DriftEvaluated q (drifted s r) := by
  have hkeep : evalDrift r = some r.dp := by rw [← h.cleared, evalDrift_clearDrift]; rfl
  have heq : drifted s r = { clearDrift r with dp := r.dp, oldDp := some (s.fab.beat, r.dp) } := by unfold drifted; rw [hkeep]
  rw [heq]
  exact ⟨rfl, h.trimmed, h.stale⟩

theorem DriftEvaluated.clear {q r : Plane} (h : DriftEvaluated q r) : DriftEvaluated q (clearDrift r) := by rwa [h.cleared]

theorem DriftEvaluated.sums {q r : Plane} (h : DriftEvaluated q r) : r.n = 0 ∧ r.x = 0 := by
  rw [← h.cleared]; exact ⟨rfl, rfl⟩

theorem drifted_waits (s : State) (q : Plane) : (drifted s q).next = q.next ∧ (drifted s q).moveOf = q.moveOf := by
  unfold drifted; split <;> exact ⟨rfl, rfl⟩

/-! ### The planes of a window's end -/

/-- The planes `ns` evaluated in turn. -/
def evalPlanes (ns : List Nat) (s : State) : State := forAll ns (fun n s => modPlane n (drifted s) s) s

theorem driftEvaluated_modPlane {q : Plane} {n m : Nat} {f : Plane → Plane} {s : State}
    (hf : ∀ r, DriftEvaluated q r → DriftEvaluated q (f r)) (h : DriftEvaluated q (plane s n)) :
    DriftEvaluated q (plane (modPlane m f s) n) := by
  rw [plane_modPlane]
  split
  · rename_i hnm; subst hnm; exact hf _ h
  · exact h

theorem evalPlanes_cons (m : Nat) (ns : List Nat) (s : State) : evalPlanes (m :: ns) s = evalPlanes ns (modPlane m (drifted s) s) := rfl

/-- An evaluated plane stays so while others, or itself again, are evaluated. -/
theorem DriftEvaluated.evalPlanes {q : Plane} {s : State} {n : Nat} (h : DriftEvaluated q (plane s n)) (ns : List Nat) :
    DriftEvaluated q (plane (evalPlanes ns s) n) :=
  forAll_invariant (P := fun t => DriftEvaluated q (plane t n)) (fun _ _ t ht => driftEvaluated_modPlane (fun _ hr => hr.again t) ht) h

theorem plane_evalPlanes {n : Nat} {ns : List Nat} {s : State} (h : n ∈ ns) :
    DriftEvaluated (plane s n) (plane (evalPlanes ns s) n) := by
  induction ns generalizing s with
  | nil => cases h
  | cons m ns ih =>
    rw [evalPlanes_cons]
    by_cases hm : n = m
    · subst hm
      exact DriftEvaluated.evalPlanes (by rw [plane_modPlane_same]; exact driftEvaluated_drifted s _) ns
    · have hsame : plane (modPlane m (drifted s) s) n = plane s n := by rw [plane_modPlane, if_neg hm]
      rw [← hsame]
      exact ih ((List.mem_cons.mp h).resolve_left hm)

/-- An evaluation leaves the transitions and moves that wait. -/
theorem waits_evalPlanes (ns : List Nat) (s : State) (m : Nat) :
    (plane (evalPlanes ns s) m).next = (plane s m).next ∧ (plane (evalPlanes ns s) m).moveOf = (plane s m).moveOf := by
  have hkeep := forAll_keeps (fun t => ((plane t m).next, (plane t m).moveOf)) (fun n s => modPlane n (drifted s) s) (fun n t => by
    rw [plane_modPlane]
    split
    · rename_i h; subst h; obtain ⟨hnext, hmove⟩ := drifted_waits t (plane t m); rw [hnext, hmove]
    · rfl) ns s
  exact Prod.mk.inj hkeep

theorem evalPlanes_core (ns : List Nat) (s : State) (k : Nat) : core (evalPlanes ns s) k = core s k :=
  forAll_keeps (core · k) _ (fun _ _ => core_modPlane ..) _ _
theorem evalPlanes_engine (ns : List Nat) (s : State) (e : Nat) : engine (evalPlanes ns s) e = engine s e :=
  forAll_keeps (engine · e) _ (fun _ _ => engine_modPlane ..) _ _
theorem evalPlanes_ten (ns : List Nat) (s : State) : (evalPlanes ns s).ten = s.ten :=
  forAll_keeps (·.ten) _ (fun _ _ => modPlane_ten ..) _ _

/-- An evaluation of listed planes lists no plane more. -/
theorem listedPlanes_evalPlanes {ns : List Nat} {s : State} {k m : Nat} (hns : ∀ n ∈ ns, n ∈ listedPlanes s k)
    (hm : m ∈ listedPlanes (evalPlanes ns s) k) : m ∈ listedPlanes s k := by
  refine forAll_invariant (P := fun t => ∀ m ∈ listedPlanes t k, m ∈ listedPlanes s k) (fun a ha t ht m hm => ?_) (fun _ h => h) m hm
  obtain ⟨x, hx, rfl⟩ := List.mem_map.mp hm
  obtain ⟨hput, hcore⟩ := List.mem_filter.mp hx
  rcases mem_put_key hput with hkey | hold
  · rw [hkey]; exact hns a ha
  · exact ht _ (List.mem_map.mpr ⟨x, List.mem_filter.mpr ⟨hold, hcore⟩, rfl⟩)

theorem evaluated_listed {s : State} {k n : Nat} (h : n ∈ evaluated s k) : n ∈ listedPlanes s k := (List.mem_filter.mp h).1
theorem evaluated_ready {s : State} {k n : Nat} (h : n ∈ evaluated s k) : (plane s n).st = 2 := by
  have := (List.mem_filter.mp h).2
  simp at this; exact this.1.1

/-! ### What else happens at a window's end -/

theorem settlePlane_of_none {s : State} {n : Nat} (hnext : (plane s n).next = none) (hmove : (plane s n).moveOf = none) :
    settlePlane n s = s := by
  unfold settlePlane; simp [hnext, hmove]

/-- With nothing that waits, a core settles at once. -/
theorem settleCore_quiet {s : State} {k : Nat} (hplanes : ∀ m ∈ listedPlanes s k, (plane s m).next = none ∧ (plane s m).moveOf = none)
    (hsub : (core s k).subWait = none) (hrel : ∀ b ∈ liveBindings s, (entry s b).st ≠ 5) : settleCore k s = s := by
  have hsettled : forAll (listedPlanes s k) settlePlane s = s :=
    forAll_id fun m hm => settlePlane_of_none (hplanes m hm).1 (hplanes m hm).2
  have hreleased : forAll (liveBindings s) checkReleased s = s := forAll_id fun b hb => if_pos (.inl (hrel b hb))
  unfold settleCore
  simp only [hsettled, hsub, hreleased]

@[simp] theorem plane_keepSelections (e : Nat) (r : CalNext) (s : State) (n : Nat) : plane (keepSelections e r s) n = plane s n := by
  unfold keepSelections; split <;> rfl
@[simp] theorem engine_keepSelections (e : Nat) (r : CalNext) (s : State) (j : Nat) : engine (keepSelections e r s) j = engine s j := by
  unfold keepSelections; split <;> rfl

/-- A calibration that takes effect clears sums that are clear already. -/
theorem driftEvaluated_applyCal {q : Plane} {s : State} {n : Nat} (e : Nat) (h : DriftEvaluated q (plane s n)) :
    DriftEvaluated q (plane (applyCal e s) n) := by
  unfold applyCal
  split
  · exact h
  · rw [plane_keepSelections]
    exact forAll_invariant (P := fun t => DriftEvaluated q (plane t n))
      (fun _ _ _ ht => driftEvaluated_modPlane (fun _ hr => hr.clear) ht) (by rwa [plane_modEngine])

@[simp] theorem summaries_hw_planes (p marks : Nat) (s : State) : (summaries p marks s).hw.planes = s.hw.planes := by
  simp [summaries, planeSummary, bandSummary, driftSummary, sparingSummary]
@[simp] theorem plane_summaries (p marks : Nat) (s : State) (n : Nat) : plane (summaries p marks s) n = plane s n := by
  simp [plane]
@[simp] theorem engine_summaries (p marks : Nat) (s : State) (e : Nat) : engine (summaries p marks s) e = engine s e := by
  simp [summaries, planeSummary, bandSummary, driftSummary, sparingSummary]
@[simp] theorem core_summaries (p marks : Nat) (s : State) (k : Nat) : core (summaries p marks s) k = core s k := by
  simp [summaries, planeSummary, bandSummary, driftSummary, sparingSummary]

theorem plane_setShare (p : Nat) (s : State) (n : Nat) : plane (setShare p s) n = plane s n := by unfold setShare; split <;> rfl

theorem plane_replanEngine (e : Nat) (s : State) (n : Nat) : plane (replanEngine e s) n = plane s n := by
  unfold replanEngine; dsimp only; split <;> simp

theorem failBindingsOn_hw_planes (bad : Nat → Bool) (s : State) : (failBindingsOn bad s).hw.planes = s.hw.planes :=
  forAll_keeps (·.hw.planes) _ (fun b t => by
    split
    · exact forAll_keeps (·.hw.planes) _ (fun _ _ => modCore_hw_planes ..) _ _
    · rfl) _ _

theorem writeRepair_hw_planes_of (s : State) (i : Ident) (l : Larder) :
    (writeRepair { s with ident := i, lar := l }).hw.planes = s.hw.planes := rfl

theorem plane_failCluster (p cause : Nat) (s : State) (n : Nat) : plane (failCluster p cause s) n = plane s n := by
  suffices (failCluster p cause s).hw.planes = s.hw.planes by unfold plane; rw [this]
  have hcores : ∀ x : State, (forAll (List.range 18) (fun i => modCore (18 * p + i) fun c => { c with failed := true }) x).hw.planes
      = x.hw.planes := fun x => forAll_keeps (·.hw.planes) _ (fun _ _ => modCore_hw_planes ..) _ _
  unfold failCluster
  split
  · rfl
  · extract_lets inside s1 s2 s3 s4
    rw [writeRepair_hw_planes_of, modCluster_hw_planes, hcores, failBindingsOn_hw_planes, raise_hw]

theorem plane_applyReplan (p : Nat) (d : ReplanData) (s : State) (n : Nat) : plane (applyReplan p d s) n = plane s n := by
  have hengines : plane (forAll (inUseEngines s p) replanEngine s) n = plane s n :=
    forAll_keeps (plane · n) _ (fun e t => plane_replanEngine e t n) _ _
  unfold applyReplan
  dsimp only
  split
  · rw [plane_setShare, plane_writeCounters, plane_submitJob]; exact hengines
  · rw [plane_failCluster, plane_setShare, plane_writeCounters, plane_submitJob]; exact hengines

theorem plane_replanAt (k : Nat) (s : State) (n : Nat) : plane (replanAt k s) n = plane s n := by
  unfold replanAt
  split
  · split
    · exact plane_applyReplan ..
    · rfl
  · rfl

/-! ### The end of a window -/

theorem endWindow_window (k : Nat) (s : State) : (core (endWindow k s) k).window = none := by
  unfold endWindow; rw [core_summaries, core_modCore_same]

/-- Where no transition, substitution or release waits, a window's end leaves every plane it evaluates as the evaluation does. -/
theorem driftEvaluated_endWindow {k n : Nat} {s : State}
    (hplanes : ∀ m ∈ listedPlanes s k, (plane s m).next = none ∧ (plane s m).moveOf = none) (hsub : (core s k).subWait = none)
    (hrel : ∀ b ∈ liveBindings s, (entry s b).st ≠ 5) (hn : n ∈ evaluated s k) :
    DriftEvaluated (plane s n) (plane (endWindow k s) n) := by
  have hsettled : settleCore k (evalPlanes (evaluated s k) s) = evalPlanes (evaluated s k) s := by
    refine settleCore_quiet (fun m hm => ?_) (by rw [evalPlanes_core, hsub]) ?_
    · obtain ⟨hnext, hmove⟩ := waits_evalPlanes (evaluated s k) s m
      rw [hnext, hmove]
      exact hplanes m (listedPlanes_evalPlanes (fun _ h => evaluated_listed h) hm)
    · unfold liveBindings entry; rw [evalPlanes_ten]; exact hrel
  show DriftEvaluated _ (plane (summaries _ _ (modCore k _ (replanAt k (forAll _ _ (settleCore k (evalPlanes (evaluated s k) s)))))) n)
  rw [hsettled, plane_summaries, plane_modCore, plane_replanAt]
  exact forAll_invariant (P := fun t => DriftEvaluated (plane s n) (plane t n))
    (fun i _ t ht => by rw [plane_modEngine]; exact driftEvaluated_applyCal _ ht) (plane_evalPlanes hn)

/-! ### MAINTENANCE_WINDOW_END -/

theorem exec_windowEnd_none {k : Fin 2016} {s : State} (h : (core s k).window = none) :
    exec (.maintenanceWindowEnd k) s = .next s := by
  show execMaintenanceWindowEnd k s = _
  unfold execMaintenanceWindowEnd; rw [h]

theorem exec_windowEnd_some {k : Fin 2016} {s : State} {w : Byte × W64} (h : (core s k).window = some w) :
    exec (.maintenanceWindowEnd k) s = .next (if s.fab.sched.toNat < w.2.toNat then s else endWindow k s) := by
  show execMaintenanceWindowEnd k s = _
  unfold execMaintenanceWindowEnd; rw [h]

/-- What MAINTENANCE_WINDOW_END does (R95). -/
theorem windowEnds (k : Fin 2016) (s : State) : WindowEnds k s := by
  refine ⟨exec_windowEnd_none, fun w hw hopen => ?_, fun w hw hover => ?_⟩
  · rw [exec_windowEnd_some hw, if_pos hopen]
  · rw [exec_windowEnd_some hw, if_neg (by omega)]
    refine ⟨_, rfl, endWindow_window k s, fun hplanes hsub hrel n hn _ => ?_⟩
    have heval := driftEvaluated_endWindow hplanes hsub hrel hn
    obtain ⟨hcount, hx⟩ := heval.sums
    refine ⟨hcount, hx, fun d hd => ?_, heval.stale⟩
    rw [← evaluated_ready hn]; exact heval.trimmed d hd

end Sys2Proof.Machine
end

section
/-! SUPPORT. Array calibration (R448 to R455): the tables of a result, what an accepted result changes, and what a rejected one keeps. -/

open Sys2Proof Sys2Proof.Machine Sys2Proof.Spec

namespace Sys2Proof.Machine

/-! ### The tables of a result -/

/-- Values written at 0, 1, 2 and on, as a fold over the numbered list. -/
theorem foldl_put_zip_range {α β : Type} [DecidableEq α] (d : Nat → α) (f : β → α) (l : List β) (m : SMap α) (k : Nat) :
    ((List.range' k l.length).zip l).foldl (fun m x => put d m x.1 (f x.2)) m = putAll d m k (l.map f) := by
  induction l generalizing m k with
  | nil => rfl
  | cons x l ih =>
    rw [List.length_cons, List.range'_succ, List.zip_cons_cons, List.foldl_cons, ih]; rfl

theorem look_foldl_zip {α β : Type} [DecidableEq α] (d : Nat → α) (f : β → α) {l : List β} {col : Nat} (h : col < l.length) (b : β) :
    look d (((List.range l.length).zip l).foldl (fun m x => put d m x.1 (f x.2)) []) col = f (l.getD col b) := by
  have hin := look_putAll_in d (l.map f) [] 0 col (by simpa using h)
  rw [Nat.zero_add] at hin
  rw [List.range_eq_range', foldl_put_zip_range, hin, List.getElem_map, List.getD_eq_getElem _ _ h]

/-- What the maps of a table of 264 columns hold: its offsets and its gains. -/
theorem look_tabMaps {l : List (W16 × W16)} (hl : l.length = 264) {col : Nat} (hcol : col < 264) :
    look (fun _ => 0) (tabMaps l).1 col = (l.getD col (0, 0)).1 ∧ look (fun _ => 0x3C00) (tabMaps l).2 col = (l.getD col (0, 0)).2 := by
  unfold tabMaps
  rw [← hl]
  exact ⟨look_foldl_zip _ (fun x : W16 × W16 => x.1) (l := l) (by omega) (0, 0),
    look_foldl_zip _ (fun x : W16 × W16 => x.2) (l := l) (by omega) (0, 0)⟩

theorem newTable_length (s : State) (e : Nat) (m : CalMeas) : (newTable s e m).length = 264 := by simp [newTable]

/-- The table's row of a measured column that has a gain (R450). -/
theorem newTable_measured {s : State} {e : Nat} (m : CalMeas) {col : Nat} (hms : col ∈ measuredCols s e) (h263 : col ≠ 263)
    (hcol : col < 264) : (newTable s e m).getD col (0, 0) = (f2h (offsetOf m col), invHalf (gainOf m col)) := by
  rw [List.getD_eq_getElem _ _ (by rwa [newTable_length])]
  simp [newTable, h263, hms]

/-! ### An accepted result -/

@[simp] theorem calJudge_hw_engines (p : Nat) (s : State) : (calJudge p s).hw.engines = s.hw.engines := by
  unfold calJudge; split <;> rfl
@[simp] theorem calJudge_hw_planes (p : Nat) (s : State) : (calJudge p s).hw.planes = s.hw.planes := by
  unfold calJudge; split <;> rfl
@[simp] theorem core_calJudge (p : Nat) (s : State) (k : Nat) : core (calJudge p s) k = core s k := by
  unfold calJudge; split <;> rfl
@[simp] theorem engine_calJudge (p : Nat) (s : State) (j : Nat) : engine (calJudge p s) j = engine s j := by simp [engine]

@[simp] theorem engine_calEnded (e : Nat) (s : State) (j : Nat) : engine (calEnded e s) j = engine s j := by
  unfold calEnded; dsimp only; split <;> simp
@[simp] theorem plane_calEnded (e : Nat) (s : State) (n : Nat) : plane (calEnded e s) n = plane s n := by
  unfold calEnded; dsimp only
  split
  · rfl
  · unfold plane; rw [calJudge_hw_planes]; rfl

/-- An engine whose waiting result has taken effect at a beat (R454). -/
def withResult (r : CalNext) (beat : W64) (g : Engine) : Engine :=
  { g with
    oTab := (tabMaps r.table).1, gTab := (tabMaps r.table).2, prior := true, cCs := r.cCs, cIn := r.cIn, cA := r.cA, cB := r.cB,
    oldTab := some (beat, g.oTab, g.gTab), calNext := none, refNext := none }

theorem withResult_oTab (r : CalNext) (beat : W64) (g : Engine) : (withResult r beat g).oTab = (tabMaps r.table).1 := rfl
theorem withResult_gTab (r : CalNext) (beat : W64) (g : Engine) : (withResult r beat g).gTab = (tabMaps r.table).2 := rfl
theorem resultOf_table (s : State) (e : Nat) (m : CalMeas) (stages : List Nat) : (resultOf s e m stages).table = newTable s e m := rfl

theorem engine_applyCal {e : Nat} {s : State} {r : CalNext} (h : (engine s e).calNext = some r) :
    engine (applyCal e s) e = withResult r s.fab.beat (engine s e) := by
  unfold applyCal; rw [h]; dsimp only
  rw [engine_keepSelections, forAll_keeps (engine · e) _ (fun _ _ => engine_modPlane ..), engine_modEngine_same]; rfl

theorem engine_ownWindow {e : Nat} {s : State} {r : CalNext} (h : (engine s e).calNext = some r) :
    engine (ownWindow e s) e = withResult r s.fab.beat (engine s e) := by
  have hfab : ∀ ns, (evalPlanes ns s).fab = s.fab := fun ns => forAll_keeps (·.fab) _ (fun _ _ => modPlane_fab ..) _ _
  show engine (summaries _ _ (applyCal e (evalPlanes _ s))) e = _
  rw [engine_summaries, engine_applyCal (by rw [evalPlanes_engine, h]), evalPlanes_engine, hfab]

theorem plane_ownWindow {e n : Nat} {s : State} (hn : n ∈ evaluated s (coreOf e)) (he : engOf n = e) :
    DriftEvaluated (plane s n) (plane (ownWindow e s) n) := by
  show DriftEvaluated _ (plane (summaries _ _ (applyCal e (evalPlanes _ s))) n)
  rw [plane_summaries]
  exact driftEvaluated_applyCal e (plane_evalPlanes (List.mem_filter.mpr ⟨hn, by simpa using he⟩))

/-- The state in which an accepted result waits for the end of a window. -/
def resultWaits (e : Nat) (r : CalNext) (s : State) : State :=
  tickFresh (modEngine e (fun g => { g with cal := none, calNext := some r }) s)

theorem engine_resultWaits (e : Nat) (r : CalNext) (s : State) :
    engine (resultWaits e r s) e = { engine s e with cal := none, calNext := some r } := by
  unfold resultWaits; rw [engine_tickFresh, engine_modEngine_same]

theorem unheld_resultWaits (e : Nat) (r : CalNext) (s : State) (k : Nat) : unheld (resultWaits e r s) k = unheld s k := rfl

theorem accept_eq (e : Nat) (r : CalNext) (s : State) : accept e r s =
    calEnded e (if unheld (resultWaits e r s) (coreOf e) then ownWindow e (resultWaits e r s) else resultWaits e r s) := rfl

theorem accept_held {e : Nat} (r : CalNext) {s : State} (h : unheld s (coreOf e) = false) :
    accept e r s = calEnded e (resultWaits e r s) := by
  rw [accept_eq, if_neg (by rw [unheld_resultWaits, h]; decide)]

theorem accept_unheld {e : Nat} (r : CalNext) {s : State} (h : unheld s (coreOf e) = true) :
    accept e r s = calEnded e (ownWindow e (resultWaits e r s)) := by
  rw [accept_eq, if_pos (by rw [unheld_resultWaits, h])]

/-! ### What a rejected result keeps -/

/-- What a calibration of engine `j` stands at: its run, its table, and the clusters' counts of rejections. -/
def calView (j : Nat) (s : State) : Option CalRun × SMap W16 × SMap W16 × (Nat → W32) :=
  ((engine s j).cal, (engine s j).oTab, (engine s j).gTab, fun p => (cluster s p).cal.fails)

theorem calView_congr {j : Nat} {s t : State} (he : engine t j = engine s j)
    (hc : ∀ p, (cluster t p).cal.fails = (cluster s p).cal.fails) : calView j t = calView j s := by
  unfold calView; rw [he, funext hc]

theorem calView_modEngine {j e : Nat} {f : Engine → Engine} {s : State}
    (h : (f (engine s e)).cal = (engine s e).cal ∧ (f (engine s e)).oTab = (engine s e).oTab ∧ (f (engine s e)).gTab = (engine s e).gTab) :
    calView j (modEngine e f s) = calView j s := by
  obtain ⟨hcal, ho, hg⟩ := h
  unfold calView
  simp only [cluster_modEngine, engine_modEngine]
  split
  · rename_i hj; rw [hj, hcal, ho, hg]
  · rfl

theorem calView_modCluster {j p : Nat} {f : Cluster → Cluster} {s : State}
    (h : (f (cluster s p)).cal.fails = (cluster s p).cal.fails) : calView j (modCluster p f s) = calView j s := by
  refine calView_congr (engine_modCluster ..) fun q => ?_
  rw [cluster_modCluster]; split
  · rename_i hq; rw [hq, h]
  · rfl

section
variable (j : Nat) (s : State)

@[simp] theorem calView_modCore (k : Nat) (f : Core → Core) : calView j (modCore k f s) = calView j s := rfl
@[simp] theorem calView_setCore (k : Nat) (c : Core) : calView j (setCore s k c) = calView j s := rfl
@[simp] theorem calView_setConv (m : Nat) (c : Conv) : calView j (setConv s m c) = calView j s := rfl
@[simp] theorem calView_modPlane (n : Nat) (f : Plane → Plane) : calView j (modPlane n f s) = calView j s := rfl
@[simp] theorem calView_modBrun (b : Nat) (f : BRun → BRun) : calView j (modBrun b f s) = calView j s := rfl
@[simp] theorem calView_modEntry (b : Nat) (f : BEntry → BEntry) : calView j (modEntry b f s) = calView j s := rfl
@[simp] theorem calView_writeRepair : calView j (writeRepair s) = calView j s := rfl
@[simp] theorem calView_raise (r : ErrRec) : calView j (raise r s) = calView j s :=
  calView_congr (engine_raise ..) fun _ => by rw [cluster_raise]
@[simp] theorem calView_setWin (p off : Nat) (v : W64) : calView j (setWin p off v s) = calView j s := by
  unfold setWin; split
  · exact calView_modCluster rfl
  · rfl
@[simp] theorem calView_calJudge (p : Nat) : calView j (calJudge p s) = calView j s := by
  unfold calJudge; split
  · rfl
  · exact calView_modCluster (by dsimp only; split <;> rfl)
@[simp] theorem calView_calEnded (e : Nat) : calView j (calEnded e s) = calView j s := by
  unfold calEnded; dsimp only; split
  · rfl
  · rw [calView_calJudge]; exact calView_modCluster rfl
@[simp] theorem calView_calDue (p : Nat) : calView j (calDue p s) = calView j s := by
  unfold calDue; split
  · exact calView_modCluster rfl
  · rfl
@[simp] theorem calView_failBindingsOn (bad : Nat → Bool) : calView j (failBindingsOn bad s) = calView j s :=
  forAll_keeps (calView j) _ (fun b t => by
    split
    · exact forAll_keeps (calView j) _ (fun _ _ => calView_modCore ..) _ _
    · rfl) _ _
@[simp] theorem calView_writeEngineMap (k : Nat) : calView j (writeEngineMap k s) = calView j s := calView_modCluster rfl
@[simp] theorem calView_mapEngines (k : Nat) : calView j (mapEngines k s) = calView j s := by
  unfold mapEngines; simp
@[simp] theorem calView_dropCells (b n : Nat) : calView j (dropCells b n s) = calView j s := rfl
@[simp] theorem calView_movePasses (e spare n m : Nat) : calView j (movePasses e spare n m s) = calView j s := by
  unfold movePasses; dsimp only
  rw [calView_modEngine ⟨rfl, rfl, rfl⟩, calView_modEngine ⟨rfl, rfl, rfl⟩]

end

@[simp] theorem calView_failCore (j k cause : Nat) (s : State) : calView j (failCore k cause s) = calView j s := by
  unfold failCore; split
  · rfl
  · rw [calView_calJudge, calView_raise, calView_writeRepair, calView_failBindingsOn]; rfl

@[simp] theorem calView_moveToSpare (j spare n : Nat) (s : State) : calView j (moveToSpare spare n s) = calView j s := by
  unfold moveToSpare; dsimp only
  split
  · rfl
  · split
    · rfl
    · rw [calView_movePasses, calView_dropCells, calView_modBrun]; rfl

@[simp] theorem calView_substitute (j k e : Nat) (s : State) : calView j (substitute k e s) = calView j s := by
  unfold substitute
  split
  · exact calView_failCore ..
  · dsimp only
    rw [calView_calDue, calView_writeRepair, forAll_keeps (calView j) _ (fun n t => calView_moveToSpare ..), calView_raise,
      calView_mapEngines]; rfl

theorem calView_stopEngine (j : Nat) {e : Nat} {s : State} (h : (engine s e).cal = none) : calView j (stopEngine e s) = calView j s := by
  unfold stopEngine; dsimp only
  split
  · exact calView_modEngine ⟨h.symm, rfl, rfl⟩
  · rw [calView_modEngine ⟨?_, rfl, rfl⟩, calView_modPlane]
    rw [engine_modPlane, h]

/-- An engine that fails with no calibration in progress on it (R84, R85). -/
theorem calView_failEngine (j : Nat) {e : Nat} {s : State} (h : (engine s e).cal = none) : calView j (failEngine e s) = calView j s := by
  have hstop := calView_stopEngine j h
  unfold failEngine; dsimp only
  split_ifs
  · rfl
  · exact hstop
  · rw [calView_failCore, hstop]
  · rw [calView_substitute, hstop]
  · rw [forAll_keeps (calView j) _ (fun n t => by split <;> rfl), calView_modCore, hstop]

theorem calView_spareNow (j e : Nat) (cols : List Nat) (s : State) : calView j (spareNow e cols s) = calView j s :=
  forAll_keeps (calView j) _ (fun n t => by dsimp only; split <;> rfl) _ _

theorem calView_requestSparing (j : Nat) {e : Nat} (cols : List Nat) {s : State} (h : (engine s e).cal = none) :
    calView j (requestSparing e cols s) = calView j s := by
  unfold requestSparing; dsimp only
  split
  · exact calView_failEngine j h
  · rw [calView_writeRepair, calView_spareNow, calView_modEngine ⟨rfl, rfl, rfl⟩]

theorem calView_katDue (j k : Nat) (s : State) : calView j (katDue k s) = calView j s := by
  unfold katDue katDueAt dueCores; rw [calView_setWin, calView_modCore]

theorem calView_reselect (j e : Nat) (volts : List (List Int)) (s : State) : calView j (reselect e volts s) = calView j s := by
  unfold reselect
  split
  · exact calView_katDue ..
  · rename_i x _
    have hsamples : ∀ l, calView j (forAll l (takeSample x.1 x.2) s) = calView j s :=
      fun l => forAll_keeps (calView j) _ (fun v t => by unfold takeSample; exact calView_setConv ..) l s
    extract_lets cells n l s1
    split
    · rw [calView_katDue, hsamples]
    · rw [calView_modEngine ⟨rfl, rfl, rfl⟩, hsamples]

/-- The state of a rejection before what follows it: the run over, and counted (R452). -/
def rejected (e : Nat) (s : State) : State :=
  modCluster (clOf (coreOf e)) (fun c => { c with cal := { c.cal with fails := c.cal.fails + 1 } })
    (modEngine e (fun g => { g with cal := none, refNext := none }) s)

theorem engine_rejected (e : Nat) (s : State) : engine (rejected e s) e = { engine s e with cal := none, refNext := none } := by
  unfold rejected; rw [engine_modCluster, engine_modEngine_same]

theorem fails_rejected (e : Nat) (s : State) :
    (cluster (rejected e s) (clOf (coreOf e))).cal.fails = (cluster s (clOf (coreOf e))).cal.fails + 1 := by
  unfold rejected; rw [cluster_modCluster_same, cluster_modEngine]

/-- A rejected calibration keeps every value and counts (R452, R455), whatever follows it. -/
theorem reject_keeps {e : Nat} {f : State → State} {s : State} (hf : calView e (f (rejected e s)) = calView e (rejected e s)) :
    (engine (reject e f s) e).cal = none ∧ (engine (reject e f s) e).oTab = (engine s e).oTab
      ∧ (engine (reject e f s) e).gTab = (engine s e).gTab
      ∧ (cluster (reject e f s) (clOf (coreOf e))).cal.fails = (cluster s (clOf (coreOf e))).cal.fails + 1 := by
  have hview : calView e (reject e f s) = calView e (rejected e s) := by
    show calView e (calEnded e (if s.su.phase = 5 then failEngine e (rejected e s) else f (rejected e s))) = _
    rw [calView_calEnded]
    split
    · exact calView_failEngine e (by rw [engine_rejected])
    · exact hf
  simp only [calView, Prod.mk.injEq] at hview
  obtain ⟨hcal, ho, hg, hfails⟩ := hview
  rw [hcal, ho, hg, engine_rejected]
  exact ⟨rfl, rfl, rfl, (congrFun hfails _).trans (fails_rejected e s)⟩

/-! ### What a measurement leads to -/

section
variable {e : Nat} {q : CalRun} {m : CalMeas} {s : State} (volts : List (List Int))

theorem calOutcome_passed (h : failedCols s e m = []) : calOutcome e q m volts s = accept e (resultOf s e m q.stages) s := by
  unfold calOutcome; simp [h]

theorem calOutcome_again (h : failedCols s e m ≠ []) (hfirst : q.second = false)
    (hfew : ((failedCols s e m).filter (· < 260)).length ≤ 64) :
    calOutcome e q m volts s = modEngine e (fun g => { g with
      cal := some { second := true, failed := failedCols s e m, stages := ((failedCols s e m).map (· / 4)).dedup } }) s := by
  unfold calOutcome; dsimp only
  rw [if_neg (by simpa using h), if_neg (by simp [hfirst]), if_neg (by omega)]

/-- A rejection, for a second failure or for many failing columns at the first, is followed by what keeps the calibration's
values. -/
theorem calOutcome_rejected (h : failedCols s e m ≠ [])
    (hlast : q.second = true ∨ 64 < ((failedCols s e m).filter (· < 260)).length) :
    ∃ f, calOutcome e q m volts s = reject e f s ∧ calView e (f (rejected e s)) = calView e (rejected e s) := by
  unfold calOutcome; dsimp only
  rw [if_neg (by simpa using h)]
  split
  · exact ⟨_, rfl, calView_requestSparing e _ (by rw [engine_rejected])⟩
  · rename_i hfirst
    rw [if_pos (hlast.resolve_left hfirst)]
    exact ⟨_, rfl, calView_reselect ..⟩

end

/-! ### The commands -/

theorem engine_startCalRun (p : Nat) (s : State) (j : Nat) : engine (startCalRun p s) j = engine s j := by
  unfold startCalRun; rw [engine_calJudge, engine_modCluster]

theorem exec_calibrationStart (e : Fin 34272) (s : State) : exec (.calibrationStart e) s = execCalibrationStart e s := rfl

theorem calibrationStart_begins {e : Fin 34272} {s : State} (h : calMayStart s e = true) :
    ∃ t, exec (.calibrationStart e) s = .next t
      ∧ engine t e = { engine s e with cal := some { second := false, failed := [], stages := [] } } := by
  rw [exec_calibrationStart]; unfold execCalibrationStart
  rw [if_neg (by simp [h])]
  refine ⟨_, rfl, ?_⟩
  rw [engine_modEngine_same]
  split
  · rw [engine_startCalRun]
  · rfl

/-- What CALIBRATION_START and CALIBRATION_MEASUREMENT_COMPLETE do (R448, R449, R452, R454). -/
theorem calibrates (e : Fin 34272) (s : State) : Calibrates e s := by
  refine ⟨?refused, ?begins, ?idle, ?measured, fun q m volts t hcal ht => ?judged⟩
  case refused =>
    intro h; rw [exec_calibrationStart]; unfold execCalibrationStart; rw [if_pos (by simp [h])]
  case begins =>
    intro h
    obtain ⟨t, hexec, hengine⟩ := calibrationStart_begins h
    exact ⟨t, hexec, by rw [hengine], by rw [hengine]⟩
  case idle =>
    intro h volts
    show execCalibrationMeasurementComplete e volts s = _
    unfold execCalibrationMeasurementComplete; rw [h]
  case measured =>
    intro q volts h
    show execCalibrationMeasurementComplete e volts s = _
    unfold execCalibrationMeasurementComplete; rw [h]
  case judged =>
    subst ht
    refine ⟨fun hpass hheld => ?held, fun hpass hunheld => ?unheld, fun hfail hfirst hfew => ?again, fun hfail hlast => ?rejected⟩
    case held =>
      rw [calOutcome_passed volts hpass, accept_held _ hheld, engine_calEnded, engine_resultWaits]
      exact ⟨rfl, rfl, _, rfl, rfl, fun _ hms h263 hcol => newTable_measured m hms h263 hcol⟩
    case unheld =>
      rw [calOutcome_passed volts hpass, accept_unheld _ hunheld, engine_calEnded,
        engine_ownWindow (by rw [engine_resultWaits]), engine_resultWaits]
      refine ⟨rfl, rfl, rfl, fun n hn hne => ?_, fun col hms h263 hcol => ?_⟩
      · rw [plane_calEnded]
        have heval := plane_ownWindow (s := resultWaits e (resultOf s e m q.stages) s) hn hne
        exact ⟨heval.sums.1, fun d hd => (heval.trimmed d hd).1⟩
      · obtain ⟨ho, hg⟩ := look_tabMaps (newTable_length s e m) hcol
        rw [newTable_measured m hms h263 hcol] at ho hg
        rw [withResult_oTab, withResult_gTab, resultOf_table]
        exact ⟨ho, hg⟩
    case again =>
      rw [calOutcome_again volts hfail hfirst hfew, engine_modEngine_same]; exact ⟨rfl, rfl⟩
    case rejected =>
      obtain ⟨f, heq, hf⟩ := calOutcome_rejected volts hfail hlast
      rw [heq]; exact reject_keeps hf

end Sys2Proof.Machine
end

section
/-! SUPPORT. Known-answer tests (R488 to R492): when one falls due, is forced and starts, and what its results lead to. -/

open Sys2Proof Sys2Proof.Machine Sys2Proof.Spec

namespace Sys2Proof.Machine

/-! ### TEST_DUE, TEST_FORCE and KAT_START -/

@[simp] theorem core_dueCores (p : Nat) (s : State) (k : Nat) : core (dueCores p s) k = core s k := core_setWin ..

theorem core_katDueAt (k : Nat) (beat : W64) (s : State) : (core (katDueAt k beat s) k).kat.due = some beat := by
  unfold katDueAt; rw [core_dueCores, core_modCore_same]

theorem exec_testDue (k : Fin 2016) (s : State) : exec (.testDue k) s = execTestDue k s := rfl

theorem testDue_waits {k : Fin 2016} {s : State} (h : tested s k = false ∨ (core s k).kat.due ≠ none
    ∨ s.fab.beat.toNat < (core s k).kat.lastDone.toNat + Config.testInterval) : exec (.testDue k) s = .next s := by
  rw [exec_testDue]; unfold execTestDue; dsimp only
  rw [if_pos]
  rcases h with h | h | h
  · exact .inl (by simp [h])
  · exact .inr (.inl (Option.isSome_iff_ne_none.mpr h))
  · exact .inr (.inr h)

theorem testDue_falls {k : Fin 2016} {s : State} (htested : tested s k = true) (hdue : (core s k).kat.due = none)
    (hbeat : (core s k).kat.lastDone.toNat + Config.testInterval ≤ s.fab.beat.toNat) :
    exec (.testDue k) s = .next (katDueAt k ((core s k).kat.lastDone + BitVec.ofNat 64 Config.testInterval) s) := by
  rw [exec_testDue]; unfold execTestDue; dsimp only
  rw [if_neg]
  rintro (h | h | h)
  · simp [htested] at h
  · simp [hdue] at h
  · omega

/-- A core's forced test marked (R491). -/
def markForced (k : Nat) (s : State) : State := modCore k (fun q => { q with kat := { q.kat with forced := true } }) s

/-- A core's request for the stretch of its test (R491). -/
def askForced (k : Nat) (s : State) : State := requestStretch k 50 (markForced k s)

theorem exec_testForce_unbound {k : Fin 2016} {s : State} (h : boundOf s k = none) : exec (.testForce k) s = .next s := by
  show execTestForce k s = _
  unfold execTestForce; rw [h]

theorem exec_testForce_bound {k : Fin 2016} {s : State} {b : Nat} (h : boundOf s k = some b) :
    exec (.testForce k) s = .next (
      if !tested s k ∨ !overdue s k ∨ !beforeBoundary s b ∨ forcedAsk s k ∨ inserted s then s
      else when (!(core s k).kat.forced) (bump (clOf k) 0xB10 1) (askForced k s)) := by
  show execTestForce k s = _
  unfold execTestForce; rw [h]; rfl

/-- A 32-bit counter of an enabled cluster's window after it is raised. -/
theorem winWord_bump {p off n : Nat} {s : State} (hen : enabledCl s p = true) (h32 : win64.contains off = false) :
    look winReset (cluster (bump p off n s) p).win off
      = BitVec.ofNat 64 (((look winReset (cluster s p).win off).toNat + n) % 2 ^ 32) := by
  unfold bump
  rw [if_pos hen, cluster_modCluster_same]
  dsimp only
  rw [look_put_same, if_neg (by simp only [h32]; decide)]

/-- The forcing counter rises with the first request for a due test, and not with a later one (R491). -/
theorem forced_count {k : Nat} {s : State} (hen : enabledCl s (clOf k) = true) :
    look winReset (cluster (when (!(core s k).kat.forced) (bump (clOf k) 0xB10 1) (askForced k s)) (clOf k)).win 0xB10 =
      if (core s k).kat.forced then look winReset (cluster s (clOf k)).win 0xB10
      else BitVec.ofNat 64 (((look winReset (cluster s (clOf k)).win 0xB10).toNat + 1) % 2 ^ 32) := by
  cases hforced : (core s k).kat.forced with
  | true => rfl
  | false => exact winWord_bump (s := askForced k s) hen (by decide)

theorem core_askForced (k : Nat) (s : State) : (core (askForced k s) k).kat.forced = true := by
  show (core (markForced k s) k).kat.forced = true
  unfold markForced; rw [core_modCore_same]

/-- A request for a forced test, counted or not, marks the test and asks for 50 beats. -/
theorem forceAsked (first : Bool) (k : Nat) (s : State) :
    (core (when first (bump (clOf k) 0xB10 1) (askForced k s)) k).kat.forced = true
      ∧ (when first (bump (clOf k) 0xB10 1) (askForced k s)).fab.own = s.fab.own ++ [{ core := k, beat := s.fab.beat, len := 50 }] := by
  unfold when
  split
  · rw [core_bump, bump_fab]; exact ⟨core_askForced k s, rfl⟩
  · exact ⟨core_askForced k s, rfl⟩

theorem exec_katStart (k : Fin 2016) (s : State) : exec (.katStart k) s =
    .next (if katMayStart s k ∧ katFirst s k then modCore k (fun q => { q with kat := { q.kat with running := true } }) s else s) := rfl

theorem exec_katComplete (k : Fin 2016) (d : KatResult) (s : State) :
    exec (.katComplete k d) s = .next (if (core s k).kat.running then katEnd k d s else s) := rfl

/-! ### One failed part (R492) -/

/-- TEST_FAIL of a part that passed its rerun has severity 0 and these words. -/
theorem raised_testFail (k n : Nat) {unit : Nat} (hunit : unit < 2 ^ 32) (engine : Option Nat) (s : State) :
    Raised 0x40 0 unit (n % 2 ^ 32) ((core s k).kat.cleanTime.toNat / 32768 % 2 ^ 32) s (testFail k unit n engine false s) := by
  have hwords : ∀ r : ErrRec, r.typ = 0x40 → r.severity = 0 → r.d0 = BitVec.ofNat 32 unit → r.d1 = BitVec.ofNat 32 n →
      r.d2 = BitVec.ofNat 32 ((core s k).kat.cleanTime.toNat / 32768 % 2 ^ 32) →
      Raised 0x40 0 unit (n % 2 ^ 32) ((core s k).kat.cleanTime.toNat / 32768 % 2 ^ 32) s (raise r s) := by
    intro r htyp hsev h0 h1 h2
    have h := raised_raise (r := r) (by rw [hsev]; decide) s
    rw [htyp, hsev, h0, h1, h2, BitVec.toNat_ofNat, BitVec.toNat_ofNat, BitVec.toNat_ofNat, Nat.mod_eq_of_lt hunit,
      Nat.mod_mod] at h
    exact h
  unfold testFail
  cases engine <;> exact hwords _ rfl rfl rfl rfl rfl

theorem core_testFail (k unit n : Nat) (engine : Option Nat) (hard : Bool) (s : State) (j : Nat) :
    core (testFail k unit n engine hard s) j = core s j := core_raise ..

theorem testFail_hw (k unit n : Nat) (engine : Option Nat) (hard : Bool) (s : State) : (testFail k unit n engine hard s).hw = s.hw :=
  raise_hw ..

/-- A failed part whose rerun passed is recorded, and nothing else. -/
theorem partFailed_soft (k unit n : Nat) (engine : Option Nat) (s : State) :
    partFailed k unit n engine false s = testFail k unit n engine false s := rfl

/-- What the tests of a core stand at, and whether it has failed. -/
def testView (j : Nat) (s : State) : Kat × Bool := ((core s j).kat, (core s j).failed)

theorem testView_failBindingsOn (j : Nat) (bad : Nat → Bool) (s : State) : testView j (failBindingsOn bad s) = testView j s :=
  forAll_keeps (testView j) _ (fun b t => by
    split
    · refine forAll_keeps (testView j) _ (fun k u => ?_) _ _
      unfold testView; rw [core_modCore]; split
      · rename_i hj; rw [hj]
      · rfl
    · rfl) _ _

/-- A core that fails keeps what its tests stand at. -/
theorem testView_failCore (k cause : Nat) (s : State) : testView k (failCore k cause s) = ((core s k).kat, true) := by
  unfold failCore
  split
  · rename_i h; unfold testView; rw [h]
  · have hview : ∀ p r x, testView k (calJudge p (raise r (writeRepair x))) = testView k x := by
      intro p r x; unfold testView; rw [core_calJudge, core_raise, core_writeRepair]
    rw [hview, testView_failBindingsOn]
    show testView k (modCore k (fun c => { c with failed := true }) s) = _
    unfold testView; rw [core_modCore_same]

/-- A failed attention or path test whose rerun failed fails the core (R492). -/
theorem partFailed_hard (k unit n : Nat) (s : State) : testView k (partFailed k unit n none true s) = ((core s k).kat, true) := by
  show testView k (failCore k 2 (testFail k unit n none true s)) = _
  rw [testView_failCore, core_testFail]

/-- A failed attention or path test of a core that has failed leaves it so. -/
theorem partFailed_failed {k : Nat} {q : Kat} {s : State} (unit n : Nat) (hard : Bool) (h : testView k s = (q, true)) :
    testView k (partFailed k unit n none hard s) = (q, true) := by
  obtain ⟨hkat, -⟩ := Prod.mk.inj h
  cases hard with
  | false => show testView k (testFail k unit n none false s) = _; unfold testView; rw [core_testFail]; exact h
  | true => rw [partFailed_hard, hkat]

/-! ### The end of a test -/

/-- What a core's tests stand at after one: `clean` where no part failed its first run, `done` where none failed its rerun (R490,
R492). -/
def katAfter (clean done : Bool) (s : State) (q : Kat) : Kat :=
  { q with
    running := false,
    due := if done then none else q.due,
    forced := if done then false else q.forced,
    late := if done then false else q.late,
    lastDone := if done then s.fab.beat else q.lastDone,
    cleanBeat := if clean then s.fab.beat else q.cleanBeat,
    cleanTime := if clean then s.lar.calendar else q.cleanTime }

/-- The state of a test's end before its failed parts are recorded: the counters and summaries of Table 17.5 are written. -/
def testEnded (k fails : Nat) (clean done : Bool) (s : State) : State :=
  let s1 := bump (clOf k) 0xB04 fails (modCore k (fun q => { q with kat := katAfter clean done s q.kat }) s)
  let s2 := when done (bump (clOf k) 0xB00 1) s1
  dueCores (clOf k) (setWin (clOf k) 0xB08 (oldestClean s2 (clOf k)) s2)

/-- The failed attention test, and then the failed path test, recorded. -/
def answersJudged (k a1 p1 a2 p2 : Nat) (s : State) : State :=
  let s5 := if a1 = 0 then s else partFailed k 1 (if a2 = 0 then a1 else a2) none (a2 != 0) s
  if p1 = 0 then s5 else partFailed k 2 (if p2 = 0 then p1 else p2) none (p2 != 0) s5

/-- How many of a test's runs of its three parts failed. -/
def katFails (e1 e2 : List (Nat × List Nat)) (a1 p1 a2 p2 : Nat) : Nat :=
  bit !e1.isEmpty + bit !e2.isEmpty + bit (a1 != 0) + bit (p1 != 0) + bit (a2 != 0) + bit (p2 != 0)

theorem katOutcome_eq (k : Nat) (e1 e2 : List (Nat × List Nat)) (a1 p1 a2 p2 : Nat) (s : State) :
    katOutcome k e1 e2 a1 p1 a2 p2 s = answersJudged k a1 p1 a2 p2 (forAll e1 (engineResult k e2)
      (testEnded k (katFails e1 e2 a1 p1 a2 p2) (e1.isEmpty && a1 == 0 && p1 == 0) (e2.isEmpty && a2 == 0 && p2 == 0) s)) := rfl

section
variable (k fails : Nat) (clean done : Bool) (s : State)

theorem core_testEnded : core (testEnded k fails clean done s) k
    = { core s k with kat := katAfter clean done s (core s k).kat } := by
  unfold testEnded when; dsimp only
  rw [core_dueCores, core_setWin]
  split
  · rw [core_bump, core_bump, core_modCore_same]
  · rw [core_bump, core_modCore_same]

theorem offCores_setWin (p off : Nat) (v : W64) : offCores (setWin p off v s) = offCores s := by unfold setWin; split <;> rfl

theorem offCores_testEnded : offCores (testEnded k fails clean done s) = offCores s := by
  unfold testEnded dueCores; dsimp only
  rw [offCores_setWin, offCores_setWin, offCores_when (offCores_bump ..), offCores_bump, offCores_modCore]

theorem testEnded_hw_engines : (testEnded k fails clean done s).hw.engines = s.hw.engines := by
  unfold testEnded dueCores when; dsimp only
  rw [setWin_hw_engines, setWin_hw_engines]
  split <;> simp

end

theorem below7_of_offCores {s t : State} (h : offCores t = offCores s) : below7 t = below7 s :=
  (congrArg (fun x : State => x.su.phase != 7) h :)

/-- TEST_FAIL raised at the end of a test counts from the test's state before it. -/
theorem raised_testEnded {typ sev d0 d1 d2 fails k : Nat} {clean done : Bool} {s t : State}
    (h : Raised typ sev d0 d1 d2 (testEnded k fails clean done s) t) : Raised typ sev d0 d1 d2 s t := by
  have hoff := offCores_testEnded k fails clean done s
  exact raised_congr h (err_of_offCores hoff).symm (below7_of_offCores hoff).symm rfl

theorem forAll_nil {α : Type} (f : α → State → State) (s : State) : forAll [] f s = s := rfl
theorem forAll_one {α : Type} (a : α) (f : α → State → State) (s : State) : forAll [a] f s = f a s := rfl

/-- An engine whose rerun passed is recorded, and nothing else (R492). -/
theorem engineResult_passed (k : Nat) (x : Nat × List Nat) (s : State) :
    engineResult k [] x s = testFail k 0 x.2.length (some x.1) false s := rfl

theorem answersJudged_none (k a2 p2 : Nat) (s : State) : answersJudged k 0 0 a2 p2 s = s := by
  unfold answersJudged; rw [if_pos rfl, if_pos rfl]

theorem answersJudged_attention {k a1 : Nat} (h : a1 ≠ 0) (s : State) :
    answersJudged k a1 0 0 0 s = testFail k 1 a1 none false s := by
  unfold answersJudged; rw [if_pos rfl, if_neg h, if_pos rfl]; exact partFailed_soft ..

/-- A test with no failed part (R490). -/
theorem katOutcome_clean (k : Nat) (s : State) : katOutcome k [] [] 0 0 0 0 s = testEnded k 0 true true s := by
  rw [katOutcome_eq, answersJudged_none, forAll_nil]; rfl

/-- The attention test alone fails at first and passes its rerun. -/
theorem katOutcome_attention {k a1 : Nat} (h : a1 ≠ 0) (s : State) :
    katOutcome k [] [] a1 0 0 0 s = testFail k 1 a1 none false (testEnded k (katFails [] [] a1 0 0 0) false true s) := by
  have hclean : (([] : List (Nat × List Nat)).isEmpty && a1 == 0 && (0 : Nat) == 0) = false := by simp [h]
  rw [katOutcome_eq, answersJudged_attention h, forAll_nil, hclean]; rfl

/-- The attention test fails twice: the core has failed, and its test is still due (R492). -/
theorem katOutcome_attention_hard {k a1 a2 : Nat} (e2 : List (Nat × List Nat)) (p1 p2 : Nat) (h1 : a1 ≠ 0) (h2 : a2 ≠ 0) (s : State) :
    testView k (katOutcome k [] e2 a1 p1 a2 p2 s) = (katAfter false false s (core s k).kat, true) := by
  have hflags : (([] : List (Nat × List Nat)).isEmpty && a1 == 0 && p1 == 0) = false
      ∧ (e2.isEmpty && a2 == 0 && p2 == 0) = false := by simp [h1, h2]
  rw [katOutcome_eq, hflags.1, hflags.2]
  unfold answersJudged
  rw [if_neg h1, if_neg h2, show (a2 != 0) = true by simpa using h2]
  have hfailed := partFailed_hard k 1 a2 (testEnded k (katFails [] e2 a1 p1 a2 p2) false false s)
  rw [core_testEnded] at hfailed
  dsimp only
  split
  · exact hfailed
  · exact partFailed_failed _ _ _ hfailed

/-- One engine alone fails at first and passes its rerun. -/
theorem katOutcome_engine (k i : Nat) (cols : List Nat) (s : State) : katOutcome k [(i, cols)] [] 0 0 0 0 s
    = testFail k 0 cols.length (some i) false (testEnded k 1 false true s) := by
  rw [katOutcome_eq, answersJudged_none, forAll_one, engineResult_passed]; rfl

/-- What TEST_DUE, TEST_FORCE, KAT_START and KAT_COMPLETE do (R488 to R492). -/
theorem tests (k : Fin 2016) (s : State) : Tests k s := by
  refine ⟨testDue_waits, fun htested hdue hbeat => ?due, exec_testForce_unbound, fun b hb => ⟨fun h => ?noForce, ?force⟩,
    fun h => ?noStart, fun h => ?start, fun d => ⟨fun h => ?noTest, ?complete⟩,
    fun e1 e2 a1 p1 a2 p2 t hrun ht => ?outcome⟩
  case due => exact ⟨_, testDue_falls htested hdue hbeat, core_katDueAt ..⟩
  case noForce =>
    rw [exec_testForce_bound hb, if_pos]
    simpa using h
  case force =>
    intro htested hover hbefore hask hins
    rw [exec_testForce_bound hb, if_neg (by simp [htested, hover, hbefore, hask, hins])]
    obtain ⟨hforced, hown⟩ := forceAsked (!(core s k).kat.forced) k s
    exact ⟨_, rfl, hforced, hown, forced_count⟩
  case noStart => rw [exec_katStart, if_neg (by simpa using h)]
  case start =>
    rw [exec_katStart, if_pos (by simpa using h)]
    exact ⟨_, rfl, by rw [core_modCore_same], rfl, memKept_of_offCores (offCores_modCore ..)⟩
  case noTest => rw [exec_katComplete, if_neg (by rw [h]; decide)]
  case complete =>
    intro e1 a1 p1 hrun he ha hp
    subst he ha hp
    rw [exec_katComplete, if_pos hrun]; rfl
  case outcome =>
    subst ht
    refine ⟨?clean, ?attention, ?core, ?engine⟩
    case clean =>
      rintro rfl rfl rfl rfl rfl rfl
      rw [katOutcome_clean, core_testEnded]
      exact ⟨rfl, rfl, rfl, rfl, rfl, err_of_offCores (offCores_testEnded ..)⟩
    case attention =>
      rintro rfl rfl ha rfl rfl rfl
      have hraised := raised_testFail k a1 (unit := 1) (by decide) none (testEnded k (katFails [] [] a1 0 0 0) false true s)
      rw [katOutcome_attention ha, core_testFail, core_testEnded]
      rw [core_testEnded] at hraised
      exact ⟨rfl, rfl, raised_testEnded hraised⟩
    case core =>
      rintro rfl ha1 ha2
      obtain ⟨hkat, hfailed⟩ := Prod.mk.inj (katOutcome_attention_hard e2 p1 p2 ha1 ha2 s (k := k))
      rw [hkat]; exact ⟨hfailed, rfl⟩
    case engine =>
      rintro i cols rfl rfl rfl rfl rfl rfl
      have hraised := raised_testFail k cols.length (unit := 0) (by decide) (some i) (testEnded k 1 false true s)
      rw [katOutcome_engine, core_testFail, core_testEnded, testFail_hw, testEnded_hw_engines]
      rw [core_testEnded] at hraised
      exact ⟨rfl, rfl, rfl, rfl, raised_testEnded hraised⟩

end Sys2Proof.Machine

/-- Settles O58: windows' ends, calibrations and tests, command by command. -/
theorem calibrationAndTests : Obligations.CalibrationAndTests := by
  unfold Obligations.CalibrationAndTests
  exact ⟨windowEnds, calibrates, tests⟩
end

section
/-! SUPPORT. A QUANT that issues while no layer step is open on its core (R124, R125, R181): only an open layer step marks the slots that
it carries (R150), so this QUANT marks none. -/

open Sys2Proof Sys2Proof.Machine Sys2Proof.Spec

namespace Sys2Proof.Machine

/-! ### What leaves a core's layer step alone -/

theorem lsOf_modCore {k : Nat} {f : Core → Core} (h : ∀ q, (f q).ls = q.ls) (j : Nat) (s : State) :
    lsOf (modCore k f s) j = lsOf s j := by
  unfold lsOf
  rw [core_modCore]
  split
  · next hj => rw [h, hj]
  · rfl

@[simp] theorem lsOf_bump (p off n j : Nat) (s : State) : lsOf (bump p off n s) j = lsOf s j := by simp [lsOf]
@[simp] theorem lsOf_tickFresh (j : Nat) (s : State) : lsOf (tickFresh s) j = lsOf s j := rfl
@[simp] theorem lsOf_raise (r : ErrRec) (j : Nat) (s : State) : lsOf (raise r s) j = lsOf s j := by simp [lsOf]

@[simp] theorem lsOf_endWait (k off j : Nat) (s : State) : lsOf (endWait k off s) j = lsOf s j := by simp [endWait]

@[simp] theorem lsOf_openWait (k j : Nat) (s : State) : lsOf (openWait k s) j = lsOf s j := by
  unfold openWait; dsimp only; split <;> simp

@[simp] theorem lsOf_endWaits (k : Nat) (ts : List Nat) (j : Nat) (s : State) : lsOf (endWaits k ts s) j = lsOf s j := by
  unfold endWaits; dsimp only
  rw [lsOf_modCore fun q => by rfl]
  unfold when
  split_ifs <;> simp

@[simp] theorem lsOf_advance (c : Iss) (j : Nat) (s : State) : lsOf (advance c s) j = lsOf s j := by
  refine lsOf_modCore (fun q => ?_) j s
  unfold setPtr; split_ifs <;> rfl

/-- Only a record of an open layer step marks slots as carried. -/
theorem markCarried_closed {c : Iss} {s : State} (h : (lsOf s c.k).opened = false) : markCarried c s = s :=
  if_neg (by simp [h])

/-- Outside a layer step, issue leaves that of every core as it is. -/
theorem lsOf_begun_closed {c : Iss} {s : State} (h : (lsOf s c.k).opened = false) (j : Nat) : lsOf (begun c s) j = lsOf s j := by
  unfold begun
  rw [lsOf_advance, markCarried_closed (by simpa using h)]
  simp

/-! ### The slots that a layer step carries -/

/-- The slots marked as carried by the layer step of core `j`. -/
def carriedOn (j : Nat) (s : State) : BitVec 4 := (lsOf s j).carried

theorem carriedOn_modLs {f : LayerRun → LayerRun} (h : ∀ q, (f q).carried = q.carried) (k j : Nat) (s : State) :
    carriedOn j (modLs k f s) = carriedOn j s := by
  unfold carriedOn lsOf modLs
  rw [core_modCore]
  split
  · next hj => rw [h, hj]
  · rfl

@[simp] theorem carriedOn_bump (p off n j : Nat) (s : State) : carriedOn j (bump p off n s) = carriedOn j s := by simp [carriedOn]
@[simp] theorem carriedOn_raise (r : ErrRec) (j : Nat) (s : State) : carriedOn j (raise r s) = carriedOn j s := by simp [carriedOn]

@[simp] theorem carriedOn_implicate (k : Nat) (slot : Option Nat) (j : Nat) (s : State) :
    carriedOn j (implicate k slot s) = carriedOn j s := by
  cases slot with
  | none => rfl
  | some i => exact carriedOn_modLs (fun q => by rfl) k j s

@[simp] theorem carriedOn_putBlock (k v rb : Nat) (z : QBlock) (j : Nat) (s : State) :
    carriedOn j (putBlock k v rb z s) = carriedOn j s :=
  carriedOn_modLs (fun q => by rfl) k j s

theorem readWordsAt_staging {o : Nat} (h : opSpace o = 1) (k b i n : Nat) (s : State) : (readWordsAt k b o i n s).2 = s := by
  unfold readWordsAt readAt; rw [if_pos h]

theorem carriedOn_quantVector {c : Iss} (hstage : opSpace (rOpA c.x) = 1) (slot rec j : Nat) (s : State) :
    carriedOn j (quantVector c slot rec s) = carriedOn j s := by
  unfold quantVector; dsimp only
  rw [readWordsAt_staging hstage]
  simp only [apply_ite (carriedOn j), carriedOn_raise, carriedOn_implicate, carriedOn_bump, ite_self]
  rw [carriedOn_modLs fun q => by rfl, carriedOn_putBlock]

theorem carriedOn_quant {c : Iss} (hstage : opSpace (rOpA c.x) = 1) (j : Nat) (s : State) :
    carriedOn j (quant c s) = carriedOn j s := by
  have hblock : carriedOn j (quantBlockOf c s) = carriedOn j s := by
    unfold quantBlockOf
    split
    · exact carriedOn_putBlock ..
    · split
      · rfl
      · exact carriedOn_quantVector hstage ..
  unfold quant judgeClamps when
  dsimp only
  split
  · rw [carriedOn_bump, hblock]
  · exact hblock

/-- A QUANT from staging, issued outside a layer step, marks no slot as carried. -/
theorem quant_closed_marks_none {c : Iss} {k : Fin 2016} {r : RecRead} {s t : State} (hreads : Reads c k r s)
    (hissued : Issued 0x10 c r s) (hclosed : (lsOf s c.k).opened = false) (hstage : opSpace (rOpA c.x) = 1)
    (ht : exec (.quant k r) s = .next t) : (lsOf t k).carried = (lsOf s k).carried := by
  have hexec : exec (.quant k r) s = .next (quant c (begun c s)) := congrArg Host.Outcome.next (issue_issued hreads hissued quant)
  obtain rfl : quant c (begun c s) = t := by simpa [hexec] using ht
  exact (carriedOn_quant hstage k (begun c s)).trans (congrArg LayerRun.carried (lsOf_begun_closed hclosed k))

/-! ### Such a QUANT -/

/-- An op record of layer 0 from its opcode, beat, index and the fields from OPND_A on (Table 6.4). -/
def plainRecord (op beat seq fields : Nat) : Nat := op + 2 ^ 32 * beat + 2 ^ 128 * fields + 2 ^ 240 * seq

/-- QUANT of row block 0 and vector 0 from staging, for slot 0, at beat 0. -/
def firstQuant : BitVec 256 := BitVec.ofNat 256 (plainRecord 0x10 0 0 (2 ^ 28 + 2 ^ 96))

/-- The one layer: W and N 32, η 1.0, σ_min 2^-14, B and P 1, and no parameter data. -/
def narrowLayer : List Byte :=
  leBytes 64 (packBits ([(32, 32), (32, 32), (0x3C00, 16), (0x0400, 16), (0, 32), (1, 16), (1, 16), (absent, 32), (absent, 32), (0, 32)]
    ++ [absent, absent, absent, 0, absent, absent].map (·, 32)))

/-- A plan of one core and this layer, whose narrow recipe has the QUANT before its LSTEP; the CRC-32 is computed outside the model. -/
def quantFirstPlan : List Byte :=
  leBytes 64 (packBits [(0x5350414E, 32), (1, 16), (1, 16), (1, 32), (2, 32), (64, 32), (128, 32), (384, 32), (512, 32), (528, 32),
    (0x7215CA11, 32)])
    ++ narrowLayer ++ leBytes 64 (packBits [(192, 32), (3, 32), (288, 32), (3, 32)])
    ++ leBytes 32 firstQuant.toNat ++ leBytes 32 (plainRecord 1 0 1 0) ++ leBytes 32 (plainRecord 2 2 2 0)
    ++ leBytes 32 (plainRecord 1 0 0 0) ++ leBytes 32 (plainRecord 1 2 1 0) ++ leBytes 32 (plainRecord 2 4 2 0)
    ++ leBytes 128 (packBits [(4, 8), (0, 120), (32000, 32), (0, 352), (1, 16), (1, 8), (1, 8)]) ++ leBytes 16 0

/-- The checks of binding enable accept it: no check asks for an LSTEP before a QUANT (Table 6.7). -/
theorem quantFirstPlan_accepted : checkImage quantFirstPlan 528 (regionsOf quantFirstPlan 0 [0] 0) = none := by decide +kernel

/-- Core 0 runs this plan as binding 1, with no layer step open, and record 0 in slot 0 feeds one token. -/
def quantFirst : State :=
  { State.reset with
    ten := { State.reset.ten with
      entries := [(1, { st := 3, cores := 1 })]
      runs := [(1, { plan := quantFirstPlan, coreMap := [0], slots := [some 0, none, none, none] })] }
    srv := { State.reset.srv with run := [(0, { fed := 1 })] }
    hw := { clusters := [(0, { st := 0, logical := 0, usable := 18 })],
            cores := [(0, { usable := true, logical := 0, inUse := 0xFFFF, bound := some (1, 0), recipes := true })] } }

/-- The core's reading of the record. -/
def firstRead : RecRead := { idx := 0, wide := false, bits := firstQuant, bad := false }

/-- The record as plan core 0 of binding 1 issues it. -/
def firstIss : Iss := { k := 0, b := 1, i := 0, x := firstQuant.toNat, idx := 0, wide := false }

theorem reads_quantFirst : Reads firstIss 0 firstRead quantFirst := by
  refine ⟨rfl, ?_, ?_, rfl, rfl, rfl, rfl⟩ <;> decide +kernel

theorem issued_quantFirst : Issued 0x10 firstIss firstRead quantFirst := by
  refine ⟨⟨⟨?_, ?_, ?_, ?_⟩, ?_, ?_, ?_, ?_⟩, rfl⟩ <;> decide +kernel

/-- The token of slot 0 uses the vector, 32 channels wide. -/
theorem vector_quantFirst :
    vecUsed quantFirst firstIss (rImm firstIss.x) = true ∧ opSpace (rOpA firstIss.x) = 1 ∧ vecSlot firstIss = some 0
      ∧ slotRec quantFirst firstIss.b 0 = some 0
      ∧ min 256 (lyW (firstIss.plan quantFirst) (rLayer firstIss.x) - 256 * rRow firstIss.x) % 32 = 0 := by
  decide +kernel

/-- No layer step is open on the core, and none has marked a slot. -/
theorem closed_quantFirst : (lsOf quantFirst 0).opened = false ∧ (lsOf quantFirst 0).carried = 0 := by decide +kernel

end Sys2Proof.Machine

/-- Refutes O51: its first part says that a QUANT of a used vector marks the slot as carried in every state in which it issues, but a
slot is marked only while a layer step is open on the core (`markCarried`). In `quantFirst` the recipe has a QUANT before its
LSTEP, which the checks of binding enable accept (`quantFirstPlan_accepted`): it issues, and no slot is marked. -/
theorem not_quantAndPass : ¬ Obligations.QuantAndPass := by
  unfold Obligations.QuantAndPass
  rintro ⟨hrecords, -⟩
  obtain ⟨hquant, -, -⟩ := hrecords 0 firstRead firstIss quantFirst reads_quantFirst
  obtain ⟨-, hfed⟩ := hquant issued_quantFirst _ _ _ _ _ _ rfl rfl rfl rfl rfl rfl
  obtain ⟨hused, hstage, hslot, hrec, hwidth⟩ := vector_quantFirst
  obtain ⟨t, ht, -, -, -, -, hmarked, -⟩ := hfed 0 0 hused (.inl hstage) hslot hrec hwidth
  obtain ⟨hclosed, hnone⟩ := closed_quantFirst
  have hunmarked := quant_closed_marks_none reads_quantFirst issued_quantFirst hclosed hstage ht
  have hclash : (0 : BitVec 4) = 0 ||| slotBit 0 := by
    rw [← hnone]; exact hunmarked.symm.trans hmarked
  exact absurd hclash (by decide)
end

section
/-! SUPPORT. A STEPEND whose step boundary meets a token buffer in a frame that the binding does not own (R265, R352): the step that
begins there has ended at once (R62). -/

open Sys2Proof Sys2Proof.Machine Sys2Proof.Spec

namespace Sys2Proof.Machine

/-- A STEPEND issued once the last layer step of its core has been judged (R187, R265). -/
theorem exec_stepend {c : Iss} {k : Fin 2016} {r : RecRead} {s : State} (hreads : Reads c k r s) (hissued : Issued 2 c r s)
    (hjudged : stepJudged c s = true) : exec (.stepend k r) s = .next (stepEnd c (begun c s)) := by
  show Host.Outcome.next (issueTo 2 false stepJudged stepEnd k r s) = _
  rw [issueTo_ready hreads hissued.1, hjudged, runRecord_issued hreads hissued]; rfl

/-- Core 0 at the STEPEND of the plan of `quantFirst`, with record 0 in slot 0: it is ACTIVE and has a token to feed, and frame 40, its
token buffer, has no owner. -/
def strayTokens : State :=
  { quantFirst with
    ten := { quantFirst.ten with runs := [(1, { brun quantFirst 1 with slots := [some 0, none, none, none] })] }
    srv := { quantFirst.srv with
      ctx := [(0, { st := 2, inSlot := true, tenant := 1, inputEnd := 1, genLeft := 8, limit := 64, tokbuf := 40 })], run := [] }
    fab := { quantFirst.fab with sched := 2, beat := 2 }
    hw := { quantFirst.hw with cores := [(0, { core quantFirst 0 with ptr := 2 })] } }

/-- The core's reading of the STEPEND. -/
def stependRead : RecRead := { idx := 2, wide := false, bits := BitVec.ofNat 256 (plainRecord 2 2 2 0), bad := false }

/-- The STEPEND as plan core 0 of binding 1 issues it. -/
def stependIss : Iss := { k := 0, b := 1, i := 0, x := stependRead.bits.toNat, idx := 2, wide := false }

theorem reads_strayTokens : Reads stependIss 0 stependRead strayTokens := by
  refine ⟨rfl, ?_, ?_, rfl, rfl, rfl, rfl⟩ <;> decide +kernel

theorem issued_strayTokens : Issued 2 stependIss stependRead strayTokens := by
  refine ⟨⟨⟨?_, ?_, ?_, ?_⟩, ?_, ?_, ?_, ?_⟩, rfl⟩ <;> decide +kernel

/-- The binding is ENABLED, no layer step of the core is open, and the frame of the token buffer is not the binding's. -/
theorem boundary_strayTokens : (entry strayTokens 1).st = 3 ∧ stepJudged stependIss strayTokens = true
    ∧ owner strayTokens (ctx strayTokens 0).tokbuf.toNat ≠ .tenant 1 := by decide +kernel

/-- The frame owner check at the start of the new step ends it (R352, R62). -/
theorem stepEnd_strayTokens_dead : (brun (stepEnd stependIss (begun stependIss strayTokens)) 1).dead = true := by decide +kernel

end Sys2Proof.Machine

/-- Refutes O50: its STEPEND part says that after the boundary of an ENABLED binding on plan core 0 the step that begins is never an ended
one. The boundary reads the token buffer of each record that feeds under the frame owner check (R265, R352), and a frame of another owner
ends the step (R62). In `strayTokens` the one record that feeds has such a token buffer. -/
theorem not_layerStepOpensAndSteps : ¬ Obligations.LayerStepOpensAndSteps := by
  unfold Obligations.LayerStepOpensAndSteps
  intro h
  obtain ⟨-, -, -, -, -, -, hstepend, -⟩ := h 0 stependRead stependIss strayTokens reads_strayTokens
  obtain ⟨henabled, hjudged, -⟩ := boundary_strayTokens
  obtain ⟨t, ht, -, -, -, -, -, hboundary⟩ := hstepend issued_strayTokens hjudged
  obtain ⟨halive, -, -⟩ := hboundary rfl henabled
  rw [exec_stepend reads_strayTokens issued_strayTokens hjudged] at ht
  obtain rfl : stepEnd stependIss (begun stependIss strayTokens) = t := by simpa using ht
  exact Bool.false_ne_true (halive.symm.trans stepEnd_strayTokens_dead)
end

section
/-! SUPPORT. The final REDUCE of a sum whose result meets a frame of another owner on a second core of its binding (R162, R352): that
core's own waiting reduction lies in device memory, and the owner fault of its write ends the step of every core (R62). -/

open Sys2Proof Sys2Proof.Machine Sys2Proof.Spec

namespace Sys2Proof.Machine

/-- A REDUCE whose partial is there (R162). -/
theorem exec_reduce {c : Iss} {k : Fin 2016} {r : RecRead} {s : State} (hreads : Reads c k r s) (hissued : Issued 0x32 c r s)
    (hready : reduceReady c s = true) : exec (.reduce k r) s = .next (reduce c (begun c s)) := by
  show Host.Outcome.next (issueTo 0x32 false reduceReady reduce k r s) = _
  rw [issueTo_ready hreads hissued.1, hready, runRecord_issued hreads hissued]; rfl

/-! ### Such a REDUCE -/

/-- The narrow variant of a recipe with one layer step and one record in it, given by its beat and index. -/
def oneRecordNarrow (record : Nat → Nat → Nat) : List Byte :=
  leBytes 32 (plainRecord 1 0 0 0) ++ leBytes 32 (record 0 1) ++ leBytes 32 (plainRecord 2 2 2 0)

/-- Its wide variant: the record once in each period of 2 beats. -/
def oneRecordWide (record : Nat → Nat → Nat) : List Byte :=
  leBytes 32 (plainRecord 1 0 0 0) ++ leBytes 32 (record 0 1) ++ leBytes 32 (plainRecord 1 2 2 0) ++ leBytes 32 (record 2 3)
    ++ leBytes 32 (plainRecord 2 4 4 0)

/-- REDUCE of the sum of one value in staging, of which the core is the final one. -/
def sumOfOne (beat seq : Nat) : Nat := plainRecord 0x32 beat seq (2 ^ 28 + 2 ^ 80)

/-- NOP. -/
def nopRecord (beat seq : Nat) : Nat := plainRecord 0 beat seq 0

/-- A plan of two cores and the layer of `narrowLayer`: the first reduces, the second idles; the CRC-32 is computed outside the model. -/
def twoCorePlan : List Byte :=
  leBytes 64 (packBits [(0x5350414E, 32), (1, 16), (2, 16), (1, 32), (2, 32), (64, 32), (128, 32), (704, 32), (832, 32), (848, 32),
    (0x0B91F27A, 32)])
    ++ narrowLayer ++ leBytes 64 (packBits [(192, 32), (3, 32), (288, 32), (5, 32), (448, 32), (3, 32), (544, 32), (5, 32)])
    ++ oneRecordNarrow sumOfOne ++ oneRecordWide sumOfOne ++ oneRecordNarrow nopRecord ++ oneRecordWide nopRecord
    ++ leBytes 128 (packBits [(4, 8), (0, 120), (32000, 32), (0, 352), (1, 16), (1, 8), (1, 8)]) ++ leBytes 16 0

/-- The checks of binding enable accept it (Table 6.7). -/
theorem twoCorePlan_accepted : checkImage twoCorePlan 848 (regionsOf twoCorePlan 0 [0, 128] 0) = none := by decide +kernel

/-- Cores 0 and 1 run this plan as binding 1. Core 0 has its layer step open and comes to its REDUCE. Core 1 has none open, and holds a
reduction of the same kind and layer that waits for its result at byte 0 of the activations, whose frame 40 has no owner. -/
def strayResult : State :=
  { State.reset with
    ten := { State.reset.ten with
      entries := [(1, { st := 3, cores := 2 })]
      runs := [(1, { plan := twoCorePlan, coreMap := [0, 128], actBase := [40] })] }
    hw := { clusters := [(0, { st := 0, logical := 0, usable := 18 })],
            cores := [(0, { usable := true, logical := 0, inUse := 0xFFFF, bound := some (1, 0), recipes := true, ptr := 1,
                            ls := { opened := true } }),
                      (1, { usable := true, logical := 1, inUse := 0xFFFF, bound := some (1, 0), recipes := true, ptr := 1,
                            redWaits := [{ kind := 0, layer := 0, dest := 0x40000000 }] })] } }

/-- The core's reading of the record. -/
def reduceRead : RecRead := { idx := 1, wide := false, bits := BitVec.ofNat 256 (sumOfOne 0 1), bad := false }

/-- The record as plan core 0 of binding 1 issues it. -/
def reduceIss : Iss := { k := 0, b := 1, i := 0, x := reduceRead.bits.toNat, idx := 1, wide := false }

theorem reads_strayResult : Reads reduceIss 0 reduceRead strayResult := by
  refine ⟨rfl, ?_, ?_, rfl, rfl, rfl, rfl⟩ <;> decide +kernel

theorem issued_strayResult : Issued 0x32 reduceIss reduceRead strayResult := by
  refine ⟨⟨⟨?_, ?_, ?_, ?_⟩, ?_, ?_, ?_, ?_⟩, rfl⟩ <;> decide +kernel

/-- The record is the final one of a sum (kind 0) over staging, and no partial is sent to its core. -/
theorem final_strayResult : reduceReady reduceIss strayResult = true ∧ opSpace (rOpA reduceIss.x) = 1 ∧ opSpace (rOpB reduceIss.x) ≠ 7
    ∧ rFlags reduceIss.x % 4 = 0 ∧ partialIn strayResult 0 (rLayer reduceIss.x) 0 = none ∧ rLen reduceIss.x = 1 := by decide +kernel

/-- Core 0 is the binding's, with its layer step of the record's layer open. -/
theorem open_strayResult : 0 ∈ heldBy strayResult 1 ∧ (lsOf strayResult 0).opened = true
    ∧ (lsOf strayResult 0).layer = rLayer reduceIss.x := by decide +kernel

/-- After it core 0 has no layer step, and with it no total of LEN. -/
theorem reduce_strayResult_total : (lsOf (reduce reduceIss (begun reduceIss strayResult)) 0).redC = 0 := by decide +kernel

end Sys2Proof.Machine

/-- Refutes O53: its REDUCE part says that after a final REDUCE of kind 0 or 1 every core of the binding whose layer step of that layer
is open holds the sum and the total of LEN, whatever waits on the binding's cores. A result also goes to the oldest REDUCE that waits for
it on a core (R162), and where that core has no layer step open it is written at once: into a frame of another owner, the write is an
owner fault (R352), which ends the step of every core of the binding with its layer step (R62). In `strayResult` core 1 holds such a
REDUCE, and core 0 is left without the total of 1. -/
theorem not_reduceAndActivation : ¬ Obligations.ReduceAndActivation := by
  unfold Obligations.ReduceAndActivation
  rintro ⟨hrecords, -⟩
  obtain ⟨hreduced, -, -⟩ := hrecords 0 reduceRead reduceIss strayResult reads_strayResult
  obtain ⟨hready, hstage, hfinal, hkind, hnone, hlen⟩ := final_strayResult
  obtain ⟨hheld, hopen, hlayer⟩ := open_strayResult
  obtain ⟨-, hsums⟩ := hreduced issued_strayResult
  obtain ⟨hsum, -, -⟩ := hsums 0 none _ _ 1 hready hstage hkind.symm hnone.symm (fun _ => rfl) (fun h => nomatch h) rfl (by rw [hlen]; rfl)
  obtain ⟨t, ht, hholds, -⟩ := hsum (by decide) hfinal
  obtain ⟨-, htotal⟩ := (hholds 0 hheld hopen hlayer).1 rfl
  rw [exec_reduce reads_strayResult issued_strayResult hready] at ht
  obtain rfl : reduce reduceIss (begun reduceIss strayResult) = t := by simpa using ht
  exact absurd (reduce_strayResult_total.symm.trans htotal) (by decide)
end

section
/-! SUPPORT. What issue leaves of a core and of the maps, and folds that reach a property at one of their steps. -/

open Sys2Proof Sys2Proof.Machine Sys2Proof.Spec

namespace Sys2Proof.Machine

/-! ### What issue leaves of a core (R187, R192) -/

@[simp] theorem core_endWait (k off j : Nat) (s : State) : core (endWait k off s) j = core s j := by simp [endWait]
@[simp] theorem core_openWait (k j : Nat) (s : State) : core (openWait k s) j = core s j := by
  unfold openWait; dsimp only; split <;> simp

/-- What a change of one core keeps of every core. -/
theorem core_modCore_keeps {β : Type} {p : Core → β} {f : Core → Core} (h : ∀ q, p (f q) = p q) (k j : Nat) (s : State) :
    p (core (modCore k f s) j) = p (core s j) := by
  rw [core_modCore]; split
  · rename_i hj; rw [h, hj]
  · rfl

theorem core_modCore_other {k j : Nat} (h : j ≠ k) (f : Core → Core) (s : State) : core (modCore k f s) j = core s j := by
  rw [core_modCore, if_neg h]

/-- A core without what issue changes of it: its waits, the tiles seen, its pointers, and the slots marked as carried. -/
def offIssue (q : Core) : Core :=
  { q with sbWait := false, unitWait := false, tileSeen := 0, ptr := 0, ptrLow := 0, ptrHigh := 0, overran := [],
           ls := { q.ls with carried := 0 } }

/-- The waits that end change no core but that of the record. -/
theorem core_ended_waits (k : Nat) (ts : List Nat) (s : State) (j : Nat) :
    core (when (core s k).unitWait (endWait k 0x500)
      (if (core s k).sbWait then endWait k 0x400 s else when ((core s k).tileSeen &&& tileBits ts != 0) (openWait k) s)) j = core s j := by
  unfold when; split_ifs <;> simp

theorem offIssue_endWaits (k : Nat) (ts : List Nat) (s : State) (j : Nat) :
    offIssue (core (endWaits k ts s) j) = offIssue (core s j) := by
  unfold endWaits; dsimp only
  rw [core_modCore_keeps (p := offIssue) fun q => by rfl, core_ended_waits]

theorem offIssue_markCarried (c : Iss) (s : State) (j : Nat) : offIssue (core (markCarried c s) j) = offIssue (core s j) := by
  unfold markCarried; split
  · unfold modLs; exact core_modCore_keeps (fun q => by rfl) _ _ _
  · rfl

theorem offIssue_advance (c : Iss) (s : State) (j : Nat) : offIssue (core (advance c s) j) = offIssue (core s j) := by
  refine core_modCore_keeps (fun q => ?_) _ _ _
  unfold setPtr; split_ifs <;> rfl

theorem offIssue_begun (c : Iss) (s : State) (j : Nat) : offIssue (core (begun c s) j) = offIssue (core s j) := by
  unfold begun; rw [offIssue_advance, offIssue_markCarried, offIssue_endWaits, core_bump]

/-- Issue changes no core but that of the record. -/
theorem core_begun_other {c : Iss} {j : Nat} (h : j ≠ c.k) (s : State) : core (begun c s) j = core s j := by
  have hmark : ∀ x, core (markCarried c x) j = core x j := fun x => by
    unfold markCarried modLs; split
    · exact core_modCore_other h _ _
    · rfl
  unfold begun advance; dsimp only
  rw [core_modCore_other h, hmark]
  unfold endWaits; dsimp only
  rw [core_modCore_other h, core_ended_waits, core_bump]

theorem eq_of_offIssue {q r : Core} (h : offIssue q = offIssue r) : q.ls = { r.ls with carried := q.ls.carried } :=
  congrArg (fun x : Core => { x.ls with carried := q.ls.carried }) h

/-- Of a layer step, issue marks slots as carried and changes nothing else. -/
theorem lsOf_begun (c : Iss) (s : State) (j : Nat) :
    lsOf (begun c s) j = { lsOf s j with carried := (lsOf (begun c s) j).carried } :=
  eq_of_offIssue (offIssue_begun c s j)

theorem lsOf_begun_other {c : Iss} {j : Nat} (h : j ≠ c.k) (s : State) : lsOf (begun c s) j = lsOf s j :=
  congrArg Core.ls (core_begun_other h s)

theorem memKept_begun (c : Iss) (s : State) : MemKept s (begun c s) := memKept_of_offCores (offCores_begun c s)

/-! ### The maps of clusters and cores (R32, R331) -/

/-- Where the maps place a cluster, and its state. -/
def clusterPlace (s : State) (p : Nat) : BitVec 7 × BitVec 2 := ((cluster s p).logical, (cluster s p).st)

/-- Where the maps place a core, and the binding that holds it. -/
def corePlace (s : State) (k : Nat) : BitVec 5 × Option (Nat × W64) := ((core s k).logical, (core s k).bound)

/-- Two states place the clusters and cores alike. -/
def SamePlaces (s t : State) : Prop := clusterPlace t = clusterPlace s ∧ corePlace t = corePlace s

theorem SamePlaces.trans {s t u : State} (h : SamePlaces s t) (g : SamePlaces t u) : SamePlaces s u :=
  ⟨g.1.trans h.1, g.2.trans h.2⟩

theorem samePlaces_bump (p off n : Nat) (s : State) : SamePlaces s (bump p off n s) := by
  refine ⟨funext fun j => ?_, funext fun j => by simp [corePlace]⟩
  unfold clusterPlace bump; split
  · rw [cluster_modCluster]; split
    · rename_i hj; rw [hj]
    · rfl
  · rfl

theorem samePlaces_modCore {f : Core → Core} (h : ∀ q, ((f q).logical, (f q).bound) = (q.logical, q.bound)) (k : Nat) (s : State) :
    SamePlaces s (modCore k f s) := ⟨rfl, funext fun j => core_modCore_keeps (p := fun q : Core => (q.logical, q.bound)) h k j s⟩

theorem samePlaces_openWait (k : Nat) (s : State) : SamePlaces s (openWait k s) := by
  have htick : ∀ t, SamePlaces s t → SamePlaces s (tickFresh t) := fun _ h => h
  unfold openWait
  refine htick _ ?_
  split
  · exact ⟨rfl, rfl⟩
  · exact (samePlaces_bump ..).trans (samePlaces_bump ..)

theorem samePlaces_when {f : State → State} (c : Bool) {s : State} (h : SamePlaces s (f s)) : SamePlaces s (when c f s) := by
  cases c
  · exact ⟨rfl, rfl⟩
  · exact h

theorem samePlaces_endWaits (k : Nat) (ts : List Nat) (s : State) : SamePlaces s (endWaits k ts s) := by
  have hend : ∀ off x, SamePlaces x (endWait k off x) := fun off x => samePlaces_bump ..
  unfold endWaits; dsimp only
  refine SamePlaces.trans ?_ (samePlaces_modCore (fun q => by rfl) _ _)
  refine SamePlaces.trans ?_ (samePlaces_when _ (hend _ _))
  split
  · exact hend _ _
  · exact samePlaces_when _ (samePlaces_openWait _ _)

theorem samePlaces_begun (c : Iss) (s : State) : SamePlaces s (begun c s) := by
  have hmark : ∀ x, SamePlaces x (markCarried c x) := fun x => by
    unfold markCarried modLs; split
    · exact samePlaces_modCore (fun q => by rfl) _ _
    · exact ⟨rfl, rfl⟩
  unfold begun advance; dsimp only
  refine (samePlaces_bump ..).trans ((samePlaces_endWaits ..).trans ((hmark _).trans (samePlaces_modCore (fun q => ?_) _ _)))
  unfold setPtr; split_ifs <;> rfl

theorem physCore_congr {s t : State} (h : SamePlaces s t) : physCore t = physCore s := by
  obtain ⟨hcl, hco⟩ := h
  have hlog : ∀ p, (cluster t p).logical = (cluster s p).logical := fun p => congrArg Prod.fst (congrFun hcl p)
  have hst : ∀ p, (cluster t p).st = (cluster s p).st := fun p => congrArg Prod.snd (congrFun hcl p)
  have hcore : ∀ k, (core t k).logical = (core s k).logical := fun k => congrArg Prod.fst (congrFun hco k)
  funext lc l
  unfold physCore physCluster
  simp only [hlog, hst, hcore]

theorem boundOf_congr {s t : State} (h : SamePlaces s t) : boundOf t = boundOf s := by
  funext k
  have hbound : (core t k).bound = (core s k).bound := congrArg Prod.snd (congrFun h.2 k)
  unfold boundOf; rw [hbound]

/-- A peer operand names the same core where the maps and the binding table are the same (R180, R309). -/
theorem peerCore_congr {s t : State} (h : SamePlaces s t) (ht : t.ten = s.ten) (b o : Nat) : peerCore t b o = peerCore s b o := by
  unfold peerCore entry; rw [physCore_congr h, boundOf_congr h, ht]

/-! ### Folds that reach a property at one of their steps -/

/-- A fold over a list with `a` in it: `P` holds until the step of `a`, which brings `Q`, and the steps after it keep `Q`. -/
theorem forAll_reaches {α : Type} {f : α → State → State} {P Q : State → Prop} {a : α} : ∀ {l : List α} {s : State}, a ∈ l → P s →
    (∀ b ∈ l, b ≠ a → ∀ s, P s → P (f b s)) → (∀ s, P s → Q (f a s)) → (∀ b ∈ l, (l.Nodup → b ≠ a) → ∀ s, Q s → Q (f b s)) →
    Q (forAll l f s)
  | [], _, ha, _, _, _, _ => nomatch ha
  | c :: l, s, ha, hs, hP, hstep, hQ => by
    show Q (forAll l f (f c s))
    by_cases hc : c = a
    · subst hc
      refine forAll_invariant (fun b hb => hQ b (List.mem_cons_of_mem c hb) fun hnodup hbc => ?_) (hstep s hs)
      exact (List.nodup_cons.mp hnodup).1 (hbc ▸ hb)
    · exact forAll_reaches ((List.mem_cons.mp ha).resolve_left (Ne.symm hc)) (hP c (List.mem_cons_self ..) hc s hs)
        (fun b hb => hP b (List.mem_cons_of_mem c hb)) hstep
        (fun b hb hba => hQ b (List.mem_cons_of_mem c hb) fun hnodup => hba (List.nodup_cons.mp hnodup).2)

end Sys2Proof.Machine
end

section
/-! SUPPORT. The running-sum chain (R159 to R164): sums that a core takes or that wait for it, and what CHAIN and CHAIN_ARRIVAL do with
them. -/

open Sys2Proof Sys2Proof.Machine Sys2Proof.Spec

namespace Sys2Proof.Machine

/-! ### Sums received -/

theorem lsOf_modLs_same (k : Nat) (f : LayerRun → LayerRun) (s : State) : lsOf (modLs k f s) k = f (lsOf s k) := by
  simp [lsOf, modLs]

theorem lsOf_modLs_other {k j : Nat} (h : j ≠ k) (f : LayerRun → LayerRun) (s : State) : lsOf (modLs k f s) j = lsOf s j := by
  unfold lsOf modLs; rw [core_modCore_other h]

/-- Sums for a core whose layer step of their layer is open are taken (R163). -/
theorem receiveSum_open {k : Nat} {d : ChainMsg} {s : State} (hopen : (lsOf s k).opened = true)
    (hlayer : (lsOf s k).layer = d.layer.toNat) (clamp : List Bool) : SumsTaken k d clamp s (receiveSum k d clamp s) := by
  unfold receiveSum; dsimp only
  rw [if_pos ⟨hopen, hlayer⟩]
  unfold SumsTaken; rw [lsOf_modLs_same]
  exact ⟨rfl, rfl, rfl⟩

/-- Others wait for it (R158). -/
theorem receiveSum_early {k : Nat} {d : ChainMsg} {s : State}
    (h : (lsOf s k).opened = false ∨ (lsOf s k).layer ≠ d.layer.toNat) (clamp : List Bool) :
    SumsWait k d clamp s (receiveSum k d clamp s) := by
  have hnot : ¬((lsOf s k).opened = true ∧ (lsOf s k).layer = d.layer.toNat) := fun ⟨hopen, hlayer⟩ =>
    h.elim (fun hclosed => by simp [hopen] at hclosed) fun hne => hne hlayer
  unfold receiveSum; dsimp only
  rw [if_neg hnot]
  refine ⟨by rw [core_modCore_same], lsOf_modCore (fun q => by rfl) k s⟩

theorem offCores_receiveSum (k : Nat) (d : ChainMsg) (clamp : List Bool) (s : State) :
    offCores (receiveSum k d clamp s) = offCores s := by
  unfold receiveSum; dsimp only; split <;> rfl

theorem core_receiveSum_other {k j : Nat} (h : j ≠ k) (d : ChainMsg) (clamp : List Bool) (s : State) :
    core (receiveSum k d clamp s) j = core s j := by
  unfold receiveSum modLs; dsimp only; split <;> exact core_modCore_other h _ _

theorem out_of_offCores {s t : State} (h : offCores t = offCores s) : t.out = s.out := (congrArg State.out h :)
theorem fab_of_offCores {s t : State} (h : offCores t = offCores s) : t.fab = s.fab := (congrArg State.fab h :)

/-! ### Messages to another part (R293, R323) -/

/-- The state without the fabric and the output. -/
def offFabric (s : State) : State := { s with fab := {}, out := [] }

theorem offFabric_sendFlit (k kind src dst txn : Nat) (bs : List Byte) (s : State) :
    offFabric (sendFlit k kind src dst txn bs s) = offFabric s := rfl

theorem offFabric_sendFlits (down : Bool) (kind src dst txn : Nat) (bs : List Byte) (s : State) :
    offFabric (sendFlits down kind src dst txn bs s) = offFabric s := by
  unfold sendFlits; extract_lets ps fs; split
  · rfl
  · exact forAll_keeps offFabric _ (fun _ _ => offFabric_sendFlit ..) _ _

theorem offFabric_sendTxn (dst : Nat) (down resent : Bool) (data : List Byte) (s : State) :
    offFabric (sendTxn dst down resent data s) = offFabric s := by
  unfold sendTxn; rw [offFabric_sendFlits]; rfl

theorem offFabric_sendPart (b o : Nat) (always : Bool) (msgs : List (List Byte)) (s : State) :
    offFabric (sendPart b o always msgs s) = offFabric s := by
  unfold sendPart; exact forAll_keeps offFabric _ (fun _ _ => offFabric_sendTxn ..) _ _

theorem offFabric_sendParts (b : Nat) (always : Bool) (msgs : List (List Byte)) (s : State) :
    offFabric (sendParts b always msgs s) = offFabric s := by
  unfold sendParts; exact forAll_keeps offFabric _ (fun _ _ => offFabric_sendPart ..) _ _

theorem sends_refl (s : State) : Sends [] s s := ⟨⟨[], by simp⟩, fun _ => rfl⟩

/-- A command that sends nothing more than flits after its messages still sends those messages. -/
theorem sends_then_flits {os : List Out} {s t u : State} (h : Sends os s t) (g : Sends [] t u) : Sends os s u := by
  obtain ⟨⟨fs, hfs⟩, hport⟩ := h
  obtain ⟨⟨gs, hgs⟩, hport'⟩ := g
  refine ⟨⟨fs ++ gs, by rw [hgs, hfs]; simp⟩, fun k => ?_⟩
  rw [hport' k, hport k]

theorem sends_sendFlit (k kind src dst txn : Nat) (bs : List Byte) (s : State) : Sends [] s (sendFlit k kind src dst txn bs s) := by
  unfold sendFlit; dsimp only
  refine ⟨⟨[(k, _)], by simp [emit]; rfl⟩, fun j => ?_⟩
  rw [port_emit, port_setPort]
  split
  · rename_i hj; rw [hj]
  · rfl

theorem sends_sendFlits (down : Bool) (kind src dst txn : Nat) (bs : List Byte) (s : State) :
    Sends [] s (sendFlits down kind src dst txn bs s) := by
  unfold sendFlits; extract_lets ps fs; split
  · exact sends_refl s
  · exact forAll_invariant (P := Sends [] s) (fun _ _ _ h => sends_then_flits h (sends_sendFlit ..)) (sends_refl s)

theorem sends_startTxn (dst : Nat) (down resent : Bool) (data : List Byte) (s : State) : Sends [] s (startTxn dst down resent data s) :=
  ⟨⟨[], by simp [startTxn]⟩, fun _ => rfl⟩

theorem txns_sendFlit (k kind src dst txn : Nat) (bs : List Byte) (s : State) :
    (sendFlit k kind src dst txn bs s).fab.txns = s.fab.txns := rfl

theorem txns_sendFlits (down : Bool) (kind src dst txn : Nat) (bs : List Byte) (s : State) :
    (sendFlits down kind src dst txn bs s).fab.txns = s.fab.txns := by
  unfold sendFlits; extract_lets ps fs; split
  · rfl
  · exact forAll_keeps (·.fab.txns) _ (fun _ _ => txns_sendFlit ..) _ _

/-- One message to another part leaves as the flits of one transaction, which is kept until it is acknowledged. -/
theorem sendPart_one (b o : Nat) (always : Bool) (msg : List Byte) (s : State) :
    Sends [] s (sendPart b o always [msg] s) ∧ ∃ x ∈ (sendPart b o always [msg] s).fab.txns, x.data = msg := by
  unfold sendPart; dsimp only; rw [forAll_one]; unfold sendTxn
  refine ⟨sends_then_flits (sends_startTxn ..) (sends_sendFlits ..), ?_⟩
  rw [txns_sendFlits]
  exact ⟨_, List.mem_append_right _ (List.mem_singleton_self _), rfl⟩

end Sys2Proof.Machine
end

section
/-! SUPPORT. CHAIN, CHAIN_ARRIVAL and TAIL (R99, R117, R158 to R165). -/

open Sys2Proof Sys2Proof.Machine Sys2Proof.Spec

namespace Sys2Proof.Machine

/-! ### CHAIN -/

/-- A record of the chain whose sums are there works in the state `begun`. -/
theorem issueTo_chainReady {op : Nat} {c : Iss} {k : Fin 2016} {r : RecRead} {s : State} (hreads : Reads c k r s)
    (hissued : Issued op c r s) (hready : chainReady c s = true) (f : Iss → State → State) :
    issueTo op false chainReady f k r s = f c (begun c s) := by
  rw [issueTo_ready hreads hissued.1, hready, runRecord_issued hreads hissued]; rfl

theorem issueTo_chainWaits {op : Nat} {c : Iss} {k : Fin 2016} {r : RecRead} {s : State} (hreads : Reads c k r s)
    (hissued : Issued op c r s) (hready : chainReady c s = false) (f : Iss → State → State) :
    issueTo op false chainReady f k r s = s := by
  rw [issueTo_ready hreads hissued.1, hready]; rfl

/-- The message that a CHAIN sends (R159, R163). -/
def chainMsg (c : Iss) (s : State) : ChainMsg :=
  let comp := bitOf (rFlags c.x) 0
  let u := runSum (lsOf s c.k) (rImm c.x) (rCol c.x) comp
  { layer := BitVec.ofNat 16 (rLayer c.x), col := BitVec.ofNat 12 (rCol c.x), vec := BitVec.ofNat 16 (rImm c.x), comp := comp, s := u.s,
    c := if comp then u.c else [], last := bitOf (rFlags c.x) 1,
    status := if bitOf (rFlags c.x) 1 then coreStatus s c.k c.b else { dirty := false, impl := 0 } }

/-- The clamps of its sums. -/
def chainClamps (c : Iss) (s : State) : List Bool := (runSum (lsOf s c.k) (rImm c.x) (rCol c.x) (bitOf (rFlags c.x) 0)).clamp

/-- A CHAIN to a core of the part gives it the message; one to another part sends it there, its clamps counted here. -/
theorem chain_eq (c : Iss) (s : State) : chain c s =
    match peerCore s c.b (rOpB c.x) with
    | some m => receiveSum m (chainMsg c s) (chainClamps c s) (dropSum c.k (rImm c.x) (rCol c.x) s)
    | none => if peerAway s c.b (rOpB c.x) then
        attClamped c.k ((chainClamps c s).filter id).length (sendPart c.b (opOff (rOpB c.x) % 512) true
          [wordsBytes ((chainMsg c s).s ++ (chainMsg c s).c)]
          (emit (.chain c.k (BitVec.ofNat 32 (rOpB c.x)) (chainMsg c s)) (dropSum c.k (rImm c.x) (rCol c.x) s)))
      else dropSum c.k (rImm c.x) (rCol c.x) s := by
  have hplaces : SamePlaces s (dropSum c.k (rImm c.x) (rCol c.x) s) := samePlaces_modCore (fun q => by rfl) _ _
  rw [← peerCore_congr hplaces rfl]; rfl

theorem begun_ls_contrib (c : Iss) (s : State) (j : Nat) : (lsOf (begun c s) j).contrib = (lsOf s j).contrib := by rw [lsOf_begun]
theorem begun_ls_sums (c : Iss) (s : State) (j : Nat) : (lsOf (begun c s) j).sums = (lsOf s j).sums := by rw [lsOf_begun]
theorem begun_ls_sieve (c : Iss) (s : State) (j : Nat) : (lsOf (begun c s) j).sieve = (lsOf s j).sieve := by rw [lsOf_begun]

theorem offCores_dropSum (k vec col : Nat) (s : State) : offCores (dropSum k vec col s) = offCores s := rfl
theorem offFabric_emit (o : Out) (s : State) : offFabric (emit o s) = offFabric s := rfl

theorem runSum_begun (c : Iss) (s : State) (j vec col : Nat) (comp : Bool) :
    runSum (lsOf (begun c s) j) vec col comp = runSum (lsOf s j) vec col comp := by
  unfold runSum; rw [begun_ls_contrib, begun_ls_sums]

theorem coreStatus_begun (c : Iss) (s : State) (k b : Nat) : coreStatus (begun c s) k b = coreStatus s k b := by
  unfold coreStatus; rw [lsOf_begun, planOf_begun]

theorem chainMsg_begun (c : Iss) (s : State) : chainMsg c (begun c s) = chainMsg c s := by
  unfold chainMsg; dsimp only; rw [runSum_begun, coreStatus_begun]

theorem chainClamps_begun (c : Iss) (s : State) : chainClamps c (begun c s) = chainClamps c s := by
  unfold chainClamps; rw [runSum_begun]

theorem peerCore_begun (c : Iss) (s : State) (b o : Nat) : peerCore (begun c s) b o = peerCore s b o :=
  peerCore_congr (samePlaces_begun c s) (begun_ten c s) b o

theorem peerAway_begun (c : Iss) (s : State) (b o : Nat) : peerAway (begun c s) b o = peerAway s b o := by
  unfold peerAway entry; rw [begun_ten]

/-- LAYER, COL_BLOCK and IMM are fields of 16, 12 and 16 bits (Table 6.4). -/
theorem chainMsg_layer (c : Iss) (s : State) : (chainMsg c s).layer.toNat = rLayer c.x := by
  show (BitVec.ofNat 16 (rLayer c.x)).toNat = _
  rw [BitVec.toNat_ofNat]; exact Nat.mod_eq_of_lt (Nat.mod_lt _ (by decide))

theorem sumsTaken_congr {k : Nat} {d : ChainMsg} {clamp : List Bool} {s s' t : State} (h : lsOf s' k = lsOf s k)
    (ht : SumsTaken k d clamp s' t) : SumsTaken k d clamp s t := by
  unfold SumsTaken at *; rwa [← h]

theorem sumsWait_congr {k : Nat} {d : ChainMsg} {clamp : List Bool} {s s' t : State} (h : core s' k = core s k)
    (ht : SumsWait k d clamp s' t) : SumsWait k d clamp s t := by
  unfold SumsWait lsOf at *; rwa [← h]

theorem offCores_attClamped (k n : Nat) (s : State) : offCores (attClamped k n s) = offCores s := by
  unfold attClamped; split
  · rfl
  · exact offCores_bump ..

theorem core_attClamped (k n : Nat) (s : State) (j : Nat) : core (attClamped k n s) j = core s j := by
  unfold attClamped; split
  · rfl
  · exact core_bump ..

theorem srv_of_offFabric {s t : State} (h : offFabric t = offFabric s) : t.srv = s.srv := (congrArg State.srv h :)
theorem memKept_of_offFabric {s t : State} (h : offFabric t = offFabric s) : MemKept s t :=
  memKept_of_eq (congrArg State.mem h :) (congrArg State.memKeys h :)

theorem memKept_trans {s t u : State} (h : MemKept s t) (g : MemKept t u) : MemKept s u := fun a => (g a).trans (h a)

/-- What a command sent shows in the output and the ports alone. -/
theorem sends_congr {os : List Out} {s s' t t' : State} (h : Sends os s t) (hs : s'.out = s.out) (hp : s'.fab = s.fab)
    (ht : t'.out = t.out) (hpt : t'.fab = t.fab) : Sends os s' t' := by
  unfold Sends port at *; rw [hs, hp, ht, hpt]; exact h

theorem sends_emit (o : Out) {s t : State} (h : Sends [] (emit o s) t) : Sends [o] s t := by
  obtain ⟨⟨fs, hfs⟩, hport⟩ := h
  exact ⟨⟨fs, by rw [hfs]; simp [emit]⟩, hport⟩

/-- A CHAIN to another core of its part (R163). -/
theorem chain_toPeer {c : Iss} {s : State} {m : Nat} (hpeer : peerCore s c.b (rOpB c.x) = some m) (hm : m ≠ c.k) :
    (lsOf (chain c (begun c s)) c.k).contrib
        = (lsOf s c.k).contrib.filter (fun y => !(y.vec == rImm c.x && y.col == rCol c.x))
      ∧ ((lsOf s m).opened = true → (lsOf s m).layer = rLayer c.x →
          SumsTaken m (chainMsg c s) (chainClamps c s) s (chain c (begun c s)))
      ∧ (((lsOf s m).opened = false ∨ (lsOf s m).layer ≠ rLayer c.x) →
          SumsWait m (chainMsg c s) (chainClamps c s) s (chain c (begun c s)))
      ∧ offCores (chain c (begun c s)) = offCores s := by
  have hcore : core (dropSum c.k (rImm c.x) (rCol c.x) (begun c s)) m = core s m := by
    unfold dropSum modLs; rw [core_modCore_other hm, core_begun_other hm]
  have hls : lsOf (dropSum c.k (rImm c.x) (rCol c.x) (begun c s)) m = lsOf s m := congrArg Core.ls hcore
  rw [chain_eq, peerCore_begun, hpeer, chainMsg_begun, chainClamps_begun]; dsimp only
  refine ⟨?_, fun hopen hlayer => sumsTaken_congr hls (receiveSum_open ?_ ?_ _), fun h => sumsWait_congr hcore (receiveSum_early ?_ _), ?_⟩
  · unfold lsOf
    rw [core_receiveSum_other (Ne.symm hm)]
    show (lsOf (modLs c.k _ (begun c s)) c.k).contrib = _
    rw [lsOf_modLs_same, lsOf_begun]; rfl
  · rwa [hls]
  · rwa [hls, chainMsg_layer]
  · rwa [hls, chainMsg_layer]
  · rw [offCores_receiveSum, offCores_dropSum, offCores_begun]

/-- A CHAIN to another part (R164). -/
theorem chain_toPart {c : Iss} {s : State} (hpeer : peerCore s c.b (rOpB c.x) = none) (haway : peerAway s c.b (rOpB c.x) = true) :
    Sends [.chain c.k (BitVec.ofNat 32 (rOpB c.x)) (chainMsg c s)] s (chain c (begun c s))
      ∧ (∃ x ∈ (chain c (begun c s)).fab.txns, x.data = wordsBytes ((chainMsg c s).s ++ (chainMsg c s).c))
      ∧ MemKept s (chain c (begun c s)) ∧ (chain c (begun c s)).srv = s.srv := by
  have hstart : offCores (dropSum c.k (rImm c.x) (rCol c.x) (begun c s)) = offCores s := by
    rw [offCores_dropSum, offCores_begun]
  rw [chain_eq, peerCore_begun, hpeer, peerAway_begun, chainMsg_begun, chainClamps_begun]; dsimp only
  rw [if_pos haway]
  generalize hsent : sendPart c.b (opOff (rOpB c.x) % 512) true [wordsBytes ((chainMsg c s).s ++ (chainMsg c s).c)]
    (emit (.chain c.k (BitVec.ofNat 32 (rOpB c.x)) (chainMsg c s)) (dropSum c.k (rImm c.x) (rCol c.x) (begun c s))) = u
  have hclamped := offCores_attClamped c.k ((chainClamps c s).filter id).length u
  have hfabric : offFabric u = offFabric (dropSum c.k (rImm c.x) (rCol c.x) (begun c s)) := by
    rw [← hsent, offFabric_sendPart, offFabric_emit]
  obtain ⟨hsends, htxn⟩ := sendPart_one c.b (opOff (rOpB c.x) % 512) true (wordsBytes ((chainMsg c s).s ++ (chainMsg c s).c))
    (emit (.chain c.k (BitVec.ofNat 32 (rOpB c.x)) (chainMsg c s)) (dropSum c.k (rImm c.x) (rCol c.x) (begun c s)))
  rw [hsent] at hsends htxn
  refine ⟨sends_congr (sends_emit _ hsends) (out_of_offCores hstart).symm (fab_of_offCores hstart).symm
    (out_of_offCores hclamped) (fab_of_offCores hclamped), ?_, ?_, ?_⟩
  · rw [fab_of_offCores hclamped]; exact htxn
  · exact memKept_trans (memKept_of_offCores hstart) (memKept_trans (memKept_of_offFabric hfabric) (memKept_of_offCores hclamped))
  · rw [srv_of_offCores hclamped, srv_of_offFabric hfabric, srv_of_offCores hstart]

/-- What CHAIN does (R159, R163). -/
theorem chained_of_issued {c : Iss} {k : Fin 2016} {r : RecRead} {s : State} (hreads : Reads c k r s) (hissued : Issued 0x30 c r s) :
    Chained c k r s := by
  have hk : c.k = k.val := hreads.1
  have hexec : chainReady c s = true → exec (.chain k r) s = .next (chain c (begun c s)) := fun hready =>
    congrArg Host.Outcome.next (issueTo_chainReady hreads hissued hready chain)
  unfold Chained
  rw [← hk]
  refine ⟨fun hwait => congrArg Host.Outcome.next (issueTo_chainWaits hreads hissued hwait chain), fun u d hready hu hd => ?_⟩
  subst hu
  obtain rfl : d = chainMsg c s := hd
  refine ⟨fun m hpeer hm => ?_, fun hpeer haway => ?_⟩
  · obtain ⟨hcontrib, htaken, hwaits, hoff⟩ := chain_toPeer hpeer hm
    exact ⟨_, hexec hready, hcontrib, htaken, hwaits, out_of_offCores hoff, memKept_of_offCores hoff⟩
  · obtain ⟨hsends, htxn, hmem, hsrv⟩ := chain_toPart hpeer haway
    exact ⟨_, hexec hready, hsends, htxn, hmem, hsrv⟩

/-! ### CHAIN_ARRIVAL -/

theorem exec_chainArrival (k : Fin 2016) (d : ChainMsg) (s : State) :
    exec (.chainArrival k d) s = .next (if (boundOf s k).isSome then receiveSum k d [] s else s) := rfl

theorem exec_chainArrival_bound {k : Fin 2016} (d : ChainMsg) {s : State} (h : boundOf s k ≠ none) :
    exec (.chainArrival k d) s = .next (receiveSum k d [] s) := by
  rw [exec_chainArrival, if_pos (Option.isSome_iff_ne_none.mpr h)]

/-! ### TAIL -/

/-- Output `j` of a TAIL, and whether a line of it clamped (R99). -/
def tailOutput (c : Iss) (s : State) (j : Nat) : W32 × Bool :=
  let comp := bitOf (rFlags c.x) 0
  let r := runSum (lsOf s c.k) (rImm c.x) (rCol c.x) comp
  let n := 256 * rCol c.x + j
  if lyN (c.plan s) (rLayer c.x) ≤ n then (0, false)
  else
    let ch := if comp then faddC (r.s.getD j 0) (r.c.getD j 0) else (r.s.getD j 0, false)
    let y := tailOf ch.1 (look (fun _ => 0) (lsOf s c.k).sieve (rImm c.x * 2 ^ 20 + n)) (biasOf (c.plan s) (rLayer c.x) n)
    (y.1, y.2 || ch.2 || r.clamp.getD j false)

/-- The words that a TAIL leaves. -/
def tailWords (c : Iss) (s : State) : List W32 := ((List.range 256).map (tailOutput c s)).map (·.1)

/-- The held write of a TAIL. -/
def tailOut (c : Iss) (s : State) : TailOut :=
  { dest := BitVec.ofNat 32 (rOpA c.x), peer := BitVec.ofNat 32 (rOpB c.x), data := wordsBytes (tailWords c s) }

/-- A TAIL's sums used up, its clamps and a compensated run counted. -/
def tailCounted (c : Iss) (s : State) : State :=
  let s1 := attClamped c.k (((List.range 256).map (tailOutput c s)).filter (·.2)).length (dropSum c.k (rImm c.x) (rCol c.x) s)
  if bitOf (rFlags c.x) 0 ∧ !(lsOf s c.k).comp then bump (clOf c.k) 0x414 1 (modLs c.k (fun x => { x with comp := true }) s1) else s1

theorem tail_eq (c : Iss) (s : State) : tail c s =
    if opSpace (rOpA c.x) = 7 then
      (if (lsOf s c.k).opened then modLs c.k (fun x => { x with tails := x.tails ++ [tailOut c s] }) (tailCounted c s)
       else commitTail c.k c.b (tailOut c s) (tailCounted c s))
    else if inDevice (rOpA c.x) ∨ !(lsOf s c.k).opened then leaveOp c.k c.b (rOpA c.x) (tailOut c s).data (tailCounted c s)
    else modLs c.k (fun x => { x with outs := x.outs ++ [(opSpace (rOpA c.x), opOff (rOpA c.x), 1024)] })
      (leaveOp c.k c.b (rOpA c.x) (tailOut c s).data (tailCounted c s)) := rfl

theorem tailOutput_begun (c : Iss) (s : State) (j : Nat) : tailOutput c (begun c s) j = tailOutput c s j := by
  unfold tailOutput Iss.plan; dsimp only; rw [runSum_begun, begun_ls_sieve, planOf_begun]

theorem tailOut_begun (c : Iss) (s : State) : tailOut c (begun c s) = tailOut c s := by
  unfold tailOut tailWords; rw [funext (tailOutput_begun c s)]

theorem tailWords_length (c : Iss) (s : State) : (tailWords c s).length = 256 := by simp [tailWords]

/-- What the counting leaves: everything but the cores and clusters, and of the cores what they store. -/
theorem tailCounted_keeps (c : Iss) (s : State) :
    offCores (tailCounted c s) = offCores s ∧ ∀ j, storeOf (core (tailCounted c s) j) = storeOf (core s j) := by
  have hdrop : ∀ j, storeOf (core (dropSum c.k (rImm c.x) (rCol c.x) s) j) = storeOf (core s j) := fun j => by
    unfold dropSum modLs; exact storeOf_modCore (fun q => by rfl) _ _ _
  unfold tailCounted; dsimp only
  split
  · refine ⟨by rw [offCores_bump, offCores_modLs, offCores_attClamped]; rfl, fun j => ?_⟩
    unfold modLs
    rw [storeOf_bump, storeOf_modCore fun q => by rfl, core_attClamped, hdrop]
  · exact ⟨by rw [offCores_attClamped]; rfl, fun j => by rw [core_attClamped, hdrop]⟩

/-- A TAIL to staging leaves its words there (R99). -/
theorem tail_staging {c : Iss} (h : opSpace (rOpA c.x) = 1) (s : State) : offCores (tail c s) = offCores s
    ∧ lookAll (fun _ => 0) (core (tail c s) c.k).sram (opOff (rOpA c.x)) 1024 = wordsBytes (tailWords c s) := by
  have hdev : inDevice (rOpA c.x) = false := by simp [inDevice, h]
  have hlen : (wordsBytes (tailWords c s)).length = 1024 := by rw [wordsBytes_length, tailWords_length]
  obtain ⟨hcores, hsram⟩ := leaveOp_staging h c.k c.b (wordsBytes (tailWords c s)) (tailCounted c s)
  rw [(tailCounted_keeps c s).1] at hcores
  have hleft : lookAll (fun _ => 0) (core (leaveOp c.k c.b (rOpA c.x) (wordsBytes (tailWords c s)) (tailCounted c s)) c.k).sram
      (opOff (rOpA c.x)) 1024 = wordsBytes (tailWords c s) := by rw [hsram, ← hlen, lookAll_putAll]
  rw [tail_eq, if_neg (by omega)]
  split
  · exact ⟨hcores, hleft⟩
  · refine ⟨by rw [offCores_modLs]; exact hcores, ?_⟩
    unfold modLs; rw [core_modCore_same]; exact hleft

/-- A TAIL of an open layer step to device memory or a peer is held (R117). -/
theorem tail_held {c : Iss} (h : opSpace (rOpA c.x) = 7 ∨ inDevice (rOpA c.x) = true) {s : State}
    (hopen : (lsOf s c.k).opened = true) : ∃ q, q.dest = BitVec.ofNat 32 (rOpA c.x) ∧ q.data = wordsBytes (tailWords c s)
      ∧ tail c s = modLs c.k (fun x => { x with tails := x.tails ++ [q] }) (tailCounted c s) := by
  have hcounted : (lsOf (tailCounted c s) c.k).opened = true :=
    (congrArg (·.2.2.1) ((tailCounted_keeps c s).2 c.k) :).trans hopen
  by_cases h7 : opSpace (rOpA c.x) = 7
  · exact ⟨tailOut c s, rfl, rfl, by rw [tail_eq, if_pos h7, if_pos hopen]⟩
  · have hdev := h.resolve_left h7
    exact ⟨{ dest := BitVec.ofNat 32 (rOpA c.x), peer := 0, byte := 0, data := wordsBytes (tailWords c s) }, rfl, rfl,
      by rw [tail_eq, if_neg h7, if_pos (.inl hdev), leaveOp_held hdev hcounted]; rfl⟩

/-- What TAIL does (R99, R117). -/
theorem tailed_of_issued {c : Iss} {k : Fin 2016} {r : RecRead} {s : State} (hreads : Reads c k r s) (hissued : Issued 0x31 c r s) :
    Tailed c k r s := by
  have hk : c.k = k.val := hreads.1
  have hexec : chainReady c s = true → exec (.tail k r) s = .next (tail c (begun c s)) := fun hready =>
    congrArg Host.Outcome.next (issueTo_chainReady hreads hissued hready tail)
  have hwords : tailWords c (begun c s) = tailWords c s := by unfold tailWords; rw [funext (tailOutput_begun c s)]
  unfold Tailed
  rw [← hk]
  refine ⟨fun hwait => congrArg Host.Outcome.next (issueTo_chainWaits hreads hissued hwait tail), ?_⟩
  intro p l v o u ys hready hp hl hv ho hu hys
  have hys' : ys = tailWords c s := by
    rw [hys]; subst hp hl hv ho hu
    unfold tailWords; rw [List.map_map]
    refine List.map_congr_left fun j _ => ?_
    simp only [Function.comp_apply, tailOutput]
    split
    · rfl
    · split <;> rfl
  subst hys'
  refine ⟨fun hstage => ?_, fun hdest hopen => ?_⟩
  · obtain ⟨hoff, hbytes⟩ := tail_staging hstage (begun c s)
    rw [offCores_begun] at hoff
    exact ⟨_, hexec hready, by rw [hbytes, hwords], memKept_of_offCores hoff, srv_of_offCores hoff⟩
  · obtain ⟨q, hqd, hqw, htail⟩ := tail_held (s := begun c s) hdest (by rwa [begun_ls_opened])
    obtain ⟨hoff, hstore⟩ := tailCounted_keeps c (begun c s)
    rw [offCores_begun] at hoff
    have hexec' := hexec hready
    rw [htail] at hexec'
    refine ⟨_, q, hexec', ?_, hqd, by rw [hqw, hwords], fun m => ?_, memKept_of_offCores hoff, srv_of_offCores hoff⟩
    · rw [lsOf_modLs_same]
      show (lsOf (tailCounted c (begun c s)) c.k).tails ++ [q] = _
      rw [show (lsOf (tailCounted c (begun c s)) c.k).tails = (lsOf (begun c s) c.k).tails from (congrArg (·.2.2.2) (hstore c.k) :),
        lsOf_begun]
    · unfold modLs
      rw [core_modCore_keeps (p := Core.sram) fun q => by rfl,
        show (core (tailCounted c (begun c s)) m).sram = (core (begun c s) m).sram from (congrArg (·.1) (hstore m) :), begun_core_sram]

end Sys2Proof.Machine
end

section
/-! SUPPORT. The judgement of a layer step (R117, R118, R139 to R147): commit, replay and abandonment. -/

open Sys2Proof Sys2Proof.Machine Sys2Proof.Spec

namespace Sys2Proof.Machine

/-! ### Commit -/

theorem core_of_hw {s t : State} (h : t.hw = s.hw) (j : Nat) : core t j = core s j := by unfold core; rw [h]

theorem hw_of_offFabric {s t : State} (h : offFabric t = offFabric s) : t.hw = s.hw := (congrArg State.hw h :)

/-- No layer step is open on core `j`, and nothing of one is held there. -/
def Closed (j : Nat) (s : State) : Prop := lsOf s j = {}

theorem closed_of_hw {j : Nat} {s t : State} (h : t.hw = s.hw) (hs : Closed j s) : Closed j t := by
  unfold Closed lsOf; rw [core_of_hw h]; exact hs

theorem closed_modCore {j : Nat} {f : Core → Core} (h : ∀ q, (f q).ls = q.ls) {k : Nat} {s : State} (hs : Closed j s) :
    Closed j (modCore k f s) := (lsOf_modCore h j s).trans hs

/-- A step that ends opens no layer step (R62). -/
theorem closed_endStep {j : Nat} {s : State} (b : Nat) (hs : Closed j s) : Closed j (endStep b s) := by
  have hqueues : ∀ k s, Closed j s → Closed j (forAll (List.range 17) (fun e => modEngine (17 * k + e) fun g =>
      { g with queue := [], split := none })
      (modCore k (fun q => { q with early := [], redIn := [], mergeIn := [], ringBlks := [] }) s)) := fun k s hs =>
    forAll_invariant (P := Closed j) (fun _ _ _ h => h) (closed_modCore (fun q => by rfl) hs)
  have hcores : ∀ k s, Closed j s →
      Closed j (modCore k (fun q => { q with ls := {}, mergeWait := none, mergeOuts := [], tileUse := 0, tileSeen := 0 }) s) := by
    intro k s hs
    unfold Closed lsOf at *
    rw [core_modCore]; split
    · rfl
    · exact hs
  have hbrun : ∀ f s, Closed j s → Closed j (modBrun b f s) := fun f s => closed_of_hw rfl
  unfold endStep abandonStep
  refine hbrun _ _ ?_
  refine forAll_invariant (P := Closed j) (fun _ _ _ h => closed_of_hw (by rfl) h) ?_
  exact forAll_invariant (P := Closed j) (fun k _ => hcores k) (forAll_invariant (P := Closed j) (fun k _ => hqueues k) hs)

theorem closed_ownerStop {j : Nat} {s : State} (k b f blk : Nat) (write : Bool) (hs : Closed j s) :
    Closed j (ownerStop k b f blk write s) := by
  unfold ownerStop ownerFault
  exact closed_endStep b (closed_of_hw (by rw [raise_hw]) hs)

theorem closed_writeAt {j : Nat} {s : State} (k b o q : Nat) (bs : List Byte) (hs : Closed j s) : Closed j (writeAt k b o q bs s) := by
  have hputs : ∀ fs q, Closed j (regionPuts b fs q (numberedBytes bs) s) := fun fs q =>
    closed_of_hw (by rw [offMem_eq (offMem_regionPuts b fs q (numberedBytes bs) s)]) hs
  unfold writeAt
  split_ifs
  · exact closed_modCore (fun q => by rfl) hs
  · exact closed_modCore (fun q => by rfl) hs
  · exact closed_modCore (fun q => by rfl) hs
  · rw [writeRegion_eq]; split
    · exact hputs ..
    · exact closed_ownerStop _ _ _ _ _ (hputs ..)
  · exact hs

theorem closed_sendFinal {j : Nat} {s : State} (b k : Nat) (d : MergeMsg) (hs : Closed j s) : Closed j (sendFinal b k d s) :=
  closed_of_hw (hw_of_offFabric (by unfold sendFinal; rw [offFabric_sendParts, offFabric_emit])) hs

theorem closed_commitTail {j : Nat} {s : State} (k b : Nat) (t : TailOut) (hs : Closed j s) : Closed j (commitTail k b t s) := by
  unfold commitTail writeOp
  split
  · split
    · exact closed_writeAt _ _ _ _ _ hs
    · split
      · exact closed_of_hw (hw_of_offFabric (by rw [offFabric_sendPart, offFabric_emit])) hs
      · exact hs
  · exact closed_writeAt _ _ _ _ _ hs

theorem hw_takePick (b : Nat) (x : Nat × List (W32 × W32)) (s : State) : (takePick b x s).hw = s.hw := by
  unfold takePick; split <;> rfl

theorem hw_commitWord (b l kind : Nat) (x : Nat × W16) (s : State) : (commitWord b l kind x s).hw = s.hw := by
  unfold commitWord; dsimp only
  split
  · rfl
  · split_ifs <;> rfl

theorem closed_modLs (k : Nat) {j : Nat} {s : State} (h : j = k ∨ Closed j s) : Closed j (modLs k (fun _ => {}) s) := by
  unfold Closed at *
  by_cases hj : j = k
  · rw [hj, lsOf_modLs_same]
  · rw [lsOf_modLs_other hj]; exact h.resolve_left hj

/-- The commit of core `k` closes its layer step and opens none (R117). -/
theorem closed_commitCore {b k j : Nat} {s : State} (h : j = k ∨ Closed j s) : Closed j (commitCore b k s) := by
  have hwords : ∀ l kind xs s, Closed j s → Closed j (forAll xs (commitWord b l kind) s) := fun l kind xs s =>
    forAll_invariant (P := Closed j) fun x _ s => closed_of_hw (hw_commitWord b l kind x s)
  unfold commitCore
  refine hwords _ _ _ _ (hwords _ _ _ _ (hwords _ _ _ _ ?_))
  refine forAll_invariant (P := Closed j) (fun x _ s => closed_of_hw (hw_takePick b x s)) ?_
  refine forAll_invariant (P := Closed j) (fun t _ s => closed_commitTail k b t) ?_
  exact forAll_invariant (P := Closed j) (fun d _ s => closed_sendFinal b k d) (closed_modLs k h)

/-- A fold over a core group whose step closes its own core closes each core of the group. -/
theorem closed_group {f : Nat → State → State} (h : ∀ k j s, (j = k ∨ Closed j s) → Closed j (f k s)) {g : List Nat} {i : Nat}
    (hi : i ∈ g) (s : State) : Closed i (forAll g f s) :=
  forAll_reaches (P := fun _ => True) (Q := Closed i) hi trivial (fun _ _ _ _ _ => trivial) (fun s _ => h i i s (.inl rfl))
    (fun k _ _ s hs => h k i s (.inr hs))

/-! ### What a run that does not commit leaves (R118) -/

/-- A write to one of the core's own spaces changes that core's bytes and nothing else. -/
theorem writeOp_own {o : Nat} (h : inDevice o = false) (k b : Nat) (bs : List Byte) (s : State) :
    offCores (writeOp k b o bs s) = offCores s ∧ (∀ j, lsOf (writeOp k b o bs s) j = lsOf s j)
      ∧ ∀ j, j ≠ k → core (writeOp k b o bs s) j = core s j := by
  unfold writeOp writeAt
  rw [h]
  split_ifs
  iterate 3 exact ⟨rfl, fun j => lsOf_modCore (fun q => by rfl) j s, fun j hj => core_modCore_other hj _ s⟩
  · contradiction
  · exact ⟨rfl, fun _ => rfl, fun _ _ => rfl⟩

/-- One discarded output (R118). -/
theorem dropOuts_keeps (k b : Nat) (s : State) : offCores (dropOuts k b s) = offCores s ∧ (∀ j, lsOf (dropOuts k b s) j = lsOf s j)
    ∧ ∀ j, j ≠ k → core (dropOuts k b s) j = core s j := by
  unfold dropOuts
  refine forAll_invariant (P := fun t => offCores t = offCores s ∧ (∀ j, lsOf t j = lsOf s j) ∧ ∀ j, j ≠ k → core t j = core s j)
    (fun x hx t ht => ?_) ⟨rfl, fun _ => rfl, fun _ _ => rfl⟩
  obtain ⟨hoff, hls, hcore⟩ := ht
  have hown : inDevice (x.1 * 2 ^ 28 + x.2.1) = false := by simpa using (List.mem_filter.mp hx).2
  obtain ⟨hoff', hls', hcore'⟩ := writeOp_own hown k b (openBytes x.2.2 t).1 (openBytes x.2.2 t).2
  exact ⟨hoff'.trans hoff, fun j => (hls' j).trans (hls j), fun j hj => (hcore' j hj).trans (hcore j hj)⟩

theorem lsOf_dropArrivals (k l : Nat) (s : State) (j : Nat) : lsOf (dropArrivals k l s) j = lsOf s j :=
  lsOf_modCore (fun q => by rfl) j s

theorem offCores_dropArrivals (k l : Nat) (s : State) : offCores (dropArrivals k l s) = offCores s := rfl

theorem core_dropArrivals_other {k j : Nat} (h : j ≠ k) (l : Nat) (s : State) : core (dropArrivals k l s) j = core s j :=
  core_modCore_other h _ s

/-! ### Replay (R142, R185) -/

theorem offCores_replayCore (b : Nat) (point : W64) (k : Nat) (s : State) : offCores (replayCore b point k s) = offCores s := by
  unfold replayCore; rw [offCores_modCore, offCores_dropArrivals, (dropOuts_keeps k b s).1]

theorem core_replayCore_other {k j : Nat} (h : j ≠ k) (b : Nat) (point : W64) (s : State) :
    core (replayCore b point k s) j = core s j := by
  unfold replayCore
  rw [core_modCore_other h, core_dropArrivals_other h, (dropOuts_keeps k b s).2.2 j h]

theorem lsOf_replayCore (b : Nat) (point : W64) (k : Nat) (s : State) :
    lsOf (replayCore b point k s) k = { nextRun (lsOf s k) with point := point } := by
  have hls := lsOf_dropArrivals k (lsOf s k).layer (dropOuts k b s) k
  rw [(dropOuts_keeps k b s).2.1 k] at hls
  unfold replayCore lsOf at *
  rw [core_modCore_same]
  show { nextRun (core (dropArrivals k (core s k).ls.layer (dropOuts k b s)) k).ls with point := point } = _
  rw [hls]

theorem ptr_replayCore (b : Nat) (point : W64) (k : Nat) (s : State) :
    (core (replayCore b point k s) k).ptr = (lsOf (replayCore b point k s) k).lstep := by
  unfold replayCore lsOf; rw [core_modCore_same]; rfl

/-- `r` begins a later run of the layer step `q`, with nothing of the earlier runs but what they missed (R119, R142). -/
def ReplayOf (q r : LayerRun) : Prop :=
  ∃ n m p, r = { opened := true, layer := q.layer, run := q.run + n + 1, start := q.start, lstep := q.lstep, beat := q.beat,
                 missPrev := m, point := p }

theorem replayOf_nextRun (q : LayerRun) (p : W64) : ReplayOf q { nextRun q with point := p } := ⟨0, q.missNow, p, rfl⟩

theorem ReplayOf.nextRun {q r : LayerRun} (h : ReplayOf q r) (p : W64) : ReplayOf q { Machine.nextRun r with point := p } := by
  obtain ⟨n, m, p', rfl⟩ := h
  exact ⟨n + 1, [], p, rfl⟩

/-- The stretch point that a stretched replay asks for (R146). -/
def stretchPoint (s : State) : W64 := s.fab.beat + BitVec.ofNat 64 s.fab.lead.toNat

/-- A core of the group replayed within the allowance. -/
def allowedReplay (b i : Nat) (s : State) : State := bump (clOf i) 0x300 1 (replayCore b 0 i s)

/-- A core of the group replayed at a stretch point. -/
def stretchedReplay (b len i : Nat) (s : State) : State :=
  requestStretch i len (bump (clOf i) 0x304 1 (replayCore b (stretchPoint s) i s))

section
variable {b : Nat} {p0 q0 : W64} {f : Nat → State → State}
  (hcore : ∀ k j s, stretchPoint s = q0 → core (f k s) j = core (replayCore b p0 k s) j)
  (hpoint : ∀ k s, stretchPoint (f k s) = stretchPoint s)
include hcore hpoint

/-- A fold over a core group that replays each of its cores. -/
theorem replayed_group {g : List Nat} {i : Nat} (hi : i ∈ g) {s : State} (hs : stretchPoint s = q0) :
    ReplayOf (lsOf s i) (lsOf (forAll g f s) i) ∧ (core (forAll g f s) i).ptr = (lsOf (forAll g f s) i).lstep
      ∧ (g.Nodup → lsOf (forAll g f s) i = { nextRun (lsOf s i) with point := p0 }) := by
  have hstep : ∀ t, stretchPoint t = q0 → lsOf (f i t) i = { nextRun (lsOf t i) with point := p0 }
      ∧ (core (f i t) i).ptr = (lsOf (f i t) i).lstep := fun t ht => by
    have heq := hcore i i t ht
    have hls : lsOf (f i t) i = lsOf (replayCore b p0 i t) i := congrArg Core.ls heq
    rw [hls, heq]
    exact ⟨lsOf_replayCore .., ptr_replayCore ..⟩
  have hother : ∀ k, k ≠ i → ∀ t, stretchPoint t = q0 → core (f k t) i = core t i := fun k hk t ht => by
    rw [hcore k i t ht, core_replayCore_other (Ne.symm hk)]
  refine forAll_reaches (P := fun t => stretchPoint t = q0 ∧ lsOf t i = lsOf s i)
    (Q := fun t => stretchPoint t = q0 ∧ ReplayOf (lsOf s i) (lsOf t i) ∧ (core t i).ptr = (lsOf t i).lstep
      ∧ (g.Nodup → lsOf t i = { nextRun (lsOf s i) with point := p0 })) hi ⟨hs, rfl⟩ ?_ ?_ ?_ |>.2
  · rintro k - hk t ⟨ht, hls⟩
    exact ⟨(hpoint k t).trans ht, (congrArg Core.ls (hother k hk t ht)).trans hls⟩
  · rintro t ⟨ht, hls⟩
    obtain ⟨hnext, hptr⟩ := hstep t ht
    rw [hls] at hnext
    exact ⟨(hpoint i t).trans ht, hnext ▸ replayOf_nextRun .., hptr, fun _ => hnext⟩
  · rintro k - hk t ⟨ht, hreplay, hptr, hexact⟩
    refine ⟨(hpoint k t).trans ht, ?_⟩
    by_cases hki : k = i
    · subst hki
      obtain ⟨hnext, hptr'⟩ := hstep t ht
      exact ⟨hnext ▸ hreplay.nextRun p0, hptr', fun hnodup => absurd rfl (hk hnodup)⟩
    · have heq := hother k hki t ht
      have hls : lsOf (f k t) i = lsOf t i := congrArg Core.ls heq
      rw [hls, heq]
      exact ⟨hreplay, hptr, hexact⟩

end

theorem offCores_allowedReplay (b k : Nat) (s : State) : offCores (allowedReplay b k s) = offCores s := by
  unfold allowedReplay; rw [offCores_bump, offCores_replayCore]

theorem fab_stretchedReplay (b len k : Nat) (s : State) : (stretchedReplay b len k s).fab = { s.fab with
    own := s.fab.own ++ [{ core := k, beat := s.fab.beat, len := BitVec.ofNat 16 (min 65535 len) }] } := by
  have hoff : offCores (bump (clOf k) 0x304 1 (replayCore b (stretchPoint s) k s)) = offCores s := by
    rw [offCores_bump, offCores_replayCore]
  unfold stretchedReplay requestStretch
  rw [fab_of_offCores hoff]

theorem offFabric_requestStretch (k len : Nat) (s : State) : offFabric (offCores (requestStretch k len s)) = offFabric (offCores s) :=
  rfl

theorem offFabric_stretchedReplay (b len k : Nat) (s : State) :
    offFabric (offCores (stretchedReplay b len k s)) = offFabric (offCores s) := by
  have hoff : offCores (bump (clOf k) 0x304 1 (replayCore b (stretchPoint s) k s)) = offCores s := by
    rw [offCores_bump, offCores_replayCore]
  unfold stretchedReplay
  rw [offFabric_requestStretch, hoff]

/-- Each core of the group has its request outstanding (R321). -/
theorem fab_stretched_group (b len : Nat) : ∀ (g : List Nat) (s : State), (forAll g (stretchedReplay b len) s).fab = { s.fab with
    own := s.fab.own ++ g.map fun m => { core := m, beat := s.fab.beat, len := BitVec.ofNat 16 (min 65535 len) } }
  | [], s => by simp [forAll]
  | k :: g, s => by
    show (forAll g (stretchedReplay b len) (stretchedReplay b len k s)).fab = _
    rw [fab_stretched_group b len g, fab_stretchedReplay]
    simp

/-! ### Abandonment (R147) -/

/-- A core of an abandoned layer step. -/
def abandonCore (b layer k : Nat) (s : State) : State :=
  bump (clOf k) 0x308 1 (modLs k (fun _ => {}) (dropArrivals k layer (dropOuts k b s)))

/-- A slot whose vectors the abandonment removes, and the notice to the host. -/
def abandonSlot (b i : Nat) (s : State) : State :=
  match slotRec s b i with
  | some c => noticeWork c 0x10 (removeSlot b i s)
  | none => s

theorem abandonLayer_eq (b : Nat) (group : List Nat) (layer : Nat) (carried impl : BitVec 4) (s : State) :
    abandonLayer b group layer carried impl s =
      let slots := abandonedSlots s b carried
      let s3 := modBrun b (fun r => { r with finalImpl := r.finalImpl ||| impl })
        (forAll slots (abandonSlot b) (forAll group (abandonCore b layer) s))
      raise (coreErr s3 (group.headD 0) b (some layer) 0x26 1 slots.length 0 0) s3 := rfl

theorem closed_abandonCore {b layer k j : Nat} {s : State} (h : j = k ∨ Closed j s) : Closed j (abandonCore b layer k s) := by
  unfold abandonCore Closed lsOf
  rw [core_bump]
  refine closed_modLs k (h.imp_right fun hs => ?_)
  unfold Closed; rw [lsOf_dropArrivals, (dropOuts_keeps k b s).2.1]; exact hs

theorem offCores_abandonCore (b layer k : Nat) (s : State) : offCores (abandonCore b layer k s) = offCores s := by
  unfold abandonCore; rw [offCores_bump, offCores_modLs, offCores_dropArrivals, (dropOuts_keeps k b s).1]

/-- The cores, device memory, the records of errors and the phase alone. -/
def offSlots (s : State) : State := { hw := s.hw, mem := s.mem, memKeys := s.memKeys, err := s.err, su := s.su }

/-- The removal of a sequence's vectors changes none of these. -/
theorem offSlots_removeSlot (b i : Nat) (s : State) : offSlots (removeSlot b i s) = offSlots s := by
  unfold removeSlot; split <;> rfl

theorem offSlots_noticeWork (r status : Nat) (s : State) : offSlots (noticeWork r status s) = offSlots s := by
  unfold noticeWork; split
  · rfl
  · simp [offSlots]

theorem offSlots_abandonSlot (b i : Nat) (s : State) : offSlots (abandonSlot b i s) = offSlots s := by
  unfold abandonSlot; split
  · rw [offSlots_noticeWork, offSlots_removeSlot]
  · rfl

/-! ### The slots removed -/

theorem brun_noticeWork (r status : Nat) (s : State) (b : Nat) : brun (noticeWork r status s) b = brun s b := by
  unfold noticeWork; split
  · rfl
  · simp

theorem brun_restoreSeq (c b : Nat) (s : State) : brun (restoreSeq c s) b = brun s b := rfl

theorem brun_removeSlot {b i c : Nat} {s : State} (h : slotRec s b i = some c) :
    brun (removeSlot b i s) b = { brun s b with removed := (brun s b).removed ||| slotBit i } := by
  unfold removeSlot; rw [h]; dsimp only
  rw [brun_modCtxRun, brun_restoreSeq, brun_modBrun_same]

theorem brun_abandonSlot (b i : Nat) (s : State) : brun (abandonSlot b i s) b =
    if (slotRec s b i).isSome then { brun s b with removed := (brun s b).removed ||| slotBit i } else brun s b := by
  unfold abandonSlot
  split <;> rename_i h
  · rw [brun_noticeWork, brun_removeSlot h, h]; rfl
  · rw [h]; rfl

theorem slotRec_abandonSlot (b i j : Nat) (s : State) : slotRec (abandonSlot b i s) b j = slotRec s b j := by
  unfold slotRec; rw [brun_abandonSlot]; split <;> rfl

theorem bitOf_slotBit (x : BitVec 4) (j : Fin 4) : bitOf (x ||| slotBit j).toNat j = true := by revert x j; decide

theorem bitOf_or {x : BitVec 4} {j : Fin 4} (h : bitOf x.toNat j = true) (y : BitVec 4) : bitOf (x ||| y).toNat j = true := by
  revert x j y; decide

/-- Each slot of the list is removed from the step. -/
theorem removed_abandonSlots {b : Nat} {slots : List Nat} {j : Fin 4} (hj : j.val ∈ slots) {s : State}
    (hrec : (slotRec s b j).isSome = true) : bitOf (brun (forAll slots (abandonSlot b) s) b).removed.toNat j = true := by
  refine forAll_reaches (P := fun t => (slotRec t b j).isSome = true) (Q := fun t => bitOf (brun t b).removed.toNat j = true) hj hrec
    (fun i _ _ t ht => ?_) (fun t ht => ?_) (fun i _ _ t ht => ?_)
  · rw [slotRec_abandonSlot]; exact ht
  · rw [brun_abandonSlot, if_pos ht]; exact bitOf_slotBit _ j
  · rw [brun_abandonSlot]; split
    · exact bitOf_or ht _
    · exact ht

theorem mem_abandonedSlots {s : State} {b : Nat} {carried : BitVec 4} {j : Nat} (h : j ∈ abandonedSlots s b carried) :
    j < 4 ∧ (slotRec s b j).isSome = true := by
  unfold abandonedSlots at h
  obtain ⟨hrange, hslot⟩ := List.mem_filter.mp h
  rw [Bool.and_eq_true, Bool.and_eq_true] at hslot
  exact ⟨List.mem_range.mp hrange, hslot.1.1⟩

theorem length_abandonedSlots (s : State) (b : Nat) (carried : BitVec 4) : (abandonedSlots s b carried).length ≤ 4 := by
  unfold abandonedSlots
  exact (List.length_filter_le ..).trans (by simp)

/-- An abandoned layer step (R147): closed on each core, nothing committed, recorded, and its slots' vectors removed. -/
theorem abandonLayer_spec {b : Nat} {g : List Nat} {i : Nat} (hi : i ∈ g) (layer : Nat) (carried impl : BitVec 4) (s : State) :
    Closed i (abandonLayer b g layer carried impl s) ∧ MemKept s (abandonLayer b g layer carried impl s)
      ∧ Raised 0x26 1 (abandonedSlots s b carried).length 0 0 s (abandonLayer b g layer carried impl s)
      ∧ ∀ j ∈ abandonedSlots s b carried, bitOf (brun (abandonLayer b g layer carried impl s) b).removed.toNat j = true := by
  have hlen := length_abandonedSlots s b carried
  have hsev : ∀ s', (coreErr s' (g.headD 0) b (some layer) 0x26 1 (abandonedSlots s b carried).length 0 0).severity.toNat < 2 :=
    fun _ => by show (BitVec.ofNat 2 1).toNat < 2; decide
  rw [abandonLayer_eq]; dsimp only
  generalize hs1 : forAll g (abandonCore b layer) s = s1
  generalize hs2 : forAll (abandonedSlots s b carried) (abandonSlot b) s1 = s2
  have hoff1 : offCores s1 = offCores s := by
    rw [← hs1]; exact forAll_keeps offCores _ (fun k s => offCores_abandonCore b layer k s) _ _
  have hoff2 : offSlots s2 = offSlots s1 := by
    rw [← hs2]; exact forAll_keeps offSlots _ (fun j s => offSlots_abandonSlot b j s) _ _
  refine ⟨?_, ?_, ?_, fun j hj => ?_⟩
  · refine closed_of_hw (s := s1) ?_ (hs1 ▸ closed_group (fun k j s => closed_abandonCore) hi s)
    rw [raise_hw]; exact (congrArg State.hw hoff2 :)
  · refine memKept_trans (memKept_of_offCores hoff1) (memKept_of_eq ?_ ?_)
    · rw [raise_mem]; exact (congrArg State.mem hoff2 :)
    · rw [raise_memKeys]; exact (congrArg State.memKeys hoff2 :)
  · have herr2 : s2.err = s1.err := (congrArg State.err hoff2 :)
    have hsu2 : s2.su = s1.su := (congrArg State.su hoff2 :)
    have hsu1 : s1.su = s.su := (congrArg State.su hoff1 :)
    have hphase : below7 s = below7 s2 := by unfold below7; rw [hsu2, hsu1]
    have hraised := raised_raise (hsev (modBrun b (fun r => { r with finalImpl := r.finalImpl ||| impl }) s2))
      (modBrun b (fun r => { r with finalImpl := r.finalImpl ||| impl }) s2)
    have hcount : (BitVec.ofNat 32 (abandonedSlots s b carried).length).toNat = (abandonedSlots s b carried).length := by
      rw [BitVec.toNat_ofNat]; exact Nat.mod_eq_of_lt (by omega)
    have hfrom : Raised 0x26 1 (BitVec.ofNat 32 (abandonedSlots s b carried).length).toNat 0 0 s _ :=
      raised_congr hraised (herr2.trans (err_of_offCores hoff1)).symm hphase rfl
    rwa [hcount] at hfrom
  · obtain ⟨hj4, hrec⟩ := mem_abandonedSlots hj
    have hrec1 : (slotRec s1 b j).isSome = true := by unfold slotRec at *; rwa [brun_of_offCores hoff1]
    have hremoved := removed_abandonSlots (b := b) (j := ⟨j, hj4⟩) hj hrec1
    rw [hs2] at hremoved
    rw [brun_raise, brun_modBrun_same]
    exact hremoved

end Sys2Proof.Machine
end

section
/-! SUPPORT. LAYER_STEP_STATUS, case by case (R139 to R147), and the statement. -/

open Sys2Proof Sys2Proof.Machine Sys2Proof.Spec

namespace Sys2Proof.Machine

/-! ### The cases of a judgement -/

/-- Slots that the cores of a group carried in their layer step. -/
def groupCarried (g : List Nat) (s : State) : BitVec 4 := g.foldl (fun x m => x ||| (lsOf s m).carried) 0

/-- Slots implicated in a group's run (R141). -/
def groupImpl (b : Nat) (remote : CoreStatus) (g : List Nat) (s : State) : BitVec 4 :=
  (g.map fun m => coreStatus s m b).foldl (fun a x => a ||| x.impl) remote.impl

/-- The run is dirty (R117). -/
def groupDirty (b : Nat) (remote : CoreStatus) (g : List Nat) (s : State) : Bool :=
  remote.dirty || g.any fun m => (coreStatus s m b).dirty

/-- The run counted on each core, and the slots of a first run noted for the binding. -/
def judgeBegun (b : Nat) (remote : CoreStatus) (g : List Nat) (s : State) : State :=
  let s1 := forAll g (judgeCore b) s
  if (lsOf s (g.headD 0)).run = 0 then
    modBrun b (fun r => { r with
      carried := r.carried ||| groupCarried g s,
      allImpl := if groupDirty b remote g s then r.allImpl &&& (groupImpl b remote g s ||| ~~~(groupCarried g s))
        else r.allImpl &&& ~~~(groupCarried g s) }) s1
  else s1

/-- What the judgement makes of the run: commit, replay within the allowance, stretched replay, or abandonment. -/
def judgedState (b : Nat) (remote : CoreStatus) (g : List Nat) (s : State) : State :=
  let q := lsOf s (g.headD 0)
  let p := planOf s b
  if !groupDirty b remote g s then forAll g (commitCore b) (judgeBegun b remote g s)
  else if q.run < lyA p q.layer then forAll g (allowedReplay b) (judgeBegun b remote g s)
  else if q.run < lyA p q.layer + 2 then forAll g (stretchedReplay b (lySpan p q.layer)) (judgeBegun b remote g s)
  else abandonLayer b g q.layer (groupCarried g s) (groupImpl b remote g s) (judgeBegun b remote g s)

theorem exec_layerStepStatus (b : Fin 4096) (remote : CoreStatus) (s : State) : exec (.layerStepStatus b remote) s =
    .next (if openGroup s b = [] then s
      else if groupDone s b ((openGroup s b).headD 0) = false then s else judgedState b remote (openGroup s b) s) := by
  show execLayerStepStatus b remote s = _
  unfold execLayerStepStatus
  cases hg : openGroup s b with
  | nil => rfl
  | cons k t =>
    dsimp only
    cases hdone : groupDone s b k
    · rw [if_neg (List.cons_ne_nil k t), List.headD_cons, hdone]; rfl
    · rw [if_neg (List.cons_ne_nil k t), List.headD_cons, hdone]
      unfold judgedState judgeBegun groupDirty
      rw [List.headD_cons, List.any_map]; rfl

/-! ### The run counted -/

theorem core_judgeCore (b k : Nat) (s : State) (j : Nat) : core (judgeCore b k s) j = core s j := by
  unfold judgeCore when; dsimp only; split_ifs <;> simp

theorem offCores_judgeCore (b k : Nat) (s : State) : offCores (judgeCore b k s) = offCores s := by
  unfold judgeCore; dsimp only
  exact (offCores_when (offCores_bump ..)).trans (offCores_when (offCores_bump ..))

theorem judgeBegun_ls (b : Nat) (remote : CoreStatus) (g : List Nat) (s : State) (j : Nat) :
    lsOf (judgeBegun b remote g s) j = lsOf s j := by
  have hcount : core (forAll g (judgeCore b) s) j = core s j :=
    forAll_keeps (fun t => core t j) _ (fun k s => core_judgeCore b k s j) _ _
  unfold judgeBegun lsOf; dsimp only; split
  · rw [core_modBrun, hcount]
  · rw [hcount]

theorem offCores_judgeCores (b : Nat) (g : List Nat) (s : State) : offCores (forAll g (judgeCore b) s) = offCores s :=
  forAll_keeps offCores _ (offCores_judgeCore b) _ _

/-- A later run notes nothing for the binding. -/
theorem judgeBegun_later {b : Nat} {remote : CoreStatus} {g : List Nat} {s : State} (h : (lsOf s (g.headD 0)).run ≠ 0) :
    offCores (judgeBegun b remote g s) = offCores s := by
  unfold judgeBegun; dsimp only
  rw [if_neg h, offCores_judgeCores]

/-- The state without the arrays and cores, firmware's data of bindings, the fabric and the output. -/
def offReplay (s : State) : State := { offFabric (offCores s) with ten := {} }

theorem offReplay_modBrun (b : Nat) (f : BRun → BRun) (s : State) : offReplay (modBrun b f s) = offReplay s := rfl

theorem judgeBegun_keeps (b : Nat) (remote : CoreStatus) (g : List Nat) (s : State) :
    offReplay (judgeBegun b remote g s) = offReplay s ∧ (judgeBegun b remote g s).fab = s.fab := by
  have hoff := offCores_judgeCores b g s
  have hreplay : offReplay (forAll g (judgeCore b) s) = offReplay s := by unfold offReplay; rw [hoff]
  have hfab : (forAll g (judgeCore b) s).fab = s.fab := fab_of_offCores hoff
  unfold judgeBegun; dsimp only; split
  · exact ⟨(offReplay_modBrun ..).trans hreplay, hfab⟩
  · exact ⟨hreplay, hfab⟩

/-- What a replay keeps (R118). -/
theorem kept_of_offReplay {s t : State} (h : offReplay t = offReplay s) : t.srv = s.srv ∧ MemKept s t ∧ t.err = s.err :=
  ⟨(congrArg State.srv h :), memKept_of_eq (congrArg State.mem h :) (congrArg State.memKeys h :), (congrArg State.err h :)⟩

/-- What is left in a layer step that is replayed. -/
theorem ReplayOf.fields {q r : LayerRun} (h : ReplayOf q r) : r.opened = true ∧ q.run < r.run ∧ r.layer = q.layer ∧ r.tails = []
    ∧ r.picks = [] ∧ r.contrib = [] ∧ r.carry = [] ∧ r.maxima = [] ∧ r.lstep = q.lstep := by
  obtain ⟨n, m, p, rfl⟩ := h
  exact ⟨rfl, by show q.run < q.run + n + 1; omega, rfl, rfl, rfl, rfl, rfl, rfl, rfl⟩

/-! ### Within the allowance, and stretched -/

theorem allowed_group {b : Nat} {g : List Nat} {i : Nat} (hi : i ∈ g) (s : State) :
    ReplayOf (lsOf s i) (lsOf (forAll g (allowedReplay b) s) i)
      ∧ (core (forAll g (allowedReplay b) s) i).ptr = (lsOf (forAll g (allowedReplay b) s) i).lstep
      ∧ (g.Nodup → lsOf (forAll g (allowedReplay b) s) i = { nextRun (lsOf s i) with point := 0 }) := by
  refine replayed_group (b := b) (f := allowedReplay b) (fun k j t _ => core_bump ..) (fun k t => ?_) hi rfl
  unfold stretchPoint; rw [fab_of_offCores (offCores_allowedReplay b k t)]

theorem core_requestStretch (k len : Nat) (s : State) (j : Nat) : core (requestStretch k len s) j = core s j := rfl

theorem core_stretchedReplay (b len k : Nat) (s : State) (j : Nat) :
    core (stretchedReplay b len k s) j = core (replayCore b (stretchPoint s) k s) j := by
  unfold stretchedReplay; rw [core_requestStretch, core_bump]

theorem stretched_group {b len : Nat} {g : List Nat} {i : Nat} (hi : i ∈ g) (s : State) :
    ReplayOf (lsOf s i) (lsOf (forAll g (stretchedReplay b len) s) i)
      ∧ (core (forAll g (stretchedReplay b len) s) i).ptr = (lsOf (forAll g (stretchedReplay b len) s) i).lstep
      ∧ (g.Nodup → lsOf (forAll g (stretchedReplay b len) s) i = { nextRun (lsOf s i) with point := stretchPoint s }) := by
  refine replayed_group (b := b) (f := stretchedReplay b len) (fun k j t ht => ?_) (fun k t => ?_) hi rfl
  · rw [core_stretchedReplay, ht]
  · unfold stretchPoint; rw [fab_stretchedReplay]

theorem offReplay_allowed_group (b : Nat) (g : List Nat) (s : State) :
    offReplay (forAll g (allowedReplay b) s) = offReplay s ∧ (forAll g (allowedReplay b) s).fab = s.fab := by
  have hoff := forAll_keeps offCores _ (offCores_allowedReplay b) g s
  exact ⟨by unfold offReplay; rw [hoff], fab_of_offCores hoff⟩

theorem offReplay_stretched_group (b len : Nat) (g : List Nat) (s : State) :
    offReplay (forAll g (stretchedReplay b len) s) = offReplay s := by
  refine forAll_keeps offReplay _ (fun k t => ?_) g s
  unfold offReplay; rw [offFabric_stretchedReplay]

/-! ### The judgement -/

theorem judged_clean {b : Nat} {remote : CoreStatus} {g : List Nat} {s : State} (h : groupDirty b remote g s = false) :
    judgedState b remote g s = forAll g (commitCore b) (judgeBegun b remote g s) := by
  unfold judgedState; rw [h]; rfl

section
variable {b : Nat} {remote : CoreStatus} {g : List Nat} {s : State} (h : groupDirty b remote g s = true)
include h

theorem judged_allowed (hrun : (lsOf s (g.headD 0)).run < lyA (planOf s b) (lsOf s (g.headD 0)).layer) :
    judgedState b remote g s = forAll g (allowedReplay b) (judgeBegun b remote g s) := by
  unfold judgedState; dsimp only; rw [h, if_pos hrun]; rfl

theorem judged_stretched (hle : lyA (planOf s b) (lsOf s (g.headD 0)).layer ≤ (lsOf s (g.headD 0)).run)
    (hrun : (lsOf s (g.headD 0)).run < lyA (planOf s b) (lsOf s (g.headD 0)).layer + 2) :
    judgedState b remote g s =
      forAll g (stretchedReplay b (lySpan (planOf s b) (lsOf s (g.headD 0)).layer)) (judgeBegun b remote g s) := by
  unfold judgedState; dsimp only; rw [h, if_neg (Nat.not_lt.mpr hle), if_pos hrun]; rfl

theorem judged_abandoned (hle : lyA (planOf s b) (lsOf s (g.headD 0)).layer + 2 ≤ (lsOf s (g.headD 0)).run) :
    judgedState b remote g s = abandonLayer b g (lsOf s (g.headD 0)).layer (groupCarried g s) (groupImpl b remote g s)
      (judgeBegun b remote g s) := by
  have hallowed : ¬(lsOf s (g.headD 0)).run < lyA (planOf s b) (lsOf s (g.headD 0)).layer := by omega
  unfold judgedState; dsimp only; rw [h, if_neg hallowed, if_neg (Nat.not_lt.mpr hle)]; rfl

/-- A dirty run within its allowance or its two stretched replays is replayed from its LSTEP (R142, R146, R185). -/
theorem judged_replays {i : Nat} (hi : i ∈ g)
    (hrun : (lsOf s (g.headD 0)).run < lyA (planOf s b) (lsOf s (g.headD 0)).layer + 2) :
    ReplayOf (lsOf s i) (lsOf (judgedState b remote g s) i)
      ∧ (core (judgedState b remote g s) i).ptr = (lsOf (judgedState b remote g s) i).lstep
      ∧ offReplay (judgedState b remote g s) = offReplay s
      ∧ (g.Nodup → lsOf (judgedState b remote g s) i = { nextRun (lsOf s i) with
          point := if (lsOf s (g.headD 0)).run < lyA (planOf s b) (lsOf s (g.headD 0)).layer then 0 else stretchPoint s }) := by
  obtain ⟨hbegun, hfab⟩ := judgeBegun_keeps b remote g s
  have hls := judgeBegun_ls b remote g s i
  by_cases hallowed : (lsOf s (g.headD 0)).run < lyA (planOf s b) (lsOf s (g.headD 0)).layer
  · obtain ⟨hreplay, hptr, hexact⟩ := allowed_group (b := b) hi (judgeBegun b remote g s)
    rw [hls] at hreplay hexact
    rw [judged_allowed h hallowed, if_pos hallowed]
    exact ⟨hreplay, hptr, (offReplay_allowed_group b g _).1.trans hbegun, hexact⟩
  · obtain ⟨hreplay, hptr, hexact⟩ := stretched_group (b := b) (len := lySpan (planOf s b) (lsOf s (g.headD 0)).layer) hi
      (judgeBegun b remote g s)
    have hpoint : stretchPoint (judgeBegun b remote g s) = stretchPoint s := by unfold stretchPoint; rw [hfab]
    rw [hls] at hreplay hexact
    rw [hpoint] at hexact
    rw [judged_stretched h (Nat.not_lt.mp hallowed) hrun, if_neg hallowed]
    exact ⟨hreplay, hptr, (offReplay_stretched_group b _ g _).trans hbegun, hexact⟩

end

/-- What LAYER_STEP_STATUS makes of the open layer step (R117, R139 to R147). -/
theorem judged (b : Fin 4096) (remote : CoreStatus) (s : State) : Judged b remote s := by
  have hexec := exec_layerStepStatus b remote s
  refine ⟨fun hnone => by rw [hexec, if_pos hnone], ?_⟩
  rintro g i q a dirty hg hi rfl rfl hdirty
  change dirty = groupDirty b remote g s at hdirty
  have hne : openGroup s b ≠ [] := fun hnil => by simp [← hg, hnil] at hi
  rw [hg] at hexec
  rw [if_neg (hg ▸ hne)] at hexec
  refine ⟨fun hopen => by rw [hexec, if_pos hopen], fun hdone => ⟨judgedState b remote g s, ?_, ?_, ?_, ?_⟩⟩
  · rw [hexec, if_neg (by rw [hdone]; decide)]
  · intro hclean
    rw [judged_clean (hdirty ▸ hclean)]
    exact closed_group (fun k j s => closed_commitCore) hi _
  · intro hd hrun
    have hd' : groupDirty b remote g s = true := hdirty ▸ hd
    obtain ⟨hbegun, hfab⟩ := judgeBegun_keeps b remote g s
    obtain ⟨hreplay, hptr, hoff, hexact⟩ := judged_replays hd' hi hrun
    obtain ⟨hopen, hlater, hlayer, htails, hpicks, hcontrib, hcarry, hmaxima, hlstep⟩ := hreplay.fields
    obtain ⟨hsrv, hmem, herr⟩ := kept_of_offReplay hoff
    refine ⟨hopen, hlater, hlayer, htails, hpicks, hcontrib, hcarry, hmaxima, hsrv, hmem, herr, hptr.trans hlstep, hexact, ?_, ?_⟩
    · intro hallowed
      rw [judged_allowed hd' hallowed, (offReplay_allowed_group b g _).2, hfab]
    · intro hstretch
      rw [judged_stretched hd' hstretch hrun, fab_stretched_group, hfab]
  · intro hd hrun
    have hd' : groupDirty b remote g s = true := hdirty ▸ hd
    have hoff : offCores (judgeBegun b remote g s) = offCores s := judgeBegun_later (by omega)
    have hslots : abandonedSlots (judgeBegun b remote g s) b (groupCarried g s) = abandonedSlots s b (groupCarried g s) := by
      unfold abandonedSlots slotFed slotRec ctxRun
      rw [brun_of_offCores hoff, srv_of_offCores hoff]
    obtain ⟨hclosed, hmem, hraised, hremoved⟩ := abandonLayer_spec (b := b) hi (lsOf s (g.headD 0)).layer (groupCarried g s)
      (groupImpl b remote g s) (judgeBegun b remote g s)
    rw [hslots] at hraised hremoved
    rw [judged_abandoned hd' hrun]
    refine ⟨hclosed, memKept_trans (memKept_of_offCores hoff) hmem, ?_, hremoved⟩
    refine raised_congr hraised (err_of_offCores hoff).symm ?_ rfl
    have hsu : (judgeBegun b remote g s).su = s.su := (congrArg State.su hoff :)
    unfold below7; rw [hsu]

end Sys2Proof.Machine

/-- Settles O52, by what each of CHAIN, CHAIN_ARRIVAL and TAIL does in the state after issue, and the judgement's four cases. -/
theorem chainTailCommit : Obligations.ChainTailCommit := by
  refine ⟨fun k r c s hreads => ⟨chained_of_issued hreads, tailed_of_issued hreads⟩, fun k d s => ⟨fun hnone => ?_, ?_, ?_⟩, judged⟩
  · rw [exec_chainArrival, hnone]; rfl
  · intro hbound hearly
    have hoff := offCores_receiveSum k d [] s
    exact ⟨_, exec_chainArrival_bound d hbound, receiveSum_early hearly [], srv_of_offCores hoff, memKept_of_offCores hoff⟩
  · intro hbound hopen hlayer
    have hoff := offCores_receiveSum k d [] s
    exact ⟨_, exec_chainArrival_bound d hbound, receiveSum_open hopen hlayer [], srv_of_offCores hoff, memKept_of_offCores hoff⟩
end

section
/-! SUPPORT. A program attempt begins (R193, R220): what the choice of spares, the journal and the summaries keep, and the plane, its
count and its engine as the attempt begins. -/

open Sys2Proof Sys2Proof.Machine Sys2Proof.Spec

namespace Sys2Proof.Machine

/-! ### What writes to flash and to registers keep -/

/-- The state without the repair maps, what waits to be written to flash, and the registers of the clusters. -/
def offMaps (s : State) : State :=
  { s with lar := { s.lar with repair := {}, queue := [] }, hw := { s.hw with clusters := [] } }

section
variable {s t : State} (h : offMaps t = offMaps s)
include h

theorem planes_of_offMaps : t.hw.planes = s.hw.planes := (congrArg (fun x : State => x.hw.planes) h :)
theorem engines_of_offMaps : t.hw.engines = s.hw.engines := (congrArg (fun x : State => x.hw.engines) h :)
theorem plane_of_offMaps (n : Nat) : plane t n = plane s n := by unfold plane; rw [planes_of_offMaps h]
theorem engine_of_offMaps (e : Nat) : engine t e = engine s e := by unfold engine; rw [engines_of_offMaps h]
theorem planesNow_of_offMaps : t.lar.planesNow = s.lar.planesNow := (congrArg (fun x : State => x.lar.planesNow) h :)
theorem planeCount_of_offMaps (n : Nat) : planeCount t n = planeCount s n := by unfold planeCount; rw [planesNow_of_offMaps h]
theorem err_of_offMaps : t.err = s.err := (congrArg State.err h :)
theorem memKept_of_offMaps : MemKept s t := memKept_of_eq (congrArg State.mem h :) (congrArg State.memKeys h :)

end

@[simp] theorem offMaps_bump (p off n : Nat) (s : State) : offMaps (bump p off n s) = offMaps s := by unfold bump; split <;> rfl
@[simp] theorem offMaps_setWin (p off : Nat) (v : W64) (s : State) : offMaps (setWin p off v s) = offMaps s := by
  unfold setWin; split <;> rfl
@[simp] theorem offMaps_planeSummary (p : Nat) (s : State) : offMaps (planeSummary p s) = offMaps s := by simp [planeSummary]
@[simp] theorem offMaps_writeRepair (s : State) : offMaps (writeRepair s) = offMaps s := rfl

theorem offMaps_takeSpares (n : Nat) (s : State) : offMaps (takeSpares n s) = offMaps s := by
  unfold takeSpares; dsimp only; split <;> rfl

theorem offMaps_selectSpares (n : Nat) (x : List Nat × List Nat) (s : State) : offMaps (selectSpares n x s) = offMaps s := by
  unfold selectSpares; split
  · rfl
  · rw [offMaps_bump, offMaps_writeRepair]; rfl

@[simp] theorem journal_hw (e : JEntry) (s : State) : (journal e s).hw = s.hw := by simp [journal]
@[simp] theorem journal_err (e : JEntry) (s : State) : (journal e s).err = s.err := by simp [journal]
@[simp] theorem journal_mem (e : JEntry) (s : State) : (journal e s).mem = s.mem := by simp [journal]
@[simp] theorem journal_memKeys (e : JEntry) (s : State) : (journal e s).memKeys = s.memKeys := by simp [journal]
@[simp] theorem plane_journal (e : JEntry) (s : State) (n : Nat) : plane (journal e s) n = plane s n := by simp [plane]
@[simp] theorem engine_journal (e : JEntry) (s : State) (j : Nat) : engine (journal e s) j = engine s j := by simp [engine]

theorem planesNow_journal (e : JEntry) (s : State) :
    (journal e s).lar.planesNow = (applyEntry e s.lar.planesNow s.lar.slotsNow).1 := rfl

/-! ### The program count (R220, R510) -/

/-- The KIND 0 entry of a program. -/
def startEntry (n : Nat) (s : State) : JEntry :=
  { plane := BitVec.ofNat 22 n, kind := 0, value := BitVec.ofNat 16 (min 65535 (planeCount s n + 1)), payload := 0 }

/-- A plane's index fits the journal's field. -/
theorem planeField {n : Nat} (h : n < 2227680) : (BitVec.ofNat 22 n).toNat = n := by
  rw [BitVec.toNat_ofNat]; exact Nat.mod_eq_of_lt (by omega)

theorem planeCount_startEntry {n : Nat} (h : n < 2227680) (s s' : State) :
    planeCount (journal (startEntry n s') s) n = min 65535 (planeCount s' n + 1) := by
  unfold planeCount
  rw [planesNow_journal]
  unfold applyEntry startEntry; dsimp only
  rw [if_pos rfl, planeField h, look_put_same]; dsimp only
  rw [BitVec.toNat_ofNat]
  exact Nat.mod_eq_of_lt (by omega)

/-! ### The beginning of an attempt (R193) -/

/-- The maps that an attempt runs under. -/
def attemptMaps (n : Nat) (s : State) : State := if inHeldStretch s n then s else takeSpares n s

theorem offMaps_attemptMaps (n : Nat) (s : State) : offMaps (attemptMaps n s) = offMaps s := by
  unfold attemptMaps; split
  · rfl
  · exact offMaps_takeSpares n s

/-- The program that an attempt begins. -/
def attemptProg (n purpose old attempt : Nat) (faults : List (Nat × Nat)) (s : State) : Prog :=
  { plane := n, purpose := purpose, old := old, attempt := attempt, erasing := true, row := 0, iter := 0, extending := false, exts := 0,
    target := [], faults := [],
    adjusted := if 1 < attempt ∧ (attempt = 3 ∨ 4 ≤ (colsOffOf (attemptMaps n s) n).length)
      then adjustments (attemptMaps n s) n faults else [],
    waiting := false, late := 0, wanted := 0, failedCells := 0, held := inHeldStretch s n }

/-- The owner tag that a plane takes. -/
def attemptOwner (n : Nat) (s : State) : W64 :=
  match (plane s n).home with | some h => (entry s h.1).tenant | none => (plane s n).owner

/-- A plane whose erase starts. -/
def attemptPlane (n purpose attempt : Nat) (s : State) (q : Plane) : Plane :=
  { q with st := writingState purpose q.st, owner := attemptOwner n s, next := none, tries := attempt }

theorem beginAttempt_eq (n purpose old attempt : Nat) (faults : List (Nat × Nat)) (s : State) :
    beginAttempt n purpose old attempt faults s =
      planeSummary (clOf (coreOf (engOf n))) (bump (clOf (coreOf (engOf n))) 0x600 1
        (modEngine (engOf n) (fun x => { x with prog := some (attemptProg n purpose old attempt faults s) })
          (journal (startEntry n s) (modPlane n (attemptPlane n purpose attempt s) (attemptMaps n s))))) := rfl

section
variable (n purpose old attempt : Nat) (faults : List (Nat × Nat)) (s : State)

theorem prog_beginAttempt : (engine (beginAttempt n purpose old attempt faults s) (engOf n)).prog
    = some (attemptProg n purpose old attempt faults s) := by
  rw [beginAttempt_eq, engine_of_offMaps (offMaps_planeSummary ..), engine_bump, engine_modEngine_same]

theorem plane_beginAttempt (j : Nat) : plane (beginAttempt n purpose old attempt faults s) j =
    if j = n then attemptPlane n purpose attempt s (plane s n) else plane s j := by
  rw [beginAttempt_eq, plane_of_offMaps (offMaps_planeSummary ..), plane_bump, plane_modEngine, plane_journal, plane_modPlane]
  simp only [plane_of_offMaps (offMaps_attemptMaps n s)]

theorem planeCount_beginAttempt (h : n < 2227680) :
    planeCount (beginAttempt n purpose old attempt faults s) n = min 65535 (planeCount s n + 1) := by
  rw [beginAttempt_eq, planeCount_of_offMaps (offMaps_planeSummary ..), planeCount_of_offMaps (offMaps_bump ..)]
  exact planeCount_startEntry h _ s

theorem err_beginAttempt : (beginAttempt n purpose old attempt faults s).err = s.err := by
  rw [beginAttempt_eq, err_of_offMaps (offMaps_planeSummary ..), bump_err, modEngine_err, journal_err, modPlane_err,
    err_of_offMaps (offMaps_attemptMaps n s)]

theorem memKept_beginAttempt : MemKept s (beginAttempt n purpose old attempt faults s) := by
  rw [beginAttempt_eq]
  refine memKept_trans (memKept_of_offMaps (offMaps_attemptMaps n s)) (memKept_trans (memKept_of_eq ?_ ?_)
    (memKept_of_offMaps (offMaps_planeSummary ..)))
  · simp
  · simp

end

/-- A program of a plane that takes no other's place. -/
theorem beginAttempt_first (n purpose old : Nat) (faults : List (Nat × Nat)) (s : State) :
    (attemptProg n purpose old 1 faults s).adjusted = [] := by unfold attemptProg; simp

/-! ### The plane that R204 picks -/

/-- The plane with the lower count of two. -/
def lowerCount (s : State) (a : Option Nat) (n : Nat) : Option Nat :=
  match a with
  | none => some n
  | some m => if planeCount s n < planeCount s m then some n else some m

/-- The plane picked is one of the list. -/
theorem lowerCount_mem {s : State} {m : Nat} : ∀ {l : List Nat} {a : Option Nat}, l.foldl (lowerCount s) a = some m →
    m ∈ l ∨ a = some m
  | [], _, h => .inr h
  | n :: l, a, h => by
    rcases lowerCount_mem (l := l) h with hmem | hhead
    · exact .inl (List.mem_cons_of_mem n hmem)
    · unfold lowerCount at hhead
      split at hhead
      · exact .inl (Option.some.inj hhead ▸ List.mem_cons_self ..)
      · split at hhead
        · exact .inl (Option.some.inj hhead ▸ List.mem_cons_self ..)
        · exact .inr hhead

/-- It is FREE, given to no block, and of that engine. -/
theorem pickPlane_some {s : State} {e m : Nat} (h : pickPlane s e = some m) :
    (plane s m).st = 0 ∧ (plane s m).home = none ∧ engOf m = e ∧ m % 65 < 64 := by
  have hfold : (((List.range 64).map (65 * e + ·)).filter (planeFree s)).foldl (lowerCount s) none = some m := h
  obtain ⟨hrange, hfree⟩ := List.mem_filter.mp ((lowerCount_mem hfold).resolve_right (by simp))
  obtain ⟨i, hi, rfl⟩ := List.mem_map.mp hrange
  have hi64 := List.mem_range.mp hi
  simp only [planeFree, Bool.and_eq_true, beq_iff_eq, Option.isNone_iff_eq_none] at hfree
  obtain ⟨⟨hst, hhome⟩, -⟩ := hfree
  exact ⟨hst, hhome, by unfold engOf; omega, by omega⟩

/-- A plane that was picked for a state is picked wherever planes and counts are the same. -/
theorem pickPlane_congr {s t : State} (hp : ∀ n, plane t n = plane s n) (hc : ∀ n, planeCount t n = planeCount s n) (e : Nat) :
    pickPlane t e = pickPlane s e := by
  unfold pickPlane
  rw [show planeFree t = planeFree s from funext fun n => by unfold planeFree; rw [hp]]
  simp only [hc]

end Sys2Proof.Machine
end

section
/-! SUPPORT. PROGRAM_START (R193, R202, R220, R221). -/

open Sys2Proof Sys2Proof.Machine Sys2Proof.Spec

namespace Sys2Proof.Machine

/-! ### The counter of uncorrected words (R487) -/

theorem enterHost_memUncorrected (r : ErrRec) (e : ErrState) : (enterHost r e).memUncorrected = e.memUncorrected := by
  unfold enterHost; split
  · rfl
  · split <;> rfl

theorem enterMgmt_memUncorrected (r : ErrRec) (e : ErrState) : (enterMgmt r e).memUncorrected = e.memUncorrected := by
  unfold enterMgmt; split
  · rfl
  · split <;> rfl

theorem route_memUncorrected (r : ErrRec) (s : State) : (route r s).err.memUncorrected = s.err.memUncorrected := by
  unfold route; dsimp only
  rw [enterMgmt_memUncorrected]
  split
  · rfl
  · rw [enterHost_memUncorrected]

/-- A record raised counts no word. -/
theorem raise_memUncorrected {r : ErrRec} (h : r.severity.toNat < 2) (s : State) :
    (raise r s).err.memUncorrected = s.err.memUncorrected := by
  rw [raise_minor h]
  unfold raiseOnly
  rw [route_memUncorrected]; dsimp only
  split <;> rfl

/-! ### The master copy read (R201, R202, R487) -/

theorem hw_markMaster (n : Nat) (s : State) : (markMaster n s).hw.planes = s.hw.planes ∧ (markMaster n s).hw.engines = s.hw.engines
    ∧ ∀ m, look (fun _ => none) s.hw.masters n = some m → masterBad (markMaster n s) n = true := by
  unfold markMaster
  split
  · rename_i h
    exact ⟨rfl, rfl, fun m hm => by rw [h] at hm; exact absurd hm (by simp)⟩
  · exact ⟨rfl, rfl, fun m _ => by unfold masterBad; rw [look_put_same]⟩

/-- A copy that is not used marks itself and nothing else of the array (R202). -/
theorem masterMarked_masterFault {n : Nat} {s t : State} (h : t.hw = s.hw) : MasterMarked n s (masterFault n t) := by
  have hplane : plane t n = plane s n := by unfold plane; rw [h]
  obtain ⟨hplanes, hengines, hbad⟩ := hw_markMaster n t
  unfold masterFault MasterMarked
  rw [hplane]
  split
  · rename_i hnone
    rw [h]; exact ⟨rfl, rfl, fun _ _ hhome => absurd hnone hhome⟩
  · refine ⟨?_, ?_, fun m hm _ => ?_⟩
    · rw [raise_hw, hplanes, h]
    · rw [raise_hw, hengines, h]
    · unfold masterBad
      rw [raise_hw]
      exact hbad m (by rw [h]; exact hm)

theorem masterFault_memUncorrected (n : Nat) (s : State) : (masterFault n s).err.memUncorrected = s.err.memUncorrected := by
  have hmark : (markMaster n s).err = s.err := by unfold markMaster; split <;> rfl
  unfold masterFault; split
  · rfl
  · rw [raise_memUncorrected (by show (BitVec.ofNat 2 1).toNat < 2; decide), hmark]

theorem memBad_memUncorrected (r : ErrRec) (f : BitVec 24) (q : BitVec 16) (s : State) :
    (memFault r (.memBad f q) s).err.memUncorrected = s.err.memUncorrected + 1 := by
  unfold memFault; dsimp only; rw [raise_memUncorrected (by show (1 : BitVec 2).toNat < 2; decide)]

/-- A copy whose CRC does not match is recorded (R202). -/
theorem raised_masterFault {n : Nat} {s : State} {x : Nat × Nat × Nat × Nat × Nat} (h : (plane s n).home = some x)
    (hx : x.2.1 < 2 ^ 32) : Raised 0x31 1 x.2.1 0 0 s (masterFault n s) := by
  have hblock : (BitVec.ofNat 32 x.2.1).toNat = x.2.1 := by rw [BitVec.toNat_ofNat]; exact Nat.mod_eq_of_lt hx
  have herr : (markMaster n s).err = s.err := by unfold markMaster; split <;> rfl
  have hphase : below7 s = below7 (markMaster n s) := by unfold markMaster; split <;> rfl
  unfold masterFault
  rw [h]; dsimp only
  have hfrom : Raised 0x31 1 (BitVec.ofNat 32 x.2.1).toNat 0 0 s _ :=
    raised_congr (raised_raise (r := { (err 0x31 1 x.2.1 0 0).atPlane n with tenant := BitVec.ofNat 12 x.1 })
      (by show (BitVec.ofNat 2 1).toNat < 2; decide) (markMaster n s)) herr.symm hphase rfl
  rwa [hblock] at hfrom

/-- Plane 64 needs no copy, and a good one that is read without error serves. -/
theorem withMaster_good {n : Nat} {s : State} (h : n % 65 = 64 ∨ masterGood s n = true) (f : State → State) :
    withMaster n [] f s = f s := by
  unfold withMaster
  split
  · rfl
  · rename_i hn
    have hgood := h.resolve_left hn
    dsimp only
    rw [if_neg (by simp [hgood])]; rfl

theorem withMaster_bad {n : Nat} {s : State} (hn : n % 65 ≠ 64) (h : masterGood s n = false) (f : State → State) :
    withMaster n [] f s = masterFault n s := by
  unfold withMaster; dsimp only
  rw [if_neg hn, if_pos (.inl (by simp [h]))]; rfl

theorem withMaster_memBad {n : Nat} (hn : n % 65 ≠ 64) (f : BitVec 24) (q : BitVec 16) (g : State → State) (s : State) :
    withMaster n [.memBad f q] g s = masterFault n (memFault ((err 0 0 0 0 0).atPlane n) (.memBad f q) s) := by
  unfold withMaster; dsimp only
  rw [if_neg hn, if_pos (.inr (by rfl))]; rfl

theorem masterBad_of_good {n : Nat} {s : State} (h : masterGood s n = true) : masterBad s n = false := by
  unfold masterGood at h; unfold masterBad
  split at h
  · exact absurd h (by simp)
  · simp at h; exact h.1

/-! ### A plane beyond its rating (R221) -/

theorem planeCount_lt (s : State) (n : Nat) : planeCount s n < 2 ^ 32 :=
  Nat.lt_of_lt_of_le (BitVec.isLt _) (by decide)

/-- The record changes the error state alone. -/
theorem overRating_eq (n : Nat) (s : State) : overRating n s = { s with err := (overRating n s).err } :=
  raise_eq_err (by show (BitVec.ofNat 2 0).toNat < 2; decide) s

theorem raised_overRating (n : Nat) (s : State) : Raised 0x33 0 (planeCount s n) 0 0 s (overRating n s) := by
  have hcount : (BitVec.ofNat 32 (planeCount s n)).toNat = planeCount s n := by
    rw [BitVec.toNat_ofNat]; exact Nat.mod_eq_of_lt (planeCount_lt s n)
  have hfrom : Raised 0x33 0 (BitVec.ofNat 32 (planeCount s n)).toNat 0 0 s (overRating n s) :=
    raised_raise (r := (err 0x33 0 (planeCount s n) 0 0).atPlane n) (by show (BitVec.ofNat 2 0).toNat < 2; decide) s
  rwa [hcount] at hfrom

/-! ### Migration (R221) -/

/-- The state in which plane `m` has taken the block of plane `n`. -/
def blockMoved (n m : Nat) (s : State) : State :=
  let s1 := heldMoves n m (modPlane m (fun q => { q with home := (plane s n).home, subst := (plane s n).subst }) s)
  { s1 with hw := { s1.hw with masters := put (fun _ => none) s1.hw.masters m (look (fun _ => none) s.hw.masters n) } }

theorem plane_blockMoved (n m j : Nat) (s : State) : plane (blockMoved n m s) j =
    if j = m then { plane s m with home := (plane s n).home, subst := (plane s n).subst } else plane s j := by
  have hmod : plane (blockMoved n m s) j
      = plane (modPlane m (fun q => { q with home := (plane s n).home, subst := (plane s n).subst }) s) j := rfl
  rw [hmod, plane_modPlane]

theorem planeCount_blockMoved (n m j : Nat) (s : State) : planeCount (blockMoved n m s) j = planeCount s j := rfl

/-- A plane RETIRED in the place of which another is programmed. -/
def retiredPlane (q : Plane) : Plane := { q with st := 5, next := none, tries := 0 }

/-- One retired with its block gone from it. -/
def emptiedPlane (q : Plane) : Plane := { q with st := 5, next := none, home := none, tries := 0 }

/-- The state in which a migration's own plane is RETIRED. -/
def blockMovedOn (n m : Nat) (s : State) : State :=
  let s3 := modPlane n emptiedPlane (blockMoved n m s)
  { s3 with hw := { s3.hw with masters := put (fun _ => none) s3.hw.masters n none } }

/-- The state in which a first program's plane is RETIRED. -/
def blockMovedFirst (n m : Nat) (s : State) : State :=
  modPlane m (fun q => { q with moveOf := some n }) (modPlane n retiredPlane (blockMoved n m s))

theorem plane_blockMovedOn (n m j : Nat) (s : State) : plane (blockMovedOn n m s) j =
    if j = n then emptiedPlane (plane (blockMoved n m s) n) else plane (blockMoved n m s) j := by
  have hmod : plane (blockMovedOn n m s) j = plane (modPlane n emptiedPlane (blockMoved n m s)) j := rfl
  rw [hmod, plane_modPlane]

theorem plane_blockMovedFirst (n m j : Nat) (s : State) : plane (blockMovedFirst n m s) j =
    if j = m then { plane (modPlane n retiredPlane (blockMoved n m s)) m with moveOf := some n }
    else if j = n then retiredPlane (plane (blockMoved n m s) n) else plane (blockMoved n m s) j := by
  unfold blockMovedFirst; rw [plane_modPlane]; simp only [plane_modPlane]

theorem migrate_eq (n m purpose old : Nat) (s : State) : migrate n m purpose old s =
    if purpose = 1 then beginAttempt m 2 n 1 [] (blockMoved n m s)
    else if purpose = 2 then beginAttempt m 2 old 1 [] (blockMovedOn n m s)
    else beginAttempt m purpose m 1 [] (blockMovedFirst n m s) := rfl

/-! ### An abandoned program (R348) -/

theorem engines_releasePlane (n : Nat) (s : State) : (releasePlane n s).hw.engines = s.hw.engines := by
  unfold releasePlane; dsimp only; split_ifs <;> rfl

theorem hw_checkReleased (b : Nat) (s : State) : (checkReleased b s).hw = s.hw := by
  have hreply : ∀ c x, (replyOpt c b 0 0 0 x).hw = x.hw := fun c x => by
    unfold replyOpt replyCmd; split
    · rfl
    · rw [finish_hw]
  unfold checkReleased; dsimp only; split
  · rfl
  · exact hreply _ _

theorem engines_ite {c : Prop} [Decidable c] {x y z : State} (hx : x.hw.engines = z.hw.engines) (hy : y.hw.engines = z.hw.engines) :
    (if c then x else y).hw.engines = z.hw.engines := by
  split
  · exact hx
  · exact hy

theorem engine_abandonProgram (e : Nat) (g : Prog) (s : State) : (engine (abandonProgram e g s) e).prog = none := by
  unfold abandonProgram
  extract_lets n b gone s1 s2 s3
  have hs2 : s2.hw.engines = s1.hw.engines := engines_ite rfl (engines_ite (engines_releasePlane n s1) rfl)
  have hs3 : s3.hw.engines = s1.hw.engines := engines_ite ((engines_releasePlane g.old s2).trans hs2) hs2
  have hprog : (engine s1 e).prog = none := congrArg Engine.prog (engine_modEngine_same e _ s)
  unfold engine at *
  rw [hw_checkReleased, hs3]; exact hprog

end Sys2Proof.Machine
end

section
/-! SUPPORT. The cases of PROGRAM_START (R193, R196, R202, R210, R221). -/

open Sys2Proof Sys2Proof.Machine Sys2Proof.Spec

namespace Sys2Proof.Machine

/-! ### The command -/

theorem exec_programStart_masterBad {p : ProgStart} {s : State} (h : masterBad s p.plane = true) : exec (.programStart p) s = .next s := by
  show execProgramStart p s = _
  unfold execProgramStart; dsimp only
  rw [if_pos h]

/-- With no program on its engine, a plane that may start one reads its master copy and starts it. -/
theorem exec_programStart_idle {n : Fin 2227680} {faults : List UnitFault} {use : Nat} {s : State}
    (hprog : (engine s (engOf n)).prog = none) (huse : purposeOf s n = some use) : exec (.programStart ⟨n, faults⟩) s =
      .next (if MayStart n use s = true then withMaster n faults (startProgram n use) s else s) := by
  show execProgramStart ⟨n, faults⟩ s = _
  unfold execProgramStart MayStart; dsimp only
  rw [hprog, huse]; dsimp only
  by_cases hbad : masterBad s n = true
  · rw [if_pos hbad, if_neg (by simp [hbad])]
  · rw [if_neg hbad]
    by_cases hrules : s.host.quiesce = true ∨ (!engineFree s (engOf n)) = true ∨ (!timeToStart s n use true) = true
        ∨ (!underCap s n) = true ∨ (!twinsIdle s n) = true
    · rw [if_pos hrules, if_neg]
      intro hmay
      simp only [Bool.and_eq_true, Bool.not_eq_true'] at hmay
      simp [hmay] at hrules
    · rw [if_neg hrules]
      simp only [not_or, Bool.not_eq_true, Bool.not_eq_false'] at hrules
      obtain ⟨hquiesce, hfree, htime, hcap, htwins⟩ := hrules
      rw [Bool.not_eq_true] at hbad
      cases hturn : turnTo s n <;> cases hgood : masterGood s n <;> simp [hbad, hquiesce, hfree, htime, hcap, htwins]

theorem exec_programStart_noPurpose {n : Fin 2227680} {faults : List UnitFault} {s : State}
    (hprog : (engine s (engOf n)).prog = none) (huse : purposeOf s n = none) : exec (.programStart ⟨n, faults⟩) s = .next s := by
  show execProgramStart ⟨n, faults⟩ s = _
  unfold execProgramStart; dsimp only
  rw [hprog, huse]; dsimp only
  split <;> rfl

/-- With a program on the engine, its plane alone is served, and only as it waits for its next attempt. -/
theorem exec_programStart_running {n : Fin 2227680} {faults : List UnitFault} {g : Prog} {s : State}
    (hprog : (engine s (engOf n)).prog = some g) : exec (.programStart ⟨n, faults⟩) s =
      .next (if masterBad s n then s
        else if !(g.plane == n.val && g.waiting) then s
        else if mustAbandon s g then abandonProgram (engOf n) g s
        else if engineFree s (engOf n) ∧ timeToStart s n g.purpose false ∧ underCap s n then withMaster n faults (nextAttempt n g) s
        else s) := by
  show execProgramStart ⟨n, faults⟩ s = _
  unfold execProgramStart; dsimp only
  rw [hprog]

/-! ### A program in place -/

/-- What a program in place begins from: the array and the counts are the state's own. -/
structure BeginsFrom (x s : State) : Prop where
  plane : ∀ j, Machine.plane x j = Machine.plane s j
  count : ∀ j, planeCount x j = planeCount s j
  mem : MemKept s x

theorem beginsFrom_refl (s : State) : BeginsFrom s s := ⟨fun _ => rfl, fun _ => rfl, fun _ => rfl⟩

theorem beginsFrom_of_offMaps {x s : State} (h : offMaps x = offMaps s) : BeginsFrom x s :=
  ⟨plane_of_offMaps h, planeCount_of_offMaps h, memKept_of_offMaps h⟩

theorem beginsFrom_overRating (n : Nat) (s : State) : BeginsFrom (overRating n s) s := by
  rw [overRating_eq]; exact ⟨fun _ => rfl, fun _ => rfl, fun _ => rfl⟩

/-- A program below the rating runs in place (R221). -/
theorem startProgram_inPlace {n use : Nat} {s : State} (h : use ≠ 1 ∨ n % 65 = 64 ∨ planeCount s n < 10000) :
    ∃ x, startProgram n use s = beginAttempt n use n 1 [] x ∧ BeginsFrom x s := by
  have hbelow : ¬(use = 1 ∧ n % 65 ≠ 64 ∧ 10000 ≤ planeCount s n) := by omega
  unfold startProgram
  rw [if_neg hbelow]
  split
  · refine ⟨_, rfl, ?_⟩
    split
    · exact beginsFrom_refl s
    · exact beginsFrom_of_offMaps (offMaps_selectSpares ..)
  · exact ⟨s, rfl, beginsFrom_refl s⟩

section
variable {n : Nat} {s : State} (hn : n % 65 ≠ 64) (hcount : 10000 ≤ planeCount s n)
include hn hcount

/-- A refresh at the rating goes to the FREE plane picked (R221). -/
theorem startProgram_migrates {m : Nat} (hpick : pickPlane s (engOf n) = some m) : startProgram n 1 s = migrate n m 1 n s := by
  unfold startProgram
  rw [if_pos ⟨rfl, hn, hcount⟩, hpick]

/-- Where there is none it runs in place, with a record. -/
theorem startProgram_over (hpick : pickPlane s (engOf n) = none) :
    startProgram n 1 s = beginAttempt n 1 n 1 [] (overRating n s) := by
  unfold startProgram
  rw [if_pos ⟨rfl, hn, hcount⟩, hpick]

end

/-- A further attempt below the rating, or with no plane to go to, runs in place. -/
theorem nextAttempt_inPlace {n : Nat} {s : State} (g : Prog)
    (h : n % 65 = 64 ∨ planeCount s n < 10000 ∨ pickPlane s (engOf n) = none) :
    ∃ x, nextAttempt n g s = beginAttempt n g.purpose g.old (g.attempt + 1) g.faults x ∧ BeginsFrom x s := by
  have hpick : (if decide (n % 65 ≠ 64 ∧ 10000 ≤ planeCount s n) = true then pickPlane s (engOf n) else none) = none := by
    split
    · rename_i hspent
      exact (h.resolve_left (of_decide_eq_true hspent).1).resolve_left (Nat.not_lt.mpr (of_decide_eq_true hspent).2)
    · rfl
  unfold nextAttempt; dsimp only
  rw [hpick]
  refine ⟨_, rfl, ?_⟩
  unfold when; split
  · exact beginsFrom_overRating n s
  · exact beginsFrom_refl s

/-- A further attempt at the rating moves to the plane picked (R221). -/
theorem nextAttempt_moves {n m : Nat} {s : State} (g : Prog) (hn : n % 65 ≠ 64) (hcount : 10000 ≤ planeCount s n)
    (hpick : pickPlane s (engOf n) = some m) :
    nextAttempt n g s = migrate n m g.purpose g.old (modEngine (engOf n) (fun x => { x with prog := none }) s) := by
  have hspent : decide (n % 65 ≠ 64 ∧ 10000 ≤ planeCount s n) = true := decide_eq_true ⟨hn, hcount⟩
  unfold nextAttempt; dsimp only
  rw [hspent, if_pos rfl, hpick]

/-- An attempt of plane `n` in place: its program, its state, its count, and what stays. -/
theorem began_inPlace {n purpose old attempt : Nat} {faults : List (Nat × Nat)} {x s : State} (hn : n < 2227680) (h : BeginsFrom x s) :
    let t := beginAttempt n purpose old attempt faults x
    (engine t (engOf n)).prog = some (attemptProg n purpose old attempt faults x)
      ∧ (plane t n).st = writingState purpose (plane s n).st ∧ (plane t n).cells = (plane s n).cells
      ∧ planeCount t n = min 65535 (planeCount s n + 1) ∧ (∀ m, m ≠ n → plane t m = plane s m) ∧ MemKept s t := by
  have hplane := plane_beginAttempt n purpose old attempt faults x
  refine ⟨prog_beginAttempt .., ?_, ?_, ?_, fun m hm => ?_, memKept_trans h.mem (memKept_beginAttempt n purpose old attempt faults x)⟩
  · rw [hplane, if_pos rfl, h.plane]; rfl
  · rw [hplane, if_pos rfl, h.plane]; rfl
  · rw [planeCount_beginAttempt _ _ _ _ _ _ hn, h.count]
  · rw [hplane, if_neg hm, h.plane]

/-! ### A block that moves -/

/-- The plane that takes a block is FREE as its erase starts, so it is PROGRAMMING then. -/
theorem writingState_free {purpose : Nat} (h : purpose ≠ 3) : writingState purpose 0 = 1 := by
  unfold writingState
  rw [if_neg (by decide), if_pos ⟨h, .inl rfl⟩]

/-- A rewrite of plane `n` that moves to plane `m`. -/
theorem migrated_rewrite {n m : Nat} (old : Nat) {s : State} (hst : (plane s m).st = 0) (hnm : n ≠ m) :
    let t := migrate n m 1 old s
    (engine t (engOf m)).prog = some (attemptProg m 2 n 1 [] (blockMoved n m s)) ∧ (plane t m).st = 1
      ∧ (plane t m).home = (plane s n).home ∧ plane t n = plane s n
      ∧ (m < 2227680 → planeCount t m = min 65535 (planeCount s m + 1)) := by
  dsimp only
  rw [migrate_eq, if_pos rfl]
  have hplane := plane_beginAttempt m 2 n 1 [] (blockMoved n m s)
  refine ⟨prog_beginAttempt .., ?_, ?_, ?_, fun hm => ?_⟩
  · rw [hplane, if_pos rfl, plane_blockMoved, if_pos rfl]
    show writingState 2 (plane s m).st = 1
    rw [hst]; exact writingState_free (by decide)
  · rw [hplane, if_pos rfl, plane_blockMoved, if_pos rfl]; rfl
  · rw [hplane, if_neg hnm, plane_blockMoved, if_neg hnm]
  · rw [planeCount_beginAttempt _ _ _ _ _ _ hm, planeCount_blockMoved]

/-- A migration that moves on from plane `n` to plane `m`. -/
theorem migrated_migration {n m : Nat} (old : Nat) {s : State} (hst : (plane s m).st = 0) (hnm : n ≠ m) :
    let t := migrate n m 2 old s
    (engine t (engOf m)).prog = some (attemptProg m 2 old 1 [] (blockMovedOn n m s)) ∧ (plane t m).st = 1
      ∧ (plane t m).home = (plane s n).home ∧ (plane t n).st = 5 ∧ (plane t n).home = none := by
  dsimp only
  rw [migrate_eq, if_neg (by decide), if_pos rfl]
  have hplane := plane_beginAttempt m 2 old 1 [] (blockMovedOn n m s)
  have hm : plane (blockMovedOn n m s) m = { plane s m with home := (plane s n).home, subst := (plane s n).subst } := by
    rw [plane_blockMovedOn, if_neg (Ne.symm hnm), plane_blockMoved, if_pos rfl]
  have hn : plane (beginAttempt m 2 old 1 [] (blockMovedOn n m s)) n = emptiedPlane (plane (blockMoved n m s) n) := by
    rw [hplane, if_neg hnm, plane_blockMovedOn, if_pos rfl]
  refine ⟨prog_beginAttempt .., ?_, ?_, by rw [hn]; rfl, by rw [hn]; rfl⟩
  · rw [hplane, if_pos rfl, hm]
    show writingState 2 (plane s m).st = 1
    rw [hst]; exact writingState_free (by decide)
  · rw [hplane, if_pos rfl, hm]; rfl

/-- A first program that moves from plane `n` to plane `m`. -/
theorem migrated_first {n m : Nat} (old : Nat) {s : State} (hst : (plane s m).st = 0) (hnm : n ≠ m) :
    let t := migrate n m 0 old s
    (engine t (engOf m)).prog = some (attemptProg m 0 m 1 [] (blockMovedFirst n m s)) ∧ (plane t m).st = 1
      ∧ (plane t m).home = (plane s n).home ∧ (plane t n).st = 5 ∧ (plane t m).moveOf = some n := by
  dsimp only
  rw [migrate_eq, if_neg (by decide), if_neg (by decide)]
  have hplane := plane_beginAttempt m 0 m 1 [] (blockMovedFirst n m s)
  have hm : plane (blockMovedFirst n m s) m
      = { plane s m with home := (plane s n).home, subst := (plane s n).subst, moveOf := some n } := by
    rw [plane_blockMovedFirst, if_pos rfl, plane_modPlane, if_neg (Ne.symm hnm), plane_blockMoved, if_pos rfl]
  have hn : plane (beginAttempt m 0 m 1 [] (blockMovedFirst n m s)) n = retiredPlane (plane (blockMoved n m s) n) := by
    rw [hplane, if_neg hnm, plane_blockMovedFirst, if_neg hnm, if_pos rfl]
  refine ⟨prog_beginAttempt .., ?_, ?_, by rw [hn]; rfl, ?_⟩
  · rw [hplane, if_pos rfl, hm]
    show writingState 0 (plane s m).st = 1
    rw [hst]; exact writingState_free (by decide)
  · rw [hplane, if_pos rfl, hm]; rfl
  · rw [hplane, if_pos rfl, hm]; rfl

end Sys2Proof.Machine
end

section
/-! SUPPORT. What PROGRAM_START does (R193, R202, R220, R221). -/

open Sys2Proof Sys2Proof.Machine Sys2Proof.Spec

namespace Sys2Proof.Machine

/-! ### The plane that takes a block is another one -/

/-- A plane whose program is a refresh is not FREE. -/
theorem purposeOf_refresh {s : State} {n : Nat} (h : purposeOf s n = some 1) : (plane s n).st ≠ 0 := by
  intro hfree
  unfold purposeOf at h; dsimp only at h
  rw [hfree, if_neg (by decide)] at h
  split at h
  · exact absurd h (by simp)
  · rw [if_pos rfl] at h
    split at h <;> exact absurd h (by decide)

/-- The plane of a program that goes on holds a block, but for plane 64. -/
theorem home_of_goesOn {s : State} {g : Prog} (h : mustAbandon s g = false) (hn : g.plane % 65 ≠ 64) : (plane s g.plane).home ≠ none := by
  intro hnone
  unfold mustAbandon at h
  rw [hnone] at h
  simp [hn] at h

/-- A plane of the engine of plane `n` is a plane of the part. -/
theorem plane_lt {n m : Nat} (hn : n < 2227680) (h : engOf m = engOf n) : m < 2227680 := by
  unfold engOf at h; omega

/-! ### No program on the engine -/

section
variable {n : Fin 2227680} {use : Nat} {s : State} (hprog : (engine s (engOf n)).prog = none) (huse : purposeOf s n = some use)
  (hmay : MayStart n use s = true)
include hprog huse hmay

theorem exec_started (faults : List UnitFault) :
    exec (.programStart ⟨n, faults⟩) s = .next (withMaster n faults (startProgram n use) s) := by
  rw [exec_programStart_idle hprog huse, if_pos hmay]

/-- A word of the copy that cannot be corrected (R202, R487). -/
theorem started_memBad (f : BitVec 24) (q : BitVec 16) (hn : n.val % 65 ≠ 64) : ∃ t, exec (.programStart ⟨n, [.memBad f q]⟩) s = .next t
    ∧ MasterMarked n s t ∧ t.err.memUncorrected = s.err.memUncorrected + 1 := by
  refine ⟨_, exec_started hprog huse hmay _, ?_, ?_⟩
  · rw [withMaster_memBad hn]; exact masterMarked_masterFault (memFault_hw ..)
  · rw [withMaster_memBad hn, masterFault_memUncorrected, memBad_memUncorrected]

/-- A copy that does not match its CRC (R202). -/
theorem started_masterFault (hgood : masterGood s n = false) (hn : n.val % 65 ≠ 64) {h : Nat × Nat × Nat × Nat × Nat}
    (hhome : (plane s n).home = some h) (hblock : h.2.1 < 2 ^ 32) :
    ∃ t, exec (.programStart ⟨n, []⟩) s = .next t ∧ MasterMarked n s t ∧ Raised 0x31 1 h.2.1 0 0 s t := by
  refine ⟨_, exec_started hprog huse hmay _, ?_, ?_⟩
  · rw [withMaster_bad hn hgood]; exact masterMarked_masterFault rfl
  · rw [withMaster_bad hn hgood]; exact raised_masterFault hhome hblock

/-- A program in place. -/
theorem started_inPlace (hgood : n.val % 65 = 64 ∨ masterGood s n = true)
    (hbelow : use ≠ 1 ∨ n.val % 65 = 64 ∨ planeCount s n < 10000) : ∃ t g, exec (.programStart ⟨n, []⟩) s = .next t
      ∧ (engine t (engOf n)).prog = some g ∧ g.plane = n.val ∧ g.purpose = use ∧ g.attempt = 1 ∧ g.erasing = true ∧ g.adjusted = []
      ∧ (plane t n).st = writingState use (plane s n).st ∧ (plane t n).cells = (plane s n).cells
      ∧ planeCount t n = min 65535 (planeCount s n + 1) ∧ (∀ m, m ≠ n.val → plane t m = plane s m) ∧ MemKept s t := by
  obtain ⟨x, hstart, hx⟩ := startProgram_inPlace (n := n) (use := use) hbelow
  obtain ⟨hprog', hst, hcells, hcount, hother, hmem⟩ := began_inPlace (purpose := use) (old := n) (attempt := 1) (faults := []) n.isLt hx
  have hexec := exec_started hprog huse hmay []
  rw [withMaster_good hgood, hstart] at hexec
  exact ⟨_, _, hexec, hprog', rfl, rfl, rfl, rfl, beginAttempt_first .., hst, hcells, hcount, hother, hmem⟩

end

section
variable {n : Fin 2227680} {s : State} (hprog : (engine s (engOf n)).prog = none) (huse : purposeOf s n = some 1)
  (hmay : MayStart n 1 s = true) (hgood : masterGood s n = true) (hn : n.val % 65 ≠ 64) (hcount : 10000 ≤ planeCount s n)
include hprog huse hmay hgood hn hcount

/-- A refresh at the rating migrates (R221). -/
theorem started_migrates {m : Nat} (hpick : pickPlane s (engOf n) = some m) : ∃ t g, exec (.programStart ⟨n, []⟩) s = .next t
    ∧ (engine t (engOf n)).prog = some g ∧ g.plane = m ∧ g.old = n.val ∧ g.purpose = 2 ∧ (plane t m).st = 1
    ∧ (plane t m).home = (plane s n).home ∧ plane t n = plane s n ∧ planeCount t m = min 65535 (planeCount s m + 1) := by
  obtain ⟨hfree, -, heng, -⟩ := pickPlane_some hpick
  have hnm : n.val ≠ m := fun hnm => purposeOf_refresh huse (hnm ▸ hfree)
  obtain ⟨hprog', hst, hhome, hkept, hcounted⟩ := migrated_rewrite n hfree hnm
  have hexec := exec_started hprog huse hmay []
  rw [withMaster_good (.inr hgood), startProgram_migrates hn hcount hpick] at hexec
  rw [heng] at hprog'
  exact ⟨_, _, hexec, hprog', rfl, rfl, rfl, hst, hhome, hkept, hcounted (plane_lt n.isLt heng)⟩

/-- With no FREE plane it runs in place, and is recorded. -/
theorem started_over (hpick : pickPlane s (engOf n) = none) : ∃ t g, exec (.programStart ⟨n, []⟩) s = .next t
    ∧ (engine t (engOf n)).prog = some g ∧ g.plane = n.val ∧ g.purpose = 1 ∧ planeCount t n = min 65535 (planeCount s n + 1)
    ∧ Raised 0x33 0 (planeCount s n) 0 0 s t := by
  obtain ⟨hprog', -, -, hcounted, -⟩ := began_inPlace (purpose := 1) (old := n) (attempt := 1) (faults := []) n.isLt
    (beginsFrom_overRating n s)
  have hexec := exec_started hprog huse hmay []
  rw [withMaster_good (.inr hgood), startProgram_over hn hcount hpick] at hexec
  exact ⟨_, _, hexec, hprog', rfl, rfl, hcounted, raised_congr (raised_overRating n s) rfl rfl (err_beginAttempt ..)⟩

end

/-! ### The next attempt of a program -/

section
variable {n : Fin 2227680} {g : Prog} {s : State} (hprog : (engine s (engOf n)).prog = some g)
include hprog

theorem running_other (h : g.plane ≠ n.val ∨ g.waiting = false) : exec (.programStart ⟨n, []⟩) s = .next s := by
  have hnot : (!(g.plane == n.val && g.waiting)) = true := by
    rcases h with h | h <;> simp [h]
  rw [exec_programStart_running hprog, if_pos hnot]
  split <;> rfl

variable (hplane : g.plane = n.val) (hwaiting : g.waiting = true)
include hplane hwaiting

theorem running_abandoned (hbad : masterBad s n = false) (hgone : mustAbandon s g = true) :
    ∃ t, exec (.programStart ⟨n, []⟩) s = .next t ∧ (engine t (engOf n)).prog = none := by
  refine ⟨abandonProgram (engOf n) g s, ?_, engine_abandonProgram (engOf n) g s⟩
  rw [exec_programStart_running hprog, if_neg (by simp [hbad]), if_neg (by simp [hplane, hwaiting]), if_pos hgone]

variable (hgoes : mustAbandon s g = false) (hfree : engineFree s (engOf n) = true) (htime : timeToStart s n g.purpose false = true)
  (hcap : underCap s n = true)
include hgoes hfree htime hcap

theorem exec_nextAttempt (hbad : masterBad s n = false) (hgood : n.val % 65 = 64 ∨ masterGood s n = true) :
    exec (.programStart ⟨n, []⟩) s = .next (nextAttempt n g s) := by
  rw [exec_programStart_running hprog, if_neg (by simp [hbad]), if_neg (by simp [hplane, hwaiting]), if_neg (by simp [hgoes]),
    if_pos ⟨hfree, htime, hcap⟩, withMaster_good hgood]

/-- A further attempt in place. -/
theorem running_inPlace (hbad : masterBad s n = false) (hgood : n.val % 65 = 64 ∨ masterGood s n = true)
    (hstays : n.val % 65 = 64 ∨ planeCount s n < 10000 ∨ pickPlane s (engOf n) = none) :
    ∃ t h, exec (.programStart ⟨n, []⟩) s = .next t ∧ (engine t (engOf n)).prog = some h
      ∧ h.attempt = g.attempt + 1 ∧ h.erasing = true ∧ h.waiting = false ∧ planeCount t n = min 65535 (planeCount s n + 1) := by
  obtain ⟨x, hnext, hx⟩ := nextAttempt_inPlace g hstays
  obtain ⟨hprog', -, -, hcounted, -⟩ := began_inPlace (purpose := g.purpose) (old := g.old) (attempt := g.attempt + 1)
    (faults := g.faults) n.isLt hx
  have hexec := exec_nextAttempt hprog hplane hwaiting hgoes hfree htime hcap hbad hgood
  rw [hnext] at hexec
  exact ⟨_, _, hexec, hprog', rfl, rfl, rfl, hcounted⟩

/-- A further attempt at the rating moves to another plane (R221; log entry 124). -/
theorem running_moves {m : Nat} (hn : n.val % 65 ≠ 64) (hgood : masterGood s n = true) (hcount : 10000 ≤ planeCount s n)
    (hpick : pickPlane s (engOf n) = some m) (hpurpose : g.purpose < 3) : ∃ t h, exec (.programStart ⟨n, []⟩) s = .next t
      ∧ (engine t (engOf n)).prog = some h ∧ h.plane = m ∧ h.attempt = 1
      ∧ (plane t m).st = 1 ∧ (plane t m).home = (plane s n).home
      ∧ (g.purpose = 0 → h.purpose = 0 ∧ (plane t n).st = 5 ∧ (plane t m).moveOf = some n.val)
      ∧ (g.purpose = 1 → h.purpose = 2 ∧ h.old = n.val ∧ plane t n = plane s n)
      ∧ (g.purpose = 2 → h.purpose = 2 ∧ h.old = g.old ∧ (plane t n).st = 5 ∧ (plane t n).home = none) := by
  obtain ⟨hst, hnone, heng, -⟩ := pickPlane_some hpick
  have hheld : (plane s n).home ≠ none := hplane ▸ home_of_goesOn hgoes (hplane.symm ▸ hn)
  have hnm : n.val ≠ m := fun hnm => hheld (by rw [hnm]; exact hnone)
  have hexec := exec_nextAttempt hprog hplane hwaiting hgoes hfree htime hcap (masterBad_of_good hgood) (.inr hgood)
  rw [nextAttempt_moves g hn hcount hpick] at hexec
  generalize hstopped : modEngine (engOf n) (fun x => { x with prog := none }) s = s' at hexec
  have hsame : ∀ j, plane s' j = plane s j := fun j => by rw [← hstopped, plane_modEngine]
  have hst' : (plane s' m).st = 0 := by rw [hsame]; exact hst
  rw [← heng]
  by_cases h0 : g.purpose = 0
  · rw [h0] at hexec
    obtain ⟨hprog', hwriting, hhome, hold, hmove⟩ := migrated_first g.old hst' hnm
    exact ⟨_, _, hexec, hprog', rfl, rfl, hwriting, hhome.trans (by rw [hsame]), fun _ => ⟨rfl, hold, hmove⟩,
      fun h => by omega, fun h => by omega⟩
  · by_cases h1 : g.purpose = 1
    · rw [h1] at hexec
      obtain ⟨hprog', hwriting, hhome, hkept, -⟩ := migrated_rewrite g.old hst' hnm
      exact ⟨_, _, hexec, hprog', rfl, rfl, hwriting, hhome.trans (by rw [hsame]), fun h => by omega,
        fun _ => ⟨rfl, rfl, hkept.trans (hsame _)⟩, fun h => by omega⟩
    · have h2 : g.purpose = 2 := by omega
      rw [h2] at hexec
      obtain ⟨hprog', hwriting, hhome, hold, hgone⟩ := migrated_migration g.old hst' hnm
      exact ⟨_, _, hexec, hprog', rfl, rfl, hwriting, hhome.trans (by rw [hsame]), fun h => by omega, fun h => by omega,
        fun _ => ⟨rfl, rfl, hold, hgone⟩⟩

end

/-- What PROGRAM_START does. -/
theorem programStarts (n : Fin 2227680) (s : State) : ProgramStarts n s := by
  refine ⟨fun hbad faults => exec_programStart_masterBad hbad, fun hprog => ⟨fun hnone faults => ?_, fun use huse => ?_⟩,
    fun g hprog => ⟨running_other hprog, running_abandoned hprog, ?_, ?_⟩⟩
  · exact exec_programStart_noPurpose hprog hnone
  · refine ⟨fun hmay faults => ?_, fun f q hmay hn => started_memBad hprog huse hmay f q hn,
      fun hmay hgood hbelow => started_inPlace hprog huse hmay hgood hbelow, ?_, ?_,
      fun h hmay hgood hn hhome hblock => started_masterFault hprog huse hmay hgood hn hhome hblock⟩
    · rw [exec_programStart_idle hprog huse, if_neg (by simp [hmay])]
    · rintro m hmay hgood rfl hn hcount hpick
      exact started_migrates hprog huse hmay hgood hn hcount hpick
    · rintro hmay hgood rfl hn hcount hpick
      exact started_over hprog huse hmay hgood hn hcount hpick
  · intro m hplane hwaiting hgoes hfree htime hcap hn hgood hcount hpick hpurpose
    exact running_moves hprog hplane hwaiting hgoes hfree htime hcap hn hgood hcount hpick hpurpose
  · intro hplane hwaiting hgoes hfree htime hcap hbad hgood hstays
    exact running_inPlace hprog hplane hwaiting hgoes hfree htime hcap hbad hgood hstays

end Sys2Proof.Machine
end

section
/-! SUPPORT. ERASE_COMPLETE and ROW_ITERATION (R71, R193, R194, R196). -/

open Sys2Proof Sys2Proof.Machine Sys2Proof.Spec

namespace Sys2Proof.Machine

/-! ### Cells -/

/-- Cells of columns 0 to 263 have keys of their own. -/
theorem cellKey_inj {r r' c c' : Nat} {b b' : Bool} (hc : c < 264) (hc' : c' < 264) (h : cellKey r c b = cellKey r' c' b') :
    r = r' ∧ c = c' ∧ b = b' := by
  have hb : ∀ x : Bool, bit x ≤ 1 := fun x => by cases x <;> decide
  have hbits : bit b = bit b' := by unfold cellKey at h; have := hb b; have := hb b'; omega
  unfold cellKey at h
  refine ⟨by omega, by omega, ?_⟩
  cases b <;> cases b' <;> trivial

/-- A plane's level in a map of cells. -/
theorem level_cells (n : Nat) (q : Plane) (m : SMap Nat) (r c : Nat) (neg : Bool) :
    level n { q with cells := m } r c neg = look (cellDefault n q) m (cellKey r c neg) := rfl

/-- One cell of a map written. -/
theorem level_put_other (n : Nat) (q : Plane) {m : SMap Nat} {r r' c c' v : Nat} {b b' : Bool} (hc : c < 264) (hc' : c' < 264)
    (h : r' ≠ r ∨ c' ≠ c ∨ b' ≠ b) : level n { q with cells := put (cellDefault n q) m (cellKey r' c' b') v } r c b
      = level n { q with cells := m } r c b := by
  have hkey : cellKey r c b ≠ cellKey r' c' b' := fun heq => by
    obtain ⟨hr, hcol, hb⟩ := cellKey_inj hc hc' heq
    rcases h with h | h | h
    · exact h hr.symm
    · exact h hcol.symm
    · exact h hb.symm
  rw [level_cells, level_cells, look_put, if_neg hkey]

theorem level_put_same (n : Nat) (q : Plane) (m : SMap Nat) (r c v : Nat) (b : Bool) :
    level n { q with cells := put (cellDefault n q) m (cellKey r c b) v } r c b = v := by
  rw [level_cells, look_put, if_pos rfl]

/-! ### The erase verify (R193) -/

/-- A map of cells with the one read at `y` written. -/
def putCell (n : Nat) (q : Plane) (m : SMap Nat) (y : CellRead) : SMap Nat :=
  if y.row < 260 ∧ y.col < 264 then put (cellDefault n q) m (cellKey y.row y.col y.neg) (sensed y) else m

theorem putCells_eq (n : Nat) (cells : List CellRead) (q : Plane) :
    putCells n cells q = { q with cells := cells.foldl (putCell n q) q.cells } := rfl

/-- A cell that the verify does not read stays as it was. -/
theorem level_putCells_other {n : Nat} {q : Plane} {r c : Nat} {neg : Bool} (hc : c < 264) : ∀ {cells : List CellRead} {m : SMap Nat},
    (∀ y ∈ cells, y.row ≠ r ∨ y.col ≠ c ∨ y.neg ≠ neg) →
    level n { q with cells := cells.foldl (putCell n q) m } r c neg = level n { q with cells := m } r c neg
  | [], _, _ => rfl
  | y :: ys, m, h => by
    rw [List.foldl_cons, level_putCells_other hc fun z hz => h z (List.mem_cons_of_mem y hz)]
    unfold putCell
    split
    · rename_i hin
      exact level_put_other n q hc hin.2 (h y (List.mem_cons_self ..))
    · rfl

theorem level_erased (n : Nat) (q : Plane) (r c : Nat) (neg : Bool) : level n { q with cells := [], blank := true } r c neg = 0 := by
  rw [show level n { q with cells := [], blank := true } r c neg = cellDefault n { q with cells := [], blank := true } (cellKey r c neg)
    from rfl]
  unfold cellDefault
  exact if_neg (by simp)

/-- The plane whose erase has completed. -/
def erasedPlane (n : Nat) (cells : List CellRead) (q : Plane) : Plane := putCells n cells { q with cells := [], blank := true }

/-- Level 0 but for the cells read (R193). -/
theorem level_erasedPlane_other {n : Nat} {q : Plane} {r c : Nat} {neg : Bool} (hc : c < 264) {cells : List CellRead}
    (h : ∀ y ∈ cells, y.row ≠ r ∨ y.col ≠ c ∨ y.neg ≠ neg) : level n (erasedPlane n cells q) r c neg = 0 := by
  unfold erasedPlane
  rw [putCells_eq]
  exact (level_putCells_other (n := n) (q := { q with cells := [], blank := true }) (m := []) hc h).trans (level_erased n q r c neg)

theorem level_erasedPlane_one {n : Nat} {q : Plane} {y : CellRead} (hr : y.row < 260) (hc : y.col < 264) :
    level n (erasedPlane n [y] q) y.row y.col y.neg = sensed y := by
  unfold erasedPlane
  rw [putCells_eq, List.foldl_cons, List.foldl_nil]
  unfold putCell
  rw [if_pos ⟨hr, hc⟩]
  exact level_put_same n { q with cells := [], blank := true } [] y.row y.col (sensed y) y.neg

/-! ### ERASE_COMPLETE -/

theorem exec_eraseComplete {e : Fin 34272} {g : Prog} {s : State} (h : (engine s e).prog = some g) (cells : List CellRead) :
    exec (.eraseComplete e cells) s = .next (if !g.erasing ∨ startQueued s g.plane then s
      else modEngine e (fun x => { x with prog := some { g with erasing := false } }) (modPlane g.plane (erasedPlane g.plane cells) s)) := by
  show execEraseComplete e cells s = _
  unfold execEraseComplete
  rw [h]; rfl

/-- What ERASE_COMPLETE does. -/
theorem eraseCompleted {e : Fin 34272} {cells : List CellRead} {g : Prog} {s : State} (hprog : (engine s e).prog = some g)
    (herase : g.erasing = true) (hqueue : startQueued s g.plane = false) : ∃ t, exec (.eraseComplete e cells) s = .next t
      ∧ (engine t e).prog = some { g with erasing := false }
      ∧ (∀ r c neg, c < 264 → (∀ y ∈ cells, y.row ≠ r ∨ y.col ≠ c ∨ y.neg ≠ neg) → level g.plane (plane t g.plane) r c neg = 0)
      ∧ (∀ y, cells = [y] → y.row < 260 → y.col < 264 →
          level g.plane (plane t g.plane) y.row y.col y.neg = min y.level (if y.col = 260 then 128 else 15)) := by
  have hexec := exec_eraseComplete hprog cells
  rw [if_neg (by simp [herase, hqueue])] at hexec
  refine ⟨_, hexec, by rw [engine_modEngine_same], fun r c neg hc h => ?_, ?_⟩
  · rw [plane_modEngine, plane_modPlane_same]; exact level_erasedPlane_other hc h
  · rintro y rfl hr hc
    rw [plane_modEngine, plane_modPlane_same]; exact level_erasedPlane_one hr hc

/-! ### The cells of a row sensed (R194) -/

theorem enabledOf_lt {l : List Nat} {c : Nat} (h : c ∈ enabledOf l) : c < 260 := by
  unfold enabledOf at h
  exact List.mem_range.mp (List.mem_filter.mp (List.mem_of_mem_take h)).1

theorem rowCols_lt {s : State} {n c : Nat} (h : c ∈ rowCols s n) : c < 264 := by
  unfold rowCols at h
  rcases List.mem_append.mp h with h | h
  · exact Nat.lt_trans (enabledOf_lt h) (by decide)
  · simp at h; omega

/-- The state without the planes. -/
def offPlanes (s : State) : State := { s with hw := { s.hw with planes := [] } }

theorem offPlanes_modPlane (n : Nat) (f : Plane → Plane) (s : State) : offPlanes (modPlane n f s) = offPlanes s := rfl

/-- Targets, maps and columns do not depend on the planes. -/
theorem targetOf_congr {s t : State} (h : offPlanes t = offPlanes s) (g : Prog) (r c : Nat) (neg : Bool) :
    targetOf t g r c neg = targetOf s g r c neg := by
  have hmasters : t.hw.masters = s.hw.masters := (congrArg (fun x : State => x.hw.masters) h :)
  have hlar : t.lar = s.lar := (congrArg State.lar h :)
  unfold targetOf progPair planeWeight rowMap colMap
  rw [hmasters, hlar]

theorem rowCols_congr {s t : State} (h : offPlanes t = offPlanes s) (n : Nat) : rowCols t n = rowCols s n := by
  have hlar : t.lar = s.lar := (congrArg State.lar h :)
  unfold rowCols colMap; rw [hlar]

/-- `t` is `s` with cells of row `row` of the plane that `g` writes changed, but none that is at its target. -/
structure RowWritten (g : Prog) (row : Nat) (s t : State) : Prop where
  rest : offPlanes t = offPlanes s
  others : ∀ m, m ≠ g.plane → plane t m = plane s m
  levels : ∀ r c neg, c < 264 → (r ≠ row ∨ offTarget s g r c neg = false) →
    level g.plane (plane t g.plane) r c neg = level g.plane (plane s g.plane) r c neg

/-- A cell at its target is inhibited (R194). -/
theorem RowWritten.senseCell {g : Prog} {row : Nat} {s t : State} (h : RowWritten g row s t) (y : CellRead) :
    RowWritten g row s (senseCell g row y t) := by
  unfold Machine.senseCell
  split
  · rename_i hfires
    obtain ⟨-, hcol, hoff⟩ := hfires
    have hc' : y.col < 264 := rowCols_lt (List.contains_iff_mem.mp hcol)
    refine ⟨h.rest, fun m hm => ?_, fun r c neg hc hkept => ?_⟩
    · rw [plane_modPlane, if_neg hm, h.others m hm]
    · rw [plane_modPlane_same]
      refine (level_put_other g.plane (plane t g.plane) hc hc' ?_).trans (h.levels r c neg hc hkept)
      by_contra hsame
      simp only [not_or, not_not] at hsame
      obtain ⟨rfl, rfl, rfl⟩ := hsame
      have hat := hkept.resolve_left (by simp)
      unfold offTarget at hoff hat
      rw [h.levels row y.col y.neg hc' hkept, targetOf_congr h.rest, hat] at hoff
      exact absurd hoff (by simp)
  · exact h

/-- The cells of an iteration. -/
theorem rowWritten_sensed (g : Prog) (row : Nat) (cells : List CellRead) (s : State) :
    RowWritten g row s (forAll cells (senseCell g row) s) :=
  forAll_invariant (P := RowWritten g row s) (fun y _ _ h => h.senseCell y) ⟨rfl, fun _ _ => rfl, fun _ _ _ _ _ => rfl⟩

theorem memKept_of_offPlanes {s t : State} (h : offPlanes t = offPlanes s) : MemKept s t :=
  memKept_of_eq (congrArg State.mem h :) (congrArg State.memKeys h :)

/-! ### ROW_ITERATION -/

/-- The physical row in progress. -/
def progRow (s : State) (g : Prog) : Nat := (rowMap s g.plane).getD g.row 0

/-- The row's cells as the iteration senses them. -/
def sensedRow (g : Prog) (cells : List CellRead) (s : State) : State := forAll cells (senseCell g (progRow s g)) s

/-- The program after the iteration (R194, R478). -/
def iteratedProg (g : Prog) (cells : List CellRead) (s : State) : Prog :=
  let reached := (cellsOff s g (progRow s g)).length - (cellsOff (sensedRow g cells s) g (progRow s g)).length
  { g with
    iter := g.iter + 1
    late := if !g.extending ∧ 6 ≤ g.iter then g.late + reached else g.late
    wanted := if !g.extending ∧ g.iter = 0 then
        g.wanted + ((rowCols s g.plane).flatMap fun c => [false, true].filter fun b => decide (0 < targetOf s g (progRow s g) c b)).length
      else g.wanted }

theorem iterate_eq (e : Nat) (g : Prog) (cells : List CellRead) (s : State) : iterate e g cells s =
    if g.iter + 1 < 8 then modEngine e (fun x => { x with prog := some (iteratedProg g cells s) }) (sensedRow g cells s)
    else rowEnd e (iteratedProg g cells s) (progRow s g) (sensedRow g cells s) := rfl

/-- A row whose cells are all at their targets is followed by the next. -/
theorem rowEnd_clean (e : Nat) {g : Prog} {row : Nat} {s : State} (hext : g.extending = false) (hoff : cellsOff s g row = []) :
    ∃ h, rowEnd e g row s = modEngine e (fun x => { x with prog := some h }) s ∧ h.iter = 0 ∧ h.row = g.row + 1
      ∧ h.faults = g.faults := by
  unfold rowEnd
  dsimp only
  rw [if_neg (by simp [hext]), hoff]
  exact ⟨_, rfl, rfl, rfl, rfl⟩

section
variable {e : Fin 34272} {cells : List CellRead} {g : Prog} {s : State} (hprog : (engine s e).prog = some g)
include hprog

theorem exec_rowIteration : exec (.rowIteration e cells) s = .next (
    if g.erasing ∨ g.waiting ∨ 256 ≤ g.row then s
    else if g.iter = 0 ∧ !g.extending then
      (if mustAbandon s g then abandonProgram e g s
       else if rowMayStart s e g ∧ !passSoon s e then iterate e { g with held := g.held || inHeldStretch s g.plane } cells s else s)
    else if passSoon s e then s
    else iterate e g cells s) := by
  show execRowIteration e cells s = _
  unfold execRowIteration
  rw [hprog]

variable (herase : g.erasing = false) (hwait : g.waiting = false) (hrow : g.row < 256)
include herase hwait hrow

/-- An iteration that may not start now changes nothing (R71, R196). -/
theorem exec_rowIteration_waits (hgoing : g.iter ≠ 0 ∨ g.extending = true ∨ mustAbandon s g = false) (hnot : ¬RowGoes e g s) :
    exec (.rowIteration e cells) s = .next s := by
  rw [exec_rowIteration hprog, if_neg (by simp [herase, hwait]; omega)]
  unfold RowGoes at hnot
  by_cases hstart : g.iter = 0 ∧ (!g.extending) = true
  · have hext : g.extending = false := by simpa using hstart.2
    have hkeep : mustAbandon s g = false := (hgoing.resolve_left (by simp [hstart.1])).resolve_left (by simp [hext])
    rw [if_pos hstart, if_neg (by simp [hkeep]), if_neg]
    rintro ⟨hmay, hsoon⟩
    exact hnot ⟨by simpa using hsoon, .inr (.inr ⟨hkeep, hmay⟩)⟩
  · have hinside : g.iter ≠ 0 ∨ g.extending = true ∨ (mustAbandon s g = false ∧ rowMayStart s e g = true) := by
      by_cases h0 : g.iter = 0
      · exact .inr (.inl (by simpa [h0] using hstart))
      · exact .inl h0
    have hsoon : passSoon s e = true := by
      by_contra hclear
      exact hnot ⟨by simpa using hclear, hinside⟩
    rw [if_neg hstart, if_pos hsoon]

/-- One that starts is the model's `iterate`, noted as held where a held stretch serves it (R212). -/
theorem exec_rowIteration_goes (hgoes : RowGoes e g s) :
    ∃ held, exec (.rowIteration e cells) s = .next (iterate e { g with held := held } cells s) := by
  obtain ⟨hsoon, hstart⟩ := hgoes
  rw [exec_rowIteration hprog, if_neg (by simp [herase, hwait]; omega)]
  by_cases hfirst : g.iter = 0 ∧ (!g.extending) = true
  · have hext : g.extending = false := by simpa using hfirst.2
    obtain ⟨hkeep, hmay⟩ := (hstart.resolve_left (by simp [hfirst.1])).resolve_left (by simp [hext])
    exact ⟨_, by rw [if_pos hfirst, if_neg (by simp [hkeep]), if_pos ⟨hmay, by simp [hsoon]⟩]⟩
  · exact ⟨g.held, by rw [if_neg hfirst, if_neg (by simp [hsoon])]⟩

/-- Between rows a program that is to be abandoned ends (R348). -/
theorem rowIteration_abandoned (hiter : g.iter = 0) (hext : g.extending = false) (hgone : mustAbandon s g = true) :
    ∃ t, exec (.rowIteration e cells) s = .next t ∧ (engine t e).prog = none := by
  refine ⟨abandonProgram e g s, ?_, engine_abandonProgram e g s⟩
  rw [exec_rowIteration hprog, if_neg (by simp [herase, hwait]; omega), if_pos ⟨hiter, by simp [hext]⟩, if_pos hgone]

/-- An iteration within a row. -/
theorem rowIteration_within (hgoes : RowGoes e g s) (hiter : g.iter + 1 < 8) : ∃ t h, exec (.rowIteration e cells) s = .next t
    ∧ (engine t e).prog = some h ∧ h.iter = g.iter + 1 ∧ h.row = g.row ∧ (∀ m, m ≠ g.plane → plane t m = plane s m) ∧ MemKept s t
    ∧ ∀ r c neg, c < 264 → (r ≠ (rowMap s g.plane).getD g.row 0 ∨ offTarget s g r c neg = false) →
        level g.plane (plane t g.plane) r c neg = level g.plane (plane s g.plane) r c neg := by
  obtain ⟨held, hexec⟩ := exec_rowIteration_goes (cells := cells) hprog herase hwait hrow hgoes
  have hsensed : RowWritten { g with held := held } (progRow s g) s (sensedRow { g with held := held } cells s) :=
    rowWritten_sensed { g with held := held } (progRow s g) cells s
  generalize hrun : ({ g with held := held } : Prog) = g' at *
  have hplane : g'.plane = g.plane := by rw [← hrun]
  have hcount : g'.iter = g.iter ∧ g'.row = g.row := by rw [← hrun]; exact ⟨rfl, rfl⟩
  have htarget : ∀ r c neg, offTarget s g' r c neg = offTarget s g r c neg := fun r c neg => by rw [← hrun]; rfl
  obtain ⟨hrest, hothers, hlevels⟩ := hsensed
  rw [hplane] at hothers hlevels
  rw [iterate_eq, if_pos (hcount.1 ▸ hiter)] at hexec
  refine ⟨_, iteratedProg g' cells s, hexec, by rw [engine_modEngine_same], congrArg (· + 1) hcount.1, hcount.2, fun m hm => ?_, ?_, ?_⟩
  · rw [plane_modEngine]; exact hothers m hm
  · exact memKept_trans (memKept_of_offPlanes hrest) (memKept_of_eq rfl rfl)
  · intro r c neg hc hkept
    rw [plane_modEngine]
    exact hlevels r c neg hc (hkept.imp_right fun hat => (htarget r c neg).trans hat)

/-- The eighth iteration of a row whose cells are all at their targets is followed by the next row. -/
theorem rowIteration_last (hgoes : RowGoes e g s) (hiter : g.iter = 7) (hext : g.extending = false) (hcells : cells = [])
    (hoff : cellsOff s g ((rowMap s g.plane).getD g.row 0) = []) : ∃ t h, exec (.rowIteration e cells) s = .next t
      ∧ (engine t e).prog = some h ∧ h.iter = 0 ∧ h.row = g.row + 1 ∧ h.faults = g.faults ∧ t.hw.planes = s.hw.planes := by
  obtain ⟨held, hexec⟩ := exec_rowIteration_goes (cells := cells) hprog herase hwait hrow hgoes
  subst hcells
  obtain ⟨h, hend, h0, hnext, hfaults⟩ := rowEnd_clean e (g := iteratedProg { g with held := held } [] s) (row := progRow s g) hext hoff
  rw [iterate_eq, if_neg (by show ¬g.iter + 1 < 8; omega)] at hexec
  exact ⟨_, h, hexec.trans (congrArg Host.Outcome.next hend), by rw [engine_modEngine_same], h0, hnext, hfaults, rfl⟩

end

/-- What ERASE_COMPLETE and ROW_ITERATION do. -/
theorem rowsProgrammed (e : Fin 34272) (cells : List CellRead) (s : State) : RowsProgrammed e cells s := by
  refine ⟨fun hnone => ⟨?_, ?_⟩, ?_⟩
  · show execEraseComplete e cells s = _
    unfold execEraseComplete; rw [hnone]
  · show execRowIteration e cells s = _
    unfold execRowIteration; rw [hnone]
  · rintro g row hprog rfl
    refine ⟨fun h => ?_, fun h => ?_, eraseCompleted hprog, fun herase hwait hrow => exec_rowIteration_waits hprog herase hwait hrow,
      fun herase hwait hrow hiter hext hgone _ => rowIteration_abandoned hprog herase hwait hrow hiter hext hgone,
      fun herase hwait hrow hgoes hiter => rowIteration_within hprog herase hwait hrow hgoes hiter,
      fun herase hwait hrow hgoes hiter hext hcells hoff => rowIteration_last hprog herase hwait hrow hgoes hiter hext hcells hoff⟩
    · rw [exec_eraseComplete hprog, if_pos (by simpa using h)]
    · rw [exec_rowIteration hprog, if_pos h]

end Sys2Proof.Machine
end

section
/-! SUPPORT. PROGRAM_ATTEMPT_END (R97, R112, R193, R198, R205, R215). -/

open Sys2Proof Sys2Proof.Machine Sys2Proof.Spec

namespace Sys2Proof.Machine

/-! ### The array and the plane table kept -/

/-- `t` has the planes, engines, master copies and working plane table of `s`. -/
structure ArrayKept (s t : State) : Prop where
  planes : t.hw.planes = s.hw.planes
  engines : t.hw.engines = s.hw.engines
  masters : t.hw.masters = s.hw.masters
  table : t.lar.planesNow = s.lar.planesNow

theorem ArrayKept.refl (s : State) : ArrayKept s s := ⟨rfl, rfl, rfl, rfl⟩

theorem ArrayKept.trans {s t u : State} (h : ArrayKept s t) (g : ArrayKept t u) : ArrayKept s u :=
  ⟨g.planes.trans h.planes, g.engines.trans h.engines, g.masters.trans h.masters, g.table.trans h.table⟩

theorem ArrayKept.plane {s t : State} (h : ArrayKept s t) (n : Nat) : plane t n = plane s n := by
  unfold Machine.plane; rw [h.planes]

theorem ArrayKept.engine {s t : State} (h : ArrayKept s t) (e : Nat) : engine t e = engine s e := by
  unfold Machine.engine; rw [h.engines]

theorem arrayKept_of_offMaps {s t : State} (h : offMaps t = offMaps s) : ArrayKept s t :=
  ⟨planes_of_offMaps h, engines_of_offMaps h, (congrArg (fun x : State => x.hw.masters) h :), planesNow_of_offMaps h⟩

theorem arrayKept_of_hw {s t : State} (hhw : t.hw = s.hw) (hlar : t.lar = s.lar) : ArrayKept s t :=
  ⟨by rw [hhw], by rw [hhw], by rw [hhw], by rw [hlar]⟩

theorem arrayKept_bump (p off n : Nat) (s : State) : ArrayKept s (bump p off n s) := arrayKept_of_offMaps (offMaps_bump ..)

theorem arrayKept_when (c : Bool) {f : State → State} {s : State} (h : ArrayKept s (f s)) : ArrayKept s (when c f s) := by
  cases c
  · exact .refl s
  · exact h

theorem arrayKept_noteUnheld (e : Nat) (s : State) : ArrayKept s (noteUnheld e s) :=
  arrayKept_when _ (arrayKept_of_offMaps (offMaps_planeSummary ..))

theorem replyOpt_hw (c : Option CmdRef) (b status reason detail : Nat) (s : State) : (replyOpt c b status reason detail s).hw = s.hw := by
  unfold replyOpt replyCmd; split
  · rfl
  · rw [finish_hw]

theorem replyOpt_lar (c : Option CmdRef) (b status reason detail : Nat) (s : State) :
    (replyOpt c b status reason detail s).lar = s.lar := by
  unfold replyOpt replyCmd; split
  · rfl
  · rw [finish_lar]

theorem dropReads_hw (p : ReadFor → Bool) (s : State) : (dropReads p s).hw = s.hw := (congrArg State.hw (offReads_dropReads p s) :)
theorem dropReads_lar (p : ReadFor → Bool) (s : State) : (dropReads p s).lar = s.lar := (congrArg State.lar (offReads_dropReads p s) :)

theorem arrayKept_checkResident (b : Nat) (s : State) : ArrayKept s (checkResident b s) := by
  unfold checkResident; dsimp only; split
  · refine arrayKept_of_hw ?_ ?_
    · rw [dropReads_hw, replyOpt_hw]; rfl
    · rw [dropReads_lar, replyOpt_lar]; rfl
  · exact .refl s

theorem arrayKept_putCellMap (n : Nat) (es : List CellEntry) (s : State) : ArrayKept s (putCellMap n es s).2 := by
  unfold putCellMap; split <;> exact ⟨rfl, rfl, rfl, rfl⟩

/-- A record of a plane's cells raised. -/
theorem arrayKept_raise {r : ErrRec} (h : r.severity.toNat < 2) (s : State) : ArrayKept s (raise r s) := by
  rw [raise_eq_err h]; exact ⟨rfl, rfl, rfl, rfl⟩

theorem arrayKept_recordCells (n : Nat) (es : List CellEntry) (s : State) : ArrayKept s (recordCells n es s) := by
  unfold recordCells; dsimp only; split
  · exact arrayKept_putCellMap n es s
  · exact (arrayKept_putCellMap n es s).trans (arrayKept_raise (by show (BitVec.ofNat 2 0).toNat < 2; decide) _)

/-! ### The late fraction (R478) -/

/-- The state without the engines and the clusters. -/
def offUnits (s : State) : State := { s with hw := { s.hw with engines := [], clusters := [] } }

theorem offUnits_noteLate (e : Nat) (g : Prog) (s : State) : offUnits (noteLate e g s) = offUnits s := by
  unfold noteLate; dsimp only; split_ifs <;> rfl

section
variable {s t : State} (h : offUnits t = offUnits s)
include h

theorem planes_of_offUnits : t.hw.planes = s.hw.planes := (congrArg (fun x : State => x.hw.planes) h :)
theorem masters_of_offUnits : t.hw.masters = s.hw.masters := (congrArg (fun x : State => x.hw.masters) h :)
theorem lar_of_offUnits : t.lar = s.lar := (congrArg State.lar h :)
theorem plane_of_offUnits (n : Nat) : plane t n = plane s n := by unfold plane; rw [planes_of_offUnits h]
theorem unheld_of_offUnits (k : Nat) : unheld t k = unheld s k := by
  have hcores : t.hw.cores = s.hw.cores := (congrArg (fun x : State => x.hw.cores) h :)
  unfold unheld boundOf core; rw [hcores]

/-- A residual depends on the planes, the master copies and the maps (R112). -/
theorem residualOf_of_offUnits (n i : Nat) : residualOf t n i = residualOf s n i := by
  unfold residualOf rowMap colMap planeWeight
  rw [plane_of_offUnits h, masters_of_offUnits h, lar_of_offUnits h]

end

/-! ### Residuals (R112) -/

/-- One residual written: as realised, or open outside the 8-bit range. -/
def putResidual (s : State) (n : Nat) (m : SMap (BitVec 8)) (i : Nat) : SMap (BitVec 8) :=
  put (fun _ => 0) m i (if -128 ≤ residualOf s n i ∧ residualOf s n i ≤ 127 then toWord 8 (residualOf s n i) else Config.freeByte (s.fresh + i))

theorem residuals_eq (s : State) (n : Nat) : residuals s n = (List.range 256).foldl (putResidual s n) [] := rfl

/-- A row of the list reads as its residual, where that is in range. -/
theorem look_residuals {s : State} {n i : Nat} (hlow : -128 ≤ residualOf s n i) (hhigh : residualOf s n i ≤ 127) :
    ∀ {l : List Nat} {m : SMap (BitVec 8)}, (i ∈ l ∨ look (fun _ => 0) m i = toWord 8 (residualOf s n i)) →
      look (fun _ => 0) (l.foldl (putResidual s n) m) i = toWord 8 (residualOf s n i)
  | [], _, h => h.resolve_left (by simp)
  | j :: l, m, h => by
    rw [List.foldl_cons]
    refine look_residuals hlow hhigh ?_
    unfold putResidual
    rw [look_put]
    by_cases hij : i = j
    · subst hij
      rw [if_pos rfl, if_pos ⟨hlow, hhigh⟩]
      exact .inr rfl
    · rw [if_neg hij]
      exact h.imp_left fun hmem => (List.mem_cons.mp hmem).resolve_left hij

theorem toInt_toWord {x : Int} (hlow : -128 ≤ x) (hhigh : x ≤ 127) : (toWord 8 x).toInt = x := by
  unfold toWord
  rw [BitVec.toInt_ofInt]
  exact Int.bmod_eq_of_le (by omega) (by omega)

/-- Where no row needs a spare, every residual is in range (R216). -/
theorem residual_inRange {s : State} {n i : Nat} {faults : List (Nat × Nat)} (hi : i < 256) (h : badRows s n true faults = []) :
    -128 ≤ residualOf s n i ∧ residualOf s n i ≤ 127 := by
  unfold badRows at h
  have hnot := List.filter_eq_nil_iff.mp h i (List.mem_range.mpr hi)
  simp at hnot
  omega

theorem badRows_of_spares {s : State} {n : Nat} {full : Bool} {faults : List (Nat × Nat)} (h : sparesFor s n full faults = ([], [])) :
    badRows s n full faults = [] := List.map_eq_nil_iff.mp (congrArg Prod.fst h)

/-! ### A program completes (R97, R193, R198) -/

/-- The state as the plane of a completed program is ready. -/
def planeReadied (e : Nat) (g : Prog) (s : State) : State :=
  keepResiduals g.plane (tickFresh (modPlane g.plane (readyPlane s g.plane) (modEngine e (fun x => { x with prog := none }) s)))

theorem masters_keepResiduals {n : Nat} {s : State} {m : MasterCopy} (h : look (fun _ => none) s.hw.masters n = some m) :
    ∃ m', look (fun _ => none) (keepResiduals n s).hw.masters n = some m' := by
  unfold keepResiduals
  rw [h]; dsimp only
  exact ⟨_, look_put_same _ _ _ _⟩

theorem planeReadied_spec (e : Nat) (g : Prog) (s : State) : (engine (planeReadied e g s) e).prog = none
    ∧ plane (planeReadied e g s) g.plane = readyPlane s g.plane (plane s g.plane)
    ∧ (masterGood s g.plane = true → ∃ m, look (fun _ => none) (planeReadied e g s).hw.masters g.plane = some m) := by
  have hengine : ∀ x, (keepResiduals g.plane x).hw.engines = x.hw.engines := fun x => by unfold keepResiduals; split <;> rfl
  have hplanes : ∀ x, (keepResiduals g.plane x).hw.planes = x.hw.planes := fun x => by unfold keepResiduals; split <;> rfl
  unfold planeReadied
  refine ⟨?_, ?_, fun hgood => ?_⟩
  · unfold engine
    rw [hengine]
    exact congrArg Engine.prog (engine_modEngine_same e (fun x => { x with prog := none }) s)
  · unfold plane
    rw [hplanes]
    exact plane_modPlane_same g.plane (readyPlane s g.plane) (modEngine e (fun x => { x with prog := none }) s)
  · unfold masterGood at hgood
    split at hgood
    · exact absurd hgood (by simp)
    · rename_i m hm
      exact masters_keepResiduals hm

/-- The completion record makes the plane's residency stand (R198, R510). -/
theorem completionRecord_spec {n : Nat} (hn : n < 2227680) {s : State} {h : Nat × Nat × Nat × Nat × Nat} {m : MasterCopy}
    (hhome : (plane s n).home = some h) (hmaster : look (fun _ => none) s.hw.masters n = some m) :
    (completionRecord n s).hw = s.hw ∧ (look (fun _ => ({} : PlaneRec)) (completionRecord n s).lar.planesNow n).resident = true := by
  unfold completionRecord
  rw [hhome, hmaster]; dsimp only
  refine ⟨journal_hw .., ?_⟩
  rw [planesNow_journal]
  unfold applyEntry; dsimp only
  rw [if_neg (by decide), if_pos rfl, planeField hn, look_put_same]

/-- A program that completes, of a tenant plane that replaces no other. -/
theorem completeProgram_spec {e : Nat} {g : Prog} {s : State} (hlt : g.plane < 2227680) (hn : g.plane % 65 ≠ 64) (hpurpose : g.purpose ≠ 2)
    (hgood : masterGood s g.plane = true) (hhome : (plane s g.plane).home ≠ none) :
    (engine (completeProgram e g s) e).prog = none
      ∧ plane (completeProgram e g s) g.plane = readyPlane s g.plane (plane s g.plane)
      ∧ (look (fun _ => ({} : PlaneRec)) (completeProgram e g s).lar.planesNow g.plane).resident = true := by
  obtain ⟨h, hh⟩ := Option.ne_none_iff_exists'.mp hhome
  obtain ⟨hprog, hplane, hmaster⟩ := planeReadied_spec e g s
  obtain ⟨m, hm⟩ := hmaster hgood
  unfold completeProgram
  extract_lets n p pairs cause s1 s2 s3 s4 s6 s5
  rw [if_neg hn]
  have hs5 : s5 = s4 := if_neg hpurpose
  have hbefore : ArrayKept (planeReadied e g s) (recordCells n (cellEntries s n pairs cause) s2) :=
    ((arrayKept_noteUnheld e _).trans (arrayKept_bump ..)).trans (arrayKept_recordCells ..)
  have hready : (readyPlane s n (plane s n)).home = (plane s n).home := by
    unfold readyPlane; dsimp only; split_ifs <;> rfl
  obtain ⟨hhw, hresident⟩ := completionRecord_spec (n := n) hlt (s := recordCells n (cellEntries s n pairs cause) s2) (h := h) (m := m)
    (by rw [hbefore.plane, hplane, hready, hh]) (by rw [hbefore.masters, hm])
  have hafter : ArrayKept (completionRecord n (recordCells n (cellEntries s n pairs cause) s2)) (checkResident h.1 s5) := by
    rw [hs5]
    exact ((arrayKept_bump ..).trans (arrayKept_when _ (arrayKept_bump ..))).trans (arrayKept_checkResident ..)
  have hh' : (plane s n).home = some h := hh
  rw [hh']; dsimp only
  refine ⟨?_, ?_, ?_⟩
  · rw [hafter.engine, engine, hhw]
    exact (congrArg Engine.prog (hbefore.engine e)).trans hprog
  · rw [hafter.plane, plane, hhw]
    exact (hbefore.plane n).trans hplane
  · rw [hafter.table]; exact hresident

end Sys2Proof.Machine
end

section
/-! SUPPORT. A plane that retires (R84, R205, R215), and the cases of PROGRAM_ATTEMPT_END. -/

open Sys2Proof Sys2Proof.Machine Sys2Proof.Spec

namespace Sys2Proof.Machine

/-! ### A release (R347, R348) leaves a RETIRED plane -/

/-- The planes and the engines. -/
def arrays (s : State) : SMap Plane × SMap Engine := (s.hw.planes, s.hw.engines)

theorem arrays_of_hw {s t : State} (h : t.hw = s.hw) : arrays t = arrays s := by unfold arrays; rw [h]

theorem arrays_bump (p off n : Nat) (s : State) : arrays (bump p off n s) = arrays s := by unfold arrays; simp

theorem arrays_modBrun (b : Nat) (f : BRun → BRun) (s : State) : arrays (modBrun b f s) = arrays s := rfl

theorem arrays_outliers (s : State) (o : SMap (Option OutlierCopy)) (n : Nat) :
    arrays { s with hw := { s.hw with outliers := o, cellUsed := n } } = arrays s := rfl

theorem arrays_noteUnheld (e : Nat) (s : State) : arrays (noteUnheld e s) = arrays s :=
  congrArg₂ Prod.mk (arrayKept_noteUnheld e s).planes (arrayKept_noteUnheld e s).engines

theorem replyCmd_hw (c : CmdRef) (b status reason detail : Nat) (s : State) : (replyCmd c b status reason detail s).hw = s.hw :=
  finish_hw ..

/-- The requests of a list answered. -/
theorem arrays_replyAll (b : Nat) (l : List StageReq) (s : State) :
    arrays (forAll l (fun q s => replyCmd q.cmd b 0 0 0 s) s) = arrays s :=
  forAll_keeps arrays (fun (q : StageReq) s => replyCmd q.cmd b 0 0 0 s) (fun q s => arrays_of_hw (replyCmd_hw q.cmd b 0 0 0 s)) l s

theorem hw_endWork (r status : Nat) (s : State) : (endWork r status s).hw = s.hw := by
  unfold endWork; split
  · rfl
  · rw [dropReads_hw]; exact finish_hw ..

theorem hw_clearRecord (c : Nat) (s : State) : (clearRecord c s).hw = s.hw := by simp [clearRecord]

theorem arrays_releaseRecords (b status : Nat) (s : State) : arrays (releaseRecords b status s) = arrays s := by
  unfold releaseRecords
  refine forAll_keeps arrays _ (fun c s => ?_) _ _
  unfold bumpHome
  rw [arrays_bump]
  exact arrays_of_hw ((hw_clearRecord ..).trans (hw_endWork c status s))

theorem hw_releaseFrames (b : Nat) (s : State) : (releaseFrames b s).hw = s.hw := by
  have hframes : ∀ l, (forAll l (returnFrame b false) s).hw = s.hw := fun l =>
    forAll_keeps State.hw _ (fun f s => returnFrame_hw b false f s) l s
  unfold releaseFrames; dsimp only; split
  · exact hframes _
  · exact hframes _

theorem arrays_clearOverflow (b : Nat) (s : State) : arrays (clearOverflow b s) = arrays s := by
  unfold clearOverflow bumpHome; dsimp only; split
  · rfl
  · rw [arrays_bump]; rfl

theorem arrays_dropResidency (tid : W64) (s : State) : arrays (dropResidency tid s) = arrays s := by
  unfold dropResidency; split
  · rfl
  · exact arrays_of_hw (journal_hw ..)

/-- Plane `n` is RETIRED with nothing that waits, and engine `e` runs no program. -/
structure Retired (n e : Nat) (s : State) : Prop where
  st : (plane s n).st = 5
  next : (plane s n).next = none
  prog : (engine s e).prog = none

theorem Retired.of_arrays {n e : Nat} {s t : State} (h : Retired n e s) (g : arrays t = arrays s) : Retired n e t := by
  have hplane : plane t n = plane s n := by unfold plane; rw [show t.hw.planes = s.hw.planes from congrArg Prod.fst g]
  have hengine : engine t e = engine s e := by unfold engine; rw [show t.hw.engines = s.hw.engines from congrArg Prod.snd g]
  exact ⟨hplane ▸ h.st, hplane ▸ h.next, hengine ▸ h.prog⟩

theorem planes_freedPlane (m : Nat) (s : State) : ∃ f, (freedPlane m s).hw.planes = (modPlane m f s).hw.planes := by
  unfold freedPlane; dsimp only; exact ⟨_, rfl⟩

theorem plane_freedPlane_other {m n : Nat} (h : n ≠ m) (s : State) : plane (freedPlane m s) n = plane s n := by
  obtain ⟨f, hf⟩ := planes_freedPlane m s
  have hmod : plane (freedPlane m s) n = plane (modPlane m f s) n := by unfold plane; rw [hf]
  rw [hmod, plane_modPlane, if_neg h]

theorem plane_ite {c : Prop} [Decidable c] {x y s : State} {n : Nat} (hx : plane x n = plane s n) (hy : plane y n = plane s n) :
    plane (if c then x else y) n = plane s n := by
  split
  · exact hx
  · exact hy

theorem plane_releasePlane_other {m n : Nat} (h : n ≠ m) (s : State) : plane (releasePlane m s) n = plane s n := by
  have hmod : ∀ f, plane (modPlane m f s) n = plane s n := fun f => by rw [plane_modPlane, if_neg h]
  unfold releasePlane; dsimp only
  exact plane_ite rfl (plane_ite (hmod _) (plane_ite (hmod _)
    (plane_ite (plane_ite (plane_freedPlane_other h s) (hmod _)) rfl)))

/-- The release of a RETIRED plane changes nothing. -/
theorem releasePlane_retired {m : Nat} {s : State} (h : (plane s m).st = 5) : releasePlane m s = s := by
  have hnot : ¬((5 : BitVec 3) = 2 ∨ (5 : BitVec 3) = 3 ∨ (5 : BitVec 3) = 4) := by decide
  unfold releasePlane
  extract_lets q writing
  rw [show q.st = 5 from h, if_neg (show ¬(5 : BitVec 3) = 0 by decide), if_neg (show ¬(5 : BitVec 3) = 1 by decide), if_neg hnot, ite_self]

theorem Retired.releasePlane {n e : Nat} {s : State} (h : Retired n e s) (m : Nat) : Retired n e (releasePlane m s) := by
  by_cases hm : n = m
  · rw [releasePlane_retired (hm ▸ h.st)]; exact h
  · have hplane := plane_releasePlane_other hm s
    refine ⟨hplane ▸ h.st, hplane ▸ h.next, ?_⟩
    unfold engine
    rw [engines_releasePlane]; exact h.prog

theorem Retired.startRelease {n e : Nat} {s : State} (h : Retired n e s) (b : Nat) : Retired n e (startRelease b s) := by
  unfold Machine.startRelease
  extract_lets tid r s1 s2 s3 s4 s5 s6 hw6 s7 s8 s9
  have h2 : arrays s2 = arrays s := arrays_releaseRecords b 3 s1
  have h3 : arrays s3 = arrays s := (arrays_replyAll b r.stageReqs s2).trans h2
  have h4 : arrays s4 = arrays s := (arrays_of_hw ((dropReads_hw (· == .load b) _).trans (replyOpt_hw r.loadCmd b 3 0 0 s3))).trans h3
  have h5 : arrays s5 = arrays s := (arrays_of_hw (hw_releaseFrames b (clearOverflow b s4))).trans ((arrays_clearOverflow b s4).trans h4)
  have h7 : arrays s7 = arrays s := (arrays_outliers s6 _ _).trans ((arrays_modBrun b _ s5).trans h5)
  have h8 : arrays s8 = arrays s := (arrays_dropResidency tid s7).trans h7
  have h9 : Retired n e s9 := forAll_invariant (P := Retired n e) (fun m _ _ ht => ht.releasePlane m) (h.of_arrays h8)
  exact h9.of_arrays (arrays_of_hw (hw_checkReleased b s9))

/-! ### The plane map moves to another plane (R203, R221) -/

theorem engines_freedPlane (n : Nat) (s : State) : (freedPlane n s).hw.engines = s.hw.engines := rfl

/-- The transition of a plane that waits, made (R61). -/
def transitionMade (k : Nat) (s : State) : State :=
  match (plane s k).next with
  | none => s
  | some st =>
    if st = 0 ∨ (st = 5 ∧ (plane s k).home.isNone) then freedPlane k s
    else modPlane k (fun q => { q with st := st, next := none, staleAt := if st = 3 then s.fab.beat else q.staleAt }) s

theorem engines_transitionMade (k : Nat) (s : State) : (transitionMade k s).hw.engines = s.hw.engines := by
  unfold transitionMade; split
  · rfl
  · exact engines_ite (engines_freedPlane k s) rfl

/-- The plane map of binding `b` moved from plane `old` to plane `k`, with the passes queued. -/
def mapMoved (b k old : Nat) (s : State) : State :=
  modEngine (engOf k) (fun g => { g with queue := g.queue.map fun q => if q.plane = old then { q with plane := k } else q })
    (modBrun b (fun r => { r with planes := r.planes.map fun u => if u.plane = old then { u with plane := k } else u })
      (modPlane k (fun q => { q with moveOf := none }) s))

theorem prog_mapMoved (b k old e : Nat) (s : State) : (engine (mapMoved b k old s) e).prog = (engine s e).prog := by
  have hbefore : ∀ j, engine (modBrun b (fun r => { r with
      planes := r.planes.map fun u => if u.plane = old then { u with plane := k } else u })
      (modPlane k (fun q => { q with moveOf := none }) s)) j = engine s j := fun j => by rw [engine_modBrun, engine_modPlane]
  unfold mapMoved
  rw [engine_modEngine]
  split
  · rename_i he; subst he; rw [hbefore]
  · rw [hbefore]

/-- The plane from which a map has moved (R221). -/
def leftPlane (q : Plane) : Plane := { q with st := 5, next := none, home := none, resid := [] }

/-- The state as plane `old`, which `b` held, is left. -/
def planeLeft (b old : Nat) (s : State) : State :=
  let s4 := dropCells b old (modPlane old leftPlane s)
  { s4 with hw := { s4.hw with masters := put (fun _ => none) s4.hw.masters old none } }

theorem arrays_dropCells (b n : Nat) (s : State) : arrays (dropCells b n s) = arrays s := by
  unfold dropCells; dsimp only; exact arrays_modBrun b _ s

theorem arrays_planeLeft (b old : Nat) (s : State) : arrays (planeLeft b old s) = arrays (modPlane old leftPlane s) := by
  unfold planeLeft; dsimp only; exact arrays_dropCells b old _

theorem plane_planeLeft (b old : Nat) (s : State) : plane (planeLeft b old s) old = leftPlane (plane s old) := by
  have hplanes : (planeLeft b old s).hw.planes = (modPlane old leftPlane s).hw.planes := congrArg Prod.fst (arrays_planeLeft b old s)
  rw [plane, hplanes]; exact plane_modPlane_same old leftPlane s

theorem engine_planeLeft (b old : Nat) (s : State) (e : Nat) : engine (planeLeft b old s) e = engine s e := by
  have hengines : (planeLeft b old s).hw.engines = (modPlane old leftPlane s).hw.engines := congrArg Prod.snd (arrays_planeLeft b old s)
  rw [engine, hengines]; exact engine_modPlane old leftPlane s e

theorem settlePlane_moves {k old : Nat} {s : State} (h : (plane s k).moveOf = some old) : ∃ b j,
    settlePlane k s = journal j (planeLeft b old (mapMoved b k old (transitionMade k s))) := by
  unfold settlePlane
  dsimp only
  rw [h]
  exact ⟨_, _, rfl⟩

/-- A map that moves from plane `n` retires it. -/
theorem retired_settlePlane {n k e : Nat} {s : State} (hmove : (plane s k).moveOf = some n) (hprog : (engine s e).prog = none) :
    Retired n e (settlePlane k s) := by
  obtain ⟨b, j, heq⟩ := settlePlane_moves hmove
  have hplane : plane (settlePlane k s) n = leftPlane (plane (mapMoved b k n (transitionMade k s)) n) := by
    rw [heq, plane_journal, plane_planeLeft]
  refine ⟨by rw [hplane]; rfl, by rw [hplane]; rfl, ?_⟩
  rw [heq, engine_journal, engine_planeLeft, prog_mapMoved, engine, engines_transitionMade]
  exact hprog

theorem arrays_refuse (c : Option CmdRef) (b : Option Nat) (r : Refuse) (s : State) : arrays (refuse c b r s) = arrays s := by
  unfold refuse; dsimp only
  refine (arrays_of_hw (replyOpt_hw ..)).trans ?_
  split <;> rfl

/-- The state as plane `k` takes the block of plane `n`, whose map is still to move. -/
def blockGiven (n k : Nat) (home : Nat × Nat × Nat × Nat × Nat) (s : State) : State :=
  modPlane k (fun q => { q with home := some home, subst := (plane s n).subst, moveOf := some n })
    { s with hw := { s.hw with masters := put (fun _ => none) s.hw.masters k (look (fun _ => none) s.hw.masters n) } }

/-- The state as plane `n` gives its block up. -/
def blockGone (n : Nat) (s : State) : State :=
  modPlane n (fun q => { q with home := none }) { s with hw := { s.hw with masters := put (fun _ => none) s.hw.masters n none } }

theorem plane_blockGiven (n k j : Nat) (home : Nat × Nat × Nat × Nat × Nat) (s : State) : plane (blockGiven n k home s) j =
    if j = k then { plane s k with home := some home, subst := (plane s n).subst, moveOf := some n } else plane s j := by
  unfold blockGiven; rw [plane_modPlane]; rfl

theorem engine_blockGiven (n k e : Nat) (home : Nat × Nat × Nat × Nat × Nat) (s : State) : engine (blockGiven n k home s) e = engine s e := rfl

theorem plane_blockGone (n : Nat) (s : State) : plane (blockGone n s) n = { plane s n with home := none } := by
  unfold blockGone; rw [plane_modPlane_same]; rfl

theorem engine_blockGone (n e : Nat) (s : State) : engine (blockGone n s) e = engine s e := rfl

section
variable {n : Nat} {s : State} {home : Nat × Nat × Nat × Nat × Nat} (hhome : (plane s n).home = some home)
include hhome

theorem replacePlane_given {k : Nat} (hpick : pickPlane s (engOf n) = some k) : replacePlane n s =
    if unheld s (coreOf (engOf n)) then settlePlane k (blockGiven n k home s) else blockGiven n k home s := by
  unfold replacePlane
  rw [hhome]; dsimp only
  rw [hpick]; rfl

theorem replacePlane_gone (hpick : pickPlane s (engOf n) = none) : replacePlane n s =
    if (entry (blockGone n s) home.1).st = 1 then
      startRelease home.1 (modBrun home.1 (fun r => { r with loadCmd := none })
        (refuse (brun (blockGone n s) home.1).loadCmd (some home.1) (0x31, 1 + 2 ^ 24) (blockGone n s)))
    else blockGone n s := by
  unfold replacePlane
  rw [hhome]; dsimp only
  rw [hpick]; rfl

end

theorem replacePlane_homeless {n : Nat} {s : State} (h : (plane s n).home = none) : replacePlane n s = s := by
  unfold replacePlane; rw [h]

/-- The block of a RETIRED plane goes to another plane, or its load is refused; the plane stays RETIRED (R205). -/
theorem Retired.replacePlane {n e : Nat} {s : State} (h : Retired n e s) : Retired n e (replacePlane n s) := by
  rcases hhome : (plane s n).home with _ | home
  · rw [replacePlane_homeless hhome]; exact h
  rcases hpick : pickPlane s (engOf n) with _ | k
  · have hgone : Retired n e (blockGone n s) :=
      ⟨by rw [plane_blockGone]; exact h.st, by rw [plane_blockGone]; exact h.next, by rw [engine_blockGone]; exact h.prog⟩
    rw [replacePlane_gone hhome hpick]
    split
    · refine Retired.startRelease (hgone.of_arrays ?_) home.1
      exact arrays_refuse (brun (blockGone n s) home.1).loadCmd (some home.1) (0x31, 1 + 2 ^ 24) (blockGone n s)
    · exact hgone
  · have hnk : n ≠ k := fun hnk => absurd (h.st.symm.trans (hnk ▸ (pickPlane_some hpick).1)) (by decide)
    have hn : plane (blockGiven n k home s) n = plane s n := by rw [plane_blockGiven, if_neg hnk]
    rw [replacePlane_given hhome hpick]
    split
    · exact retired_settlePlane (by rw [plane_blockGiven, if_pos rfl]) h.prog
    · exact ⟨hn ▸ h.st, hn ▸ h.next, h.prog⟩

/-- A plane of an unheld core that needs a fifth spare row (R84, R215). -/
theorem retired_retirePlane {e : Nat} {g : Prog} {s : State} (hst : (plane s g.plane).st ≠ 1) (hunheld : unheld s (coreOf e) = true) :
    Retired g.plane e (retirePlane e g s) := by
  unfold retirePlane
  extract_lets n s1 s2
  have hprog : (engine s1 e).prog = none := congrArg Engine.prog (engine_modEngine_same e (fun x => { x with prog := none }) s)
  have hretired : ∀ f : Plane → Plane, (∀ q, (f q).st = 5 ∧ (f q).next = none) → Retired n e (modPlane n f s1) := fun f hf =>
    ⟨by rw [plane_modPlane_same]; exact (hf _).1, by rw [plane_modPlane_same]; exact (hf _).2, hprog⟩
  split
  · exact (hretired _ fun q => ⟨rfl, rfl⟩).replacePlane
  · exact hretired _ fun q => ⟨rfl, rfl⟩

end Sys2Proof.Machine
end

section
/-! SUPPORT. What PROGRAM_ATTEMPT_END and ADOPTION_COMPLETE do (R95, R97, R112, R198, R209, R215), and the statement. -/

open Sys2Proof Sys2Proof.Machine Sys2Proof.Spec

namespace Sys2Proof.Machine

/-! ### PROGRAM_ATTEMPT_END -/

section
variable {e : Fin 34272} {g : Prog} {s : State} (hprog : (engine s e).prog = some g)
include hprog

theorem exec_programAttemptEnd : exec (.programAttemptEnd e) s = .next (
    if g.erasing ∨ g.waiting ∨ g.row < 256 then s
    else if mustAbandon s g then abandonProgram e g s
    else attemptEnd e g s) := by
  show execProgramAttemptEnd e s = _
  unfold execProgramAttemptEnd
  rw [hprog]

variable (herase : g.erasing = false) (hwait : g.waiting = false) (hrow : 256 ≤ g.row)
include herase hwait hrow

theorem attemptEnd_abandoned (hgone : mustAbandon s g = true) :
    ∃ t, exec (.programAttemptEnd e) s = .next t ∧ (engine t e).prog = none := by
  refine ⟨abandonProgram e g s, ?_, engine_abandonProgram e g s⟩
  rw [exec_programAttemptEnd hprog, if_neg (by simp [herase, hwait]; omega), if_pos hgone]

theorem exec_attemptEnd (hgoes : mustAbandon s g = false) : exec (.programAttemptEnd e) s = .next (attemptEnd e g s) := by
  rw [exec_programAttemptEnd hprog, if_neg (by simp [herase, hwait]; omega), if_neg (by simp [hgoes])]

end

section
variable {e : Nat} {g : Prog} {s : State} (hheld : g.held = false) (hstretch : inHeldStretch s g.plane = false)
include hheld hstretch

theorem attemptEnd_eq : attemptEnd e g s =
    if rowsSpent s g.plane (sparesFor s g.plane true g.faults).1 then
      (if g.plane % 65 = 64 then completeProgram e g (noteLate e g s) else noteUnheld e (retirePlane e g (noteLate e g s)))
    else if ((sparesFor s g.plane true g.faults).1 ++ (sparesFor s g.plane true g.faults).2).isEmpty ∨ 3 ≤ g.attempt then
      completeProgram e g (noteLate e g s)
    else modEngine e (fun y => { y with prog := some { g with waiting := true } })
      (selectSpares g.plane (sparesFor s g.plane true g.faults) (noteLate e g s)) := by
  unfold attemptEnd; dsimp only
  rw [if_neg (by simp [hheld, hstretch])]

/-- With no fault the program completes. -/
theorem attemptEnd_completes (hspares : sparesFor s g.plane true g.faults = ([], []))
    (hoff : (look (fun _ => []) s.lar.repair.rowsOff g.plane).length ≤ 4) :
    attemptEnd e g s = completeProgram e g (noteLate e g s) := by
  have hspent : rowsSpent s g.plane [] = false := decide_eq_false (by simpa using hoff)
  rw [attemptEnd_eq hheld hstretch, hspares, if_neg (by simp [hspent]), if_pos (.inl rfl)]

/-- With rows or columns that need spares another attempt follows (R215). -/
theorem attemptEnd_continues (hne : (sparesFor s g.plane true g.faults).1 ++ (sparesFor s g.plane true g.faults).2 ≠ [])
    (hattempt : g.attempt < 3)
    (hoff : (look (fun _ => []) s.lar.repair.rowsOff g.plane).length + (sparesFor s g.plane true g.faults).1.length ≤ 4) :
    attemptEnd e g s = modEngine e (fun y => { y with prog := some { g with waiting := true } })
      (selectSpares g.plane (sparesFor s g.plane true g.faults) (noteLate e g s)) := by
  have hspent : rowsSpent s g.plane (sparesFor s g.plane true g.faults).1 = false := decide_eq_false (by omega)
  have hsome : ¬(((sparesFor s g.plane true g.faults).1 ++ (sparesFor s g.plane true g.faults).2).isEmpty = true ∨ 3 ≤ g.attempt) := by
    rintro (hempty | hlast)
    · exact hne (List.isEmpty_iff.mp hempty)
    · omega
  rw [attemptEnd_eq hheld hstretch, if_neg (by simp [hspent]), if_neg hsome]

/-- With a fifth spare row needed the plane retires (R84). -/
theorem attemptEnd_retires (hn : g.plane % 65 ≠ 64)
    (hoff : 4 < (look (fun _ => []) s.lar.repair.rowsOff g.plane).length + (sparesFor s g.plane true g.faults).1.length) :
    attemptEnd e g s = noteUnheld e (retirePlane e g (noteLate e g s)) := by
  have hspent : rowsSpent s g.plane (sparesFor s g.plane true g.faults).1 = true := decide_eq_true hoff
  rw [attemptEnd_eq hheld hstretch, if_pos hspent, if_neg hn]

end

/-! ### Spares selected (R82, R215) -/

/-- The rows and columns chosen join the plane's maps. -/
theorem repair_selectSpares {n : Nat} {x : List Nat × List Nat} (h : x.1 ++ x.2 ≠ []) (s : State) :
    look (fun _ => []) (selectSpares n x s).lar.repair.rowsOff n = look (fun _ => []) s.lar.repair.rowsOff n ++ x.1
      ∧ look (fun _ => []) (selectSpares n x s).lar.repair.colsOff n = look (fun _ => []) s.lar.repair.colsOff n ++ x.2 := by
  have hsome : ¬(x.1 ++ x.2).isEmpty = true := fun hempty => h (List.isEmpty_iff.mp hempty)
  unfold selectSpares; dsimp only
  rw [if_neg hsome, bump_lar]
  unfold writeRepair submitJob; dsimp only
  exact ⟨look_put_same _ _ _ _, look_put_same _ _ _ _⟩

/-! ### The plane of a completed program -/

theorem readyPlane_fields (s : State) (n : Nat) (q : Plane) : (readyPlane s n q).dp = 0x3C00 ∧ (readyPlane s n q).n = 0
    ∧ (readyPlane s n q).m = 0 ∧ (readyPlane s n q).x = 0 ∧ (readyPlane s n q).cells = q.cells
    ∧ (readyPlane s n q).resid = residuals s n := by
  unfold readyPlane
  generalize residuals s n = r
  dsimp only
  split
  · exact ⟨rfl, rfl, rfl, rfl, rfl, rfl⟩
  · split <;> exact ⟨rfl, rfl, rfl, rfl, rfl, rfl⟩

/-- READY at once (R61, R193). -/
theorem readyPlane_now {s : State} {n : Nat} {q : Plane} (h6 : q.st ≠ 6) (h : q.st = 1 ∨ unheld s (coreOf (engOf n)) = true) :
    (readyPlane s n q).st = 2 := by
  unfold readyPlane; dsimp only
  rw [if_neg h6, if_pos h]

/-- READY at the window end (R61). -/
theorem readyPlane_later {s : State} {n : Nat} {q : Plane} (h4 : q.st = 4) (h : unheld s (coreOf (engOf n)) = false) :
    (readyPlane s n q).st = 4 ∧ (readyPlane s n q).next = some 2 := by
  have hnot : ¬(q.st = 1 ∨ unheld s (coreOf (engOf n)) = true) := by rw [h4, h]; decide
  unfold readyPlane; dsimp only
  rw [if_neg (by rw [h4]; decide), if_neg hnot]
  exact ⟨h4, rfl⟩

/-- A row's residual as a completed program leaves it (R112). -/
theorem resid_completed {s t : State} {n : Nat} (h : offUnits t = offUnits s) {faults : List (Nat × Nat)}
    (hbad : badRows s n true faults = []) {i : Nat} (hi : i < 256) :
    (look (fun _ => 0) (residuals t n) i).toInt = residualOf s n i := by
  obtain ⟨hlow, hhigh⟩ := residual_inRange hi hbad
  have hsame := residualOf_of_offUnits h n i
  rw [residuals_eq, look_residuals (by rw [hsame]; exact hlow) (by rw [hsame]; exact hhigh) (.inl (List.mem_range.mpr hi)), hsame]
  exact toInt_toWord hlow hhigh

/-- What PROGRAM_ATTEMPT_END does. -/
theorem attemptEnds (e : Fin 34272) (s : State) : AttemptEnds e s := by
  refine ⟨fun hnone => ?_, fun g hprog => ⟨fun h => ?_, fun herase hwait hrow hgone _ =>
    attemptEnd_abandoned hprog herase hwait hrow hgone, ?_⟩⟩
  · show execProgramAttemptEnd e s = _
    unfold execProgramAttemptEnd; rw [hnone]
  · rw [exec_programAttemptEnd hprog, if_pos h]
  rintro n off x rfl heng rfl rfl herase hwait hrow hgoes hheld hstretch
  have hexec := exec_attemptEnd hprog herase hwait hrow hgoes
  have hlate := offUnits_noteLate e g s
  have hunheld := unheld_of_offUnits hlate (coreOf e)
  have hplane := plane_of_offUnits hlate g.plane
  refine ⟨?_, ?_, ?_⟩
  · intro hn hspares _ _ hoff hpurpose hgood hhome
    have hlt : g.plane < 2227680 := by have := e.isLt; unfold engOf at heng; omega
    have hgood' : masterGood (noteLate e g s) g.plane = true := by unfold masterGood; rw [masters_of_offUnits hlate]; exact hgood
    obtain ⟨hfree, hready, hresident⟩ := completeProgram_spec (e := e) (s := noteLate e g s) hlt hn hpurpose hgood' (by rw [hplane]; exact hhome)
    obtain ⟨hdp, hcount, hm, hx, hcells, hresid⟩ := readyPlane_fields (noteLate e g s) g.plane (plane (noteLate e g s) g.plane)
    rw [attemptEnd_completes hheld hstretch hspares hoff] at hexec
    refine ⟨_, hexec, hfree, ?_⟩
    rw [hready]
    refine ⟨hdp, hcount, hm, hx, by rw [hcells, hplane], fun i hi => ?_, fun h6 hnow => ?_, fun h4 hheldCore => ?_, hresident⟩
    · rw [hresid]; exact resid_completed hlate (badRows_of_spares hspares) hi
    · exact readyPlane_now (by rw [hplane]; exact h6) (by rw [hplane, heng, hunheld]; exact hnow)
    · exact readyPlane_later (by rw [hplane]; exact h4) (by rw [heng, hunheld]; exact hheldCore)
  · intro hne hattempt hoff
    rw [attemptEnd_continues hheld hstretch hne hattempt hoff] at hexec
    obtain ⟨hrows, hcols⟩ := repair_selectSpares (n := g.plane) hne (noteLate e g s)
    rw [lar_of_offUnits hlate] at hrows hcols
    refine ⟨_, hexec, by rw [engine_modEngine_same], ?_, hrows, hcols⟩
    exact (planes_of_offMaps (offMaps_selectSpares ..)).trans (planes_of_offUnits hlate)
  · intro hn hoff hst hfree
    rw [attemptEnd_retires hheld hstretch hn hoff] at hexec
    obtain ⟨hst5, hnext, hnone⟩ := (retired_retirePlane (e := e) (g := g) (s := noteLate e g s) (by rw [hplane]; exact hst)
      (by rw [hunheld]; exact hfree)).of_arrays (arrays_noteUnheld ..)
    exact ⟨_, hexec, hnone, hst5, hnext⟩

/-! ### ADOPTION_COMPLETE (R209) -/

/-- The plane that the evaluation of an adoption takes: its cells as verified, its sums those of the test shots. -/
def adoptedFrom (n : Nat) (d : AdoptData) (s : State) : Plane :=
  { plane (modPlane n (verifyPlane s n d.cells) s) n with dp := 0x3C00, n := 64, m := d.m, x := d.x, z := d.z, a := d.a }

/-- The plane that it leaves. -/
def adoptedPlane (n : Nat) (d : AdoptData) (s : State) : Plane :=
  { drifted (modPlane n (verifyPlane s n d.cells) s) (adoptedFrom n d s) with
    adopting := false, resid := residuals (modPlane n (verifyPlane s n d.cells) s) n }

/-- The plane evaluated, as R95 leaves it. -/
def adoptedDrift (n : Nat) (d : AdoptData) (s : State) : Plane := drifted (modPlane n (verifyPlane s n d.cells) s) (adoptedFrom n d s)

theorem adoptedPlane_fields (n : Nat) (d : AdoptData) (s : State) : (adoptedPlane n d s).adopting = false
    ∧ (adoptedPlane n d s).n = (adoptedDrift n d s).n ∧ (adoptedPlane n d s).m = (adoptedDrift n d s).m
    ∧ (adoptedPlane n d s).dp = (adoptedDrift n d s).dp ∧ (adoptedPlane n d s).st = (adoptedDrift n d s).st := by
  unfold adoptedPlane adoptedDrift
  generalize residuals (modPlane n (verifyPlane s n d.cells) s) n = r
  exact ⟨rfl, rfl, rfl, rfl, rfl⟩

/-- The evaluation sees the sums and the trim alone. -/
theorem evalDrift_adoptedFrom (n : Nat) (d : AdoptData) (s : State) : evalDrift (adoptedFrom n d s)
    = evalDrift { plane s n with dp := 0x3C00, n := 64, m := d.m, x := d.x, z := d.z, a := d.a } := rfl

theorem adoptedFrom_st (n : Nat) (d : AdoptData) (s : State) : (adoptedFrom n d s).st = (plane s n).st := by
  unfold adoptedFrom; rw [plane_modPlane_same]; rfl

theorem planes_keepResiduals (n : Nat) (s : State) : (keepResiduals n s).hw.planes = s.hw.planes
    ∧ (keepResiduals n s).lar = s.lar := by
  unfold keepResiduals; split <;> exact ⟨rfl, rfl⟩

theorem arrayKept_driftSummary (marks p : Nat) (s : State) : ArrayKept s (driftSummary marks p s) :=
  arrayKept_of_offMaps (offMaps_setWin ..)

/-- An adoption that ends changes its plane alone, and no count. -/
theorem adopt_spec (n : Nat) (d : AdoptData) (s : State) :
    (∀ j, plane (adopt n d s) j = if j = n then adoptedPlane n d s else plane s j) ∧ planeCount (adopt n d s) n = planeCount s n := by
  unfold adopt
  extract_lets p s1 verified q0 trimmed s2 s3 s4
  have hafter : ∀ t, ArrayKept s4 t → ArrayKept s2 t := fun t ht =>
    (((arrayKept_putCellMap n _ s2).trans (arrayKept_driftSummary _ p s3)).trans (arrayKept_bump ..)).trans ht
  have hplanes : ∀ j, plane s2 j = if j = n then adoptedPlane n d s else plane s j := fun j => by
    have hresid : plane s2 j = plane (modPlane n (fun _ => adoptedPlane n d s) s1) j := by
      unfold plane; exact congrArg (look planeReset · j) (planes_keepResiduals n _).1
    rw [hresid, plane_modPlane]
    split
    · rfl
    · rename_i hj; show plane (modPlane n _ s) j = _; rw [plane_modPlane, if_neg hj]
  have hkept : ∀ t, ArrayKept s2 t → (∀ j, plane t j = if j = n then adoptedPlane n d s else plane s j)
      ∧ planeCount t n = planeCount s n := fun t ht => by
    refine ⟨fun j => (ht.plane j).trans (hplanes j), ?_⟩
    unfold planeCount
    rw [ht.table, show s2.lar = s.lar from (planes_keepResiduals n _).2]
  split
  · exact hkept _ (hafter _ (arrayKept_checkResident ..))
  · exact hkept _ (hafter _ (.refl s4))

theorem exec_adoptionComplete (n : Fin 2227680) (d : AdoptData) (s : State) : exec (.adoptionComplete n d) s = .next (
    if !(plane s n).adopting ∨ (plane s n).home.isNone ∨ (plane s n).st ≠ 2 then s
    else if freeFor s (coreOf (engOf n)) 0 ∨ windowOpen s (coreOf (engOf n)) 0 0 ∨ windowOpen s (coreOf (engOf n)) 1 0 then adopt n d s
    else s) := rfl

/-- An adoption keeps what R95 makes of its sums. -/
theorem adopted {n : Fin 2227680} {d : AdoptData} {s : State} (hadopting : (plane s n).adopting = true)
    (hhome : (plane s n).home ≠ none) (hst : (plane s n).st = 2) (hfree : freeFor s (coreOf (engOf n)) 0 = true) (q : Plane)
    (hq : q = { plane s n with dp := 0x3C00, n := 64, m := d.m, x := d.x, z := d.z, a := d.a }) :
    ∃ t, exec (.adoptionComplete n d) s = .next t ∧ (plane t n).adopting = false ∧ (plane t n).n = 0 ∧ (plane t n).m = 0
      ∧ (∀ v, evalDrift q = some v → (plane t n).dp = v ∧ (plane t n).st = 2)
      ∧ (evalDrift q = none → (plane t n).dp = 0x3C00 ∧ (plane t n).st = 3)
      ∧ (∀ m, m ≠ n.val → plane t m = plane s m) ∧ planeCount t n = planeCount s n := by
  have hexec := exec_adoptionComplete n d s
  rw [if_neg (by simp [hadopting, hhome, hst]), if_pos (.inl hfree)] at hexec
  obtain ⟨hplane, hcount⟩ := adopt_spec n d s
  have heval : evalDrift q = evalDrift (adoptedFrom n d s) := by rw [evalDrift_adoptedFrom, hq]
  obtain ⟨hcleared, htrimmed, hstale⟩ := driftEvaluated_drifted (modPlane n (verifyPlane s n d.cells) s) (adoptedFrom n d s)
  obtain ⟨hidle, hn, hm, hdp, hst'⟩ := adoptedPlane_fields n d s
  refine ⟨_, hexec, ?_, ?_, ?_, fun v hv => ?_, fun hnone => ?_, fun m hm => by rw [hplane, if_neg hm], hcount⟩
  all_goals rw [hplane, if_pos rfl]
  · exact hidle
  · exact hn.trans (congrArg Plane.n hcleared).symm
  · exact hm.trans (congrArg Plane.m hcleared).symm
  · obtain ⟨hdp', hst''⟩ := htrimmed v (heval ▸ hv)
    exact ⟨hdp.trans hdp', hst'.trans (hst''.trans ((adoptedFrom_st n d s).trans hst))⟩
  · obtain ⟨hdp', hst''⟩ := hstale (heval ▸ hnone)
    exact ⟨hdp.trans hdp', hst'.trans hst''⟩

end Sys2Proof.Machine

/-- Settles O57, by the cases of PROGRAM_START, ERASE_COMPLETE, ROW_ITERATION, PROGRAM_ATTEMPT_END and ADOPTION_COMPLETE. -/
theorem planeProgram : Obligations.PlaneProgram := by
  refine ⟨programStarts, rowsProgrammed, attemptEnds, fun n d s => ⟨fun h => ?_, fun hadopting hhome hst hfree q hq =>
    adopted hadopting hhome hst hfree q hq⟩⟩
  have hnot : (!(plane s n).adopting) = true ∨ (plane s n).home.isNone = true ∨ (plane s n).st ≠ 2 := by
    rcases h with h | h | h
    · exact .inl (by simp [h])
    · exact .inr (.inl (by simp [h]))
    · exact .inr (.inr h)
  rw [exec_adoptionComplete, if_pos hnot]
end

section
/-! SUPPORT. The counter of datapath check failures (R485, Table 17.5), which is one of 32 bits. -/

open Sys2Proof Sys2Proof.Machine Sys2Proof.Spec

namespace Sys2Proof.Machine

theorem core_modLs_kat (k : Nat) (f : LayerRun → LayerRun) (s : State) (j : Nat) : (core (modLs k f s) j).kat = (core s j).kat := by
  unfold modLs; exact core_modCore_keeps (p := Core.kat) (fun q => by rfl) k j s

/-- A checksum miss of the layer step leaves the clusters and what a core's tests stand at. -/
theorem missOf_keeps (c : Iss) (s : State) (j : Nat) :
    cluster (missOf c s) j = cluster s j ∧ (core (missOf c s) j).kat = (core s j).kat := by
  have himpl : ∀ t, cluster (implicateAll c.k (maskSlots c.x) t) j = cluster t j
      ∧ (core (implicateAll c.k (maskSlots c.x) t) j).kat = (core t j).kat := fun t =>
    ⟨forAll_keeps (cluster · j) (fun i => implicate c.k (some i)) (fun _ _ => rfl) _ t,
      forAll_keeps (fun u => (core u j).kat) (fun i => implicate c.k (some i)) (fun _ _ => core_modLs_kat ..) _ t⟩
  unfold missOf
  split
  · obtain ⟨hcluster, hkat⟩ := himpl (addMiss c.k s)
    exact ⟨hcluster, hkat.trans (core_modLs_kat ..)⟩
  · exact ⟨rfl, rfl⟩

theorem winWord_setWin_other {p off o : Nat} (h : o ≠ off) (v : W64) (s : State) (j : Nat) :
    look winReset (cluster (setWin p off v s) j).win o = look winReset (cluster s j).win o := by
  unfold setWin
  split
  · rw [cluster_modCluster]; split
    · rename_i hj; rw [look_put_other _ _ _ h, hj]
    · rfl
  · rfl

/-- Counting a failure towards the core's tests (R493), short of the one that fails the core, leaves the counter of them all. -/
theorem winWord_katCount {k : Nat} {s : State} (hfew : (core s k).kat.winCount < 15) (j : Nat) :
    look winReset (cluster (katCount k s) j).win 0xB18 = look winReset (cluster s j).win 0xB18 := by
  have hdue : ∀ t, look winReset (cluster (katDue k t) j).win 0xB18 = look winReset (cluster t j).win 0xB18 :=
    fun t => winWord_setWin_other (by decide) _ _ j
  unfold katCount; extract_lets w q n t late
  have hn : n ≠ 16 := by unfold n q; split <;> omega
  rw [if_neg hn]
  unfold late
  split
  · exact hdue t
  · rfl

/-- A datapath check failure counts modulo 2^32. -/
theorem winWord_datapath {c : Iss} {s : State} (hen : enabledCl s (clOf c.k) = true) (hfew : (core s c.k).kat.winCount < 15)
    (unit : Fin 5) (lane : W32) :
    look winReset (cluster (recordFault c (.datapath unit lane) s) (clOf c.k)).win 0xB18
      = BitVec.ofNat 64 (((look winReset (cluster s (clOf c.k)).win 0xB18).toNat + 1) % 2 ^ 32) := by
  have hkeeps := missOf_keeps c (raise (recErr s c 0x25 0 unit.val lane.toNat 0) (bump (clOf c.k) 0xB18 1 s))
  unfold recordFault; dsimp only
  rw [winWord_katCount (by rw [(hkeeps c.k).2, core_raise, core_bump]; exact hfew), (hkeeps (clOf c.k)).1, cluster_raise,
    winWord_bump hen (by decide)]

/-- `quantFirst` with the counter of cluster 0 at its largest value. -/
def counterFull : State :=
  { quantFirst with
    hw := { quantFirst.hw with clusters := [(0, { cluster quantFirst 0 with win := [(0xB18, 0xFFFFFFFF)] })] } }

theorem enabled_counterFull : enabledCl counterFull (clOf firstIss.k) = true ∧ (core counterFull firstIss.k).kat.winCount < 15
    ∧ look winReset (cluster counterFull (clOf firstIss.k)).win 0xB18 = 0xFFFFFFFF := by decide +kernel

end Sys2Proof.Machine

/-- Refutes O49: its part on datapath check failures says that one raises the counter 0xB18 of the cluster's window by 1 as a 64-bit
word, whatever it stands at. DATAPATH_CHECKS is a register of 32 bits (Tables 17.5, 19.6), and a counter wraps at its width: in
`counterFull` it stands at 0xFFFFFFFF, and the next failure leaves 0. -/
theorem not_recordsIssue : ¬ Obligations.RecordsIssue := by
  unfold Obligations.RecordsIssue
  rintro ⟨-, -, hfailure, -⟩
  obtain ⟨henabled, hfew, hfull⟩ := enabled_counterFull
  obtain ⟨-, -, hcount⟩ := hfailure firstIss 0 0 counterFull hfew
  have hraised := hcount henabled
  rw [winWord_datapath henabled hfew, hfull] at hraised
  exact absurd hraised (by decide)
end

section
/-! SUPPORT. An SMAX whose score tile is its state tile (R248, R249). Binding enable asks for the tiles of the state only on an attention
layer (Table 6.7, check 8), so on another layer SMAX may name no tile of state at all. -/

open Sys2Proof Sys2Proof.Machine Sys2Proof.Spec

namespace Sys2Proof.Machine

/-- An SMAX that issues works in the state `begun` (R249). -/
theorem exec_smax {c : Iss} {k : Fin 2016} {r : RecRead} {s : State} (hreads : Reads c k r s) (hissued : Issued 0x51 c r s) :
    exec (.smax k r) s = .next (smax c (begun c s)) := congrArg Host.Outcome.next (issue_issued hreads hissued smax)

/-! ### Such an SMAX -/

/-- SMAX for slot 0 of score tile 0, with state tile 0 and a CNT_D of 0. -/
def statelessSmax (beat seq : Nat) : Nat := plainRecord 0x51 beat seq (2 ^ 96) + 2 ^ 69

/-- A plan of one core, the layer of `narrowLayer` and this record; the CRC-32 is computed outside the model. -/
def statelessPlan : List Byte :=
  leBytes 64 (packBits [(0x5350414E, 32), (1, 16), (1, 16), (1, 32), (2, 32), (64, 32), (128, 32), (448, 32), (576, 32), (592, 32),
    (0x5B7C4ECB, 32)])
    ++ narrowLayer ++ leBytes 64 (packBits [(192, 32), (3, 32), (288, 32), (5, 32)])
    ++ oneRecordNarrow statelessSmax ++ oneRecordWide statelessSmax
    ++ leBytes 128 (packBits [(4, 8), (0, 120), (32000, 32), (0, 352), (1, 16), (1, 8), (1, 8)]) ++ leBytes 16 0

/-- The checks of binding enable accept it. -/
theorem statelessPlan_accepted : checkImage statelessPlan 592 (regionsOf statelessPlan 0 [0] 0) = none := by decide +kernel

/-- Core 0 runs this plan as binding 1 and has its layer step open. Word 0 of tile 0 is 1.0, and no key of the tile is visible. -/
def sharedTile : State :=
  { State.reset with
    ten := { State.reset.ten with
      entries := [(1, { st := 3, cores := 1 })]
      runs := [(1, { plan := statelessPlan, coreMap := [0], slots := [some 0, none, none, none] })] }
    srv := { State.reset.srv with run := [(0, { fed := 1 })] }
    hw := { clusters := [(0, { st := 0, logical := 0, usable := 18 })],
            cores := [(0, { usable := true, logical := 0, inUse := 0xFFFF, bound := some (1, 0), recipes := true, ptr := 1,
                            ls := { opened := true }, tiles := [(0, 0x3F800000)] })] } }

/-- The core's reading of the record. -/
def smaxRead : RecRead := { idx := 1, wide := false, bits := BitVec.ofNat 256 (statelessSmax 0 1), bad := false }

/-- The record as plan core 0 of binding 1 issues it. -/
def smaxIss : Iss := { k := 0, b := 1, i := 0, x := smaxRead.bits.toNat, idx := 1, wide := false }

theorem reads_sharedTile : Reads smaxIss 0 smaxRead sharedTile := by
  refine ⟨rfl, ?_, ?_, rfl, rfl, rfl, rfl⟩ <;> decide +kernel

theorem issued_sharedTile : Issued 0x51 smaxIss smaxRead sharedTile := by
  refine ⟨⟨⟨?_, ?_, ?_, ?_⟩, ?_, ?_, ?_, ?_⟩, rfl⟩ <;> decide +kernel

/-- The layer step is that of layer 0, whose tiles have 8 query rows and 8 keys, and tile 0 is the record's state tile. -/
theorem shape_sharedTile : statelessPlan = smaxIss.plan sharedTile ∧ 0 = (lsOf sharedTile (0 : Fin 2016)).layer
    ∧ 8 = atQ statelessPlan 0 ∧ 8 = atK statelessPlan 0 ∧ 0 = rTileD smaxIss.x := by decide +kernel

/-- The layer's head dimension is 0, so the state has no output words, and no tile of it lies beyond the start of the score tile. -/
theorem apart_sharedTile :
    8 * (atD statelessPlan 0 * ceilDiv (atDh statelessPlan 0) (atD statelessPlan 0)) ≤ 256 * (rCntD smaxIss.x - 1)
      ∧ 0 + rCntD smaxIss.x ≤ rTileA smaxIss.x := by decide +kernel

/-- The visible keys of a row of the score tile. -/
def seenIn (i : Nat) : List Nat :=
  (List.range 8).filter fun u => look (fun _ => false) (core sharedTile (0 : Fin 2016)).mask (256 * rTileA smaxIss.x + 16 * i + u)

theorem seenIn_first : seenIn 0 = [] := by decide +kernel

/-- Word 0 of the tile is m of row 0 before the record, and it is a score that the record clears. -/
theorem smax_sharedTile : tileWord sharedTile (0 : Fin 2016) 0 0 = 0x3F800000
    ∧ tileWord (smax smaxIss (begun smaxIss sharedTile)) (0 : Fin 2016) 0 0 = 0 := by decide +kernel

end Sys2Proof.Machine

/-- Refutes O54: its SMAX part says that a row with no visible key has its scores cleared and keeps its state, wherever the score tile lies
before TILE_D or from TILE_D + CNT_D on. With a CNT_D of 0 the score tile may then be the state tile itself: on a layer that is no attention
layer the checks of binding enable accept such an SMAX (`statelessPlan_accepted`), and a head dimension of 0 asks for no output words. In
`sharedTile` word 0 of the tile, 1.0, is both m of row 0 and a score of that row, and the record clears it. -/
theorem not_attentionTiles : ¬ Obligations.AttentionTiles := by
  unfold Obligations.AttentionTiles
  rintro ⟨hrecords, -⟩
  obtain ⟨-, hsoftened, -⟩ := hrecords 0 smaxRead smaxIss sharedTile reads_sharedTile
  obtain ⟨hplan, hlayer, hrows, hkeys, htile⟩ := shape_sharedTile
  obtain ⟨houtputs, hbehind⟩ := apart_sharedTile
  obtain ⟨t, ht, -, -, hunseen, -⟩ := hsoftened issued_sharedTile _ 0 8 8 0 seenIn hplan hlayer hrows hkeys htile rfl houtputs
    (.inr hbehind)
  obtain ⟨-, hkept, -⟩ := hunseen 0 (by decide) seenIn_first
  rw [exec_smax reads_sharedTile issued_sharedTile] at ht
  obtain rfl : smax smaxIss (begun smaxIss sharedTile) = t := by simpa using ht
  obtain ⟨hone, hcleared⟩ := smax_sharedTile
  have hclash : (0 : W32) = 0x3F800000 := hcleared.symm.trans (hkept.trans hone)
  exact absurd hclash (by decide)
end

section
/-! SUPPORT. What Miotor messages leave of the fabric (R293, R296): flits change the counts of the ports of their bond and the output, and
nothing else. -/

open Sys2Proof Sys2Proof.Machine Sys2Proof.Spec

namespace Sys2Proof.Machine

/-! ### The output only grows -/

theorem out_subset_emit (o : Out) (s : State) : s.out ⊆ (emit o s).out := List.subset_append_left ..

theorem mem_out_emit (o : Out) (s : State) : o ∈ (emit o s).out := List.mem_append_right _ (List.mem_singleton_self o)

theorem out_subset_of_append {s t : State} (h : ∃ more, t.out = s.out ++ more) : s.out ⊆ t.out := by
  obtain ⟨more, hmore⟩ := h
  rw [hmore]; exact List.subset_append_left ..

theorem out_subset_of_sends {s t : State} (h : Sends [] s t) : s.out ⊆ t.out := by
  obtain ⟨⟨fs, hfs⟩, -⟩ := h
  exact out_subset_of_append ⟨fs.map fun x => .flit x.1 x.2, by rw [hfs, List.append_nil]⟩

/-- A fold whose steps only add to the output only adds to it. -/
theorem out_subset_forAll {α : Type} {f : α → State → State} (h : ∀ a s, s.out ⊆ (f a s).out) (l : List α) (s : State) :
    s.out ⊆ (forAll l f s).out :=
  forAll_invariant (P := fun t => s.out ⊆ t.out) (fun a _ t ht => List.Subset.trans ht (h a t)) (List.Subset.refl _)

/-- What the step of one element adds to the output stands there after the fold. -/
theorem mem_out_forAll {α : Type} {f : α → State → State} (h : ∀ a s, s.out ⊆ (f a s).out) {a : α} {o : Out}
    (ho : ∀ s, o ∈ (f a s).out) {l : List α} (ha : a ∈ l) (s : State) : o ∈ (forAll l f s).out :=
  forAll_reaches (P := fun _ => True) (Q := fun t => o ∈ t.out) ha trivial (fun _ _ _ _ _ => trivial) (fun t _ => ho t)
    fun b _ _ t ht => h b t ht

/-! ### The ports under a message -/

/-- The state without the ports and the output. -/
def offPorts (s : State) : State := { s with out := [], fab := { s.fab with ports := [] } }

theorem eq_of_offPorts {s t : State} (h : offPorts t = offPorts s) :
    t = { s with out := t.out, fab := { s.fab with ports := t.fab.ports } } :=
  (congrArg (fun x : State => { x with out := t.out, fab := { x.fab with ports := t.fab.ports } }) h :)

theorem fabSt_of_offPorts {s t : State} (h : offPorts t = offPorts s) : t.fab.st = s.fab.st :=
  (congrArg (fun x : State => x.fab.st) h :)
theorem ten_of_offPorts {s t : State} (h : offPorts t = offPorts s) : t.ten = s.ten := (congrArg State.ten h :)

theorem offPorts_sendFlit (k kind src dst txn : Nat) (bs : List Byte) (s : State) :
    offPorts (sendFlit k kind src dst txn bs s) = offPorts s := rfl

theorem offPorts_sendFlits (down : Bool) (kind src dst txn : Nat) (bs : List Byte) (s : State) :
    offPorts (sendFlits down kind src dst txn bs s) = offPorts s := by
  unfold sendFlits; extract_lets ps fs; split
  · rfl
  · exact forAll_keeps offPorts _ (fun _ _ => offPorts_sendFlit ..) _ _

/-- A port counts its flits; nothing else of a port changes. -/
def PortsCount (s t : State) : Prop := ∀ j, port t j = { port s j with flits := (port t j).flits, seq := (port t j).seq }

theorem PortsCount.refl (s : State) : PortsCount s s := fun _ => rfl

theorem PortsCount.trans {s t u : State} (h : PortsCount s t) (g : PortsCount t u) : PortsCount s u := fun j => by rw [g j, h j]

theorem PortsCount.st {s t : State} (h : PortsCount s t) (j : Nat) : (port t j).st = (port s j).st := by rw [h j]

theorem portsCount_of_ports {s t : State} (h : t.fab.ports = s.fab.ports) : PortsCount s t := fun j => by
  unfold port; rw [h]

theorem portsCount_of_sends {os : List Out} {s t : State} (h : Sends os s t) : PortsCount s t := h.2

theorem port_sendFlit_other {k j : Nat} (h : j ≠ k) (kind src dst txn : Nat) (bs : List Byte) (s : State) :
    port (sendFlit k kind src dst txn bs s) j = port s j := by
  unfold sendFlit; dsimp only
  rw [port_emit, port_setPort, if_neg h]

/-- A message leaves the ports of the other bond alone (R293). -/
theorem port_sendFlits_other {down : Bool} {j : Nat} (h : ∀ i < 4, j ≠ if down then i else i + 4) (kind src dst txn : Nat)
    (bs : List Byte) (s : State) : port (sendFlits down kind src dst txn bs s) j = port s j := by
  unfold sendFlits; extract_lets ps fs; split
  · rfl
  · rename_i hsome
    have hbond : ∀ k ∈ ps, j ≠ k := fun k hk => by
      obtain ⟨i, hi, rfl⟩ := List.mem_map.mp (List.mem_filter.mp hk).1
      exact h i (List.mem_range.mp hi)
    have hpos : 0 < ps.length := List.length_pos_iff.mpr fun hnil => hsome (.inr (by rw [hnil]; rfl))
    refine forAll_keeps (port · j) _ (fun x t => port_sendFlit_other (hbond _ ?_) ..) _ _
    rw [List.getD_eq_getElem _ _ (Nat.mod_lt _ hpos)]
    exact List.getElem_mem _

/-! ### Messages back to the sources of what a port holds (R296) -/

/-- What messages sent back from port `k` leave: everything but the output, which grows, and the counts of other ports. -/
structure SentBack (k : Nat) (s t : State) : Prop where
  rest  : offPorts t = offPorts s
  ports : PortsCount s t
  own   : port t k = port s k
  out   : s.out ⊆ t.out

theorem SentBack.refl (k : Nat) (s : State) : SentBack k s s := ⟨rfl, .refl s, rfl, List.Subset.refl _⟩

theorem SentBack.trans {k : Nat} {s t u : State} (h : SentBack k s t) (g : SentBack k t u) : SentBack k s u :=
  ⟨g.rest.trans h.rest, h.ports.trans g.ports, g.own.trans h.own, List.Subset.trans h.out g.out⟩

theorem sentBack_emit (k : Nat) (o : Out) (s : State) : SentBack k s (emit o s) :=
  ⟨rfl, portsCount_of_ports rfl, rfl, out_subset_emit o s⟩

/-- Port `k` is no port of the bond that its messages back leave on. -/
theorem not_on_back_bond (k : Fin 8) : ∀ i < 4, k.val ≠ if decide (4 ≤ k.val) then i else i + 4 := fun i hi => by
  split
  · rename_i hk; have hk : 4 ≤ k.val := of_decide_eq_true hk; omega
  · rename_i hk; have hk : ¬ 4 ≤ k.val := fun h => hk (decide_eq_true h); omega

theorem sentBack_sendBack (k : Fin 8) (kind : Nat) (src : BitVec 9) (txn : BitVec 24) (bs : List Byte) (s : State) :
    SentBack k s (sendBack k kind src txn bs s) := by
  unfold sendBack; split
  · exact .refl _ s
  · have hsends := sends_sendFlits (decide (4 ≤ k.val)) kind s.fab.myPos.toNat src.toNat txn.toNat bs s
    exact ⟨offPorts_sendFlits .., portsCount_of_sends hsends, port_sendFlits_other (not_on_back_bond k) .., out_subset_of_sends hsends⟩

/-- One message back: it is logged, and its flits leave. -/
theorem sentBack_message (k : Fin 8) (o : Out) (kind : Nat) (src : BitVec 9) (txn : BitVec 24) (bs : List Byte) (s : State) :
    SentBack k s (sendBack k kind src txn bs (emit o s)) ∧ o ∈ (sendBack k kind src txn bs (emit o s)).out := by
  have hback := sentBack_sendBack k kind src txn bs (emit o s)
  exact ⟨(sentBack_emit _ o s).trans hback, hback.out (mem_out_emit o s)⟩

theorem sentBack_forAll {α : Type} {k : Nat} {f : α → State → State} (h : ∀ a s, SentBack k s (f a s)) (l : List α) (s : State) :
    SentBack k s (forAll l f s) :=
  forAll_invariant (P := SentBack k s) (fun a _ _ ht => ht.trans (h a _)) (.refl k s)

end Sys2Proof.Machine
end

section
/-! SUPPORT. What a domain fault does (R306, R307, R312): the notices it sends, the switches and multi-part bindings it ends, and the one
record it raises. -/

open Sys2Proof Sys2Proof.Machine Sys2Proof.Spec

namespace Sys2Proof.Machine

/-! ### Completion entries only add to the output (R386) -/

theorem out_subset_putDue (r : Nat) (c : Compl) (s : State) : s.out ⊆ (putDue r c s).out := by
  unfold putDue; dsimp only
  split
  · split <;> exact List.Subset.refl _
  · split
    · exact List.Subset.refl _
    · obtain ⟨-, -, more, hmore⟩ := putCompl_spec r c s
      exact out_subset_of_append ⟨_, hmore⟩

theorem out_subset_finish (r n : Nat) (c : Compl) (s : State) : s.out ⊆ (finish r n c s).out := by
  unfold finish completeWith
  split
  · exact List.Subset.refl _
  · have hresv : (releaseResv r n 1 s).out = s.out := by unfold releaseResv; split <;> rfl
    have hdue := out_subset_putDue r { c with kind := 0 } (releaseResv r n 1 s)
    rwa [hresv] at hdue

theorem out_subset_endWork (r status : Nat) (s : State) : s.out ⊆ (endWork r status s).out := by
  unfold endWork; split
  · exact List.Subset.refl _
  · rw [out_of_offRings (offRings_of_offReads (offReads_dropReads ..))]
    exact out_subset_finish ..

theorem out_subset_failWork (c status : Nat) (s : State) : s.out ⊆ (failWork c status s).out := by
  unfold failWork
  exact List.Subset.trans (out_subset_endWork (ownerOf s c) status s) (out_subset_forAll (fun _ _ => by exact List.Subset.refl _) _ _)

theorem out_subset_replyOpt (c : Option CmdRef) (b status reason detail : Nat) (s : State) :
    s.out ⊆ (replyOpt c b status reason detail s).out := by
  unfold replyOpt replyCmd; split
  · exact List.Subset.refl _
  · exact out_subset_finish ..

/-! ### Work that fails -/

/-- The state of start-up, of the error logger, of the fabric and of tenancy. -/
def control (s : State) : StartUp × ErrState × Fabric × Tenancy := (s.su, s.err, s.fab, s.ten)

theorem control_of_offReads {s t : State} (h : offReads t = offReads s) : control t = control s := (congrArg control h :)

theorem control_endWork (r status : Nat) (s : State) : control (endWork r status s) = control s := by
  unfold endWork; split
  · rfl
  · rw [control_of_offReads (offReads_dropReads ..)]
    unfold control setWork; simp

theorem control_failWork (c status : Nat) (s : State) : control (failWork c status s) = control s := by
  unfold failWork; rw [forAll_keeps control (decideEnd · status) (fun _ _ => rfl), control_endWork]

theorem control_abandonStep (b : Nat) (s : State) : control (abandonStep b s) = control s := by
  unfold abandonStep
  exact (forAll_keeps control _ (fun _ _ => by rfl) _ _).trans (forAll_keeps control _ (fun _ _ => by rfl) _ _)

theorem out_abandonStep (b : Nat) (s : State) : (abandonStep b s).out = s.out := by
  unfold abandonStep
  exact (forAll_keeps State.out _ (fun _ _ => by rfl) _ _).trans (forAll_keeps State.out _ (fun _ _ => by rfl) _ _)

theorem eq_of_control {s t : State} (h : control t = control s) : t.su = s.su ∧ t.err = s.err ∧ t.fab = s.fab ∧ t.ten = s.ten := by
  simpa only [control, Prod.mk.injEq] using h

theorem control_modEntry {s t : State} (h : control t = control s) (b : Nat) (f : BEntry → BEntry) :
    control (modEntry b f t) = control (modEntry b f s) := by
  obtain ⟨hsu, herr, hfab, hten⟩ := eq_of_control h
  unfold control modEntry setEntry entry; dsimp only; rw [hsu, herr, hfab, hten]

theorem control_modBrun {s t : State} (h : control t = control s) (b : Nat) (f : BRun → BRun) :
    control (modBrun b f t) = control (modBrun b f s) := by
  obtain ⟨hsu, herr, hfab, hten⟩ := eq_of_control h
  unfold control modBrun setBrun brun; dsimp only; rw [hsu, herr, hfab, hten]

theorem ten_of_control {s t : State} (h : control t = control s) : t.ten = s.ten := by
  obtain ⟨-, -, -, hten⟩ := eq_of_control h
  exact hten

/-! ### A binding ended by a domain fault (R306) -/

/-- The state of start-up, of the error logger and of the fabric, with the switches. -/
def offBindings (s : State) : StartUp × ErrState × Fabric × List SwitchOp := (s.su, s.err, s.fab, s.ten.switches)

theorem eq_of_offBindings {s t : State} (h : offBindings t = offBindings s) :
    t.su = s.su ∧ t.err = s.err ∧ t.fab = s.fab ∧ t.ten.switches = s.ten.switches := by
  simpa only [offBindings, Prod.mk.injEq] using h

theorem offBindings_of_control {s t : State} (h : control t = control s) : offBindings t = offBindings s := by
  obtain ⟨hsu, herr, hfab, hten⟩ := eq_of_control h
  unfold offBindings; rw [hsu, herr, hfab, hten]

theorem control_failBinding (b : Nat) (s : State) :
    control (failBinding b s) = control (modEntry b (fun e => { e with st := 6 }) s) := by
  unfold failBinding; exact forAll_keeps control _ (fun _ _ => by rfl) _ _

theorem out_failBinding (b : Nat) (s : State) : (failBinding b s).out = s.out := by
  unfold failBinding; exact forAll_keeps State.out _ (fun _ _ => by rfl) _ _

/-- The work of a binding whose step in progress is abandoned. -/
def workFailed (b : Nat) (s : State) : State :=
  forAll ((brun s b).slots.filterMap id) (fun c s => failWork c 0x11 s) (abandonStep b s)

theorem control_workFailed (b : Nat) (s : State) : control (workFailed b s) = control s := by
  unfold workFailed; rw [forAll_keeps control _ (fun c s => control_failWork c 0x11 s), control_abandonStep]

theorem out_subset_workFailed (b : Nat) (s : State) : s.out ⊆ (workFailed b s).out := by
  have h := out_subset_forAll (fun c s => out_subset_failWork c 0x11 s) ((brun s b).slots.filterMap id) (abandonStep b s)
  rwa [out_abandonStep] at h

/-- The binding marked: it takes no further work. -/
def bindingMarked (b : Nat) (s : State) : State := modBrun b (fun r => { r with fabricFault := true }) s

theorem faultBinding_enabled {b : Nat} {s : State} (h : (entry s b).st = 3) :
    faultBinding b s = failBinding b (workFailed b (bindingMarked b s)) := by
  unfold faultBinding; dsimp only
  rw [if_pos (.inl h), if_pos h]; rfl

theorem faultBinding_switching {b : Nat} {s : State} (h : (entry s b).st ≠ 3) (hprev : (entry s b).st = 4 ∧ (brun s b).prev = 3) :
    faultBinding b s = modBrun b (fun r => { r with prev := 6 }) (workFailed b (bindingMarked b s)) := by
  unfold faultBinding; dsimp only
  rw [if_pos (.inr hprev), if_neg h]; rfl

theorem faultBinding_idle {b : Nat} {s : State} (h : (entry s b).st ≠ 3) (hprev : ¬ ((entry s b).st = 4 ∧ (brun s b).prev = 3)) :
    faultBinding b s = bindingMarked b s := by
  unfold faultBinding; dsimp only
  rw [if_neg (not_or.mpr ⟨h, hprev⟩)]; rfl

theorem out_subset_faultBinding (b : Nat) (s : State) : s.out ⊆ (faultBinding b s).out := by
  have hout : s.out ⊆ (workFailed b (bindingMarked b s)).out := out_subset_workFailed b (bindingMarked b s)
  by_cases henabled : (entry s b).st = 3
  · rw [faultBinding_enabled henabled, out_failBinding]; exact hout
  · by_cases hprev : (entry s b).st = 4 ∧ (brun s b).prev = 3
    · rw [faultBinding_switching henabled hprev]; exact hout
    · rw [faultBinding_idle henabled hprev]; exact List.Subset.refl _

/-- What a domain fault does to a binding shows in tenancy: an ENABLED one is FAILED, and one that a switch holds has FAILED as the state
to go back to. -/
theorem faultBinding_cases (b : Nat) (s : State) :
    ((entry s b).st = 3 ∧ control (faultBinding b s) = control (modEntry b (fun e => { e with st := 6 }) (bindingMarked b s)))
    ∨ ((entry s b).st ≠ 3 ∧ (control (faultBinding b s) = control (bindingMarked b s)
        ∨ control (faultBinding b s) = control (modBrun b (fun r => { r with prev := 6 }) (bindingMarked b s)))) := by
  have hwork := control_workFailed b (bindingMarked b s)
  by_cases henabled : (entry s b).st = 3
  · refine .inl ⟨henabled, ?_⟩
    rw [faultBinding_enabled henabled, control_failBinding]; exact control_modEntry hwork b _
  · refine .inr ⟨henabled, ?_⟩
    by_cases hprev : (entry s b).st = 4 ∧ (brun s b).prev = 3
    · rw [faultBinding_switching henabled hprev]; exact .inr (control_modBrun hwork b _)
    · rw [faultBinding_idle henabled hprev]; exact .inl rfl

theorem offBindings_faultBinding (b : Nat) (s : State) : offBindings (faultBinding b s) = offBindings s := by
  rcases faultBinding_cases b s with ⟨-, h⟩ | ⟨-, h | h⟩
  · exact (offBindings_of_control h).trans rfl
  · exact (offBindings_of_control h).trans rfl
  · exact (offBindings_of_control h).trans rfl

theorem entry_of_control {s t : State} (h : control t = control s) (j : Nat) : entry t j = entry s j := by
  unfold entry; rw [ten_of_control h]
theorem brun_of_control {s t : State} (h : control t = control s) (j : Nat) : brun t j = brun s j := by
  unfold brun; rw [ten_of_control h]

theorem entry_faultBinding_other {b j : Nat} (h : j ≠ b) (s : State) : entry (faultBinding b s) j = entry s j := by
  rcases faultBinding_cases b s with ⟨-, g⟩ | ⟨-, g | g⟩
  · rw [entry_of_control g, entry_modEntry, if_neg h]; rfl
  · rw [entry_of_control g]; rfl
  · rw [entry_of_control g]; rfl

theorem brun_faultBinding_other {b j : Nat} (h : j ≠ b) (s : State) : brun (faultBinding b s) j = brun s j := by
  have hmarked : brun (bindingMarked b s) j = brun s j := by unfold bindingMarked; rw [brun_modBrun, if_neg h]
  rcases faultBinding_cases b s with ⟨-, g⟩ | ⟨-, g | g⟩
  · rw [brun_of_control g, ← hmarked]; rfl
  · rw [brun_of_control g, hmarked]
  · rw [brun_of_control g, brun_modBrun, if_neg h, hmarked]

theorem fabricFault_faultBinding (b : Nat) (s : State) : (brun (faultBinding b s) b).fabricFault = true := by
  have hmarked : (brun (bindingMarked b s) b).fabricFault = true := by unfold bindingMarked; rw [brun_modBrun_same]
  rcases faultBinding_cases b s with ⟨-, g⟩ | ⟨-, g | g⟩
  · rw [brun_of_control g]; exact hmarked
  · rw [brun_of_control g, hmarked]
  · rw [brun_of_control g, brun_modBrun_same]; exact hmarked

/-- An ENABLED binding is FAILED, and a FAILED one stays so. -/
theorem failed_faultBinding {b : Nat} {s : State} (h : (entry s b).st = 3 ∨ (entry s b).st = 6) :
    (entry (faultBinding b s) b).st = 6 := by
  rcases faultBinding_cases b s with ⟨-, g⟩ | ⟨hne, g | g⟩
  · rw [entry_of_control g, entry_modEntry_same]
  · rw [entry_of_control g]; exact h.resolve_left hne
  · rw [entry_of_control g]; exact h.resolve_left hne

/-- The bindings whose plans have PARTS above 1 ended (R306). -/
def bindingsFaulted (s : State) : State := forAll (multiParts s) faultBinding s

theorem offBindings_bindingsFaulted (s : State) : offBindings (bindingsFaulted s) = offBindings s := by
  unfold bindingsFaulted; exact forAll_keeps offBindings _ offBindings_faultBinding _ _

theorem out_subset_bindingsFaulted (s : State) : s.out ⊆ (bindingsFaulted s).out :=
  out_subset_forAll out_subset_faultBinding _ _

/-- An entry that is not EMPTY is listed. -/
theorem mem_liveBindings {s : State} {b : Nat} (h : (entry s b).st ≠ 0) : b ∈ liveBindings s := by
  unfold entry at h
  unfold liveBindings
  generalize s.ten.entries = m at h
  induction m with
  | nil => exact absurd rfl h
  | cons p m ih =>
    by_cases hp : p.1 = b
    · refine List.mem_map.mpr ⟨p, List.mem_filter.mpr ⟨List.mem_cons_self .., ?_⟩, hp⟩
      simpa [look, hp] using h
    · obtain ⟨q, hq, hqb⟩ := List.mem_map.mp (ih (by simpa [look, hp] using h))
      obtain ⟨hmem, hst⟩ := List.mem_filter.mp hq
      exact List.mem_map.mpr ⟨q, List.mem_filter.mpr ⟨List.mem_cons_of_mem p hmem, hst⟩, hqb⟩

theorem bindingsFaulted_multi {s : State} {b : Nat} (hst : (entry s b).st = 3) (hparts : 1 < plParts (planOf s b)) :
    (entry (bindingsFaulted s) b).st = 6 ∧ (brun (bindingsFaulted s) b).fabricFault = true := by
  have hmem : b ∈ multiParts s :=
    List.mem_filter.mpr ⟨mem_liveBindings (by rw [hst]; decide), decide_eq_true hparts⟩
  unfold bindingsFaulted
  refine forAll_reaches (P := fun t => (entry t b).st = 3)
    (Q := fun t => (entry t b).st = 6 ∧ (brun t b).fabricFault = true) hmem hst (fun j _ hj t ht => ?_)
    (fun t ht => ⟨failed_faultBinding (.inl ht), fabricFault_faultBinding b t⟩) (fun j _ _ t ht => ?_)
  · rw [entry_faultBinding_other (Ne.symm hj)]; exact ht
  · by_cases hj : j = b
    · subst hj
      exact ⟨failed_faultBinding (.inr ht.1), fabricFault_faultBinding j t⟩
    · rw [entry_faultBinding_other (Ne.symm hj), brun_faultBinding_other (Ne.symm hj)]; exact ht

theorem bindingsFaulted_single {s : State} {b : Nat} (hparts : plParts (planOf s b) ≤ 1) :
    entry (bindingsFaulted s) b = entry s b := by
  unfold bindingsFaulted
  refine forAll_invariant (P := fun t => entry t b = entry s b) (fun j hj t ht => ?_) rfl
  have hne : b ≠ j := by
    rintro rfl
    have hmulti := of_decide_eq_true (List.mem_filter.mp hj).2
    omega
  rw [entry_faultBinding_other hne, ht]

/-! ### Switches that wait for their epoch are aborted (R312) -/

theorem control_replyOpt (c : Option CmdRef) (b status reason detail : Nat) (s : State) :
    control (replyOpt c b status reason detail s) = control s := by
  unfold replyOpt replyCmd; split
  · rfl
  · unfold control; simp

/-- What changes the entries of some bindings, completion rings and the output alone: the output grows, the rest stays. -/
structure EntriesOnly (bs : List Nat) (s t : State) : Prop where
  rest  : offBindings t = offBindings s
  runs  : t.ten.runs = s.ten.runs
  out   : s.out ⊆ t.out
  entry : ∀ j, j ∉ bs → entry t j = entry s j

theorem EntriesOnly.trans {bs : List Nat} {s t u : State} (h : EntriesOnly bs s t) (g : EntriesOnly bs t u) : EntriesOnly bs s u :=
  ⟨g.rest.trans h.rest, g.runs.trans h.runs, List.Subset.trans h.out g.out, fun j hj => (g.entry j hj).trans (h.entry j hj)⟩

theorem EntriesOnly.mono {bs cs : List Nat} {s t : State} (h : EntriesOnly bs s t) (hsub : bs ⊆ cs) : EntriesOnly cs s t :=
  ⟨h.rest, h.runs, h.out, fun j hj => h.entry j fun hmem => hj (hsub hmem)⟩

theorem entriesOnly_modEntry (b : Nat) (f : BEntry → BEntry) (s : State) : EntriesOnly [b] s (modEntry b f s) :=
  ⟨rfl, rfl, List.Subset.refl _, fun j hj => (entry_modEntry b f s j).trans (if_neg fun h => hj (List.mem_singleton.mpr h))⟩

theorem entriesOnly_of_control {s t : State} (h : control t = control s) (hout : s.out ⊆ t.out) : EntriesOnly [] s t :=
  ⟨offBindings_of_control h, congrArg Tenancy.runs (ten_of_control h), hout, fun j _ => entry_of_control h j⟩

theorem restoreStates_entries (o : SwitchOp) (s : State) : EntriesOnly (switchIns o ++ o.outgoing) s (restoreStates o s) := by
  unfold restoreStates
  refine forAll_invariant (P := EntriesOnly _ s) (fun b hb t ht => ht.trans ?_) ⟨rfl, rfl, List.Subset.refl _, fun _ _ => rfl⟩
  exact (entriesOnly_modEntry b _ t).mono fun j hj => List.mem_singleton.mp hj ▸ hb

/-- What a refusal leaves on the binding named: its reason. -/
def reasonGiven (b : Option Nat) (r : Refuse) (s : State) : State :=
  match b with
  | some b => modEntry b (fun e => { e with lastReason := BitVec.ofNat 8 r.1, lastDetail := BitVec.ofNat 32 r.2 }) s
  | none => s

theorem refuse_eq (c : Option CmdRef) (b : Option Nat) (r : Refuse) (s : State) : refuse c b r s =
    replyOpt c (b.getD 0xFFF) 5 r.1 r.2
      { reasonGiven b r s with ten := { (reasonGiven b r s).ten with nRefusal := (reasonGiven b r s).ten.nRefusal + 1 } } := by
  cases b <;> rfl

theorem reasonGiven_entries (b : Option Nat) (r : Refuse) (s : State) : EntriesOnly b.toList s (reasonGiven b r s) := by
  cases b with
  | none => exact ⟨rfl, rfl, List.Subset.refl _, fun _ _ => rfl⟩
  | some b => unfold reasonGiven; exact entriesOnly_modEntry b _ s

theorem entriesOnly_counted (n : W32) (s : State) : EntriesOnly [] s { s with ten := { s.ten with nRefusal := n } } :=
  ⟨rfl, rfl, List.Subset.refl _, fun _ _ => rfl⟩

theorem refuse_entries (c : Option CmdRef) (b : Option Nat) (r : Refuse) (s : State) : EntriesOnly b.toList s (refuse c b r s) := by
  rw [refuse_eq]
  have hreason := reasonGiven_entries b r s
  generalize reasonGiven b r s = u at *
  have hreply := entriesOnly_of_control (control_replyOpt c (b.getD 0xFFF) 5 r.1 r.2 _)
    (out_subset_replyOpt c (b.getD 0xFFF) 5 r.1 r.2 { u with ten := { u.ten with nRefusal := u.ten.nRefusal + 1 } })
  exact hreason.trans (((entriesOnly_counted _ u).trans hreply).mono (List.nil_subset _))

/-- The switch gone from those in hand. -/
def switchDropped (o : SwitchOp) (s : State) : State := { s with ten := { s.ten with switches := s.ten.switches.filter (· != o) } }

/-- An aborted switch is gone, its bindings are back in the states before it, and nothing of other bindings changes (R312). -/
theorem abortSwitch_entries (o : SwitchOp) (r : Refuse) (s : State) :
    EntriesOnly (switchIns o ++ o.outgoing) (switchDropped o s) (abortSwitch o r s) := by
  have hincoming : o.incoming.toList ⊆ switchIns o ++ o.outgoing := fun j hj => List.mem_append_left _ (List.mem_append_left _ hj)
  exact (restoreStates_entries o (switchDropped o s)).trans ((refuse_entries o.cmd o.incoming r _).mono hincoming)

/-- The switches that wait for their epoch aborted (R312). -/
def waitingAborted (s : State) : State :=
  forAll (s.ten.switches.filter (·.epoch.isNone)) (fun o s => abortSwitch o (0x40, 0x1FF + 6 * 2 ^ 12) s) s

theorem switches_abortSwitch (o : SwitchOp) (r : Refuse) (s : State) :
    (abortSwitch o r s).ten.switches = s.ten.switches.filter (· != o) := by
  obtain ⟨-, -, -, hswitches⟩ := eq_of_offBindings (abortSwitch_entries o r s).rest
  exact hswitches

/-- Switches dropped one by one. -/
theorem switches_forAll_abort (r : Refuse) : ∀ (l : List SwitchOp) (s : State),
    (forAll l (fun o s => abortSwitch o r s) s).ten.switches = s.ten.switches.filter fun x => !l.contains x
  | [], s => by simp [forAll_nil]
  | o :: l, s => by
    show (forAll l (fun o s => abortSwitch o r s) (abortSwitch o r s)).ten.switches = _
    rw [switches_forAll_abort r l, switches_abortSwitch, List.filter_filter]
    refine List.filter_congr fun x _ => ?_
    rw [List.contains_cons, Bool.not_or, Bool.and_comm]; rfl

/-- No switch is left that waits for its epoch. -/
theorem switches_waitingAborted (s : State) : (waitingAborted s).ten.switches = s.ten.switches.filter (·.epoch.isSome) := by
  unfold waitingAborted
  rw [switches_forAll_abort]
  refine List.filter_congr fun x hx => ?_
  cases hepoch : x.epoch <;> simp [hx, hepoch]

/-- What the aborts leave: start-up, the error logger, the fabric and firmware's data of the bindings. -/
theorem waitingAborted_rest (s : State) : (waitingAborted s).su = s.su ∧ (waitingAborted s).err = s.err
    ∧ (waitingAborted s).fab = s.fab ∧ (waitingAborted s).ten.runs = s.ten.runs := by
  unfold waitingAborted
  refine forAll_invariant (P := fun t => t.su = s.su ∧ t.err = s.err ∧ t.fab = s.fab ∧ t.ten.runs = s.ten.runs)
    (fun o _ t ht => ?_) ⟨rfl, rfl, rfl, rfl⟩
  obtain ⟨hsu, herr, hfab, hruns⟩ := ht
  have habort := abortSwitch_entries o (0x40, 0x1FF + 6 * 2 ^ 12) t
  obtain ⟨gsu, gerr, gfab, -⟩ := eq_of_offBindings habort.rest
  exact ⟨gsu.trans hsu, gerr.trans herr, gfab.trans hfab, habort.runs.trans hruns⟩

theorem out_subset_waitingAborted (s : State) : s.out ⊆ (waitingAborted s).out :=
  out_subset_forAll (fun o t => (abortSwitch_entries o _ t).out) _ _

theorem entry_waitingAborted {s : State} {b : Nat} (hfree : ∀ o ∈ s.ten.switches, o.epoch = none → b ∉ switchIns o ++ o.outgoing) :
    entry (waitingAborted s) b = entry s b := by
  unfold waitingAborted
  refine forAll_invariant (P := fun t => entry t b = entry s b) (fun o ho t ht => ?_) rfl
  obtain ⟨hmem, hnone⟩ := List.mem_filter.mp ho
  exact ((abortSwitch_entries o _ t).entry b (hfree o hmem (Option.isNone_iff_eq_none.mp hnone))).trans ht

/-! ### The part enters FAULT (Table 10.9) and tells both neighbours (R307) -/

/-- The state without the ports, the notices on record and the output. -/
def offNotices (s : State) : State := { s with out := [], fab := { s.fab with ports := [], noticed := [] } }

theorem offNotices_of_offPorts {s t : State} (h : offPorts t = offPorts s) : offNotices t = offNotices s :=
  (congrArg offNotices h :)

theorem offPorts_passNotice (cause : BitVec 4) (pos : BitVec 9) (down : Bool) (s : State) :
    offPorts (passNotice cause pos down s) = offPorts s := by
  unfold passNotice sendWord; rw [offPorts_sendFlits]; rfl

theorem portsCount_passNotice (cause : BitVec 4) (pos : BitVec 9) (down : Bool) (s : State) :
    PortsCount s (passNotice cause pos down s) := by
  unfold passNotice sendWord
  exact PortsCount.trans (t := emit (.faultNotice cause pos) s) (portsCount_of_ports rfl) (portsCount_of_sends (sends_sendFlits ..))

theorem out_subset_passNotice (cause : BitVec 4) (pos : BitVec 9) (down : Bool) (s : State) :
    s.out ⊆ (passNotice cause pos down s).out := by
  unfold passNotice sendWord
  exact List.Subset.trans (out_subset_emit ..) (out_subset_of_sends (sends_sendFlits ..))

theorem sendNotice_eq (cause : BitVec 4) (pos : BitVec 9) (s : State) : sendNotice cause pos s = passNotice cause pos false
    (passNotice cause pos true { s with fab := { s.fab with noticed := (cause, pos) :: s.fab.noticed } }) := rfl

theorem offNotices_sendNotice (cause : BitVec 4) (pos : BitVec 9) (s : State) : offNotices (sendNotice cause pos s) = offNotices s := by
  unfold sendNotice
  rw [offNotices_of_offPorts (offPorts_passNotice ..), offNotices_of_offPorts (offPorts_passNotice ..)]; rfl

theorem portsCount_sendNotice (cause : BitVec 4) (pos : BitVec 9) (s : State) : PortsCount s (sendNotice cause pos s) := by
  have hdown := portsCount_passNotice cause pos true { s with fab := { s.fab with noticed := (cause, pos) :: s.fab.noticed } }
  rw [sendNotice_eq]
  generalize passNotice cause pos true { s with fab := { s.fab with noticed := (cause, pos) :: s.fab.noticed } } = u at *
  exact PortsCount.trans hdown (portsCount_passNotice cause pos false u)

theorem out_subset_sendNotice (cause : BitVec 4) (pos : BitVec 9) (s : State) : s.out ⊆ (sendNotice cause pos s).out := by
  have hdown := out_subset_passNotice cause pos true { s with fab := { s.fab with noticed := (cause, pos) :: s.fab.noticed } }
  rw [sendNotice_eq]
  generalize passNotice cause pos true { s with fab := { s.fab with noticed := (cause, pos) :: s.fab.noticed } } = u at *
  exact List.Subset.trans hdown (out_subset_passNotice cause pos false u)

theorem eq_of_offNotices {s t : State} (h : offNotices t = offNotices s) :
    t = { s with out := t.out, fab := { s.fab with ports := t.fab.ports, noticed := t.fab.noticed } } :=
  (congrArg (fun x : State => { x with out := t.out, fab := { x.fab with ports := t.fab.ports, noticed := t.fab.noticed } }) h :)

/-- A part in FAULT, with no operation in hand and no transaction outstanding (R306). -/
def inFault (cause : Nat) (s : State) : State :=
  { s with fab := { s.fab with
      st := 3, cause := if s.fab.cause = 0 then BitVec.ofNat 4 cause else s.fab.cause, join := false, raised := true, locked := true,
      misses := 0, ops := [], txns := [] } }

theorem inFault_eq (cause : Nat) (s : State) :
    { enterFault cause s with fab := { (enterFault cause s).fab with ops := [], txns := [] } } = inFault cause s := rfl

theorem offNotices_inFault {s t : State} (h : offNotices t = offNotices s) (cause : Nat) :
    offNotices (inFault cause t) = offNotices (inFault cause s) := (congrArg (inFault cause) h :)

theorem ports_inFault (cause : Nat) (s : State) : (inFault cause s).fab.ports = s.fab.ports := rfl
theorem out_inFault (cause : Nat) (s : State) : (inFault cause s).out = s.out := rfl

/-- The part in FAULT, its notices sent. -/
def faultEntered (cause : Nat) (s : State) : State := inFault cause (sendNotice (BitVec.ofNat 4 cause) s.fab.myPos s)

theorem offNotices_faultEntered (cause : Nat) (s : State) : offNotices (faultEntered cause s) = offNotices (inFault cause s) :=
  offNotices_inFault (offNotices_sendNotice ..) cause

theorem portsCount_faultEntered (cause : Nat) (s : State) : PortsCount s (faultEntered cause s) :=
  (portsCount_sendNotice (BitVec.ofNat 4 cause) s.fab.myPos s).trans (portsCount_of_ports (ports_inFault cause _))

theorem out_subset_faultEntered (cause : Nat) (s : State) : s.out ⊆ (faultEntered cause s).out := by
  unfold faultEntered
  rw [out_inFault]; exact out_subset_sendNotice (BitVec.ofNat 4 cause) s.fab.myPos s

/-! ### A domain fault -/

theorem domainFault_eq {s : State} (h : s.fab.st = 1 ∨ s.fab.st = 2) (cause src : Nat) : domainFault cause src s =
    raise (err 0x71 3 cause src 0) (bindingsFaulted (waitingAborted (faultEntered cause s))) := by
  unfold domainFault
  rw [if_neg fun ⟨h2, h1⟩ => h.elim h1 h2]
  exact congrArg (fun u => raise (err 0x71 3 cause src 0) (bindingsFaulted (waitingAborted u)))
    (inFault_eq cause (sendNotice (BitVec.ofNat 4 cause) s.fab.myPos s))

theorem domainFault_of_outside {s : State} (h1 : s.fab.st ≠ 1) (h2 : s.fab.st ≠ 2) (cause src : Nat) : domainFault cause src s = s := by
  unfold domainFault; exact if_pos ⟨h2, h1⟩

theorem raise_err_raiseOnly {r : ErrRec} (s : State) : (raise r s).err = (raiseOnly r s).err := by
  unfold raise; dsimp only; split
  · simp
  · rfl

/-- A record of any severity is raised once; its event log entry is no part of the error state. -/
theorem raised_raise_any (r : ErrRec) (s : State) :
    Raised r.typ.toNat r.severity.toNat r.d0.toNat r.d1.toNat r.d2.toNat s (raise r s) :=
  raised_congr (raised_raiseOnly r s) rfl rfl (raise_err_raiseOnly s)

/-- The bindings and switches that a domain fault ends are no part of the fabric. -/
theorem domainFault_fab {s : State} (h : s.fab.st = 1 ∨ s.fab.st = 2) (cause src : Nat) :
    (domainFault cause src s).fab = (faultEntered cause s).fab := by
  rw [domainFault_eq h, raise_fab]
  generalize faultEntered cause s = u
  obtain ⟨-, -, hfaulted, -⟩ := eq_of_offBindings (offBindings_bindingsFaulted (waitingAborted u))
  obtain ⟨-, -, haborted, -⟩ := waitingAborted_rest u
  exact hfaulted.trans haborted

theorem portsCount_domainFault (cause src : Nat) (s : State) : PortsCount s (domainFault cause src s) := by
  by_cases h : s.fab.st = 1 ∨ s.fab.st = 2
  · exact (portsCount_faultEntered cause s).trans (portsCount_of_ports (congrArg Fabric.ports (domainFault_fab h cause src)))
  · obtain ⟨h1, h2⟩ := not_or.mp h
    rw [domainFault_of_outside h1 h2]; exact .refl s

theorem out_subset_domainFault (cause src : Nat) (s : State) : s.out ⊆ (domainFault cause src s).out := by
  by_cases h : s.fab.st = 1 ∨ s.fab.st = 2
  · rw [domainFault_eq h, raise_out]
    exact List.Subset.trans (List.Subset.trans (out_subset_faultEntered cause s) (out_subset_waitingAborted _))
      (out_subset_bindingsFaulted _)
  · obtain ⟨h1, h2⟩ := not_or.mp h
    rw [domainFault_of_outside h1 h2]; exact List.Subset.refl _

/-- What the fabric of a part in FAULT holds: the first cause, and the counts and counters from before. -/
theorem fab_of_inFault {s t : State} {cause : Nat} (h : offNotices t = offNotices (inFault cause s)) :
    t.fab.st = 3 ∧ t.fab.cause = (if s.fab.cause = 0 then BitVec.ofNat 4 cause else s.fab.cause) ∧ t.fab.beat = s.fab.beat
      ∧ t.fab.sched = s.fab.sched ∧ t.fab.locked = true ∧ t.fab.txns = [] ∧ t.fab.timeouts = s.fab.timeouts
      ∧ t.fab.errCompl = s.fab.errCompl := by
  have hfab := congrArg State.fab (eq_of_offNotices h)
  rw [hfab]; exact ⟨rfl, rfl, rfl, rfl, rfl, rfl, rfl, rfl⟩

theorem rest_of_inFault {s t : State} {cause : Nat} (h : offNotices t = offNotices (inFault cause s)) :
    t.su = s.su ∧ t.err = s.err ∧ t.ten = s.ten := by
  have heq := eq_of_offNotices h
  exact ⟨(congrArg State.su heq).trans rfl, (congrArg State.err heq).trans rfl, (congrArg State.ten heq).trans rfl⟩

/-- The counters of timeouts and error completions are no state of the domain. -/
theorem domainFault_counters {s : State} (h : s.fab.st = 1 ∨ s.fab.st = 2) (cause src : Nat) :
    (domainFault cause src s).fab.timeouts = s.fab.timeouts ∧ (domainFault cause src s).fab.errCompl = s.fab.errCompl := by
  obtain ⟨-, -, -, -, -, -, hcounters⟩ := fab_of_inFault (offNotices_faultEntered cause s)
  rw [domainFault_fab h]; exact hcounters

/-- The states of the bindings after the switches and the work of bindings with PARTS above 1 have ended (R306, R312). -/
theorem bindings_of_domainFault {s u : State} (hten : u.ten = s.ten) {b : Nat} (hst : (entry s b).st = 3)
    (hfree : ∀ o ∈ s.ten.switches, o.epoch = none → b ∉ switchIns o ++ o.outgoing) :
    (1 < plParts (planOf s b) → (entry (bindingsFaulted (waitingAborted u)) b).st = 6
      ∧ (brun (bindingsFaulted (waitingAborted u)) b).fabricFault = true)
    ∧ (plParts (planOf s b) ≤ 1 → (entry (bindingsFaulted (waitingAborted u)) b).st = 3) := by
  obtain ⟨-, -, -, hruns⟩ := waitingAborted_rest u
  have hplan : planOf (waitingAborted u) b = planOf s b := by unfold planOf brun; rw [hruns, hten]
  have hsame : entry (waitingAborted u) b = entry s b := by
    rw [entry_waitingAborted (by rw [hten]; exact hfree)]; unfold entry; rw [hten]
  refine ⟨fun hparts => bindingsFaulted_multi (by rw [hsame, hst]) (by rw [hplan]; exact hparts), fun hparts => ?_⟩
  rw [bindingsFaulted_single (by rw [hplan]; exact hparts), hsame, hst]

theorem raised_domainErr {cause src : Nat} (hcause : cause < 2 ^ 32) (hsrc : src < 2 ^ 32) (s : State) :
    Raised 0x71 3 cause src 0 s (raise (err 0x71 3 cause src 0) s) := by
  have hraised := raised_raise_any (err 0x71 3 cause src 0) s
  have hd0 : (err 0x71 3 cause src 0).d0.toNat = cause := Nat.mod_eq_of_lt hcause
  have hd1 : (err 0x71 3 cause src 0).d1.toNat = src := Nat.mod_eq_of_lt hsrc
  rwa [hd0, hd1] at hraised

/-- A domain fault raised is that of R306. -/
theorem domainFaulted {s : State} (h : s.fab.st = 1 ∨ s.fab.st = 2) {cause src : Nat} (hcause : cause < 2 ^ 32) (hsrc : src < 2 ^ 32) :
    DomainFaulted cause src s (domainFault cause src s) := by
  obtain ⟨hst, hfirst, hbeat, hsched, hlocked, htxns, -, -⟩ := fab_of_inFault (offNotices_faultEntered cause s)
  obtain ⟨hsu, herr, hten⟩ := rest_of_inFault (offNotices_faultEntered cause s)
  unfold DomainFaulted
  rw [domainFault_fab h]
  refine ⟨hst, hfirst, hbeat, hsched, hlocked, htxns, ?_⟩
  rw [domainFault_eq h]
  generalize faultEntered cause s = u at *
  obtain ⟨hsu', herr', -, -⟩ := waitingAborted_rest u
  obtain ⟨hsu'', herr'', -, hswitches⟩ := eq_of_offBindings (offBindings_bindingsFaulted (waitingAborted u))
  refine ⟨raised_congr (raised_domainErr hcause hsrc _) ?_ ?_ rfl, ?_, fun b hst hfree => ?_⟩
  · rw [herr'', herr', herr]
  · unfold below7; rw [hsu'', hsu', hsu]
  · rw [raise_ten, hswitches, switches_waitingAborted, hten]
  · rw [entry_raise, brun_raise]; exact bindings_of_domainFault hten hst hfree

/-- What a domain fault is measured against: the error state, tenancy, and the cause and counts of the domain. -/
def faultView (s : State) : StartUp × ErrState × Tenancy × BitVec 4 × W64 × W64 :=
  (s.su, s.err, s.ten, s.fab.cause, s.fab.beat, s.fab.sched)

theorem domainFaulted_congr {cause src : Nat} {s s' t : State} (h : faultView s' = faultView s) (g : DomainFaulted cause src s' t) :
    DomainFaulted cause src s t := by
  simp only [faultView, Prod.mk.injEq] at h
  obtain ⟨hsu, herr, hten, hcause, hbeat, hsched⟩ := h
  unfold DomainFaulted Raised below7 entry planOf brun at *
  rw [hsu, herr, hten, hcause, hbeat, hsched] at g
  exact g

end Sys2Proof.Machine
end

section
/-! SUPPORT. Retry episodes, error completions, acknowledgements and transaction timers (R180, R323 to R326), and the statement. -/

open Sys2Proof Sys2Proof.Machine Sys2Proof.Spec

namespace Sys2Proof.Machine

/-! ### A lost flit (R324) -/

/-- The episode in progress takes the losses that begin no other. -/
theorem inEpisode_eq_false_iff (used : Nat) (upTo q : W32) : inEpisode used upTo q = false ↔ startsEpisode used upTo q := by
  unfold inEpisode seqLe startsEpisode
  rw [Bool.and_eq_false_iff]
  simp

/-- FLIT_LOST at the receiving port, in its bond. -/
theorem exec_flitLost_receiving {k : Fin 8} {s : State} (hst : (port s k).st = 2) (q sent : W32) :
    exec (.flitLost ⟨k, none, q, sent⟩) s = .next (
      if !inEpisode (port s k).used (port s k).upTo q then
        emit (.retry k) (setPort s k { port s k with used := 1, upTo := sent, episodes := (port s k).episodes + 1 })
      else if (port s k).used < 8 then emit (.retry k) (setPort s k { port s k with used := (port s k).used + 1 })
      else s) := by
  show Host.Outcome.next _ = _
  rw [if_neg fun h => h hst]

/-- FLIT_LOST at the sending port, in its bond. -/
theorem exec_flitLost_sending {k : Fin 8} {s : State} (hst : (port s k).st = 2) (q sent : W32) (held : List (BitVec 9 × BitVec 24)) :
    exec (.flitLost ⟨k, some held, q, sent⟩) s = .next (
      if !inEpisode (port s k).sentAgain (port s k).sentUpTo q then
        sendNotices k held (setPort s k { port s k with
          retransmits := (port s k).retransmits + 1, sentAgain := 1, sentUpTo := (port s k).seq - 1,
          flits := (port s k).flits + BitVec.ofNat 64 (goBack (port s k) q) })
      else if (port s k).sentAgain < 8 then setPort s k { port s k with
          retransmits := (port s k).retransmits + 1, sentAgain := (port s k).sentAgain + 1,
          flits := (port s k).flits + BitVec.ofNat 64 (goBack (port s k) q) }
      else s) := by
  show Host.Outcome.next _ = _
  rw [if_neg fun h => h hst]

/-- A retry asked for with the port's episode moved on: nothing else changes. -/
theorem retryAsked (k : Fin 8) (p : Port) (s : State) :
    (emit (.retry k) (setPort s k p)).out = s.out ++ [.retry k]
      ∧ emit (.retry k) (setPort s k p) = { s with
          out := (emit (.retry k) (setPort s k p)).out
          fab := { s.fab with ports := (emit (.retry k) (setPort s k p)).fab.ports } }
      ∧ (∀ j, j ≠ k.val → port (emit (.retry k) (setPort s k p)) j = port s j)
      ∧ port (emit (.retry k) (setPort s k p)) k = p := by
  refine ⟨rfl, rfl, fun j hj => ?_, ?_⟩
  · rw [port_emit, port_setPort, if_neg hj]
  · rw [port_emit, port_setPort_same]

theorem sendNotices_sentBack (k : Fin 8) (held : List (BitVec 9 × BitVec 24)) (s : State) : SentBack k s (sendNotices k held s) := by
  unfold sendNotices
  refine sentBack_forAll (fun src s => ?_) _ s
  exact (sentBack_message k _ _ _ _ _ s).1

/-- Each source is told of its transactions. -/
theorem sendNotices_names {k : Fin 8} {held : List (BitVec 9 × BitVec 24)} {x : BitVec 9 × BitVec 24} (hx : x ∈ held) (s : State) :
    ∃ ts, .retryNotice x.1 ts ∈ (sendNotices k held s).out ∧ x.2 ∈ ts := by
  refine ⟨(held.filter fun y => y.1 == x.1).map (·.2), ?_, ?_⟩
  · unfold sendNotices
    refine mem_out_forAll (fun src s => ?_) (fun s => ?_) (List.mem_dedup.mpr (List.mem_map_of_mem hx)) s
    · exact (sentBack_message k _ _ _ _ _ s).1.out
    · exact (sentBack_message k _ _ _ _ _ s).2
  · exact List.mem_map.mpr ⟨x, List.mem_filter.mpr ⟨hx, beq_self_eq_true _⟩, rfl⟩

theorem flitLost_receiving (k : Fin 8) (q sent : W32) (s : State) (hst : (port s k).st = 2) :
    (startsEpisode (port s k).used (port s k).upTo q →
      ∃ t, exec (.flitLost ⟨k, none, q, sent⟩) s = .next t ∧ t.out = s.out ++ [.retry k]
        ∧ t = { s with out := t.out, fab := { s.fab with ports := t.fab.ports } } ∧ (∀ j, j ≠ k.val → port t j = port s j)
        ∧ port t k = { port s k with used := 1, upTo := sent, episodes := (port s k).episodes + 1 })
    ∧ (¬ startsEpisode (port s k).used (port s k).upTo q → (port s k).used < 8 →
      ∃ t, exec (.flitLost ⟨k, none, q, sent⟩) s = .next t ∧ t.out = s.out ++ [.retry k]
        ∧ t = { s with out := t.out, fab := { s.fab with ports := t.fab.ports } } ∧ (∀ j, j ≠ k.val → port t j = port s j)
        ∧ port t k = { port s k with used := (port s k).used + 1 })
    ∧ (¬ startsEpisode (port s k).used (port s k).upTo q → 8 ≤ (port s k).used →
      exec (.flitLost ⟨k, none, q, sent⟩) s = .next s) := by
  rw [← inEpisode_eq_false_iff, exec_flitLost_receiving hst]
  refine ⟨fun hstarts => ?_, fun hin hfew => ?_, fun hin hspent => ?_⟩
  · rw [hstarts, if_pos Bool.not_false]
    exact ⟨_, rfl, retryAsked ..⟩
  · rw [Bool.eq_true_of_not_eq_false hin, if_neg (by decide), if_pos hfew]
    exact ⟨_, rfl, retryAsked ..⟩
  · rw [Bool.eq_true_of_not_eq_false hin, if_neg (by decide), if_neg (by omega)]

theorem flitLost_sending (k : Fin 8) (held : List (BitVec 9 × BitVec 24)) (q sent : W32) (s : State) (hst : (port s k).st = 2) :
    (startsEpisode (port s k).sentAgain (port s k).sentUpTo q →
      ∃ t, exec (.flitLost ⟨k, some held, q, sent⟩) s = .next t ∧ t.fab.st = s.fab.st ∧ (∀ j, (port t j).st = (port s j).st)
        ∧ port t k = { port s k with retransmits := (port s k).retransmits + 1, sentAgain := 1, sentUpTo := (port s k).seq - 1,
                                     flits := (port s k).flits + BitVec.ofNat 64 (goBack (port s k) q) }
        ∧ ∀ x ∈ held, ∃ ts, .retryNotice x.1 ts ∈ t.out ∧ x.2 ∈ ts)
    ∧ (¬ startsEpisode (port s k).sentAgain (port s k).sentUpTo q → (port s k).sentAgain < 8 →
      ∃ t, exec (.flitLost ⟨k, some held, q, sent⟩) s = .next t
        ∧ t = { s with fab := { s.fab with ports := t.fab.ports } } ∧ (∀ j, j ≠ k.val → port t j = port s j)
        ∧ port t k = { port s k with retransmits := (port s k).retransmits + 1, sentAgain := (port s k).sentAgain + 1,
                                     flits := (port s k).flits + BitVec.ofNat 64 (goBack (port s k) q) }) := by
  rw [← inEpisode_eq_false_iff, exec_flitLost_sending hst]
  refine ⟨fun hstarts => ?_, fun hin hfew => ?_⟩
  · rw [hstarts, if_pos Bool.not_false]
    have hback := sendNotices_sentBack k held (setPort s k { port s k with
      retransmits := (port s k).retransmits + 1, sentAgain := 1, sentUpTo := (port s k).seq - 1,
      flits := (port s k).flits + BitVec.ofNat 64 (goBack (port s k) q) })
    refine ⟨_, rfl, fabSt_of_offPorts hback.rest, fun j => ?_, hback.own.trans (port_setPort_same ..), fun x hx => sendNotices_names hx _⟩
    rw [hback.ports.st, port_setPort]; split
    · rename_i hj; rw [hj]
    · rfl
  · rw [Bool.eq_true_of_not_eq_false hin, if_neg (by decide), if_pos hfew]
    refine ⟨_, rfl, rfl, fun j hj => ?_, port_setPort_same ..⟩
    rw [port_setPort, if_neg hj]

/-! ### An exhausted episode (R325) -/

theorem bondPorts_eq_zero_iff (s : State) (down : Bool) :
    bondPorts s down = 0 ↔ ∀ i < 4, (port s (if down then i else i + 4)).st ≠ 2 := by
  unfold bondPorts
  rw [List.length_eq_zero_iff, List.filter_eq_nil_iff]
  simp

/-- The bond of port `k` by its port numbers (R292). -/
theorem bondPorts_eq_zero_iff_bond (s : State) (k : Fin 8) :
    bondPorts s (decide (k.val < 4)) = 0 ↔ ∀ j, j / 4 = k.val / 4 → (port s j).st ≠ 2 := by
  rw [bondPorts_eq_zero_iff]
  by_cases hk : k.val < 4
  · rw [decide_eq_true hk]
    exact ⟨fun h j hj => h j (by omega), fun h i hi => h i (by omega)⟩
  · rw [decide_eq_false hk]
    refine ⟨fun h j hj => ?_, fun h i hi => h (i + 4) (by omega)⟩
    have hport := h (j - 4) (by omega)
    rwa [if_neg (by decide), Nat.sub_add_cancel (by omega)] at hport

/-- The port that leaves its bond with its episode exhausted. -/
def exhaustedPort (p : Port) (q : W32) : Port :=
  { p with st := 3, used := 0, sentAgain := 0, exhausted := p.exhausted + 1, retransmits := p.retransmits + BitVec.ofNat 32 (8 - p.sentAgain),
           flits := p.flits + BitVec.ofNat 64 ((8 - p.sentAgain) * goBack p q) }

theorem st_exhaustedPort (p : Port) (q : W32) : (exhaustedPort p q).st = 3 := rfl

/-- Error completions sent to the sources of the transactions that a port holds. -/
def sendErrors (k : Fin 8) (held : List (BitVec 9 × BitVec 24)) (s : State) : State :=
  forAll held (fun y s => sendBack k 4 y.1 y.2 (leBytes 3 y.2.toNat) (emit (.errCompl y.1 y.2) s)) s

theorem sendErrors_sentBack (k : Fin 8) (held : List (BitVec 9 × BitVec 24)) (s : State) : SentBack k s (sendErrors k held s) := by
  unfold sendErrors
  refine sentBack_forAll (fun y s => ?_) held s
  exact (sentBack_message k _ _ _ _ _ s).1

theorem sendErrors_names {k : Fin 8} {held : List (BitVec 9 × BitVec 24)} {x : BitVec 9 × BitVec 24} (hx : x ∈ held) (s : State) :
    .errCompl x.1 x.2 ∈ (sendErrors k held s).out := by
  unfold sendErrors
  refine mem_out_forAll (fun y s => ?_) (fun s => ?_) hx s
  · exact (sentBack_message k _ _ _ _ _ s).1.out
  · exact (sentBack_message k _ _ _ _ _ s).2

/-- A port out of its bond, with the sources of what it holds told. -/
def portLeft (k : Fin 8) (q : W32) (held : List (BitVec 9 × BitVec 24)) (s : State) : State :=
  sendErrors k held (setPort s k (exhaustedPort (port s k) q))

theorem exec_episodeExhausted {k : Fin 8} {s : State} (hst : (port s k).st = 2) (q : W32) (held : List (BitVec 9 × BitVec 24)) :
    exec (.episodeExhausted ⟨k, q, held⟩) s = .next (if bondPorts (portLeft k q held s) (decide (k.val < 4)) = 0
      then domainFault 9 0x1FF (portLeft k q held s) else portLeft k q held s) := by
  show Host.Outcome.next _ = _
  rw [if_neg fun h => h hst]; rfl

theorem portLeft_spec (k : Fin 8) (q : W32) (held : List (BitVec 9 × BitVec 24)) (s : State) :
    offPorts (portLeft k q held s) = offPorts s ∧ port (portLeft k q held s) k = exhaustedPort (port s k) q
      ∧ (∀ j, j ≠ k.val → (port (portLeft k q held s) j).st = (port s j).st)
      ∧ ∀ x ∈ held, .errCompl x.1 x.2 ∈ (portLeft k q held s).out := by
  have hback := sendErrors_sentBack k held (setPort s k (exhaustedPort (port s k) q))
  refine ⟨hback.rest, hback.own.trans (port_setPort_same ..), fun j hj => ?_, fun x hx => sendErrors_names hx _⟩
  unfold portLeft
  rw [hback.ports.st, port_setPort, if_neg hj]

/-- The bond is down where no other port of it works. -/
theorem bondPorts_portLeft (k : Fin 8) (q : W32) (held : List (BitVec 9 × BitVec 24)) (s : State) :
    bondPorts (portLeft k q held s) (decide (k.val < 4)) = 0 ↔ ∀ j, j ≠ k.val → j / 4 = k.val / 4 → (port s j).st ≠ 2 := by
  obtain ⟨-, hown, hothers, -⟩ := portLeft_spec k q held s
  rw [bondPorts_eq_zero_iff_bond]
  refine ⟨fun h j hj hbond => by rw [← hothers j hj]; exact h j hbond, fun h j hbond => ?_⟩
  by_cases hj : j = k.val
  · rw [hj, hown, st_exhaustedPort]; decide
  · rw [hothers j hj]; exact h j hj hbond

theorem episodeExhausted_spec (k : Fin 8) (held : List (BitVec 9 × BitVec 24)) (q : W32) (s : State) (hst : (port s k).st = 2) :
    ∃ t, exec (.episodeExhausted ⟨k, q, held⟩) s = .next t ∧ (port t k).st = 3
      ∧ (port t k).retransmits = (port s k).retransmits + BitVec.ofNat 32 (8 - (port s k).sentAgain)
      ∧ (port t k).exhausted = (port s k).exhausted + 1 ∧ (∀ x ∈ held, .errCompl x.1 x.2 ∈ t.out)
      ∧ ((∃ j, j ≠ k.val ∧ j / 4 = k.val / 4 ∧ (port s j).st = 2) → t.fab.st = s.fab.st ∧ t.ten = s.ten)
      ∧ ((∀ j, j ≠ k.val → j / 4 = k.val / 4 → (port s j).st ≠ 2) → s.fab.st = 2 → DomainFaulted 9 0x1FF s t) := by
  obtain ⟨hoff, hown, -, herrs⟩ := portLeft_spec k q held s
  have hdown := bondPorts_portLeft k q held s
  rw [exec_episodeExhausted hst]
  generalize portLeft k q held s = u at *
  by_cases hzero : bondPorts u (decide (k.val < 4)) = 0
  · have hbond := hdown.mp hzero
    have hcount := portsCount_domainFault 9 0x1FF u k
    rw [hown] at hcount
    refine ⟨_, by rw [if_pos hzero], by rw [hcount]; rfl, by rw [hcount]; rfl, by rw [hcount]; rfl,
      fun x hx => out_subset_domainFault 9 0x1FF u (herrs x hx), fun ⟨j, hj, hsame, hworks⟩ => absurd hworks (hbond j hj hsame),
      fun _ hmember => ?_⟩
    exact domainFaulted_congr (congrArg faultView hoff :)
      (domainFaulted (.inr ((fabSt_of_offPorts hoff).trans hmember)) (by decide) (by decide))
  · exact ⟨_, by rw [if_neg hzero], by rw [hown]; rfl, by rw [hown]; rfl, by rw [hown]; rfl, herrs,
      fun _ => ⟨fabSt_of_offPorts hoff, ten_of_offPorts hoff⟩, fun hnone => absurd (hdown.mpr hnone) hzero⟩

/-! ### Transactions received (R180, R323) -/

theorem eq_of_offFabric {s t : State} (h : offFabric t = offFabric s) : t = { s with out := t.out, fab := t.fab } :=
  (congrArg (fun x : State => { x with out := t.out, fab := t.fab }) h :)

/-- What the acknowledgement of a transaction sends, and that it changes nothing but the ports. -/
theorem acked (src : BitVec 9) (n : BitVec 24) (down : Bool) (pos : Nat) (s : State) :
    let t := sendFlits down 2 src.toNat pos n.toNat (leBytes 3 n.toNat) (emit (.ack src n) s)
    Sends [.ack src n] s t ∧ t = { s with out := t.out, fab := { s.fab with ports := t.fab.ports } } :=
  ⟨sends_emit _ (sends_sendFlits ..), (eq_of_offPorts (offPorts_sendFlits ..)).trans rfl⟩

theorem transactionReceived_spec (src : BitVec 9) (n : BitVec 24) (down : Bool) (s : State) :
    (∀ tl : Option TailMsg, (∀ d, tl = some d → boundOf s d.core = none) →
      ∃ t, exec (.transactionReceived ⟨src, down⟩ ⟨n, tl⟩) s = .next t ∧ Sends [.ack src n] s t
        ∧ t = { s with out := t.out, fab := { s.fab with ports := t.fab.ports } })
    ∧ ∀ (d : TailMsg) (b : Nat), boundOf s d.core = some b →
        ∃ t, exec (.transactionReceived ⟨src, down⟩ ⟨n, some d⟩) s = .next t
          ∧ Sends [.ack src n] (writeOp d.core b d.off.toNat (wordsBytes d.vals) s) t
          ∧ t = { writeOp d.core b d.off.toNat (wordsBytes d.vals) s with out := t.out, fab := t.fab } := by
  refine ⟨fun tl hunbound => ⟨_, ?_, acked src n (!down) s.fab.myPos.toNat s⟩, fun d b hbound => ?_⟩
  · show execTransactionReceived _ _ s = _
    unfold execTransactionReceived
    cases tl with
    | none => rfl
    | some d => dsimp only; rw [hunbound d rfl]
  · obtain ⟨hsends, heq⟩ := acked src n (!down) s.fab.myPos.toNat (writeOp d.core b d.off.toNat (wordsBytes d.vals) s)
    refine ⟨_, by show execTransactionReceived _ _ s = _; unfold execTransactionReceived; dsimp only; rw [hbound], hsends, ?_⟩
    generalize sendFlits (!down) 2 src.toNat s.fab.myPos.toNat n.toNat (leBytes 3 n.toNat)
      (emit (.ack src n) (writeOp d.core b d.off.toNat (wordsBytes d.vals) s)) = t at *
    exact eq_of_offFabric ((congrArg offFabric heq).trans rfl)

/-! ### Error completions (R325) -/

/-- The tag found is in use only where every tag tried is. -/
theorem freeTag_used (s : State) : ∀ (n : Nat) (t : BitVec 24), freeTag s n t ∈ s.fab.txns.map (·.tag) →
    ∀ i ≤ n, t + BitVec.ofNat 24 i ∈ s.fab.txns.map (·.tag)
  | 0, t, h, i, hi => by
    obtain rfl : i = 0 := Nat.le_zero.mp hi
    rwa [BitVec.add_zero]
  | n + 1, t, h, i, hi => by
    unfold freeTag at h
    split at h
    · rename_i hany
      obtain ⟨x, hx, htag⟩ := List.any_eq_true.mp hany
      cases i with
      | zero =>
        rw [BitVec.add_zero]
        exact List.mem_map.mpr ⟨x, hx, eq_of_beq htag⟩
      | succ i =>
        have hnext := freeTag_used s n (t + 1) h i (Nat.le_of_succ_le_succ hi)
        rwa [BitVec.add_assoc, BitVec.add_comm 1, show BitVec.ofNat 24 i + 1 = BitVec.ofNat 24 (i + 1) from
          (BitVec.ofNat_add ..).symm] at hnext
    · rename_i hnone
      obtain ⟨x, hx, htag⟩ := List.mem_map.mp h
      exact absurd (List.any_eq_true (p := fun x => x.tag == t) |>.mpr ⟨x, hx, beq_iff_eq.mpr htag⟩) hnone

/-- Among one tag more than there are outstanding transactions, one is free (Table 10.1). -/
theorem freeTag_free {s : State} (h : s.fab.txns.length < 2 ^ 24) (t : BitVec 24) :
    freeTag s s.fab.txns.length t ∉ s.fab.txns.map (·.tag) := fun hused => by
  have htried : ((List.range (s.fab.txns.length + 1)).map fun i => t + BitVec.ofNat 24 i) ⊆ s.fab.txns.map (·.tag) := fun x hx => by
    obtain ⟨i, hi, rfl⟩ := List.mem_map.mp hx
    exact freeTag_used s _ t hused i (Nat.le_of_lt_succ (List.mem_range.mp hi))
  have hnodup : ((List.range (s.fab.txns.length + 1)).map fun i => t + BitVec.ofNat 24 i).Nodup :=
    List.Nodup.map_on (fun i hi j hj hij => by
      have hi := List.mem_range.mp hi
      have hj := List.mem_range.mp hj
      have hword := congrArg BitVec.toNat (BitVec.add_right_inj t |>.mp hij)
      rwa [BitVec.toNat_ofNat, BitVec.toNat_ofNat, Nat.mod_eq_of_lt (by omega), Nat.mod_eq_of_lt (by omega)] at hword) List.nodup_range
  have hlength := (List.subperm_of_subset hnodup htried).length_le
  rw [List.length_map, List.length_map, List.length_range] at hlength
  omega

/-- The tag found depends on the outstanding transactions alone. -/
theorem freeTag_congr {s u : State} (h : u.fab.txns = s.fab.txns) : ∀ (n : Nat) (t : BitVec 24), freeTag u n t = freeTag s n t
  | 0, _ => rfl
  | n + 1, t => by unfold freeTag; rw [h, freeTag_congr h n (t + 1)]

/-- A transaction sent is outstanding with a free tag until it is acknowledged (R323, R326). -/
def txnStarted (dst : Nat) (down resent : Bool) (data : List Byte) (s : State) : Txn :=
  { tag := freeTag s s.fab.txns.length s.fab.nextTag, dst := BitVec.ofNat 9 dst, down := down, data := data,
    expiry := s.fab.beat + BitVec.ofNat 64 s.fab.tt.toNat, ext := s.fab.ext, resent := resent }

theorem txns_sendTxn (dst : Nat) (down resent : Bool) (data : List Byte) (s : State) :
    (sendTxn dst down resent data s).fab.txns = s.fab.txns ++ [txnStarted dst down resent data s] := by
  unfold sendTxn; rw [txns_sendFlits]; rfl

theorem sends_sendTxn (dst : Nat) (down resent : Bool) (data : List Byte) (s : State) : Sends [] s (sendTxn dst down resent data s) :=
  sends_then_flits (sends_startTxn ..) (sends_sendFlits ..)

theorem errCompl_of_offPorts {s t : State} (h : offPorts t = offPorts s) : t.fab.errCompl = s.fab.errCompl :=
  (congrArg (fun x : State => x.fab.errCompl) h :)

theorem errCompl_sendTxn (dst : Nat) (down resent : Bool) (data : List Byte) (s : State) :
    (sendTxn dst down resent data s).fab.errCompl = s.fab.errCompl := by
  unfold sendTxn
  rw [errCompl_of_offPorts (offPorts_sendFlits ..)]; rfl

/-- An error completion counted, with its transaction no longer outstanding. -/
def errCounted (n : BitVec 24) (s : State) : State := dropTxn n { s with fab := { s.fab with errCompl := s.fab.errCompl + 1 } }

/-- The transaction sent once more. -/
def sentAgain (n : BitVec 24) (x : Txn) (s : State) : State :=
  sendTxn x.dst.toNat x.down true x.data (emit (.resend n (freeTag s s.fab.txns.length s.fab.nextTag)) s)

theorem exec_errorCompletion {n : BitVec 24} {x : Txn} {s : State} (hx : s.fab.txns.find? (·.tag == n) = some x) :
    exec (.errorCompletion n) s = .next (if x.resent ∨ bondPorts s x.down = 0 then domainFault 10 0x1FF (errCounted n s)
      else sentAgain n x (errCounted n s)) := by
  have htxn : txnOf s n = some x := hx
  show execErrorCompletion n s = _
  unfold execErrorCompletion
  rw [htxn]; rfl

theorem sentAgain_spec (n : BitVec 24) (x : Txn) {s : State} (hfew : s.fab.txns.length < 2 ^ 24) :
    (sentAgain n x s).fab.errCompl = s.fab.errCompl
      ∧ ∃ y : Txn, (sentAgain n x s).fab.txns = s.fab.txns ++ [y] ∧ y.dst = x.dst ∧ y.down = x.down ∧ y.data = x.data ∧ y.resent = true
        ∧ y.expiry = s.fab.beat + BitVec.ofNat 64 s.fab.tt.toNat ∧ y.tag ∉ s.fab.txns.map (·.tag)
        ∧ Sends [.resend n y.tag] s (sentAgain n x s) := by
  have htag : (txnStarted x.dst.toNat x.down true x.data
      (emit (.resend n (freeTag s s.fab.txns.length s.fab.nextTag)) s)).tag = freeTag s s.fab.txns.length s.fab.nextTag :=
    freeTag_congr (s := s) (u := emit _ s) rfl ..
  refine ⟨errCompl_sendTxn .., _, txns_sendTxn .., BitVec.ofNat_toNat .., rfl, rfl, rfl, rfl, ?_, ?_⟩
  · rw [htag]; exact freeTag_free hfew s.fab.nextTag
  · rw [htag]; exact sends_emit _ (sends_sendTxn ..)

/-- Counting an error completion sends nothing and touches no port. -/
theorem sends_of_errCounted {os : List Out} {n : BitVec 24} {s t : State} (h : Sends os (errCounted n s) t) : Sends os s t := h

theorem faultView_errCounted (n : BitVec 24) (s : State) : faultView (errCounted n s) = faultView s := rfl

theorem errorCompletion_spec (n : BitVec 24) (x : Txn) (s : State) (hx : s.fab.txns.find? (·.tag == n) = some x) (hst : s.fab.st = 2)
    (hfew : s.fab.txns.length < 2 ^ 24) : ∃ t, exec (.errorCompletion n) s = .next t ∧ t.fab.errCompl = s.fab.errCompl + 1
      ∧ ((x.resent = true ∨ bondPorts s x.down = 0) → DomainFaulted 10 0x1FF s t)
      ∧ (x.resent = false → bondPorts s x.down ≠ 0 → ∃ y : Txn, t.fab.txns = s.fab.txns.filter (·.tag != n) ++ [y]
          ∧ y.dst = x.dst ∧ y.down = x.down ∧ y.data = x.data ∧ y.resent = true
          ∧ y.expiry = s.fab.beat + BitVec.ofNat 64 s.fab.tt.toNat
          ∧ y.tag ∉ (s.fab.txns.filter (·.tag != n)).map (·.tag) ∧ Sends [.resend n y.tag] s t) := by
  rw [exec_errorCompletion hx]
  by_cases hlost : x.resent = true ∨ bondPorts s x.down = 0
  · have hmember : (errCounted n s).fab.st = 1 ∨ (errCounted n s).fab.st = 2 := .inr hst
    obtain ⟨-, hcount⟩ := domainFault_counters hmember 10 0x1FF
    have hfault := domainFaulted hmember (cause := 10) (src := 0x1FF) (by decide) (by decide)
    rw [if_pos hlost]
    generalize domainFault 10 0x1FF (errCounted n s) = t at *
    refine ⟨t, rfl, hcount, fun _ => domainFaulted_congr (faultView_errCounted n s) hfault, fun hfirst hbond => ?_⟩
    exact (hlost.elim (fun h => by simp [hfirst] at h) hbond).elim
  · have hleft : (errCounted n s).fab.txns.length < 2 ^ 24 := lt_of_le_of_lt (List.length_filter_le ..) hfew
    obtain ⟨hcount, y, htxns, hdst, hdown, hdata, hresent, hexpiry, htag, hsends⟩ := sentAgain_spec n x hleft
    rw [if_neg hlost]
    generalize sentAgain n x (errCounted n s) = t at *
    exact ⟨t, rfl, hcount, fun h => absurd h hlost, fun _ _ =>
      ⟨y, htxns, hdst, hdown, hdata, hresent, hexpiry, htag, sends_of_errCounted hsends⟩⟩

/-! ### A timer that expires (R326) -/

/-- A timeout counted and recorded, with its transaction no longer outstanding. -/
def timeoutRaised (n : BitVec 24) (x : Txn) (s : State) : State :=
  raise (err 0x72 1 n.toNat x.dst.toNat 0) (dropTxn n { s with fab := { s.fab with timeouts := s.fab.timeouts + 1 } })

theorem exec_transactionTimeout {n : BitVec 24} {x : Txn} {s : State} (hx : s.fab.txns.find? (·.tag == n) = some x) :
    exec (.transactionTimeout n) s = .next (if s.fab.beat.toNat < x.expiry.toNat then s
      else domainFault 10 0x1FF (timeoutRaised n x s)) := by
  have htxn : txnOf s n = some x := hx
  show execTransactionTimeout n s = _
  unfold execTransactionTimeout
  rw [htxn]; rfl

theorem timeoutRaised_fab (n : BitVec 24) (x : Txn) (s : State) : (timeoutRaised n x s).fab =
    { s.fab with timeouts := s.fab.timeouts + 1, txns := s.fab.txns.filter (·.tag != n) } := raise_fab ..

theorem timeoutRaised_raised (n : BitVec 24) (x : Txn) (s : State) : (timeoutRaised n x s).err.raised = s.err.raised + 1 := by
  obtain ⟨-, -, -, -, -, -, -, -, -, hraised, -⟩ :=
    raised_raise_any (err 0x72 1 n.toNat x.dst.toNat 0) (dropTxn n { s with fab := { s.fab with timeouts := s.fab.timeouts + 1 } })
  unfold timeoutRaised
  rw [hraised]; rfl

theorem transactionTimeout_spec (n : BitVec 24) (x : Txn) (s : State) (hx : s.fab.txns.find? (·.tag == n) = some x)
    (hst : s.fab.st = 2) : (s.fab.beat.toNat < x.expiry.toNat → exec (.transactionTimeout n) s = .next s)
      ∧ (x.expiry.toNat ≤ s.fab.beat.toNat → ∃ t, exec (.transactionTimeout n) s = .next t
          ∧ t.fab.timeouts = s.fab.timeouts + 1 ∧ t.fab.st = 3 ∧ t.err.raised = s.err.raised + 2
          ∧ t.fab.cause = (if s.fab.cause = 0 then 10 else s.fab.cause)) := by
  rw [exec_transactionTimeout hx]
  have hfab := timeoutRaised_fab n x s
  have hraised := timeoutRaised_raised n x s
  generalize timeoutRaised n x s = u at *
  refine ⟨fun hruns => by rw [if_pos hruns], fun hexpired => ⟨_, by rw [if_neg (by omega)], ?_⟩⟩
  have hmember : u.fab.st = 1 ∨ u.fab.st = 2 := .inr (by rw [hfab]; exact hst)
  obtain ⟨htimeouts, -⟩ := domainFault_counters hmember 10 0x1FF
  obtain ⟨hfault, hcause, -, -, -, -, hrecord, -⟩ := domainFaulted hmember (cause := 10) (src := 0x1FF) (by decide) (by decide)
  obtain ⟨-, -, -, -, -, -, -, -, -, hcount, -⟩ := hrecord
  refine ⟨by rw [htimeouts, hfab], hfault, ?_, by rw [hcause, hfab]; rfl⟩
  rw [hcount, hraised, BitVec.add_assoc]; rfl

end Sys2Proof.Machine

/-- Settles O39, command by command: the two ends of a lost flit, the exhausted episode, the notice, the acknowledgement, the transaction
received, the error completion and the timeout. -/
theorem linkRetryAndTransactions : Obligations.LinkRetryAndTransactions := by
  unfold Obligations.LinkRetryAndTransactions
  exact ⟨flitLost_receiving, flitLost_sending, episodeExhausted_spec, fun _ _ => rfl, fun _ _ => rfl, transactionReceived_spec,
    errorCompletion_spec, transactionTimeout_spec⟩
end

section
/-! SUPPORT. Stretch requests at the master and at a follower, their resolution, and a stretch's start and end (R212, R316 to R321),
and the statement. -/

open Sys2Proof Sys2Proof.Machine Sys2Proof.Spec

namespace Sys2Proof.Machine

/-! ### Request words (R318) -/

theorem exec_stretchRequestWord_master {q : StretchReq} {s : State} (hst : s.fab.st = 2) (hmaster : s.fab.myPos = 0) :
    exec (.stretchRequestWord q) s = .next (if q.len = 0 ∨ ringN s ≤ q.pos.toNat
      then { s with fab := { s.fab with badRequests := s.fab.badRequests + 1 } }
      else { s with fab := { s.fab with waiting := s.fab.waiting ++ [q] } }) := by
  show execStretchRequestWord q s = _
  unfold execStretchRequestWord
  rw [if_neg (not_not.mpr hst), if_neg (not_not.mpr hmaster)]

theorem exec_stretchRequestWord_follower {q : StretchReq} {s : State} (hst : s.fab.st = 2) (hfollower : s.fab.myPos ≠ 0) :
    exec (.stretchRequestWord q) s = .next (sendRequest q s) := by
  show execStretchRequestWord q s = _
  unfold execStretchRequestWord
  rw [if_neg (not_not.mpr hst), if_pos hfollower]

theorem sends_sendRequest (q : StretchReq) (s : State) : Sends [.reqWord q] s (sendRequest q s) :=
  sends_emit _ (sends_sendFlits ..)

theorem offPorts_sendRequest (q : StretchReq) (s : State) : offPorts (sendRequest q s) = offPorts s :=
  (offPorts_sendFlits ..).trans rfl

theorem stretchRequestWord_spec (q : StretchReq) (s : State) (hst : s.fab.st = 2) :
    (s.fab.myPos = 0 → (q.len = 0 ∨ ringN s ≤ q.pos.toNat) →
      exec (.stretchRequestWord q) s = .next { s with fab := { s.fab with badRequests := s.fab.badRequests + 1 } })
    ∧ (s.fab.myPos = 0 → q.len ≠ 0 → q.pos.toNat < ringN s →
      exec (.stretchRequestWord q) s = .next { s with fab := { s.fab with waiting := s.fab.waiting ++ [q] } })
    ∧ (s.fab.myPos ≠ 0 → ∃ t, exec (.stretchRequestWord q) s = .next t ∧ Sends [.reqWord q] s t
        ∧ t = { s with out := t.out, fab := { s.fab with ports := t.fab.ports } }) := by
  refine ⟨fun hmaster hbad => ?_, fun hmaster hlen hpos => ?_, fun hfollower => ?_⟩
  · rw [exec_stretchRequestWord_master hst hmaster, if_pos hbad]
  · rw [exec_stretchRequestWord_master hst hmaster, if_neg (not_or.mpr ⟨hlen, hpos.not_ge⟩)]
  · exact ⟨_, exec_stretchRequestWord_follower hst hfollower, sends_sendRequest q s, eq_of_offPorts (offPorts_sendRequest q s)⟩

/-! ### Grants (R318) -/

/-- The stretch that a request at point `x` of length `r` opens. -/
def stretchFrom (x r : Nat) : Stretch := { x0 := BitVec.ofNat 64 x, e0 := BitVec.ofNat 64 (x + r) }

theorem extendStretch_of_meets {x : Nat} {g : Stretch} (hx0 : g.x0.toNat ≤ x) (he0 : x ≤ g.e0.toNat) (r : Nat) :
    extendStretch x r g = some { g with e0 := BitVec.ofNat 64 (max g.e0.toNat (x + r)) } := if_pos ⟨hx0, he0⟩

theorem extendStretch_eq_none {x : Nat} {g : Stretch} (h : ¬ (g.x0.toNat ≤ x ∧ x ≤ g.e0.toNat)) (r : Nat) :
    extendStretch x r g = none := if_neg h

theorem grantStretch_none {s : State} (hgrant : s.fab.grant = none) (x r : Nat) : grantStretch x r s =
    { s with fab := { s.fab with grant := some (stretchFrom x r), stretches := s.fab.stretches + 1 } } := by
  unfold grantStretch
  rw [hgrant]; rfl

theorem grantStretch_of_meets {s : State} {g : Stretch} {x : Nat} (hgrant : s.fab.grant = some g) (hx0 : g.x0.toNat ≤ x)
    (he0 : x ≤ g.e0.toNat) (r : Nat) : grantStretch x r s =
    { s with fab := { s.fab with grant := some { g with e0 := BitVec.ofNat 64 (max g.e0.toNat (x + r)) } } } := by
  unfold grantStretch
  simp only [hgrant, extendStretch_of_meets hx0 he0]

/-- A point in no granted stretch opens one behind them (R318, log entry 40). -/
theorem grantStretch_of_apart {s : State} {g : Stretch} {x : Nat} (hgrant : s.fab.grant = some g)
    (hpresent : ¬ (g.x0.toNat ≤ x ∧ x ≤ g.e0.toNat))
    (hlater : ∀ y ∈ s.fab.later, ¬ (y.x0.toNat ≤ x ∧ x ≤ y.e0.toNat)) (r : Nat) :
    grantStretch x r s =
      { s with fab := { s.fab with later := s.fab.later ++ [stretchFrom x r], stretches := s.fab.stretches + 1 } } := by
  have hnone : ¬ (s.fab.later.any fun y => (extendStretch x r y).isSome) = true := by
    rw [List.any_eq_true]
    rintro ⟨y, hy, hsome⟩
    rw [extendStretch_eq_none (hlater y hy)] at hsome
    cases hsome
  unfold grantStretch
  simp only [hgrant, extendStretch_eq_none hpresent, if_neg hnone]; rfl

/-- A grant touches the granted stretches and their count alone. -/
theorem grantStretch_frame (x r : Nat) (s : State) : ∃ g l n,
    grantStretch x r s = { s with fab := { s.fab with grant := g, later := l, stretches := n } } := by
  unfold grantStretch; dsimp only
  split
  · exact ⟨_, _, _, rfl⟩
  · split
    · exact ⟨_, _, _, rfl⟩
    · split <;> exact ⟨_, _, _, rfl⟩

/-! ### Resolution (R318) -/

theorem foldl_max_len_eq {r : Nat} {t : List StretchReq} {a : Nat} (ha : a ≤ r) (ht : ∀ y ∈ t, y.len.toNat ≤ r)
    (hr : a = r ∨ ∃ y ∈ t, y.len.toNat = r) : t.foldl (fun a y => max a y.len.toNat) a = r := by
  induction t generalizing a with
  | nil => simpa using hr
  | cons y t ih =>
    obtain ⟨hy, ht⟩ := List.forall_mem_cons.mp ht
    refine ih (max_le ha hy) ht ?_
    rw [List.exists_mem_cons_iff] at hr
    rcases hr with rfl | rfl | hr
    · exact .inl (max_eq_left hy)
    · exact .inl (max_eq_right ha)
    · exact .inr hr

/-- The state as the requests raised in beat `b` leave the master's queue. -/
def beatTaken (b : W64) (s : State) : State :=
  { s with fab := { s.fab with waiting := s.fab.waiting.filter (·.beat != b) } }

/-- The requests raised in beat `b`, whose longest is `r`, leave the queue for one grant at their stretch point. -/
theorem resolveBeat_of_longest {b : W64} {s : State} {r : Nat} (hr : ∃ q ∈ s.fab.waiting, q.beat = b ∧ q.len.toNat = r)
    (hle : ∀ q ∈ s.fab.waiting, q.beat = b → q.len.toNat ≤ r) :
    resolveBeat b s = grantStretch (b.toNat + s.fab.lead.toNat) r (beatTaken b s) := by
  have hmem : ∀ q, q ∈ s.fab.waiting.filter (fun q => q.beat == b) ↔ q ∈ s.fab.waiting ∧ q.beat = b := fun q => by simp
  obtain ⟨m, hm, hbeat, hlen⟩ := hr
  have hlongest := (hmem m).mpr ⟨hm, hbeat⟩
  unfold resolveBeat
  cases hqs : s.fab.waiting.filter (fun q => q.beat == b) with
  | nil => rw [hqs] at hlongest; cases hlongest
  | cons q t =>
    have hall : ∀ y ∈ q :: t, y.len.toNat ≤ r := fun y hy => by
      rw [← hqs, hmem] at hy; exact hle y hy.1 hy.2
    obtain ⟨hq, ht⟩ := List.forall_mem_cons.mp hall
    have hmax : q.len.toNat = r ∨ ∃ y ∈ t, y.len.toNat = r := by
      rw [hqs] at hlongest
      exact (List.exists_mem_cons_iff (·.len.toNat = r) q t).mp ⟨m, hlongest, hlen⟩
    dsimp only
    rw [foldl_max_len_eq hq ht hmax]; rfl

theorem exec_stretchResolve_due {b : W64} {s : State} (hmaster : s.fab.st ≠ 2 ∨ s.fab.myPos = 0)
    (hdue : b.toNat + lamR (ringN s) ≤ s.fab.beat.toNat) : exec (.stretchResolve b) s = .next (resolveBeat b s) := by
  have hfollows : ¬ follows s = true := by
    rw [follows, Bool.and_eq_true, beq_iff_eq, bne_iff_ne]
    exact fun ⟨hst, hpos⟩ => hmaster.elim (· hst) hpos
  show execStretchResolve b s = _
  unfold execStretchResolve
  rw [if_neg (not_or.mpr ⟨hfollows, hdue.not_gt⟩)]

theorem stretchResolve_spec (b : W64) (s : State) (r x : Nat) (hmaster : s.fab.st ≠ 2 ∨ s.fab.myPos = 0)
    (hdue : b.toNat + lamR (ringN s) ≤ s.fab.beat.toNat) (hr : ∃ q ∈ s.fab.waiting, q.beat = b ∧ q.len.toNat = r)
    (hle : ∀ q ∈ s.fab.waiting, q.beat = b → q.len.toNat ≤ r) (hx : x = b.toNat + s.fab.lead.toNat) :
    ∃ t, exec (.stretchResolve b) s = .next t ∧ t.fab.waiting = s.fab.waiting.filter (·.beat != b)
      ∧ t = { s with fab := t.fab } ∧ t.fab.beat = s.fab.beat ∧ t.fab.sched = s.fab.sched
      ∧ (s.fab.grant = none → t.fab.grant = some { x0 := BitVec.ofNat 64 x, e0 := BitVec.ofNat 64 (x + r) }
          ∧ t.fab.stretches = s.fab.stretches + 1)
      ∧ (∀ g, s.fab.grant = some g → g.x0.toNat ≤ x → x ≤ g.e0.toNat →
          t.fab.grant = some { x0 := g.x0, e0 := BitVec.ofNat 64 (max g.e0.toNat (x + r)) }
            ∧ t.fab.stretches = s.fab.stretches)
      ∧ ∀ g, s.fab.grant = some g → g.e0.toNat < x → (∀ y ∈ s.fab.later, ¬ (y.x0.toNat ≤ x ∧ x ≤ y.e0.toNat)) →
          t.fab.grant = some g ∧ t.fab.later = s.fab.later ++ [{ x0 := BitVec.ofNat 64 x, e0 := BitVec.ofNat 64 (x + r) }]
            ∧ t.fab.stretches = s.fab.stretches + 1 := by
  rw [exec_stretchResolve_due hmaster hdue, resolveBeat_of_longest hr hle, ← hx]
  obtain ⟨g, l, n, hframe⟩ := grantStretch_frame x r (beatTaken b s)
  refine ⟨_, rfl, by rw [hframe]; rfl, by rw [hframe]; rfl, by rw [hframe]; rfl, by rw [hframe]; rfl, fun hnone => ?_,
    fun g hg hx0 he0 => ?_, fun g hg hbehind hlater => ?_⟩
  · rw [grantStretch_none (s := beatTaken b s) hnone]; exact ⟨rfl, rfl⟩
  · rw [grantStretch_of_meets (s := beatTaken b s) hg hx0 he0]; exact ⟨rfl, rfl⟩
  · rw [grantStretch_of_apart (s := beatTaken b s) hg (fun hmeets => hbehind.not_ge hmeets.2) hlater]; exact ⟨hg, rfl, rfl⟩

/-! ### A stretch's start (R212, R319) -/

/-- The present beat is an inserted one exactly where it lies in the granted stretch. -/
theorem inserted_eq_inStretch (s : State) : inserted s = inStretch s s.fab.beat := by
  unfold inserted inStretch
  cases s.fab.grant with
  | none => rfl
  | some g => exact (Bool.decide_and ..).symm

theorem exec_stretchStart (s : State) : exec .stretchStart s = .next (
    if inStretch s s.fab.beat = true ∧ s.fab.started = false
    then { s with fab := { s.fab with started := true }, hw := { s.hw with stretchPlanes := s.hw.held } } else s) := by
  show execStretchStart s = _
  unfold execStretchStart
  simp only [inserted_eq_inStretch, Bool.not_eq_true']

theorem stretchStart_spec (s : State) : ∃ t, exec .stretchStart s = .next t
    ∧ t = { s with fab := { s.fab with started := t.fab.started }, hw := { s.hw with stretchPlanes := t.hw.stretchPlanes } }
    ∧ (inStretch s s.fab.beat = true → t.fab.started = true ∧ (s.fab.started = false → t.hw.stretchPlanes = s.hw.held))
    ∧ ((inStretch s s.fab.beat = false ∨ s.fab.started = true) → t = s) := by
  refine ⟨_, exec_stretchStart s, ?_⟩
  by_cases hstart : inStretch s s.fab.beat = true ∧ s.fab.started = false
  · obtain ⟨hin, hnew⟩ := hstart
    rw [if_pos ⟨hin, hnew⟩]
    exact ⟨rfl, fun _ => ⟨rfl, fun _ => rfl⟩, by simp [hin, hnew]⟩
  · rw [if_neg hstart]
    rw [not_and, Bool.not_eq_false] at hstart
    exact ⟨rfl, fun hin => ⟨hstart hin, by simp [hstart hin]⟩, fun _ => rfl⟩

/-! ### A stretch's end (R212, R321) -/

@[simp] theorem journal_fab (e : JEntry) (s : State) : (journal e s).fab = s.fab := rfl

theorem fab_transitionMade (k : Nat) (s : State) : (transitionMade k s).fab = s.fab := by
  unfold transitionMade
  split
  · rfl
  · split <;> rfl

theorem fab_mapMoved (b k old : Nat) (s : State) : (mapMoved b k old s).fab = s.fab := by simp [mapMoved]

theorem fab_planeLeft (b old : Nat) (s : State) : (planeLeft b old s).fab = s.fab := by simp [planeLeft, dropCells]

theorem settlePlane_of_stays {k : Nat} {s : State} (h : (plane s k).moveOf = none) : settlePlane k s = transitionMade k s := by
  unfold settlePlane; dsimp only
  rw [h]; rfl

theorem fab_settlePlane (k : Nat) (s : State) : (settlePlane k s).fab = s.fab := by
  cases hmove : (plane s k).moveOf with
  | none => rw [settlePlane_of_stays hmove, fab_transitionMade]
  | some old =>
    obtain ⟨b, j, heq⟩ := settlePlane_moves hmove
    rw [heq, journal_fab, fab_planeLeft, fab_mapMoved, fab_transitionMade]

/-- The fabric as granted stretch `g` gives way to the next. -/
def stretchOver (g : Stretch) (f : Fabric) : Fabric :=
  { f with grant := f.later.head?, later := f.later.drop 1, started := false
           own := f.own.filter fun x => decide (g.e0.toNat < x.beat.toNat + f.lead.toNat) }

theorem exec_stretchEnd_over {g : Stretch} {s : State} (hgrant : s.fab.grant = some g) (hover : g.e0.toNat ≤ s.fab.beat.toNat) :
    ∃ t, exec .stretchEnd s = .next t ∧ t.fab = stretchOver g s.fab := by
  show ∃ t, execStretchEnd s = .next t ∧ _
  unfold execStretchEnd
  simp only [hgrant, if_neg hover.not_gt]
  exact ⟨_, rfl, forAll_keeps (·.fab) _ fab_settlePlane _ _⟩

theorem stretchEnd_spec (g : Stretch) (s : State) (hgrant : s.fab.grant = some g) (hover : g.e0.toNat ≤ s.fab.beat.toNat) :
    ∃ t, exec .stretchEnd s = .next t ∧ t.fab.grant = s.fab.later.head? ∧ t.fab.beat = s.fab.beat
      ∧ t.fab.sched = s.fab.sched ∧ t.fab.stretches = s.fab.stretches
      ∧ ∀ x ∈ t.fab.own, x ∈ s.fab.own ∧ g.e0.toNat < x.beat.toNat + s.fab.lead.toNat := by
  obtain ⟨t, hexec, hfab⟩ := exec_stretchEnd_over hgrant hover
  refine ⟨t, hexec, by rw [hfab]; rfl, by rw [hfab]; rfl, by rw [hfab]; rfl, by rw [hfab]; rfl, fun x hx => ?_⟩
  rw [hfab] at hx
  obtain ⟨hown, hlive⟩ := List.mem_filter.mp hx
  exact ⟨hown, of_decide_eq_true hlive⟩

end Sys2Proof.Machine

/-- Settles O38, command by command: the request word, the resolution of a beat's requests, and a stretch's start and end. -/
theorem stretchesGranted : Obligations.StretchesGranted := by
  unfold Obligations.StretchesGranted
  exact ⟨stretchRequestWord_spec, stretchResolve_spec, stretchStart_spec, stretchEnd_spec⟩
end

section
/-! SUPPORT. A WALK over a page that a node of the tree shares (R275, R278): the walk pins the node, and PINS is a field of the node's 32
bytes in device memory (Table 9.6). -/

open Sys2Proof Sys2Proof.Machine Sys2Proof.Spec

namespace Sys2Proof.Machine

/-- A WALK that its unit can take works in the state `begun` (R235). -/
theorem exec_walk {c : Iss} {k : Fin 2016} {r : RecRead} {s : State} (hreads : Reads c k r s) (hissued : Issued 0x60 c r s)
    (hroom : walkReady c s = true) : exec (.walk k r) s = .next (walk c (begun c s)) := by
  refine congrArg Host.Outcome.next ?_
  rw [issueTo_ready hreads hissued.1, hroom, runRecord_issued hreads hissued]; rfl

/-! ### A plan with one WALK -/

/-- WALK for slot 0, of one token. -/
def walkOne (beat seq : Nat) : Nat := plainRecord 0x60 beat seq (2 ^ 80 + 2 ^ 96)

/-- The layer of `narrowLayer` as an attention layer in E4M3, whose descriptor lies at byte 576. -/
def attentionLayer : List Byte :=
  leBytes 64 (packBits ([(32, 32), (32, 32), (0x3C00, 16), (0x0400, 16), (2 ^ 27, 32), (1, 16), (1, 16), (absent, 32), (absent, 32), (0, 32)]
    ++ [absent, absent, absent, 0, absent, 576].map (·, 32)))

/-- Its descriptor (Table 8.1): 2 query heads on 1 key-value head of 32 elements, 8 tokens to a page, τ 1.0, one core. -/
def attentionHeads : List Byte :=
  leBytes 64 (packBits [(2, 16), (1, 16), (32, 16), (3, 8), (1, 8), (0, 16), (1, 16), (0, 32), (0x3F800000, 32), (4096, 32), (0, 48), (1, 16)])

/-- A plan of one core, this layer and the WALK; the CRC-32 is computed outside the model. -/
def walkPlan : List Byte :=
  leBytes 64 (packBits [(0x5350414E, 32), (1, 16), (1, 16), (1, 32), (2, 32), (64, 32), (128, 32), (448, 32), (640, 32), (656, 32),
    (0x439744BA, 32)])
    ++ attentionLayer ++ leBytes 64 (packBits [(192, 32), (3, 32), (288, 32), (5, 32)])
    ++ oneRecordNarrow walkOne ++ oneRecordWide walkOne
    ++ leBytes 128 (packBits [(4, 8), (0, 120), (32000, 32), (0, 352), (1, 16), (1, 8), (1, 8)]) ++ attentionHeads ++ leBytes 16 0

/-- The checks of binding enable accept it (Table 6.7). -/
theorem walkPlan_accepted : checkImage walkPlan 656 (regionsOf walkPlan 0 [0] 0) = none := by decide +kernel

/-! ### A sequence whose first page is shared -/

/-- The node of that page: 8 prompt tokens, held by the tree and by the record (R277), with no pin. -/
def sharedNode : Node :=
  { parent := 0, count := 2, pins := 0, inTree := true, lastUsed := 0, setFrame := 25, tokens := List.replicate 8 5,
    hash := crc32 (wordsBytes (List.replicate 8 5)), frames := [(0, 20)] }

/-- Core 0 runs the plan as binding 1 and comes to its WALK. Record 0, in slot 0, has fed the 8 tokens of a page and feeds one more; its
page table is in frames 16 to 18 and the tree in frame 24. -/
def sharingBinding : State :=
  { State.reset with
    ten := { State.reset.ten with
      entries := [(1, { st := 3, cores := 1 })]
      runs := [(1, { plan := walkPlan, coreMap := [0], slots := [some 0, none, none, none], tree := [(1, some sharedNode)],
                     treeBase := [24] })]
      owner := [16, 17, 18, 20, 24, 25].map (·, FrameOwner.tenant 1) }
    srv := { State.reset.srv with
      ctx := [(0, { st := 3, share := true, inSlot := true, tenant := 1, length := 8, root := 16, prefNode := 1 })]
      run := [(0, { fed := 1 })] }
    hw := { clusters := [(0, { st := 0, logical := 0, usable := 18 })],
            cores := [(0, { usable := true, logical := 0, inUse := 0xFFFF, bound := some (1, 0), recipes := true, ptr := 1,
                            ls := { opened := true } })] } }

/-- The same with its page table and its tree in device memory: page 0 of stream 0 is SHARED, in frame 20 (R230, R231, R275). -/
def sharingPage : State :=
  layNode 1 1 (layNode 1 0 (setPte 1 18 0 (20 + 2 ^ 24 + 2 ^ 25) (setPte 1 17 0 (18 + 2 ^ 24) (setPte 1 16 0 (17 + 2 ^ 24) sharingBinding))))

/-- The core's reading of the record. -/
def walkRead : RecRead := { idx := 1, wide := false, bits := BitVec.ofNat 256 (walkOne 0 1), bad := false }

/-- The record as plan core 0 of binding 1 issues it. -/
def walkIss : Iss := { k := 0, b := 1, i := 0, x := walkRead.bits.toNat, idx := 1, wide := false }

theorem reads_sharingPage : Reads walkIss 0 walkRead sharingPage := by
  refine ⟨rfl, ?_, ?_, rfl, rfl, rfl, rfl⟩ <;> decide +kernel

theorem issued_sharingPage : Issued 0x60 walkIss walkRead sharingPage := by
  refine ⟨⟨⟨?_, ?_, ?_, ?_⟩, ?_, ?_, ?_, ?_⟩, rfl⟩ <;> decide +kernel

theorem room_sharingPage : walkReady walkIss sharingPage = true := by decide +kernel

/-- PINS of node 1 in the tree's first frame (Table 9.6). -/
def pinsByte : Nat := 65536 * 24 + 32 + 16

/-- No walk has pinned the node before; the walk of the page does, in device memory too. -/
theorem pins_sharingPage : memByte sharingPage pinsByte = 0
    ∧ memByte (walk walkIss (begun walkIss sharingPage)) pinsByte = 1 := by decide +kernel

end Sys2Proof.Machine

/-- Refutes O55: its WALK part says that a WALK changes no byte of device memory. A WALK that describes a SHARED page pins the node of
the binding's tree that holds the page's frame (R278), and the tree is laid in device memory with PINS at bytes 16 and 17 of each
node (R275, Table 9.6). In `sharingPage`, whose plan the checks of binding enable accept (`walkPlan_accepted`), the WALK describes such a
page, and the byte of PINS goes from 0 to 1. -/
theorem not_kvRecords : ¬ Obligations.KvRecords := by
  unfold Obligations.KvRecords
  rintro ⟨hrecords, -⟩
  obtain ⟨hwalk, -, -⟩ := hrecords 0 walkRead walkIss sharingPage reads_sharingPage
  obtain ⟨-, -, hwalked⟩ := hwalk issued_sharingPage.1
  obtain ⟨t, _, ht, -, -, hkept, -⟩ := hwalked room_sharingPage rfl
  rw [exec_walk reads_sharingPage issued_sharingPage room_sharingPage] at ht
  obtain rfl : walk walkIss (begun walkIss sharingPage) = t := by simpa using ht
  obtain ⟨hunpinned, hpinned⟩ := pins_sharingPage
  have hclash : (1 : Byte) = 0 := hpinned.symm.trans ((hkept pinsByte).trans hunpinned)
  exact absurd hclash (by decide)
end

section
/-! SUPPORT. Prompt tokens in a record's token buffer (R272): the reads that fill it, what its bytes read as afterwards, the frame owner
check on it (R352), and the failure of the command that supplied a bad token. -/

open Sys2Proof Sys2Proof.Machine Sys2Proof.Spec

namespace Sys2Proof.Machine

/-! ### The reads of prompt tokens (R364) -/

theorem srv_of_offReads {s t : State} (h : offReads t = offReads s) : t.srv = s.srv := (congrArg State.srv h :)
theorem ten_of_offReads {s t : State} (h : offReads t = offReads s) : t.ten = s.ten := (congrArg State.ten h :)
theorem mem_of_offReads {s t : State} (h : offReads t = offReads s) : t.mem = s.mem := (congrArg State.mem h :)
theorem memKeys_of_offReads {s t : State} (h : offReads t = offReads s) : t.memKeys = s.memKeys := (congrArg State.memKeys h :)
theorem out_of_offReads {s t : State} (h : offReads t = offReads s) : t.out = s.out := (congrArg State.out h :)
theorem work_of_offReads {s t : State} (h : offReads t = offReads s) : t.host.work = s.host.work :=
  (congrArg (fun x : State => x.host.work) h :)

@[simp] theorem dropReads_srv (p : ReadFor → Bool) (s : State) : (dropReads p s).srv = s.srv := srv_of_offReads (offReads_dropReads p s)
@[simp] theorem dropReads_ten (p : ReadFor → Bool) (s : State) : (dropReads p s).ten = s.ten := ten_of_offReads (offReads_dropReads p s)
@[simp] theorem dropReads_mem (p : ReadFor → Bool) (s : State) : (dropReads p s).mem = s.mem := mem_of_offReads (offReads_dropReads p s)
@[simp] theorem dropReads_memKeys (p : ReadFor → Bool) (s : State) : (dropReads p s).memKeys = s.memKeys :=
  memKeys_of_offReads (offReads_dropReads p s)
@[simp] theorem dropReads_out (p : ReadFor → Bool) (s : State) : (dropReads p s).out = s.out := out_of_offReads (offReads_dropReads p s)
@[simp] theorem dropReads_host_work (p : ReadFor → Bool) (s : State) : (dropReads p s).host.work = s.host.work :=
  work_of_offReads (offReads_dropReads p s)

/-- A read that starts is outstanding or waits. -/
theorem readsTokens_readTokens (r : Nat) (s : State) : readsTokens r (readTokens r s) := by
  unfold readTokens startRead readsTokens; dsimp only
  split
  · exact .inr (List.mem_append_right _ (List.mem_singleton_self _))
  · exact .inl ⟨_, List.mem_append_right _ (List.mem_singleton_self _), rfl⟩

/-- The start of another read begins no read for record `r`. -/
theorem not_readsTokens_startRead {r : Nat} {w : ReadFor} {s : State} (hw : w ≠ .tokens r) (h : ¬ readsTokens r s) :
    ¬ readsTokens r (startRead w s) := by
  unfold readsTokens at *
  rw [not_or] at h
  unfold startRead; dsimp only
  split
  · simpa [h.2, Ne.symm hw] using h.1
  · refine not_or.mpr ⟨?_, h.2⟩
    rintro ⟨x, hx, hwhat⟩
    rcases List.mem_append.mp hx with hx | hx
    · exact h.1 ⟨x, hx, hwhat⟩
    · rw [List.mem_singleton] at hx
      subst hx
      exact hw hwhat

/-- Once its reads are dropped, no read for the record is outstanding or waits. -/
theorem not_readsTokens_dropReads (r : Nat) (s : State) : ¬ readsTokens r (dropReads (· == .tokens r) s) := by
  unfold dropReads startReads
  refine forAll_invariant (P := fun t => ¬ readsTokens r t) (fun w hw t ht => not_readsTokens_startRead ?_ ht) ?_
  · simpa using (List.mem_filter.mp hw).2
  · simp [readsTokens]

/-! ### One token (R272) -/

/-- The first byte of the token of position `p` in record `r`'s token buffer. -/
def tokenAddr (s : State) (r p : Nat) : Nat := 65536 * (ctx s r).tokbuf.toNat + 4 * (p % 16384)

/-- The token buffer's frame is the record's binding's. -/
def OwnsTokens (s : State) (r : Nat) : Prop := owner s (ctx s r).tokbuf.toNat = .tenant (tenantOf s r)

theorem tokenAddr_frame (s : State) (r p : Nat) : tokenAddr s r p / 65536 = (ctx s r).tokbuf.toNat := by
  unfold tokenAddr; omega

theorem setToken_eq (r p : Nat) (w : W32) (s : State) :
    setToken r p w s = putOf (tenantOf s r) (tokenAddr s r p) (leBytes 4 w.toNat) s := rfl

theorem setToken_owned {s : State} {r : Nat} (h : OwnsTokens s r) (p : Nat) (w : W32) :
    setToken r p w s = memPut (tokenAddr s r p) (leBytes 4 w.toNat) s := by
  rw [setToken_eq]; unfold putOf
  rw [tokenAddr_frame]; exact if_pos h

theorem setToken_foreign {s : State} {r : Nat} (h : ¬ OwnsTokens s r) (p : Nat) (w : W32) :
    setToken r p w s
      = servingFault (tenantOf s r) (ctx s r).tokbuf.toNat (tokenAddr s r p % 65536 / 256) true s := by
  rw [setToken_eq]; unfold putOf
  rw [tokenAddr_frame]; exact if_neg h

theorem ofLe_leBytes (n x : Nat) : ofLe (leBytes n x) = x % 256 ^ n := by
  induction n generalizing x with
  | zero => simp [leBytes, ofLe, Nat.mod_one]
  | succ n ih => rw [leBytes, ofLe, ih, BitVec.toNat_ofNat, Nat.pow_succ' (n := n), Nat.mod_mul]

/-- A word's four bytes spell it. -/
theorem word_of_leBytes (w : W32) : BitVec.ofNat 32 (leAt (leBytes 4 w.toNat) 0 4) = w := by
  have hfour : (leBytes 4 w.toNat).take 4 = leBytes 4 w.toNat := List.take_of_length_le (leBytes_length ..).le
  unfold leAt
  rw [List.drop_zero, hfour, ofLe_leBytes, Nat.mod_eq_of_lt (by have := w.isLt; omega), BitVec.ofNat_toNat, BitVec.setWidth_eq]

theorem tokenAt_owned {s : State} {r : Nat} (h : OwnsTokens s r) (p : Nat) :
    tokenAt s r p = BitVec.ofNat 32 (leAt (memBytes s (tokenAddr s r p) 4) 0 4) := by
  have howner : owner s (tokenAddr s r p / 65536) = .tenant (tenantOf s r) := by rw [tokenAddr_frame]; exact h
  show BitVec.ofNat 32 (leAt (memOf s (tenantOf s r) (tokenAddr s r p) 4) 0 4) = _
  unfold memOf; rw [if_pos howner]

theorem memByte_memPut_outside {a x : Nat} {bs : List Byte} (s : State) (h : x < a ∨ a + bs.length ≤ x) :
    memByte (memPut a bs s) x = memByte s x := look_putAll_other _ bs _ _ _ h

theorem memBytes_memPut_same (a : Nat) (bs : List Byte) (s : State) : memBytes (memPut a bs s) a bs.length = bs :=
  lookAll_putAll _ _ _ _

theorem memBytes_congr {s t : State} {a n : Nat} (h : ∀ i < n, memByte t (a + i) = memByte s (a + i)) :
    memBytes t a n = memBytes s a n := by
  refine List.ext_getElem? fun i => ?_
  by_cases hi : i < n
  · rw [memBytes_get t a n i hi, memBytes_get s a n i hi, h i hi]
  · rw [List.getElem?_eq_none (by rw [memBytes_length]; omega), List.getElem?_eq_none (by rw [memBytes_length]; omega)]

/-! ### A run of tokens -/

/-- The tokens written from position `p` on. -/
def storeTokens (r p : Nat) (ws : List W32) (s : State) : State :=
  (ws.foldl (fun (x : Nat × State) w => (x.1 + 1, setToken r x.1 w x.2)) (p, s)).2

theorem storeTokens_nil (r p : Nat) (s : State) : storeTokens r p [] s = s := rfl

theorem storeTokens_cons (r p : Nat) (w : W32) (ws : List W32) (s : State) :
    storeTokens r p (w :: ws) s = storeTokens r (p + 1) ws (setToken r p w s) := rfl

section
variable {r : Nat}

theorem offMem_storeTokens : ∀ (ws : List W32) (p : Nat) {s : State}, OwnsTokens s r → offMem (storeTokens r p ws s) = offMem s
  | [], _, _, _ => rfl
  | w :: ws, p, s, h => by
    have hown : OwnsTokens (setToken r p w s) r := by rw [setToken_owned h]; exact h
    rw [storeTokens_cons, offMem_storeTokens ws (p + 1) hown, setToken_owned h]; rfl

/-- Bytes that are no token's of the run stay. -/
theorem memByte_storeTokens_outside {a : Nat} : ∀ (ws : List W32) (p : Nat) {s : State}, OwnsTokens s r →
    (∀ i < ws.length, a < tokenAddr s r (p + i) ∨ tokenAddr s r (p + i) + 4 ≤ a) → memByte (storeTokens r p ws s) a = memByte s a
  | [], _, _, _, _ => rfl
  | w :: ws, p, s, hown, h => by
    rw [storeTokens_cons, setToken_owned hown,
      memByte_storeTokens_outside (s := memPut (tokenAddr s r p) (leBytes 4 w.toNat) s) ws (p + 1) hown fun i hi => by
        have := h (i + 1) (by rw [List.length_cons]; omega)
        rwa [Nat.add_comm i 1, ← Nat.add_assoc] at this]
    exact memByte_memPut_outside s (by rw [leBytes_length]; exact h 0 (by simp))

/-- As many tokens as the ring holds are read back. -/
theorem tokenAt_storeTokens : ∀ (ws : List W32) (p : Nat) {s : State}, OwnsTokens s r → ws.length ≤ 16384 →
    ∀ (i : Nat) (w : W32), ws[i]? = some w → tokenAt (storeTokens r p ws s) r (p + i) = w
  | [], _, _, _, _, _, _, h => by simp at h
  | v :: ws, p, s, hown, hlen, i, w, h => by
    have hlen' : ws.length < 16384 := hlen
    have hput : setToken r p v s = memPut (tokenAddr s r p) (leBytes 4 v.toNat) s := setToken_owned hown p v
    have hown' : OwnsTokens (setToken r p v s) r := by rw [hput]; exact hown
    rw [storeTokens_cons]
    cases i with
    | succ i =>
      rw [← Nat.add_assoc, Nat.add_right_comm]
      exact tokenAt_storeTokens ws (p + 1) hown' hlen'.le i w h
    | zero =>
      obtain rfl : v = w := by simpa using h
      have hctx : ctx (storeTokens r (p + 1) ws (setToken r p v s)) r = ctx (setToken r p v s) r := by
        rw [offMem_eq (offMem_storeTokens ws (p + 1) hown')]; rfl
      have hkept : OwnsTokens (storeTokens r (p + 1) ws (setToken r p v s)) r := by
        rw [offMem_eq (offMem_storeTokens ws (p + 1) hown')]; exact hown'
      have haddr : tokenAddr (storeTokens r (p + 1) ws (setToken r p v s)) r p = tokenAddr s r p := by
        unfold tokenAddr; rw [hctx, hput]; rfl
      have hbytes : memBytes (storeTokens r (p + 1) ws (setToken r p v s)) (tokenAddr s r p) 4 = leBytes 4 v.toNat := by
        have hstay := memBytes_congr (n := 4) (a := tokenAddr s r p) fun j hj =>
          memByte_storeTokens_outside (a := tokenAddr s r p + j) ws (p + 1) hown' fun i hi => by
            rw [hput]; show _ < tokenAddr s r (p + 1 + i) ∨ tokenAddr s r (p + 1 + i) + 4 ≤ _
            unfold tokenAddr; omega
        rw [hstay, hput]
        simpa only [leBytes_length] using memBytes_memPut_same (tokenAddr s r p) (leBytes 4 v.toNat) s
      show tokenAt _ r p = v
      rw [tokenAt_owned hkept, haddr, hbytes, word_of_leBytes]

end

/-! ### The frame owner check on the token buffer (R352) -/

theorem owner_congr {s t : State} (howner : t.ten.owner = s.ten.owner) (hend : t.ten.fwEnd = s.ten.fwEnd) (g : Nat) :
    owner t g = owner s g := by unfold owner; rw [howner, hend]

theorem owner_of_offStep {s t : State} (h : offStep t = offStep s) : ∀ g, owner t g = owner s g :=
  owner_congr (congrArg (fun x : State => x.ten.owner) h :) (congrArg (fun x : State => x.ten.fwEnd) h :)

/-- An access turned away by the frame owner check leaves device memory, the context records and the frames' owners. -/
theorem servingFault_keeps (b f blk : Nat) (write : Bool) (s : State) :
    (servingFault b f blk write s).mem = s.mem ∧ (servingFault b f blk write s).memKeys = s.memKeys
      ∧ (servingFault b f blk write s).srv.ctx = s.srv.ctx ∧ ∀ g, owner (servingFault b f blk write s) g = owner s g := by
  unfold servingFault
  generalize hx : ownerFault b f blk write _ s = x
  refine ⟨by rw [endStep_mem, ← hx, ownerFault_mem], by rw [endStep_memKeys, ← hx, ownerFault_memKeys],
    by rw [endStep_srv_ctx, ← hx, ownerFault_srv], fun g => ?_⟩
  rw [owner_of_offStep (offStep_endStep b x), ← hx]
  unfold ownerFault
  exact owner_congr (by rw [raise_ten]) (by rw [raise_ten]) g

theorem servingFault_dead (b f blk : Nat) (write : Bool) (s : State) : (brun (servingFault b f blk write s) b).dead = true :=
  endStep_dead _ _

theorem storeTokens_foreign {r : Nat} : ∀ (ws : List W32) (p : Nat) {s : State}, ¬ OwnsTokens s r →
    (storeTokens r p ws s).mem = s.mem ∧ (storeTokens r p ws s).memKeys = s.memKeys
      ∧ (ws ≠ [] → (brun (storeTokens r p ws s) (tenantOf s r)).dead = true)
  | [], _, _, _ => ⟨rfl, rfl, fun h => absurd rfl h⟩
  | w :: ws, p, s, h => by
    have hput := setToken_foreign h p w
    obtain ⟨hmem, hkeys, hctx, howner⟩ := servingFault_keeps (tenantOf s r) (ctx s r).tokbuf.toNat (tokenAddr s r p % 65536 / 256) true s
    rw [← hput] at hmem hkeys hctx howner
    have hrec : ctx (setToken r p w s) r = ctx s r := by unfold ctx; rw [hctx]
    have htenant : tenantOf (setToken r p w s) r = tenantOf s r := by unfold tenantOf; rw [hrec]
    have hforeign : ¬ OwnsTokens (setToken r p w s) r := by unfold OwnsTokens; rw [howner, hrec, htenant]; exact h
    obtain ⟨hmem', hkeys', hdead⟩ := storeTokens_foreign ws (p + 1) hforeign
    rw [storeTokens_cons]
    refine ⟨hmem'.trans hmem, hkeys'.trans hkeys, fun _ => ?_⟩
    cases ws with
    | nil => rw [storeTokens_nil, hput]; exact servingFault_dead ..
    | cons v vs => rw [← htenant]; exact hdead (List.cons_ne_nil v vs)

/-! ### TOKEN_FILL -/

/-- `n` more tokens of the record's prompt counted as filled. -/
def countFilled (r n : Nat) (s : State) : State := modCtxRun r (fun q => { q with filled := q.filled + n }) s

@[simp] theorem countFilled_srv_ctx (r n : Nat) (s : State) : (countFilled r n s).srv.ctx = s.srv.ctx := rfl
theorem ctxRun_countFilled (r n : Nat) (s : State) (x : Nat) : ctxRun (countFilled r n s) x =
    if x = r then { ctxRun s r with filled := (ctxRun s r).filled + n } else ctxRun s x := ctxRun_modCtxRun ..

/-- A fill writes its tokens, counts them, and has the ladle read on while the ring lacks more. -/
theorem fillRing_eq (r : Nat) (ws : List W32) (s : State) : fillRing r ws s =
    (let t := countFilled r ws.length (storeTokens r (ctxRun s r).filled ws s)
     if (ctxRun s r).filled + ws.length < (ctxRun s r).fillEnd then readTokens r t else t) := rfl

theorem offReads_fillRing (r : Nat) (ws : List W32) (s : State) :
    offReads (fillRing r ws s) = offReads (countFilled r ws.length (storeTokens r (ctxRun s r).filled ws s)) := by
  rw [fillRing_eq]; dsimp only; split
  · exact offReads_startRead ..
  · rfl

theorem fillRing_foreign {r : Nat} {ws : List W32} {s : State} (h : ¬ OwnsTokens s r) (hws : ws ≠ []) :
    MemKept s (fillRing r ws s) ∧ (brun (fillRing r ws s) (tenantOf s r)).dead = true := by
  obtain ⟨hmem, hkeys, hdead⟩ := storeTokens_foreign ws (ctxRun s r).filled h
  have hreads := offReads_fillRing r ws s
  refine ⟨memKept_of_eq ((mem_of_offReads hreads).trans hmem) ((memKeys_of_offReads hreads).trans hkeys), ?_⟩
  unfold brun at *; rw [ten_of_offReads hreads]; exact hdead hws

theorem storeTokens_frame {r : Nat} {ws : List W32} {s : State} (h : ws = [] ∨ OwnsTokens s r) (p : Nat) :
    offMem (storeTokens r p ws s) = offMem s := by
  rcases h with rfl | h
  · rfl
  · exact offMem_storeTokens ws p h

/-- A fill of the record's own frame, or of no token, leaves all but the record's count of tokens, the tokens' bytes and the ladle's
reads. -/
theorem fillRing_frame {r : Nat} {ws : List W32} {s : State} (h : ws = [] ∨ OwnsTokens s r) :
    offMem (offReads (fillRing r ws s)) = offMem (offReads (countFilled r ws.length s)) := by
  rw [offReads_fillRing, offMem_eq (storeTokens_frame h _)]; rfl

theorem readsTokens_fillRing {r : Nat} {ws : List W32} {s : State} (h : ws = [] ∨ OwnsTokens s r) (hnone : ¬ readsTokens r s) :
    readsTokens r (fillRing r ws s) ↔ (ctxRun s r).filled + ws.length < (ctxRun s r).fillEnd := by
  rw [fillRing_eq]; dsimp only; split <;> rename_i hmore
  · exact iff_of_true (readsTokens_readTokens ..) hmore
  · refine iff_of_false ?_ hmore
    rw [offMem_eq (storeTokens_frame h _)]; exact hnone

theorem memByte_fillRing (r : Nat) (ws : List W32) (s : State) (a : Nat) :
    memByte (fillRing r ws s) a = memByte (storeTokens r (ctxRun s r).filled ws s) a := by
  have hreads := offReads_fillRing r ws s
  exact memKept_of_eq (mem_of_offReads hreads) (memKeys_of_offReads hreads) a

theorem tokenAt_congr {s t : State} (hctx : t.srv.ctx = s.srv.ctx) (hten : t.ten = s.ten) (hmem : MemKept s t) (r p : Nat) :
    tokenAt t r p = tokenAt s r p := by
  unfold tokenAt memOf tenantOf ctx owner
  rw [hctx, hten, memBytes_congr fun i _ => hmem _]

theorem tokenAt_fillRing (r : Nat) (ws : List W32) (s : State) (p : Nat) :
    tokenAt (fillRing r ws s) r p = tokenAt (storeTokens r (ctxRun s r).filled ws s) r p := by
  have hreads := offReads_fillRing r ws s
  refine tokenAt_congr ?_ (ten_of_offReads hreads) (memByte_fillRing r ws s) r p
  rw [srv_of_offReads hreads, countFilled_srv_ctx]

/-- The tokens that a fill takes: no more than the record's ring lacks, nor than lie within 16,384 positions from LENGTH (R272). -/
def roomFor (s : State) (r : Nat) : Nat :=
  min ((ctxRun s r).fillEnd - (ctxRun s r).filled) ((ctx s r).length.toNat + 16384 - (ctxRun s r).filled)

/-- The record takes prompt tokens: it has work, no extension waits, no end is decided, and the link's encryption does not hold reads. -/
structure TakesTokens (s : State) (r : Nat) : Prop where
  work   : hasWork s r = true
  extend : (ctxRun s r).extend = none
  goes   : (ctxRun s r).endWith = none
  opened : (ctx s r).st ≠ 0
  stays  : (ctx s r).st ≠ 4
  reads  : s.host.ideHold = false

/-- The state once the read that brought tokens for record `r` is over. -/
def readOver (r : Nat) (s : State) : State := dropReads (· == .tokens r) s

theorem exec_tokenFill {rec : Fin 262144} {s : State} (h : TakesTokens s rec) (ts : List W32) : exec (.tokenFill rec ts) s = .next (
    if (ts.take (roomFor s rec)).any fun t => decide (plVocab (planOf s (tenantOf s rec)) ≤ t.toNat)
    then failWork rec 7 (readOver rec s) else fillRing rec (ts.take (roomFor s rec)) (readOver rec s)) := by
  obtain ⟨hwork, hext, hend, hopen, hstay, hreads⟩ := h
  show execTokenFill rec ts s = _
  unfold execTokenFill; dsimp only
  rw [if_neg (by simpa [hwork, hext, hend, hreads] using ⟨hopen, hstay⟩)]; rfl

/-- What the fill of `n` tokens `ws` at position `p0` of record `r`'s ring leaves. -/
def TokensFilled (r p0 n : Nat) (ws : List W32) (s t : State) : Prop :=
  t.srv.ctx = s.srv.ctx ∧ t.ten = s.ten ∧ t.out = s.out
    ∧ ctxRun t r = { ctxRun s r with filled := p0 + n } ∧ (∀ x, x ≠ r → ctxRun t x = ctxRun s x)
    ∧ (readsTokens r t ↔ p0 + n < (ctxRun s r).fillEnd)
    ∧ (n ≤ 16384 → ∀ i < n, ∀ x, ws[i]? = some x → tokenAt t r (p0 + i) = x)
    ∧ ∀ a, (∀ i < n, a < tokenAddr s r (p0 + i) ∨ tokenAddr s r (p0 + i) + 4 ≤ a) → memByte t a = memByte s a

theorem filled_fillRing {r : Nat} {ws : List W32} {s : State} (h : ws = [] ∨ OwnsTokens s r) (hnone : ¬ readsTokens r s) :
    TokensFilled r (ctxRun s r).filled ws.length ws s (fillRing r ws s) := by
  have hframe := fillRing_frame h
  have hrun : ∀ x, ctxRun (fillRing r ws s) x = ctxRun (countFilled r ws.length s) x := fun x => by
    unfold ctxRun; rw [show (fillRing r ws s).srv = (countFilled r ws.length s).srv from (congrArg State.srv hframe :)]
  refine ⟨(congrArg (fun x : State => x.srv.ctx) hframe :), (congrArg State.ten hframe :), (congrArg State.out hframe :), ?_,
    fun x hx => ?_, readsTokens_fillRing h hnone, fun hlen i hi w hw => ?_, fun a ha => ?_⟩
  · rw [hrun, ctxRun_countFilled, if_pos rfl]
  · rw [hrun, ctxRun_countFilled, if_neg hx]
  · have hown : OwnsTokens s r := h.resolve_left (List.ne_nil_of_length_pos (Nat.zero_lt_of_lt hi))
    rw [tokenAt_fillRing]; exact tokenAt_storeTokens ws _ hown hlen i w hw
  · rw [memByte_fillRing]
    rcases h with rfl | h
    · rfl
    · exact memByte_storeTokens_outside ws _ h ha

/-! ### A command that fails (R264, R272) -/

theorem endWork_srv (r status : Nat) (s : State) : (endWork r status s).srv = s.srv := by
  unfold endWork; split
  · rfl
  · rw [dropReads_srv]; exact finish_srv ..

theorem memKept_endWork (r status : Nat) (s : State) : MemKept s (endWork r status s) := by
  unfold endWork; split
  · exact fun _ => rfl
  · exact memKept_of_eq (by rw [dropReads_mem]; exact finish_mem ..) (by rw [dropReads_memKeys]; exact finish_memKeys ..)

theorem workOf_setWork_same (r : Nat) (w : Option Work) (s : State) : workOf (setWork r w s) r = w := look_put_same _ _ _ _

theorem workOf_endWork (r status : Nat) (s : State) : workOf (endWork r status s) r = none := by
  unfold endWork; split <;> rename_i hwork
  · exact hwork
  · unfold workOf; rw [dropReads_host_work]; exact workOf_setWork_same ..

theorem ctxRun_decideEnd (c status : Nat) (s : State) (r : Nat) : ctxRun (decideEnd c status s) r =
    if r = c then { ctxRun s c with endWith := (ctxRun s c).endWith.orElse fun _ => some (BitVec.ofNat 8 status) } else ctxRun s r :=
  ctxRun_modCtxRun ..

/-- The first decision of a record's end stands (R383). -/
theorem endWith_decideEnd_of_some {r status : Nat} {s : State} {e : Byte} (h : (ctxRun s r).endWith = some e) (c : Nat) :
    (ctxRun (decideEnd c status s) r).endWith = some e := by
  rw [ctxRun_decideEnd]; split <;> rename_i hc
  · subst hc; rw [h]; rfl
  · exact h

theorem endWith_failWork {r : Nat} {s : State} (h : (ctxRun s r).endWith = none) (status : Nat) :
    (ctxRun (failWork r status s) r).endWith = some (BitVec.ofNat 8 status) := by
  unfold failWork
  refine forAll_invariant (l := (partner s r).toList) (s := decideEnd r status (endWork (ownerOf s r) status s))
    (P := fun t => (ctxRun t r).endWith = some (BitVec.ofNat 8 status)) (fun c _ t ht => endWith_decideEnd_of_some ht c) ?_
  have hrun : ctxRun (endWork (ownerOf s r) status s) r = ctxRun s r := by unfold ctxRun; rw [endWork_srv]
  rw [ctxRun_decideEnd, if_pos rfl, hrun, h]; rfl

theorem failWork_srv_ctx (r status : Nat) (s : State) : (failWork r status s).srv.ctx = s.srv.ctx := by
  unfold failWork
  rw [forAll_keeps (fun t => t.srv.ctx) (decideEnd · status) (fun _ _ => rfl), endWork_srv]

theorem failWork_ten (r status : Nat) (s : State) : (failWork r status s).ten = s.ten := ten_of_control (control_failWork r status s)

theorem memKept_failWork (r status : Nat) (s : State) : MemKept s (failWork r status s) := by
  unfold failWork
  exact forAll_invariant (P := MemKept s) (fun _ _ _ ht => ht) (memKept_endWork _ _ s)

theorem workOf_failWork (r status : Nat) (s : State) : workOf (failWork r status s) (ownerOf s r) = none := by
  unfold failWork workOf
  rw [forAll_keeps (fun t => t.host.work) (decideEnd · status) (fun _ _ => rfl)]
  exact workOf_endWork ..

/-! ### The three outcomes of TOKEN_FILL -/

section
variable {rec : Fin 262144} {s : State}

theorem readOver_ctx (r x : Nat) (s : State) : ctx (readOver r s) x = ctx s x := by unfold readOver ctx; rw [dropReads_srv]
theorem readOver_ctxRun (r x : Nat) (s : State) : ctxRun (readOver r s) x = ctxRun s x := by unfold readOver ctxRun; rw [dropReads_srv]
theorem readOver_ten (r : Nat) (s : State) : (readOver r s).ten = s.ten := dropReads_ten _ s
theorem memKept_readOver (r : Nat) (s : State) : MemKept s (readOver r s) := memKept_of_eq (dropReads_mem _ s) (dropReads_memKeys _ s)

theorem tokenAddr_readOver (r x p : Nat) (s : State) : tokenAddr (readOver r s) x p = tokenAddr s x p := by
  unfold tokenAddr; rw [readOver_ctx]
theorem tenantOf_readOver (r x : Nat) (s : State) : tenantOf (readOver r s) x = tenantOf s x := by unfold tenantOf; rw [readOver_ctx]
theorem ownerOf_readOver (r x : Nat) (s : State) : ownerOf (readOver r s) x = ownerOf s x := by
  unfold ownerOf partner; simp only [readOver_ctx]
theorem ownsTokens_readOver (r : Nat) (s : State) : OwnsTokens (readOver r s) r ↔ OwnsTokens s r := by
  unfold OwnsTokens owner; rw [tenantOf_readOver, readOver_ctx, readOver_ten]

/-- Tokens below VOCAB are written. -/
theorem exec_tokenFill_good (h : TakesTokens s rec) {ts : List W32}
    (hgood : ∀ x ∈ ts.take (roomFor s rec), x.toNat < plVocab (planOf s (tenantOf s rec))) :
    exec (.tokenFill rec ts) s = .next (fillRing rec (ts.take (roomFor s rec)) (readOver rec s)) := by
  rw [exec_tokenFill h, if_neg]
  simpa using hgood

theorem tokenFill_foreign (h : TakesTokens s rec) {ts : List W32}
    (hgood : ∀ x ∈ ts.take (roomFor s rec), x.toNat < plVocab (planOf s (tenantOf s rec)))
    (hforeign : ¬ OwnsTokens s rec) (hsome : ts.take (roomFor s rec) ≠ []) :
    ∃ t, exec (.tokenFill rec ts) s = .next t ∧ MemKept s t ∧ (brun t (tenantOf s rec)).dead = true := by
  obtain ⟨hmem, hdead⟩ := fillRing_foreign (mt (ownsTokens_readOver rec s).mp hforeign) hsome
  rw [tenantOf_readOver] at hdead
  exact ⟨_, exec_tokenFill_good h hgood, memKept_trans (memKept_readOver _ s) hmem, hdead⟩

theorem tokenFill_stored (h : TakesTokens s rec) {ts : List W32}
    (hgood : ∀ x ∈ ts.take (roomFor s rec), x.toNat < plVocab (planOf s (tenantOf s rec)))
    (hown : ts.take (roomFor s rec) = [] ∨ OwnsTokens s rec) :
    ∃ t, exec (.tokenFill rec ts) s = .next t
      ∧ TokensFilled rec (ctxRun s rec).filled (ts.take (roomFor s rec)).length (ts.take (roomFor s rec)) s t := by
  obtain ⟨hctx, hten, hout, hrun, hothers, hreads, htokens, hbytes⟩ :=
    filled_fillRing (hown.imp_right (ownsTokens_readOver rec s).mpr) (not_readsTokens_dropReads rec s)
  simp only [readOver_ctxRun, tokenAddr_readOver] at *
  refine ⟨_, exec_tokenFill_good h hgood, ?_, hten.trans (readOver_ten rec s), ?_, hrun, hothers, hreads, htokens,
    fun a ha => (hbytes a ha).trans (memKept_readOver rec s a)⟩
  · rw [hctx]; unfold readOver; rw [dropReads_srv]
  · rw [hout]; unfold readOver; rw [dropReads_out]

theorem tokenFill_bad (h : TakesTokens s rec) {ts : List W32}
    (hbad : ∃ x ∈ ts.take (roomFor s rec), plVocab (planOf s (tenantOf s rec)) ≤ x.toNat) :
    ∃ t, exec (.tokenFill rec ts) s = .next t ∧ t.srv.ctx = s.srv.ctx ∧ t.ten = s.ten ∧ MemKept s t
      ∧ (ctxRun t rec).endWith = some 7 ∧ workOf t (ownerOf s rec) = none := by
  have hexec : exec (.tokenFill rec ts) s = .next (failWork rec 7 (readOver rec s)) := by
    rw [exec_tokenFill h, if_pos]
    simpa using hbad
  refine ⟨_, hexec, ?_, (failWork_ten ..).trans (readOver_ten rec s),
    memKept_trans (memKept_readOver _ s) (memKept_failWork _ _ _), endWith_failWork (by rw [readOver_ctxRun]; exact h.goes) 7, ?_⟩
  · rw [failWork_srv_ctx]; unfold readOver; rw [dropReads_srv]
  · rw [← ownerOf_readOver rec rec s]; exact workOf_failWork ..

end

end Sys2Proof.Machine
end

section
/-! SUPPORT. A copy that completes (R279): what its accesses for one binding leave, with or without an owner fault (R352). -/

open Sys2Proof Sys2Proof.Machine Sys2Proof.Spec

namespace Sys2Proof.Machine

/-! ### Accesses of the control core and the ladle for a binding (R352) -/

/-- What accesses for binding `b` leave: the context records and the copies they wait for, and, unless an owner fault ended the tenant's
step, all that firmware holds of the records. -/
structure Accessed (b : Nat) (s t : State) : Prop where
  ctx  : t.srv.ctx = s.srv.ctx
  copy : ∀ x, (ctxRun t x).copyFrom = (ctxRun s x).copyFrom
  live : (brun t b).dead = false → (brun s b).dead = false ∧ t.srv.run = s.srv.run

namespace Accessed

variable {b : Nat} {s t u : State}

theorem refl (b : Nat) (s : State) : Accessed b s s := ⟨rfl, fun _ => rfl, fun h => ⟨h, rfl⟩⟩

theorem trans (h : Accessed b s t) (g : Accessed b t u) : Accessed b s u := by
  refine ⟨g.ctx.trans h.ctx, fun x => (g.copy x).trans (h.copy x), fun hu => ?_⟩
  obtain ⟨ht, hgrun⟩ := g.live hu
  obtain ⟨hs, hrun⟩ := h.live ht
  exact ⟨hs, hgrun.trans hrun⟩

/-- What leaves the records and does not end or begin a step. -/
theorem of_srv (hsrv : t.srv = s.srv) (hdead : (brun t b).dead = (brun s b).dead) : Accessed b s t := by
  refine ⟨by rw [hsrv], fun x => by unfold ctxRun; rw [hsrv], fun h => ⟨hdead ▸ h, by rw [hsrv]⟩⟩

/-- A fold of accesses is one. -/
theorem forAll {α : Type} {f : α → State → State} (h : ∀ a s, Accessed b s (f a s)) (l : List α) (s : State) :
    Accessed b s (forAll l f s) :=
  forAll_invariant (P := Accessed b s) (fun a _ t ht => ht.trans (h a t)) (refl b s)

end Accessed

section
variable (b : Nat)

theorem copyFrom_endStep (s : State) (x : Nat) : (ctxRun (endStep b s) x).copyFrom = (ctxRun s x).copyFrom := by
  unfold endStep abandonStep
  rw [ctxRun_modBrun, forAll_keeps (fun t => (ctxRun t x).copyFrom), forAll_keeps (fun t => (ctxRun t x).copyFrom),
    forAll_keeps (fun t => (ctxRun t x).copyFrom)]
  · intro k t
    exact forAll_keeps (fun t => (ctxRun t x).copyFrom) _ (fun _ _ => by rfl) _ _
  · exact fun _ _ => rfl
  · intro c t
    rw [ctxRun_modCtxRun]; split <;> rename_i hc
    · rw [hc]; rfl
    · rfl

theorem accessed_servingFault (f blk : Nat) (write : Bool) (s : State) : Accessed b s (servingFault b f blk write s) := by
  obtain ⟨-, -, hctx, -⟩ := servingFault_keeps b f blk write s
  refine ⟨hctx, fun x => ?_, fun h => ?_⟩
  · unfold servingFault; rw [copyFrom_endStep, ctxRun_ownerFault]
  · rw [servingFault_dead] at h; cases h

theorem accessed_putOf (a : Nat) (bs : List Byte) (s : State) : Accessed b s (putOf b a bs s) := by
  unfold putOf; split
  · exact .of_srv rfl rfl
  · exact accessed_servingFault ..

theorem accessed_readChecked (f : Nat) (s : State) : Accessed b s (readChecked b f s) := by
  unfold readChecked; split
  · exact .refl b s
  · exact accessed_servingFault ..

theorem accessed_layNode (n : Nat) (s : State) : Accessed b s (layNode b n s) := by
  unfold layNode; split
  · exact .refl b s
  · exact accessed_putOf ..

theorem accessed_modNode (n : Nat) (f : Node → Node) (s : State) : Accessed b s (modNode b n f s) := by
  unfold modNode; split
  · exact .refl b s
  · refine .trans ?_ (.forAll (accessed_layNode b) _ _)
    exact .of_srv rfl (by rw [brun_modBrun_same])

theorem accessed_copyPages (rec pg : Nat) (y : Node) (s : State) : Accessed b s (copyPages b rec pg y s) := by
  refine .forAll (fun q t => ?_) y.frames s
  dsimp only; split
  · exact .refl b t
  · exact (accessed_readChecked b q.2 t).trans (accessed_putOf ..)

end

/-! ### COPY_COMPLETE -/

/-- COPYING cleared and the copy counted in COPIES. -/
def copyCounted (r : Nat) (s : State) : State :=
  bumpHome (tenantOf s r) 0x81C 1 (modCtx r (fun x => { x with copying := false }) s)

/-- The pages of the node that record `r` copies, if the tree still has it. -/
def copyNode (r n : Nat) (s : State) : State :=
  match node (copyCounted r s) (tenantOf s r) n with
  | some y => copyPages (tenantOf s r) r ((ctx (copyCounted r s) r).length.toNat / pageTokens (planOf s (tenantOf s r))) y (copyCounted r s)
  | none => copyCounted r s

/-- The record waits for no copy, and the node is no longer matched. -/
def copyDropped (r n : Nat) (s : State) : State :=
  modCtxRun r (fun q => { q with copyFrom := none, matched := q.matched.filter (· != n) }) s

theorem exec_copyComplete_idle {rec : Fin 262144} {s : State} (h : (ctx s rec).copying = false) :
    exec (.copyComplete rec) s = .next s := by
  show execCopyComplete rec s = _
  unfold execCopyComplete; rw [if_pos (by simp [h])]

theorem exec_copyComplete {rec : Fin 262144} {s : State} (h : (ctx s rec).copying = true) : exec (.copyComplete rec) s = .next (
    match (ctxRun s rec).copyFrom with
    | none => copyCounted rec s
    | some n => modNode (tenantOf s rec) n (fun y => { y with pins := y.pins - 1 }) (copyDropped rec n (copyNode rec n s))) := by
  show execCopyComplete rec s = _
  unfold execCopyComplete
  rw [if_neg (by simp [h])]; rfl

theorem ctx_copyCounted (r : Nat) (s : State) (x : Nat) :
    ctx (copyCounted r s) x = if x = r then { ctx s r with copying := false } else ctx s x := by
  unfold copyCounted bumpHome; rw [ctx_bump, ctx_modCtx]

theorem ctxRun_copyCounted (r : Nat) (s : State) (x : Nat) : ctxRun (copyCounted r s) x = ctxRun s x := by
  unfold copyCounted bumpHome; rw [ctxRun_bump, ctxRun_modCtx]

theorem accessed_copyNode (r n : Nat) (s : State) : Accessed (tenantOf s r) (copyCounted r s) (copyNode r n s) := by
  unfold copyNode; split
  · exact accessed_copyPages ..
  · exact .refl ..

/-- The copy is dropped, and without an owner fault nothing else of the records changes. -/
def CopyOver (r : Nat) (s t : State) : Prop :=
  (ctx t r).copying = false ∧ (ctxRun t r).copyFrom = none
    ∧ ((brun t (tenantOf s r)).dead = false → ctx t r = { ctx s r with copying := false }
      ∧ ∀ x, x ≠ r → ctx t x = ctx s x ∧ ctxRun t x = ctxRun s x)

theorem copyOver_of_ctx {r : Nat} {s t : State} (hctx : t.srv.ctx = (copyCounted r s).srv.ctx) (hcopy : (ctxRun t r).copyFrom = none)
    (hruns : (brun t (tenantOf s r)).dead = false → ∀ x, x ≠ r → ctxRun t x = ctxRun s x) : CopyOver r s t := by
  have hrec : ∀ x, ctx t x = if x = r then { ctx s r with copying := false } else ctx s x := fun x => by
    rw [← ctx_copyCounted]; unfold ctx; rw [hctx]
  have hthis : ctx t r = { ctx s r with copying := false } := by rw [hrec, if_pos rfl]
  exact ⟨by rw [hthis], hcopy, fun h => ⟨hthis, fun x hx => ⟨by rw [hrec, if_neg hx], hruns h x hx⟩⟩⟩

theorem copyOver_copied (r n : Nat) (s : State) (f : Node → Node) :
    CopyOver r s (modNode (tenantOf s r) n f (copyDropped r n (copyNode r n s))) := by
  have hcopied := accessed_copyNode r n s
  have hlaid := accessed_modNode (tenantOf s r) n f (copyDropped r n (copyNode r n s))
  refine copyOver_of_ctx (hlaid.ctx.trans hcopied.ctx) ?_ fun hdead x hx => ?_
  · rw [hlaid.copy]; unfold copyDropped; rw [ctxRun_modCtxRun_same]
  · obtain ⟨hlive, hrun⟩ := hlaid.live hdead
    obtain ⟨-, hrun'⟩ := hcopied.live hlive
    calc ctxRun (modNode (tenantOf s r) n f (copyDropped r n (copyNode r n s))) x
        = ctxRun (copyDropped r n (copyNode r n s)) x := by unfold ctxRun; rw [hrun]
      _ = ctxRun (copyNode r n s) x := by unfold copyDropped; rw [ctxRun_modCtxRun, if_neg hx]
      _ = ctxRun (copyCounted r s) x := by unfold ctxRun; rw [hrun']
      _ = ctxRun s x := ctxRun_copyCounted r s x

theorem copyComplete_spec (rec : Fin 262144) (s : State) (h : (ctx s rec).copying = true) :
    ∃ t, exec (.copyComplete rec) s = .next t ∧ CopyOver rec s t := by
  refine ⟨_, exec_copyComplete h, ?_⟩
  split <;> rename_i hcopy
  · exact copyOver_of_ctx rfl (by rw [ctxRun_copyCounted, hcopy]) fun _ x _ => ctxRun_copyCounted rec s x
  · exact copyOver_copied ..

end Sys2Proof.Machine

/-- Settles O48, by the three outcomes of a fill (tokens written, a frame of another owner, a token of VOCAB or above) and by what a
copy's accesses leave of the records. -/
theorem promptTokensAndCopies : Obligations.PromptTokensAndCopies := by
  unfold Obligations.PromptTokensAndCopies
  refine ⟨fun rec ts n p0 s hwork hext hend hopen hstay hreads hp0 hn => ?_,
    fun rec s => ⟨exec_copyComplete_idle, copyComplete_spec rec s⟩⟩
  have htakes : TakesTokens s rec := ⟨hwork, hext, hend, hopen, hstay, hreads⟩
  subst hp0
  have htake : ts.take n = ts.take (roomFor s rec) := by rw [hn]; exact List.take_eq_take_iff.mpr (by unfold roomFor; omega)
  have hlen : (ts.take (roomFor s rec)).length = n := by rw [List.length_take, hn]; unfold roomFor; omega
  rw [htake]
  refine ⟨fun hgood hforeign hpos => tokenFill_foreign htakes hgood hforeign (List.ne_nil_of_length_pos (hlen ▸ hpos)),
    fun hgood hown => ?_, tokenFill_bad htakes⟩
  obtain ⟨t, ht, hfilled⟩ := tokenFill_stored htakes hgood (hown.imp_left fun h => List.eq_nil_of_length_eq_zero (hlen.trans h))
  rw [hlen, ← htake] at hfilled
  obtain ⟨hctx, hten, hout, hrun, hothers, hmore, htokens, hbytes⟩ := hfilled
  refine ⟨t, ht, hctx, hten, hout, hrun, hothers, hmore, fun hring i hi x hx => htokens hring i hi x ?_, hbytes⟩
  rw [List.getElem?_take_of_lt hi]; exact hx
end

section
/-! SUPPORT. The opening of a main record whose draft cannot be had (R286): the main's opening is undone, and its record's index leaves the
queue of its binding. -/

open Sys2Proof Sys2Proof.Machine Sys2Proof.Spec

namespace Sys2Proof.Machine

/-! ### A packet taken (R374, R389) -/

/-- The state in which the command of a packet read is dispatched: it is accepted and outstanding, with `k` completion entries reserved. -/
def acceptedPacket (c : Cmd) (k : Nat) (s : State) : State :=
  let g := ring s c.ring
  setRing { s with host := { s.host with packetNo := s.host.packetNo + 1 } } c.ring
    { g with accepted := g.accepted + 1, outstanding := g.outstanding + 1, reserved := g.reserved + k }

theorem asPacket_taken {op k : Nat} {c : Cmd} {s : State} (h : Taken op k c s) (f : State → State) :
    asPacket op c k f s = f (acceptedPacket c k s) := by
  obtain ⟨hclean, hphase, hquiesce, hide, hroom⟩ := h
  unfold asPacket; dsimp only
  rw [if_neg (by simp [hphase, hquiesce, hide]), if_neg (by simp [hclean]), if_neg hroom.not_gt]; rfl

theorem exec_prefillOpen {c : Cmd} {s : State} (h : Taken 0x10 2 c s) (d : CmdData) :
    exec (.prefillOpen c d) s = .next (doOpen c d (acceptedPacket c 2 s)) :=
  congrArg Host.Outcome.next (asPacket_taken h (doOpen c d))

theorem replyRec_srv (c : Cmd) (n status : Nat) (s : State) : (replyRec c n status s).srv = s.srv := finish_srv ..
theorem replyRec_ten (c : Cmd) (n status : Nat) (s : State) : (replyRec c n status s).ten = s.ten := finish_ten ..

/-! ### Frames of a binding whose tree is empty (R232, R351) -/

/-- What the allocation of frames for a binding without leaves to evict leaves: serving, the link, firmware's data of the bindings, and
the entries of the other bindings. -/
structure FramesTaken (b : Nat) (s t : State) : Prop where
  srv     : t.srv = s.srv
  runs    : t.ten.runs = s.ten.runs
  entries : ∀ x, x ≠ b → entry t x = entry s x

theorem FramesTaken.trans {b : Nat} {s t u : State} (h : FramesTaken b s t) (g : FramesTaken b t u) : FramesTaken b s u :=
  ⟨g.srv.trans h.srv, g.runs.trans h.runs, fun x hx => (g.entries x hx).trans (h.entries x hx)⟩

theorem keyFrame_srv (f b : Nat) (s : State) : (keyFrame f b s).srv = s.srv := by
  obtain ⟨k, m, h⟩ := keyFrame_eq f b s
  rw [h]

/-- A frame charged to the binding. -/
theorem framesTaken_allocFrame {b q f : Nat} {s t : State} (h : allocFrame b q true s = some (f, t)) : FramesTaken b s t := by
  unfold allocFrame at h; dsimp only at h
  split at h
  · cases h
  split at h
  · cases h
  split at h
  · cases h
  next f' _ =>
    have hten := taken_ten f' b (.tenant b) s
    have hsrv : (tickFresh (keyFrame f' b (setOwner f' (.tenant b) s))).srv = s.srv := keyFrame_srv ..
    generalize tickFresh (keyFrame f' b (setOwner f' (.tenant b) s)) = x at h hten hsrv
    simp only [if_true, Option.some.injEq, Prod.mk.injEq] at h
    have hcharged : FramesTaken b s (modEntry b (fun e => { e with pageUsed := e.pageUsed + 1 }) x) := by
      refine ⟨hsrv, by rw [modEntry_ten_runs, hten], fun y hy => ?_⟩
      rw [entry_modEntry, if_neg hy]; unfold entry; rw [hten]
    obtain ⟨-, rfl⟩ := h
    split
    · exact hcharged
    · exact ⟨hcharged.srv, hcharged.runs, hcharged.entries⟩

theorem allocCharged_of_bare {b : Nat} {s : State} (h : (brun s b).tree = []) :
    allocCharged b s = allocFrame b (homeCluster s b / 28) true s := by
  unfold allocCharged; rw [h]; rfl

theorem framesTaken_allocMany {b : Nat} : ∀ (n : Nat) (fs : List Nat) {s : State}, (brun s b).tree = [] →
    FramesTaken b s (allocMany b n fs s).2.2
  | 0, _, s, _ => ⟨rfl, rfl, fun _ _ => rfl⟩
  | n + 1, fs, s, h => by
    unfold allocMany; split <;> rename_i hframe
    · exact ⟨rfl, rfl, fun _ _ => rfl⟩
    · rw [allocCharged_of_bare h] at hframe
      have hone := framesTaken_allocFrame hframe
      exact hone.trans (framesTaken_allocMany n _ (by unfold brun; rw [hone.runs]; exact h))

/-- A binding whose quota of pages is used up, with no leaf to evict, gets no frame. -/
theorem allocMany_short {b : Nat} {s : State} (h : (brun s b).tree = []) (hquota : (entry s b).pageQuota.toNat ≤ (entry s b).pageUsed.toNat)
    (n : Nat) (fs : List Nat) : allocMany b (n + 1) fs s = (fs, false, s) := by
  have hnone : allocCharged b s = none := by
    rw [allocCharged_of_bare h]; unfold allocFrame; dsimp only
    rw [if_pos ⟨rfl, hquota⟩]
  unfold allocMany; rw [hnone]

/-! ### A main record whose draft cannot be had (R286) -/

/-- What an opening PREFILL gives its record (R263). -/
def openArgs (c : Cmd) (d : CmdData) : OpenArgs :=
  let pay := c.payload
  let fl := leAt pay 0 1
  { tokens := d.tokens.take (leAt pay 16 4), count := leAt pay 16 4, share := bitOf fl 1, keep := bitOf fl 2, sampled := bitOf fl 3,
    topk := leAt pay 1 1, temp := leAt pay 2 2, seed := leAt pay 4 4, gen := leAt pay 20 4, limit := leAt pay 24 4,
    stop0 := leAt pay 28 4, stop1 := leAt pay 32 4 }

/-- An opening PREFILL of binding `b` may open a pair with draft binding `q`. -/
structure OpensPair (c : Cmd) (d : CmdData) (b q : Nat) (s : State) : Prop where
  binding  : c.binding.toNat = b
  taken    : bindingStatus s c false = none
  sound    : (brun s b).fabricFault = false
  fields   : OpenFields c d s
  allowed  : recordAllowed s b = true
  draft    : draftBinding s b = some q
  allowedQ : recordAllowed s q = true
  shared   : ([b, q].filter fun x => !(entry s x).reserved).length ≤ sharedRecords s

/-- Where the main's frames can be had and the draft's cannot, the main's opening is undone and the command completes with PAGE_QUOTA. -/
theorem doOpen_undone {c : Cmd} {d : CmdData} {b q : Nat} {s x y : State} (h : OpensPair c d b q s)
    (hmain : openOne b (freeRecord s) 1 (openArgs c d) s = (true, x))
    (hdraft : openOne q (freeRecord x) 2 (openArgs c d) x = (false, y)) :
    doOpen c d s = replyRec c 2 0x0E (bumpHome q 0x824 1 (undoOpen b (freeRecord s) y)) := by
  obtain ⟨rfl, htaken, hsound, hfields, hallowed, hpair, hallowedQ, hshared⟩ := h
  obtain ⟨hrecord, hcount, hcount', hgen, hlimit, hlimit', hcap, htopk, hsampled, htokens, hbad, haddr, haddr'⟩ := hfields
  unfold openArgs at hmain hdraft
  unfold doOpen
  simp only [htaken, hsound]
  rw [if_neg (by simp), if_neg ?_, if_neg (by simp [hbad, haddr, haddr']), if_neg (by simp [hallowed])]
  · simp only [hpair]
    rw [if_neg (by simp only [hallowedQ]; simpa using hshared)]
    simp only [hmain, hdraft]; simp
  · simp only [hrecord, not_or, ne_eq, not_true_eq_false, not_false_eq_true, true_and, not_lt]
    refine ⟨hcount, hcount', hgen, hlimit, hlimit', hcap, htopk, ?_, ?_⟩
    · rintro ⟨hs, ht⟩
      obtain ⟨hmin, htemp⟩ := hsampled hs
      simp [htemp] at ht; omega
    · simpa using htokens

theorem openOne_short {b : Nat} {s : State} (hbare : (brun s b).tree = [])
    (hquota : (entry s b).pageQuota.toNat ≤ (entry s b).pageUsed.toNat) (r role : Nat) (a : OpenArgs) :
    openOne b r role a s = (false, s) := by
  unfold openOne; dsimp only
  rw [show 3 + ceilDiv (stateBytes (planOf s b)) 65536 = (2 + ceilDiv (stateBytes (planOf s b)) 65536) + 1 by omega,
    allocMany_short hbare hquota]
  rfl

/-- A record opened for a binding whose tree is empty: it names the binding, and firmware's data of the bindings and the entries of the
others stay. -/
theorem openOne_had {b : Nat} {s : State} (hbare : (brun s b).tree = []) (hframes : framesHad s b = true) (r role : Nat) (a : OpenArgs) :
    ∃ x, openOne b r role a s = (true, x) ∧ (ctx x r).tenant = BitVec.ofNat 12 b ∧ x.ten.runs = s.ten.runs
      ∧ ∀ y, y ≠ b → entry x y = entry s y := by
  unfold framesHad at hframes
  have htaken := framesTaken_allocMany (3 + ceilDiv (stateBytes (planOf s b)) 65536) [] hbare
  unfold openOne; dsimp only
  rw [hframes]
  generalize (allocMany b (3 + ceilDiv (stateBytes (planOf s b)) 65536) [] s).1 = fs
  generalize (allocMany b (3 + ceilDiv (stateBytes (planOf s b)) 65536) [] s).2.2 = t at htaken
  obtain ⟨k, m, hclear⟩ := clearFrame_eq (fs.getD 0 0) t
  refine ⟨_, rfl, ?_, ?_, fun y hy => ?_⟩
  · rw [ctx_modEntry, ctx_setCtxRun, ctx_setCtx_same]
  · rw [hclear]; exact htaken.runs
  · rw [entry_modEntry, if_neg hy, hclear]; exact htaken.entries y hy

theorem returnFrame_ten_runs (b : Nat) (paged : Bool) (f : Nat) (s : State) : (returnFrame b paged f s).ten.runs = s.ten.runs := by
  unfold returnFrame; dsimp only; split_ifs <;> rfl

/-- The frames of the record given back leave the records and firmware's data of the bindings. -/
theorem returnFrames_keeps (b : Nat) (fs : List Nat) (s : State) :
    (forAll fs (returnFrame b true) s).srv = s.srv ∧ (forAll fs (returnFrame b true) s).ten.runs = s.ten.runs :=
  ⟨forAll_keeps State.srv _ (returnFrame_srv b true) fs s, forAll_keeps (fun t => t.ten.runs) _ (returnFrame_ten_runs b true) fs s⟩

/-- A record out of its binding's slots and queue. -/
def withoutRecord (r : Nat) (q : BRun) : BRun :=
  { q with slots := q.slots.map fun x => if x = some r then none else x, queued := q.queued.filter (· != r) }

theorem clearRecord_ten_runs (r : Nat) (s : State) :
    (clearRecord r s).ten.runs = (modBrun (tenantOf s r) (withoutRecord r) s).ten.runs := rfl

theorem brun_clearRecord (r : Nat) (s : State) :
    brun (clearRecord r s) (tenantOf s r) = withoutRecord r (brun s (tenantOf s r)) := by
  refine Eq.trans ?_ (brun_modBrun_same (tenantOf s r) (withoutRecord r) s)
  unfold brun; rw [clearRecord_ten_runs]

theorem clearRecord_srv_ctx (r : Nat) (s : State) : (clearRecord r s).srv.ctx = (setCtx s r {}).srv.ctx := rfl

theorem ctx_clearRecord (r : Nat) (s : State) : ctx (clearRecord r s) r = {} := by
  rw [← ctx_setCtx_same s r {}]; unfold ctx; rw [clearRecord_srv_ctx]

theorem undoOpen_spec {b r : Nat} {s : State} (htenant : tenantOf s r = b) :
    ctx (undoOpen b r s) r = {} ∧ (brun (undoOpen b r s) b).queued = (brun s b).queued.filter (· != r) := by
  unfold undoOpen; dsimp only
  generalize [(ctx s r).root.toNat, (ctx s r).tokbuf.toNat, (ctx s r).qstate.toNat] ++ (ctxRun s r).qframes = fs
  obtain ⟨hsrv, hruns⟩ := returnFrames_keeps b fs s
  have hthis : tenantOf (forAll fs (returnFrame b true) s) r = b := by
    unfold tenantOf ctx at *; rw [hsrv]; exact htenant
  have hrun := brun_clearRecord r (forAll fs (returnFrame b true) s)
  rw [hthis] at hrun
  refine ⟨ctx_clearRecord .., ?_⟩
  rw [hrun]; unfold brun; rw [hruns]; rfl

/-- The record is FREE afterwards, and its index has left its binding's queue. -/
theorem doOpen_undone_spec {c : Cmd} {d : CmdData} {b q : Nat} {s : State} (h : OpensPair c d b q s) (hq : q ≠ b)
    (hbare : (brun s b).tree = []) (hframes : framesHad s b = true)
    (hbareQ : (brun s q).tree = []) (hquota : (entry s q).pageQuota.toNat ≤ (entry s q).pageUsed.toNat) :
    (ctx (doOpen c d s) (freeRecord s)).st = 0
      ∧ (brun (doOpen c d s) b).queued = (brun s b).queued.filter (· != freeRecord s) := by
  obtain ⟨x, hmain, htenant, hruns, hentries⟩ := openOne_had hbare hframes (freeRecord s) 1 (openArgs c d)
  have hdraft : openOne q (freeRecord x) 2 (openArgs c d) x = (false, x) :=
    openOne_short (by unfold brun; rw [hruns]; exact hbareQ) (by rw [hentries q hq]; exact hquota) ..
  have hb : tenantOf x (freeRecord s) = b := by
    unfold tenantOf; rw [htenant, ← h.binding, BitVec.toNat_ofNat, Nat.mod_eq_of_lt c.binding.isLt]
  obtain ⟨hrec, hqueue⟩ := undoOpen_spec hb
  rw [doOpen_undone h hmain hdraft]
  refine ⟨?_, ?_⟩
  · unfold ctx; rw [replyRec_srv, bumpHome, bump_srv]; exact congrArg Ctx.st hrec
  · unfold brun at *; rw [replyRec_ten, bumpHome, bump_ten, hqueue, hruns]

/-! ### A FREE record that a queue still names -/

/-- The plan of `quantFirst` as a main plan: its serving block has ROLE 1 (R286). -/
def mainPlan : List Byte := quantFirstPlan.set 386 1

/-- A main binding 1 with room for 10 frames and its draft binding 2 with room for none, on the privileged ring 5. Every record is FREE,
and the queue of binding 1 names record 0. -/
def staleQueue : State :=
  { State.reset with
    su := { phase := 7, enabled := true }
    host := (setRing State.reset 5 { ringReset 5 with priv := true, cqEnable := true }).host
    ten := { State.reset.ten with
      fwEnd := 16, free := 100
      entries := [(1, { st := 3, peer := 2, pageQuota := 10, ctxQuota := 4, ring := 5 }), (2, { st := 3, peer := 1, ctxQuota := 4, ring := 5 })]
      runs := [(1, { plan := mainPlan, queued := [0] }), (2, { plan := quantFirstPlan.set 386 2 })] } }

/-- An opening PREFILL of 3 prompt tokens for binding 1, 16 to generate, limit 100 (Table 12.6). -/
def pairCmd : Cmd :=
  { ring := 5, tag := 7, binding := 1, record := 0xFFFFFFFF
    payload := leBytes 48 (packBits [(1, 32), (0, 32), (0x1000, 64), (3, 32), (16, 32), (100, 32), (0, 64), (0x4000, 64), (64, 32)]) }

/-- Its prompt. -/
def pairPrompt : CmdData := { plan := [], map := [], tokens := [5, 6, 31999], badAddr := false }

theorem taken_staleQueue : Taken 0x10 2 pairCmd staleQueue := by
  refine ⟨?_, ?_, ?_, ?_, ?_⟩ <;> decide +kernel

theorem prompt_staleQueue : (pairPrompt.tokens.take (leAt pairCmd.payload 16 4)).all
    (fun t => decide (t.toNat < plVocab (planOf staleQueue 1))) = true := by decide +kernel

theorem openFields_staleQueue : OpenFields pairCmd pairPrompt staleQueue := by
  refine ⟨?_, ?_, ?_, ?_, ?_, ?_, ?_, ?_, ?_, fun t ht => of_decide_eq_true (List.all_eq_true.mp prompt_staleQueue t ht), ?_, ?_, ?_⟩
    <;> decide +kernel

theorem opensPair_staleQueue : OpensPair pairCmd pairPrompt 1 2 staleQueue := by
  refine ⟨rfl, ?_, ?_, openFields_staleQueue, ?_, ?_, ?_, ?_⟩ <;> decide +kernel

/-- The acceptance of the packet changes nothing that the opening looks at. -/
theorem opensPair_accepted : OpensPair pairCmd pairPrompt 1 2 (acceptedPacket pairCmd 2 staleQueue) := by
  obtain ⟨hbinding, htaken, hsound, hfields, hallowed, hdraft, hallowedQ, hshared⟩ := opensPair_staleQueue
  exact ⟨hbinding, by decide +kernel, hsound, hfields, hallowed, hdraft, hallowedQ, hshared⟩

/-- The main's frames can be had, wherever the free choice of frames falls (log entry 6). -/
theorem mainFrames_staleQueue : framesHad (acceptedPacket pairCmd 2 staleQueue) 1 = true :=
  allocMany_room [] ⟨by decide +kernel, .inr (by decide +kernel), by decide +kernel⟩

/-- The opening is undone: the record is FREE, and the queue is empty. -/
theorem opened_staleQueue : ∃ t, exec (.prefillOpen pairCmd pairPrompt) staleQueue = .next t ∧ (ctx t 0).st = 0 ∧ (brun t 1).queued = [] := by
  obtain ⟨hfree, hqueue⟩ := doOpen_undone_spec opensPair_accepted (by decide) rfl mainFrames_staleQueue rfl (by decide +kernel)
  exact ⟨_, exec_prefillOpen taken_staleQueue pairPrompt, hfree, hqueue.trans (by decide +kernel)⟩

end Sys2Proof.Machine

/-- Refutes O45: its last part says that where no pair is opened the queue of the main's binding is as it was. Where the draft's frames
cannot be had the main's opening is undone, and an undone record's index leaves the queue (`undoOpen`); no hypothesis says that the queue
does not name it already. In `staleQueue` it does: record 0 is FREE and the queue of binding 1 is [0], and after the command it is
empty. -/
theorem not_recordsOpened : ¬ Obligations.RecordsOpened := by
  unfold Obligations.RecordsOpened
  intro h
  obtain ⟨hbinding, htaken, hsound, hfields, hallowed, hdraft, hallowedQ, hshared⟩ := opensPair_staleQueue
  obtain ⟨-, -, hopens⟩ := h pairCmd pairPrompt 1 staleQueue taken_staleQueue hbinding.symm
  obtain ⟨-, -, hpairs⟩ := hopens htaken hsound hfields
  obtain ⟨t, ht, houtcome⟩ := hpairs hallowed (by decide +kernel) 2 hdraft (by decide) hallowedQ (by decide +kernel) hshared 0
    (by decide +kernel)
  obtain ⟨u, hu, hfree, hqueue⟩ := opened_staleQueue
  obtain rfl : t = u := by simpa using ht.symm.trans hu
  rcases houtcome with ⟨-, -, hkept, -⟩ | ⟨⟨hqueued, -⟩, -⟩
  · have hstale : (brun staleQueue 1).queued = [0] := rfl
    rw [hqueue, hstale] at hkept
    cases hkept
  · rw [hfree] at hqueued
    exact absurd hqueued (by decide)
end

section
/-! SUPPORT. Writes of the domain map and of the transaction timers (R298, R327, R429), and the statements. -/

open Sys2Proof Sys2Proof.Machine Sys2Proof.Spec

namespace Sys2Proof.Machine

/-! ### A master's write of a fabric register -/

/-- A management controller's write is counted as a message, and that is all. -/
theorem byMgmt_eq (m : Master) (s : State) : byMgmt m s = { s with ident := (byMgmt m s).ident } := by
  unfold byMgmt; split <;> rfl

@[simp] theorem byMgmt_fab (m : Master) (s : State) : (byMgmt m s).fab = s.fab := by rw [byMgmt_eq]
@[simp] theorem byMgmt_err (m : Master) (s : State) : (byMgmt m s).err = s.err := by rw [byMgmt_eq]
@[simp] theorem byMgmt_su (m : Master) (s : State) : (byMgmt m s).su = s.su := by rw [byMgmt_eq]
@[simp] theorem byMgmt_ten (m : Master) (s : State) : (byMgmt m s).ten = s.ten := by rw [byMgmt_eq]
@[simp] theorem byMgmt_hw (m : Master) (s : State) : (byMgmt m s).hw = s.hw := by rw [byMgmt_eq]

/-- The block is closed to the host alone. -/
theorem ne_mgmt_of_closed {m : Master} {s : State} (h : fabricOpen s m = false) : m ≠ .mgmt := by
  rintro rfl
  exact absurd h (by simp [fabricOpen])

theorem ofNat_fld (v : W32) (lo n : Nat) : BitVec.ofNat n (fld v.toNat lo n) = v.extractLsb' lo n := by
  apply BitVec.eq_of_toNat_eq
  simp [fld, BitVec.extractLsb'_toNat, Nat.shiftRight_eq_div_pow]

/-! ### The map (R298, Tables 10.7 and 10.8) -/

theorem isMapReg_iff (o : Nat) : isMapReg o = true ↔
    o = 0x400004 ∨ o = 0x400008 ∨ o = 0x40000C ∨ (0x401000 ≤ o ∧ o < 0x401400 ∧ o % 4 = 0) := by
  simp only [isMapReg, Bool.or_eq_true, Bool.and_eq_true, beq_iff_eq, decide_eq_true_eq, or_assoc, and_assoc]

theorem exec_mapWrite_closed {m : Master} {s : State} (h : fabricOpen s m = false) (off : Off) (v : W32) :
    exec (.mapWrite m off v) s = .next s := by
  show Host.Outcome.next _ = _
  rw [if_neg fun hclear => ne_mgmt_of_closed h hclear.1, if_neg (by simp [h])]

theorem exec_mapWrite_open {m : Master} {off : Off} {s : State} (h : fabricOpen s m = true) (hreg : isMapReg off.toNat = true)
    (v : W32) : exec (.mapWrite m off v) s = .next (mapWriteAt off.toNat v (byMgmt m s)) := by
  have hstate : off.toNat ≠ 0x400000 := by rw [isMapReg_iff] at hreg; omega
  show Host.Outcome.next _ = _
  rw [if_neg fun hclear => hstate hclear.2, if_pos h]

/-- In a domain, or while one forms, the map is refused. -/
theorem mapWriteAt_refused {o : Nat} {s : State} (hreg : isMapReg o = true) (h : mapOpen s = false) (v : W32) :
    mapWriteAt o v s = { s with fab := { s.fab with mapRefused := true } } := by
  rw [isMapReg_iff] at hreg
  unfold mapWriteAt; dsimp only
  rw [if_neg (by simp; omega), if_pos (by simp [h])]

/-- Outside a domain each register of the map takes its fields. -/
theorem mapWriteAt_domainId {s : State} (h : mapOpen s = true) (v : W32) :
    mapWriteAt 0x400004 v s = { s with fab := { s.fab with domainId := v } } := by
  unfold mapWriteAt; simp [h]

theorem mapWriteAt_ring {s : State} (h : mapOpen s = true) (v : W32) : mapWriteAt 0x400008 v s =
    { s with fab := { s.fab with ringSize := v.extractLsb' 0 10, myPos := v.extractLsb' 16 9 } } := by
  unfold mapWriteAt; simp [h, ofNat_fld]

theorem mapWriteAt_seats {s : State} (h : mapOpen s = true) (v : W32) : mapWriteAt 0x40000C v s =
    { s with fab := { s.fab with mySeat := v.extractLsb' 0 10, seats := v.extractLsb' 16 10 } } := by
  unfold mapWriteAt; simp [h, ofNat_fld]

theorem mapWriteAt_seatTab {s : State} (h : mapOpen s = true) {k : Nat} (hk : k < 256) (v : W32) :
    mapWriteAt (0x401000 + 4 * k) v s = { s with fab := { s.fab with
      seatTab := put seatReset (put seatReset s.fab.seatTab (2 * k) (v.extractLsb' 0 16)) (2 * k + 1) (v.extractLsb' 16 16) } } := by
  have hseat : (0x401000 + 4 * k - 0x401000) / 2 = 2 * k := by omega
  unfold mapWriteAt; dsimp only
  rw [if_neg (by simp; omega), if_neg (by simp [h]), if_neg (by omega), if_neg (by omega), if_neg (by omega), hseat, ofNat_fld, ofNat_fld]

theorem mapOpen_eq_true {s : State} (h : s.fab.st = 0 ∨ s.fab.st = 3) : mapOpen s = true := by
  rcases h with h | h <;> simp [mapOpen, h]

theorem mapOpen_eq_false {s : State} (h : s.fab.st = 1 ∨ s.fab.st = 2) : mapOpen s = false := by
  rcases h with h | h <;> simp [mapOpen, h]

theorem mapWriteAt_frame (o : Nat) (v : W32) (s : State) : mapWriteAt o v s = { s with fab := (mapWriteAt o v s).fab } := by
  unfold mapWriteAt; dsimp only; split_ifs <;> rfl

end Sys2Proof.Machine

/-- Settles O31, register by register. -/
theorem mapWrittenOnlyOutsideADomain : Obligations.MapWrittenOnlyOutsideADomain := by
  unfold Obligations.MapWrittenOnlyOutsideADomain
  intro m off v s
  refine ⟨fun hclosed => exec_mapWrite_closed hclosed off v, fun hopen hreg => ⟨_, exec_mapWrite_open hopen hreg v,
    mapWriteAt_frame _ v _, fun hin => ?_, fun hout => ?_⟩⟩
  · rw [mapWriteAt_refused hreg (mapOpen_eq_false (by rwa [byMgmt_fab])), byMgmt_fab]
  · have hfree : mapOpen (byMgmt m s) = true := mapOpen_eq_true (by rwa [byMgmt_fab])
    refine ⟨fun h => ?_, fun h => ?_, fun h => ?_, fun k hk h => ?_⟩
    · rw [h, mapWriteAt_domainId hfree, byMgmt_fab]
    · rw [h, mapWriteAt_ring hfree, byMgmt_fab]
    · rw [h, mapWriteAt_seats hfree, byMgmt_fab]
    · rw [h, mapWriteAt_seatTab hfree hk, byMgmt_fab]
      refine ⟨rfl, fun i => ?_⟩
      unfold seatPos; dsimp only
      rw [look_put, look_put]
      by_cases hodd : i = 2 * k + 1
      · rw [if_pos hodd, if_neg (by omega), if_pos hodd]
      · rw [if_neg hodd, if_neg hodd]

/-- Settles O32: the register keeps the minimums, and a transaction starts with what the registers hold. -/
theorem transactionTimerMinimums : Obligations.TransactionTimerMinimums := by
  unfold Obligations.TransactionTimerMinimums
  constructor
  · intro m v s hopen
    have hexec : exec (.transactionTimersWrite m v) s = .next (txnTimers v (byMgmt m s)) := congrArg Host.Outcome.next (if_pos hopen)
    refine ⟨_, hexec, rfl, by simp [txnTimers], ?_, ?_⟩
    · show (BitVec.ofNat 16 (max 16 (fld v.toNat 0 16))).toNat = _
      rw [BitVec.toNat_ofNat]; unfold fld; omega
    · show (BitVec.ofNat 16 (max 9 (fld v.toNat 16 16))).toNat = _
      rw [BitVec.toNat_ofNat]; unfold fld; have := v.isLt; omega
  · intro dst down resent data s
    exact ⟨_, rfl, rfl, rfl, rfl⟩
end

section
/-! SUPPORT. Ports whose state is set, formation that fails, JOIN, and formation words (R294, R299 to R302), and the statement. -/

open Sys2Proof Sys2Proof.Machine Sys2Proof.Spec

namespace Sys2Proof.Machine

/-! ### Ports whose state is set (Table 10.5) -/

/-- The ports listed, each with this state. -/
def portsSet (st : BitVec 2) (ks : List Nat) (s : State) : State := ks.foldl (fun s k => setPort s k { port s k with st := st }) s

theorem port_portsSet (st : BitVec 2) : ∀ (ks : List Nat) (s : State) (j : Nat),
    port (portsSet st ks s) j = if j ∈ ks then { port s j with st := st } else port s j
  | [], s, j => by simp [portsSet]
  | k :: ks, s, j => by
    show port (portsSet st ks (setPort s k { port s k with st := st })) j = _
    rw [port_portsSet st ks, port_setPort]
    by_cases hk : j = k
    · subst hk; simp
    · simp [hk]

theorem portsSet_frame (st : BitVec 2) : ∀ (ks : List Nat) (s : State),
    portsSet st ks s = { s with fab := { s.fab with ports := (portsSet st ks s).fab.ports } }
  | [], _ => rfl
  | k :: ks, s => by
    show portsSet st ks (setPort s k { port s k with st := st }) = _
    rw [portsSet_frame st ks]; rfl

/-! ### Formation that fails (R301) -/

theorem formFail_eq {s : State} (h : s.fab.st = 1) (cause : Nat) : formFail cause s =
    raise (err 0x70 1 cause 0 0) (enterFault cause (sendNotice (BitVec.ofNat 4 cause) s.fab.myPos s)) := by
  unfold formFail; exact if_neg (not_not.mpr h)

theorem formErr_minor (cause : Nat) : (err 0x70 1 cause 0 0).severity.toNat < 2 := by
  show (BitVec.ofNat 2 1).toNat < 2; decide

theorem offNotices_enterFault {s t : State} (h : offNotices t = offNotices s) (cause : Nat) :
    offNotices (enterFault cause t) = offNotices (enterFault cause s) := (congrArg (enterFault cause) h :)

/-- A formation that fails sends its notices, enters FAULT and raises its record. -/
theorem formFail_frame {s : State} (h : s.fab.st = 1) (cause : Nat) : formFail cause s = { enterFault cause s with
    out := (formFail cause s).out, err := (formFail cause s).err
    fab := { (enterFault cause s).fab with ports := (formFail cause s).fab.ports, noticed := (formFail cause s).fab.noticed } } := by
  have hframe := eq_of_offNotices (offNotices_enterFault (offNotices_sendNotice (BitVec.ofNat 4 cause) s.fab.myPos s) cause)
  rw [formFail_eq h, raise_eq_err (formErr_minor cause)]
  generalize enterFault cause (sendNotice (BitVec.ofNat 4 cause) s.fab.myPos s) = u at hframe
  generalize (raise (err 0x70 1 cause 0 0) u).err = e
  conv_lhs => rw [hframe]

theorem portsCount_formFail (cause : Nat) (s : State) : PortsCount s (formFail cause s) := by
  by_cases h : s.fab.st = 1
  · refine (portsCount_sendNotice (BitVec.ofNat 4 cause) s.fab.myPos s).trans (portsCount_of_ports ?_)
    rw [formFail_eq h, raise_fab]; rfl
  · unfold formFail; rw [if_pos h]; exact .refl s

theorem raised_formErr {cause : Nat} (hcause : cause < 2 ^ 32) (s : State) : Raised 0x70 1 cause 0 0 s (raise (err 0x70 1 cause 0 0) s) := by
  have hraised := raised_raise_any (err 0x70 1 cause 0 0) s
  have hd0 : (err 0x70 1 cause 0 0).d0.toNat = cause := Nat.mod_eq_of_lt hcause
  rwa [hd0] at hraised

theorem formFailed {s : State} (h : s.fab.st = 1) {cause : Nat} (hcause : cause < 2 ^ 32) : FormFailed cause s (formFail cause s) := by
  have hframe := eq_of_offNotices (offNotices_enterFault (offNotices_sendNotice (BitVec.ofNat 4 cause) s.fab.myPos s) cause)
  have hraised := raised_formErr hcause (enterFault cause (sendNotice (BitVec.ofNat 4 cause) s.fab.myPos s))
  rw [← formFail_eq h] at hraised
  have hrecord : Raised 0x70 1 cause 0 0 s (formFail cause s) := by
    refine raised_congr hraised ?_ ?_ rfl
    · rw [hframe]; rfl
    · unfold below7; rw [hframe]; rfl
  unfold FormFailed
  rw [formFail_frame h] at hrecord ⊢
  exact ⟨rfl, rfl, rfl, rfl, rfl, hrecord, rfl, rfl⟩

/-- What a formation's failure is measured against: the error state, tenancy, the arrays, and the cause and counts of the domain. -/
theorem formFailed_congr {cause : Nat} {s s' t : State} (h : faultView s' = faultView s) (hhw : s'.hw = s.hw)
    (g : FormFailed cause s' t) : FormFailed cause s t := by
  simp only [faultView, Prod.mk.injEq] at h
  obtain ⟨hsu, herr, hten, hcause, hbeat, hsched⟩ := h
  unfold FormFailed Raised below7 at *
  rw [hsu, herr, hten, hcause, hbeat, hsched, hhw] at g
  exact g

/-! ### JOIN (R299, R302) -/

/-- A part that starts to form: its flags, its digest and its lead. -/
def joining (s : State) : State :=
  { s with fab := { s.fab with
      st := 1, join := true, cause := 0, raised := false, noticed := [], misses := 0, digest := mapDigest s
      lead := BitVec.ofNat 9 (lamOf (min (ringN s) 512)), locked := s.fab.myPos == 0 } }

theorem fabricControl_join {v : W32} (hjoin : bitOf v.toNat 0 = true) (hleave : bitOf v.toNat 1 = false) (s : State) :
    fabricControl v s = doJoin s := by
  unfold fabricControl; simp [hjoin, hleave]

theorem exec_join {m : Master} {v : W32} {s : State} (hopen : fabricOpen s m = true) (hjoin : bitOf v.toNat 0 = true)
    (hleave : bitOf v.toNat 1 = false) : exec (.join m v) s = .next (doJoin (byMgmt m s)) := by
  rw [← fabricControl_join hjoin hleave]
  exact congrArg Host.Outcome.next (if_pos hopen)

theorem doJoin_refused {s : State} (h : mapOpen s = false ∨ anyEnabled s = true) :
    doJoin s = { s with fab := { s.fab with joinRefused := true } } := by
  unfold doJoin; exact if_pos (by simpa using h)

theorem doJoin_taken {s : State} (hopen : mapOpen s = true) (hnone : anyEnabled s = false) : doJoin s =
    if !mapValid s then formFail 6 (joining s)
    else if ringN s = 1 then firstBeat (joining s)
    else portsSet 1 (List.range 8) (joining s) := by
  unfold doJoin; rw [if_neg (by simp [hopen, hnone])]; rfl

theorem anyEnabled_byMgmt (m : Master) (s : State) : anyEnabled (byMgmt m s) = anyEnabled s := by rw [byMgmt_eq]; rfl
theorem mapDigest_byMgmt (m : Master) (s : State) : mapDigest (byMgmt m s) = mapDigest s := by rw [byMgmt_eq]; rfl
theorem mapValid_byMgmt (m : Master) (s : State) : mapValid (byMgmt m s) = mapValid s := by rw [byMgmt_eq]; rfl
theorem ringN_byMgmt (m : Master) (s : State) : ringN (byMgmt m s) = ringN s := by rw [byMgmt_eq]; rfl
theorem mapOpen_byMgmt (m : Master) (s : State) : mapOpen (byMgmt m s) = mapOpen s := by rw [byMgmt_eq]; rfl

/-- A valid map has a ring of 1 to 512 parts. -/
theorem ringSize_of_mapValid {s : State} (h : mapValid s = true) : 1 ≤ s.fab.ringSize.toNat ∧ s.fab.ringSize.toNat ≤ 512 := by
  unfold mapValid at h
  simp only [Bool.and_eq_true, decide_eq_true_eq] at h
  omega

/-- The lead of a domain fits its field. -/
theorem lamOf_lt {n : Nat} (h : n ≤ 512) : lamOf n < 2 ^ 9 := by
  unfold lamOf lamR ceilDiv; omega

theorem join_one {s : State} (hone : s.fab.ringSize = 1) : (firstBeat (joining s)).fab.lead = 2 := by
  have hring : ringN s = 1 := by unfold ringN; rw [hone]; rfl
  show BitVec.ofNat 9 (lamOf (min (ringN s) 512)) = 2
  rw [hring]; rfl

theorem join_spec (m : Master) (v : W32) (s : State) (hopen : fabricOpen s m = true) (hjoin : bitOf v.toNat 0 = true)
    (hleave : bitOf v.toNat 1 = false) :
    ((s.fab.st = 1 ∨ s.fab.st = 2 ∨ anyEnabled s = true) →
      exec (.join m v) s = .next { byMgmt m s with fab := { s.fab with joinRefused := true } })
    ∧ ((s.fab.st = 0 ∨ s.fab.st = 3) → anyEnabled s = false → ∃ t, exec (.join m v) s = .next t
        ∧ t.fab.digest = mapDigest s ∧ t.ten = s.ten ∧ t.hw = s.hw ∧ MemKept s t
        ∧ (mapValid s = false → FormFailed 6 { s with fab := { s.fab with cause := 0 } } t)
        ∧ (mapValid s = true → s.fab.ringSize = 1 → t.fab.st = 2 ∧ t.fab.beat = 0 ∧ t.fab.sched = 0 ∧ t.fab.cause = 0
            ∧ t.fab.lead = 2 ∧ t.fab.locked = true ∧ t.fab.join = false ∧ t.err = s.err)
        ∧ (mapValid s = true → s.fab.ringSize ≠ 1 → t.fab.st = 1 ∧ t.fab.cause = 0 ∧ t.fab.join = true ∧ t.err = s.err
            ∧ t.fab.lead.toNat = lamOf s.fab.ringSize.toNat ∧ ∀ k < 8, (port t k).st = 1)) := by
  rw [exec_join hopen hjoin hleave]
  refine ⟨fun hrefused => ?refused, fun hout hnone => ?taken⟩
  case refused =>
    have hclosed : mapOpen (byMgmt m s) = false ∨ anyEnabled (byMgmt m s) = true := by
      rw [mapOpen_byMgmt, anyEnabled_byMgmt]
      rcases hrefused with h | h | h
      · exact .inl (mapOpen_eq_false (.inl h))
      · exact .inl (mapOpen_eq_false (.inr h))
      · exact .inr h
    rw [doJoin_refused hclosed, byMgmt_fab]
  case taken =>
    rw [doJoin_taken (by rw [mapOpen_byMgmt]; exact mapOpen_eq_true hout) (by rwa [anyEnabled_byMgmt]), mapValid_byMgmt, ringN_byMgmt]
    have hdigest : (joining (byMgmt m s)).fab.digest = mapDigest s := mapDigest_byMgmt m s
    have hmem : MemKept s (byMgmt m s) := by rw [byMgmt_eq]; exact fun _ => rfl
    by_cases hvalid : mapValid s = true
    · obtain ⟨hpos, hle⟩ := ringSize_of_mapValid hvalid
      rw [if_neg (by simp [hvalid])]
      by_cases hone : ringN s = 1
      · have hsize : s.fab.ringSize = 1 := BitVec.eq_of_toNat_eq (by unfold ringN at hone; show _ = 1; omega)
        rw [if_pos hone]
        exact ⟨_, rfl, hdigest, byMgmt_ten m s, byMgmt_hw m s, hmem, fun h => absurd (hvalid.symm.trans h) (by decide),
          fun _ _ => ⟨rfl, rfl, rfl, rfl, join_one (by rwa [byMgmt_fab]), rfl, rfl, byMgmt_err m s⟩, fun _ h => absurd hsize h⟩
      · have hsize : s.fab.ringSize ≠ 1 := fun h => hone (by unfold ringN; rw [h]; rfl)
        have hring : ringN s = s.fab.ringSize.toNat := by unfold ringN; omega
        have hlead : (BitVec.ofNat 9 (lamOf (min (ringN s) 512))).toNat = lamOf s.fab.ringSize.toNat := by
          rw [hring, min_eq_left hle, BitVec.toNat_ofNat, Nat.mod_eq_of_lt (lamOf_lt hle)]
        have hports := port_portsSet 1 (List.range 8) (joining (byMgmt m s))
        rw [if_neg hone]
        have hframe := portsSet_frame 1 (List.range 8) (joining (byMgmt m s))
        generalize portsSet 1 (List.range 8) (joining (byMgmt m s)) = t at *
        refine ⟨t, rfl, ?_, ?_, ?_, ?_, fun h => absurd (hvalid.symm.trans h) (by decide), fun _ h => absurd h hsize,
          fun _ _ => ⟨?_, ?_, ?_, ?_, ?_, fun k hk => ?_⟩⟩
        · rw [hframe]; exact hdigest
        · rw [hframe]; exact byMgmt_ten m s
        · rw [hframe]; exact byMgmt_hw m s
        · rw [hframe]; exact hmem
        · rw [hframe]; rfl
        · rw [hframe]; rfl
        · rw [hframe]; rfl
        · rw [hframe]; exact byMgmt_err m s
        · rw [hframe, ← hlead, ← ringN_byMgmt m s]; rfl
        · rw [hports, if_pos (List.mem_range.mpr hk)]
    · have hinvalid : mapValid s = false := by simpa using hvalid
      rw [if_pos (by simp [hinvalid])]
      have hst : (joining (byMgmt m s)).fab.st = 1 := rfl
      have hfailed := formFailed hst (cause := 6) (by decide)
      have hframe := formFail_frame hst 6
      generalize formFail 6 (joining (byMgmt m s)) = t at *
      refine ⟨t, rfl, ?_, ?_, ?_, ?_, fun _ => formFailed_congr (s' := joining (byMgmt m s)) ?_ (byMgmt_hw m s) hfailed, fun h => absurd h hvalid,
        fun h => absurd h hvalid⟩
      · rw [hframe]; exact hdigest
      · rw [hframe]; exact byMgmt_ten m s
      · rw [hframe]; exact byMgmt_hw m s
      · rw [hframe]; exact hmem
      · rw [byMgmt_eq]; rfl

/-! ### Control words sent downstream (R293, R300) -/

theorem sends_sendForm (w : FormWord) (s : State) : Sends [.formWord w] s (sendForm w s) := sends_emit _ (sends_sendFlits ..)

theorem offPorts_sendForm (w : FormWord) (s : State) : offPorts (sendForm w s) = offPorts s := (offPorts_sendFlits ..).trans rfl

theorem sends_sendBeat (w : BeatWord) (s : State) : Sends [.beatWord w] s (sendBeat w s) := sends_emit _ (sends_sendFlits ..)

theorem offPorts_sendBeat (w : BeatWord) (s : State) : offPorts (sendBeat w s) = offPorts s := (offPorts_sendFlits ..).trans rfl

theorem err_of_offPorts {s t : State} (h : offPorts t = offPorts s) : t.err = s.err := (congrArg State.err h :)

/-! ### Formation words (R300) -/

theorem exec_formationWord {s : State} (hst : s.fab.st = 1) (w : FormWord) : exec (.formationWord w) s = .next (
    if w.domainId ≠ s.fab.domainId then formFail 1 s
    else if w.digest ≠ s.fab.digest then formFail 3 s
    else if w.pos.toNat ≠ (s.fab.myPos.toNat + ringN s - 1) % ringN s ∨ !seatedRight s then formFail 2 s
    else if s.fab.myPos.toNat = 0 then sendBeat ⟨0, 0, 0, false, crc8 (List.replicate 15 0)⟩ (firstBeat s)
    else sendForm { w with pos := s.fab.myPos } s) := by
  show execFormationWord w s = _
  unfold execFormationWord; dsimp only
  rw [if_neg (not_not.mpr hst)]

/-- The neighbour upstream of position `p` is the one position from which one hop downstream leads to it. -/
theorem upstream_of_next {n p q : Nat} (hn : 0 < n) (h : q = (p + n - 1) % n) : q < n ∧ (q + 1) % n = p % n := by
  refine ⟨h ▸ Nat.mod_lt _ hn, ?_⟩
  rw [h, Nat.mod_add_mod, Nat.sub_add_cancel (by omega), Nat.add_mod_right]

theorem ringN_pos (s : State) : 0 < ringN s := by unfold ringN; omega

theorem formationWord_spec (w : FormWord) (s : State) (hst : s.fab.st = 1) :
    (w.domainId ≠ s.fab.domainId → ∃ t, exec (.formationWord w) s = .next t ∧ FormFailed 1 s t)
    ∧ (w.domainId = s.fab.domainId → w.digest ≠ s.fab.digest → ∃ t, exec (.formationWord w) s = .next t ∧ FormFailed 3 s t)
    ∧ (w.domainId = s.fab.domainId → w.digest = s.fab.digest →
        ((w.pos.toNat + 1) % ringN s ≠ s.fab.myPos.toNat % ringN s ∨ ringN s ≤ w.pos.toNat ∨ seatedRight s = false) →
        ∃ t, exec (.formationWord w) s = .next t ∧ FormFailed 2 s t)
    ∧ (w.domainId = s.fab.domainId → w.digest = s.fab.digest → w.pos.toNat = (s.fab.myPos.toNat + ringN s - 1) % ringN s →
        seatedRight s = true → ∃ t, exec (.formationWord w) s = .next t ∧ t.err = s.err
          ∧ (s.fab.myPos ≠ 0 → t.fab.st = 1 ∧ Sends [.formWord { w with pos := s.fab.myPos }] s t)
          ∧ (s.fab.myPos = 0 → t.fab.st = 2 ∧ t.fab.beat = 0 ∧ t.fab.sched = 0 ∧ t.fab.locked = true
              ∧ ∃ w, w.beat = 0 ∧ Sends [.beatWord w] s t)) := by
  rw [exec_formationWord hst]
  refine ⟨fun hid => ?_, fun hid hdigest => ?_, fun hid hdigest hwrong => ?_, fun hid hdigest hpos hseat => ?_⟩
  · exact ⟨_, by rw [if_pos hid], formFailed hst (by decide)⟩
  · exact ⟨_, by rw [if_neg (not_not.mpr hid), if_pos hdigest], formFailed hst (by decide)⟩
  · have hplace : w.pos.toNat ≠ (s.fab.myPos.toNat + ringN s - 1) % ringN s ∨ (!seatedRight s) = true := by
      rcases hwrong with hnext | hout | hseat
      · exact .inl fun h => hnext (upstream_of_next (ringN_pos s) h).2
      · exact .inl fun h => absurd (upstream_of_next (ringN_pos s) h).1 hout.not_gt
      · exact .inr (by rw [hseat]; rfl)
    exact ⟨_, by rw [if_neg (not_not.mpr hid), if_neg (not_not.mpr hdigest), if_pos hplace], formFailed hst (by decide)⟩
  · rw [if_neg (not_not.mpr hid), if_neg (not_not.mpr hdigest), if_neg (by simp [hpos, hseat])]
    by_cases hmaster : s.fab.myPos.toNat = 0
    · have hzero : s.fab.myPos = 0 := BitVec.eq_of_toNat_eq hmaster
      rw [if_pos hmaster]
      generalize hw : (⟨0, 0, 0, false, crc8 (List.replicate 15 0)⟩ : BeatWord) = w
      have hsends : Sends [.beatWord w] s (sendBeat w (firstBeat s)) := sends_sendBeat w (firstBeat s)
      have hframe := eq_of_offPorts (offPorts_sendBeat w (firstBeat s))
      generalize sendBeat w (firstBeat s) = t at *
      refine ⟨t, rfl, by rw [hframe]; rfl, fun h => absurd hzero h, fun _ => ⟨?_, ?_, ?_, ?_, w, by rw [← hw], hsends⟩⟩
      all_goals rw [hframe]; rfl
    · have hother : s.fab.myPos ≠ 0 := fun h => hmaster (by rw [h]; rfl)
      rw [if_neg hmaster]
      have hsent := offPorts_sendForm { w with pos := s.fab.myPos } s
      exact ⟨_, rfl, err_of_offPorts hsent, fun _ => ⟨(fabSt_of_offPorts hsent).trans hst, sends_sendForm ..⟩, fun h => absurd h hother⟩

/-! ### Timeout, lock and training (R294, R300, R301) -/

theorem exec_beatLock {s : State} (hst : s.fab.st = 1) (hpos : s.fab.myPos ≠ 0) : exec .beatLock s = .next { s with fab := { s.fab with
    st := 2, join := false, locked := true, misses := 0 } } := congrArg Host.Outcome.next (if_pos ⟨hst, hpos⟩)

/-- A port trained: in its bond within 240 ns and with its lanes in order, and else out of it. -/
def portTrained (k raw : Nat) (lanes : Bool) (s : State) : State :=
  setPort s k { port s k with st := if decide (raw ≤ 240) && lanes then 2 else 3, rawLat := BitVec.ofNat 8 (min 255 raw) }

theorem bond_ports (k : Fin 8) : ((List.range 4).map fun i => if k.val < 4 then i else i + 4) = (List.range 4).map (4 * (k.val / 4) + ·) := by
  revert k; decide

/-- No port of a port's bond is left in it. -/
def bondGone (k : Nat) (s : State) : Bool := ((List.range 4).map (4 * (k / 4) + ·)).all fun j => (port s j).st == 3

theorem bondGone_iff (k : Nat) (s : State) : bondGone k s = true ↔ ∀ j < 4, (port s (4 * (k / 4) + j)).st = 3 := by
  simp [bondGone]

theorem exec_portTrainingComplete {k : Fin 8} {s : State} (hst : (port s k).st = 1) (raw : Nat) (lanes : Bool) :
    exec (.portTrainingComplete k raw lanes) s = .next (
      if bondGone k (portTrained k raw lanes s) then formFail (if 240 < raw then 4 else 9) (portTrained k raw lanes s)
      else if (portTrained k raw lanes s).fab.st = 1 ∧ (portTrained k raw lanes s).fab.myPos = 0
          ∧ (List.range 8).all fun j => (port (portTrained k raw lanes s) j).st != 1 then
        sendForm { domainId := (portTrained k raw lanes s).fab.domainId, digest := (portTrained k raw lanes s).fab.digest, pos := 0 }
          (portTrained k raw lanes s)
      else portTrained k raw lanes s) := by
  show execPortTrainingComplete k raw lanes s = _
  unfold execPortTrainingComplete bondGone
  rw [if_neg (not_not.mpr hst), ← bond_ports]; rfl

theorem portTrainingComplete_spec (k : Fin 8) (raw : Nat) (lanes : Bool) (s : State) (hst : (port s k).st = 1) :
    ∃ t, exec (.portTrainingComplete k raw lanes) s = .next t
      ∧ (port t k).st = (if raw ≤ 240 ∧ lanes = true then 2 else 3) ∧ (port t k).rawLat.toNat = min 255 raw
      ∧ (s.fab.st = 1 → (∀ j < 4, (port t (4 * (k.val / 4) + j)).st = 3) → t.fab.st = 3)
      ∧ ((∃ j < 4, (port t (4 * (k.val / 4) + j)).st ≠ 3) → t.fab.st = s.fab.st ∧ t.err = s.err) := by
  rw [exec_portTrainingComplete hst]
  have hport : port (portTrained k raw lanes s) k = { port s k with
      st := if decide (raw ≤ 240) && lanes then 2 else 3, rawLat := BitVec.ofNat 8 (min 255 raw) } := port_setPort_same ..
  have hform : (portTrained k raw lanes s).fab.st = s.fab.st := rfl
  have herr : (portTrained k raw lanes s).err = s.err := rfl
  generalize portTrained k raw lanes s = u at *
  have hown : ∀ t, PortsCount u t → (port t k).st = (if raw ≤ 240 ∧ lanes = true then 2 else 3)
      ∧ (port t k).rawLat.toNat = min 255 raw := fun t ht => by
    refine ⟨by rw [ht.st, hport]; simp, ?_⟩
    rw [ht k, hport, BitVec.toNat_ofNat]; omega
  by_cases hgone : bondGone k u = true
  · have hports := portsCount_formFail (if 240 < raw then 4 else 9) u
    rw [if_pos hgone]
    obtain ⟨hstate, hlat⟩ := hown _ hports
    refine ⟨_, rfl, hstate, hlat, fun hst _ => ?_, fun ⟨j, hj, hin⟩ => ?_⟩
    · rw [formFail_frame (hform.trans hst)]; rfl
    · exact absurd ((hports.st _).trans ((bondGone_iff ..).mp hgone j hj)) hin
  · rw [if_neg hgone]
    have hsome : ∀ t, PortsCount u t → ¬ ∀ j < 4, (port t (4 * (k.val / 4) + j)).st = 3 := fun t ht hall =>
      hgone ((bondGone_iff ..).mpr fun j hj => (ht.st _).symm.trans (hall j hj))
    split
    · have hsent := offPorts_sendForm { domainId := u.fab.domainId, digest := u.fab.digest, pos := 0 } u
      have hports := portsCount_of_sends (sends_sendForm { domainId := u.fab.domainId, digest := u.fab.digest, pos := 0 } u)
      obtain ⟨hstate, hlat⟩ := hown _ hports
      exact ⟨_, rfl, hstate, hlat, fun _ hall => absurd hall (hsome _ hports),
        fun _ => ⟨(fabSt_of_offPorts hsent).trans hform, (err_of_offPorts hsent).trans herr⟩⟩
    · obtain ⟨hstate, hlat⟩ := hown _ (.refl u)
      exact ⟨_, rfl, hstate, hlat, fun _ hall => absurd hall (hsome _ (.refl u)), fun _ => ⟨hform, herr⟩⟩

end Sys2Proof.Machine

/-- Settles O33, command by command: JOIN, the formation word, the timeout, the lock and the training of a port. -/
theorem domainForms : Obligations.DomainForms := by
  unfold Obligations.DomainForms
  exact ⟨join_spec, formationWord_spec, fun s hst => ⟨_, rfl, formFailed hst (by decide)⟩, fun _ => exec_beatLock,
    portTrainingComplete_spec⟩
end

section
/-! SUPPORT. What a domain fault leaves of device memory, and LEAVE (R306 to R308), and the statement. -/

open Sys2Proof Sys2Proof.Machine Sys2Proof.Spec

namespace Sys2Proof.Machine

/-! ### Device memory stays -/

theorem memKept_forAll {α : Type} {f : α → State → State} (h : ∀ a s, MemKept s (f a s)) (l : List α) (s : State) :
    MemKept s (forAll l f s) :=
  forAll_invariant (P := MemKept s) (fun a _ t ht => memKept_trans ht (h a t)) fun _ => rfl

theorem memKept_abandonStep (b : Nat) (s : State) : MemKept s (abandonStep b s) :=
  memKept_of_eq (mem_of_offStep (offStep_abandonStep b s)) (memKeys_of_offStep (offStep_abandonStep b s))

theorem memKept_workFailed (b : Nat) (s : State) : MemKept s (workFailed b s) :=
  memKept_trans (memKept_abandonStep b s) (memKept_forAll (fun c s => memKept_failWork c 0x11 s) _ _)

theorem memKept_failBinding (b : Nat) (s : State) : MemKept s (failBinding b s) := by
  unfold failBinding
  exact memKept_trans (t := modEntry b (fun e => { e with st := 6 }) s) (fun _ => rfl) (memKept_forAll (fun _ _ => by exact fun _ => rfl) _ _)

theorem memKept_faultBinding (b : Nat) (s : State) : MemKept s (faultBinding b s) := by
  have hwork : MemKept s (workFailed b (bindingMarked b s)) := memKept_workFailed b (bindingMarked b s)
  by_cases henabled : (entry s b).st = 3
  · rw [faultBinding_enabled henabled]; exact memKept_trans hwork (memKept_failBinding b _)
  · by_cases hprev : (entry s b).st = 4 ∧ (brun s b).prev = 3
    · rw [faultBinding_switching henabled hprev]; exact hwork
    · rw [faultBinding_idle henabled hprev]; exact fun _ => rfl

theorem memKept_replyOpt (c : Option CmdRef) (b status reason detail : Nat) (s : State) :
    MemKept s (replyOpt c b status reason detail s) := by
  unfold replyOpt replyCmd; split
  · exact fun _ => rfl
  · exact memKept_of_eq (finish_mem ..) (finish_memKeys ..)

theorem memKept_refuse (c : Option CmdRef) (b : Option Nat) (r : Refuse) (s : State) : MemKept s (refuse c b r s) := by
  rw [refuse_eq]
  refine memKept_trans (t := reasonGiven b r s) ?_ (memKept_replyOpt c (b.getD 0xFFF) 5 r.1 r.2 _)
  cases b <;> exact fun _ => rfl

theorem memKept_abortSwitch (o : SwitchOp) (r : Refuse) (s : State) : MemKept s (abortSwitch o r s) := by
  have hrestored : MemKept (switchDropped o s) (restoreStates o (switchDropped o s)) := by
    unfold restoreStates; exact memKept_forAll (fun _ _ => by exact fun _ => rfl) _ _
  exact memKept_trans (t := switchDropped o s) (fun _ => rfl) (memKept_trans hrestored (memKept_refuse o.cmd o.incoming r _))

theorem memKept_waitingAborted (s : State) : MemKept s (waitingAborted s) := memKept_forAll (fun o => memKept_abortSwitch o _) _ s

theorem memKept_raise (r : ErrRec) (s : State) : MemKept s (raise r s) := memKept_of_eq (raise_mem r s) (raise_memKeys r s)

theorem memKept_of_offNotices {s t : State} (h : offNotices t = offNotices s) : MemKept s t :=
  memKept_of_eq (congrArg State.mem h :) (congrArg State.memKeys h :)

/-! ### The notice of a LEAVE (R308) -/

theorem mem_out_passNotice (cause : BitVec 4) (pos : BitVec 9) (down : Bool) (s : State) :
    .faultNotice cause pos ∈ (passNotice cause pos down s).out :=
  out_subset_of_sends (sends_sendFlits ..) (mem_out_emit ..)

theorem mem_out_sendNotice (cause : BitVec 4) (pos : BitVec 9) (s : State) : .faultNotice cause pos ∈ (sendNotice cause pos s).out :=
  mem_out_passNotice cause pos false _

theorem ten_of_offNotices {s t : State} (h : offNotices t = offNotices s) : t.ten = s.ten := (congrArg State.ten h :)

theorem ten_sendNotice (cause : BitVec 4) (pos : BitVec 9) (s : State) : (sendNotice cause pos s).ten = s.ten :=
  ten_of_offNotices (offNotices_sendNotice cause pos s)

theorem multiParts_congr {s t : State} (h : t.ten = s.ten) : multiParts t = multiParts s := by
  unfold multiParts liveBindings planOf brun; rw [h]

/-- Every binding with PARTS above 1 refuses further work (R306). -/
theorem bindingsFaulted_refuses {s : State} {b : Nat} (h : b ∈ multiParts s) : (brun (bindingsFaulted s) b).fabricFault = true := by
  unfold bindingsFaulted
  refine forAll_reaches (P := fun _ => True) (Q := fun t => (brun t b).fabricFault = true) h trivial (fun _ _ _ _ _ => trivial)
    (fun t _ => fabricFault_faultBinding b t) (fun j _ _ t ht => ?_)
  by_cases hj : j = b
  · rw [hj]; exact fabricFault_faultBinding b t
  · rw [brun_faultBinding_other (Ne.symm hj)]; exact ht

theorem memKept_bindingsFaulted (s : State) : MemKept s (bindingsFaulted s) := memKept_forAll memKept_faultBinding _ s

/-- The fault that a part raises as it leaves: its notices, its multi-part bindings ended, and its record (log entry 137). -/
def leaveTold (s : State) : State := raise (err 0x71 3 11 0x1FF 0) (bindingsFaulted (sendNotice 11 s.fab.myPos s))

/-- What the fault of a LEAVE keeps of the fabric. -/
theorem leaveTold_fab (s : State) : (leaveTold s).fab =
    { s.fab with ports := (leaveTold s).fab.ports, noticed := (leaveTold s).fab.noticed } := by
  have hsent := congrArg State.fab (eq_of_offNotices (offNotices_sendNotice 11 s.fab.myPos s))
  unfold leaveTold
  rw [raise_fab]
  generalize sendNotice 11 s.fab.myPos s = u at *
  obtain ⟨-, -, hfaulted, -⟩ := eq_of_offBindings (offBindings_bindingsFaulted u)
  rw [hfaulted]; exact hsent

theorem memKept_leaveTold (s : State) : MemKept s (leaveTold s) :=
  memKept_trans (memKept_of_offNotices (offNotices_sendNotice 11 s.fab.myPos s))
    (memKept_trans (memKept_bindingsFaulted _) (memKept_raise (err 0x71 3 11 0x1FF 0) _))

theorem leaveTold_notice (s : State) : .faultNotice 11 s.fab.myPos ∈ (leaveTold s).out := by
  unfold leaveTold
  rw [raise_out]; exact out_subset_bindingsFaulted _ (mem_out_sendNotice ..)

theorem leaveTold_raised (s : State) : Raised 0x71 3 11 0x1FF 0 s (leaveTold s) := by
  have hsent := eq_of_offNotices (offNotices_sendNotice 11 s.fab.myPos s)
  unfold leaveTold
  generalize sendNotice 11 s.fab.myPos s = u at *
  obtain ⟨hsu, herr, -, -⟩ := eq_of_offBindings (offBindings_bindingsFaulted u)
  refine raised_congr (raised_domainErr (by decide) (by decide) _) ?_ ?_ rfl
  · rw [herr, hsent]
  · unfold below7; rw [hsu, hsent]

theorem leaveTold_refuses {s : State} {b : Nat} (h : b ∈ multiParts s) : (brun (leaveTold s) b).fabricFault = true := by
  unfold leaveTold
  rw [brun_raise]
  exact bindingsFaulted_refuses (by rwa [multiParts_congr (ten_sendNotice 11 s.fab.myPos s)])

/-! ### LEAVE -/

/-- A part outside a domain, with no operation in hand and no transaction outstanding; its beat runs on. -/
def alone (s : State) : State :=
  { s with fab := { s.fab with st := 0, join := false, locked := true, ops := [], txns := [] } }

theorem exec_leave {m : Master} {v : W32} {s : State} (hopen : fabricOpen s m = true) (hjoin : bitOf v.toNat 0 = false)
    (hleave : bitOf v.toNat 1 = true) : exec (.leave m v) s = .next (doLeave (byMgmt m s)) := by
  have hcontrol : fabricControl v (byMgmt m s) = doLeave (byMgmt m s) := by unfold fabricControl; simp [hjoin, hleave]
  rw [← hcontrol]
  exact congrArg Host.Outcome.next (if_pos hopen)

/-- Some enabled binding has PARTS above 1. -/
def multiHolds (s : State) : Bool := (liveBindings s).any fun b => holds s b && decide (1 < plParts (planOf s b))

theorem doLeave_refused {s : State} (h : multiHolds s = true) : doLeave s = { s with fab := { s.fab with leaveRefused := true } } := by
  unfold doLeave; exact if_pos h

theorem doLeave_taken {s : State} (h : multiHolds s = false) :
    doLeave s = waitingAborted (alone (if s.fab.st = 1 ∨ s.fab.st = 2 then leaveTold s else s)) := by
  have hparts : multiParts (sendNotice 11 s.fab.myPos s) = multiParts s :=
    multiParts_congr (ten_sendNotice 11 s.fab.myPos s)
  unfold doLeave leaveTold bindingsFaulted
  rw [if_neg (by rw [← multiHolds, h]; decide), hparts]; rfl

theorem multiHolds_iff (s : State) : multiHolds s = true ↔ ∃ b ∈ liveBindings s, holds s b = true ∧ 1 < plParts (planOf s b) := by
  simp [multiHolds]

theorem multiHolds_byMgmt (m : Master) (s : State) : multiHolds (byMgmt m s) = multiHolds s := by rw [byMgmt_eq]; rfl

/-- What the end of the waiting switches leaves of a part that is alone. -/
theorem alone_aborted (s : State) : (waitingAborted (alone s)).fab = (alone s).fab ∧ (waitingAborted (alone s)).err = s.err
    ∧ MemKept s (waitingAborted (alone s)) ∧ s.out ⊆ (waitingAborted (alone s)).out
    ∧ ∀ b, brun (waitingAborted (alone s)) b = brun s b := by
  obtain ⟨-, herr, hfab, hruns⟩ := waitingAborted_rest (alone s)
  exact ⟨hfab, herr, memKept_waitingAborted (alone s), out_subset_waitingAborted (alone s), fun b => by unfold brun; rw [hruns]; rfl⟩

theorem leave_taken_spec (s : State) (hnone : multiHolds s = false) :
    (doLeave s).fab.st = 0 ∧ (doLeave s).fab.beat = s.fab.beat ∧ (doLeave s).fab.sched = s.fab.sched
      ∧ (doLeave s).fab.locked = true ∧ (doLeave s).fab.leaveRefused = s.fab.leaveRefused ∧ MemKept s (doLeave s)
      ∧ ((s.fab.st = 0 ∨ s.fab.st = 3) → (doLeave s).err = s.err)
      ∧ ((s.fab.st = 1 ∨ s.fab.st = 2) → .faultNotice 11 s.fab.myPos ∈ (doLeave s).out ∧ Raised 0x71 3 11 0x1FF 0 s (doLeave s)
          ∧ ∀ b ∈ liveBindings s, 1 < plParts (planOf s b) → (brun (doLeave s) b).fabricFault = true) := by
  rw [doLeave_taken hnone]
  by_cases hin : s.fab.st = 1 ∨ s.fab.st = 2
  · rw [if_pos hin]
    have hfab' := leaveTold_fab s
    have hmem' := memKept_leaveTold s
    have hnotice := leaveTold_notice s
    have hraised := leaveTold_raised s
    have hrefuses := fun b (hb : b ∈ multiParts s) => leaveTold_refuses hb
    generalize leaveTold s = u at *
    obtain ⟨hfab, herr, hmem, hout, hruns⟩ := alone_aborted u
    refine ⟨by rw [hfab]; rfl, ?_, ?_, by rw [hfab]; rfl, ?_, memKept_trans hmem' hmem, fun h => ?_,
      fun _ => ⟨hout hnotice, raised_congr hraised rfl rfl herr, fun b hb hparts => ?_⟩⟩
    · rw [hfab]; exact (congrArg Fabric.beat hfab' :)
    · rw [hfab]; exact (congrArg Fabric.sched hfab' :)
    · rw [hfab]; exact (congrArg Fabric.leaveRefused hfab' :)
    · rcases h with h | h <;> simp [h] at hin
    · rw [hruns]; exact hrefuses b (List.mem_filter.mpr ⟨hb, decide_eq_true hparts⟩)
  · rw [if_neg hin]
    obtain ⟨hfab, herr, hmem, -, -⟩ := alone_aborted s
    exact ⟨by rw [hfab]; rfl, by rw [hfab]; rfl, by rw [hfab]; rfl, by rw [hfab]; rfl, by rw [hfab]; rfl, hmem, fun _ => herr,
      fun h => absurd h hin⟩

end Sys2Proof.Machine

/-- Settles O34: a LEAVE that is taken raises the fault of R306 where the part forms or is a member, and ends alone with its counts. -/
theorem leaveKeepsTheBeat : Obligations.LeaveKeepsTheBeat := by
  unfold Obligations.LeaveKeepsTheBeat
  intro m v s hopen hjoin hleave
  rw [exec_leave hopen hjoin hleave]
  refine ⟨fun hholds => ?_, fun hnone => ⟨_, rfl, ?_⟩⟩
  · rw [doLeave_refused (by rw [multiHolds_byMgmt]; exact (multiHolds_iff s).mpr hholds), byMgmt_fab]
  · have hfree : multiHolds (byMgmt m s) = false := by
      rw [multiHolds_byMgmt, ← Bool.not_eq_true, multiHolds_iff]
      rintro ⟨b, hb, hholds, hparts⟩
      exact absurd (hnone b hb hholds) hparts.not_ge
    have hspec := leave_taken_spec (byMgmt m s) hfree
    rw [byMgmt_eq] at hspec ⊢
    exact hspec
end

section
/-! SUPPORT. Domain fault notices, bonds lost and beat loss (R305 to R307, R542), and beat words (R303, R305), and the statements. -/

open Sys2Proof Sys2Proof.Machine Sys2Proof.Spec

namespace Sys2Proof.Machine

/-! ### Notices (R307) -/

theorem noticed_of_offPorts {s t : State} (h : offPorts t = offPorts s) : t.fab.noticed = s.fab.noticed :=
  (congrArg (fun x : State => x.fab.noticed) h :)

theorem faultView_of_offPorts {s t : State} (h : offPorts t = offPorts s) : faultView t = faultView s := (congrArg faultView h :)

/-- A notice passed on by a part that raises the fault itself: it is on record. -/
def noticeTaken (cause : BitVec 4) (pos : BitVec 9) (down : Bool) (s : State) : State :=
  { passNotice cause pos down s with fab := { (passNotice cause pos down s).fab with
      noticed := (cause, pos) :: (passNotice cause pos down s).fab.noticed } }

theorem exec_domainFaultNotice_known {cause : BitVec 4} {pos : BitVec 9} {s : State} (h : (cause, pos) ∈ s.fab.noticed) (down : Bool) :
    exec (.domainFaultNotice cause ⟨pos, down⟩) s = .next s :=
  congrArg Host.Outcome.next (if_pos (List.contains_iff_mem.mpr h))

theorem exec_domainFaultNotice_new {cause : BitVec 4} {pos : BitVec 9} {s : State} (h : (cause, pos) ∉ s.fab.noticed) (down : Bool) :
    exec (.domainFaultNotice cause ⟨pos, down⟩) s = .next (if s.fab.st = 1 ∨ s.fab.st = 2
      then domainFault (if cause = 11 then 11 else 7) pos.toNat (noticeTaken cause pos down s)
      else passNotice cause pos down s) :=
  congrArg Host.Outcome.next (if_neg fun hmem => h (List.contains_iff_mem.mp hmem))

theorem faultView_noticeTaken (cause : BitVec 4) (pos : BitVec 9) (down : Bool) (s : State) :
    faultView (noticeTaken cause pos down s) = faultView s := by
  show faultView (passNotice cause pos down s) = _
  exact faultView_of_offPorts (offPorts_passNotice cause pos down s)

theorem fabSt_noticeTaken (cause : BitVec 4) (pos : BitVec 9) (down : Bool) (s : State) :
    (noticeTaken cause pos down s).fab.st = s.fab.st := by
  show (passNotice cause pos down s).fab.st = _
  exact fabSt_of_offPorts (offPorts_passNotice cause pos down s)

theorem noticed_sendNotice (cause : BitVec 4) (pos : BitVec 9) (s : State) :
    (sendNotice cause pos s).fab.noticed = (cause, pos) :: s.fab.noticed := by
  unfold sendNotice
  rw [noticed_of_offPorts (offPorts_passNotice ..), noticed_of_offPorts (offPorts_passNotice ..)]

/-- A domain fault adds to the notices on record. -/
theorem noticed_domainFault {s : State} (h : s.fab.st = 1 ∨ s.fab.st = 2) (cause src : Nat) :
    (domainFault cause src s).fab.noticed = (BitVec.ofNat 4 cause, s.fab.myPos) :: s.fab.noticed := by
  have hentered : (faultEntered cause s).fab.noticed = (sendNotice (BitVec.ofNat 4 cause) s.fab.myPos s).fab.noticed := rfl
  rw [domainFault_fab h, hentered, noticed_sendNotice]

theorem domainFaultNotice_spec (cause : BitVec 4) (pos : BitVec 9) (down : Bool) (s : State) :
    ((cause, pos) ∈ s.fab.noticed → exec (.domainFaultNotice cause ⟨pos, down⟩) s = .next s)
    ∧ ((cause, pos) ∉ s.fab.noticed → (s.fab.st = 0 ∨ s.fab.st = 3) →
        ∃ t, exec (.domainFaultNotice cause ⟨pos, down⟩) s = .next t ∧ Sends [.faultNotice cause pos] s t
          ∧ t = { s with out := t.out, fab := { s.fab with ports := t.fab.ports } })
    ∧ ((cause, pos) ∉ s.fab.noticed → (s.fab.st = 1 ∨ s.fab.st = 2) →
        ∃ t, exec (.domainFaultNotice cause ⟨pos, down⟩) s = .next t
          ∧ DomainFaulted (if cause = 11 then 11 else 7) pos.toNat s t ∧ .faultNotice cause pos ∈ t.out
          ∧ (cause, pos) ∈ t.fab.noticed) := by
  refine ⟨fun hknown => exec_domainFaultNotice_known hknown down, fun hnew hout => ?_, fun hnew hin => ?_⟩
  · have hnot : ¬ (s.fab.st = 1 ∨ s.fab.st = 2) := by rcases hout with h | h <;> simp [h]
    rw [exec_domainFaultNotice_new hnew, if_neg hnot]
    exact ⟨_, rfl, sends_emit _ (sends_sendFlits ..), eq_of_offPorts (offPorts_passNotice cause pos down s)⟩
  · rw [exec_domainFaultNotice_new hnew, if_pos hin]
    have hview := faultView_noticeTaken cause pos down s
    have hmember : (noticeTaken cause pos down s).fab.st = 1 ∨ (noticeTaken cause pos down s).fab.st = 2 := by
      rwa [fabSt_noticeTaken]
    have hpassed : .faultNotice cause pos ∈ (noticeTaken cause pos down s).out := mem_out_passNotice cause pos down s
    have hrecord : (cause, pos) ∈ (noticeTaken cause pos down s).fab.noticed := List.mem_cons_self ..
    generalize noticeTaken cause pos down s = u at *
    have hcause : (if cause = 11 then 11 else 7) < 2 ^ 32 := by split <;> decide
    have hpos : pos.toNat < 2 ^ 32 := lt_trans pos.isLt (by decide)
    refine ⟨_, rfl, domainFaulted_congr hview (domainFaulted hmember hcause hpos), out_subset_domainFault _ _ u hpassed, ?_⟩
    rw [noticed_domainFault hmember]; exact List.mem_cons_of_mem _ hrecord

/-! ### A bond lost (R307, R542) -/

/-- The ports of a bond: the downstream one is ports 0 to 3 (R292). -/
def bondOf (down : Bool) : List Nat := (List.range 4).map fun i => if down then i else i + 4

theorem mem_bondOf {down : Bool} {i : Nat} (h : i < 4) : (if down then i else i + 4) ∈ bondOf down :=
  List.mem_map.mpr ⟨i, List.mem_range.mpr h, rfl⟩

theorem not_mem_bondOf {down : Bool} {i : Nat} (h : i < 4) : (if down then i + 4 else i) ∉ bondOf down := by
  intro hmem
  obtain ⟨j, hj, heq⟩ := List.mem_map.mp hmem
  have hj := List.mem_range.mp hj
  cases down
  · simp only [Bool.false_eq_true, if_false] at heq; omega
  · simp only [if_true] at heq; omega

theorem loseBond_eq (down : Bool) (s : State) : loseBond down s = domainFault 9 0x1FF (portsSet 3 (bondOf down) s) := by
  unfold loseBond portsSet bondOf; rw [List.foldl_map]

theorem loseBond_spec (down : Bool) (s : State) :
    (∀ i < 4, (port (loseBond down s) (if down then i else i + 4)).st = 3)
    ∧ (∀ i < 4, (port (loseBond down s) (if down then i + 4 else i)).st = (port s (if down then i + 4 else i)).st)
    ∧ ((s.fab.st = 0 ∨ s.fab.st = 3) → (loseBond down s).fab.st = s.fab.st ∧ (loseBond down s).err = s.err ∧ (loseBond down s).ten = s.ten)
    ∧ ((s.fab.st = 1 ∨ s.fab.st = 2) → DomainFaulted 9 0x1FF s (loseBond down s)) := by
  have hport := port_portsSet 3 (bondOf down) s
  have hframe := portsSet_frame 3 (bondOf down) s
  rw [loseBond_eq]
  generalize portsSet 3 (bondOf down) s = u at *
  have hports := portsCount_domainFault 9 0x1FF u
  have hst : u.fab.st = s.fab.st := by rw [hframe]
  refine ⟨fun i hi => ?_, fun i hi => ?_, fun hout => ?_, fun hin => ?_⟩
  · rw [hports.st, hport, if_pos (mem_bondOf hi)]
  · rw [hports.st, hport, if_neg (not_mem_bondOf hi)]
  · rw [domainFault_of_outside (by rcases hout with h | h <;> simp [hst, h]) (by rcases hout with h | h <;> simp [hst, h]), hframe]
    exact ⟨rfl, rfl, rfl⟩
  · exact domainFaulted_congr (by rw [hframe]; rfl) (domainFaulted (hst ▸ hin) (by decide) (by decide))

theorem exec_bond_lost {down : Bool} {c : Instr} (h : c = .cableDisconnect down ∨ c = .bondDown down) (s : State) :
    exec c s = .next (loseBond down s) := by
  rcases h with rfl | rfl <;> rfl

/-! ### Beat loss (R305) -/

theorem exec_beatLoss {s : State} (hst : s.fab.st = 2) (hpos : s.fab.myPos ≠ 0) : exec .beatLoss s = .next (domainFault 8 0x1FF s) :=
  congrArg Host.Outcome.next (if_pos ⟨hst, hpos⟩)

theorem beatMiss_counted {s : State} (h : s.fab.misses < 3) :
    beatMiss s = { s with fab := { s.fab with misses := s.fab.misses + 1 } } := by
  unfold beatMiss; exact if_neg h.not_ge

theorem beatMiss_lost {s : State} (h : 3 ≤ s.fab.misses) : beatMiss s = domainFault 8 0x1FF s := by
  unfold beatMiss; exact if_pos h

/-! ### Beat words (R303, R305) -/

theorem countsAgree_iff (s : State) (w : BeatWord) : countsAgree s w = true ↔ expects s w.beat := by
  unfold countsAgree expects wordLag; dsimp only
  rw [Bool.or_eq_true, Bool.and_eq_true, beq_iff_eq, beq_iff_eq, beq_iff_eq]
  omega

/-- A word goes on to the neighbour downstream, where there is one behind this part. -/
def wordPassed (w : BeatWord) (s : State) : State := if s.fab.myPos.toNat + 1 < ringN s then sendBeat w s else s

theorem offPorts_wordPassed (w : BeatWord) (s : State) : offPorts (wordPassed w s) = offPorts s := by
  unfold wordPassed; split
  · exact offPorts_sendBeat w s
  · rfl

/-- What a member takes note of in a good word: no miss before the next one. -/
def wordGood (w : BeatWord) (s : State) : State := { s with fab := { s.fab with misses := 0, wordNext := w.beat + 1 } }

/-- A word that does not count: the next one is awaited. -/
def wordBad (s : State) : State := { s with fab := { s.fab with wordNext := s.fab.wordNext + 1 } }

theorem exec_beatWordReceived_master {s : State} (hpos : s.fab.myPos = 0) (w : BeatWord) (onTime : Bool) :
    exec (.beatWordReceived w onTime) s = .next s := congrArg Host.Outcome.next (if_pos hpos)

/-- A word that counts: its CHECK, its count and its time are right. -/
def wordCounts (w : BeatWord) (onTime : Bool) (s : State) : Bool := w.check == crc8 (beatBytes w) && countsAgree s w && onTime

theorem wordCounts_iff (w : BeatWord) (onTime : Bool) (s : State) :
    wordCounts w onTime s = true ↔ w.check = crc8 (beatBytes w) ∧ expects s w.beat ∧ onTime = true := by
  unfold wordCounts
  rw [Bool.and_eq_true, Bool.and_eq_true, beq_iff_eq, countsAgree_iff, and_assoc]

theorem exec_beatWordReceived_member {s : State} (hst : s.fab.st = 2) (hpos : s.fab.myPos ≠ 0) (w : BeatWord) (onTime : Bool) :
    exec (.beatWordReceived w onTime) s = .next (if wordCounts w onTime s then takeToken w (wordPassed w (wordGood w s))
      else beatMiss (wordPassed w (wordBad s))) := by
  have hbad : (!(w.check == crc8 (beatBytes w)) || !countsAgree s w || !onTime) = !wordCounts w onTime s := by
    unfold wordCounts; rw [Bool.not_and, Bool.not_and]
  show execBeatWordReceived w onTime s = _
  unfold execBeatWordReceived; dsimp only
  rw [if_neg hpos, if_neg (by rw [hst]; decide), if_neg (not_not.mpr hst), hbad]
  cases wordCounts w onTime s <;> rfl

theorem takeToken_none {w : BeatWord} (h : w.token = false) (s : State) : takeToken w s = s := by
  unfold takeToken; simp [h]

theorem beatWord_good_spec {s : State} (hst : s.fab.st = 2) (hpos : s.fab.myPos ≠ 0) {w : BeatWord} {onTime : Bool}
    (hgood : w.check = crc8 (beatBytes w) ∧ expects s w.beat ∧ onTime = true) (htoken : w.token = false) :
    ∃ t, exec (.beatWordReceived w onTime) s = .next t
      ∧ t = { s with out := t.out, fab := { s.fab with misses := 0, wordNext := w.beat + 1, ports := t.fab.ports } }
      ∧ (s.fab.myPos.toNat + 1 < ringN s → Sends [.beatWord w] s t)
      ∧ (ringN s ≤ s.fab.myPos.toNat + 1 → t.out = s.out) := by
  rw [exec_beatWordReceived_member hst hpos, if_pos ((wordCounts_iff ..).mpr hgood), takeToken_none htoken]
  refine ⟨_, rfl, eq_of_offPorts (offPorts_wordPassed w (wordGood w s)), fun hbehind => ?_, fun hlast => ?_⟩
  · have hpassed : wordPassed w (wordGood w s) = sendBeat w (wordGood w s) := if_pos hbehind
    rw [hpassed]; exact sends_sendBeat w (wordGood w s)
  · have hpassed : wordPassed w (wordGood w s) = wordGood w s := if_neg hlast.not_gt
    rw [hpassed]; rfl

theorem beatWord_bad_spec {s : State} (hst : s.fab.st = 2) (hpos : s.fab.myPos ≠ 0) {w : BeatWord} {onTime : Bool}
    (hbad : w.check ≠ crc8 (beatBytes w) ∨ ¬ expects s w.beat ∨ onTime = false) :
    ∃ t, exec (.beatWordReceived w onTime) s = .next t
      ∧ (s.fab.misses < 3 → t.fab.misses = s.fab.misses + 1 ∧ t.fab.st = 2 ∧ t.err = s.err)
      ∧ (3 ≤ s.fab.misses → DomainFaulted 8 0x1FF s t) := by
  have hnot : ¬ wordCounts w onTime s = true := by
    rw [wordCounts_iff]
    rintro ⟨hcheck, hcount, htime⟩
    simp [hcheck, hcount, htime] at hbad
  rw [exec_beatWordReceived_member hst hpos, if_neg hnot]
  have hframe := eq_of_offPorts (offPorts_wordPassed w (wordBad s))
  have hview := faultView_of_offPorts (offPorts_wordPassed w (wordBad s))
  generalize wordPassed w (wordBad s) = u at *
  have hmisses : u.fab.misses = s.fab.misses := by rw [hframe]; rfl
  have hin : u.fab.st = 2 := by rw [hframe]; exact hst
  refine ⟨_, rfl, fun hfew => ?_, fun hmany => ?_⟩
  · rw [beatMiss_counted (hmisses ▸ hfew)]
    exact ⟨congrArg (· + 1) hmisses, hin, by rw [hframe]; rfl⟩
  · rw [beatMiss_lost (hmisses ▸ hmany)]
    exact domainFaulted_congr hview (domainFaulted (.inr hin) (by decide) (by decide))

end Sys2Proof.Machine

/-- Settles O35: the notice, the bond lost and the beat lost each lead to one domain fault. -/
theorem domainFaultRaisedOnce : Obligations.DomainFaultRaisedOnce := by
  unfold Obligations.DomainFaultRaisedOnce
  exact ⟨domainFaultNotice_spec, fun down c s h => ⟨_, exec_bond_lost h s, loseBond_spec down s⟩,
    fun s hst hpos => ⟨_, exec_beatLoss hst hpos, domainFaulted (.inr hst) (by decide) (by decide)⟩⟩

/-- Settles O37: a word is good, or it is one more miss. -/
theorem fourMissesLoseTheBeat : Obligations.FourMissesLoseTheBeat := by
  unfold Obligations.FourMissesLoseTheBeat
  exact fun w onTime s => ⟨fun hpos => exec_beatWordReceived_master hpos w onTime, fun hst hpos =>
    ⟨beatWord_good_spec hst hpos, beatWord_bad_spec hst hpos⟩⟩
end

section
/-! SUPPORT. Messages of multi-part operations (R309 to R312): what telling the plan parts leaves, and the statement. -/

open Sys2Proof Sys2Proof.Machine Sys2Proof.Spec

namespace Sys2Proof.Machine

/-! ### What telling the plan parts leaves -/

/-- The fabric without its ports, its transactions and its operations in hand. -/
def domainOf (s : State) : Fabric := { s.fab with ports := [], txns := [], nextTag := 0, ops := [] }

/-- What messages to the plan parts leave (R311, R312): the domain and its counts, the error state and device memory. Operations only end,
at a lead no other than those listed, switches only cease to wait, and the output only grows. -/
structure Told (gone : List MultiOp) (s t : State) : Prop where
  fab   : domainOf t = domainOf s
  err   : t.err = s.err
  mem   : MemKept s t
  ops   : t.fab.ops ⊆ s.fab.ops
  leads : ∀ o ∈ s.fab.ops, o.lead = true → o ∉ gone → o ∈ t.fab.ops
  waits : ∀ x ∈ t.ten.switches, x.epoch = none → x ∈ s.ten.switches
  out   : s.out ⊆ t.out

theorem Told.refl (s : State) : Told [] s s :=
  ⟨rfl, rfl, fun _ => rfl, List.Subset.refl _, fun _ ho _ _ => ho, fun _ hx _ => hx, List.Subset.refl _⟩

theorem Told.trans {l : List MultiOp} {s t u : State} (h : Told l s t) (g : Told l t u) : Told l s u where
  fab := g.fab.trans h.fab
  err := g.err.trans h.err
  mem := memKept_trans h.mem g.mem
  ops := List.Subset.trans g.ops h.ops
  leads := fun o ho hlead hgone => g.leads o (h.leads o ho hlead hgone) hlead hgone
  waits := fun x hx hnone => h.waits x (g.waits x hx hnone) hnone
  out := List.Subset.trans h.out g.out

theorem Told.mono {l k : List MultiOp} {s t : State} (h : Told l s t) (hsub : l ⊆ k) : Told k s t :=
  { h with leads := fun o ho hlead hgone => h.leads o ho hlead fun hmem => hgone (hsub hmem) }

theorem told_forAll {α : Type} {f : α → State → State} {k : List MultiOp} {l : List α} (h : ∀ a ∈ l, ∀ s, Told k s (f a s)) (s : State) :
    Told k s (forAll l f s) :=
  forAll_invariant (P := Told k s) (fun a ha t ht => ht.trans (h a ha t)) ((Told.refl s).mono (List.nil_subset k))

/-- The parts' positions are part of the domain. -/
theorem partPos_of_domain {s t : State} (h : domainOf t = domainOf s) (base i : Nat) : partPos t base i = partPos s base i :=
  (congrArg (fun f : Fabric => partPos { s with fab := f } base i) h :)
theorem myPos_of_domain {s t : State} (h : domainOf t = domainOf s) : t.fab.myPos = s.fab.myPos := (congrArg Fabric.myPos h :)
theorem mySeat_of_domain {s t : State} (h : domainOf t = domainOf s) : t.fab.mySeat = s.fab.mySeat := (congrArg Fabric.mySeat h :)
theorem sched_of_domain {s t : State} (h : domainOf t = domainOf s) : t.fab.sched = s.fab.sched := (congrArg Fabric.sched h :)

/-! ### A message to another part -/

/-- The state without what a transaction that starts changes. -/
def offTxns (s : State) : State := { s with out := [], fab := { s.fab with ports := [], txns := [], nextTag := 0 } }

theorem offTxns_of_offPorts {s t : State} (h : offPorts t = offPorts s) : offTxns t = offTxns s := (congrArg offTxns h :)

theorem offTxns_startTxn (dst : Nat) (down resent : Bool) (data : List Byte) (s : State) :
    offTxns (startTxn dst down resent data s) = offTxns s := rfl

theorem offTxns_sendTxn (dst : Nat) (down resent : Bool) (data : List Byte) (s : State) :
    offTxns (sendTxn dst down resent data s) = offTxns s := by
  unfold sendTxn; rw [offTxns_of_offPorts (offPorts_sendFlits ..), offTxns_startTxn]

theorem offTxns_sendPlan (code dst : Nat) (q : PlanMsg) (s : State) : offTxns (sendPlan code dst q s) = offTxns s := by
  unfold sendPlan; rw [offTxns_sendTxn]; rfl

theorem sends_sendPlan (code dst : Nat) (q : PlanMsg) (s : State) :
    Sends [.planMsg code (BitVec.ofNat 9 dst) q] s (sendPlan code dst q s) := sends_emit _ (sends_sendTxn ..)

theorem told_of_offTxns {s t : State} (h : offTxns t = offTxns s) (hout : s.out ⊆ t.out) : Told [] s t := by
  have hops : t.fab.ops = s.fab.ops := (congrArg (fun x : State => x.fab.ops) h :)
  have hten : t.ten = s.ten := (congrArg State.ten h :)
  exact ⟨(congrArg domainOf h :), (congrArg State.err h :), memKept_of_eq (congrArg State.mem h :) (congrArg State.memKeys h :),
    hops ▸ List.Subset.refl _, fun o ho _ _ => hops ▸ ho, fun x hx _ => hten ▸ hx, hout⟩

theorem out_subset_sends {os : List Out} {s t : State} (h : Sends os s t) : s.out ⊆ t.out ∧ os ⊆ t.out := by
  obtain ⟨⟨fs, hfs⟩, -⟩ := h
  rw [hfs]
  exact ⟨fun x hx => by simp [hx], fun x hx => by simp [hx]⟩

theorem told_sendPlan (code dst : Nat) (q : PlanMsg) (s : State) : Told [] s (sendPlan code dst q s) :=
  told_of_offTxns (offTxns_sendPlan ..) (out_subset_sends (sends_sendPlan ..)).1

theorem mem_out_sendPlan (code dst : Nat) (q : PlanMsg) (s : State) :
    .planMsg code (BitVec.ofNat 9 dst) q ∈ (sendPlan code dst q s).out :=
  (out_subset_sends (sends_sendPlan code dst q s)).2 (List.mem_singleton_self _)

/-! ### This part told as a member -/

theorem told_memberEpoch (q : PlanMsg) (s : State) : Told [] s (memberEpoch q s) where
  fab := rfl
  err := rfl
  mem := fun _ => rfl
  ops := List.filter_subset_self _
  leads := fun o ho hlead _ => List.mem_filter.mpr ⟨ho, by rw [hlead]; rfl⟩
  waits := fun x hx hnone => by
    obtain ⟨o, ho, rfl⟩ := List.mem_map.mp hx
    split at hnone
    · cases hnone
    · rename_i hkept; rw [if_neg hkept]; exact ho
  out := List.Subset.refl _

theorem told_abortSwitch (o : SwitchOp) (r : Refuse) (s : State) : Told [] s (abortSwitch o r s) := by
  have habort := abortSwitch_entries o r s
  obtain ⟨-, herr, hfab, hswitches⟩ := eq_of_offBindings habort.rest
  have hfab : (abortSwitch o r s).fab = s.fab := hfab
  refine ⟨by unfold domainOf; rw [hfab], herr, memKept_abortSwitch o r s, hfab ▸ List.Subset.refl _, fun _ ho _ _ => hfab ▸ ho,
    fun x hx _ => ?_, habort.out⟩
  rw [switches_abortSwitch] at hx
  exact (List.mem_filter.mp hx).1

/-- No operation of a plan is left at this part as a member. -/
def memberDropped (planId : W64) (s : State) : State :=
  { s with fab := { s.fab with ops := s.fab.ops.filter fun x => x.lead || x.planId != planId } }

theorem told_memberDropped (planId : W64) (s : State) : Told [] s (memberDropped planId s) where
  fab := rfl
  err := rfl
  mem := fun _ => rfl
  ops := List.filter_subset_self _
  leads := fun o ho hlead _ => List.mem_filter.mpr ⟨ho, by rw [hlead]; rfl⟩
  waits := fun _ hx _ => hx
  out := List.Subset.refl _

/-- The switches of a plan that wait for their epoch. -/
def planWaits (planId : W64) (s : State) : List SwitchOp := s.ten.switches.filter fun o => o.epoch.isNone && o.planId == planId

theorem memberAbort_eq (planId : W64) (part : BitVec 9) (s : State) : memberAbort planId part s =
    forAll (planWaits planId s) (fun o s => abortSwitch o (0x40, part.toNat + 6 * 2 ^ 12) s) (memberDropped planId s) := rfl

theorem told_memberAbort (planId : W64) (part : BitVec 9) (s : State) : Told [] s (memberAbort planId part s) := by
  rw [memberAbort_eq]
  exact (told_memberDropped planId s).trans (told_forAll (fun o _ t => told_abortSwitch o _ t) _)

/-- No switch of a plan waits for its epoch. -/
def NoneWaits (planId : W64) (t : State) : Prop := ∀ x ∈ t.ten.switches, x.epoch = none → x.planId ≠ planId

theorem noneWaits_memberAbort (planId : W64) (part : BitVec 9) (s : State) : NoneWaits planId (memberAbort planId part s) := by
  intro x hx hnone hplan
  rw [memberAbort_eq, switches_forAll_abort] at hx
  obtain ⟨hmem, hleft⟩ := List.mem_filter.mp hx
  have hwaits : x ∈ planWaits planId s := List.mem_filter.mpr ⟨hmem, by simp [hnone, hplan]⟩
  simp [hwaits] at hleft

theorem NoneWaits.told {planId : W64} {l : List MultiOp} {s t : State} (h : NoneWaits planId s) (g : Told l s t) : NoneWaits planId t :=
  fun x hx hnone => h x (g.waits x hx hnone) hnone

/-! ### The plan parts told by the lead -/

theorem told_tellPart (code : Nat) (q : PlanMsg) (i : Nat) (s : State) : Told [] s (tellPart code q i s) := by
  unfold tellPart; dsimp only
  split
  · split
    · exact told_memberEpoch q s
    · exact told_memberAbort q.planId q.part s
  · exact told_sendPlan ..

theorem mem_out_tellPart {i : Nat} {s : State} (h : partPos s s.fab.mySeat.toNat i ≠ s.fab.myPos.toNat) (code : Nat) (q : PlanMsg) :
    .planMsg code (BitVec.ofNat 9 (partPos s s.fab.mySeat.toNat i)) q ∈ (tellPart code q i s).out := by
  unfold tellPart; dsimp only
  rw [if_neg h]; exact mem_out_sendPlan ..

theorem noneWaits_tellPart {i : Nat} {s : State} (h : partPos s s.fab.mySeat.toNat i = s.fab.myPos.toNat) (q : PlanMsg) :
    NoneWaits q.planId (tellPart 3 q i s) := by
  unfold tellPart; dsimp only
  rw [if_pos h, if_neg (by decide)]; exact noneWaits_memberAbort q.planId q.part s

/-- Position and seat of this part, and so where each plan part lies, stay while the plan parts are told. -/
theorem place_of_domain {s t : State} (h : domainOf t = domainOf s) (i : Nat) :
    partPos t t.fab.mySeat.toNat i = partPos s s.fab.mySeat.toNat i ∧ t.fab.myPos.toNat = s.fab.myPos.toNat := by
  rw [mySeat_of_domain h, myPos_of_domain h, partPos_of_domain h]; exact ⟨rfl, rfl⟩

/-- Each plan part told at another part has its message in the output. -/
theorem mem_out_tellParts {i : Nat} {l : List Nat} (hi : i ∈ l) {s : State}
    (h : partPos s s.fab.mySeat.toNat i ≠ s.fab.myPos.toNat) (code : Nat) (q : PlanMsg) :
    .planMsg code (BitVec.ofNat 9 (partPos s s.fab.mySeat.toNat i)) q ∈ (forAll l (tellPart code q) s).out := by
  refine forAll_reaches (P := fun t => domainOf t = domainOf s)
    (Q := fun t => .planMsg code (BitVec.ofNat 9 (partPos s s.fab.mySeat.toNat i)) q ∈ t.out) hi rfl
    (fun j _ _ t ht => (told_tellPart code q j t).fab.trans ht) (fun t ht => ?_) (fun j _ _ t ht => (told_tellPart code q j t).out ht)
  obtain ⟨hpart, hme⟩ := place_of_domain ht i
  rw [← hpart]
  exact mem_out_tellPart (by rwa [hpart, hme]) code q

/-- The plan part that is this part's own has its waiting switch ended. -/
theorem noneWaits_tellParts {i : Nat} {l : List Nat} (hi : i ∈ l) {s : State}
    (h : partPos s s.fab.mySeat.toNat i = s.fab.myPos.toNat) (q : PlanMsg) : NoneWaits q.planId (forAll l (tellPart 3 q) s) := by
  refine forAll_reaches (P := fun t => domainOf t = domainOf s) (Q := NoneWaits q.planId) hi rfl
    (fun j _ _ t ht => (told_tellPart 3 q j t).fab.trans ht) (fun t ht => ?_) (fun j _ _ t ht => ht.told (told_tellPart 3 q j t))
  obtain ⟨hpart, hme⟩ := place_of_domain ht i
  exact noneWaits_tellPart (by rwa [hpart, hme]) q

/-! ### Ready and refusal messages (R311, R312) -/

theorem exec_outside_domain {q : PlanMsg} {s : State} (hst : s.fab.st ≠ 2) {c : Instr} (h : c = .readyMessage q ∨ c = .refusalMessage q
    ∨ c = .epochMessage q ∨ c = .abortMessage q) : exec c s = .next s := by
  rcases h with rfl | rfl | rfl | rfl <;> exact congrArg Host.Outcome.next (if_neg hst)

theorem exec_readyMessage {s : State} (hst : s.fab.st = 2) (q : PlanMsg) :
    exec (.readyMessage q) s = .next (leadReady q.planId q.part 0 s) := congrArg Host.Outcome.next (if_pos hst)
theorem exec_refusalMessage {s : State} (hst : s.fab.st = 2) (q : PlanMsg) :
    exec (.refusalMessage q) s = .next (leadRefusal q.planId q.part s) := congrArg Host.Outcome.next (if_pos hst)
theorem exec_epochMessage {s : State} (hst : s.fab.st = 2) (q : PlanMsg) :
    exec (.epochMessage q) s = .next (memberEpoch q s) := congrArg Host.Outcome.next (if_pos hst)
theorem exec_abortMessage {s : State} (hst : s.fab.st = 2) (q : PlanMsg) :
    exec (.abortMessage q) s = .next (memberAbort q.planId q.part s) := congrArg Host.Outcome.next (if_pos hst)

/-- The lead without its operation of a plan. -/
def leadTaken (planId : W64) (s : State) : State :=
  { s with fab := { s.fab with ops := s.fab.ops.filter fun x => !(x.lead && x.planId == planId) } }

theorem not_lead_of_leadTaken {planId : W64} {l : List MultiOp} {s t : State} (h : Told l (leadTaken planId s) t) :
    ∀ x ∈ t.fab.ops, x.lead = true → x.planId ≠ planId := by
  intro x hx hlead hplan
  have hleft := (List.mem_filter.mp (h.ops hx)).2
  simp [hlead, hplan] at hleft

/-- The message that names the first epoch whose first beat comes the lead and 2 beats later (R311). -/
def epochMsg (planId : W64) (s : State) : PlanMsg :=
  { planId := planId, part := 0, reason := 0, detail := 0
    epoch := BitVec.ofNat 64 ((s.fab.sched.toNat + s.fab.lead.toNat + 2 + 1023) / 1024) }

/-- A ready message of a plan part that had sent none. -/
theorem leadReady_new {planId : W64} {part : BitVec 9} {s : State} {o : MultiOp} (ho : leadOp s planId = o) (hnew : part ∉ o.ready) :
    leadReady planId part 0 s = if 0 < o.parts ∧ o.parts ≤ o.ready.length + 1
      then forAll (List.range o.parts) (tellPart 2 (epochMsg planId s)) (leadTaken planId s)
      else { s with fab := { s.fab with ops := (leadTaken planId s).fab.ops ++ [{ o with ready := o.ready ++ [part] }] } } := by
  have hready : (if o.ready.contains part then o.ready else o.ready ++ [part]) = o.ready ++ [part] :=
    if_neg fun hmem => hnew (List.contains_iff_mem.mp hmem)
  unfold leadReady; dsimp only
  rw [ho, hready, Nat.max_zero, List.length_append]; rfl

theorem readyMessage_kept (q : PlanMsg) (o : MultiOp) (s : State) (hst : s.fab.st = 2) (ho : leadOp s q.planId = o)
    (hnew : q.part ∉ o.ready) (hmore : o.parts = 0 ∨ o.ready.length + 1 < o.parts) :
    exec (.readyMessage q) s = .next { s with fab := { s.fab with
      ops := s.fab.ops.filter (fun x => !(x.lead && x.planId == q.planId)) ++ [{ o with ready := o.ready ++ [q.part] }] } } := by
  rw [exec_readyMessage hst, leadReady_new ho hnew, if_neg (by omega)]; rfl

theorem readyMessage_last (q : PlanMsg) (o : MultiOp) (s : State) (hst : s.fab.st = 2) (ho : leadOp s q.planId = o)
    (hnew : q.part ∉ o.ready) (hsome : 0 < o.parts) (hall : o.parts ≤ o.ready.length + 1) :
    ∃ t, exec (.readyMessage q) s = .next t
      ∧ (∀ x ∈ t.fab.ops, x.lead = true → x.planId ≠ q.planId) ∧ t.fab.sched = s.fab.sched
      ∧ ∀ i < o.parts, partPos s s.fab.mySeat.toNat i ≠ s.fab.myPos.toNat →
          .planMsg 2 (BitVec.ofNat 9 (partPos s s.fab.mySeat.toNat i))
            { planId := q.planId, part := 0, reason := 0, detail := 0,
              epoch := BitVec.ofNat 64 ((s.fab.sched.toNat + s.fab.lead.toNat + 2 + 1023) / 1024) } ∈ t.out := by
  rw [exec_readyMessage hst, leadReady_new ho hnew, if_pos ⟨hsome, hall⟩]
  have htold : Told [] (leadTaken q.planId s) (forAll (List.range o.parts) (tellPart 2 (epochMsg q.planId s)) (leadTaken q.planId s)) :=
    told_forAll (fun i _ t => told_tellPart 2 _ i t) _
  exact ⟨_, rfl, not_lead_of_leadTaken htold, sched_of_domain htold.fab, fun i hi hother =>
    mem_out_tellParts (s := leadTaken q.planId s) (List.mem_range.mpr hi) hother 2 (epochMsg q.planId s)⟩

/-! ### An operation aborted by its lead (R312) -/

/-- The operation gone from those in hand. -/
def opDropped (o : MultiOp) (s : State) : State := { s with fab := { s.fab with ops := s.fab.ops.filter (· != o) } }

/-- The message that tells a plan part of an abort: check 6 of Table 10.4. -/
def abortMsg (o : MultiOp) (part : BitVec 9) : PlanMsg :=
  { planId := o.planId, part := part, reason := 0x40, detail := BitVec.ofNat 32 (part.toNat + 6 * 2 ^ 12), epoch := 0 }

theorem leadAbort_eq (o : MultiOp) (part : BitVec 9) (s : State) :
    leadAbort o part s = forAll (toldParts s o) (tellPart 3 (abortMsg o part)) (opDropped o s) := rfl

theorem told_opDropped (o : MultiOp) (s : State) : Told [o] s (opDropped o s) where
  fab := rfl
  err := rfl
  mem := fun _ => rfl
  ops := List.filter_subset_self _
  leads := fun _ hx _ hne => List.mem_filter.mpr ⟨hx, bne_iff_ne.mpr fun h => hne (List.mem_singleton.mpr h)⟩
  waits := fun _ hx _ => hx
  out := List.Subset.refl _

theorem told_partsAborted (o : MultiOp) (part : BitVec 9) (l : List Nat) (s : State) : Told [] s (forAll l (tellPart 3 (abortMsg o part)) s) :=
  told_forAll (fun i _ t => told_tellPart 3 _ i t) s

theorem told_leadAbort (o : MultiOp) (part : BitVec 9) (s : State) : Told [o] s (leadAbort o part s) := by
  rw [leadAbort_eq]
  exact (told_opDropped o s).trans ((told_partsAborted o part _ _).mono (List.nil_subset _))

theorem refusalMessage_spec (q : PlanMsg) (s : State) (hst : s.fab.st = 2) : ∃ t, exec (.refusalMessage q) s = .next t
    ∧ ∀ x ∈ t.fab.ops, x.lead = true → x.planId ≠ q.planId :=
  ⟨_, exec_refusalMessage hst q, not_lead_of_leadTaken (told_leadAbort _ q.part (leadTaken q.planId s))⟩

/-- The operation is gone, and every plan part is told, this part's waiting switch with them. -/
def AbortTold (o : MultiOp) (s t : State) : Prop :=
  o ∉ t.fab.ops
    ∧ (∀ i < o.parts, partPos s s.fab.mySeat.toNat i ≠ s.fab.myPos.toNat →
        .planMsg 3 (BitVec.ofNat 9 (partPos s s.fab.mySeat.toNat i)) (abortMsg o 0x1FF) ∈ t.out)
    ∧ ∀ i < o.parts, partPos s s.fab.mySeat.toNat i = s.fab.myPos.toNat → NoneWaits o.planId t

theorem AbortTold.told {o : MultiOp} {l : List MultiOp} {s t u : State} (h : AbortTold o s t) (g : Told l t u) : AbortTold o s u := by
  obtain ⟨hgone, hsent, hended⟩ := h
  exact ⟨fun hmem => hgone (g.ops hmem), fun i hi hother => g.out (hsent i hi hother), fun i hi hown => (hended i hi hown).told g⟩

theorem mem_toldParts {o : MultiOp} {i : Nat} (h : i < o.parts) (s : State) : i ∈ toldParts s o := by
  unfold toldParts
  rw [if_pos (by omega)]; exact List.mem_range.mpr h

theorem abortTold_leadAbort {s t : State} (h : domainOf t = domainOf s) (o : MultiOp) : AbortTold o s (leadAbort o 0x1FF t) := by
  have hplace : ∀ i, partPos (opDropped o t) (opDropped o t).fab.mySeat.toNat i = partPos s s.fab.mySeat.toNat i
      ∧ (opDropped o t).fab.myPos.toNat = s.fab.myPos.toNat := place_of_domain (t := opDropped o t) h
  rw [leadAbort_eq]
  refine ⟨fun hmem => ?_, fun i hi hother => ?_, fun i hi hown => ?_⟩
  · have hleft := (List.mem_filter.mp ((told_partsAborted o 0x1FF _ (opDropped o t)).ops hmem)).2
    simp at hleft
  · obtain ⟨hpart, hme⟩ := hplace i
    rw [← hpart]
    exact mem_out_tellParts (mem_toldParts hi t) (by rwa [hpart, hme]) 3 (abortMsg o 0x1FF)
  · obtain ⟨hpart, hme⟩ := hplace i
    exact noneWaits_tellParts (mem_toldParts hi t) (by rwa [hpart, hme]) (abortMsg o 0x1FF)

/-! ### Epoch and abort messages at a member (R311, R312) -/

theorem epochMessage_spec (q : PlanMsg) (s : State) (hst : s.fab.st = 2) : ∃ t, exec (.epochMessage q) s = .next t
    ∧ t.ten = { s.ten with switches := s.ten.switches.map fun o =>
        if o.epoch = none ∧ o.planId = q.planId then { o with epoch := some q.epoch } else o }
    ∧ ∀ x ∈ t.fab.ops, x.lead = false → x.planId ≠ q.planId := by
  refine ⟨_, exec_epochMessage hst q, ?_, fun x hx hmember hplan => ?_⟩
  · unfold memberEpoch
    simp only [Option.isNone_iff_eq_none]
  · have hleft := (List.mem_filter.mp hx).2
    simp [hmember, hplan] at hleft

theorem entrySt_refuse (c : Option CmdRef) (b : Option Nat) (r : Refuse) (s : State) (j : Nat) :
    (entry (refuse c b r s) j).st = (entry s j).st := by
  rw [refuse_eq, entry_of_control (control_replyOpt ..)]
  cases b with
  | none => rfl
  | some b =>
    show (entry (modEntry b (fun e => { e with lastReason := BitVec.ofNat 8 r.1, lastDetail := BitVec.ofNat 32 r.2 }) s) j).st = _
    rw [entry_modEntry]; split
    · rename_i hj; rw [hj]
    · rfl

/-- The bindings that a switch names are back in the states before it (R312). -/
theorem entrySt_restoreStates {o : SwitchOp} {b : Nat} (hb : b ∈ switchIns o ++ o.outgoing) (s : State) :
    (entry (restoreStates o s) b).st = (brun s b).prev := by
  unfold restoreStates
  have hstep : ∀ t : State, t.ten.runs = s.ten.runs → (brun t b).prev = (brun s b).prev := fun t ht => by unfold brun; rw [ht]
  have hgoal := forAll_reaches (f := fun b s => modEntry b (fun e => { e with st := (brun s b).prev }) s)
    (P := fun t => t.ten.runs = s.ten.runs) (Q := fun t => t.ten.runs = s.ten.runs ∧ (entry t b).st = (brun s b).prev) hb rfl
    (fun _ _ _ _ ht => ht) (fun t ht => ⟨ht, by rw [entry_modEntry_same]; exact hstep t ht⟩) (fun j _ _ t ⟨ht, hst⟩ => ⟨ht, ?_⟩)
  · exact hgoal.2
  · rw [entry_modEntry]; split
    · rename_i hj; rw [← hj]; exact hstep t ht
    · exact hst

theorem abortMessage_spec (q : PlanMsg) (s : State) (hst : s.fab.st = 2) : ∃ t, exec (.abortMessage q) s = .next t
    ∧ (∀ o ∈ t.ten.switches, o.epoch = none → o.planId ≠ q.planId)
    ∧ ∀ b o, s.ten.switches.filter (fun o => o.epoch.isNone && o.planId == q.planId) = [o] →
        (b ∈ switchIns o ++ o.outgoing → (entry t b).st = (brun s b).prev)
        ∧ (b ∉ switchIns o ++ o.outgoing → (entry t b).st = (entry s b).st) := by
  refine ⟨_, exec_abortMessage hst q, noneWaits_memberAbort q.planId q.part s, fun b o hone => ?_⟩
  have hplan : planWaits q.planId s = [o] := hone
  rw [memberAbort_eq, hplan, forAll_one]
  refine ⟨fun hb => ?_, fun hb => ?_⟩
  · unfold abortSwitch
    rw [entrySt_refuse, entrySt_restoreStates hb]; rfl
  · rw [(abortSwitch_entries o _ _).entry b hb]; rfl

/-! ### Waits that end (R312) -/

/-- A lead has waited 65,536 schedule beats for its ready messages. -/
def readyOverdue (s : State) (o : MultiOp) : Bool :=
  o.lead && match o.since with | some t => decide (t.toNat + 65536 ≤ s.fab.sched.toNat) | none => false

theorem readyOverdue_iff (s : State) (o : MultiOp) :
    readyOverdue s o = true ↔ o.lead = true ∧ ∃ w, o.since = some w ∧ w.toNat + 65536 ≤ s.fab.sched.toNat := by
  unfold readyOverdue
  cases o.since <;> simp

theorem exec_readyWaitTimeout (s : State) :
    exec .readyWaitTimeout s = .next (forAll (s.fab.ops.filter (readyOverdue s)) (fun o => leadAbort o 0x1FF) s) := rfl

theorem readyWaitTimeout_spec (s : State) : ∃ t, exec .readyWaitTimeout s = .next t
    ∧ t.fab.st = s.fab.st ∧ t.fab.beat = s.fab.beat ∧ t.fab.sched = s.fab.sched ∧ t.err = s.err ∧ MemKept s t
    ∧ ((∀ o ∈ s.fab.ops, o.lead = true → ∀ w, o.since = some w → s.fab.sched.toNat < w.toNat + 65536) → t = s)
    ∧ (∀ o ∈ s.fab.ops, o.lead = true → (∀ w, o.since = some w → s.fab.sched.toNat < w.toNat + 65536) → o ∈ t.fab.ops)
    ∧ ∀ o ∈ s.fab.ops, o.lead = true → (∃ w, o.since = some w ∧ w.toNat + 65536 ≤ s.fab.sched.toNat) → AbortTold o s t := by
  have hintime : ∀ o, (∀ w, o.since = some w → s.fab.sched.toNat < w.toNat + 65536) → ¬ readyOverdue s o = true := fun o hwait hdue => by
    obtain ⟨-, w, hw, hle⟩ := (readyOverdue_iff s o).mp hdue
    exact absurd hle (hwait w hw).not_ge
  have hstep : ∀ o ∈ s.fab.ops.filter (readyOverdue s), ∀ t, Told (s.fab.ops.filter (readyOverdue s)) t (leadAbort o 0x1FF t) :=
    fun o ho t => (told_leadAbort o 0x1FF t).mono fun x hx => List.mem_singleton.mp hx ▸ ho
  have htold := told_forAll hstep s
  refine ⟨_, exec_readyWaitTimeout s, (congrArg Fabric.st htold.fab :), (congrArg Fabric.beat htold.fab :), sched_of_domain htold.fab,
    htold.err, htold.mem, fun hall => ?_, fun o ho hlead hwait => ?_, fun o ho hlead hdue => ?_⟩
  · rw [List.filter_eq_nil_iff.mpr fun o ho hdue => hintime o (hall o ho ((readyOverdue_iff s o).mp hdue).1) hdue]; rfl
  · exact htold.leads o ho hlead fun hmem => hintime o hwait (List.mem_filter.mp hmem).2
  · exact forAll_reaches (P := fun t => domainOf t = domainOf s) (Q := AbortTold o s)
      (List.mem_filter.mpr ⟨ho, (readyOverdue_iff s o).mpr ⟨hlead, hdue⟩⟩) rfl (fun x hx _ t ht => (hstep x hx t).fab.trans ht)
      (fun _ ht => abortTold_leadAbort ht o) (fun x hx _ t ht => ht.told (hstep x hx t))

/-- A member has waited 131,072 schedule beats for the epoch or the abort. -/
def epochOverdue (s : State) (o : MultiOp) : Bool :=
  !o.lead && match o.sent with | some t => decide (t.toNat + 131072 ≤ s.fab.sched.toNat) | none => false

theorem epochOverdue_iff (s : State) (o : MultiOp) :
    epochOverdue s o = true ↔ o.lead = false ∧ ∃ w, o.sent = some w ∧ w.toNat + 131072 ≤ s.fab.sched.toNat := by
  unfold epochOverdue
  cases o.sent <;> simp

theorem exec_epochWaitTimeout (s : State) :
    exec .epochWaitTimeout s = .next (forAll (s.fab.ops.filter (epochOverdue s)) (fun o => memberAbort o.planId 0x1FF) s) := rfl

theorem epochWaitTimeout_spec (s : State) : ∃ t, exec .epochWaitTimeout s = .next t
    ∧ ((∀ o ∈ s.fab.ops, o.lead = false → ∀ w, o.sent = some w → s.fab.sched.toNat < w.toNat + 131072) → t = s)
    ∧ ∀ o ∈ s.fab.ops, o.lead = false → (∃ w, o.sent = some w ∧ w.toNat + 131072 ≤ s.fab.sched.toNat) →
        NoneWaits o.planId t := by
  refine ⟨_, exec_epochWaitTimeout s, fun hall => ?_, fun o ho hmember hdue => ?_⟩
  · have hnone : s.fab.ops.filter (epochOverdue s) = [] := List.filter_eq_nil_iff.mpr fun o ho hdue => by
      obtain ⟨hmember, w, hw, hle⟩ := (epochOverdue_iff s o).mp hdue
      exact absurd hle (hall o ho hmember w hw).not_ge
    rw [hnone]; rfl
  · exact forAll_reaches (P := fun _ => True) (Q := NoneWaits o.planId)
      (List.mem_filter.mpr ⟨ho, (epochOverdue_iff s o).mpr ⟨hmember, hdue⟩⟩) trivial (fun _ _ _ _ _ => trivial)
      (fun t _ => noneWaits_memberAbort o.planId 0x1FF t) (fun x _ _ t ht => ht.told (told_memberAbort x.planId 0x1FF t))

end Sys2Proof.Machine

/-- Settles O40, message by message and wait by wait. -/
theorem multiPartOperations : Obligations.MultiPartOperations := by
  unfold Obligations.MultiPartOperations
  exact ⟨fun _ _ hst _ h => exec_outside_domain hst h, readyMessage_kept, readyMessage_last, refusalMessage_spec, epochMessage_spec,
    abortMessage_spec, readyWaitTimeout_spec, epochWaitTimeout_spec⟩
end

section
/-! SUPPORT. What leaves the fabric alone: page tables, prefix trees, records, stages 1 to 5 of a step boundary (R265 to R281, R335), and
the release of a binding (R347 to R349). -/

open Sys2Proof Sys2Proof.Machine Sys2Proof.Spec

namespace Sys2Proof.Machine

theorem forAll_fab {α : Type} {f : α → State → State} (h : ∀ a s, (f a s).fab = s.fab) (l : List α) (s : State) :
    (forAll l f s).fab = s.fab := forAll_keeps State.fab f h l s

/-! ### Accesses under the frame owner check (R352) -/

theorem fab_of_offStep {s t : State} (h : offStep t = offStep s) : t.fab = s.fab := (congrArg State.fab h :)

@[simp] theorem endStep_fab (b : Nat) (s : State) : (endStep b s).fab = s.fab := fab_of_offStep (offStep_endStep b s)

@[simp] theorem servingFault_fab (b f blk : Nat) (write : Bool) (s : State) : (servingFault b f blk write s).fab = s.fab := by
  simp [servingFault]

@[simp] theorem putOf_fab (b a : Nat) (bs : List Byte) (s : State) : (putOf b a bs s).fab = s.fab := by
  unfold putOf; split <;> simp

@[simp] theorem setPte_fab (b f i v : Nat) (s : State) : (setPte b f i v s).fab = s.fab := by simp [setPte]

/-! ### Prefix trees (R275 to R281) -/

@[simp] theorem layNode_fab (b n : Nat) (s : State) : (layNode b n s).fab = s.fab := by
  unfold layNode; split <;> simp

@[simp] theorem setNode_fab (b n : Nat) (x : Option Node) (s : State) : (setNode b n x s).fab = s.fab := by
  unfold setNode; dsimp only
  rw [forAll_fab (layNode_fab b), modBrun_fab]

@[simp] theorem modNode_fab (b n : Nat) (f : Node → Node) (s : State) : (modNode b n f s).fab = s.fab := by
  unfold modNode; split <;> simp

@[simp] theorem freeNode_fab (b n : Nat) (s : State) : (freeNode b n s).fab = s.fab := by
  unfold freeNode; split
  · rfl
  · split
    · rw [forAll_fab (returnFrame_fab b true), setNode_fab]
    · rfl

@[simp] theorem bumpHome_fab (b off n : Nat) (s : State) : (bumpHome b off n s).fab = s.fab := by simp [bumpHome]

@[simp] theorem dropTranslation_fab (b c stream p : Nat) (s : State) : (dropTranslation b c stream p s).fab = s.fab := by
  have hcores : ∀ hit : Option TsEntry → Bool, (forAll (mapCores s b) (fun k s =>
      if ((core s k).ts.filter fun x => hit x.2).length = 0 then s
      else bump (clOf k) 0x718 ((core s k).ts.filter fun x => hit x.2).length
        (modCore k (fun q => { q with ts := q.ts.filter fun x => !hit x.2 }) s)) s).fab = s.fab := fun hit =>
    forAll_fab (fun k s => by split <;> simp) _ _
  unfold dropTranslation; extract_lets hit s1 o keep
  split
  · exact hcores hit
  · rw [bumpHome_fab, modBrun_fab]; exact hcores hit

@[simp] theorem dropReference_fab (b c p stream frame : Nat) (s : State) : (dropReference b c p stream frame s).fab = s.fab := by
  unfold dropReference; split
  · rfl
  · extract_lets named; split <;> simp

@[simp] theorem dropPage_fab (b c stream p : Nat) (s : State) : (dropPage b c stream p s).fab = s.fab := by
  unfold dropPage; split
  · rfl
  · dsimp only; split
    · rfl
    · split <;> simp [returnLater]

/-! ### Frames and tree nodes entered -/

@[simp] theorem keyFrame_fab (f b : Nat) (s : State) : (keyFrame f b s).fab = s.fab := by
  obtain ⟨k, m, h⟩ := keyFrame_eq f b s
  rw [h]

theorem allocFrame_fab {b q f : Nat} {paged : Bool} {s t : State} (h : allocFrame b q paged s = some (f, t)) : t.fab = s.fab := by
  unfold allocFrame at h; dsimp only at h
  split at h
  · cases h
  split at h
  · cases h
  split at h
  · cases h
  next f' _ =>
    have hkeyed : (tickFresh (keyFrame f' b (setOwner f' (.tenant b) s))).fab = s.fab := by simp
    generalize tickFresh (keyFrame f' b (setOwner f' (.tenant b) s)) = x at h hkeyed
    have hcharged : (if paged then modEntry b (fun e => { e with pageUsed := e.pageUsed + 1 }) x else x).fab = s.fab := by
      split
      · rw [modEntry_fab, hkeyed]
      · exact hkeyed
    simp only [Option.some.injEq, Prod.mk.injEq] at h
    obtain ⟨-, rfl⟩ := h
    split <;> exact hcharged

theorem insertNode_fab {b c parent lo n count i : Nat} {s t : State} (h : insertNode b c parent lo n count s = some (i, t)) :
    t.fab = s.fab := by
  unfold insertNode at h
  split at h
  · cases h
  next f s1 halloc =>
    dsimp only at h
    split at h
    · cases h
    · simp only [Option.some.injEq, Prod.mk.injEq] at h
      obtain ⟨-, rfl⟩ := h
      rw [setNode_fab, forAll_fab (fun _ _ => putOf_fab ..), putOf_fab, allocFrame_fab halloc]

@[simp] theorem offerPartial_fab (c : Nat) (s : State) : (offerPartial c s).fab = s.fab := by
  unfold offerPartial; extract_lets b x r t lo at_ n
  split
  · rfl
  · split
    · rfl
    next s1 hnode =>
      rw [forAll_fab (fun y t => by split <;> simp), insertNode_fab hnode]

/-! ### Records -/

@[simp] theorem clearRecord_fab (c : Nat) (s : State) : (clearRecord c s).fab = s.fab := by
  unfold clearRecord; extract_lets b s1 s2 clean srv s3
  have hcleared : s2.fab = s1.fab := by simp [s2]
  have hcarries : s3.fab = s2.fab := by clear_value s2; rfl
  rw [modEntry_fab, hcarries, hcleared, modBrun_fab]

@[simp] theorem releaseRecord_fab (c : Nat) (s : State) : (releaseRecord c s).fab = s.fab := by
  unfold releaseRecord; extract_lets b s0 x r p hi s1 s2 s3 s4 s5
  have hpages : s1.fab = s0.fab := forAll_fab (fun y t => by
    dsimp only; split
    · rfl
    · show (modBrun _ _ _).fab = _
      rw [modBrun_fab, forAll_fab (fun i u => by split <;> rfl), forAll_fab (fun q u => dropPage_fab ..)]) _ _
  have hrefs : s2.fab = s1.fab := forAll_fab (fun _ _ => modNode_fab ..) _ _
  have hwalked : s3.fab = s2.fab := forAll_fab (fun _ _ => modNode_fab ..) _ _
  have hmatched : s4.fab = s3.fab := forAll_fab (fun _ _ => modNode_fab ..) _ _
  have hframes : s5.fab = s4.fab := forAll_fab (f := returnLater b) (fun _ _ => rfl) _ _
  rw [bumpHome_fab, clearRecord_fab, hframes, hmatched, hwalked, hrefs, hpages]
  exact offerPartial_fab c s

@[simp] theorem endWork_fab (r status : Nat) (s : State) : (endWork r status s).fab = s.fab :=
  (congrArg (·.2.2.1) (control_endWork r status s) :)

@[simp] theorem tellPartner_fab (c status : Nat) (ends : Bool) (s : State) : (tellPartner c status ends s).fab = s.fab := by
  unfold tellPartner; split
  · rfl
  · split
    · rfl
    · split <;> rfl

@[simp] theorem vacate_fab (c : Nat) (s : State) : (vacate c s).fab = s.fab := by simp [vacate]
@[simp] theorem endRecord_fab (c : Nat) (s : State) : (endRecord c s).fab = s.fab := by simp [endRecord]
@[simp] theorem idleRecord_fab (c : Nat) (s : State) : (idleRecord c s).fab = s.fab := by simp [idleRecord]

@[simp] theorem settleEnd_fab (c : Nat) (s : State) : (settleEnd c s).fab = s.fab := by
  unfold settleEnd; split
  · rfl
  next e _ =>
    extract_lets x ends s1
    have hworked : s1.fab = s.fab := by
      show (tellPartner ..).fab = _
      rw [tellPartner_fab, endWork_fab, modCtxRun_fab]
    split
    · rfl
    · split
      · rw [endRecord_fab, hworked]
      · rw [idleRecord_fab, hworked]

@[simp] theorem cancelRecord_fab (c status : Nat) (s : State) : (cancelRecord c status s).fab = s.fab := by simp [cancelRecord]

/-! ### Stages 1 to 5 (R265, R335) -/

@[simp] theorem stage1_fab (b : Nat) (s : State) : (stage1 b s).fab = s.fab := by
  unfold stage1
  exact forAll_fab (fun c t => by rw [modCtxRun_fab, forAll_fab (fun n u => modNode_fab ..)]) _ _

@[simp] theorem quiesceRecords_fab (b : Nat) (s : State) : (quiesceRecords b s).fab = s.fab := by
  unfold quiesceRecords; split
  · exact forAll_fab (fun c t => by split <;> simp) _ _
  · rfl

@[simp] theorem stage2_fab (b : Nat) (s : State) : (stage2 b s).fab = s.fab := by
  unfold stage2; extract_lets reqs s1 s1' s2
  have hreqs : s1.fab = s.fab := forAll_fab (fun x t => by
    dsimp only; split
    · exact forAll_fab (fun c u => by split <;> simp) _ _
    · exact forAll_fab (fun c u => cancelRecord_fab ..) _ _) _ _
  have hquiesced : s1'.fab = s1.fab := quiesceRecords_fab b s1
  have hreleased : s2.fab = s1'.fab := forAll_fab (fun c t => by split <;> simp) _ _
  rw [forAll_fab (fun q t => finish_fab ..), modBrun_fab, hreleased, hquiesced, hreqs]

@[simp] theorem stage3_fab (b : Nat) (s : State) : (stage3 b s).fab = s.fab := by
  unfold stage3
  refine forAll_fab (fun c t => ?_) _ _
  refine forAll_fab (fun y u => ?_) _ _
  exact forAll_fab (fun q v => by dsimp only; split <;> simp) _ _

theorem insertPrompt_fab (b c : Nat) : ∀ (fuel : Nat) (s : State), (insertPrompt b c fuel s).fab = s.fab
  | 0, _ => rfl
  | fuel + 1, s => by
    unfold insertPrompt; extract_lets x r t at_ d lo
    split
    · rfl
    · split
      · rfl
      · split
        · rfl
        next n s1 hnode =>
          rw [insertPrompt_fab b c fuel, modCtxRun_fab, modCtx_fab, forAll_fab (fun y t => by split <;> simp), insertNode_fab hnode]

@[simp] theorem stage4_fab (b : Nat) (s : State) : (stage4 b s).fab = s.fab := by
  unfold stage4
  exact forAll_fab (fun c t => by split <;> simp [insertPrompt_fab]) _ _

@[simp] theorem stage5_fab (b : Nat) (s : State) : (stage5 b s).fab = s.fab := by
  unfold stage5; dsimp only
  rw [forAll_fab (freeNode_fab b), modBrun_fab, forAll_fab (returnFrame_fab b true)]

@[simp] theorem stagesTo5_fab (b : Nat) (s : State) : (stagesTo5 b s).fab = s.fab := by
  unfold stagesTo5; dsimp only
  rw [stage5_fab, stage4_fab, stage3_fab, stage2_fab, forAll_fab settleEnd_fab, stage1_fab]

/-! ### Release (R347 to R349) -/

@[simp] theorem replyCmd_fab (c : CmdRef) (b status reason detail : Nat) (s : State) : (replyCmd c b status reason detail s).fab = s.fab := by
  simp [replyCmd]

@[simp] theorem replyOpt_fab (c : Option CmdRef) (b status reason detail : Nat) (s : State) :
    (replyOpt c b status reason detail s).fab = s.fab := by
  unfold replyOpt; split <;> simp

@[simp] theorem dropReads_fab (p : ReadFor → Bool) (s : State) : (dropReads p s).fab = s.fab :=
  (congrArg State.fab (offReads_dropReads p s) :)

@[simp] theorem clearOverflow_fab (b : Nat) (s : State) : (clearOverflow b s).fab = s.fab := by
  unfold clearOverflow; dsimp only; split <;> simp

@[simp] theorem releaseFrames_fab (b : Nat) (s : State) : (releaseFrames b s).fab = s.fab := by
  have hmine : (forAll ((s.ten.owner.filter fun x => x.2 == .tenant b).map (·.1)) (returnFrame b false) s).fab = s.fab :=
    forAll_fab (returnFrame_fab b false) _ _
  unfold releaseFrames; dsimp only
  split <;> exact hmine

@[simp] theorem dropResidency_fab (tid : W64) (s : State) : (dropResidency tid s).fab = s.fab := by
  unfold dropResidency; split <;> rfl

@[simp] theorem releasePlane_fab (n : Nat) (s : State) : (releasePlane n s).fab = s.fab := by
  unfold releasePlane; extract_lets q writing
  split_ifs <;> rfl

@[simp] theorem checkReleased_fab (b : Nat) (s : State) : (checkReleased b s).fab = s.fab := by
  unfold checkReleased; dsimp only; split
  · rfl
  · show (replyOpt ..).fab = _
    rw [replyOpt_fab]; rfl

@[simp] theorem releaseRecords_fab (b status : Nat) (s : State) : (releaseRecords b status s).fab = s.fab := by
  unfold releaseRecords
  exact forAll_fab (fun c t => by simp) _ _

@[simp] theorem startRelease_fab (b : Nat) (s : State) : (startRelease b s).fab = s.fab := by
  unfold startRelease; extract_lets tid r s1 s2 s3 s4 s5 s6 hw s7 s8 s9
  have hrecords : s2.fab = s.fab := by rw [releaseRecords_fab, modEntry_fab]
  have hreqs : s3.fab = s2.fab := forAll_fab (fun q t => replyCmd_fab ..) _ _
  have hload : s4.fab = s3.fab := by rw [dropReads_fab, replyOpt_fab]
  have hframes : s5.fab = s4.fab := by rw [releaseFrames_fab, clearOverflow_fab]
  have hcells : s7.fab = s6.fab := by clear_value s6; rfl
  have hresidency : s8.fab = s5.fab := by rw [dropResidency_fab, hcells, modBrun_fab]
  have hplanes : s9.fab = s8.fab := forAll_fab releasePlane_fab _ _
  rw [checkReleased_fab, hplanes, hresidency, hframes, hload, hreqs, hrecords]

end Sys2Proof.Machine
end

section
/-! SUPPORT. The beat edge (R303 to R305, R316, R318, R319, R465, R466): what the counts, the master's word and a missing word change, and that
the schedule's work leaves the fabric alone, and the statement. -/

open Sys2Proof Sys2Proof.Machine Sys2Proof.Spec

namespace Sys2Proof.Machine

/-! ### What is due at a schedule beat leaves the fabric alone (R335, R339, R396, Table 11.5) -/

@[simp] theorem removeLoad_fab (b : Nat) (s : State) : (removeLoad b s).fab = s.fab := by
  unfold removeLoad; split <;> simp

@[simp] theorem epochStages_fab (s : State) : (epochStages s).fab = s.fab := by
  unfold epochStages; split
  · exact forAll_fab (fun b t => by simp) _ _
  · rfl

@[simp] theorem probePass_fab (n : Nat) (s : State) : (probePass n s).fab = s.fab := rfl

@[simp] theorem probes_fab (k len : Nat) (s : State) : (probes k len s).fab = s.fab := by
  unfold probes
  refine forAll_fab (fun i t => ?_) _ _
  split
  · exact forAll_fab (fun n u => forAll_fab (fun _ v => probePass_fab n v) (List.range 64) u) _ _
  · rfl

@[simp] theorem loadRecipes_fab (o : SwitchOp) (b : Nat) (s : State) : (loadRecipes o b s).fab = s.fab := by
  unfold loadRecipes
  exact forAll_fab (fun k t => by split <;> rfl) _ _

@[simp] theorem openSwitchWindow_fab (o : SwitchOp) (s : State) : (openSwitchWindow o s).fab = s.fab := by
  unfold openSwitchWindow
  exact forAll_fab (fun k t => by simp) _ _

@[simp] theorem switchStages_fab (s : State) : (switchStages s).fab = s.fab := by
  unfold switchStages
  refine forAll_fab (fun o t => ?_) _ _
  have hloaded : (if o.failed.isNone then forAll (switchIns o) (loadRecipes o) t else t).fab = t.fab := by
    split
    · exact forAll_fab (loadRecipes_fab o) _ _
    · rfl
  dsimp only; split
  · exact hloaded
  · rw [openSwitchWindow_fab, hloaded]

@[simp] theorem endSwitch_fab (o : SwitchOp) (s : State) : (endSwitch o s).fab = s.fab := by
  unfold endSwitch; extract_lets s1 b
  split
  · exact replyOpt_fab ..
  · extract_lets w; rw [replyOpt_fab, forAll_fab (fun b t => by rfl)]

@[simp] theorem endSwitches_fab (s : State) : (endSwitches s).fab = s.fab := by
  unfold endSwitches; exact forAll_fab endSwitch_fab _ _

/-! ### Clusters whose power and clock alone change (R465, R466) -/

/-- Of each cluster only its power and its clock may differ. -/
def PowersOnly (s t : State) : Prop := ∀ p, cluster t p = { cluster s p with pow := (cluster t p).pow }

theorem PowersOnly.trans {s t u : State} (h : PowersOnly s t) (g : PowersOnly t u) : PowersOnly s u := fun p => by rw [g p, h p]

theorem powersOnly_of_hw {s t : State} (h : t.hw = s.hw) : PowersOnly s t := fun p => by unfold cluster; rw [h]

theorem powersOnly_modCluster {f : Cluster → Cluster} (h : ∀ q, f q = { q with pow := (f q).pow }) (k : Nat) (s : State) :
    PowersOnly s (modCluster k f s) := fun p => by
  rw [cluster_modCluster]; split
  · rename_i hp; rw [hp]; exact h _
  · rfl

theorem powersOnly_forAll {α : Type} {f : α → State → State} (h : ∀ a s, PowersOnly s (f a s)) (l : List α) (s : State) :
    PowersOnly s (forAll l f s) :=
  forAll_invariant (P := PowersOnly s) (fun a _ t ht => ht.trans (h a t)) (powersOnly_of_hw rfl)

theorem powersOnly_countBelow (s : State) : PowersOnly s (countBelow s) := by
  unfold countBelow
  refine powersOnly_forAll (fun x t => ?_) _ _
  split
  · exact powersOnly_modCluster (fun q => by rfl) _ t
  · exact powersOnly_of_hw rfl

theorem powersOnly_gateClusters (s : State) : PowersOnly s (gateClusters s) := by
  unfold gateClusters
  refine powersOnly_forAll (fun x t => ?_) _ _
  unfold gateCluster; dsimp only; split
  · exact powersOnly_modCluster (fun q => by rfl) _ t
  · split
    · unfold ungate; exact powersOnly_modCluster (fun q => by rfl) _ t
    · exact powersOnly_of_hw rfl

/-! ### What an edge leaves before its word -/

/-- The state without what the counts of an edge, its requests and its gating write. -/
def offEdge (s : State) : State :=
  { s with out := [], host := { s.host with reads := [] }, hw := { s.hw with clusters := [] }
           fab := { s.fab with beat := 0, sched := 0, inserted := 0, requests := 0, waiting := [], ports := [], grant := none
                               later := [], stretches := 0 } }

theorem offEdge_of_offPorts {s t : State} (h : offPorts t = offPorts s) : offEdge t = offEdge s := (congrArg offEdge h :)

theorem offEdge_countBelow (s : State) : offEdge (countBelow s) = offEdge s := by
  unfold countBelow; exact forAll_keeps offEdge _ (fun _ _ => by dsimp only; split <;> rfl) _ _

theorem offEdge_gateClusters (s : State) : offEdge (gateClusters s) = offEdge s := by
  unfold gateClusters
  exact forAll_keeps offEdge _ (fun _ _ => by unfold gateCluster; dsimp only; split_ifs <;> rfl) _ _

theorem offEdge_countReads (s : State) : offEdge (countReads s) = offEdge s := by
  unfold countReads; split <;> rfl

theorem offEdge_grantStretch (x r : Nat) (s : State) : offEdge (grantStretch x r s) = offEdge s := by
  obtain ⟨g, l, n, h⟩ := grantStretch_frame x r s
  rw [h]; rfl

theorem offEdge_resolveDue (s : State) : offEdge (resolveDue s) = offEdge s := by
  unfold resolveDue resolveBeat; split
  · rfl
  · split
    · rfl
    · rw [offEdge_grantStretch]; rfl

theorem offEdge_sendRequests (s : State) : offEdge (sendRequests s) = offEdge s := by
  unfold sendRequests; split
  · rfl
  · dsimp only; split
    · rw [offEdge_of_offPorts (offPorts_sendRequest ..)]; rfl
    · rfl

/-! ### The counts (R304, R316) -/

/-- Both counts, and those of inserted beats and of requests. -/
def edgeCounts (f : Fabric) : W64 × W64 × W64 × W32 := (f.beat, f.sched, f.inserted, f.requests)

/-- A core of the part has raised a request in the beat that ends. -/
def requestRaised (s : State) : Bool := s.fab.own.any fun x => x.beat == s.fab.beat

theorem countsGrant_of_offPorts {s t : State} (h : offPorts t = offPorts s) :
    edgeCounts t.fab = edgeCounts s.fab ∧ t.fab.grant = s.fab.grant :=
  ⟨(congrArg (fun x : State => edgeCounts x.fab) h :), (congrArg (fun x : State => x.fab.grant) h :)⟩

/-- The requests of the beat that ends are one request (R316). -/
theorem sendRequests_counts (s : State) :
    edgeCounts (sendRequests s).fab
        = (s.fab.beat, s.fab.sched, s.fab.inserted, s.fab.requests + if requestRaised s then 1 else 0)
      ∧ (sendRequests s).fab.grant = s.fab.grant := by
  have hraised : requestRaised s = !(s.fab.own.filter fun x => x.beat == s.fab.beat).isEmpty := by
    unfold requestRaised
    rw [Bool.eq_iff_iff]
    simp [List.filter_eq_nil_iff]
  unfold sendRequests
  rw [hraised]
  cases hown : s.fab.own.filter fun x => x.beat == s.fab.beat with
  | nil => exact ⟨by simp [edgeCounts], rfl⟩
  | cons x t =>
    dsimp only; split
    · obtain ⟨hcounts, hgrant⟩ := countsGrant_of_offPorts (offPorts_sendRequest
        { beat := s.fab.beat, len := BitVec.ofNat 16 (t.foldl (fun a y => max a y.len.toNat) x.len.toNat), pos := s.fab.myPos }
        { s with fab := { s.fab with requests := s.fab.requests + 1 } })
      rw [hcounts, hgrant]; exact ⟨rfl, rfl⟩
    · exact ⟨rfl, rfl⟩

theorem countBelow_fab (s : State) : (countBelow s).fab = s.fab := by
  unfold countBelow; exact forAll_fab (fun x t => by split <;> rfl) _ _

theorem gateClusters_fab (s : State) : (gateClusters s).fab = s.fab := by
  unfold gateClusters; exact forAll_fab (fun x t => by unfold gateCluster; dsimp only; split_ifs <;> rfl) _ _

theorem countReads_fab (s : State) : (countReads s).fab = s.fab := by
  unfold countReads; split <;> rfl

theorem resolveDue_counts (s : State) : edgeCounts (resolveDue s).fab = edgeCounts s.fab := by
  unfold resolveDue resolveBeat; split
  · rfl
  · split
    · rfl
    · obtain ⟨g, l, n, h⟩ := grantStretch_frame _ _ _
      rw [h]; rfl

/-- The schedule stands still at the edge of an inserted beat (R304, R319). -/
theorem countBeat_counts (s : State) : edgeCounts (countBeat s).fab = (s.fab.beat + 1,
    (if inStretch s (s.fab.beat + 1) then s.fab.sched else s.fab.sched + 1),
    (if inStretch s (s.fab.beat + 1) then s.fab.inserted + 1 else s.fab.inserted), s.fab.requests) := by
  unfold edgeCounts countBeat inStretch
  cases s.fab.grant <;> rfl

/-- The edge as far as its counts, its requests and its gating. -/
def edgeCounted (s : State) : State := resolveDue (gateClusters (countReads (countBeat (countBelow (sendRequests s)))))

theorem offEdge_edgeCounted (s : State) : offEdge (edgeCounted s) = offEdge s := by
  unfold edgeCounted
  rw [offEdge_resolveDue, offEdge_gateClusters, offEdge_countReads]
  show offEdge (countBelow (sendRequests s)) = _
  rw [offEdge_countBelow, offEdge_sendRequests]

theorem inStretch_congr {s t : State} (h : t.fab.grant = s.fab.grant) (b : W64) : inStretch t b = inStretch s b := by
  unfold inStretch; rw [h]

theorem edgeCounted_counts (s : State) : edgeCounts (edgeCounted s).fab = (s.fab.beat + 1,
    (if inStretch s (s.fab.beat + 1) then s.fab.sched else s.fab.sched + 1),
    (if inStretch s (s.fab.beat + 1) then s.fab.inserted + 1 else s.fab.inserted),
    s.fab.requests + if requestRaised s then 1 else 0) := by
  obtain ⟨hcounts, hgrant⟩ := sendRequests_counts s
  have hbelow := countBelow_fab (sendRequests s)
  unfold edgeCounted
  rw [resolveDue_counts, gateClusters_fab, countReads_fab, countBeat_counts]
  generalize countBelow (sendRequests s) = u at *
  simp only [edgeCounts, Prod.mk.injEq] at hcounts
  obtain ⟨hbeat, hsched, hinserted, hrequests⟩ := hcounts
  rw [inStretch_congr ((congrArg Fabric.grant hbelow).trans hgrant), hbelow, hbeat, hsched, hinserted, hrequests]

theorem hw_of_offPorts {s t : State} (h : offPorts t = offPorts s) : t.hw = s.hw := (congrArg State.hw h :)

theorem hw_grantStretch (x r : Nat) (s : State) : (grantStretch x r s).hw = s.hw := by
  obtain ⟨g, l, n, h⟩ := grantStretch_frame x r s
  rw [h]

theorem hw_resolveDue (s : State) : (resolveDue s).hw = s.hw := by
  unfold resolveDue resolveBeat; split
  · rfl
  · split
    · rfl
    · rw [hw_grantStretch]

theorem hw_sendRequests (s : State) : (sendRequests s).hw = s.hw := by
  unfold sendRequests; split
  · rfl
  · dsimp only; split
    · rw [hw_of_offPorts (offPorts_sendRequest ..)]
    · rfl

theorem hw_countReads (s : State) : (countReads s).hw = s.hw := by
  unfold countReads; split <;> rfl

theorem powersOnly_edgeCounted (s : State) : PowersOnly s (edgeCounted s) := by
  have hcounted : PowersOnly s (countReads (countBeat (countBelow (sendRequests s)))) :=
    (powersOnly_of_hw (hw_sendRequests s)).trans ((powersOnly_countBelow _).trans (powersOnly_of_hw (hw_countReads (countBeat _))))
  exact hcounted.trans ((powersOnly_gateClusters _).trans (powersOnly_of_hw (hw_resolveDue _)))

/-! ### The word of the edge (R303, R305) -/

/-- The master's word, or a member's wait for one. -/
def edgeWord (s : State) : State :=
  if s.fab.st = 2 ∧ s.fab.myPos = 0 ∧ 1 < ringN s then sendBeat (beatNow s) s else missingWord s

/-- The place of the part in its domain, and the word that it awaits. -/
def wordView (f : Fabric) : BitVec 2 × BitVec 9 × W64 × Nat × BitVec 4 := (f.st, f.myPos, f.wordNext, f.misses, f.cause)

theorem wordView_of_offEdge {s t : State} (h : offEdge t = offEdge s) : wordView t.fab = wordView s.fab :=
  (congrArg (fun x : State => wordView x.fab) h :)

theorem edgeCounts_domainFault (cause src : Nat) (s : State) : edgeCounts (domainFault cause src s).fab = edgeCounts s.fab := by
  by_cases h : s.fab.st = 1 ∨ s.fab.st = 2
  · rw [domainFault_fab h, eq_of_offNotices (offNotices_faultEntered cause s)]; rfl
  · obtain ⟨h1, h2⟩ := not_or.mp h
    rw [domainFault_of_outside h1 h2]

theorem edgeCounts_beatMiss (s : State) : edgeCounts (beatMiss s).fab = edgeCounts s.fab := by
  unfold beatMiss; split
  · exact edgeCounts_domainFault 8 0x1FF s
  · rfl

/-- The word of an edge does not touch the counts. -/
theorem edgeCounts_edgeWord (s : State) : edgeCounts (edgeWord s).fab = edgeCounts s.fab := by
  unfold edgeWord missingWord; split
  · exact (countsGrant_of_offPorts (offPorts_sendBeat ..)).1
  · split
    · rw [edgeCounts_beatMiss]; rfl
    · rfl

/-- A word is missing at the edge to come where it is missing once the beat is counted. -/
theorem wordMissing_iff {s u : State} (hview : wordView u.fab = wordView s.fab) (hbeat : u.fab.beat = s.fab.beat + 1) :
    wordMissing s = true ↔ u.fab.st = 2 ∧ u.fab.myPos ≠ 0 ∧ u.fab.wordNext.toNat + wordLag u + 1 ≤ u.fab.beat.toNat := by
  simp only [wordView, Prod.mk.injEq] at hview
  obtain ⟨hst, hpos, hnext, -, -⟩ := hview
  unfold wordMissing wordLag
  rw [hst, hpos, hnext, hbeat, decide_eq_true_eq]

theorem edgeWord_missing {u : State} (h : u.fab.st = 2 ∧ u.fab.myPos ≠ 0 ∧ u.fab.wordNext.toNat + wordLag u + 1 ≤ u.fab.beat.toNat) :
    edgeWord u = beatMiss (wordBad u) := by
  unfold edgeWord missingWord wordBad
  rw [if_neg fun hmaster => h.2.1 hmaster.2.1, if_pos h]

theorem edgeWord_in_time {u : State}
    (h : ¬ (u.fab.st = 2 ∧ u.fab.myPos ≠ 0 ∧ u.fab.wordNext.toNat + wordLag u + 1 ≤ u.fab.beat.toNat)) :
    offPorts (edgeWord u) = offPorts u := by
  unfold edgeWord missingWord
  split
  · exact offPorts_sendBeat ..
  · rfl

/-! ### The edge -/

/-- What the schedule brings at the edge of a beat that counts. -/
def edgeScheduled (s u : State) : State := if u.fab.sched = s.fab.sched then u else endSwitches (switchStages (epochStages u))

theorem exec_beatEdge_stopped {s : State} (h : beats s = false) : exec .beatEdge s = .next s :=
  congrArg Host.Outcome.next (if_pos (by rw [h]; rfl))

theorem exec_beatEdge {s : State} (h : beats s = true) : exec .beatEdge s = .next (edgeScheduled s (edgeWord (edgeCounted s))) :=
  congrArg Host.Outcome.next (if_neg (by rw [h]; decide))

theorem edgeScheduled_fab (s u : State) : (edgeScheduled s u).fab = u.fab := by
  unfold edgeScheduled; split
  · rfl
  · simp

theorem edgeScheduled_inserted {s u : State} (h : u.fab.sched = s.fab.sched) : edgeScheduled s u = u := if_pos h

/-- What an edge keeps that writes no more than the counts, requests and gating. -/
theorem kept_of_offEdge {s t : State} (h : offEdge t = offEdge s) : t.ten = s.ten ∧ t.srv = s.srv ∧ MemKept s t ∧ t.mail = s.mail
    ∧ t.mon = s.mon ∧ t.lar = s.lar ∧ t.err = s.err ∧ t.host.rings = s.host.rings ∧ t.hw.planes = s.hw.planes ∧ t.hw.cores = s.hw.cores :=
  ⟨(congrArg State.ten h :), (congrArg State.srv h :), memKept_of_eq (congrArg State.mem h :) (congrArg State.memKeys h :),
    (congrArg State.mail h :), (congrArg State.mon h :), (congrArg State.lar h :), (congrArg State.err h :),
    (congrArg (fun x : State => x.host.rings) h :), (congrArg (fun x : State => x.hw.planes) h :),
    (congrArg (fun x : State => x.hw.cores) h :)⟩

/-- The member's account of words after an edge: kept, one more miss, or the beat lost. -/
theorem edgeWord_spec {s u : State} (hview : wordView u.fab = wordView s.fab) (hbeat : u.fab.beat = s.fab.beat + 1) :
    (wordMissing s = false → offPorts (edgeWord u) = offPorts u)
    ∧ (wordMissing s = true → s.fab.misses < 3 → (edgeWord u).fab.misses = s.fab.misses + 1 ∧ (edgeWord u).fab.st = 2)
    ∧ (wordMissing s = true → 3 ≤ s.fab.misses → (edgeWord u).fab.st = 3 ∧ (edgeWord u).fab.txns = []
        ∧ (edgeWord u).fab.cause = if s.fab.cause = 0 then 8 else s.fab.cause) := by
  have hiff := wordMissing_iff hview hbeat
  simp only [wordView, Prod.mk.injEq] at hview
  obtain ⟨-, -, -, hmisses, hcause⟩ := hview
  refine ⟨fun hin => ?_, fun hmissing hfew => ?_, fun hmissing hmany => ?_⟩
  · exact edgeWord_in_time fun h => by rw [hiff.mpr h] at hin; cases hin
  · have hmember := hiff.mp hmissing
    rw [edgeWord_missing hmember, beatMiss_counted (s := wordBad u) (hmisses ▸ hfew)]
    exact ⟨congrArg (· + 1) hmisses, hmember.1⟩
  · have hmember := hiff.mp hmissing
    rw [edgeWord_missing hmember, beatMiss_lost (s := wordBad u) (hmisses ▸ hmany)]
    obtain ⟨hst, hfirst, -, -, -, htxns, -⟩ :=
      domainFaulted (s := wordBad u) (cause := 8) (src := 0x1FF) (.inr hmember.1) (by decide) (by decide)
    exact ⟨hst, htxns, hfirst.trans (by rw [← hcause]; rfl)⟩

end Sys2Proof.Machine

/-- Settles O36: the counts are those of `edgeCounted`, the misses those of `edgeWord`, and at the edge of an inserted beat nothing of the
schedule follows. -/
theorem beatEdgeCounts : Obligations.BeatEdgeCounts := by
  unfold Obligations.BeatEdgeCounts
  intro s
  refine ⟨exec_beatEdge_stopped, fun hbeats => ⟨_, exec_beatEdge hbeats, ?_⟩⟩
  have hrest := offEdge_edgeCounted s
  have hcounts := edgeCounted_counts s
  have hpowers := powersOnly_edgeCounted s
  generalize edgeCounted s = u at *
  have hview := wordView_of_offEdge hrest
  have hword := (edgeCounts_edgeWord u).trans hcounts
  simp only [edgeCounts, Prod.mk.injEq] at hcounts hword
  obtain ⟨hbeat, hsched, hinserted, hrequests⟩ := hword
  obtain ⟨hintime, hmissed, hlost⟩ := edgeWord_spec hview hcounts.1
  simp only [edgeScheduled_fab]
  refine ⟨hbeat, hrequests, fun hout => ⟨?_, ?_⟩, fun hin => ⟨?_, ?_, fun hnone => ?_⟩, fun hnone => ?_, hmissed, hlost⟩
  · rw [hsched, hout]; rfl
  · rw [hinserted, hout]; rfl
  · rw [hsched, hin]; rfl
  · rw [hinserted, hin]; rfl
  · have hports := hintime hnone
    have hstill : (edgeWord u).fab.sched = s.fab.sched := by rw [hsched, hin]; rfl
    rw [edgeScheduled_inserted hstill]
    obtain ⟨hten, hsrv, hmem, hmail, hmon, hlar, herr, hrings, hplanes, hcores⟩ := kept_of_offEdge ((offEdge_of_offPorts hports).trans hrest)
    exact ⟨hten, hsrv, hmem, hmail, hmon, hlar, herr, hrings, hplanes, hcores,
      hpowers.trans (powersOnly_of_hw (hw_of_offPorts hports))⟩
  · have hkept := (wordView_of_offEdge (offEdge_of_offPorts (hintime hnone))).trans hview
    simp only [wordView, Prod.mk.injEq] at hkept
    obtain ⟨hst, -, -, hmisses, -⟩ := hkept
    exact ⟨hmisses, hst⟩
end

section
/-! SUPPORT. The invariant of O59 (`Spec.Inv`): what leaves memory and the error queues alone keeps it, the model's folds keep it where their
steps do, memory's three writes keep it by their `_wf` laws, and the error queues grow only where they have room (R497, R498). -/

open Sys2Proof Sys2Proof.Machine Sys2Proof.Spec

namespace Sys2Proof.Machine
variable {α : Type} {s t : State}

theorem inv_of_eq (h : Spec.Inv s) (hm : t.mem = s.mem := by rfl) (hk : t.memKeys = s.memKeys := by rfl)
    (hh : t.err.hostQ = s.err.hostQ := by rfl) (hq : t.err.mgmtQ = s.err.mgmtQ := by rfl) : Spec.Inv t := by
  obtain ⟨hw, hhost, hmgmt⟩ := h
  exact ⟨(Memory.wf_congr hm hk).trans hw, hh ▸ hhost, hq ▸ hmgmt⟩

theorem inv_with_su {x : StartUp} (h : Spec.Inv s) : Spec.Inv { s with su := x } := h
theorem inv_with_lar {x : Larder} (h : Spec.Inv s) : Spec.Inv { s with lar := x } := h
theorem inv_with_host {x : HostIf} (h : Spec.Inv s) : Spec.Inv { s with host := x } := h
theorem inv_with_mon {x : Monitor} (h : Spec.Inv s) : Spec.Inv { s with mon := x } := h
theorem inv_with_pow {x : Power} (h : Spec.Inv s) : Spec.Inv { s with pow := x } := h
theorem inv_with_ten {x : Tenancy} (h : Spec.Inv s) : Spec.Inv { s with ten := x } := h
theorem inv_with_hw {x : Hw} (h : Spec.Inv s) : Spec.Inv { s with hw := x } := h
theorem inv_with_ident_lar {x : Ident} {y : Larder} (h : Spec.Inv s) : Spec.Inv { s with ident := x, lar := y } := h
theorem inv_with_ident_su_lar_pow {x : Ident} {y : StartUp} {z : Larder} {w : Power} (h : Spec.Inv s) :
    Spec.Inv { s with ident := x, su := y, lar := z, pow := w } := h

theorem inv_ite {p : Prop} {d : Decidable p} (hs : Spec.Inv s) (ht : Spec.Inv t) : Spec.Inv (@ite State p d s t) := by
  split
  · exact hs
  · exact ht

theorem inv_foldl {f : State → α → State} (hf : ∀ {s a}, Spec.Inv s → Spec.Inv (f s a)) {l : List α} (h : Spec.Inv s) :
    Spec.Inv (l.foldl f s) := by
  induction l generalizing s with
  | nil => exact h
  | cons a l ih => exact ih (hf h)

theorem inv_ite_snd {p : Prop} {d : Decidable p} {x y : α × State} (hx : Spec.Inv x.2) (hy : Spec.Inv y.2) :
    Spec.Inv (@ite (α × State) p d x y).2 := by
  split
  · exact hx
  · exact hy

theorem inv_foldl_snd {β : Type} {f : α × State → β → α × State} (hf : ∀ {x b}, Spec.Inv x.2 → Spec.Inv (f x b).2) {l : List β}
    {x : α × State} (h : Spec.Inv x.2) : Spec.Inv (l.foldl f x).2 := by
  induction l generalizing x with
  | nil => exact h
  | cons b l ih => exact ih (hf h)

theorem inv_upto_snd {n : Nat} {f : Nat → α × State → α × State} (hf : ∀ {i x}, Spec.Inv x.2 → Spec.Inv (f i x).2) {x : α × State}
    (h : Spec.Inv x.2) : Spec.Inv (upto n f x).2 :=
  inv_foldl_snd hf h

theorem inv_forAll {l : List α} {f : α → State → State} (hf : ∀ {a s}, Spec.Inv s → Spec.Inv (f a s)) (h : Spec.Inv s) :
    Spec.Inv (forAll l f s) :=
  inv_foldl hf h

theorem inv_when {c : Bool} {f : State → State} (hf : ∀ {s}, Spec.Inv s → Spec.Inv (f s)) (h : Spec.Inv s) : Spec.Inv (when c f s) :=
  inv_ite (hf h) h

theorem inv_upto {n : Nat} {f : Nat → State → State} (hf : ∀ {i s}, Spec.Inv s → Spec.Inv (f i s)) (h : Spec.Inv s) : Spec.Inv (upto n f s) :=
  inv_foldl hf h

theorem inv_memPut {a : Nat} {bs : List Byte} (h : Spec.Inv s) : Spec.Inv (memPut a bs s) := ⟨memPut_wf a bs s h.1, h.2⟩
theorem inv_keyFrame {f b : Nat} (h : Spec.Inv s) : Spec.Inv (keyFrame f b s) := by
  obtain ⟨k, m, he⟩ := keyFrame_eq f b s
  exact ⟨keyFrame_wf f b s h.1, by rw [he]; exact h.2⟩
theorem inv_clearFrame {f : Nat} (h : Spec.Inv s) : Spec.Inv (clearFrame f s) := by
  obtain ⟨k, m, he⟩ := clearFrame_eq f s
  exact ⟨clearFrame_wf f s h.1, by rw [he]; exact h.2⟩

theorem mergeHost_length {r : ErrRec} {q q' : List ErrRec} (h : mergeHost r q = some q') : q'.length = q.length := by
  induction q generalizing q' with
  | nil => cases h
  | cons x t ih =>
    unfold mergeHost at h
    split at h
    · cases h; rfl
    · obtain ⟨u, hu, rfl⟩ := Option.map_eq_some_iff.mp h
      exact congrArg (· + 1) (ih hu)
theorem mergeMgmt_length {r : ErrRec} {q q' : List MgmtRec} (h : mergeMgmt r q = some q') : q'.length = q.length := by
  induction q generalizing q' with
  | nil => cases h
  | cons x t ih =>
    unfold mergeMgmt at h
    split at h
    · cases h; rfl
    · obtain ⟨u, hu, rfl⟩ := Option.map_eq_some_iff.mp h
      exact congrArg (· + 1) (ih hu)

theorem enterHost_hostQ_le {r : ErrRec} {e : ErrState} (h : e.hostQ.length ≤ 512) : (enterHost r e).hostQ.length ≤ 512 := by
  unfold enterHost
  split
  next q hq => exact (mergeHost_length hq).trans_le h
  next =>
    split
    next hroom => exact List.length_append.trans_le hroom
    next => exact h
theorem enterMgmt_mgmtQ_le {r : ErrRec} {e : ErrState} (h : e.mgmtQ.length ≤ 512) : (enterMgmt r e).mgmtQ.length ≤ 512 := by
  unfold enterMgmt
  split
  next q hq => exact (mergeMgmt_length hq).trans_le h
  next =>
    split
    next hroom => exact List.length_append.trans_le hroom
    next => exact h

theorem inv_route {r : ErrRec} (h : Spec.Inv s) : Spec.Inv (route r s) := by
  obtain ⟨hw, hhost, hmgmt⟩ := h
  refine ⟨hw, ?_, ?_⟩
  · rw [route_err_hostQ r s (e := s.err) rfl]
    split
    · exact hhost
    · exact enterHost_hostQ_le hhost
  · rw [route_err_mgmtQ r s (e := s.err) rfl]
    exact enterMgmt_mgmtQ_le hmgmt
theorem inv_raiseOnly {r : ErrRec} (h : Spec.Inv s) : Spec.Inv (raiseOnly r s) := by
  unfold raiseOnly
  refine inv_route (inv_of_eq h (hh := ?_) (hq := ?_))
  · dsimp only; split <;> rfl
  · dsimp only; split <;> rfl

/-- A state that an outcome answers meets the invariant. -/
def Answers (o : Host.Outcome State Fault Refusal) : Prop := ∀ t, o = .next t → Spec.Inv t

theorem answers_next (h : Spec.Inv s) : Answers (.next s) := by
  rintro t ⟨⟩
  exact h
end Sys2Proof.Machine

end

section
/-! SUPPORT. Memory, completions, frames and error records keep the invariant of O59 (R351, R352, R386, R487, R494 to R503). -/

open Sys2Proof Sys2Proof.Machine Sys2Proof.Spec

namespace Sys2Proof.Machine

set_option Elab.async false
variable {s : State}

/-! ### One writer per kind of state -/

theorem inv_setRing {r : Nat} {g : Ring} (h : Spec.Inv s) : Spec.Inv (setRing s r g) :=
  inv_of_eq h

theorem inv_setMbox {m : Nat} {b : Mailbox} (h : Spec.Inv s) : Spec.Inv (setMbox s m b) :=
  inv_of_eq h

theorem inv_setLock {k : Nat} {l : Lock} (h : Spec.Inv s) : Spec.Inv (setLock s k l) :=
  inv_of_eq h

theorem inv_setCluster {p : Nat} {c : Cluster} (h : Spec.Inv s) : Spec.Inv (setCluster s p c) :=
  inv_of_eq h

theorem inv_setCore {k : Nat} {c : Core} (h : Spec.Inv s) : Spec.Inv (setCore s k c) :=
  inv_of_eq h

theorem inv_setEngine {e : Nat} {g : Engine} (h : Spec.Inv s) : Spec.Inv (setEngine s e g) :=
  inv_of_eq h

theorem inv_setPlane {n : Nat} {p : Plane} (h : Spec.Inv s) : Spec.Inv (setPlane s n p) :=
  inv_of_eq h

theorem inv_setEntry {b : Nat} {e : BEntry} (h : Spec.Inv s) : Spec.Inv (setEntry s b e) :=
  inv_of_eq h

theorem inv_setBrun {b : Nat} {e : BRun} (h : Spec.Inv s) : Spec.Inv (setBrun s b e) :=
  inv_of_eq h

theorem inv_setCtx {c : Nat} {x : Ctx} (h : Spec.Inv s) : Spec.Inv (setCtx s c x) :=
  inv_of_eq h

theorem inv_setCtxRun {c : Nat} {x : CtxRun} (h : Spec.Inv s) : Spec.Inv (setCtxRun s c x) :=
  inv_of_eq h

theorem inv_setConv {m : Nat} {c : Conv} (h : Spec.Inv s) : Spec.Inv (setConv s m c) :=
  inv_of_eq h

theorem inv_setPort {k : Nat} {p : Port} (h : Spec.Inv s) : Spec.Inv (setPort s k p) :=
  inv_of_eq h

theorem inv_modCluster {p : Nat} {f : Cluster → Cluster} (h : Spec.Inv s) : Spec.Inv (modCluster p f s) :=
  inv_setCluster h

theorem inv_modCore {k : Nat} {f : Core → Core} (h : Spec.Inv s) : Spec.Inv (modCore k f s) :=
  inv_setCore h

theorem inv_ungate {p : Nat} (h : Spec.Inv s) : Spec.Inv (ungate p s) :=
  inv_modCluster h

theorem inv_modEngine {e : Nat} {f : Engine → Engine} (h : Spec.Inv s) : Spec.Inv (modEngine e f s) :=
  inv_setEngine h

theorem inv_modPlane {n : Nat} {f : Plane → Plane} (h : Spec.Inv s) : Spec.Inv (modPlane n f s) :=
  inv_setPlane h

theorem inv_modEntry {b : Nat} {f : BEntry → BEntry} (h : Spec.Inv s) : Spec.Inv (modEntry b f s) :=
  inv_setEntry h

theorem inv_modBrun {b : Nat} {f : BRun → BRun} (h : Spec.Inv s) : Spec.Inv (modBrun b f s) :=
  inv_setBrun h

theorem inv_modCtx {c : Nat} {f : Ctx → Ctx} (h : Spec.Inv s) : Spec.Inv (modCtx c f s) :=
  inv_setCtx h

theorem inv_modCtxRun {c : Nat} {f : CtxRun → CtxRun} (h : Spec.Inv s) : Spec.Inv (modCtxRun c f s) :=
  inv_setCtxRun h

theorem inv_modRing {r : Nat} {f : Ring → Ring} (h : Spec.Inv s) : Spec.Inv (modRing r f s) :=
  inv_setRing h

theorem inv_emit {o : Out} (h : Spec.Inv s) : Spec.Inv (emit o s) :=
  inv_of_eq h

theorem inv_tickFresh (h : Spec.Inv s) : Spec.Inv (tickFresh s) :=
  inv_of_eq h

/-! ### Window counters (Table 19.6) -/

theorem inv_bump {p off n : Nat} (h : Spec.Inv s) : Spec.Inv (bump p off n s) :=
  inv_ite (inv_modCluster h) h

theorem inv_setWin {p off : Nat} {v : W64} (h : Spec.Inv s) : Spec.Inv (setWin p off v s) :=
  inv_ite (inv_modCluster h) h

/-! ### Larder writes -/

theorem inv_submitJob {prio : Nat} {j : FlashJob} (h : Spec.Inv s) : Spec.Inv (submitJob prio j s) :=
  inv_of_eq h

theorem inv_writeCounters (h : Spec.Inv s) : Spec.Inv (writeCounters s) :=
  inv_submitJob (inv_of_eq h)

theorem inv_writeRepair (h : Spec.Inv s) : Spec.Inv (writeRepair s) :=
  inv_submitJob h

theorem inv_writeJournal {e : JEntry} (h : Spec.Inv s) : Spec.Inv (writeJournal e s) :=
  inv_submitJob h

theorem inv_logEvent {always : Bool} {r : ErrRec} (h : Spec.Inv s) : Spec.Inv (logEvent always r s) :=
  inv_ite (inv_of_eq h) (inv_submitJob (inv_of_eq h))

/-! ### Error records -/

theorem inv_raise {r : ErrRec} (h : Spec.Inv s) : Spec.Inv (raise r s) :=
  inv_ite (inv_logEvent (inv_raiseOnly h)) (inv_raiseOnly h)

theorem inv_raiseEvent {always : Bool} {r : ErrRec} (h : Spec.Inv s) : Spec.Inv (raiseEvent always r s) :=
  inv_logEvent (inv_raiseOnly h)

/-! ### Interrupts and completions -/

theorem inv_msix {v : Nat} (h : Spec.Inv s) : Spec.Inv (msix v s) :=
  inv_ite (inv_of_eq h) (inv_emit h)

theorem inv_restartVector {v : Nat} (h : Spec.Inv s) : Spec.Inv (restartVector v s) :=
  inv_forAll (fun h1 => inv_ite (inv_modRing h1) h1) h

theorem inv_signalRing {r : Nat} (h : Spec.Inv s) : Spec.Inv (signalRing r s) :=
  inv_ite (inv_restartVector (inv_msix h)) h

theorem inv_putCompl {r : Nat} {c : Compl} (h : Spec.Inv s) : Spec.Inv (putCompl r c s) :=
  inv_signalRing (inv_setRing (inv_emit h))

theorem inv_hold {h : HeldOut} (hi : Spec.Inv s) : Spec.Inv (hold h s) :=
  inv_of_eq hi

theorem inv_writeHost {addr : W64} {bs : List Byte} (h : Spec.Inv s) : Spec.Inv (writeHost addr bs s) :=
  inv_ite (inv_hold h) (inv_forAll inv_emit h)

theorem inv_releaseResv {r resv done : Nat} (h : Spec.Inv s) : Spec.Inv (releaseResv r resv done s) :=
  inv_ite h (inv_modRing h)

theorem inv_putDue {r : Nat} {c : Compl} (h : Spec.Inv s) : Spec.Inv (putDue r c s) := by
  unfold putDue
  extract_lets g
  exact inv_ite (inv_ite (inv_setRing h) h) (inv_ite (inv_setRing h) (inv_putCompl h))

theorem inv_completeWith {r resv done : Nat} {c : Compl} (h : Spec.Inv s) : Spec.Inv (completeWith r resv done c s) :=
  inv_ite (inv_hold h) (inv_putDue (inv_releaseResv h))

theorem inv_complete {r : Nat} {c : Compl} (h : Spec.Inv s) : Spec.Inv (complete r c s) :=
  inv_completeWith h

theorem inv_finish {r resv : Nat} {c : Compl} (h : Spec.Inv s) : Spec.Inv (finish r resv c s) :=
  inv_completeWith h

/-! ### Frames and device memory -/

theorem inv_setOwner {f : Nat} {o : FrameOwner} (h : Spec.Inv s) : Spec.Inv (setOwner f o s) :=
  inv_of_eq h

theorem inv_ownerFault {b f blk : Nat} {write : Bool} {r : ErrRec} (h : Spec.Inv s) : Spec.Inv (ownerFault b f blk write r s) :=
  inv_raise (inv_of_eq h)

theorem inv_memFault {r : ErrRec} {u : UnitFault} (h : Spec.Inv s) : Spec.Inv (memFault r u s) := by
  unfold memFault
  extract_lets e
  split
  · exact inv_raise (inv_of_eq h)
  · exact inv_raise (inv_of_eq h)
  · exact inv_raise (inv_of_eq h)
  · exact inv_raise (inv_of_eq h)
  · exact h
  · exact h

theorem inv_returnFrame {b : Nat} {paged : Bool} {f : Nat} (h : Spec.Inv s) : Spec.Inv (returnFrame b paged f s) := by
  unfold returnFrame
  extract_lets s1 s2
  have hs1 : Spec.Inv s1 := inv_ite (inv_modEntry h) h
  have hs2 : Spec.Inv s2 := inv_setOwner hs1
  exact inv_ite (inv_setOwner hs1) (inv_ite hs2 (inv_of_eq hs2))

theorem inv_allocFrame {b q : Nat} {paged : Bool} {r : Nat × State} (h : Spec.Inv s) (hsome : allocFrame b q paged s = some r) :
    Spec.Inv r.2 := by
  unfold allocFrame at hsome
  dsimp only at hsome
  split at hsome
  · cases hsome
  · split at hsome
    · cases hsome
    · split at hsome
      next => cases hsome
      next f _ =>
        cases hsome
        have hkeyed : Spec.Inv (tickFresh (keyFrame f b (setOwner f (.tenant b) s))) := inv_tickFresh (inv_keyFrame (inv_setOwner h))
        exact inv_ite (inv_ite (inv_modEntry hkeyed) hkeyed) (inv_with_ten (inv_ite (inv_modEntry hkeyed) hkeyed))

theorem inv_allocFrames {b q n : Nat} {paged : Bool} {fs : List Nat} {r : List Nat × State} (h : Spec.Inv s)
    (hsome : allocFrames b q paged n fs s = some r) : Spec.Inv r.2 := by
  induction n generalizing s fs with
  | zero => cases hsome; exact h
  | succ n ih =>
    unfold allocFrames at hsome
    split at hsome
    next => cases hsome
    next f t ht => exact ih (inv_allocFrame h ht) hsome

/-! ### Cores, clusters and engines -/

theorem inv_failBinding {b : Nat} (h : Spec.Inv s) : Spec.Inv (failBinding b s) :=
  inv_forAll inv_modCore (inv_modEntry h)

theorem inv_failBindingsOn {bad : Nat → Bool} (h : Spec.Inv s) : Spec.Inv (failBindingsOn bad s) :=
  inv_forAll (fun h1 => inv_ite (inv_failBinding h1) h1) h

theorem inv_calJudge {p : Nat} (h : Spec.Inv s) : Spec.Inv (calJudge p s) :=
  inv_ite h (inv_modCluster h)

theorem inv_failCore {k cause : Nat} (h : Spec.Inv s) : Spec.Inv (failCore k cause s) :=
  inv_ite h (inv_calJudge (inv_raise (inv_writeRepair (inv_failBindingsOn (inv_with_ident_lar (inv_modCore h))))))

theorem inv_failCluster {p cause : Nat} (h : Spec.Inv s) : Spec.Inv (failCluster p cause s) := by
  refine inv_ite h (inv_writeRepair (inv_with_ident_lar ?_))
  exact inv_modCluster (inv_forAll inv_modCore (inv_failBindingsOn (inv_raise h)))

end Sys2Proof.Machine

end

section
/-! SUPPORT. Rings, packets and the read ledger keep the invariant of O59 (R363 to R379, R386 to R394). -/

open Sys2Proof Sys2Proof.Machine Sys2Proof.Spec

namespace Sys2Proof.Machine

set_option Elab.async false
variable {s : State}

/-! ### Ladle reads (R364, R393) -/

theorem inv_startRead {w : ReadFor} (h : Spec.Inv s) : Spec.Inv (startRead w s) :=
  inv_ite (inv_of_eq h) (inv_of_eq h)

theorem inv_startReads (h : Spec.Inv s) : Spec.Inv (startReads s) :=
  inv_forAll inv_startRead (inv_of_eq h)

theorem inv_dropReads {p : ReadFor → Bool} (h : Spec.Inv s) : Spec.Inv (dropReads p s) :=
  inv_startReads (inv_of_eq h)

/-! ### Packets (R371 to R374) -/

theorem inv_fetchOn {r : Nat} (h : Spec.Inv s) : Spec.Inv (fetchOn r s) :=
  inv_ite (inv_startRead h) h

/-! ### The internal queue (R377, R378) -/

theorem inv_resetQueue {r : Nat} (h : Spec.Inv s) : Spec.Inv (resetQueue r s) := by
  unfold resetQueue
  extract_lets g n resv first past _ s1 _ s2
  have hs1 : Spec.Inv s1 := inv_setRing h
  have hs2 : Spec.Inv s2 := inv_ite hs1 (inv_completeWith (inv_releaseResv hs1))
  exact inv_msix (inv_raise (inv_of_eq hs2))

theorem inv_checkQueue {r : Nat} (h : Spec.Inv s) : Spec.Inv (checkQueue r s) :=
  inv_ite h (inv_resetQueue h)

theorem inv_popQueue {r : Nat} (h : Spec.Inv s) : Spec.Inv (popQueue r s) :=
  inv_ite (inv_setRing h) (inv_resetQueue (inv_setRing h))

theorem inv_replyRec {c : Cmd} {resv status : Nat} (h : Spec.Inv s) : Spec.Inv (replyRec c resv status s) :=
  inv_finish h

theorem inv_removeQueued {r : Nat} (h : Spec.Inv s) : Spec.Inv (removeQueued r s) :=
  inv_forAll inv_replyRec (inv_setRing (inv_checkQueue h))

theorem inv_flushRing {c : Cmd} {no r : Nat} (h : Spec.Inv s) : Spec.Inv (flushRing c no r s) := by
  unfold flushRing
  extract_lets hit g
  exact inv_ite h (inv_ite (inv_resetQueue h) (inv_forAll inv_replyRec (inv_setRing h)))

theorem inv_flushQueues {c : Cmd} {no : Nat} (h : Spec.Inv s) : Spec.Inv (flushQueues c no s) :=
  inv_forAll inv_flushRing h

theorem inv_flushBoundary {r : Nat} (h : Spec.Inv s) : Spec.Inv (flushBoundary r s) :=
  inv_ite h (inv_forAll inv_flushQueues (inv_modRing h))

/-! ### Taking packets (R372 to R374, R379) -/

theorem inv_discardEntries {r : Nat} (h : Spec.Inv s) : Spec.Inv (discardEntries r s) :=
  inv_modRing h

theorem inv_refusePacket {r : Nat} {tag : W32} {g : Ring} (h : Spec.Inv s) : Spec.Inv (refusePacket r tag g s) :=
  inv_ite h (inv_complete (inv_setRing h))

theorem inv_takePacket {r : Fin 256} (h : Spec.Inv s) : Spec.Inv (takePacket r s) := by
  unfold takePacket
  extract_lets g len es cmd s1 g0 g1
  have hs1 : Spec.Inv s1 := inv_checkQueue h
  clear_value es
  cases es with
  | nil => exact h
  | cons e es => exact inv_ite h (inv_ite (inv_refusePacket h) (inv_ite h (inv_setRing (inv_with_host hs1))))

theorem inv_flushPacket {r : Nat} (h : Spec.Inv s) : Spec.Inv (flushPacket r s) := by
  unfold flushPacket
  extract_lets g
  split
  · exact h
  · exact inv_ite h (inv_complete (inv_setRing h))

theorem inv_pumpOnce {r : Fin 256} (h : Spec.Inv s) : Spec.Inv (pumpOnce r s) := by
  unfold pumpOnce
  extract_lets g
  exact inv_ite (inv_setRing h) (inv_ite (inv_ite h (inv_flushPacket h)) (inv_ite (inv_setRing h) (inv_ite (inv_takePacket h) h)))

theorem inv_pump {r : Fin 256} {n : Nat} (h : Spec.Inv s) : Spec.Inv (pump r n s) := by
  induction n generalizing s with
  | zero => exact h
  | succ n ih => exact inv_ite (inv_pumpOnce h) (ih (inv_pumpOnce h))

theorem inv_ringOn {r : Fin 256} (h : Spec.Inv s) : Spec.Inv (ringOn r s) :=
  inv_fetchOn (inv_flushBoundary (inv_pump h))

theorem inv_retryRing {r : Fin 256} (h : Spec.Inv s) : Spec.Inv (retryRing r s) :=
  inv_ite h (inv_ringOn h)

/-! ### Ring registers (Table 12.3) -/

theorem inv_sqControl {r : Fin 256} {v : W32} (h : Spec.Inv s) : Spec.Inv (sqControl r v s) :=
  inv_ringOn (inv_setRing (inv_ite (inv_dropReads h) h))

theorem inv_sqTailWrite {r : Fin 256} {v : W32} (h : Spec.Inv s) : Spec.Inv (sqTailWrite r v s) := by
  unfold sqTailWrite
  extract_lets g t
  exact inv_ite (inv_setRing h) (inv_ringOn (inv_discardEntries (inv_setRing h)))

theorem inv_cqControl {r : Fin 256} {v : W32} (h : Spec.Inv s) : Spec.Inv (cqControl r v s) :=
  inv_retryRing (inv_setRing h)

theorem inv_cqHeadWrite {r : Fin 256} {v : W32} (h : Spec.Inv s) : Spec.Inv (cqHeadWrite r v s) :=
  inv_ite h (inv_retryRing (inv_setRing h))

theorem inv_ringStatusWrite {r : Nat} {v : W32} (h : Spec.Inv s) : Spec.Inv (ringStatusWrite r v s) :=
  inv_modRing h

theorem inv_coalesceWrite {r : Nat} {v : W32} (h : Spec.Inv s) : Spec.Inv (coalesceWrite r v s) :=
  inv_signalRing (inv_modRing h)

theorem inv_baseWrite {r : Nat} {sq : Bool} {v : W64} (h : Spec.Inv s) : Spec.Inv (baseWrite r sq v s) :=
  inv_modRing h

theorem inv_msixWrite {v i : Nat} {w : W32} (h : Spec.Inv s) : Spec.Inv (msixWrite v i w s) :=
  inv_ite (inv_emit (inv_of_eq h)) (inv_of_eq h)

theorem inv_hostTimers {v : W32} (h : Spec.Inv s) : Spec.Inv (hostTimers v s) :=
  inv_of_eq h

theorem inv_trainLink (h : Spec.Inv s) : Spec.Inv (trainLink s) :=
  inv_ite (inv_msix (inv_of_eq h)) (inv_of_eq h)

end Sys2Proof.Machine

end

section
/-! SUPPORT. Page tables, prefix trees, records and the stages of a step boundary keep the invariant of O59 (R230 to R290). -/

open Sys2Proof Sys2Proof.Machine Sys2Proof.Spec

namespace Sys2Proof.Machine

set_option Elab.async false
variable {s : State}

theorem inv_setWork {r : Nat} {w : Option Work} (h : Spec.Inv s) : Spec.Inv (setWork r w s) :=
  inv_of_eq h

theorem inv_endWork {r status : Nat} (h : Spec.Inv s) : Spec.Inv (endWork r status s) := by
  unfold endWork
  split
  · exact h
  · exact inv_dropReads (inv_setWork (inv_finish h))

theorem inv_noticeWork {r status : Nat} (h : Spec.Inv s) : Spec.Inv (noticeWork r status s) := by
  unfold noticeWork
  split
  · exact h
  · exact inv_complete h

theorem inv_bumpHome {b off n : Nat} (h : Spec.Inv s) : Spec.Inv (bumpHome b off n s) :=
  inv_bump h

theorem inv_putKept {c v : Nat} (h : Spec.Inv s) : Spec.Inv (putKept c v s) :=
  inv_of_eq h

theorem inv_restoreSeq {c : Nat} (h : Spec.Inv s) : Spec.Inv (restoreSeq c s) :=
  inv_putKept h

theorem inv_abandonStep {b : Nat} (h : Spec.Inv s) : Spec.Inv (abandonStep b s) :=
  inv_forAll (fun h1 => inv_modCtxRun (inv_restoreSeq h1)) (inv_forAll inv_modCore h)

theorem inv_endStep {b : Nat} (h : Spec.Inv s) : Spec.Inv (endStep b s) := by
  unfold endStep
  extract_lets s1
  have hs1 : Spec.Inv s1 := inv_forAll (fun h1 => inv_forAll inv_modEngine (inv_modCore h1)) h
  exact inv_modBrun (inv_abandonStep hs1)

/-! ### Sequence slots and vectors -/

theorem inv_servingFault {b f blk : Nat} {write : Bool} (h : Spec.Inv s) : Spec.Inv (servingFault b f blk write s) :=
  inv_endStep (inv_ownerFault h)

theorem inv_putOf {b a : Nat} {bs : List Byte} (h : Spec.Inv s) : Spec.Inv (putOf b a bs s) :=
  inv_ite (inv_memPut h) (inv_servingFault h)

theorem inv_readChecked {b f : Nat} (h : Spec.Inv s) : Spec.Inv (readChecked b f s) :=
  inv_ite h (inv_servingFault h)

/-! ### Page tables (R230, R231) -/

theorem inv_setPte {b f i v : Nat} (h : Spec.Inv s) : Spec.Inv (setPte b f i v s) :=
  inv_putOf h

theorem inv_dropTranslation {b c stream p : Nat} (h : Spec.Inv s) : Spec.Inv (dropTranslation b c stream p s) := by
  unfold dropTranslation
  extract_lets hit s1 o keep
  have hs1 : Spec.Inv s1 := inv_forAll (fun h1 => inv_ite h1 (inv_bump (inv_modCore h1))) h
  exact inv_ite hs1 (inv_bumpHome (inv_modBrun hs1))

theorem inv_returnLater {b f : Nat} (h : Spec.Inv s) : Spec.Inv (returnLater b f s) :=
  inv_modBrun h

/-! ### Prefix trees (R275 to R281) -/

theorem inv_layNode {b n : Nat} (h : Spec.Inv s) : Spec.Inv (layNode b n s) := by
  unfold layNode
  split
  · exact h
  · exact inv_putOf h

theorem inv_setNode {b n : Nat} {x : Option Node} (h : Spec.Inv s) : Spec.Inv (setNode b n x s) :=
  inv_forAll inv_layNode (inv_modBrun h)

theorem inv_modNode {b n : Nat} {f : Node → Node} (h : Spec.Inv s) : Spec.Inv (modNode b n f s) := by
  unfold modNode
  split
  · exact h
  · exact inv_setNode h

theorem inv_dropReference {b c p stream frame : Nat} (h : Spec.Inv s) : Spec.Inv (dropReference b c p stream frame s) := by
  unfold dropReference
  dsimp only
  split
  · exact h
  · exact inv_ite h (inv_modCtxRun (inv_modNode h))

theorem inv_dropPage {b c stream p : Nat} (h : Spec.Inv s) : Spec.Inv (dropPage b c stream p s) := by
  unfold dropPage
  split
  · exact h
  · extract_lets e s1
    have hs1 : Spec.Inv s1 := inv_dropTranslation (inv_setPte h)
    exact inv_ite h (inv_ite (inv_dropReference hs1) (inv_returnLater hs1))

theorem inv_freeNode {b n : Nat} (h : Spec.Inv s) : Spec.Inv (freeNode b n s) := by
  unfold freeNode
  split
  · exact h
  · exact inv_ite (inv_forAll inv_returnFrame (inv_setNode h)) h

theorem inv_evictOne {b : Nat} {t : State} (h : Spec.Inv s) (hsome : evictOne b s = some t) : Spec.Inv t := by
  obtain ⟨n, -, rfl⟩ := Option.map_eq_some_iff.mp hsome
  exact inv_freeNode (inv_bumpHome (inv_modNode h))

theorem inv_evictAll {b : Nat} (h : Spec.Inv s) : Spec.Inv (evictAll b s) := by
  refine inv_upto (fun {_ u} hu => ?_) h
  cases hone : evictOne b u with
  | none => exact hu
  | some t => exact inv_evictOne hu hone

theorem inv_allocEvict {b n : Nat} {r : Nat × State} (h : Spec.Inv s) (hsome : allocEvict b n s = some r) : Spec.Inv r.2 := by
  induction n generalizing s with
  | zero => exact inv_allocFrame h hsome
  | succ n ih =>
    unfold allocEvict at hsome
    split at hsome
    next q hq => cases hsome; exact inv_allocFrame h hq
    next =>
      split at hsome
      next => cases hsome
      next t ht => exact ih (inv_evictOne h ht) hsome

theorem inv_allocCharged {b : Nat} {r : Nat × State} (h : Spec.Inv s) (hsome : allocCharged b s = some r) : Spec.Inv r.2 :=
  inv_allocEvict h hsome

theorem inv_ensureEntry {b f i : Nat} {r : Nat × State} (h : Spec.Inv s) (hsome : ensureEntry b f i s = some r) : Spec.Inv r.2 := by
  unfold ensureEntry at hsome
  dsimp only at hsome
  split at hsome
  · cases hsome; exact h
  · obtain ⟨q, hq, rfl⟩ := Option.map_eq_some_iff.mp hsome
    exact inv_setPte (inv_allocCharged h hq)

theorem inv_ensureTable {b f i : Nat} {r : Nat × State} (h : Spec.Inv s) (hsome : ensureTable b f i s = some r) : Spec.Inv r.2 := by
  unfold ensureTable at hsome
  dsimp only at hsome
  split at hsome
  · cases hsome; exact h
  · obtain ⟨q, hq, rfl⟩ := Option.map_eq_some_iff.mp hsome
    exact inv_setPte (inv_clearFrame (inv_allocCharged h hq))

theorem inv_ensurePage {b c stream p : Nat} {t : State} (h : Spec.Inv s) (hsome : ensurePage b c stream p s = some t) : Spec.Inv t := by
  unfold ensurePage at hsome
  split at hsome
  next => cases hsome
  next d s1 h1 =>
    split at hsome
    next => cases hsome
    next f s2 h2 =>
      obtain ⟨q, hq, rfl⟩ := Option.map_eq_some_iff.mp hsome
      exact inv_ensureEntry (inv_ensureTable (inv_ensureTable h h1) h2) hq

theorem inv_ensurePages {b c : Nat} {ps : List (Nat × Nat)} {t : State} (h : Spec.Inv s) (hsome : ensurePages b c ps s = some t) :
    Spec.Inv t := by
  induction ps generalizing s with
  | nil => cases hsome; exact h
  | cons x ps ih =>
    unfold ensurePages at hsome
    split at hsome
    next => cases hsome
    next u hu => exact ih (inv_ensurePage h hu) hsome

theorem inv_readTokens {r : Nat} (h : Spec.Inv s) : Spec.Inv (readTokens r s) :=
  inv_startRead h

theorem inv_setToken {c p : Nat} {t : W32} (h : Spec.Inv s) : Spec.Inv (setToken c p t s) :=
  inv_putOf h

/-! ### Records -/

theorem inv_clearRecord {c : Nat} (h : Spec.Inv s) : Spec.Inv (clearRecord c s) := by
  unfold clearRecord
  extract_lets b s1 s2 clean _ s3
  have hs1 : Spec.Inv s1 := inv_modBrun h
  have hs2 : Spec.Inv s2 := inv_setCtxRun (inv_setCtx hs1)
  have hs3 : Spec.Inv s3 := inv_of_eq hs2
  exact inv_modEntry hs3

theorem inv_insertNode {b c parent lo n count : Nat} {r : Nat × State} (h : Spec.Inv s)
    (hsome : insertNode b c parent lo n count s = some r) : Spec.Inv r.2 := by
  unfold insertNode at hsome
  split at hsome
  next => exact absurd hsome (by simp)
  next f t ht =>
    extract_lets cap idx toks pages fr s2 at hsome
    have hs2 : Spec.Inv s2 := inv_forAll inv_putOf (inv_putOf (inv_allocFrame h ht))
    clear_value s2
    split at hsome
    · exact absurd hsome (by simp)
    · exact Option.some.inj hsome ▸ inv_setNode hs2

theorem inv_offerPartial {c : Nat} (h : Spec.Inv s) : Spec.Inv (offerPartial c s) := by
  unfold offerPartial
  extract_lets b x r t lo at_ n
  split
  · exact h
  · split
    · exact h
    · rename_i _ u hsome
      have h2 := inv_insertNode h hsome
      refine inv_forAll (fun h2 => ?_) h2
      split
      · exact h2
      · exact inv_dropTranslation (inv_setPte h2)

theorem inv_releaseRecord {c : Nat} (h : Spec.Inv s) : Spec.Inv (releaseRecord c s) := by
  unfold releaseRecord
  extract_lets b s0 x r p hi s1 s2 s3 s4 s5
  have hs0 : Spec.Inv s0 := inv_offerPartial h
  have hs1 : Spec.Inv s1 := by
    unfold s1
    refine inv_forAll (fun h1 => ?_) hs0
    extract_lets root last s s'
    have hs : Spec.Inv s := inv_forAll inv_dropPage h1
    have hs' : Spec.Inv s' := inv_forAll (fun h2 => inv_ite (inv_returnLater h2) h2) hs
    exact inv_ite h1 (inv_returnLater hs')
  have hs2 : Spec.Inv s2 := inv_forAll inv_modNode hs1
  have hs3 : Spec.Inv s3 := inv_forAll inv_modNode hs2
  have hs4 : Spec.Inv s4 := inv_forAll inv_modNode hs3
  have hs5 : Spec.Inv s5 := inv_forAll inv_returnLater hs4
  exact inv_bumpHome (inv_clearRecord hs5)

theorem inv_vacate {c : Nat} (h : Spec.Inv s) : Spec.Inv (vacate c s) :=
  inv_modBrun (inv_modCtx h)

theorem inv_idleRecord {c : Nat} (h : Spec.Inv s) : Spec.Inv (idleRecord c s) := by
  unfold idleRecord
  extract_lets s1
  have hs1 : Spec.Inv s1 := inv_modCtxRun (inv_vacate h)
  exact inv_modBrun (inv_modCtx (inv_modCtxRun hs1))

theorem inv_endRecord {c : Nat} (h : Spec.Inv s) : Spec.Inv (endRecord c s) :=
  inv_modBrun (inv_modCtx (inv_vacate h))

theorem inv_decideEnd {c status : Nat} (h : Spec.Inv s) : Spec.Inv (decideEnd c status s) :=
  inv_modCtxRun h

theorem inv_tellPartner {c status : Nat} {ends : Bool} (h : Spec.Inv s) : Spec.Inv (tellPartner c status ends s) := by
  unfold tellPartner
  split
  · exact h
  · exact inv_ite h (inv_ite (inv_modCtxRun h) (inv_decideEnd h))

theorem inv_settleEnd {c : Nat} (h : Spec.Inv s) : Spec.Inv (settleEnd c s) := by
  unfold settleEnd
  split
  · exact h
  · extract_lets x ends s1
    have hs1 : Spec.Inv s1 := inv_tellPartner (inv_endWork (inv_modCtxRun h))
    exact inv_ite h (inv_ite (inv_endRecord hs1) (inv_idleRecord hs1))

theorem inv_cancelRecord {c status : Nat} (h : Spec.Inv s) : Spec.Inv (cancelRecord c status s) :=
  inv_settleEnd (inv_modCtxRun h)

theorem inv_failWork {c status : Nat} (h : Spec.Inv s) : Spec.Inv (failWork c status s) :=
  inv_forAll inv_decideEnd (inv_endWork h)

/-! ### Emission (R273, R274, R287 to R290) -/

theorem inv_emitToken {c : Nat} {t : W32} (h : Spec.Inv s) : Spec.Inv (emitToken c t s).1 := by
  unfold emitToken
  extract_lets x pos b s1 s2 status
  have hs1 : Spec.Inv s1 := inv_setToken (inv_modCtx h)
  have hs2 : Spec.Inv s2 := by
    unfold s2
    split
    · exact hs1
    · split
      · exact hs1
      · exact inv_bumpHome (inv_emit (inv_writeHost (inv_setWork hs1)))
  clear_value status
  cases status with
  | none => exact hs2
  | some k => exact inv_decideEnd hs2

theorem inv_emitTokens {c : Nat} {first : Bool} {ts : List W32} (h : Spec.Inv s) : Spec.Inv (emitTokens c first ts s) := by
  induction ts generalizing first s with
  | nil => exact h
  | cons t ts ih =>
    have hlen : Spec.Inv (if first then s else modCtx c (fun y => { y with length := y.length + 1 }) s) := inv_ite h (inv_modCtx h)
    exact inv_ite (ih (inv_emitToken hlen)) (inv_emitToken hlen)

theorem inv_countSuspended {c : Nat} (h : Spec.Inv s) : Spec.Inv (countSuspended c s) :=
  inv_ite h (inv_ite (inv_bumpHome (inv_modCtx h)) (inv_modCtx h))

theorem inv_afterRound {c k a : Nat} (h : Spec.Inv s) : Spec.Inv (afterRound c k a s) := by
  unfold afterRound
  extract_lets b kmax x s1 n s2
  have hs1 : Spec.Inv s1 := inv_bumpHome h
  have hs2 : Spec.Inv s2 := inv_bumpHome (inv_modCtx hs1)
  exact inv_ite h (inv_ite (inv_modCtx hs1) (inv_ite (inv_bumpHome (inv_modCtx hs2)) hs2))

theorem inv_keepVector {c v : Nat} (h : Spec.Inv s) : Spec.Inv (keepVector c v s) :=
  inv_upto inv_putKept (inv_restoreSeq h)

theorem inv_dropKept {c : Nat} (h : Spec.Inv s) : Spec.Inv (dropKept c s) :=
  inv_of_eq h

theorem inv_keepPrompt {c n : Nat} (h : Spec.Inv s) : Spec.Inv (keepPrompt c n s) :=
  inv_ite h (inv_modCtxRun h)

theorem inv_draftFollows {c : Nat} (h : Spec.Inv s) : Spec.Inv (draftFollows c s) := by
  unfold draftFollows
  extract_lets y
  split
  · exact h
  · exact inv_ite h (inv_modCtx h)

theorem inv_endEmitting {c k lEnd : Nat} {r : CtxRun} (h : Spec.Inv s) : Spec.Inv (endEmitting c k lEnd r s) := by
  unfold endEmitting
  extract_lets l y ys acc toks s1 s2
  have hs1 : Spec.Inv s1 := inv_emitTokens (inv_modCtx h)
  have hs2 : Spec.Inv s2 := inv_ite (inv_keepVector hs1) hs1
  exact inv_draftFollows (inv_afterRound (inv_countSuspended hs2))

theorem inv_endProposing {c lEnd : Nat} {r : CtxRun} (h : Spec.Inv s) : Spec.Inv (endProposing c lEnd r s) := by
  unfold endProposing
  split
  · exact inv_modCtx h
  · extract_lets t m s1
    have hs1 : Spec.Inv s1 := inv_modCtx (inv_setToken h)
    exact inv_bumpHome (inv_modCtxRun (inv_setToken hs1))

theorem inv_endSilent {c lEnd : Nat} (h : Spec.Inv s) : Spec.Inv (endSilent c lEnd s) := by
  unfold endSilent
  extract_lets x s1 s2
  have hs1 : Spec.Inv s1 := inv_modCtx h
  have hs2 : Spec.Inv s2 := inv_ite (inv_decideEnd hs1) (inv_ite (inv_decideEnd hs1) hs1)
  exact inv_draftFollows (inv_countSuspended hs2)

theorem inv_endStepRecord {c : Nat} (h : Spec.Inv s) : Spec.Inv (endStepRecord c s) := by
  unfold endStepRecord
  extract_lets x r b lEnd k m proposes selects s0 prompt s0'
  have hs0 : Spec.Inv s0 := inv_modCtxRun (inv_keepPrompt h)
  have hs0' : Spec.Inv s0' := inv_ite (inv_bumpHome hs0) hs0
  exact inv_ite h (inv_ite (inv_endSilent hs0') (inv_ite (inv_endProposing hs0') (inv_endEmitting hs0')))

theorem inv_progressEntry {c before : Nat} (h : Spec.Inv s) : Spec.Inv (progressEntry c before s) := by
  unfold progressEntry
  split
  · exact h
  · exact inv_ite (inv_complete h) h

/-! ### Step boundary (R265) -/

theorem inv_stage1 {b : Nat} (h : Spec.Inv s) : Spec.Inv (stage1 b s) :=
  inv_forAll (fun h1 => inv_modCtxRun (inv_forAll inv_modNode h1)) h

theorem inv_quiesceRecords {b : Nat} (h : Spec.Inv s) : Spec.Inv (quiesceRecords b s) :=
  inv_ite (inv_forAll (fun h1 => inv_ite (inv_cancelRecord h1) h1) h) h

theorem inv_stage2 {b : Nat} (h : Spec.Inv s) : Spec.Inv (stage2 b s) := by
  unfold stage2
  extract_lets reqs s1 s1' s2
  have hs1 : Spec.Inv s1 := by
    unfold s1
    refine inv_forAll (fun h1 => ?_) h
    extract_lets q hit
    exact inv_ite (inv_forAll (fun h2 => inv_ite (inv_cancelRecord h2) h2) h1) (inv_forAll inv_cancelRecord h1)
  have hs1' : Spec.Inv s1' := inv_quiesceRecords hs1
  have hs2 : Spec.Inv s2 := inv_forAll (fun h1 => inv_ite (inv_releaseRecord h1) (inv_modCtxRun h1)) hs1'
  exact inv_forAll inv_finish (inv_modBrun hs2)

theorem inv_stage3 {b : Nat} (h : Spec.Inv s) : Spec.Inv (stage3 b s) := by
  unfold stage3
  extract_lets p
  refine inv_forAll (fun h1 => ?_) h
  extract_lets x len halfway
  exact inv_forAll (fun h2 => inv_forAll (fun h3 => inv_ite (inv_dropPage h3) h3) h2) h1

theorem inv_insertPrompt {b c n : Nat} (h : Spec.Inv s) : Spec.Inv (insertPrompt b c n s) := by
  induction n generalizing s with
  | zero => exact h
  | succ n ih =>
    unfold insertPrompt
    extract_lets x r t at_ d lo
    split
    · exact h
    · split
      · exact inv_modCtxRun h
      · split
        next => exact h
        next i u hu =>
          refine ih (inv_modCtxRun (inv_modCtx (inv_forAll (fun hv => ?_) (inv_insertNode h hu))))
          split
          · exact hv
          · exact inv_dropTranslation (inv_setPte hv)

theorem inv_stage4 {b : Nat} (h : Spec.Inv s) : Spec.Inv (stage4 b s) :=
  inv_forAll (fun h1 => inv_ite (inv_insertPrompt h1) h1) h

theorem inv_stage5 {b : Nat} (h : Spec.Inv s) : Spec.Inv (stage5 b s) :=
  inv_forAll inv_freeNode (inv_modBrun (inv_forAll inv_returnFrame h))

theorem inv_nameShared {b c p : Nat} {qs : List (Nat × Nat)} {t : State} (h : Spec.Inv s) (hsome : nameShared b c p qs s = some t) :
    Spec.Inv t := by
  induction qs generalizing s with
  | nil => cases hsome; exact h
  | cons q qs ih =>
    unfold nameShared at hsome
    split at hsome
    next => cases hsome
    next d s1 h1 =>
      split at hsome
      next => cases hsome
      next f s2 h2 => exact ih (inv_setPte (inv_ensureTable (inv_ensureTable h h1) h2)) hsome

theorem inv_namePages {b c p : Nat} {ns : List Nat} {t : State} (h : Spec.Inv s) (hsome : namePages b c p ns s = some t) : Spec.Inv t := by
  induction ns generalizing p s with
  | nil => cases hsome; exact h
  | cons n ns ih =>
    unfold namePages at hsome
    split at hsome
    next => cases hsome
    next u hu => exact ih (inv_nameShared h hu) hsome

theorem inv_admitFrames {b c : Nat} {full : List Nat} {copy : Bool} {t : State} (h : Spec.Inv s)
    (hsome : admitFrames b c full copy s = some t) : Spec.Inv t := by
  unfold admitFrames at hsome
  split at hsome
  next => cases hsome
  next u hu =>
    split at hsome
    · cases hsome; exact inv_namePages h hu
    · exact inv_ensurePages (inv_namePages h hu) hsome

theorem inv_giveUpMatch {b c : Nat} (h : Spec.Inv s) : Spec.Inv (giveUpMatch b c s) := by
  unfold giveUpMatch
  extract_lets s1 s2
  have hs1 : Spec.Inv s1 := inv_forAll inv_modNode h
  have hs2 : Spec.Inv s2 := inv_modCtx (inv_modCtxRun hs1)
  exact inv_settleEnd (inv_decideEnd (inv_modCtx hs2))

theorem inv_admissionShort {b c e : Nat} (h : Spec.Inv s) : Spec.Inv (admissionShort b c e s) :=
  inv_giveUpMatch (inv_bumpHome (inv_evictAll h))

theorem inv_giveSlot {b c slot : Nat} {t : State} (h : Spec.Inv s) (hsome : giveSlot b c slot s = some t) : Spec.Inv t := by
  obtain ⟨u, hu, rfl⟩ := Option.map_eq_some_iff.mp hsome
  exact inv_modCtxRun (inv_forAll inv_modNode (inv_admitFrames (inv_modBrun (inv_modCtx h)) hu))

theorem inv_unqueue {b c : Nat} (h : Spec.Inv s) : Spec.Inv (unqueue b c s) :=
  inv_modBrun h

theorem inv_takeIn {b c slot : Nat} (h : Spec.Inv s) : Spec.Inv (takeIn b c slot s) := by
  unfold takeIn
  split
  · exact inv_admissionShort (inv_unqueue h)
  · rename_i u hsome
    have h2 := inv_giveSlot h hsome
    exact inv_modCtx h2

theorem inv_takePair {b c slot db d dslot : Nat} (h : Spec.Inv s) : Spec.Inv (takePair b c slot db d dslot s) := by
  unfold takePair
  split
  · exact inv_admissionShort (inv_unqueue h)
  · rename_i u hsome
    have h2 := inv_giveSlot h hsome
    split
    · exact inv_admissionShort (inv_unqueue h)
    · rename_i u hsome
      have h3 := inv_giveSlot h2 hsome
      exact inv_modCtx h3

theorem inv_fillSlot {b i : Nat} (h : Spec.Inv s) : Spec.Inv (fillSlot b i s) := by
  unfold fillSlot
  split
  · exact h
  · split
    · exact inv_takeIn h
    · exact inv_takePair h

theorem inv_fillSlots {b : Nat} {is : List Nat} (h : Spec.Inv s) : Spec.Inv (fillSlots b is s) :=
  inv_forAll (fun h1 => inv_upto (fun h2 => inv_ite (inv_fillSlot h2) h2) h1) h

theorem inv_takeExtend {b c : Nat} (h : Spec.Inv s) : Spec.Inv (takeExtend b c s) := by
  unfold takeExtend
  dsimp only
  split
  · exact h
  · exact inv_modBrun (inv_modCtxRun (inv_modCtx h))

theorem inv_draftTakesUp {c : Nat} (h : Spec.Inv s) : Spec.Inv (draftTakesUp c s) := by
  unfold draftTakesUp
  split
  · exact h
  · extract_lets y r s1
    have hs1 : Spec.Inv s1 := inv_modCtxRun (inv_modCtx h)
    exact inv_ite h (inv_ite (inv_readTokens hs1) hs1)

theorem inv_pairOut {b c : Nat} (h : Spec.Inv s) : Spec.Inv (pairOut b c s) := by
  unfold pairOut
  split
  · exact h
  · split
    · extract_lets s1
      have hs1 : Spec.Inv s1 := inv_modCtx (inv_vacate h)
      exact inv_ite hs1 (inv_modBrun hs1)
    · exact h

theorem inv_draftIn {b c : Nat} (h : Spec.Inv s) : Spec.Inv (draftIn b c s) :=
  inv_ite h (inv_ite (inv_modCtx h) (inv_ite (inv_giveUpMatch h) h))

theorem inv_moveSlot {b : Nat} (h : Spec.Inv s) : Spec.Inv (moveSlot b s) := by
  unfold moveSlot
  extract_lets slots d p waits
  clear_value d p
  split
  · split
    · exact inv_ite (inv_fillSlots (inv_modCtx (inv_modBrun h))) h
    · exact h
  · exact h

theorem inv_stage6 {b : Nat} (h : Spec.Inv s) : Spec.Inv (stage6 b s) := by
  unfold stage6
  extract_lets s1 s2
  have hs1 : Spec.Inv s1 := inv_forAll (fun h1 => inv_pairOut (inv_draftTakesUp (inv_takeExtend h1))) h
  have hs2 : Spec.Inv s2 := inv_forAll inv_draftIn hs1
  exact inv_ite (inv_moveSlot (inv_fillSlots hs2)) hs1

theorem inv_pagesOrRefuse {b c : Nat} (h : Spec.Inv s) : Spec.Inv (pagesOrRefuse b c s) := by
  unfold pagesOrRefuse
  dsimp only
  split
  next t ht =>
    split at ht
    · cases ht; exact h
    · exact inv_ensurePages h ht
  next => exact inv_settleEnd (inv_decideEnd (inv_bumpHome (inv_evictAll h)))

theorem inv_stage7 {b : Nat} (h : Spec.Inv s) : Spec.Inv (stage7 b s) :=
  inv_forAll inv_pagesOrRefuse h

theorem inv_stage8 {b : Nat} {sw : List Nat} (h : Spec.Inv s) : Spec.Inv (stage8 b sw s) := by
  unfold stage8
  extract_lets r s1 epoch nd s' s2 count s3 home s4
  have hs1 : Spec.Inv s1 := inv_forAll (fun h1 => inv_ite h1 (inv_forAll inv_bump (inv_modCtx h1))) h
  have hs' : Spec.Inv s' := inv_modBrun hs1
  have hs2 : Spec.Inv s2 := inv_ite (inv_ite (inv_bumpHome hs') hs') hs1
  have hs3 : Spec.Inv s3 := inv_modBrun hs2
  have hs4 : Spec.Inv s4 := inv_setWin hs3
  exact inv_forAll inv_setWin hs4

theorem inv_fromMain {c n : Nat} (h : Spec.Inv s) : Spec.Inv (fromMain c n s) :=
  inv_ite h (inv_forAll (fun h1 => inv_ite h1 (inv_setToken h1)) h)

theorem inv_beginStep {b : Nat} (h : Spec.Inv s) : Spec.Inv (beginStep b s) := by
  unfold beginStep
  refine inv_forAll (fun h1 => ?_) (inv_modBrun h)
  split
  · exact h1
  · extract_lets s n s1 s2
    have hs : Spec.Inv s := inv_dropKept h1
    have hs1 : Spec.Inv s1 := inv_ite (inv_bumpHome hs) hs
    have hs2 : Spec.Inv s2 := inv_modCtxRun (inv_fromMain hs1)
    exact inv_ite hs2 (inv_readChecked hs2)

theorem inv_stagesTo5 {b : Nat} (h : Spec.Inv s) : Spec.Inv (stagesTo5 b s) := by
  unfold stagesTo5
  extract_lets s1
  have hs1 : Spec.Inv s1 := inv_stage1 h
  exact inv_stage5 (inv_stage4 (inv_stage3 (inv_stage2 (inv_forAll inv_settleEnd hs1))))

theorem inv_stagesFrom6 {b : Nat} {sw : List Nat} (h : Spec.Inv s) : Spec.Inv (stagesFrom6 b sw s) :=
  inv_stage8 (inv_stage7 (inv_stage6 h))

theorem inv_stepBoundary {b : Nat} (h : Spec.Inv s) : Spec.Inv (stepBoundary b s) := by
  unfold stepBoundary
  extract_lets active before s1 s2 s4
  have hs1 : Spec.Inv s1 := inv_forAll inv_endStepRecord h
  have hs2 : Spec.Inv s2 := inv_forAll inv_progressEntry hs1
  have hs4 : Spec.Inv s4 := inv_stagesFrom6 (inv_stagesTo5 hs2)
  exact inv_beginStep (inv_modBrun (inv_modEntry hs4))

end Sys2Proof.Machine

end

section
/-! SUPPORT. Spares, retired planes and sparing summaries keep the invariant of O59 (R32 to R39, R82 to R88, R203 to R205). -/

open Sys2Proof Sys2Proof.Machine Sys2Proof.Spec

namespace Sys2Proof.Machine

set_option Elab.async false
variable {s : State}

theorem inv_writeEngineMap {k : Nat} (h : Spec.Inv s) : Spec.Inv (writeEngineMap k s) :=
  inv_modCluster h

theorem inv_mapEngines {k : Nat} (h : Spec.Inv s) : Spec.Inv (mapEngines k s) :=
  inv_writeEngineMap (inv_setCore h)

theorem inv_applyCluster {badMaps : List Nat} {p : Nat} (h : Spec.Inv s) : Spec.Inv (applyCluster badMaps p s) := by
  unfold applyCluster
  extract_lets good before on us s1
  have hs1 : Spec.Inv s1 := inv_modCluster h
  exact inv_ite hs1 (inv_forAll (fun h1 => inv_mapEngines (inv_modCore h1)) hs1)

theorem inv_sparingSummary {p : Nat} (h : Spec.Inv s) : Spec.Inv (sparingSummary p s) :=
  inv_setWin (inv_setWin h)

theorem inv_planeSummary {p : Nat} (h : Spec.Inv s) : Spec.Inv (planeSummary p s) :=
  inv_setWin (inv_setWin (inv_setWin (inv_setWin h)))

theorem inv_driftSummary {marks p : Nat} (h : Spec.Inv s) : Spec.Inv (driftSummary marks p s) :=
  inv_setWin h

theorem inv_bandSummary {p : Nat} (h : Spec.Inv s) : Spec.Inv (bandSummary p s) :=
  inv_setWin (inv_setWin h)

/-! ### Planes that may be taken (R204) -/

theorem inv_dropCells {b n : Nat} (h : Spec.Inv s) : Spec.Inv (dropCells b n s) :=
  inv_with_hw (inv_modBrun h)

theorem inv_movePasses {e spare n m : Nat} (h : Spec.Inv s) : Spec.Inv (movePasses e spare n m s) :=
  inv_modEngine (inv_modEngine h)

theorem inv_moveToSpare {spare n : Nat} (h : Spec.Inv s) : Spec.Inv (moveToSpare spare n s) := by
  unfold moveToSpare
  extract_lets q same
  split
  · exact h
  · split
    · exact h
    · extract_lets s1 _ s2
      have hs1 : Spec.Inv s1 := inv_modPlane (inv_modPlane h)
      have hs2 : Spec.Inv s2 := inv_of_eq hs1
      exact inv_movePasses (inv_dropCells (inv_modBrun hs2))

theorem inv_calDue {p : Nat} (h : Spec.Inv s) : Spec.Inv (calDue p s) :=
  inv_ite (inv_modCluster h) h

theorem inv_substitute {k e : Nat} (h : Spec.Inv s) : Spec.Inv (substitute k e s) := by
  unfold substitute
  split
  · exact inv_failCore h
  · extract_lets _ _ s1 s2 s3
    have hs1 : Spec.Inv s1 := inv_of_eq h
    have hs2 : Spec.Inv s2 := inv_raise (inv_mapEngines hs1)
    have hs3 : Spec.Inv s3 := inv_forAll inv_moveToSpare hs2
    exact inv_calDue (inv_writeRepair hs3)

theorem inv_stopEngine {e : Nat} (h : Spec.Inv s) : Spec.Inv (stopEngine e s) := by
  unfold stopEngine
  extract_lets s1
  have hs1 : Spec.Inv s1 := by
    unfold s1
    split
    · exact h
    · exact inv_modPlane h
  exact inv_modEngine hs1

theorem inv_failEngine {e : Nat} (h : Spec.Inv s) : Spec.Inv (failEngine e s) := by
  unfold failEngine
  extract_lets k s0
  have hs0 : Spec.Inv s0 := inv_stopEngine h
  exact inv_ite h (inv_ite hs0 (inv_ite (inv_failCore hs0) (inv_ite (inv_substitute hs0)
    (inv_forAll (fun h1 => inv_ite (inv_modPlane h1) h1) (inv_modCore hs0)))))

end Sys2Proof.Machine

end

section
/-! SUPPORT. Loads, switches, releases and replans keep the invariant of O59 (R330 to R353). -/

open Sys2Proof Sys2Proof.Machine Sys2Proof.Spec

namespace Sys2Proof.Machine

set_option Elab.async false
variable {s : State}

/-! ### Frames and the larder's plane records -/

theorem inv_putFrames {b : Nat} {fs : List Nat} {bs : List Byte} (h : Spec.Inv s) : Spec.Inv (putFrames b fs bs s) := by
  induction fs generalizing bs s with
  | nil => exact h
  | cons f fs ih => exact inv_ite h (ih (inv_putOf h))

theorem inv_takeFrames {b n : Nat} (h : Spec.Inv s) : Spec.Inv (takeFrames b n s).2 := by
  unfold takeFrames
  cases hsome : allocFrames b (homeCluster s b / 28) false n [] s with
  | none => exact h
  | some r => exact inv_allocFrames h hsome

theorem inv_journal {e : JEntry} (h : Spec.Inv s) : Spec.Inv (journal e s) :=
  inv_writeJournal (inv_of_eq h)

/-! ### Completions of commands -/

theorem inv_replyCmd {c : CmdRef} {b status reason detail : Nat} (h : Spec.Inv s) : Spec.Inv (replyCmd c b status reason detail s) :=
  inv_finish h

theorem inv_replyOpt {c : Option CmdRef} {b status reason detail : Nat} (h : Spec.Inv s) : Spec.Inv (replyOpt c b status reason detail s) := by
  unfold replyOpt
  split
  · exact h
  · exact inv_replyCmd h

theorem inv_refuse {c : Option CmdRef} {b : Option Nat} {r : Refuse} (h : Spec.Inv s) : Spec.Inv (refuse c b r s) := by
  unfold refuse
  extract_lets s1
  have hs1 : Spec.Inv s1 := by
    unfold s1
    split
    · exact inv_modEntry h
    · exact h
  exact inv_replyOpt (inv_of_eq hs1)

theorem inv_asPacket {op : Nat} {c : Cmd} {k : Nat} {f : State → State} (hf : ∀ {s}, Spec.Inv s → Spec.Inv (f s)) (h : Spec.Inv s) : Spec.Inv
    (asPacket op c k f s) := by
  unfold asPacket
  extract_lets g
  exact inv_ite h (inv_ite (inv_refusePacket h) (inv_ite h (hf (inv_setRing (inv_of_eq h)))))

/-! ### Pool (R357, R361) -/

theorem inv_provision (h : Spec.Inv s) : Spec.Inv (provision s) :=
  inv_of_eq h

/-! ### Load (R336, R337) -/

theorem inv_assignPlane {b : Nat} {p : List Byte} {tid : W64} {map : List Nat} {u : PlaneUse} (h : Spec.Inv s) : Spec.Inv
    (assignPlane b p tid map u s) := by
  unfold assignPlane
  split
  · exact h
  · extract_lets blk data found
    split
    · exact h
    · exact inv_modBrun (inv_with_hw (inv_modPlane h))

theorem inv_takeSlot {tid pid : W64} (h : Spec.Inv s) : Spec.Inv (takeSlot tid pid s) := by
  unfold takeSlot
  dsimp only
  split
  · exact inv_ite h (inv_journal h)
  · exact inv_journal (inv_journal h)

theorem inv_checkResident {b : Nat} (h : Spec.Inv s) : Spec.Inv (checkResident b s) := by
  unfold checkResident
  extract_lets r
  exact inv_ite (inv_dropReads (inv_replyOpt (inv_modBrun (inv_modEntry h)))) h

theorem inv_acceptLoad {b : Nat} {c : Cmd} {d : CmdData} (h : Spec.Inv s) : Spec.Inv (acceptLoad b c d s) := by
  unfold acceptLoad
  extract_lets pay p map key n hold s1 _ s2 f0 f1 f2 f3 f4 f5 s3 s4 s5 s6 s7 s8 s9 s10
  have hs1 : Spec.Inv s1 := inv_setBrun h
  have hs2 : Spec.Inv s2 := inv_of_eq hs1
  have hf0 : Spec.Inv f0.2 := inv_takeFrames hs2
  have hf1 : Spec.Inv f1.2 := inv_takeFrames hf0
  have hf2 : Spec.Inv f2.2 := inv_takeFrames hf1
  have hf3 : Spec.Inv f3.2 := inv_takeFrames hf2
  have hf4 : Spec.Inv f4.2 := inv_takeFrames hf3
  have hf5 : Spec.Inv f5.2 := inv_takeFrames hf4
  have hs3 : Spec.Inv s3 := inv_modBrun hf5
  have hs4 : Spec.Inv s4 := inv_setEntry hs3
  have hs5 : Spec.Inv s5 := inv_putFrames (inv_putFrames hs4)
  have hs6 : Spec.Inv s6 := by
    unfold s6
    split
    · exact hs5
    · exact inv_putFrames hs5
  have hs7 : Spec.Inv s7 := inv_foldl_snd inv_putFrames hs6
  have hs8 : Spec.Inv s8 := inv_forAll inv_of_eq hs7
  have hs9 : Spec.Inv s9 := inv_takeSlot hs8
  have hs10 : Spec.Inv s10 := inv_forAll inv_assignPlane hs9
  exact inv_checkResident (inv_provision (inv_startRead hs10))

theorem inv_doBindLoad {c : Cmd} {d : CmdData} (h : Spec.Inv s) : Spec.Inv (doBindLoad c d s) := by
  unfold doBindLoad
  extract_lets b
  split
  · exact inv_replyCmd h
  · split
    · exact inv_replyCmd h
    · split
      · exact inv_replyCmd h
      · split
        · exact inv_replyCmd h
        · split
          · exact inv_refuse h
          · exact inv_acceptLoad h

/-! ### Release (R347 to R349) -/

theorem inv_freedPlane {n : Nat} (h : Spec.Inv s) : Spec.Inv (freedPlane n s) :=
  inv_with_hw (inv_modPlane h)

theorem inv_releasePlane {n : Nat} (h : Spec.Inv s) : Spec.Inv (releasePlane n s) := by
  unfold releasePlane
  extract_lets q writing
  exact inv_ite h (inv_ite (inv_modPlane h) (inv_ite (inv_modPlane h) (inv_ite (inv_ite (inv_freedPlane h) (inv_modPlane h)) h)))

theorem inv_dropResidency {tid : W64} (h : Spec.Inv s) : Spec.Inv (dropResidency tid s) := by
  unfold dropResidency
  split
  · exact h
  · exact inv_journal h

theorem inv_clearOverflow {b : Nat} (h : Spec.Inv s) : Spec.Inv (clearOverflow b s) :=
  inv_ite h (inv_bumpHome (inv_modBrun h))

theorem inv_checkReleased {b : Nat} (h : Spec.Inv s) : Spec.Inv (checkReleased b s) := by
  unfold checkReleased
  extract_lets e busy
  exact inv_ite h (inv_provision (inv_replyOpt (inv_setBrun (inv_setEntry h))))

theorem inv_releaseRecords {b status : Nat} (h : Spec.Inv s) : Spec.Inv (releaseRecords b status s) :=
  inv_forAll (fun h1 => inv_bumpHome (inv_clearRecord (inv_endWork h1))) h

theorem inv_releaseFrames {b : Nat} (h : Spec.Inv s) : Spec.Inv (releaseFrames b s) := by
  unfold releaseFrames
  extract_lets e mine s1
  have hs1 : Spec.Inv s1 := inv_modEntry (inv_forAll inv_returnFrame h)
  exact inv_ite (inv_of_eq hs1) hs1

theorem inv_startRelease {b : Nat} (h : Spec.Inv s) : Spec.Inv (startRelease b s) := by
  unfold startRelease
  extract_lets tid r s1 s2 s3 s4 s5 s6 _ s7 s8 s9
  have hs1 : Spec.Inv s1 := inv_modEntry h
  have hs2 : Spec.Inv s2 := inv_releaseRecords hs1
  have hs3 : Spec.Inv s3 := inv_forAll inv_replyCmd hs2
  have hs4 : Spec.Inv s4 := inv_dropReads (inv_replyOpt hs3)
  have hs5 : Spec.Inv s5 := inv_releaseFrames (inv_clearOverflow hs4)
  have hs6 : Spec.Inv s6 := inv_modBrun hs5
  have hs7 : Spec.Inv s7 := inv_of_eq hs6
  have hs8 : Spec.Inv s8 := inv_dropResidency hs7
  have hs9 : Spec.Inv s9 := inv_forAll inv_releasePlane hs8
  exact inv_checkReleased hs9

/-! ### Multi-part operations (R309 to R312) -/

theorem inv_sendFlit {k kind src dst txn : Nat} {bs : List Byte} (h : Spec.Inv s) : Spec.Inv (sendFlit k kind src dst txn bs s) :=
  inv_emit (inv_setPort h)

theorem inv_sendFlits {down : Bool} {kind src dst txn : Nat} {bs : List Byte} (h : Spec.Inv s) : Spec.Inv (sendFlits down kind src dst txn bs s) :=
  inv_ite h (inv_forAll inv_sendFlit h)

theorem inv_sendWord {down : Bool} {bs : List Byte} (h : Spec.Inv s) : Spec.Inv (sendWord down bs s) :=
  inv_sendFlits h

theorem inv_startTxn {dst : Nat} {down resent : Bool} {data : List Byte} (h : Spec.Inv s) : Spec.Inv (startTxn dst down resent data s) :=
  inv_of_eq h

theorem inv_sendTxn {dst : Nat} {down resent : Bool} {data : List Byte} (h : Spec.Inv s) : Spec.Inv (sendTxn dst down resent data s) :=
  inv_sendFlits (inv_startTxn h)

theorem inv_sendPlan {code dst : Nat} {q : PlanMsg} (h : Spec.Inv s) : Spec.Inv (sendPlan code dst q s) :=
  inv_sendTxn (inv_emit h)

theorem inv_sendPart {b o : Nat} {always : Bool} {msgs : List (List Byte)} (h : Spec.Inv s) : Spec.Inv (sendPart b o always msgs s) :=
  inv_forAll inv_sendTxn h

theorem inv_sendParts {b : Nat} {always : Bool} {msgs : List (List Byte)} (h : Spec.Inv s) : Spec.Inv (sendParts b always msgs s) :=
  inv_forAll inv_sendPart h

theorem inv_restoreStates {o : SwitchOp} (h : Spec.Inv s) : Spec.Inv (restoreStates o s) :=
  inv_forAll inv_modEntry h

theorem inv_abortSwitch {o : SwitchOp} {r : Refuse} (h : Spec.Inv s) : Spec.Inv (abortSwitch o r s) :=
  inv_refuse (inv_restoreStates (inv_of_eq h))

theorem inv_memberEpoch {q : PlanMsg} (h : Spec.Inv s) : Spec.Inv (memberEpoch q s) :=
  inv_of_eq h

theorem inv_memberAbort {planId : W64} {part : BitVec 9} (h : Spec.Inv s) : Spec.Inv (memberAbort planId part s) :=
  inv_forAll inv_abortSwitch (inv_of_eq h)

theorem inv_tellPart {code : Nat} {q : PlanMsg} {o : Nat} (h : Spec.Inv s) : Spec.Inv (tellPart code q o s) := by
  unfold tellPart
  extract_lets dst
  exact inv_ite (inv_ite (inv_memberEpoch h) (inv_memberAbort h)) (inv_sendPlan h)

theorem inv_leadAbort {o : MultiOp} {part : BitVec 9} (h : Spec.Inv s) : Spec.Inv (leadAbort o part s) :=
  inv_forAll inv_tellPart (inv_of_eq h)

theorem inv_leadReady {planId : W64} {part : BitVec 9} {parts : Nat} (h : Spec.Inv s) : Spec.Inv (leadReady planId part parts s) :=
  inv_ite (inv_forAll inv_tellPart (inv_of_eq h)) (inv_of_eq h)

theorem inv_leadRefusal {planId : W64} {part : BitVec 9} (h : Spec.Inv s) : Spec.Inv (leadRefusal planId part s) :=
  inv_leadAbort (inv_of_eq h)

theorem inv_tellLead {b : Nat} {refused : Option Refuse} (h : Spec.Inv s) : Spec.Inv (tellLead b refused s) := by
  unfold tellLead
  extract_lets e dst here
  split
  · exact inv_ite (inv_leadRefusal h) (inv_sendPlan h)
  · exact inv_ite (inv_leadReady h) (inv_sendPlan (inv_of_eq h))

/-! ### Switching cores (R338 to R345) -/

theorem inv_startSwitch {inc : Option Nat} {outs : List Nat} {cmd : Option CmdRef} {rel : List Nat} (h : Spec.Inv s) : Spec.Inv
    (startSwitch inc outs cmd rel s) := by
  unfold startSwitch
  extract_lets multi mate s1 o _ s2
  have hs1 : Spec.Inv s1 := inv_forAll (fun h1 => inv_modEntry (inv_modBrun h1)) h
  have hs2 : Spec.Inv s2 := inv_of_eq hs1
  split
  · exact inv_ite (inv_tellLead hs2) hs2
  · exact hs2

theorem inv_doBindSwitch {c : Cmd} (h : Spec.Inv s) : Spec.Inv (doBindSwitch c s) := by
  unfold doBindSwitch
  extract_lets b inc outs named
  clear_value inc
  refine inv_ite (inv_replyCmd h) (inv_ite (inv_replyCmd h) (inv_ite (inv_replyCmd h) ?_))
  split
  · exact inv_startSwitch h
  · have hrefused : ∀ {x r}, Spec.Inv (refuse (some (cmdRef c)) x r s) := inv_refuse h
    cases inc with
    | none => exact hrefused
    | some i => exact inv_ite (inv_tellLead hrefused) hrefused

theorem inv_unslot {b : Nat} (h : Spec.Inv s) : Spec.Inv (unslot b s) := by
  unfold unslot
  refine inv_forAll (fun h1 => ?_) h
  extract_lets x work s1
  have hs1 : Spec.Inv s1 := inv_modCtxRun (inv_vacate h1)
  exact inv_ite hs1 (inv_ite (inv_modBrun (inv_modCtx hs1)) (inv_modCtx hs1))

theorem inv_finalBoundary {b : Nat} (h : Spec.Inv s) : Spec.Inv (finalBoundary b s) :=
  inv_unslot (inv_stage8 (inv_stage6 (inv_stagesTo5 h)))

theorem inv_scrubCore {k : Nat} (h : Spec.Inv s) : Spec.Inv (scrubCore k s) :=
  inv_forAll inv_modEngine (inv_modCore (inv_bump h))

theorem inv_settlePlane {n : Nat} (h : Spec.Inv s) : Spec.Inv (settlePlane n s) := by
  unfold settlePlane
  extract_lets q s1 s2 b
  have hs1 : Spec.Inv s1 := by
    unfold s1
    split
    · exact h
    · exact inv_ite (inv_freedPlane h) (inv_modPlane h)
  have hs2 : Spec.Inv s2 := inv_modPlane hs1
  split
  · exact hs1
  · extract_lets s3 s4
    have hs3 : Spec.Inv s3 := inv_modEngine (inv_modBrun hs2)
    have hs4 : Spec.Inv s4 := inv_dropCells (inv_modPlane hs3)
    exact inv_journal (inv_of_eq hs4)

theorem inv_settleCore {k : Nat} (h : Spec.Inv s) : Spec.Inv (settleCore k s) := by
  unfold settleCore
  extract_lets s1 s2
  have hs1 : Spec.Inv s1 := inv_forAll inv_settlePlane h
  have hs2 : Spec.Inv s2 := by
    unfold s2
    split
    · exact hs1
    · exact inv_substitute (inv_modCore hs1)
  exact inv_forAll inv_checkReleased hs2

theorem inv_stopOutgoing {rel : List Nat} {b : Nat} (h : Spec.Inv s) : Spec.Inv (stopOutgoing rel b s) := by
  unfold stopOutgoing
  extract_lets active _ s1 s2 s3 s4
  have hs1 : Spec.Inv s1 := inv_ite (inv_forAll inv_noticeWork (inv_of_eq h)) h
  have hs2 : Spec.Inv s2 := inv_abandonStep hs1
  have hs3 : Spec.Inv s3 := inv_forAll inv_modCore hs2
  have hs4 : Spec.Inv s4 := inv_finalBoundary (inv_modEntry hs3)
  exact inv_ite (inv_startRelease hs4) hs4

theorem inv_beginSwitch {o : SwitchOp} (h : Spec.Inv s) : Spec.Inv (beginSwitch o s) := by
  unfold beginSwitch
  extract_lets cores s1 s2 s3 s4
  have hs1 : Spec.Inv s1 := inv_forAll inv_stopOutgoing h
  have hs2 : Spec.Inv s2 := inv_forAll (fun h1 => inv_ite h1 (inv_startRelease h1)) hs1
  have hs3 : Spec.Inv s3 := inv_forAll (fun h1 => inv_settleCore (inv_scrubCore h1)) hs2
  have hs4 : Spec.Inv s4 := inv_forAll inv_modEntry hs3
  exact inv_of_eq hs4

theorem inv_endSwitch {o : SwitchOp} (h : Spec.Inv s) : Spec.Inv (endSwitch o s) := by
  unfold endSwitch
  extract_lets _ s1 b
  have hs1 : Spec.Inv s1 := inv_of_eq h
  split
  · exact inv_replyOpt hs1
  · exact inv_replyOpt (inv_forAll inv_modEntry hs1)

theorem inv_endSwitches (h : Spec.Inv s) : Spec.Inv (endSwitches s) :=
  inv_forAll inv_endSwitch h

/-! ### Unbind (R348 to R350) -/

theorem inv_unbindEntry {b : Nat} {cmd : CmdRef} (h : Spec.Inv s) : Spec.Inv (unbindEntry b cmd s) := by
  unfold unbindEntry
  extract_lets q mate s1 on
  have hs1 : Spec.Inv s1 := inv_modBrun h
  exact inv_ite (inv_forAll inv_startRelease hs1) (inv_startSwitch hs1)

theorem inv_doUnbind {c : Cmd} (h : Spec.Inv s) : Spec.Inv (doUnbind c s) := by
  unfold doUnbind
  extract_lets b
  exact inv_ite (inv_replyCmd h) (inv_ite (inv_replyCmd h) (inv_ite (inv_replyCmd h) (inv_ite (inv_replyCmd h) (inv_unbindEntry h))))

theorem inv_doUnbindByTenant {c : Cmd} (h : Spec.Inv s) : Spec.Inv (doUnbindByTenant c s) := by
  unfold doUnbindByTenant
  extract_lets tid
  split
  · exact inv_replyCmd h
  · split
    · exact inv_replyCmd h
    · split
      · exact inv_ite (inv_replyCmd h) (inv_unbindEntry h)
      · exact inv_replyCmd (inv_forAll inv_releasePlane (inv_dropResidency h))

end Sys2Proof.Machine

end

section
/-! SUPPORT. Bonds, beats, transactions and domain faults keep the invariant of O59 (R292 to R329). -/

open Sys2Proof Sys2Proof.Machine Sys2Proof.Spec

namespace Sys2Proof.Machine

set_option Elab.async false
variable {s : State}

/-! ### Faults (R301, R306, R307) -/

theorem inv_passNotice {cause : BitVec 4} {pos : BitVec 9} {down : Bool} (h : Spec.Inv s) : Spec.Inv (passNotice cause pos down s) :=
  inv_sendWord (inv_emit h)

theorem inv_sendNotice {cause : BitVec 4} {pos : BitVec 9} (h : Spec.Inv s) : Spec.Inv (sendNotice cause pos s) :=
  inv_passNotice (inv_passNotice (inv_of_eq h))

theorem inv_enterFault {cause : Nat} (h : Spec.Inv s) : Spec.Inv (enterFault cause s) :=
  inv_of_eq h

theorem inv_faultBinding {b : Nat} (h : Spec.Inv s) : Spec.Inv (faultBinding b s) := by
  unfold faultBinding
  extract_lets s1 s2
  have hs1 : Spec.Inv s1 := inv_modBrun h
  have hs2 : Spec.Inv s2 := inv_forAll inv_failWork (inv_abandonStep hs1)
  exact inv_ite (inv_ite (inv_failBinding hs2) (inv_modBrun hs2)) hs1

theorem inv_domainFault {cause src : Nat} (h : Spec.Inv s) : Spec.Inv (domainFault cause src s) := by
  unfold domainFault
  split
  · exact h
  · extract_lets s1 _ s2 s3 s4
    have hs1 : Spec.Inv s1 := inv_enterFault (inv_sendNotice h)
    have hs2 : Spec.Inv s2 := inv_of_eq hs1
    have hs3 : Spec.Inv s3 := inv_forAll inv_abortSwitch hs2
    have hs4 : Spec.Inv s4 := inv_forAll inv_faultBinding hs3
    exact inv_raise hs4

theorem inv_formFail {cause : Nat} (h : Spec.Inv s) : Spec.Inv (formFail cause s) :=
  inv_ite h (inv_raise (inv_enterFault (inv_sendNotice h)))

theorem inv_loseBond {down : Bool} (h : Spec.Inv s) : Spec.Inv (loseBond down s) :=
  inv_domainFault (inv_foldl inv_setPort h)

/-! ### Formation and leaving (R298 to R302, R308) -/

theorem inv_firstBeat (h : Spec.Inv s) : Spec.Inv (firstBeat s) :=
  inv_of_eq h

theorem inv_doJoin (h : Spec.Inv s) : Spec.Inv (doJoin s) := by
  unfold doJoin
  split
  · exact inv_of_eq h
  · extract_lets n _ s1
    have hs1 : Spec.Inv s1 := inv_of_eq h
    exact inv_ite (inv_formFail hs1) (inv_ite (inv_firstBeat hs1) (inv_foldl inv_setPort hs1))

theorem inv_doLeave (h : Spec.Inv s) : Spec.Inv (doLeave s) := by
  unfold doLeave
  split
  · exact inv_of_eq h
  · extract_lets s1 _ s2
    have hs1 : Spec.Inv s1 := inv_ite (inv_raise (inv_forAll inv_faultBinding (inv_sendNotice h))) h
    have hs2 : Spec.Inv s2 := inv_of_eq hs1
    exact inv_forAll inv_abortSwitch hs2

theorem inv_fabricControl {v : W32} (h : Spec.Inv s) : Spec.Inv (fabricControl v s) := by
  unfold fabricControl
  extract_lets s1
  have hs1 : Spec.Inv s1 := inv_ite (inv_doJoin h) h
  exact inv_ite (inv_doLeave hs1) hs1

theorem inv_mapWriteAt {o : Nat} {v : W32} (h : Spec.Inv s) : Spec.Inv (mapWriteAt o v s) := by
  unfold mapWriteAt
  extract_lets x _ i
  exact inv_ite h (inv_ite (inv_of_eq h) (inv_ite (inv_of_eq h) (inv_ite (inv_of_eq h) (inv_ite (inv_of_eq h) (inv_of_eq h)))))

theorem inv_txnTimers {v : W32} (h : Spec.Inv s) : Spec.Inv (txnTimers v s) :=
  inv_of_eq h

theorem inv_byMgmt {m : Master} (h : Spec.Inv s) : Spec.Inv (byMgmt m s) :=
  inv_ite (inv_of_eq h) h

theorem inv_clearRefused {v : W32} (h : Spec.Inv s) : Spec.Inv (clearRefused v s) :=
  inv_of_eq h

theorem inv_sendForm {w : FormWord} (h : Spec.Inv s) : Spec.Inv (sendForm w s) :=
  inv_sendWord (inv_emit h)

theorem inv_sendBeat {w : BeatWord} (h : Spec.Inv s) : Spec.Inv (sendBeat w s) :=
  inv_sendWord (inv_emit h)

/-! ### The beat (R303 to R305) -/

theorem inv_sendRequest {q : StretchReq} (h : Spec.Inv s) : Spec.Inv (sendRequest q s) :=
  inv_sendWord (inv_emit h)

theorem inv_sendRequests (h : Spec.Inv s) : Spec.Inv (sendRequests s) := by
  unfold sendRequests
  dsimp only
  split
  · exact h
  · exact inv_ite (inv_sendRequest (inv_of_eq h)) (inv_of_eq h)

theorem inv_countBeat (h : Spec.Inv s) : Spec.Inv (countBeat s) :=
  inv_of_eq h

theorem inv_countReads (h : Spec.Inv s) : Spec.Inv (countReads s) :=
  inv_ite h (inv_of_eq h)

theorem inv_removeLoad {b : Nat} (h : Spec.Inv s) : Spec.Inv (removeLoad b s) :=
  inv_ite (inv_startRelease (inv_replyOpt (inv_modBrun h))) h

theorem inv_epochStages (h : Spec.Inv s) : Spec.Inv (epochStages s) :=
  inv_ite (inv_forAll (fun h1 => inv_removeLoad (inv_stagesTo5 h1)) h) h

theorem inv_countBelow (h : Spec.Inv s) : Spec.Inv (countBelow s) :=
  inv_forAll (fun h1 => inv_ite (inv_modCluster h1) h1) h

theorem inv_gateCluster {p : Nat} (h : Spec.Inv s) : Spec.Inv (gateCluster p s) :=
  inv_ite (inv_modCluster h) (inv_ite (inv_ungate h) h)

theorem inv_gateClusters (h : Spec.Inv s) : Spec.Inv (gateClusters s) :=
  inv_forAll inv_gateCluster h

theorem inv_beatMiss (h : Spec.Inv s) : Spec.Inv (beatMiss s) :=
  inv_ite (inv_domainFault h) (inv_of_eq h)

theorem inv_missingWord (h : Spec.Inv s) : Spec.Inv (missingWord s) :=
  inv_ite (inv_beatMiss (inv_of_eq h)) h

theorem inv_grantStretch {x r : Nat} (h : Spec.Inv s) : Spec.Inv (grantStretch x r s) := by
  unfold grantStretch
  extract_lets new _ counted
  have hcounted : Spec.Inv counted := inv_of_eq h
  split
  · exact inv_of_eq hcounted
  · split
    · exact inv_of_eq h
    · exact inv_ite (inv_of_eq h) (inv_of_eq hcounted)

theorem inv_resolveBeat {beat : W64} (h : Spec.Inv s) : Spec.Inv (resolveBeat beat s) := by
  unfold resolveBeat
  dsimp only
  split
  · exact h
  · exact inv_grantStretch (inv_of_eq h)

theorem inv_resolveDue (h : Spec.Inv s) : Spec.Inv (resolveDue s) :=
  inv_ite h (inv_resolveBeat h)

theorem inv_takeToken {w : BeatWord} (h : Spec.Inv s) : Spec.Inv (takeToken w s) := by
  unfold takeToken
  extract_lets x e
  split
  · exact h
  · split
    · exact inv_ite (inv_domainFault h) (inv_of_eq h)
    · exact inv_of_eq h

theorem inv_formBeat {w : BeatWord} (h : Spec.Inv s) : Spec.Inv (formBeat w s) :=
  inv_of_eq h

/-! ### Stretches (R316 to R321) -/

theorem inv_requestStretch {k len : Nat} (h : Spec.Inv s) : Spec.Inv (requestStretch k len s) :=
  inv_of_eq h

/-! ### Links and transactions (R323 to R327) -/

theorem inv_sendBack {k : Fin 8} {kind : Nat} {src : BitVec 9} {txn : BitVec 24} {bs : List Byte} (h : Spec.Inv s) : Spec.Inv
    (sendBack k kind src txn bs s) :=
  inv_ite h (inv_sendFlits h)

theorem inv_sendNotices {k : Fin 8} {held : List (BitVec 9 × BitVec 24)} (h : Spec.Inv s) : Spec.Inv (sendNotices k held s) :=
  inv_forAll (fun h1 => inv_sendBack (inv_emit h1)) h

theorem inv_dropTxn {t : BitVec 24} (h : Spec.Inv s) : Spec.Inv (dropTxn t s) :=
  inv_of_eq h

end Sys2Proof.Machine

end

section
/-! SUPPORT. Issue, operand accesses and steps that end uncommitted keep the invariant of O59 (R62, R180, R184 to R191, R352). -/

open Sys2Proof Sys2Proof.Machine Sys2Proof.Spec

namespace Sys2Proof.Machine

set_option Elab.async false
variable {s : State}

theorem inv_modLs {k : Nat} {f : LayerRun → LayerRun} (h : Spec.Inv s) : Spec.Inv (modLs k f s) :=
  inv_modCore h

/-! ### A step that ends without committing -/

theorem inv_implicate {k : Nat} {slot : Option Nat} (h : Spec.Inv s) : Spec.Inv (implicate k slot s) := by
  unfold implicate
  split
  · exact h
  · exact inv_modLs h

theorem inv_addMiss {k : Nat} (h : Spec.Inv s) : Spec.Inv (addMiss k s) :=
  inv_modLs h

theorem inv_implicateAll {k : Nat} {slots : List Nat} (h : Spec.Inv s) : Spec.Inv (implicateAll k slots s) :=
  inv_forAll inv_implicate h

theorem inv_removeSlot {b i : Nat} (h : Spec.Inv s) : Spec.Inv (removeSlot b i s) := by
  unfold removeSlot
  split
  · exact h
  · exact inv_modCtxRun (inv_restoreSeq (inv_modBrun h))

/-! ### Known-answer tests brought forward (R119, R490, R493) -/

theorem inv_dueCores {p : Nat} (h : Spec.Inv s) : Spec.Inv (dueCores p s) :=
  inv_setWin h

theorem inv_katDueAt {k : Nat} {beat : W64} (h : Spec.Inv s) : Spec.Inv (katDueAt k beat s) :=
  inv_dueCores (inv_modCore h)

theorem inv_katDue {k : Nat} (h : Spec.Inv s) : Spec.Inv (katDue k s) :=
  inv_katDueAt h

theorem inv_katCount {k : Nat} (h : Spec.Inv s) : Spec.Inv (katCount k s) := by
  unfold katCount
  extract_lets w q n s1 s2
  have hs1 : Spec.Inv s1 := inv_modCore h
  have hs2 : Spec.Inv s2 := inv_ite (inv_modCore (inv_katDue hs1)) hs1
  exact inv_ite (inv_failCore hs2) hs2

/-! ### Checks of the datapath and of the memories while a record runs (R485, R487) -/

theorem inv_missOf {c : Iss} (h : Spec.Inv s) : Spec.Inv (missOf c s) :=
  inv_ite (inv_implicateAll (inv_addMiss h)) h

theorem inv_ctxFault {b rec : Nat} (h : Spec.Inv s) : Spec.Inv (ctxFault b rec s) := by
  unfold ctxFault
  split
  · exact h
  · exact inv_removeSlot (inv_modCtxRun h)

theorem inv_recordFault {c : Iss} {u : UnitFault} (h : Spec.Inv s) : Spec.Inv (recordFault c u s) := by
  unfold recordFault
  dsimp only
  split
  · exact inv_katCount (inv_missOf (inv_raise (inv_bump h)))
  · exact inv_ctxFault h
  · exact inv_ite (inv_memFault h) (inv_missOf (inv_memFault h))
  · exact inv_missOf (inv_memFault h)
  · exact inv_memFault h
  · exact inv_memFault h

/-! ### Issue (R187 to R191) -/

theorem inv_treatDamaged {c : Iss} {cause : Nat} (h : Spec.Inv s) : Spec.Inv (treatDamaged c cause s) := by
  unfold treatDamaged
  extract_lets ep key again s1
  have hs1 : Spec.Inv s1 := inv_raise (inv_endStep (inv_bump h))
  exact inv_ite (inv_failCore hs1) (inv_bump (inv_modCore hs1))

theorem inv_badRecipeWord {c : Iss} (h : Spec.Inv s) : Spec.Inv (badRecipeWord c s) :=
  inv_tickFresh (inv_memFault h)

theorem inv_advance {c : Iss} (h : Spec.Inv s) : Spec.Inv (advance c s) :=
  inv_modCore h

theorem inv_sbWaits {k : Nat} (h : Spec.Inv s) : Spec.Inv (sbWaits k s) :=
  inv_ite h (inv_bump (inv_modCore h))

theorem inv_endWait {k off : Nat} (h : Spec.Inv s) : Spec.Inv (endWait k off s) :=
  inv_tickFresh (inv_bump h)

theorem inv_openWait {k : Nat} (h : Spec.Inv s) : Spec.Inv (openWait k s) :=
  inv_tickFresh (inv_ite h (inv_bump (inv_bump h)))

theorem inv_endWaits {k : Nat} {ts : List Nat} (h : Spec.Inv s) : Spec.Inv (endWaits k ts s) := by
  unfold endWaits
  extract_lets q seen
  exact inv_modCore (inv_when inv_endWait (inv_ite (inv_endWait h) (inv_when inv_openWait h)))

theorem inv_markCarried {c : Iss} (h : Spec.Inv s) : Spec.Inv (markCarried c s) :=
  inv_ite (inv_modLs h) h

theorem inv_runRecord {f : Iss → State → State} {c : Iss} (hf : ∀ {a0 s}, Spec.Inv s → Spec.Inv (f a0 s)) (h : Spec.Inv s) : Spec.Inv
    (runRecord f c s) := by
  unfold runRecord
  extract_lets s1
  have hs1 : Spec.Inv s1 := inv_advance (inv_markCarried (inv_endWaits (inv_bump h)))
  exact inv_ite (inv_treatDamaged hs1) (inv_forAll inv_recordFault (hf hs1))

theorem inv_issueTo {op : Nat} {unit : Bool} {ready : Iss → State → Bool} {f : Iss → State → State} {k : Nat} {r : RecRead}
    (hf : ∀ {a0 s}, Spec.Inv s → Spec.Inv (f a0 s)) (h : Spec.Inv s) : Spec.Inv (issueTo op unit ready f k r s) := by
  unfold issueTo
  split
  · exact h
  · split
    · exact h
    · extract_lets c
      split
      · exact h
      · split
        · exact inv_ite h (inv_treatDamaged (inv_advance (inv_ite (inv_badRecipeWord h) h)))
        · exact inv_ite h (inv_ite (inv_sbWaits h) (inv_ite (inv_ite (inv_modCore h) h) (inv_runRecord hf h)))

theorem inv_issue {op : Nat} {f : Iss → State → State} {k : Nat} {r : RecRead} (hf : ∀ {a0 s}, Spec.Inv s → Spec.Inv (f a0 s)) (h : Spec.Inv s) :
    Spec.Inv (issue op f k r s) :=
  inv_issueTo hf h

/-! ### Operands (Table 6.5) -/

theorem inv_ownerStop {k b f blk : Nat} {write : Bool} (h : Spec.Inv s) : Spec.Inv (ownerStop k b f blk write s) :=
  inv_endStep (inv_ownerFault h)

theorem inv_readRegion {k b : Nat} {fs : List Nat} {q n : Nat} (h : Spec.Inv s) : Spec.Inv (readRegion k b fs q n s).2 := by
  unfold readRegion
  extract_lets bs
  split
  · exact h
  · exact inv_ownerStop h

theorem inv_writeRegion {k b : Nat} {fs : List Nat} {q : Nat} {bs : List Byte} (h : Spec.Inv s) : Spec.Inv (writeRegion k b fs q bs s) := by
  unfold writeRegion
  extract_lets s1
  have hs1 : Spec.Inv s1 := by
    unfold s1
    refine inv_foldl (fun h1 => ?_) h
    split
    · exact h1
    · exact inv_ite (inv_memPut h1) h1
  split
  · exact hs1
  · exact inv_ownerStop hs1

theorem inv_readAt {k b o q n : Nat} (h : Spec.Inv s) : Spec.Inv (readAt k b o q n s).2 :=
  inv_ite_snd h (inv_ite_snd h (inv_ite_snd h (inv_ite_snd (inv_readRegion h) h)))

theorem inv_readOp {k b o n : Nat} (h : Spec.Inv s) : Spec.Inv (readOp k b o n s).2 :=
  inv_readAt h

theorem inv_readWordsAt {k b o i n : Nat} (h : Spec.Inv s) : Spec.Inv (readWordsAt k b o i n s).2 :=
  inv_readAt h

theorem inv_readWords {k b o n : Nat} (h : Spec.Inv s) : Spec.Inv (readWords k b o n s).2 :=
  inv_readWordsAt h

theorem inv_writeAt {k b o q : Nat} {bs : List Byte} (h : Spec.Inv s) : Spec.Inv (writeAt k b o q bs s) :=
  inv_ite (inv_modCore h) (inv_ite (inv_modCore h) (inv_ite (inv_modCore h) (inv_ite (inv_writeRegion h) h)))

theorem inv_writeOp {k b o : Nat} {bs : List Byte} (h : Spec.Inv s) : Spec.Inv (writeOp k b o bs s) :=
  inv_writeAt h

theorem inv_leaveOpAt {k b o q : Nat} {bs : List Byte} (h : Spec.Inv s) : Spec.Inv (leaveOpAt k b o q bs s) :=
  inv_ite (inv_writeAt h) (inv_ite (inv_modLs h) (inv_modLs (inv_writeAt h)))

theorem inv_leaveOp {k b o : Nat} {bs : List Byte} (h : Spec.Inv s) : Spec.Inv (leaveOp k b o bs s) :=
  inv_leaveOpAt h

theorem inv_leaveWords {k b o : Nat} {ws : List W32} (h : Spec.Inv s) : Spec.Inv (leaveWords k b o ws s) :=
  inv_leaveOp h

theorem inv_commitTail {k b : Nat} {t : TailOut} (h : Spec.Inv s) : Spec.Inv (commitTail k b t s) := by
  unfold commitTail
  split
  · split
    · exact inv_writeOp h
    · exact inv_ite (inv_sendPart (inv_emit h)) h
  · exact inv_writeAt h

/-! ### Tiles (R172) -/

theorem inv_putTile {k t i : Nat} {ws : List W32} (h : Spec.Inv s) : Spec.Inv (putTile k t i ws s) :=
  inv_modCore h

theorem inv_putTileBytes {k t j : Nat} {bs : List Byte} (h : Spec.Inv s) : Spec.Inv (putTileBytes k t j bs s) :=
  inv_modCore h

/-! ### Clamps (R157) -/

theorem inv_attClamped {k n : Nat} (h : Spec.Inv s) : Spec.Inv (attClamped k n s) :=
  inv_ite h (inv_bump h)

end Sys2Proof.Machine

end

section
/-! SUPPORT. Engine passes keep the invariant of O59 (R66 to R94, R112 to R119, R203, R211, R212). -/

open Sys2Proof Sys2Proof.Machine Sys2Proof.Spec

namespace Sys2Proof.Machine

set_option Elab.async false
variable {s : State}

/-! ### Drift sums (R94) -/

theorem inv_addDrift {n : Nat} {vals : List W32} {x64 : Int} {a64 : Nat} (h : Spec.Inv s) : Spec.Inv (addDrift n vals x64 a64 s) :=
  inv_modPlane h

/-! ### The end of a pass -/

theorem inv_contribute {c : Iss} {vals : Option (List W32)} (h : Spec.Inv s) : Spec.Inv (contribute c vals s) :=
  inv_modLs h

theorem inv_deliver {c : Iss} {vals : Option (List W32)} (h : Spec.Inv s) : Spec.Inv (deliver c vals s) := by
  unfold deliver
  extract_lets same low s1
  have hs1 : Spec.Inv s1 := inv_modLs h
  split
  · exact inv_modLs h
  · split
    · split
      · exact inv_contribute hs1
      · exact inv_contribute hs1
    · exact inv_contribute h

theorem inv_passMiss {c : Iss} {n : Nat} {v : Verdict} (h : Spec.Inv s) : Spec.Inv (passMiss c n v s) := by
  unfold passMiss
  extract_lets s1 again s2
  have hs1 : Spec.Inv s1 := inv_implicate (inv_addMiss h)
  have hs2 : Spec.Inv s2 := inv_modLs hs1
  exact inv_ite (inv_katDue (inv_katCount (inv_raise hs2))) hs2

theorem inv_finishPass {c : Iss} {n : Nat} {x : Shot} {xs : List Int} {ks : List Nat} (h : Spec.Inv s) :
    Spec.Inv (finishPass c n x xs ks s) := by
  unfold finishPass
  extract_lets p v badBlk cs inn s1 s2 s3 s4 a64 s5
  have h1 : Spec.Inv s1 := by
    unfold s1
    split
    · exact h
    · exact inv_raise h
  have h2 : Spec.Inv s2 := inv_ite h1 (inv_implicate (inv_bump (inv_modLs h1)))
  have h3 : Spec.Inv s3 := inv_when inv_bump (inv_when inv_bump h2)
  have h4 : Spec.Inv s4 := inv_ite (inv_passMiss h3) h3
  exact inv_deliver (inv_ite (inv_addDrift h4) h4)

theorem inv_refusePass {c : Iss} {n : Nat} (h : Spec.Inv s) : Spec.Inv (refusePass c n s) :=
  inv_endStep (inv_raise h)

/-! ### PASS -/

theorem inv_holdPass {k n : Nat} (h : Spec.Inv s) : Spec.Inv (holdPass k n s) := by
  unfold holdPass
  extract_lets _ s1
  have hs1 : Spec.Inv s1 := inv_ite h (inv_of_eq h)
  exact inv_ite hs1 (inv_bump (inv_requestStretch hs1))

theorem inv_queuePass {c : Iss} (h : Spec.Inv s) : Spec.Inv (queuePass c s) := by
  unfold queuePass
  extract_lets at_
  split
  · exact inv_endStep h
  · split
    · exact inv_modEngine h
    · exact inv_ite (inv_modEngine (inv_holdPass h)) (inv_refusePass h)

/-! ### PASS_SLOT and SPLIT_HALF -/

theorem inv_skipPass {c : Iss} {n : Nat} (h : Spec.Inv s) : Spec.Inv (skipPass c n s) := by
  unfold skipPass
  extract_lets s1 s2
  have hs1 : Spec.Inv s1 := inv_bump h
  have hs2 : Spec.Inv s2 := inv_ite (inv_passMiss (inv_bump hs1)) hs1
  exact inv_deliver hs2

theorem inv_ranPass {e k : Nat} {shadow : Bool} (h : Spec.Inv s) : Spec.Inv (ranPass e k shadow s) :=
  inv_when inv_bump (inv_bump (inv_modEngine h))

theorem inv_useSlot {e g : Nat} (h : Spec.Inv s) : Spec.Inv (useSlot e g s) :=
  inv_modEngine h

theorem inv_runPass {c : Iss} {q : QPass} {e : Nat} (h : Spec.Inv s) : Spec.Inv (runPass c q e s) := by
  have hdrop : Spec.Inv (modEngine e (fun g => { g with queue := g.queue.drop 1 }) s) := inv_modEngine h
  have hran : ∀ {k w}, Spec.Inv (ranPass e k w (tickFresh (modEngine e (fun g => { g with queue := g.queue.drop 1 }) s))) :=
    inv_ranPass (inv_tickFresh hdrop)
  exact inv_ite h (inv_ite (inv_refusePass hdrop) (inv_ite (inv_skipPass hdrop) (inv_ite (inv_bump (inv_modEngine hran)) (inv_finishPass hran))))

theorem inv_runHalf {c : Iss} {sp : Split} {e : Nat} (h : Spec.Inv s) : Spec.Inv (runHalf c sp e s) := by
  unfold runHalf
  extract_lets n all ks xs skip out s1 both
  have hs1 : Spec.Inv s1 := inv_ite (inv_bump h) (inv_ranPass (inv_tickFresh h))
  exact inv_ite (inv_refusePass (inv_modEngine h)) (inv_ite (inv_modEngine hs1) (inv_finishPass (inv_modEngine hs1)))

end Sys2Proof.Machine

end

section
/-! SUPPORT. Layer steps, from their first slot to their commit, keep the invariant of O59 (R99, R105 to R166). -/

open Sys2Proof Sys2Proof.Machine Sys2Proof.Spec

namespace Sys2Proof.Machine

set_option Elab.async false
variable {s : State}

/-! ### The quantiser (R125) -/

theorem inv_putBlock {k v rb : Nat} {z : QBlock} (h : Spec.Inv s) : Spec.Inv (putBlock k v rb z s) :=
  inv_modLs h

theorem inv_quantVector {c : Iss} {slot rec : Nat} (h : Spec.Inv s) : Spec.Inv (quantVector c slot rec s) := by
  unfold quantVector
  extract_lets p l rb v tok wide w first n rd named carry groups first0 sigOf z clamps key s1 s2 s3 s4
  have hrd : Spec.Inv rd.2 := inv_readWordsAt h
  have hs1 : Spec.Inv s1 := inv_putBlock hrd
  have hs2 : Spec.Inv s2 := inv_modLs hs1
  have hs3 : Spec.Inv s3 := inv_bump hs2
  have hs4 : Spec.Inv s4 := inv_ite hs3 (inv_implicate (inv_bump hs3))
  exact inv_ite (inv_raise hs4) hs4

theorem inv_judgeClamps {c : Iss} (h : Spec.Inv s) : Spec.Inv (judgeClamps c s) :=
  inv_when inv_bump h

theorem inv_quantBlockOf {c : Iss} (h : Spec.Inv s) : Spec.Inv (quantBlockOf c s) := by
  unfold quantBlockOf
  split
  · exact inv_putBlock h
  · split
    · exact h
    · exact inv_quantVector h

theorem inv_quant {c : Iss} (h : Spec.Inv s) : Spec.Inv (quant c s) :=
  inv_judgeClamps (inv_quantBlockOf h)

/-! ### The sieve (R106, R107) -/

theorem inv_sieve {c : Iss} (h : Spec.Inv s) : Spec.Inv (sieve c s) := by
  unfold sieve
  extract_lets p l named rd as n outs
  have hrd : Spec.Inv rd.2 := inv_readWords h
  split
  · exact h
  · split
    · exact inv_endStep (inv_raise h)
    · exact inv_ite (inv_endStep (inv_raise h)) (inv_attClamped (inv_modLs hrd))

/-! ### The chain (R159 to R165) -/

theorem inv_dropSum {k vec col : Nat} (h : Spec.Inv s) : Spec.Inv (dropSum k vec col s) :=
  inv_modLs h

theorem inv_receiveSum {k : Nat} {d : ChainMsg} {clamp : List Bool} (h : Spec.Inv s) : Spec.Inv (receiveSum k d clamp s) :=
  inv_ite (inv_modLs h) (inv_modCore h)

theorem inv_chain {c : Iss} (h : Spec.Inv s) : Spec.Inv (chain c s) := by
  unfold chain
  extract_lets comp r st d s1
  have hs1 : Spec.Inv s1 := inv_dropSum h
  split
  · exact inv_receiveSum hs1
  · exact inv_ite (inv_attClamped (inv_sendPart (inv_emit hs1))) hs1

/-! ### The tail (R99, R117) -/

theorem inv_tail {c : Iss} (h : Spec.Inv s) : Spec.Inv (tail c s) := by
  unfold tail
  extract_lets p l comp q r out s1 s2 t
  have hs1 : Spec.Inv s1 := inv_attClamped (inv_dropSum h)
  have hs2 : Spec.Inv s2 := inv_ite (inv_bump (inv_modLs hs1)) hs1
  exact inv_ite (inv_ite (inv_modLs hs2) (inv_commitTail hs2)) (inv_ite (inv_leaveOp hs2) (inv_modLs (inv_leaveOp hs2)))

/-! ### Status, commit, replay and abandonment -/

theorem inv_keepWord {rec kind tok key : Nat} {old new : Option W16} {round : Bool} (h : Spec.Inv s) : Spec.Inv
    (keepWord rec kind tok key old new round s) :=
  inv_of_eq h

theorem inv_commitWord {b l kind : Nat} {x : Nat × W16} (h : Spec.Inv s) : Spec.Inv (commitWord b l kind x s) := by
  unfold commitWord
  extract_lets slot tok key
  split
  · exact h
  · split
    · exact h
    · extract_lets round g s1 _ s1' _ s1'
      have hs1 : Spec.Inv s1 := inv_keepWord h
      have hs1' : Spec.Inv s1' := inv_keepWord h
      have hs1' : Spec.Inv s1' := inv_keepWord h
      exact inv_ite (inv_of_eq hs1) (inv_ite (inv_of_eq hs1') (inv_of_eq hs1'))

theorem inv_takePick {b : Nat} {x : Nat × List (W32 × W32)} (h : Spec.Inv s) : Spec.Inv (takePick b x s) :=
  inv_ite (inv_modCtxRun h) h

theorem inv_sendFinal {b k : Nat} {d : MergeMsg} (h : Spec.Inv s) : Spec.Inv (sendFinal b k d s) :=
  inv_sendParts (inv_emit h)

theorem inv_commitCore {b k : Nat} (h : Spec.Inv s) : Spec.Inv (commitCore b k s) := by
  unfold commitCore
  extract_lets q s0 s1 s2 s3
  have hs0 : Spec.Inv s0 := inv_forAll inv_sendFinal (inv_modLs h)
  have hs1 : Spec.Inv s1 := inv_forAll inv_takePick (inv_forAll inv_commitTail hs0)
  have hs2 : Spec.Inv s2 := inv_forAll inv_commitWord hs1
  have hs3 : Spec.Inv s3 := inv_forAll inv_commitWord hs2
  exact inv_forAll inv_commitWord hs3

theorem inv_openBytes {n : Nat} (h : Spec.Inv s) : Spec.Inv (openBytes n s).2 :=
  inv_of_eq h

theorem inv_dropOuts {k b : Nat} (h : Spec.Inv s) : Spec.Inv (dropOuts k b s) :=
  inv_forAll (fun h1 => inv_writeOp (inv_openBytes h1)) h

theorem inv_dropArrivals {k l : Nat} (h : Spec.Inv s) : Spec.Inv (dropArrivals k l s) :=
  inv_modCore h

theorem inv_replayCore {b : Nat} {point : W64} {k : Nat} (h : Spec.Inv s) : Spec.Inv (replayCore b point k s) :=
  inv_modCore (inv_dropArrivals (inv_dropOuts h))

theorem inv_judgeCore {b k : Nat} (h : Spec.Inv s) : Spec.Inv (judgeCore b k s) :=
  inv_when inv_bump (inv_when inv_bump h)

theorem inv_abandonLayer {b : Nat} {group : List Nat} {layer : Nat} {carried impl : BitVec 4} (h : Spec.Inv s) : Spec.Inv
    (abandonLayer b group layer carried impl s) := by
  unfold abandonLayer
  extract_lets slots s1 s2 s3
  have hs1 : Spec.Inv s1 := inv_forAll (fun h1 => inv_bump (inv_modLs (inv_dropArrivals (inv_dropOuts h1)))) h
  have hs2 : Spec.Inv s2 := by
    unfold s2
    refine inv_forAll (fun h1 => ?_) hs1
    split
    · exact inv_noticeWork (inv_removeSlot h1)
    · exact h1
  have hs3 : Spec.Inv s3 := inv_modBrun hs2
  exact inv_raise hs3

end Sys2Proof.Machine

end

section
/-! SUPPORT. The sequencer's records, copies and reductions keep the invariant of O59 (R101 to R104, R162, R181, R265, R273, R547, R548). -/

open Sys2Proof Sys2Proof.Machine Sys2Proof.Spec

namespace Sys2Proof.Machine

set_option Elab.async false
variable {s : State}

/-! ### Sequencer records -/

theorem inv_emptyTiles {k t n : Nat} (h : Spec.Inv s) : Spec.Inv (emptyTiles k t n s) :=
  inv_putTile (inv_modCore (inv_putTile h))

theorem inv_sendQuery {c : Iss} {x base v : Nat} (h : Spec.Inv s) : Spec.Inv (sendQuery c x base v s) :=
  inv_ite (inv_sendParts (inv_emit (inv_readWordsAt h))) h

theorem inv_sendQueries {c : Iss} (h : Spec.Inv s) : Spec.Inv (sendQueries c s) := by
  unfold sendQueries
  extract_lets p xs
  split
  · exact h
  · refine inv_forAll (fun h1 => ?_) h
    split
    · exact h1
    · exact inv_upto (fun h2 => inv_ite h2 (inv_sendQuery h2)) h1

theorem inv_openLayer {c : Iss} (h : Spec.Inv s) : Spec.Inv (openLayer c s) :=
  inv_ite h (inv_sendQueries (inv_forAll inv_emptyTiles (inv_modCore h)))

theorem inv_stepEnd {c : Iss} (h : Spec.Inv s) : Spec.Inv (stepEnd c s) :=
  inv_ite (inv_stepBoundary (inv_modCore h)) (inv_modCore h)

theorem inv_selectRec {c : Iss} (h : Spec.Inv s) : Spec.Inv (selectRec c s) := by
  unfold selectRec
  extract_lets rd cands
  have hrd : Spec.Inv rd.2 := inv_readOp h
  split
  · exact hrd
  · exact inv_ite (inv_modLs hrd) (inv_takePick hrd)

theorem inv_overrun {k b i : Nat} (h : Spec.Inv s) : Spec.Inv (overrun k b i s) := by
  unfold overrun
  extract_lets late new d s1
  have hs1 : Spec.Inv s1 := inv_bump (inv_modCore h)
  exact inv_ite h (inv_ite hs1 (inv_requestStretch hs1))

/-! ### Copies (R181, R548) -/

theorem inv_gather {c : Iss} (h : Spec.Inv s) : Spec.Inv (gather c s) :=
  inv_leaveWords (inv_readOp h)

theorem inv_copyBytes {c : Iss} (h : Spec.Inv s) : Spec.Inv (copyBytes c s) :=
  inv_leaveOp (inv_readOp h)

/-! ### Reductions (R162, R547) -/

theorem inv_takeResult {b k : Nat} {d : ReduceMsg} (h : Spec.Inv s) : Spec.Inv (takeResult b k d s) := by
  unfold takeResult
  extract_lets kind q s1 mine s2
  have hs1 : Spec.Inv s1 := inv_ite (inv_modLs h) h
  have hs2 : Spec.Inv s2 := inv_modCore hs1
  split
  · exact hs2
  · exact inv_leaveWords hs2

theorem inv_takePartial {k : Nat} {d : ReduceMsg} (h : Spec.Inv s) : Spec.Inv (takePartial k d s) :=
  inv_modCore h

theorem inv_reduce {c : Iss} (h : Spec.Inv s) : Spec.Inv (reduce c s) := by
  unfold reduce
  extract_lets l kind rd own old sum count cands zero d w s1 s2 s3
  have hrd : Spec.Inv rd.2 := inv_readOp h
  have hs1 : Spec.Inv s1 := inv_attClamped hrd
  have hs2 : Spec.Inv s2 := inv_modCore hs1
  have hs3 : Spec.Inv s3 := inv_forAll inv_takeResult hs2
  split
  · exact inv_ite (inv_sendParts (inv_emit hs3)) hs3
  · split
    · exact inv_takePartial hs2
    · exact inv_ite (inv_sendPart (inv_emit hs2)) hs2

/-! ### The activation unit (R101 to R103, R547) -/

theorem inv_rotaryKey {c : Iss} {pos : Nat} (h : Spec.Inv s) : Spec.Inv (rotaryKey c pos s) := by
  unfold rotaryKey
  extract_lets rd out n
  have hrd : Spec.Inv rd.2 := inv_readWords h
  exact inv_leaveWords (inv_ite hrd (inv_bump hrd))

theorem inv_rotaryRow {c : Iss} {slot base fed r : Nat} (h : Spec.Inv s) : Spec.Inv (rotaryRow c slot base fed r s) := by
  have hread : ∀ {at_ n}, Spec.Inv (readWordsAt c.k c.b (rOpA c.x) at_ n s).2 := inv_readWordsAt h
  refine inv_ite (inv_modCore (inv_foldl inv_putTileBytes h)) (inv_modCore (inv_foldl inv_putTileBytes ?_))
  exact inv_ite hread (inv_bump hread)

theorem inv_rotary {c : Iss} (h : Spec.Inv s) : Spec.Inv (rotary c s) := by
  unfold rotary
  dsimp only
  split
  · exact h
  · exact inv_ite (inv_rotaryKey h) (inv_upto inv_rotaryRow h)

theorem inv_sourceWords {c : Iss} {tile cnt o n : Nat} (h : Spec.Inv s) : Spec.Inv (sourceWords c tile cnt o n s).2 :=
  inv_ite_snd h (inv_readWords h)

theorem inv_act {c : Iss} (h : Spec.Inv s) : Spec.Inv (act c s) := by
  unfold act
  extract_lets fn n a o out m s1
  have ha : Spec.Inv a.2 := inv_sourceWords h
  have ho : Spec.Inv o.2 := inv_ite_snd (inv_sourceWords ha) (inv_ite_snd (inv_readWords ha) ha)
  have hs1 : Spec.Inv s1 := inv_ite ho (inv_bump ho)
  exact inv_ite (inv_rotary h) (inv_ite (inv_putTile hs1) (inv_leaveWords hs1))

/-! ### The pooling unit (R104) -/

theorem inv_pool {c : Iss} (h : Spec.Inv s) : Spec.Inv (pool c s) :=
  inv_ite (inv_sourceWords h) (inv_putTile (inv_sourceWords h))

end Sys2Proof.Machine

end

section
/-! SUPPORT. The attention records keep the invariant of O59 (R155 to R157, R168 to R173, R245 to R252). -/

open Sys2Proof Sys2Proof.Machine Sys2Proof.Spec

namespace Sys2Proof.Machine

set_option Elab.async false
variable {s : State}

/-! ### Operands (Table 5.1, R157, R182) -/

theorem inv_notFinite {k : Nat} {e : ErrRec} {n : Nat} {slots : List Nat} (h : Spec.Inv s) : Spec.Inv (notFinite k e n slots s) :=
  inv_ite h (inv_implicateAll (inv_addMiss (inv_raise (inv_bump h))))

theorem inv_operandFaults {c : Iss} {tile : Nat} {rows : List Nat} (h : Spec.Inv s) : Spec.Inv (operandFaults c tile rows s) :=
  inv_notFinite h

/-! ### Dot products (R168, R169) -/

theorem inv_setMask {c : Iss} (h : Spec.Inv s) : Spec.Inv (setMask c s) :=
  inv_ite h (inv_modCore h)

theorem inv_score {c : Iss} (h : Spec.Inv s) : Spec.Inv (score c s) := by
  unfold score
  extract_lets q kk d f kv as bs acc out s1
  have hs1 : Spec.Inv s1 := inv_operandFaults (inv_operandFaults (inv_operandFaults h))
  exact inv_setMask (inv_attClamped (inv_putTile hs1))

/-! ### The online softmax (R248 to R250) -/

theorem inv_putRow {k t r : Nat} {m l : W32} {empty : Bool} (h : Spec.Inv s) : Spec.Inv (putRow k t r m l empty s) :=
  inv_putTile (inv_putTile (inv_putTile h))

theorem inv_softRow {c : Iss} {r : Nat} (h : Spec.Inv s) : Spec.Inv (softRow c r s) := by
  unfold softRow
  extract_lets p l q kk dd t m seen real s0 st empty m0 l0 os x s1 s2 s3
  have hs0 : Spec.Inv s0 := inv_ite h (inv_modCore h)
  have hs1 : Spec.Inv s1 := inv_operandFaults hs0
  have hs2 : Spec.Inv s2 := inv_operandFaults hs1
  have hs3 : Spec.Inv s3 := inv_foldl inv_putTile (inv_putRow hs2)
  exact inv_ite (inv_putTile hs0) (inv_attClamped (inv_putTile hs3))

theorem inv_smax {c : Iss} (h : Spec.Inv s) : Spec.Inv (smax c s) :=
  inv_upto inv_softRow h

theorem inv_value {c : Iss} (h : Spec.Inv s) : Spec.Inv (value c s) := by
  unfold value
  extract_lets q kk d kv ps vs acc out s1
  have hs1 : Spec.Inv s1 := inv_operandFaults (inv_operandFaults (inv_operandFaults h))
  exact inv_attClamped (inv_putTile hs1)

/-! ### Merging (R251, R252) -/

theorem inv_writeRow {k t : Nat} {p : List Byte} {l r : Nat} {x : SoftRow} (h : Spec.Inv s) : Spec.Inv (writeRow k t p l r x s) :=
  inv_foldl inv_putTile (inv_putRow h)

theorem inv_finishRow {k t : Nat} {p : List Byte} {l r : Nat} {x : SoftRow} (h : Spec.Inv s) : Spec.Inv (finishRow k t p l r x s) :=
  inv_ite (inv_bump (inv_writeRow h)) (inv_writeRow h)

theorem inv_takeStatus {k : Nat} {st : CoreStatus} (h : Spec.Inv s) : Spec.Inv (takeStatus k st s) :=
  inv_modLs h

theorem inv_mergeRows {b k : Nat} {w : MergeWait} {inn : Option MergeMsg} (h : Spec.Inv s) : Spec.Inv (mergeRows b k w inn s).2 :=
  inv_attClamped (inv_notFinite h)

theorem inv_endMergeWait {k : Nat} {w : MergeWait} (h : Spec.Inv s) : Spec.Inv (endMergeWait k w s) :=
  inv_modCore h

theorem inv_mergeOn {b n k : Nat} {w : MergeWait} {inn : Option MergeMsg} (h : Spec.Inv s) : Spec.Inv (mergeOn b n k w inn s) := by
  induction n generalizing k w inn s with
  | zero => exact h
  | succ n ih =>
    have hin : Spec.Inv (match inn with | none => s | some m => takeStatus k m.status s) := by
      split
      · exact h
      · exact inv_takeStatus h
    unfold mergeOn
    extract_lets p l rs s1 rows msg d s2
    have hs1 : Spec.Inv s1 := inv_mergeRows hin
    have hrows : Spec.Inv rows := inv_foldl inv_finishRow hs1
    have hs2 : Spec.Inv s2 := inv_ite (inv_modCore hs1) hs1
    split
    · exact inv_ite (inv_ite (inv_modLs hrows) (inv_sendFinal hrows)) hrows
    · split
      · split
        · exact ih (inv_endMergeWait hs2)
        · exact inv_modCore hs2
      · exact inv_ite (inv_sendPart (inv_emit hs2)) hs2

theorem inv_mergeRec {c : Iss} (h : Spec.Inv s) : Spec.Inv (mergeRec c s) := by
  unfold mergeRec
  extract_lets w
  split
  · exact inv_mergeOn h
  · split
    · exact inv_mergeOn (inv_modCore h)
    · exact inv_modCore h

theorem inv_takeMerged {b k : Nat} {d : MergeMsg} (h : Spec.Inv s) : Spec.Inv (takeMerged b k d s) := by
  unfold takeMerged
  dsimp only
  split
  · exact h
  · exact inv_foldl inv_writeRow (inv_modCore h)

/-! ### Overflow layers (R171, R223) -/

theorem inv_ovf {c : Iss} (h : Spec.Inv s) : Spec.Inv (ovf c s) := by
  unfold ovf
  extract_lets q kk d n f rd s0 as bs acc out s1 s2
  have hrd : Spec.Inv rd.2 := inv_readOp h
  have hs0 : Spec.Inv s0 := hrd
  have hs1 : Spec.Inv s1 := inv_operandFaults (inv_operandFaults hs0)
  have hs2 : Spec.Inv s2 := inv_forAll inv_notFinite hs1
  exact inv_attClamped (inv_putTile hs2)

end Sys2Proof.Machine

end

section
/-! SUPPORT. Key and value pages, walks and copies keep the invariant of O59 (R228 to R246, R254 to R259, R279). -/

open Sys2Proof Sys2Proof.Machine Sys2Proof.Spec

namespace Sys2Proof.Machine

set_option Elab.async false
variable {s : State}

/-! ### The translation store (R238 to R240) -/

theorem inv_touchWay {k set w : Nat} (h : Spec.Inv s) : Spec.Inv (touchWay k set w s) :=
  inv_modCore h

theorem inv_joinOvf {b : Nat} {e : TsEntry} (h : Spec.Inv s) : Spec.Inv (joinOvf b e s) :=
  inv_modBrun h

theorem inv_tsInsert {k b : Nat} {e : TsEntry} (h : Spec.Inv s) : Spec.Inv (tsInsert k b e s) := by
  unfold tsInsert
  extract_lets set at_ w s1
  have hs1 : Spec.Inv s1 := by
    unfold s1
    split
    · exact inv_joinOvf h
    · exact h
  exact inv_touchWay (inv_modCore hs1)

/-! ### Page tables under the walk (R230, R237) -/

theorem inv_pageFault {c : Iss} {slot rec stream pg cause : Nat} (h : Spec.Inv s) : Spec.Inv (pageFault c slot rec stream pg cause s) :=
  inv_raise (inv_removeSlot (inv_modCtxRun (inv_bump h)))

theorem inv_tableOf {c : Iss} {rec stream pg : Nat} {dir : Option (Nat × Nat)} (h : Spec.Inv s) : Spec.Inv (tableOf c rec stream pg dir s).2 := by
  unfold tableOf
  split
  · exact h
  · extract_lets root f
    split
    · exact inv_ite h (inv_ownerStop h)
    · exact inv_bump h

theorem inv_readTable {c : Iss} {rec stream pg : Nat} {dir : Option (Nat × Nat)} (h : Spec.Inv s) : Spec.Inv (readTable c rec stream pg dir s).2 := by
  unfold readTable
  extract_lets fault t s1
  have ht : Spec.Inv t.2 := inv_tableOf h
  have hs1 : Spec.Inv s1 := inv_bump ht
  split
  · exact ht
  · extract_lets e
    split
    · exact hs1
    · exact inv_tsInsert hs1

theorem inv_lookupPage {c : Iss} {rec stream pg : Nat} {dir : Option (Nat × Nat)} (h : Spec.Inv s) : Spec.Inv (lookupPage c rec stream pg dir s).2 :=
    by
  unfold lookupPage
  dsimp only
  split
  · exact inv_touchWay (inv_bump h)
  · split
    · exact inv_tsInsert (inv_modBrun (inv_bump h))
    · exact inv_readTable h

/-! ### The walk (R233 to R235) -/

theorem inv_walkPin {b rec stream frame : Nat} (h : Spec.Inv s) : Spec.Inv (walkPin b rec stream frame s) := by
  unfold walkPin
  split
  · exact h
  · exact inv_ite h (inv_modNode (inv_modCtxRun h))

theorem inv_walkPage {c : Iss} {slot rec l j : Nat} {st : Nat × Nat × Nat} {stop : Nat} {w : Walk × State} (h : Spec.Inv w.2) : Spec.Inv
    (walkPage c slot rec l j st stop w).2 := by
  unfold walkPage
  extract_lets p t pg _ f n d
  have hf : Spec.Inv f.2 := inv_lookupPage h
  split
  · exact h
  · split
    · exact h
    · split
      · exact hf
      · exact inv_ite (inv_walkPin hf) hf

theorem inv_walkStream {c : Iss} {slot rec l j : Nat} {st : Nat × Nat × Nat} (h : Spec.Inv s) : Spec.Inv (walkStream c slot rec l j st s) := by
  unfold walkStream
  extract_lets t r key cur w0 w
  have hw : Spec.Inv w.2 := inv_upto_snd inv_walkPage h
  split
  · exact inv_pageFault hw
  · exact inv_bump (inv_modCore hw)

theorem inv_walkSlot {c : Iss} {l j slot : Nat} (h : Spec.Inv s) : Spec.Inv (walkSlot c l j slot s) := by
  unfold walkSlot
  split
  · exact h
  · exact inv_forAll (fun h1 => inv_ite h1 (inv_walkStream h1)) h

theorem inv_passBlock {b k l : Nat} {d : RingBlk} (h : Spec.Inv s) : Spec.Inv (passBlock b k l d s) :=
  inv_sendPart (inv_bump (inv_emit h))

theorem inv_sendOwnBlock {c : Iss} {l : Nat} (h : Spec.Inv s) : Spec.Inv (sendOwnBlock c l s) :=
  inv_ite h (inv_passBlock (inv_modLs h))

theorem inv_markEmitted {k n : Nat} (h : Spec.Inv s) : Spec.Inv (markEmitted k n s) :=
  inv_modCore h

theorem inv_walk {c : Iss} (h : Spec.Inv s) : Spec.Inv (walk c s) := by
  unfold walk
  extract_lets l p
  exact inv_ite h (inv_markEmitted (inv_forAll inv_walkSlot (inv_sendOwnBlock h)))

/-! ### Fetching (R236, R246) -/

theorem inv_pageBytes {k b : Nat} {d : PageDesc} {q n : Nat} (h : Spec.Inv s) : Spec.Inv (pageBytes k b d q n s).2 := by
  unfold pageBytes
  split
  · exact h
  · exact inv_ite_snd h (inv_ownerStop h)

theorem inv_codeFaults {c : Iss} {d : PageDesc} {q : Nat} {bs : List Byte} (h : Spec.Inv s) : Spec.Inv (codeFaults c d q bs s) :=
  inv_ite h (inv_implicate (inv_addMiss (inv_raise (inv_bump h))))

theorem inv_readRow {c : Iss} {l : Nat} {val : Bool} {h : Nat} {r : FetchRow} (hi : Spec.Inv s) : Spec.Inv (readRow c l val h r s).2 := by
  unfold readRow
  extract_lets p q cs mark sc
  have hcs : Spec.Inv cs.2 := inv_pageBytes hi
  have hsc : Spec.Inv sc.2 := inv_pageBytes hcs
  exact inv_ite_snd (inv_codeFaults hsc) hcs

theorem inv_placeRow {k t r : Nat} {p : List Byte} {l : Nat} {row : KvRow} (h : Spec.Inv s) : Spec.Inv (placeRow k t r p l row s) := by
  unfold placeRow
  extract_lets n d bits s1 s2
  have hs1 : Spec.Inv s1 := inv_forAll inv_putTileBytes h
  have hs2 : Spec.Inv s2 := inv_modCore hs1
  exact inv_ite hs2 (inv_modCore hs2)

theorem inv_readRows {c : Iss} {l : Nat} {val : Bool} {n : Nat} {rs : List FetchRow} (h : Spec.Inv s) :
    Spec.Inv (readRows c l val n rs s).2 := by
  induction rs generalizing s with
  | nil => exact h
  | cons r rs ih =>
    refine ih ?_
    split
    · exact inv_readRow h
    · exact h

theorem inv_placeRows {c : Iss} {p : List Byte} {l n h : Nat} {rows : List KvRow} (hi : Spec.Inv s) : Spec.Inv (placeRows c p l n h rows s) := by
  unfold placeRows
  extract_lets k all bits t
  exact inv_ite (inv_ite (inv_forAll inv_placeRow hi) hi) (inv_ite hi (inv_leaveOpAt hi))

theorem inv_beginRound {c : Iss} {l : Nat} (h : Spec.Inv s) : Spec.Inv (beginRound c l s) := by
  unfold beginRound
  split
  · exact h
  · extract_lets s1 s2
    have hs1 : Spec.Inv s1 := inv_bump (inv_modLs (inv_modCore h))
    have hs2 : Spec.Inv s2 := inv_ite hs1 (inv_addMiss hs1)
    exact inv_ite (inv_passBlock hs2) hs2

theorem inv_serveRound {c : Iss} (h : Spec.Inv s) : Spec.Inv (serveRound c s) :=
  inv_ite h (inv_modLs (inv_modCore (inv_upto inv_beginRound h)))

theorem inv_kvfetch {c : Iss} {s00 : State} (h : Spec.Inv s00) : Spec.Inv (kvfetch c s00) := by
  unfold kvfetch
  extract_lets s p l val n q tk s0 s1
  have hs : Spec.Inv s := inv_serveRound h
  have hs0 : Spec.Inv s0 := inv_modCore hs
  have hs1 : Spec.Inv s1 := inv_ite (inv_bump hs0) hs0
  split
  · exact inv_endStep (inv_raise (inv_bump (inv_modCore hs)))
  · exact inv_forAll (fun h1 => inv_placeRows (inv_readRows h1)) hs1

/-! ### Appending (R135, R136, R138, R242) -/

theorem inv_putPage {k b f q : Nat} {bs : List Byte} (h : Spec.Inv s) : Spec.Inv (putPage k b f q bs s) :=
  inv_ite (inv_memPut h) (inv_ownerStop h)

theorem inv_putKvCarry {c : Iss} {slot tok l : Nat} {x : Nat × W16} (h : Spec.Inv s) : Spec.Inv (putKvCarry c slot tok l x s) :=
  inv_ite (inv_modLs h) (inv_commitWord h)

theorem inv_appendHead {c : Iss} {l slot rec tok f : Nat} {val : Bool} {h pos : Nat} {xs : List W32} (hi : Spec.Inv s) : Spec.Inv
    (appendHead c l slot rec tok f val h pos xs s) := by
  unfold appendHead
  extract_lets p g t q cs on first
  split
  · exact inv_bump (inv_putPage hi)
  · refine inv_upto (fun h1 => ?_) hi
    extract_lets e z s1
    have hs1 : Spec.Inv s1 := inv_putPage (inv_putPage (inv_bump h1))
    exact inv_ite (inv_forAll inv_putKvCarry hs1) hs1

theorem inv_appendToken {c : Iss} {l slot rec tok : Nat} (h : Spec.Inv s) : Spec.Inv (appendToken c l slot rec tok s) := by
  unfold appendToken
  extract_lets p hkv dh pos pg rd
  have hrd : Spec.Inv rd.2 := inv_readAt h
  split
  · exact h
  · refine inv_upto (fun h1 => ?_) hrd
    split
    · exact h1
    · extract_lets h stream
      split
      · exact inv_pageFault h1
      · exact inv_appendHead h1

theorem inv_kvappend {c : Iss} (h : Spec.Inv s) : Spec.Inv (kvappend c s) := by
  unfold kvappend
  extract_lets l
  split
  · exact h
  · refine inv_forAll (fun h1 => ?_) h
    split
    · exact h1
    · exact inv_upto inv_appendToken h1

/-! ### Copy-on-write (R279) -/

theorem inv_copyPages {b rec pg : Nat} {y : Node} (h : Spec.Inv s) : Spec.Inv (copyPages b rec pg y s) :=
  inv_forAll (fun h1 => inv_ite h1 (inv_putOf (inv_readChecked h1))) h

end Sys2Proof.Machine

end

section
/-! SUPPORT. Start-up, resets and the flash keep the invariant of O59, and a cold start empties memory and both queues (R417 to R434, R461, R531,
R536 to R540). -/

open Sys2Proof Sys2Proof.Machine Sys2Proof.Spec

namespace Sys2Proof.Machine

set_option Elab.async false
variable {s : State}

/-! ### What a loss of runtime state leaves (Table 12.13) -/

theorem inv_lostState {cold : Bool} : Spec.Inv (lostState cold s) := ⟨rfl, Nat.zero_le _, Nat.zero_le _⟩

theorem inv_beginStart {phase cause : Nat} (h : Spec.Inv s) : Spec.Inv (beginStart phase cause s) :=
  inv_of_eq h

theorem inv_coldStart : Spec.Inv (coldStart s) :=
  inv_with_lar (inv_beginStart inv_lostState)

theorem inv_tripStart : Spec.Inv (tripStart s) :=
  inv_beginStart inv_lostState

theorem inv_warmRestart {cause : Nat} {link : Bool} (h : Spec.Inv s) : Spec.Inv (warmRestart cause link s) := by
  unfold warmRestart
  split
  · exact h
  · extract_lets s1 s2 _ s3
    have hs2 : Spec.Inv s2 := inv_beginStart inv_lostState
    have hs3 : Spec.Inv s3 := inv_of_eq hs2
    exact inv_ite hs2 (inv_ite (inv_trainLink hs3) hs3)

theorem inv_cutRails : Spec.Inv (cutRails s) :=
  inv_with_pow (inv_when inv_emit inv_lostState)

/-! ### The flash and its image slots (R417 to R423) -/

theorem inv_runImage {isB : Bool} {i : ImageFact} (h : Spec.Inv s) : Spec.Inv (runImage isB i s) :=
  inv_of_eq h

theorem inv_enterPhase {k : Nat} (h : Spec.Inv s) : Spec.Inv (enterPhase k s) :=
  inv_of_eq h

theorem inv_enterImage (h : Spec.Inv s) : Spec.Inv (enterImage s) :=
  inv_ite (inv_trainLink (inv_enterPhase h)) (inv_enterPhase h)

theorem inv_endImage {f : PhaseFacts} {s0 : State} (h : Spec.Inv s0) : Spec.Inv (endImage f s0) := by
  unfold endImage
  extract_lets free s1 _ _ _ s a b b1 one two
  have hs1 : Spec.Inv s1 := inv_tickFresh h
  have hs : Spec.Inv s := inv_of_eq hs1
  split
  · exact inv_enterPhase (inv_runImage hs)
  · exact inv_enterPhase (inv_runImage hs)
  · exact inv_raise (inv_of_eq hs)

/-! ### Phases 2 to 5 -/

theorem inv_recordFailure {item detail : Nat} (h : Spec.Inv s) : Spec.Inv (recordFailure item detail s) := by
  unfold recordFailure
  dsimp only
  split
  · exact h
  · exact inv_of_eq h

theorem inv_recordFailures {l : List Failure} (h : Spec.Inv s) : Spec.Inv (recordFailures l s) :=
  inv_forAll inv_recordFailure h

theorem inv_restoreResidency (h : Spec.Inv s) : Spec.Inv (restoreResidency s) :=
  inv_forAll (fun h1 => inv_ite (inv_modPlane h1) h1) h

theorem inv_updateView (h : Spec.Inv s) : Spec.Inv (updateView s) :=
  inv_of_eq h

theorem inv_logTrips (h : Spec.Inv s) : Spec.Inv (logTrips s) := by
  unfold logTrips
  extract_lets s1
  have hs1 : Spec.Inv s1 := by
    unfold s1
    refine inv_forAll (fun h1 => ?_) h
    extract_lets s2
    have hs2 : Spec.Inv s2 := inv_raiseEvent h1
    split
    · exact inv_raiseEvent hs2
    · exact hs2
  exact inv_of_eq hs1

theorem inv_endLarder {f : PhaseFacts} (h : Spec.Inv s) : Spec.Inv (endLarder f s) := by
  refine inv_updateView (inv_logTrips (inv_writeCounters (inv_forAll (fun hs => inv_planeSummary (inv_sparingSummary hs))
    (inv_forAll (fun hs => inv_raise (inv_tickFresh hs)) (inv_with_ident_su_lar_pow ?_)))))
  exact inv_restoreResidency (inv_forAll inv_applyCluster (inv_recordFailures (inv_with_lar h)))

theorem inv_loadEntry {m e : Nat} (h : Spec.Inv s) : Spec.Inv (loadEntry m e s) :=
  inv_ite (inv_raise (inv_setConv h)) (inv_setConv h)

theorem inv_endConverter {f : PhaseFacts} {m : Nat} (h : Spec.Inv s) : Spec.Inv (endConverter f m s) := by
  unfold endConverter
  extract_lets c s1 q es cyc q1
  have hs1 : Spec.Inv s1 := inv_forAll inv_loadEntry h
  exact inv_ite (inv_setConv hs1) (inv_recordFailure (inv_setConv (inv_of_eq hs1)))

theorem inv_setShare {p : Nat} (h : Spec.Inv s) : Spec.Inv (setShare p s) :=
  inv_ite (inv_modCluster h) h

theorem inv_endClocks {f : PhaseFacts} (h : Spec.Inv s) : Spec.Inv (endClocks f s) := by
  unfold endClocks
  extract_lets s1
  have hs1 : Spec.Inv s1 := inv_forAll inv_endConverter (inv_recordFailures h)
  exact inv_forAll (fun h1 => inv_setShare (inv_forAll (fun h2 => inv_ite (inv_forAll inv_modEngine h2) h2) h1)) hs1

theorem inv_startCalRun {p : Nat} (h : Spec.Inv s) : Spec.Inv (startCalRun p s) :=
  inv_calJudge (inv_modCluster h)

theorem inv_endMemory {f : PhaseFacts} (h : Spec.Inv s) : Spec.Inv (endMemory f s) := by
  unfold endMemory
  extract_lets total need s1 s2 _ s3 s4
  have hs1 : Spec.Inv s1 := inv_recordFailures h
  have hs2 : Spec.Inv s2 := inv_ite (inv_recordFailure hs1) hs1
  have hs3 : Spec.Inv s3 := inv_tickFresh (inv_of_eq hs2)
  have hs4 : Spec.Inv s4 := inv_forAll inv_recordFailure hs3
  exact inv_forAll inv_startCalRun hs4

theorem inv_startTests (h : Spec.Inv s) : Spec.Inv (startTests s) :=
  inv_forAll (fun h1 => inv_forAll inv_modCore h1) h

/-! ### The device enable (R431 to R433) -/

theorem inv_enableCheck (h : Spec.Inv s) : Spec.Inv (enableCheck s) := by
  unfold enableCheck
  extract_lets _ s1 _ fl _ _ s2
  have hs1 : Spec.Inv s1 := inv_of_eq h
  have hs2 : Spec.Inv s2 := inv_of_eq hs1
  split
  · exact inv_raise (inv_of_eq hs1)
  · exact inv_startTests (inv_ite hs2 (inv_writeCounters hs2))

theorem inv_requestEnable (h : Spec.Inv s) : Spec.Inv (requestEnable s) :=
  inv_ite (inv_of_eq h) (inv_ite (inv_enableCheck (inv_of_eq h)) (inv_of_eq h))

theorem inv_startSummaries (h : Spec.Inv s) : Spec.Inv (startSummaries s) :=
  inv_forAll (fun h1 => inv_bandSummary (inv_driftSummary h1)) h

theorem inv_enterReady (h : Spec.Inv s) : Spec.Inv (enterReady s) :=
  inv_ite (inv_enableCheck (inv_of_eq h)) (inv_of_eq h)

end Sys2Proof.Machine

end

section
/-! SUPPORT. Flash writes, folds, counters and event tokens keep the invariant of O59 (R507 to R521). -/

open Sys2Proof Sys2Proof.Machine Sys2Proof.Spec

namespace Sys2Proof.Machine

set_option Elab.async false
variable {s : State}

theorem inv_pageComplete (h : Spec.Inv s) : Spec.Inv (pageComplete s) := by
  unfold pageComplete
  dsimp only
  split
  · exact h
  · exact inv_ite (inv_updateView (inv_of_eq h)) (inv_of_eq h)

theorem inv_submitOne {w : FlashWrite} (h : Spec.Inv s) : Spec.Inv (beginFold.submitOne w s) :=
  inv_of_eq h

theorem inv_beginFold (h : Spec.Inv s) : Spec.Inv (beginFold s) :=
  inv_ite h (inv_submitOne (inv_submitOne (inv_of_eq h)))

theorem inv_calendarTick (h : Spec.Inv s) : Spec.Inv (calendarTick s) := by
  unfold calendarTick
  extract_lets t _ _ _ s1
  have hs1 : Spec.Inv s1 := inv_of_eq h
  split
  · exact inv_of_eq hs1
  · exact inv_writeCounters (inv_of_eq hs1)

end Sys2Proof.Machine

end

section
/-! SUPPORT. Samples and observation banks keep the invariant of O59 (R439, R440, R444 to R446). -/

open Sys2Proof Sys2Proof.Machine Sys2Proof.Spec

namespace Sys2Proof.Machine

set_option Elab.async false
variable {s : State}

theorem inv_takeSample {m e : Nat} {v : Int} (h : Spec.Inv s) : Spec.Inv (takeSample m e v s) :=
  inv_setConv h

theorem inv_snapshot (h : Spec.Inv s) : Spec.Inv (snapshot s) :=
  inv_with_mon (inv_forAll (fun h1 => inv_ite h1 (inv_setConv h1)) h)

theorem inv_updateTemps (h : Spec.Inv s) : Spec.Inv (updateTemps s) := by
  unfold updateTemps
  dsimp only
  refine inv_forAll (fun h1 => ?_) h
  split
  · exact h1
  · exact inv_modCluster h1

theorem inv_closeBanks (h : Spec.Inv s) : Spec.Inv (closeBanks s) := by
  unfold closeBanks
  extract_lets s1
  have hs1 : Spec.Inv s1 := by
    unfold s1
    refine inv_forAll (fun h1 => ?_) h
    split
    · exact h1
    · exact inv_of_eq h1
  exact inv_forAll (fun h1 => inv_ite h1 (inv_setConv h1)) hs1

end Sys2Proof.Machine

end

section
/-! SUPPORT. Power control keeps the invariant of O59 (R459 to R482). -/

open Sys2Proof Sys2Proof.Machine Sys2Proof.Spec

namespace Sys2Proof.Machine

set_option Elab.async false
variable {s : State}

theorem inv_stepLimit (h : Spec.Inv s) : Spec.Inv (stepLimit s) := by
  unfold stepLimit
  extract_lets n old set1 force _ s1 hot s2 s3
  have hs1 : Spec.Inv s1 := inv_with_pow h
  have hs2 : Spec.Inv s2 := inv_ite (inv_raiseEvent hs1) (inv_ite (inv_raiseEvent hs1) hs1)
  have hs3 : Spec.Inv s3 := by
    unfold s3
    split
    · exact inv_ite hs2 (inv_raiseEvent hs2)
    · exact hs2
  exact inv_ite hs3 (inv_forAll inv_setShare hs3)

theorem inv_moveUp {fell : Bool} {p power : Nat} (h : Spec.Inv s) : Spec.Inv (moveUp fell p power s) := by
  unfold moveUp
  extract_lets c
  split
  · exact h
  · exact inv_ite h (inv_modCluster h)

theorem inv_judgeSlack {p : Nat} {slack : Byte} (h : Spec.Inv s) : Spec.Inv (judgeSlack p slack s) := by
  unfold judgeSlack
  extract_lets s1 v k s2
  have hs1 : Spec.Inv s1 := inv_modCluster h
  have hs2 : Spec.Inv s2 := inv_modCluster hs1
  exact inv_ite (inv_raiseEvent hs2) hs1

theorem inv_windowCluster {fell : Bool} {w : ClWindow} (h : Spec.Inv s) : Spec.Inv (windowCluster fell w s) := by
  unfold windowCluster
  extract_lets p s1 s2 since s3 s4
  have hs1 : Spec.Inv s1 := inv_judgeSlack h
  have hs2 : Spec.Inv s2 := inv_ite (inv_raiseEvent hs1) hs1
  have hs3 : Spec.Inv s3 := inv_ite (inv_modCluster hs2) hs2
  have hs4 : Spec.Inv s4 := inv_moveUp hs3
  exact inv_ite h (inv_modCluster hs4)

theorem inv_trip {diode : Option Nat} : Spec.Inv (trip diode s) :=
  inv_with_su inv_cutRails

theorem inv_firmwareShutdown (h : Spec.Inv s) : Spec.Inv (firmwareShutdown s) := by
  unfold firmwareShutdown
  split
  · exact h
  · exact inv_ite inv_trip h

theorem inv_writeStartSteps {p : Nat} (h : Spec.Inv s) : Spec.Inv (writeStartSteps p s) :=
  inv_modCluster h

theorem inv_windowEnd {d : WindowData} (h : Spec.Inv s) : Spec.Inv (windowEnd d s) := by
  refine inv_ite h (inv_firmwareShutdown (inv_with_lar (inv_with_pow ?_)))
  exact inv_forAll inv_writeStartSteps (inv_forAll inv_windowCluster (inv_stepLimit (inv_closeBanks (inv_updateTemps h))))

theorem inv_powerWindow {p : Nat} {power : W16} (h : Spec.Inv s) : Spec.Inv (powerWindow p power s) := by
  unfold powerWindow
  split
  · exact h
  · extract_lets s1 c bound
    have hs1 : Spec.Inv s1 := inv_modCluster h
    split
    · exact hs1
    · extract_lets v s2
      have hs2 : Spec.Inv s2 := inv_modCluster hs1
      exact inv_ite (inv_raiseEvent (inv_modCluster hs2)) hs2

theorem inv_replanEngine {e : Nat} (h : Spec.Inv s) : Spec.Inv (replanEngine e s) :=
  inv_ite (inv_raise (inv_setEngine h)) (inv_setEngine h)

theorem inv_applyReplan {p : Nat} {d : ReplanData} (h : Spec.Inv s) : Spec.Inv (applyReplan p d s) := by
  unfold applyReplan
  extract_lets c delta s1 r valid s2 e _ _ _ s3 s4
  have hs1 : Spec.Inv s1 := inv_forAll inv_replanEngine h
  have hs2 : Spec.Inv s2 := inv_modCluster hs1
  have hs3 : Spec.Inv s3 := inv_submitJob (inv_of_eq hs2)
  have hs4 : Spec.Inv s4 := inv_setShare (inv_writeCounters hs3)
  exact inv_ite hs4 (inv_failCluster hs4)

theorem inv_replan {p : Nat} {d : ReplanData} (h : Spec.Inv s) : Spec.Inv (replan p d s) := by
  unfold replan
  extract_lets ks
  split
  · exact h
  · split
    · exact inv_applyReplan h
    · split
      · exact inv_modCluster h
      · exact h

theorem inv_replanAt {k : Nat} (h : Spec.Inv s) : Spec.Inv (replanAt k s) := by
  unfold replanAt
  split
  · exact inv_ite (inv_applyReplan h) h
  · exact h

theorem inv_inputLost (h : Spec.Inv s) : Spec.Inv (inputLost s) :=
  inv_ite h (inv_with_su inv_cutRails)

end Sys2Proof.Machine

end

section
/-! SUPPORT. Calibration and drift keep the invariant of O59 (R82 to R84, R447 to R456). -/

open Sys2Proof Sys2Proof.Machine Sys2Proof.Spec

namespace Sys2Proof.Machine

set_option Elab.async false
variable {s : State}

/-! ### Drift evaluation (R95) -/

theorem inv_summaries {p marks : Nat} (h : Spec.Inv s) : Spec.Inv (summaries p marks s) :=
  inv_planeSummary (inv_bandSummary (inv_driftSummary (inv_sparingSummary h)))

/-! ### An accepted result takes effect (R454) -/

theorem inv_keepSelections {e : Nat} {r : CalNext} (h : Spec.Inv s) : Spec.Inv (keepSelections e r s) :=
  inv_ite h (inv_writeRepair (inv_modCluster (inv_of_eq h)))

theorem inv_applyCal {e : Nat} (h : Spec.Inv s) : Spec.Inv (applyCal e s) := by
  unfold applyCal
  dsimp only
  split
  · exact h
  · exact inv_keepSelections (inv_forAll inv_modPlane (inv_modEngine h))

/-! ### Runs (R447, R456) -/

theorem inv_calEnded {e : Nat} (h : Spec.Inv s) : Spec.Inv (calEnded e s) :=
  inv_ite h (inv_calJudge (inv_modCluster h))

/-! ### Rejection (R452, R453, R455, R82 to R84) -/

theorem inv_reselect {e : Nat} {volts : List (List Int)} (h : Spec.Inv s) : Spec.Inv (reselect e volts s) := by
  unfold reselect
  split
  · exact inv_katDue h
  · extract_lets cells n l s1
    have hs1 : Spec.Inv s1 := inv_forAll inv_takeSample h
    exact inv_ite (inv_katDue hs1) (inv_modEngine hs1)

theorem inv_spareNow {e : Nat} {cols : List Nat} (h : Spec.Inv s) : Spec.Inv (spareNow e cols s) :=
  inv_forAll (fun h1 => inv_ite h1 (inv_of_eq h1)) h

theorem inv_requestSparing {e : Nat} {cols : List Nat} (h : Spec.Inv s) : Spec.Inv (requestSparing e cols s) := by
  unfold requestSparing
  extract_lets all wholeConv
  exact inv_ite (inv_failEngine h) (inv_writeRepair (inv_spareNow (inv_modEngine h)))

theorem inv_reject {e : Nat} {f : State → State} (hf : ∀ {s}, Spec.Inv s → Spec.Inv (f s)) (h : Spec.Inv s) : Spec.Inv (reject e f s) := by
  unfold reject
  extract_lets s1
  have hs1 : Spec.Inv s1 := inv_modCluster (inv_modEngine h)
  exact inv_calEnded (inv_ite (inv_failEngine hs1) (hf hs1))

theorem inv_ownWindow {e : Nat} (h : Spec.Inv s) : Spec.Inv (ownWindow e s) :=
  inv_summaries (inv_applyCal (inv_forAll inv_modPlane h))

theorem inv_accept {e : Nat} {r : CalNext} (h : Spec.Inv s) : Spec.Inv (accept e r s) := by
  unfold accept
  extract_lets s1
  have hs1 : Spec.Inv s1 := inv_tickFresh (inv_modEngine h)
  exact inv_calEnded (inv_ite (inv_ownWindow hs1) hs1)

theorem inv_calOutcome {e : Nat} {r : CalRun} {m : CalMeas} {volts : List (List Int)} (h : Spec.Inv s) : Spec.Inv (calOutcome e r m volts s) := by
  unfold calOutcome
  extract_lets bad
  exact inv_ite (inv_accept h) (inv_ite (inv_reject inv_requestSparing h) (inv_ite (inv_reject inv_reselect h) (inv_modEngine h)))

end Sys2Proof.Machine

end

section
/-! SUPPORT. Packet dispatch and the commands on records keep the invariant of O59 (R262, R263, R272, R276, R286, R375 to R385). -/

open Sys2Proof Sys2Proof.Machine Sys2Proof.Spec

namespace Sys2Proof.Machine

set_option Elab.async false
variable {s : State}

/-! ### Opening a record (R262, R263, R276) -/

theorem inv_allocMany {b n : Nat} {fs : List Nat} (h : Spec.Inv s) : Spec.Inv (allocMany b n fs s).2.2 := by
  induction n generalizing fs s with
  | zero => exact h
  | succ n ih =>
    unfold allocMany
    split
    next => exact h
    next f t ht => exact ih (inv_allocCharged h ht)

theorem inv_matchPrefix {b r : Nat} {a : OpenArgs} (h : Spec.Inv s) : Spec.Inv (matchPrefix b r a s) := by
  unfold matchPrefix
  extract_lets t lim full rest fin taken base len s1 s2 part s3
  have hs1 : Spec.Inv s1 := inv_forAll inv_modNode h
  have hs2 : Spec.Inv s2 := inv_modCtx hs1
  have hs3 : Spec.Inv s3 := inv_modCtxRun hs2
  exact inv_ite h (inv_foldl_snd inv_setToken hs3)

theorem inv_openOne {b r role : Nat} {a : OpenArgs} (h : Spec.Inv s) : Spec.Inv (openOne b r role a s).2 := by
  unfold openOne
  extract_lets p n got f share s1
  have hgot : Spec.Inv got.2.2 := inv_allocMany h
  have hs1 : Spec.Inv s1 := inv_setCtxRun (inv_setCtx (inv_clearFrame hgot))
  exact inv_ite_snd (inv_forAll inv_returnFrame hgot) (inv_modEntry hs1)

theorem inv_matchOpened {r : Nat} {a : OpenArgs} (h : Spec.Inv s) : Spec.Inv (matchOpened r a s) := by
  unfold matchOpened
  extract_lets b s1 len
  have hs1 : Spec.Inv s1 := inv_bumpHome (inv_ite (inv_matchPrefix h) h)
  exact inv_ite hs1 (inv_bumpHome (inv_bumpHome hs1))

theorem inv_undoOpen {b r : Nat} (h : Spec.Inv s) : Spec.Inv (undoOpen b r s) :=
  inv_clearRecord (inv_forAll inv_returnFrame h)

theorem inv_opened {b r : Nat} {c : Cmd} {outAddr outCap tokensAddr : Nat} {progress : Bool} (h : Spec.Inv s) : Spec.Inv
    (opened b r c outAddr outCap tokensAddr progress s) :=
  inv_readTokens (inv_completeWith (inv_modBrun (inv_setWork h)))

theorem inv_doOpen {c : Cmd} {d : CmdData} (h : Spec.Inv s) : Spec.Inv (doOpen c d s) := by
  unfold doOpen
  extract_lets b pay fl p n a r fin short alone main e
  have hfin : ∀ {u}, Spec.Inv u → Spec.Inv (fin u) := fun hu => inv_opened (inv_matchOpened hu)
  have hshort : ∀ {q u}, Spec.Inv u → Spec.Inv (short q u) := fun hu => inv_replyRec (inv_bumpHome hu)
  have hmain : Spec.Inv main.2 := inv_openOne h
  split
  · exact inv_replyRec h
  · refine inv_ite (inv_replyRec h) (inv_ite (inv_replyRec h) (inv_ite (inv_replyRec h) (inv_ite (inv_replyRec h) ?_)))
    split
    · exact inv_ite (hfin (inv_openOne h)) (hshort (inv_openOne h))
    · extract_lets shared draft
      have hdraft : Spec.Inv draft.2 := inv_openOne hmain
      refine inv_ite (inv_replyRec h) (inv_ite (hshort hmain) (inv_ite (hshort (inv_undoOpen hdraft)) ?_))
      exact inv_readTokens (hfin (inv_matchOpened (inv_modCtx (inv_modCtx hdraft))))

/-! ### Extending a record (R382) -/

theorem inv_extend {c : Cmd} {tokens gen : Nat} {floor : Option Nat} {outAddr outCap tokensAddr : Nat} (h : Spec.Inv s) : Spec.Inv
    (extend c tokens gen floor outAddr outCap tokensAddr s) := by
  unfold extend
  extract_lets r fl w e s1
  have hs1 : Spec.Inv s1 := inv_modCtxRun (inv_setWork h)
  exact inv_ite hs1 (inv_readTokens hs1)

theorem inv_doExtend {c : Cmd} {d : CmdData} (h : Spec.Inv s) : Spec.Inv (doExtend c d s) := by
  unfold doExtend
  extract_lets b pay n gen
  split
  · exact inv_replyRec h
  · split
    · exact inv_replyRec h
    · split
      · exact inv_replyRec h
      · split
        · exact inv_replyRec h
        · split
          · exact inv_replyRec h
          · exact inv_ite (inv_replyRec h) (inv_extend h)

theorem inv_doGenerate {c : Cmd} {d : CmdData} (h : Spec.Inv s) : Spec.Inv (doGenerate c d s) := by
  unfold doGenerate
  extract_lets b pay gen
  split
  · exact inv_replyRec h
  · split
    · exact inv_replyRec h
    · split
      · exact inv_replyRec h
      · split
        · exact inv_replyRec h
        · split
          · exact inv_replyRec h
          · exact inv_extend h

/-! ### Cancel and flush (R383, R384) -/

theorem inv_stageRequest {c : Cmd} {isFlush : Bool} (h : Spec.Inv s) : Spec.Inv (stageRequest c isFlush s) :=
  inv_modBrun h

theorem inv_doCancel {c : Cmd} (h : Spec.Inv s) : Spec.Inv (doCancel c s) := by
  unfold doCancel
  split
  · exact inv_replyRec h
  · exact inv_stageRequest h

theorem inv_doFlush {c : Cmd} {no : Nat} (h : Spec.Inv s) : Spec.Inv (doFlush c no s) := by
  unfold doFlush
  split
  · exact inv_replyRec h
  · extract_lets s1
    have hs1 : Spec.Inv s1 := inv_stageRequest h
    exact inv_ite (inv_modRing hs1) (inv_flushQueues hs1)

/-! ### Query (R385) -/

theorem inv_doQuery {kind : Nat} {c : Cmd} {d : CmdData} (h : Spec.Inv s) : Spec.Inv (doQuery kind c d s) := by
  unfold doQuery
  extract_lets b r addr cap bs
  split
  · exact inv_replyRec h
  · exact inv_ite (inv_replyRec h) (inv_ite (inv_replyRec h) (inv_ite (inv_replyRec h) (inv_finish (inv_writeHost h))))

/-! ### Dispatch -/

theorem inv_dispatch {op no : Nat} {c : Cmd} {d : CmdData} (h : Spec.Inv s) : Spec.Inv (dispatch op no c d s) :=
  inv_ite (inv_doBindLoad h) (inv_ite (inv_doBindSwitch h) (inv_ite (inv_ite (inv_doUnbindByTenant h) (inv_doUnbind h))
    (inv_ite (inv_ite (inv_doOpen h) (inv_doExtend h)) (inv_ite (inv_doGenerate h)
    (inv_ite (inv_doCancel h) (inv_ite (inv_doFlush h) (inv_doQuery h)))))))

theorem inv_fillRing {r : Nat} {ts : List W32} (h : Spec.Inv s) : Spec.Inv (fillRing r ts s) := by
  unfold fillRing
  extract_lets q s1 s2
  have hs1 : Spec.Inv s1 := inv_foldl_snd inv_setToken h
  have hs2 : Spec.Inv s2 := inv_modCtxRun hs1
  exact inv_ite (inv_readTokens hs2) hs2

end Sys2Proof.Machine

end

section
/-! SUPPORT. Mailboxes and the host's messages keep the invariant of O59 (R400 to R416). -/

open Sys2Proof Sys2Proof.Machine Sys2Proof.Spec

namespace Sys2Proof.Machine

set_option Elab.async false
variable {s : State}

theorem inv_setCause {i : Nat} (h : Spec.Inv s) : Spec.Inv (setCause i s) :=
  inv_ite (inv_msix (inv_of_eq h)) (inv_of_eq h)

theorem inv_wakeReceiver {mb : Nat} (h : Spec.Inv s) : Spec.Inv (wakeReceiver mb s) := by
  unfold wakeReceiver
  dsimp only
  split
  · exact inv_setCause h
  · split
    · exact h
    · exact inv_ite (inv_emit h) (inv_setMbox (inv_emit h))

theorem inv_dataWrite {mb i : Nat} {v : W32} (h : Spec.Inv s) : Spec.Inv (dataWrite mb i v s) :=
  inv_setMbox h

theorem inv_sendGo {mb : Nat} (h : Spec.Inv s) : Spec.Inv (sendGo mb s) :=
  inv_wakeReceiver (inv_setMbox h)

theorem inv_placeWords {mb : Nat} {ws : List W32} (h : Spec.Inv s) : Spec.Inv (placeWords mb ws s) :=
  inv_foldl_snd (f := fun p w => (p.1 + 1, dataWrite mb p.1 w p.2)) (x := (0, s)) inv_dataWrite h

theorem inv_pumpMail (h : Spec.Inv s) : Spec.Inv (pumpMail s) := by
  unfold pumpMail
  dsimp only
  split
  · exact h
  · exact inv_ite (inv_sendGo (inv_placeWords (inv_of_eq h))) h

theorem inv_fwSend {ws : List W32} (h : Spec.Inv s) : Spec.Inv (fwSend ws s) :=
  inv_ite h (inv_ite (inv_sendGo (inv_placeWords h)) (inv_ite (inv_of_eq h) (inv_raise h)))

theorem inv_release {mb : Nat} {v : W32} (h : Spec.Inv s) : Spec.Inv (release mb v s) :=
  inv_ite (inv_setMbox h) (inv_setMbox h)

theorem inv_doorbell {mb : Nat} (h : Spec.Inv s) : Spec.Inv (doorbell mb s) :=
  inv_ite (inv_setCause h) (inv_emit h)

theorem inv_acknowledge {mb : Nat} {v : W32} (h : Spec.Inv s) : Spec.Inv (acknowledge mb v s) :=
  inv_ite h (inv_ite (inv_doorbell (inv_setMbox h)) (inv_setMbox h))

theorem inv_expire {mb : Nat} (h : Spec.Inv s) : Spec.Inv (expire mb s) := by
  unfold expire
  extract_lets b s1
  have hs1 : Spec.Inv s1 := inv_setMbox h
  exact inv_ite h (inv_pumpMail (inv_ite (inv_setCause hs1) hs1))

theorem inv_senderFirst {mb : Nat} {w : SameCycle} (h : Spec.Inv s) : Spec.Inv (senderFirst mb w s) := by
  unfold senderFirst
  extract_lets s1
  have hs1 : Spec.Inv s1 := by
    unfold s1
    split
    · exact inv_ite (inv_dataWrite h) h
    · exact h
  split
  · exact inv_ite (inv_sendGo hs1) hs1
  · exact hs1

theorem inv_keepCopy {v : W32} (h : Spec.Inv s) : Spec.Inv (keepCopy v s) :=
  inv_ite (inv_of_eq h) h

theorem inv_releaseBy {mb : Nat} {v : W32} (h : Spec.Inv s) : Spec.Inv (releaseBy mb v s) :=
  inv_pumpMail (inv_release (inv_ite (inv_keepCopy h) h))

theorem inv_clearCollision {mb : Nat} {v : W32} (h : Spec.Inv s) : Spec.Inv (clearCollision mb v s) :=
  inv_ite (inv_setMbox h) h

/-! ### Locks -/

theorem inv_readLock {k : Nat} {m : Master} (h : Spec.Inv s) : Spec.Inv (readLock k m s) :=
  inv_ite (inv_emit h) (inv_ite (inv_emit h) (inv_setLock (inv_emit h)))

theorem inv_writeLock {k : Nat} {m : Master} {v : W32} (h : Spec.Inv s) : Spec.Inv (writeLock k m v s) :=
  inv_ite h (inv_setLock h)

/-! ### Host messages -/

theorem inv_drainHost (h : Spec.Inv s) : Spec.Inv (drainHost s) := by
  unfold drainHost
  dsimp only
  split
  · exact inv_acknowledge (inv_of_eq h)
  · exact inv_acknowledge (inv_setMbox h)

theorem inv_hostMessage {t words : Nat} {ok : List W32 → Bool} {act : List W32 → State → State} {more : List Nat}
    (hact : ∀ {a0 s}, Spec.Inv s → Spec.Inv (act a0 s)) (h : Spec.Inv s) : Spec.Inv (hostMessage t words ok act more s) := by
  unfold hostMessage
  split
  · exact h
  · extract_lets ty
    exact inv_ite (inv_fwSend (inv_drainHost h)) (inv_ite (inv_ite (inv_fwSend (inv_drainHost h))
      (inv_ite (inv_fwSend (inv_drainHost h)) (inv_fwSend (hact (inv_drainHost h))))) (inv_ite h (inv_fwSend (inv_drainHost h))))

theorem inv_acceptCalendar {v : W64} (h : Spec.Inv s) : Spec.Inv (acceptCalendar v s) :=
  inv_of_eq h

theorem inv_acceptLimit {w : Nat} {src : Source} (h : Spec.Inv s) : Spec.Inv (acceptLimit w src s) :=
  inv_of_eq h

theorem inv_msgPing (h : Spec.Inv s) : Spec.Inv (msgPing s) :=
  inv_hostMessage id h

theorem inv_msgCalendarSet (h : Spec.Inv s) : Spec.Inv (msgCalendarSet s) :=
  inv_hostMessage inv_acceptCalendar h

theorem inv_msgCalendarGet (h : Spec.Inv s) : Spec.Inv (msgCalendarGet s) :=
  inv_hostMessage id h

theorem inv_msgLimitSet (h : Spec.Inv s) : Spec.Inv (msgLimitSet s) :=
  inv_hostMessage inv_acceptLimit h

theorem inv_msgLimitGet (h : Spec.Inv s) : Spec.Inv (msgLimitGet s) :=
  inv_hostMessage id h

theorem inv_handleNext (h : Spec.Inv s) : Spec.Inv (handleNext s) := by
  unfold handleNext
  split
  · exact inv_msgCalendarSet h
  · exact inv_msgCalendarGet h
  · exact inv_msgLimitSet h
  · exact inv_msgLimitGet h
  · exact inv_msgPing h

theorem inv_ackBy {mb : Nat} {v : W32} (h : Spec.Inv s) : Spec.Inv (ackBy mb v s) := by
  unfold ackBy
  split
  · exact inv_pumpMail (inv_acknowledge h)
  · exact inv_ite (inv_handleNext h) (inv_ite h (inv_acknowledge h))

end Sys2Proof.Machine

end

section
/-! SUPPORT. Writes of the register map keep the invariant of O59 (R19 to R22, R364 to R367, R394, R396, R416, R499, R524). -/

open Sys2Proof Sys2Proof.Machine Sys2Proof.Spec

namespace Sys2Proof.Machine

set_option Elab.async false
variable {s : State}

/-! ### Bad accesses (R20, R416) -/

theorem inv_badAccessAt {m : Master} {o n : Nat} {write : Bool} (h : Spec.Inv s) : Spec.Inv (badAccessAt m o n write s) :=
  inv_ite (inv_ite h (inv_emit h)) (inv_raise (inv_ite h (inv_emit h)))

/-! ### 64-bit registers (R21) -/

theorem inv_take64 {o : Nat} {v : W64} (h : Spec.Inv s) : Spec.Inv (take64 o v s) := by
  unfold take64
  extract_lets _ s1
  have hs1 : Spec.Inv s1 := inv_of_eq h
  exact inv_ite (inv_baseWrite hs1) (inv_ite (inv_baseWrite hs1) (inv_ite (inv_ite hs1 (inv_of_eq hs1)) hs1))

theorem inv_lowWrite {o : Nat} {lo : W32} (h : Spec.Inv s) : Spec.Inv (lowWrite o lo s) :=
  inv_of_eq h

theorem inv_highWrite {o : Nat} {hi : W32} {cur : W64} (h : Spec.Inv s) : Spec.Inv (highWrite o hi cur s) :=
  inv_take64 h

/-! ### Managed removal (R396) -/

theorem inv_removePackets (h : Spec.Inv s) : Spec.Inv (removePackets s) :=
  inv_forAll inv_removeQueued h

theorem inv_withdrawSwitch {o : SwitchOp} (h : Spec.Inv s) : Spec.Inv (withdrawSwitch o s) := by
  unfold withdrawSwitch
  extract_lets b _ s1 s2
  have hs1 : Spec.Inv s1 := inv_restoreStates (inv_of_eq h)
  have hs2 : Spec.Inv s2 := inv_replyOpt hs1
  exact inv_ite (inv_tellLead hs2) hs2

theorem inv_startQuiesce (h : Spec.Inv s) : Spec.Inv (startQuiesce s) := by
  unfold startQuiesce
  split
  · exact h
  · extract_lets s0 _ s1
    have hs0 : Spec.Inv s0 := inv_forAll inv_modRing h
    have hs1 : Spec.Inv s1 := inv_removePackets (inv_of_eq hs0)
    exact inv_forAll inv_withdrawSwitch hs1

/-! ### The host error ring (R499) -/

theorem inv_erControl {v : W32} (h : Spec.Inv s) : Spec.Inv (erControl v s) := by
  unfold erControl
  dsimp only
  split
  · exact inv_of_eq h
  · split
    · exact inv_of_eq h
    · exact inv_of_eq h

theorem inv_erHeadWrite {v : W32} (h : Spec.Inv s) : Spec.Inv (erHeadWrite v s) :=
  inv_ite h (inv_of_eq h)

theorem inv_signalEr (h : Spec.Inv s) : Spec.Inv (signalEr s) :=
  inv_ite (inv_msix (inv_of_eq h)) h

theorem inv_erCoalesce {v : W32} (h : Spec.Inv s) : Spec.Inv (erCoalesce v s) :=
  inv_signalEr (inv_of_eq h)

theorem inv_writeErr (h : Spec.Inv s) : Spec.Inv (writeErr s) := by
  obtain ⟨hmem, hhost, hmgmt⟩ := h
  unfold writeErr
  dsimp only
  split
  next => exact ⟨hmem, hhost, hmgmt⟩
  next r t hq =>
    split
    · exact ⟨hmem, hhost, hmgmt⟩
    · rw [hq] at hhost
      exact inv_signalEr ⟨hmem, (Nat.le_succ _).trans hhost, hmgmt⟩

/-! ### ENABLE and register writes (R22, R431, R524) -/

theorem inv_hostMailWrite {o : Nat} {v : W32} (h : Spec.Inv s) : Spec.Inv (hostMailWrite o v s) := by
  unfold hostMailWrite
  extract_lets x b0 b1
  exact inv_ite (inv_dataWrite h) (inv_ite (inv_ite (inv_sendGo h) h)
    (inv_ite (inv_setMbox h) (inv_ite (inv_ite (inv_setMbox h) h) (inv_ite (inv_pumpMail (inv_release h))
    (inv_ite (inv_pumpMail (inv_acknowledge h)) (inv_ite (inv_of_eq h) (inv_ite (inv_of_eq h) h)))))))

theorem inv_hostRingWrite {r : Fin 256} {o : Nat} {v : W32} (h : Spec.Inv s) : Spec.Inv (hostRingWrite r o v s) :=
  inv_ite (inv_sqControl h) (inv_ite (inv_sqTailWrite h) (inv_ite (inv_cqControl h)
    (inv_ite (inv_cqHeadWrite h) (inv_ite (inv_ringStatusWrite h) (inv_ite (inv_coalesceWrite h) h)))))

theorem inv_hostWrite32 {o : Nat} {v : W32} (h : Spec.Inv s) : Spec.Inv (hostWrite32 o v s) :=
  inv_ite (inv_of_eq h) (inv_ite (inv_ite (inv_requestEnable h) h) (inv_ite (inv_hostMailWrite h)
    (inv_ite (inv_ite h (inv_setLock h)) (inv_ite (inv_hostRingWrite h)
    (inv_ite (inv_ite (inv_startQuiesce h) h) (inv_ite (inv_hostTimers h)
    (inv_ite (inv_msixWrite h) (inv_ite (inv_erControl h) (inv_ite (inv_erHeadWrite h)
    (inv_ite (inv_erCoalesce h) (inv_ite (inv_ite (inv_snapshot h) h)
    (inv_ite (inv_fabricControl h) (inv_ite (inv_txnTimers h) (inv_mapWriteAt h))))))))))))))

/-! ### Ladle reads (R364, R366, R394) -/

theorem inv_failLoad {b status : Nat} (h : Spec.Inv s) : Spec.Inv (failLoad b status s) :=
  inv_ite (inv_startRelease (inv_replyOpt (inv_modBrun h))) h

theorem inv_failRead {w : ReadFor} {status : Nat} (h : Spec.Inv s) : Spec.Inv (failRead w status s) := by
  unfold failRead
  split
  · exact inv_flushBoundary (inv_msix (inv_modRing h))
  · exact inv_failWork h
  · exact inv_failLoad h

theorem inv_dropRead {id : Nat} (h : Spec.Inv s) : Spec.Inv (dropRead id s) :=
  inv_startReads (inv_of_eq h)

theorem inv_failReads (h : Spec.Inv s) : Spec.Inv (failReads s) :=
  inv_forAll (fun h1 => inv_failRead (inv_raise h1)) (inv_of_eq h)

theorem inv_sendHeld {h : HeldOut} (hi : Spec.Inv s) : Spec.Inv (sendHeld h s) := by
  unfold sendHeld
  split
  · exact inv_writeHost hi
  · exact inv_completeWith hi

end Sys2Proof.Machine

end

section
/-! SUPPORT. Maintenance windows, switch epochs and handovers keep the invariant of O59 (R37, R61, R95, R96, R189, R343). -/

open Sys2Proof Sys2Proof.Machine Sys2Proof.Spec

namespace Sys2Proof.Machine

set_option Elab.async false
variable {s : State}

/-! ### MWIN (R96, R189) -/

theorem inv_probePass {n : Nat} (h : Spec.Inv s) : Spec.Inv (probePass n s) :=
  inv_tickFresh (inv_addDrift h)

theorem inv_probes {k len : Nat} (h : Spec.Inv s) : Spec.Inv (probes k len s) :=
  inv_forAll (fun h1 => inv_ite (inv_forAll (fun h2 => inv_upto inv_probePass h2) h1) h1) h

theorem inv_openWindow {c : Iss} (h : Spec.Inv s) : Spec.Inv (openWindow c s) :=
  inv_probes (inv_modCore h)

/-! ### The end of a window -/

theorem inv_endWindow {k : Nat} (h : Spec.Inv s) : Spec.Inv (endWindow k s) := by
  unfold endWindow
  extract_lets ns marks s1 s2 s3
  have hs1 : Spec.Inv s1 := inv_forAll inv_modPlane h
  have hs2 : Spec.Inv s2 := inv_settleCore hs1
  have hs3 : Spec.Inv s3 := inv_replanAt (inv_forAll (fun h1 => inv_modEngine (inv_applyCal h1)) hs2)
  exact inv_summaries (inv_modCore hs3)

/-! ### The switch epoch (R343) -/

theorem inv_loadRecipes {o : SwitchOp} {b : Nat} (h : Spec.Inv s) : Spec.Inv (loadRecipes o b s) := by
  refine inv_forAll (fun {_ u} hu => ?_) h
  split
  · exact hu
  · exact inv_modCore hu

theorem inv_openSwitchWindow {o : SwitchOp} (h : Spec.Inv s) : Spec.Inv (openSwitchWindow o s) :=
  inv_forAll (fun h1 => inv_probes (inv_modCore h1)) (inv_of_eq h)

theorem inv_switchStages (h : Spec.Inv s) : Spec.Inv (switchStages s) := by
  unfold switchStages
  refine inv_forAll (fun h1 => ?_) h
  extract_lets s1
  have hs1 : Spec.Inv s1 := inv_ite (inv_forAll inv_loadRecipes h1) h1
  exact inv_ite hs1 (inv_openSwitchWindow hs1)

theorem inv_takeCores {o : SwitchOp} {b : Nat} (h : Spec.Inv s) : Spec.Inv (takeCores o b s) := by
  unfold takeCores
  split
  · exact h
  · extract_lets at_ s1 s2
    have hs1 : Spec.Inv s1 := inv_forAll (fun h1 => inv_ungate (inv_modCore h1)) h
    have hs2 : Spec.Inv s2 := inv_modBrun hs1
    exact inv_beginStep (inv_stagesFrom6 hs2)

theorem inv_handover {o : SwitchOp} (h : Spec.Inv s) : Spec.Inv (handover o s) := by
  unfold handover
  extract_lets s1
  have hs1 : Spec.Inv s1 := inv_forAll (fun h1 => inv_ite (inv_endWindow h1) h1) h
  exact inv_ite hs1 (inv_forAll inv_takeCores hs1)

end Sys2Proof.Machine

end

section
/-! SUPPORT. Programming and erasing keep the invariant of O59 (R54 to R59, R193 to R221). -/

open Sys2Proof Sys2Proof.Machine Sys2Proof.Spec

namespace Sys2Proof.Machine

set_option Elab.async false
variable {s : State}

/-! ### Residuals and spares (R112, R215, R216) -/

theorem inv_selectSpares {n : Nat} {x : List Nat × List Nat} (h : Spec.Inv s) : Spec.Inv (selectSpares n x s) :=
  inv_ite h (inv_bump (inv_writeRepair (inv_of_eq h)))

theorem inv_takeSpares {n : Nat} (h : Spec.Inv s) : Spec.Inv (takeSpares n s) :=
  inv_ite h (inv_writeRepair (inv_of_eq h))

theorem inv_beginAttempt {n purpose old attempt : Nat} {faults : List (Nat × Nat)} (h : Spec.Inv s) : Spec.Inv
    (beginAttempt n purpose old attempt faults s) := by
  unfold beginAttempt
  extract_lets e s0 last g owner s1
  have hs0 : Spec.Inv s0 := inv_ite h (inv_takeSpares h)
  have hs1 : Spec.Inv s1 := inv_modPlane hs0
  exact inv_planeSummary (inv_bump (inv_modEngine (inv_journal hs1)))

theorem inv_markMaster {n : Nat} (h : Spec.Inv s) : Spec.Inv (markMaster n s) := by
  unfold markMaster
  dsimp only
  split
  · exact h
  · exact inv_of_eq h

theorem inv_masterFault {n : Nat} (h : Spec.Inv s) : Spec.Inv (masterFault n s) := by
  unfold masterFault
  dsimp only
  split
  · exact h
  · exact inv_raise (inv_markMaster h)

theorem inv_heldMoves {n m : Nat} (h : Spec.Inv s) : Spec.Inv (heldMoves n m s) :=
  inv_of_eq h

theorem inv_migrate {n m purpose old : Nat} (h : Spec.Inv s) : Spec.Inv (migrate n m purpose old s) := by
  unfold migrate
  extract_lets mc s1 _ s2 s3 _ s3'
  have hs1 : Spec.Inv s1 := inv_heldMoves (inv_modPlane h)
  have hs2 : Spec.Inv s2 := inv_of_eq hs1
  have hs3 : Spec.Inv s3 := inv_modPlane hs2
  have hs3' : Spec.Inv s3' := inv_modPlane hs2
  exact inv_ite (inv_beginAttempt hs2) (inv_ite (inv_beginAttempt (inv_of_eq hs3)) (inv_beginAttempt (inv_modPlane hs3')))

theorem inv_overRating {n : Nat} (h : Spec.Inv s) : Spec.Inv (overRating n s) :=
  inv_raise h

theorem inv_startProgram {n purpose : Nat} (h : Spec.Inv s) : Spec.Inv (startProgram n purpose s) := by
  unfold startProgram
  dsimp only
  split
  · split
    · exact inv_migrate h
    · exact inv_beginAttempt (inv_overRating h)
  · exact inv_ite (inv_beginAttempt (inv_ite h (inv_selectSpares h))) (inv_beginAttempt h)

theorem inv_abandonProgram {e : Nat} {g : Prog} (h : Spec.Inv s) : Spec.Inv (abandonProgram e g s) := by
  unfold abandonProgram
  extract_lets n b gone s1 s2 s3
  have hs1 : Spec.Inv s1 := inv_modEngine h
  have hs2 : Spec.Inv s2 := inv_ite (inv_modPlane hs1) (inv_ite (inv_releasePlane hs1) hs1)
  have hs3 : Spec.Inv s3 := inv_ite (inv_releasePlane hs2) hs2
  exact inv_checkReleased hs3

theorem inv_nextAttempt {n : Nat} {g : Prog} (h : Spec.Inv s) : Spec.Inv (nextAttempt n g s) := by
  unfold nextAttempt
  extract_lets e spent
  split
  · exact inv_migrate (inv_modEngine h)
  · exact inv_beginAttempt (inv_when inv_overRating h)

theorem inv_masterErrors {n : Nat} {faults : List UnitFault} (h : Spec.Inv s) : Spec.Inv (masterErrors n faults s) :=
  inv_forAll inv_memFault h

theorem inv_withMaster {n : Nat} {faults : List UnitFault} {f : State → State} (hf : ∀ {s}, Spec.Inv s → Spec.Inv (f s)) (h : Spec.Inv s) : Spec.Inv
    (withMaster n faults f s) := by
  unfold withMaster
  split
  · exact hf h
  · extract_lets s1
    have hs1 : Spec.Inv s1 := inv_masterErrors h
    exact inv_ite (inv_masterFault hs1) (hf hs1)

/-! ### ROW_ITERATION (R194, R195, R214, R215) -/

theorem inv_senseCell {g : Prog} {row : Nat} {c : CellRead} (h : Spec.Inv s) : Spec.Inv (senseCell g row c s) :=
  inv_ite (inv_modPlane h) h

theorem inv_rowEnd {e : Nat} {g : Prog} {row : Nat} (h : Spec.Inv s) : Spec.Inv (rowEnd e g row s) := by
  unfold rowEnd
  extract_lets p cols bad off cols' g1
  exact inv_ite (inv_bump (inv_modEngine h)) (inv_ite (inv_modEngine h) (inv_ite (inv_bump (inv_modEngine h)) (inv_modEngine h)))

theorem inv_iterate {e : Nat} {g : Prog} {cells : List CellRead} (h : Spec.Inv s) : Spec.Inv (iterate e g cells s) := by
  unfold iterate
  extract_lets row before s1 after reached g1
  have hs1 : Spec.Inv s1 := inv_forAll inv_senseCell h
  exact inv_ite (inv_modEngine hs1) (inv_rowEnd hs1)

/-! ### PROGRAM_ATTEMPT_END (R198, R213, R215 to R219) -/

theorem inv_putCellMap {n : Nat} {es : List CellEntry} (h : Spec.Inv s) : Spec.Inv (putCellMap n es s).2 := by
  unfold putCellMap
  dsimp only
  split
  · exact h
  · exact inv_with_hw (inv_modBrun h)

theorem inv_recordCells {n : Nat} {es : List CellEntry} (h : Spec.Inv s) : Spec.Inv (recordCells n es s) :=
  inv_ite (inv_putCellMap h) (inv_raise (inv_putCellMap h))

theorem inv_noteLate {e : Nat} {g : Prog} (h : Spec.Inv s) : Spec.Inv (noteLate e g s) :=
  inv_ite h (inv_ite (inv_modCluster (inv_modEngine h)) (inv_modEngine h))

theorem inv_completionRecord {n : Nat} (h : Spec.Inv s) : Spec.Inv (completionRecord n s) := by
  unfold completionRecord
  split
  · exact inv_journal h
  · exact h

theorem inv_keepResiduals {n : Nat} (h : Spec.Inv s) : Spec.Inv (keepResiduals n s) := by
  unfold keepResiduals
  dsimp only
  split
  · exact h
  · exact inv_of_eq h

theorem inv_noteUnheld {e : Nat} (h : Spec.Inv s) : Spec.Inv (noteUnheld e s) :=
  inv_when inv_planeSummary h

theorem inv_completeProgram {e : Nat} {g : Prog} (h : Spec.Inv s) : Spec.Inv (completeProgram e g s) := by
  unfold completeProgram
  extract_lets n p pairs cause s1 s2 s3 s4 s6 s5
  have hs1 : Spec.Inv s1 := inv_noteUnheld (inv_keepResiduals (inv_tickFresh (inv_modPlane (inv_modEngine h))))
  have hs2 : Spec.Inv s2 := inv_bump hs1
  have hs3 : Spec.Inv s3 := inv_bump (inv_completionRecord (inv_recordCells hs2))
  have hs4 : Spec.Inv s4 := inv_when inv_bump hs3
  have hs6 : Spec.Inv s6 := inv_modPlane hs4
  have hs5 : Spec.Inv s5 := inv_ite (inv_ite (inv_settlePlane hs6) hs6) hs4
  split
  · exact inv_calDue hs2
  · split
    · exact inv_checkResident hs5
    · exact hs5

theorem inv_replacePlane {n : Nat} (h : Spec.Inv s) : Spec.Inv (replacePlane n s) := by
  unfold replacePlane
  split
  · exact h
  · split
    · extract_lets _ s1
      have hs1 : Spec.Inv s1 := inv_modPlane (inv_of_eq h)
      exact inv_ite (inv_settlePlane hs1) hs1
    · extract_lets _ s1
      have hs1 : Spec.Inv s1 := inv_modPlane (inv_of_eq h)
      exact inv_ite (inv_startRelease (inv_modBrun (inv_refuse hs1))) hs1

theorem inv_retirePlane {e : Nat} {g : Prog} (h : Spec.Inv s) : Spec.Inv (retirePlane e g s) := by
  unfold retirePlane
  extract_lets n s1 s2
  have hs1 : Spec.Inv s1 := inv_modEngine h
  have hs2 : Spec.Inv s2 := inv_modPlane hs1
  exact inv_ite (inv_replacePlane (inv_modPlane hs1)) (inv_ite (inv_ite (inv_modPlane (inv_of_eq hs2)) (inv_replacePlane hs2))
    (inv_ite (inv_modPlane hs1) (inv_modPlane hs1)))

theorem inv_attemptEnd {e : Nat} {g : Prog} (h : Spec.Inv s) : Spec.Inv (attemptEnd e g s) := by
  unfold attemptEnd
  extract_lets n s1 x
  have hs1 : Spec.Inv s1 := inv_noteLate h
  exact inv_ite (inv_completeProgram hs1) (inv_ite (inv_ite (inv_completeProgram hs1) (inv_noteUnheld (inv_retirePlane hs1)))
    (inv_ite (inv_completeProgram hs1) (inv_modEngine (inv_selectSpares hs1))))

/-! ### ADOPTION_COMPLETE (R209) -/

theorem inv_adopt {n : Nat} {d : AdoptData} (h : Spec.Inv s) : Spec.Inv (adopt n d s) := by
  unfold adopt
  extract_lets p s1 _ q0 _ s2 s3 s4
  have hs1 : Spec.Inv s1 := inv_modPlane h
  have hs2 : Spec.Inv s2 := inv_keepResiduals (inv_tickFresh (inv_modPlane hs1))
  have hs3 : Spec.Inv s3 := inv_putCellMap hs2
  have hs4 : Spec.Inv s4 := inv_bump (inv_driftSummary hs3)
  split
  · exact inv_checkResident hs4
  · exact hs4

end Sys2Proof.Machine

end

section
/-! SUPPORT. Known-answer tests keep the invariant of O59 (R426, R428, R488 to R493, R506). -/

open Sys2Proof Sys2Proof.Machine Sys2Proof.Spec

namespace Sys2Proof.Machine

set_option Elab.async false
variable {s : State}

theorem inv_testFail {k unit n : Nat} {engine : Option Nat} {hard : Bool} (h : Spec.Inv s) : Spec.Inv (testFail k unit n engine hard s) :=
  inv_raise h

theorem inv_partFailed {k unit n : Nat} {engine : Option Nat} {hard : Bool} (h : Spec.Inv s) : Spec.Inv (partFailed k unit n engine hard s) := by
  unfold partFailed
  extract_lets s1
  have hs1 : Spec.Inv s1 := inv_testFail h
  split
  · exact hs1
  · split
    · exact inv_failEngine hs1
    · exact inv_failCore hs1

theorem inv_noteCols {e : Nat} {cols : List Nat} (h : Spec.Inv s) : Spec.Inv (noteCols e cols s) :=
  inv_modEngine h

theorem inv_engineResult {k : Nat} {again : List (Nat × List Nat)} {x : Nat × List Nat} (h : Spec.Inv s) : Spec.Inv (engineResult k again x s) := by
  unfold engineResult
  split
  · exact inv_partFailed (inv_noteCols h)
  · exact inv_partFailed h

theorem inv_katOutcome {k : Nat} {e1 e2 : List (Nat × List Nat)} {a1 p1 a2 p2 : Nat} (h : Spec.Inv s) : Spec.Inv (katOutcome k e1 e2 a1 p1 a2 p2 s)
    := by
  unfold katOutcome
  extract_lets p fails clean done s1 s2 s3 s4 s5
  have hs1 : Spec.Inv s1 := inv_bump (inv_modCore h)
  have hs2 : Spec.Inv s2 := inv_when inv_bump hs1
  have hs3 : Spec.Inv s3 := inv_dueCores (inv_setWin hs2)
  have hs4 : Spec.Inv s4 := inv_forAll inv_engineResult hs3
  have hs5 : Spec.Inv s5 := inv_ite hs4 (inv_partFailed hs4)
  exact inv_ite hs5 (inv_partFailed hs5)

theorem inv_katEnd {k : Nat} {r : KatResult} (h : Spec.Inv s) : Spec.Inv (katEnd k r s) :=
  inv_katOutcome (inv_of_eq h)

/-! ### Start-up's tests and its phases -/

theorem inv_judgeTests {f : PhaseFacts} (h : Spec.Inv s) : Spec.Inv (judgeTests f s) :=
  inv_forAll (fun h1 => inv_ite (inv_katEnd h1) h1) (inv_recordFailures h)

theorem inv_endTest {f : PhaseFacts} (h : Spec.Inv s) : Spec.Inv (endTest f s) := by
  unfold endTest
  extract_lets s1 wait
  have hs1 : Spec.Inv s1 := inv_judgeTests h
  exact inv_ite (inv_enterReady (inv_startSummaries hs1)) (inv_forAll (fun h1 => inv_ite h1 (inv_startCalRun h1)) hs1)

theorem inv_startSelfCal (h : Spec.Inv s) : Spec.Inv (startSelfCal s) :=
  inv_forAll inv_setConv h

theorem inv_phaseEnd {f : PhaseFacts} (h : Spec.Inv s) : Spec.Inv (phaseEnd f s) := by
  unfold phaseEnd
  extract_lets _ s1 k _ s2
  have hs1 : Spec.Inv s1 := inv_of_eq h
  have hs2 : Spec.Inv s2 := inv_of_eq hs1
  exact inv_ite h (inv_ite (inv_ite (inv_of_eq hs2) (inv_enterImage hs2))
    (inv_ite (inv_endImage hs1) (inv_ite (inv_startSelfCal (inv_enterPhase (inv_endLarder hs1)))
    (inv_ite (inv_enterPhase (inv_endClocks hs1)) (inv_ite (inv_enterPhase (inv_endMemory hs1)) (inv_ite (inv_endTest hs1) h))))))

end Sys2Proof.Machine

end

section
/-! SUPPORT. Management messages keep the invariant of O59 (R436, R437, R498, R500, R503, R515, R520). -/

open Sys2Proof Sys2Proof.Machine Sys2Proof.Spec

namespace Sys2Proof.Machine

set_option Elab.async false
variable {s : State}

theorem inv_mctp (h : Spec.Inv s) : Spec.Inv (mctp s) :=
  inv_of_eq h

theorem inv_answer {code status : Byte} {ws : List W32} {rs : List ErrRec} (h : Spec.Inv s) : Spec.Inv (answer code status ws rs s) :=
  inv_emit h

theorem inv_ranged {code : Byte} {ok : Bool} {f : State → State} (hf : ∀ {s}, Spec.Inv s → Spec.Inv (f s)) (h : Spec.Inv s) : Spec.Inv
    (ranged code ok f s) :=
  inv_ite (hf (inv_mctp h)) (inv_answer (inv_mctp h))

/-! ### SPDM (R436, R437) -/

theorem inv_spdmIn {p : SpdmPort} (h : Spec.Inv s) : Spec.Inv (spdmIn p s) :=
  inv_ite (inv_mctp h) h

theorem inv_spdmErr {p : SpdmPort} {code : Nat} (h : Spec.Inv s) : Spec.Inv (spdmErr p code s) :=
  inv_emit h

theorem inv_spdmOpen {p : SpdmPort} {f : State → State} (hf : ∀ {s}, Spec.Inv s → Spec.Inv (f s)) (h : Spec.Inv s) : Spec.Inv (spdmOpen p f s) :=
  inv_ite (inv_spdmErr h) (hf (inv_spdmIn h))

theorem inv_spdmRest {p : SpdmPort} {f : State → State} (hf : ∀ {s}, Spec.Inv s → Spec.Inv (f s)) (h : Spec.Inv s) : Spec.Inv (spdmRest p f s) :=
  inv_ite (inv_spdmErr h) (inv_ite (inv_spdmIn h) (inv_ite (inv_spdmErr (inv_spdmIn h)) (hf (inv_spdmIn h))))

theorem inv_signedResp {p : SpdmPort} {code : Byte} {ws : List W32} {ds : List Nat} (h : Spec.Inv s) : Spec.Inv (signedResp p code ws ds s) :=
  inv_emit (inv_tickFresh h)

end Sys2Proof.Machine

end

section
/-! SUPPORT. Every command keeps the invariant of O59, and so does a step (R352, R497, R498). -/

open Sys2Proof Sys2Proof.Machine Sys2Proof.Spec

namespace Sys2Proof.Machine

set_option Elab.async false
variable {s : State}

/-- Records returned stay in the management queue, marked (R498). -/
theorem takeRecords_length (n : Nat) (q : List MgmtRec) : (takeRecords n q).2.length = q.length := by
  induction q generalizing n with
  | nil => cases n <;> rfl
  | cons r q ih =>
    cases n with
    | zero => rfl
    | succ n =>
      unfold takeRecords
      split
      · exact congrArg (· + 1) (ih (n + 1))
      · exact congrArg (· + 1) (ih n)

theorem inv_expireIf {expiry : Bool} {mb : Nat} (h : Spec.Inv s) : Spec.Inv ((if expiry then expire mb else id) s) := by
  split
  · exact inv_expire h
  · exact h

theorem answers_execRelSeq {mb : Fin 114} {m : Master} {v : RelWrite} (h : Spec.Inv s) : Answers (execRelSeq mb m v s) := by
  refine answers_next ?_
  split
  · exact inv_expireIf (inv_ite (inv_releaseBy (inv_senderFirst h)) (inv_senderFirst h))
  · exact inv_expireIf (inv_senderFirst (inv_ite (inv_clearCollision h) h))

theorem inv_mgmtQ {q : List MgmtRec} {loss : Bool} (h : Spec.Inv s) (hq : q.length ≤ s.err.mgmtQ.length) :
    Spec.Inv { s with err := { s.err with mgmtQ := q, mgmtLoss := loss } } := by
  obtain ⟨hmem, hhost, hmgmt⟩ := h
  exact ⟨hmem, hhost, hq.trans hmgmt⟩

theorem answers_execGetRecords {n : Byte} (h : Spec.Inv s) : Answers (execGetRecords n s) :=
  answers_next (inv_ranged (fun h => inv_of_eq (inv_mgmtQ h (takeRecords_length ..).le)) h)

theorem answers_execAckRecords {seq : W32} (h : Spec.Inv s) : Answers (execAckRecords seq s) := by
  have hsent : Spec.Inv (mctp s) := inv_of_eq h
  exact answers_next (inv_of_eq (inv_mgmtQ (loss := (mctp s).err.mgmtLoss) hsent (List.length_filter_le ..)))

theorem answers_execIdeRekey (h : Spec.Inv s) : Answers (execIdeRekey s) := by
  refine answers_next (inv_ite h (inv_msix (inv_forAll (fun hs => inv_ite (inv_ringOn hs) hs) (inv_startReads ?_))))
  exact inv_forAll inv_sendHeld (inv_with_host h)

theorem answers_execRegisterWrite {off : Off} {v : W64} {wide : Bool} (h : Spec.Inv s) : Answers (execRegisterWrite off v wide s) := by
  refine answers_next (inv_ite (inv_badAccessAt h) (inv_ite h (inv_ite (inv_take64 h) (inv_ite (inv_lowWrite h) ?_))))
  split
  · exact inv_highWrite h
  · exact inv_hostWrite32 h

theorem answers_execReg64LowRead {off : Off} (h : Spec.Inv s) : Answers (execReg64LowRead off s) := by
  unfold execReg64LowRead
  refine answers_next ?_
  split
  · exact inv_emit h
  · split
    · exact h
    · exact inv_emit (inv_of_eq h)

theorem answers_execReg64HighWrite {off : Off} {hi : W32} (h : Spec.Inv s) : Answers (execReg64HighWrite off hi s) := by
  unfold execReg64HighWrite
  refine answers_next ?_
  split
  · exact h
  · split
    · exact h
    · exact inv_highWrite h

theorem answers_execMailboxDataWrite {mb : Fin 114} {m : Master} {i : SenderWord} {v : W32} (h : Spec.Inv s) : Answers
    (execMailboxDataWrite mb m i v s) := by
  unfold execMailboxDataWrite
  refine answers_next ?_
  split
  · exact inv_ite (inv_dataWrite h) h
  · exact inv_ite (inv_setMbox h) h

theorem answers_execPacketFetch {r : Fin 256} {entries : List (BitVec 512)} (h : Spec.Inv s) : Answers (execPacketFetch r entries s) := by
  unfold execPacketFetch
  refine answers_next ?_
  split
  · exact h
  · extract_lets s1
    have hs1 : Spec.Inv s1 := inv_modRing (inv_dropReads h)
    exact inv_ite (inv_removeQueued (inv_ringOn hs1)) (inv_ringOn hs1)

theorem answers_execPacketDispatch {r : Fin 256} {fault : Bool} {d : CmdData} (h : Spec.Inv s) : Answers (execPacketDispatch r fault d s) := by
  unfold execPacketDispatch
  refine answers_next ?_
  split
  · exact inv_retryRing (inv_resetQueue h)
  · split
    · exact h
    · exact inv_retryRing (inv_dispatch (inv_popQueue h))

theorem answers_execHostReadComplete {id : Nat} {ok : Bool} (h : Spec.Inv s) : Answers (execHostReadComplete id ok s) := by
  unfold execHostReadComplete
  refine answers_next ?_
  split
  · exact h
  · exact inv_ite (inv_dropRead h) (inv_failRead (inv_dropRead h))

theorem answers_execHostReadTimeout {id : Nat} (h : Spec.Inv s) : Answers (execHostReadTimeout id s) := by
  unfold execHostReadTimeout
  refine answers_next ?_
  split
  · exact h
  · split
    · exact h
    · extract_lets _ s1
      have hs1 : Spec.Inv s1 := inv_of_eq h
      exact inv_ite (inv_failRead (inv_raise (inv_dropRead hs1))) (inv_of_eq hs1)

theorem answers_execTokenFill {rec : Fin 262144} {tokens : List W32} (h : Spec.Inv s) : Answers (execTokenFill rec tokens s) := by
  unfold execTokenFill
  refine answers_next ?_
  split
  · exact h
  · extract_lets ts s0
    have hs0 : Spec.Inv s0 := inv_dropReads h
    exact inv_ite (inv_failWork hs0) (inv_fillRing hs0)

theorem answers_execPowerLimitSet {src : Source} {watts : W32} (h : Spec.Inv s) : Answers (execPowerLimitSet src watts s) := by
  unfold execPowerLimitSet
  refine answers_next ?_
  split
  · exact inv_msgLimitSet h
  · exact inv_emit (inv_ite (inv_acceptLimit (inv_of_eq h)) (inv_of_eq h))

theorem answers_execGetMeasurements {p : SpdmPort} {index : Byte} {nonce : BitVec 256} (h : Spec.Inv s) : Answers
    (execGetMeasurements p index nonce s) := by
  unfold execGetMeasurements
  refine answers_next ?_
  refine inv_spdmRest (fun h1 => ?_) h
  extract_lets i
  exact inv_ite (inv_signedResp h1) (inv_ite (inv_signedResp h1) (inv_ite (inv_signedResp h1) (inv_spdmErr h1)))

theorem answers_execCopyComplete {rec : Fin 262144} (h : Spec.Inv s) : Answers (execCopyComplete rec s) := by
  unfold execCopyComplete
  refine answers_next ?_
  split
  · exact h
  · extract_lets b t s1
    have hs1 : Spec.Inv s1 := inv_bumpHome (inv_modCtx h)
    split
    · exact hs1
    · extract_lets s2
      have hs2 : Spec.Inv s2 := by
        unfold s2
        split
        · exact inv_copyPages hs1
        · exact hs1
      exact inv_modNode (inv_modCtxRun hs2)

theorem answers_execBeatEdge (h : Spec.Inv s) : Answers (execBeatEdge s) := by
  unfold execBeatEdge
  refine answers_next ?_
  split
  · exact h
  · extract_lets s1 s2
    have hs1 : Spec.Inv s1 := inv_resolveDue (inv_gateClusters (inv_countReads (inv_countBeat (inv_countBelow (inv_sendRequests h)))))
    have hs2 : Spec.Inv s2 := inv_ite (inv_sendBeat hs1) (inv_missingWord hs1)
    exact inv_ite hs2 (inv_endSwitches (inv_switchStages (inv_epochStages hs2)))

theorem answers_execPortTrainingComplete {k : Fin 8} {raw : Nat} {lanesOk : Bool} (h : Spec.Inv s) : Answers
    (execPortTrainingComplete k raw lanesOk s) := by
  unfold execPortTrainingComplete
  refine answers_next ?_
  split
  · exact h
  · extract_lets ok _ s1 mine
    have hs1 : Spec.Inv s1 := inv_setPort h
    exact inv_ite (inv_formFail hs1) (inv_ite (inv_sendForm hs1) hs1)

theorem answers_execDomainFaultNotice {cause : BitVec 4} {src : Sender} (h : Spec.Inv s) : Answers (execDomainFaultNotice cause src s) := by
  unfold execDomainFaultNotice
  refine answers_next ?_
  extract_lets pos s1
  have hs1 : Spec.Inv s1 := inv_passNotice h
  exact inv_ite h (inv_ite (inv_domainFault (inv_of_eq hs1)) hs1)

theorem answers_execStretchEnd (h : Spec.Inv s) : Answers (execStretchEnd s) := by
  unfold execStretchEnd
  refine answers_next ?_
  split
  · exact h
  · exact inv_ite h (inv_forAll inv_settlePlane (inv_of_eq h))

theorem answers_execFlitLost {x : PortLoss} (h : Spec.Inv s) : Answers (execFlitLost x s) := by
  unfold execFlitLost
  refine answers_next ?_
  split
  · exact h
  · split
    · exact inv_ite (inv_emit (inv_setPort h)) (inv_ite (inv_emit (inv_setPort h)) h)
    · exact inv_ite (inv_sendNotices (inv_setPort h)) (inv_ite (inv_setPort h) h)

theorem answers_execEpisodeExhausted {x : PortHeld} (h : Spec.Inv s) : Answers (execEpisodeExhausted x s) := by
  unfold execEpisodeExhausted
  refine answers_next ?_
  split
  · exact h
  · extract_lets s1 s2
    have hs1 : Spec.Inv s1 := inv_setPort h
    have hs2 : Spec.Inv s2 := inv_forAll (fun h1 => inv_sendBack (inv_emit h1)) hs1
    exact inv_ite (inv_domainFault hs2) hs2

theorem answers_execErrorCompletion {txn : BitVec 24} (h : Spec.Inv s) : Answers (execErrorCompletion txn s) := by
  unfold execErrorCompletion
  refine answers_next ?_
  split
  · exact inv_of_eq h
  · extract_lets _ s2
    have hs2 : Spec.Inv s2 := inv_dropTxn (inv_of_eq h)
    exact inv_ite (inv_domainFault hs2) (inv_sendTxn (inv_emit hs2))

theorem answers_execTransactionReceived {src : Sender} {txn : TxnData} (h : Spec.Inv s) : Answers (execTransactionReceived src txn s) := by
  unfold execTransactionReceived
  refine answers_next ?_
  refine inv_sendFlits (inv_emit ?_)
  split
  · exact h
  · split
    · exact h
    · exact inv_writeOp h

theorem answers_execTransactionTimeout {txn : BitVec 24} (h : Spec.Inv s) : Answers (execTransactionTimeout txn s) := by
  unfold execTransactionTimeout
  refine answers_next ?_
  split
  · exact h
  · exact inv_ite h (inv_domainFault (inv_raise (inv_dropTxn (inv_of_eq h))))

theorem answers_execScrubComplete {core : Fin 2016} {fail : Bool} (h : Spec.Inv s) : Answers (execScrubComplete core fail s) := by
  unfold execScrubComplete
  refine answers_next ?_
  split
  · exact h
  · extract_lets hit o1 _ s1
    have hs1 : Spec.Inv s1 := inv_of_eq h
    exact inv_ite (inv_failCore (inv_ite (inv_forAll (fun h1 => inv_modBrun (inv_modEntry h1)) hs1) hs1)) (inv_of_eq hs1)

theorem answers_execPointSettle {cluster : Fin 112} (h : Spec.Inv s) : Answers (execPointSettle cluster s) := by
  unfold execPointSettle
  refine answers_next ?_
  split
  · exact inv_ite h (inv_modCluster h)
  · exact h

theorem answers_execMaintenanceWindowEnd {k : Fin 2016} (h : Spec.Inv s) : Answers (execMaintenanceWindowEnd k s) := by
  unfold execMaintenanceWindowEnd
  refine answers_next ?_
  split
  · exact h
  · exact inv_ite h (inv_endWindow h)

theorem answers_execPassSlot {e : EngineSlot} (h : Spec.Inv s) : Answers (execPassSlot e s) := by
  unfold execPassSlot
  refine answers_next ?_
  extract_lets e g
  split
  · exact inv_ite (inv_useSlot (inv_runPass h)) h
  · exact h

theorem answers_execSplitHalf {e : EngineSlot} (h : Spec.Inv s) : Answers (execSplitHalf e s) := by
  unfold execSplitHalf
  refine answers_next ?_
  extract_lets e
  split
  · exact inv_useSlot (inv_runHalf h)
  · exact h

theorem answers_execLayerStepStatus {b : Fin 4096} {remote : CoreStatus} (h : Spec.Inv s) : Answers (execLayerStepStatus b remote s) := by
  unfold execLayerStepStatus
  refine answers_next ?_
  split
  · exact h
  · split
    · exact h
    · extract_lets group q p st dirty impl carried s1 s2
      have hs1 : Spec.Inv s1 := inv_forAll inv_judgeCore h
      have hs2 : Spec.Inv s2 := inv_ite (inv_modBrun hs1) hs1
      exact inv_ite (inv_forAll inv_commitCore hs2) (inv_ite (inv_forAll (fun h1 => inv_bump (inv_replayCore h1)) hs2)
        (inv_ite (inv_forAll (fun h1 => inv_requestStretch (inv_bump (inv_replayCore h1))) hs2) (inv_abandonLayer hs2)))

theorem answers_execReduceResultArrival {k : Fin 2016} {d : ReduceMsg} (h : Spec.Inv s) : Answers (execReduceResultArrival k d s) := by
  unfold execReduceResultArrival
  refine answers_next ?_
  split
  · exact h
  · exact inv_ite (inv_takeResult h) (inv_takePartial h)

theorem answers_execMergeStateArrival {k : Fin 2016} {d : MergeMsg} (h : Spec.Inv s) : Answers (execMergeStateArrival k d s) := by
  unfold execMergeStateArrival
  refine answers_next ?_
  split
  · exact h
  · split
    · exact inv_takeMerged h
    · split
      · exact inv_mergeOn (inv_endMergeWait h)
      · exact inv_modCore h

theorem answers_execOverrun {k : Fin 2016} (h : Spec.Inv s) : Answers (execOverrun k s) := by
  unfold execOverrun
  refine answers_next ?_
  split
  · exact h
  · split
    · exact h
    · exact inv_overrun h

theorem answers_execProgramStart {n : ProgStart} (h : Spec.Inv s) : Answers (execProgramStart n s) := by
  unfold execProgramStart
  refine answers_next ?_
  extract_lets n e
  split
  · exact h
  · split
    · exact inv_ite h (inv_ite (inv_abandonProgram h) (inv_ite (inv_withMaster inv_nextAttempt h) h))
    · split
      · exact h
      · exact inv_ite h (inv_ite h (inv_withMaster inv_startProgram h))

theorem answers_execEraseComplete {e : Fin 34272} {cells : List CellRead} (h : Spec.Inv s) : Answers (execEraseComplete e cells s) := by
  unfold execEraseComplete
  refine answers_next ?_
  split
  · exact h
  · exact inv_ite h (inv_modEngine (inv_modPlane h))

theorem answers_execRowIteration {e : Fin 34272} {cells : List CellRead} (h : Spec.Inv s) : Answers (execRowIteration e cells s) := by
  unfold execRowIteration
  refine answers_next ?_
  split
  · exact h
  · exact inv_ite h (inv_ite (inv_ite (inv_abandonProgram h) (inv_ite (inv_iterate h) h)) (inv_ite h (inv_iterate h)))

theorem answers_execProgramAttemptEnd {e : Fin 34272} (h : Spec.Inv s) : Answers (execProgramAttemptEnd e s) := by
  unfold execProgramAttemptEnd
  refine answers_next ?_
  split
  · exact h
  · exact inv_ite h (inv_ite (inv_abandonProgram h) (inv_attemptEnd h))

theorem answers_execCalibrationMeasurementComplete {e : Fin 34272} {volts : List (List Int)} (h : Spec.Inv s) : Answers
    (execCalibrationMeasurementComplete e volts s) := by
  unfold execCalibrationMeasurementComplete
  refine answers_next ?_
  split
  · exact h
  · exact inv_calOutcome (inv_of_eq h)

theorem answers_execTestForce {k : Fin 2016} (h : Spec.Inv s) : Answers (execTestForce k s) := by
  unfold execTestForce
  refine answers_next ?_
  split
  · exact h
  · exact inv_ite h (inv_when inv_bump (inv_requestStretch (inv_modCore h)))

/-- What every command answers meets the invariant. -/
theorem answers_exec (h : Spec.Inv s) (i : Instr) : Answers (exec i s) :=
  match i with
  | .registerWrite _ _ _ => answers_execRegisterWrite h
  | .badAccess _ _ _ _ => answers_next (inv_ite (inv_badAccessAt h) h)
  | .reg64LowRead _ => answers_execReg64LowRead h
  | .reg64LowWrite _ _ => answers_next (inv_ite (inv_lowWrite h) h)
  | .reg64HighWrite _ _ => answers_execReg64HighWrite h
  | .enable _ => answers_next (inv_ite (inv_requestEnable h) h)
  | .mailboxDataWrite _ _ _ _ => answers_execMailboxDataWrite h
  | .go _ _ _ => answers_next (inv_ite (inv_sendGo h) h)
  | .mailboxAckTimeout _ => answers_next (inv_expire h)
  | .lockTake _ _ => answers_next (inv_forAll inv_readLock (inv_forAll inv_writeLock h))
  | .lockRelease _ _ _ => answers_next (inv_writeLock h)
  | .sqEnable _ _ => answers_next (inv_ite h (inv_sqControl h))
  | .ringFlush _ _ => answers_next (inv_ite h (inv_sqControl h))
  | .sqTail _ _ => answers_next (inv_ite h (inv_sqTailWrite h))
  | .cqEnable _ _ => answers_next (inv_ite h (inv_cqControl h))
  | .cqHead _ _ => answers_next (inv_ite h (inv_cqHeadWrite h))
  | .quiesce _ => answers_next (inv_ite h (inv_startQuiesce h))
  | .d3hotWrite => answers_next (inv_startQuiesce h)
  | .quiesceComplete => answers_next (inv_ite h (inv_msix (inv_with_host (inv_ite (inv_doLeave h) h))))
  | .hostTimersWrite _ => answers_next (inv_ite h (inv_hostTimers h))
  | .transactionTimersWrite _ _ => answers_next (inv_ite (inv_txnTimers (inv_byMgmt h)) h)
  | .erEnable _ => answers_next (inv_erControl h)
  | .erHead _ => answers_next (inv_erHeadWrite h)
  | .snap _ => answers_next (inv_ite h (inv_snapshot h))
  | .mapWrite _ _ _ => answers_next (inv_ite (inv_clearRefused (inv_byMgmt h)) (inv_ite (inv_mapWriteAt (inv_byMgmt h)) h))
  | .join _ _ => answers_next (inv_ite (inv_fabricControl (inv_byMgmt h)) h)
  | .leave _ _ => answers_next (inv_ite (inv_fabricControl (inv_byMgmt h)) h)
  | .packetFetch _ _ => answers_execPacketFetch h
  | .packetDispatch _ _ _ => answers_execPacketDispatch h
  | .bindLoad _ _ => answers_next (inv_asPacket inv_doBindLoad h)
  | .bindSwitch _ => answers_next (inv_asPacket inv_doBindSwitch h)
  | .unbind _ => answers_next (inv_asPacket inv_doUnbind h)
  | .unbindByTenant _ => answers_next (inv_asPacket inv_doUnbindByTenant h)
  | .prefillOpen _ _ => answers_next (inv_asPacket inv_doOpen h)
  | .prefillExtend _ _ => answers_next (inv_asPacket inv_doExtend h)
  | .generate _ _ => answers_next (inv_asPacket inv_doGenerate h)
  | .cancel _ => answers_next (inv_asPacket inv_doCancel h)
  | .flush _ => answers_next (inv_asPacket inv_doFlush h)
  | .queryBinding _ _ => answers_next (inv_asPacket inv_doQuery h)
  | .queryContext _ _ => answers_next (inv_asPacket inv_doQuery h)
  | .queryPlanes _ _ => answers_next (inv_asPacket inv_doQuery h)
  | .queryCellMap _ _ => answers_next (inv_asPacket inv_doQuery h)
  | .coalesceTimeout _ => answers_next (inv_ite (inv_ite (inv_msix (inv_of_eq h)) h) (inv_ite (inv_restartVector (inv_msix h)) h))
  | .hostReadComplete _ _ => answers_execHostReadComplete h
  | .hostReadTimeout _ => answers_execHostReadTimeout h
  | .linkReplayEpisode => answers_next (inv_of_eq h)
  | .linkRecoveryEntry => answers_next (inv_of_eq h)
  | .linkRecoveryExit => answers_next (inv_of_eq h)
  | .linkDown => answers_next (inv_ite (inv_of_eq h) (inv_warmRestart h))
  | .functionLevelReset => answers_next (inv_warmRestart h)
  | .hotReset => answers_next (inv_warmRestart h)
  | .perstDeassert _ _ => answers_next (inv_ite (inv_of_eq h) (inv_trainLink (inv_of_eq h)))
  | .ideFailure _ => answers_next (inv_ite h (inv_msix (inv_raise (inv_failReads (inv_of_eq h)))))
  | .ideRekey => answers_execIdeRekey h
  | .tokenFill _ _ => answers_execTokenFill h
  | .errorRingWrite => answers_next (inv_ite h (inv_writeErr h))
  | .ping => answers_next (inv_msgPing h)
  | .calendarSet => answers_next (inv_msgCalendarSet h)
  | .calendarGet => answers_next (inv_msgCalendarGet h)
  | .powerLimitSet _ _ => answers_execPowerLimitSet h
  | .powerLimitGet => answers_next (inv_msgLimitGet h)
  | .getCper _ => answers_next (inv_ranged inv_emit h)
  | .getCounts => answers_next (inv_answer (inv_mctp h))
  | .getLarder => answers_next (inv_answer (inv_mctp h))
  | .getEvents _ _ => answers_next (inv_ranged inv_emit h)
  | .getAgeing _ _ => answers_next (inv_ranged inv_emit h)
  | .getPlanes _ _ => answers_next (inv_ranged inv_answer h)
  | .setCalendar _ _ => answers_next (inv_ranged (fun h1 => inv_answer (inv_acceptCalendar h1)) h)
  | .i3cAddressAssign _ => answers_next (inv_ite h (inv_of_eq h))
  | .getVersion _ => answers_next (inv_spdmOpen (fun h1 => inv_emit (inv_of_eq h1)) h)
  | .getCapabilities _ => answers_next (inv_spdmOpen inv_emit h)
  | .negotiateAlgorithms _ => answers_next (inv_spdmOpen (fun h1 => inv_emit (inv_of_eq h1)) h)
  | .getDigests _ => answers_next (inv_spdmRest inv_emit h)
  | .getCertificate _ _ _ _ => answers_next (inv_spdmRest (fun h1 => inv_ite (inv_spdmErr h1) (inv_emit h1)) h)
  | .challenge _ _ _ => answers_next (inv_spdmRest (fun h1 => inv_ite (inv_spdmErr h1) (inv_signedResp h1)) h)
  | .getMeasurements _ _ _ => answers_execGetMeasurements h
  | .keyExchange _ _ _ => answers_next (inv_spdmRest (fun h1 => inv_ite (inv_spdmErr h1) (inv_signedResp (inv_of_eq h1))) h)
  | .finish _ _ => answers_next (inv_spdmRest (fun h1 => inv_ite (inv_emit (inv_of_eq h1)) (inv_spdmErr h1)) h)
  | .endSession _ _ => answers_next (inv_spdmRest (fun h1 => inv_ite (inv_emit (inv_of_eq h1)) (inv_spdmErr h1)) h)
  | .copyComplete _ => answers_execCopyComplete h
  | .beatEdge => answers_execBeatEdge h
  | .beatWordReceived _ _ => answers_next (inv_ite h (inv_ite (inv_ite (inv_ite (inv_sendBeat (inv_formBeat h)) (inv_formBeat h)) h)
    (inv_ite h (inv_ite (inv_beatMiss (inv_ite (inv_sendBeat (inv_of_eq h)) (inv_of_eq h)))
    (inv_takeToken (inv_ite (inv_sendBeat (inv_of_eq h)) (inv_of_eq h)))))))
  | .beatLoss => answers_next (inv_ite (inv_domainFault h) h)
  | .beatLock => answers_next (inv_ite (inv_of_eq h) h)
  | .formationWord _ => answers_next (inv_ite h (inv_ite (inv_formFail h)
    (inv_ite (inv_formFail h) (inv_ite (inv_formFail h) (inv_ite (inv_sendBeat (inv_firstBeat h)) (inv_sendForm h))))))
  | .formationTimeout => answers_next (inv_formFail h)
  | .portTrainingComplete _ _ _ => answers_execPortTrainingComplete h
  | .domainFaultNotice _ _ => answers_execDomainFaultNotice h
  | .cableDisconnect _ => answers_next (inv_loseBond h)
  | .bondDown _ => answers_next (inv_loseBond h)
  | .stretchRequestWord _ => answers_next (inv_ite h (inv_ite (inv_sendRequest h) (inv_ite (inv_of_eq h) (inv_of_eq h))))
  | .stretchResolve _ => answers_next (inv_ite h (inv_resolveBeat h))
  | .stretchStart => answers_next (inv_ite (inv_of_eq h) h)
  | .stretchEnd => answers_execStretchEnd h
  | .flitLost _ => answers_execFlitLost h
  | .episodeExhausted _ => answers_execEpisodeExhausted h
  | .retryNotice _ => answers_next (inv_of_eq h)
  | .errorCompletion _ => answers_execErrorCompletion h
  | .transactionReceived _ _ => answers_execTransactionReceived h
  | .acknowledgement _ => answers_next (inv_dropTxn h)
  | .transactionTimeout _ => answers_execTransactionTimeout h
  | .readyMessage _ => answers_next (inv_ite (inv_leadReady h) h)
  | .refusalMessage _ => answers_next (inv_ite (inv_leadRefusal h) h)
  | .epochMessage _ => answers_next (inv_ite (inv_memberEpoch h) h)
  | .abortMessage _ => answers_next (inv_ite (inv_memberAbort h) h)
  | .readyWaitTimeout => answers_next (inv_forAll inv_leadAbort h)
  | .epochWaitTimeout => answers_next (inv_forAll inv_memberAbort h)
  | .switchEpoch => answers_next (inv_forAll inv_beginSwitch h)
  | .scrubComplete _ _ => answers_execScrubComplete h
  | .switchHandover => answers_next (inv_forAll inv_handover h)
  | .monitorSample _ _ _ => answers_next (inv_ite (inv_setConv (inv_takeSample h)) h)
  | .windowEnd _ => answers_next (inv_windowEnd h)
  | .powerWindowEnd _ _ => answers_next (inv_powerWindow h)
  | .pointSettle _ => answers_execPointSettle h
  | .replanComplete _ _ => answers_next (inv_replan h)
  | .clusterPowerGate _ => answers_next (inv_ite (inv_modCluster h) h)
  | .trivetTrip _ => answers_next (inv_ite inv_trip h)
  | .trivetRelease => answers_next (inv_ite h (inv_ite (inv_of_eq h) inv_tripStart))
  | .inputLoss => answers_next (inv_inputLost h)
  | .inputRestore => answers_next (inv_ite h (inv_ite (inv_of_eq h) inv_coldStart))
  | .pwrSenseOpen => answers_next (inv_inputLost (inv_of_eq h))
  | .modResetLow => answers_next (inv_ite h (inv_with_su inv_cutRails))
  | .modResetHigh => answers_next (inv_ite h (inv_ite inv_coldStart (inv_of_eq h)))
  | .flashOwnAssert => answers_next (inv_of_eq h)
  | .flashOwnDeassert => answers_next (inv_ite (inv_enterImage (inv_of_eq h)) (inv_of_eq h))
  | .coldStart => answers_next (inv_ite inv_coldStart h)
  | .startupPhaseEnd _ => answers_next (inv_phaseEnd h)
  | .clusterWake _ => answers_next (inv_ite h (inv_ite (inv_ite (inv_setMbox (inv_ite (inv_setMbox (inv_ungate h)) (inv_ungate h)))
    (inv_ite (inv_setMbox (inv_ungate h)) (inv_ungate h))) (inv_ite (inv_setMbox (inv_ungate h)) (inv_ungate h))))
  | .fold => answers_next (inv_beginFold h)
  | .counterRecordTimer => answers_next (inv_ite (inv_writeCounters h) h)
  | .eventTokenRestore => answers_next (inv_of_eq h)
  | .flashPageWriteComplete => answers_next (inv_ite h (inv_pageComplete h))
  | .larderViewUpdate => answers_next (inv_ite (inv_updateView h) h)
  | .calendarTick => answers_next (inv_calendarTick h)
  | .holdUpEnd => answers_next (inv_ite h (inv_of_eq h))
  | .snoop _ => answers_next (inv_emit h)
  | .conventionalReset => answers_next (inv_warmRestart (inv_of_eq h))
  | .nop _ _ => answers_next (inv_issue id h)
  | .lstep _ _ => answers_next (inv_issueTo inv_openLayer h)
  | .stepend _ _ => answers_next (inv_issueTo inv_stepEnd h)
  | .select _ _ => answers_next (inv_issue inv_selectRec h)
  | .mwin _ _ => answers_next (inv_issueTo inv_openWindow h)
  | .maintenanceWindowEnd _ => answers_execMaintenanceWindowEnd h
  | .quant _ _ => answers_next (inv_issue inv_quant h)
  | .pass _ _ => answers_next (inv_issueTo inv_queuePass h)
  | .passSlot _ => answers_execPassSlot h
  | .splitHalf _ => answers_execSplitHalf h
  | .sieve _ _ => answers_next (inv_issue inv_sieve h)
  | .chain _ _ => answers_next (inv_issueTo inv_chain h)
  | .chainArrival _ _ => answers_next (inv_ite (inv_receiveSum h) h)
  | .tail _ _ => answers_next (inv_issueTo inv_tail h)
  | .layerStepStatus _ _ => answers_execLayerStepStatus h
  | .reduce _ _ => answers_next (inv_issueTo inv_reduce h)
  | .reduceResultArrival _ _ => answers_execReduceResultArrival h
  | .act _ _ => answers_next (inv_issue inv_act h)
  | .pool _ _ => answers_next (inv_issue inv_pool h)
  | .score _ _ => answers_next (inv_issue inv_score h)
  | .smax _ _ => answers_next (inv_issue inv_smax h)
  | .value _ _ => answers_next (inv_issue inv_value h)
  | .merge _ _ => answers_next (inv_issueTo inv_mergeRec h)
  | .mergeStateArrival _ _ => answers_execMergeStateArrival h
  | .ovf _ _ => answers_next (inv_issue inv_ovf h)
  | .walk _ _ => answers_next (inv_issueTo inv_walk h)
  | .kvfetch _ _ => answers_next (inv_issueTo inv_kvfetch h)
  | .kvappend _ _ => answers_next (inv_issueTo inv_kvappend h)
  | .gather _ _ => answers_next (inv_issue inv_gather h)
  | .load _ _ => answers_next (inv_issue inv_copyBytes h)
  | .store _ _ => answers_next (inv_issue inv_copyBytes h)
  | .overrun _ => answers_execOverrun h
  | .ringBlockArrival _ _ => answers_next (inv_ite h (inv_modCore h))
  | .programStart _ => answers_execProgramStart h
  | .eraseComplete _ _ => answers_execEraseComplete h
  | .rowIteration _ _ => answers_execRowIteration h
  | .programAttemptEnd _ => answers_execProgramAttemptEnd h
  | .adoptionComplete _ _ => answers_next (inv_ite h (inv_ite (inv_adopt h) h))
  | .calibrationStart _ => answers_next (inv_ite h (inv_modEngine (inv_ite (inv_startCalRun h) h)))
  | .calibrationMeasurementComplete _ _ => answers_execCalibrationMeasurementComplete h
  | .testDue _ => answers_next (inv_ite h (inv_katDueAt h))
  | .testForce _ => answers_execTestForce h
  | .katStart _ => answers_next (inv_ite (inv_modCore h) h)
  | .katComplete _ _ => answers_next (inv_ite (inv_katEnd h) h)
  | .relSeq _ _ _ => answers_execRelSeq h
  | .ackGo _ _ _ => answers_next (inv_expireIf (inv_ite (inv_ackBy (inv_senderFirst h)) (inv_senderFirst h)))
  | .getRecords _ => answers_execGetRecords h
  | .ackRecords _ => answers_execAckRecords h

end Sys2Proof.Machine

/-- Settles O59: the queue's rest is no part of the invariant, and every command keeps it. -/
theorem stepKeepsInvariant : Obligations.StepKeepsInvariant := by
  unfold Obligations.StepKeepsInvariant
  intro s t h hstep
  unfold Sys2Proof.Machine.step at hstep
  split at hstep
  next =>
    cases hstep
    exact h
  next c rest _ => exact answers_exec (s := { s with pending := rest }) h c t hstep

end

section
/-! SUPPORT. What a packet's command finds when it is taken (R374, R389), and the final completion entry that answers it (R386). -/

open Sys2Proof Sys2Proof.Machine Sys2Proof.Spec

namespace Sys2Proof.Machine

/-! ### A packet taken -/

theorem ring_acceptedPacket (c : Cmd) (k : Nat) (s : State) : ring (acceptedPacket c k s) c.ring =
    { ring s c.ring with accepted := (ring s c.ring).accepted + 1, outstanding := (ring s c.ring).outstanding + 1,
                         reserved := (ring s c.ring).reserved + k } :=
  ring_setRing_same ..

theorem offHostOut_acceptedPacket (c : Cmd) (k : Nat) (s : State) : offHostOut (acceptedPacket c k s) = offHostOut s := rfl

theorem bindingStatus_acceptedPacket (c : Cmd) (k : Nat) (placement : Bool) (s : State) :
    bindingStatus (acceptedPacket c k s) c placement = bindingStatus s c placement := by
  unfold bindingStatus
  rw [ring_acceptedPacket]; rfl

/-! ### The final entry -/

/-- What decides whether an entry that answers a command is written at once: completions are enabled on its ring, and the link's
encryption holds nothing (R367, R386). -/
def entryGate (c : Cmd) (s : State) : Bool × Bool := ((ring s c.ring).cqEnable, s.host.ideHold)

theorem entryGate_acceptedPacket (c : Cmd) (k : Nat) (s : State) : entryGate c (acceptedPacket c k s) = entryGate c s := by
  unfold entryGate
  rw [ring_acceptedPacket]; rfl

theorem final_mono {c : Cmd} {status reason detail : Nat} {s t u : State} (h : Final c status reason detail s t) (hout : t.out ⊆ u.out) :
    Final c status reason detail s u := by
  intro hcq hide
  obtain ⟨g, e, hmem, hfields⟩ := h hcq hide
  exact ⟨g, e, hout hmem, hfields⟩

theorem mem_out_finish {r resv : Nat} {e : Compl} {u : State} (hcq : (ring u r).cqEnable = true) (hide : u.host.ideHold = false) :
    ∃ g, complOut r g { e with kind := 0 } ∈ (finish r resv e u).out := by
  have hopen : (ring (releaseResv r resv 1 u) r).cqEnable = true := by
    unfold releaseResv
    rw [if_neg (by simp), ring_modRing_same]
    exact hcq
  obtain ⟨-, -, more, hmore⟩ := putCompl_spec r { e with kind := 0 } (releaseResv r resv 1 u)
  refine ⟨ring (releaseResv r resv 1 u) r, ?_⟩
  unfold finish completeWith putDue
  rw [if_neg (by simp [hide])]
  dsimp only
  rw [if_neg (by simp [hopen]), if_neg (by simp), hmore]
  simp

theorem final_finish {c : Cmd} {status reason detail resv : Nat} {e : Compl} {s u : State} (hgate : entryGate c u = entryGate c s)
    (htag : e.tag = c.tag) (hstatus : e.status = BitVec.ofNat 8 status) (hreason : e.reason = BitVec.ofNat 8 reason)
    (hdetail : e.detail = BitVec.ofNat 32 detail) (hbinding : e.binding = c.binding) :
    Final c status reason detail s (finish c.ring resv e u) := by
  intro hcq hide
  obtain ⟨hcq', hide'⟩ := Prod.ext_iff.mp hgate
  obtain ⟨g, hmem⟩ := mem_out_finish (resv := resv) (e := e) (hcq'.trans hcq) (hide'.trans hide)
  exact ⟨g, _, hmem, htag, rfl, hstatus, hreason, hdetail, hbinding⟩

theorem final_replyRec {c : Cmd} {n status : Nat} {s u : State} (hgate : entryGate c u = entryGate c s) :
    Final c status 0 0 s (replyRec c n status u) :=
  final_finish hgate rfl rfl rfl rfl rfl

theorem final_replyCmd {c : Cmd} {status reason detail : Nat} {s u : State} (hgate : entryGate c u = entryGate c s) :
    Final c status reason detail s (replyCmd (cmdRef c) c.binding.toNat status reason detail u) :=
  final_finish hgate rfl rfl rfl rfl (by simp)

theorem memKept_replyRec (c : Cmd) (n status : Nat) (s : State) : MemKept s (replyRec c n status s) :=
  memKept_of_eq (finish_mem ..) (finish_memKeys ..)

end Sys2Proof.Machine
end

section
/-! SUPPORT. Extensions of an IDLE record (R382), and the statement. -/

open Sys2Proof Sys2Proof.Machine Sys2Proof.Spec

namespace Sys2Proof.Machine

theorem exec_prefillExtend {c : Cmd} {s : State} (h : Taken 0x10 1 c s) (d : CmdData) :
    exec (.prefillExtend c d) s = .next (doExtend c d (acceptedPacket c 1 s)) :=
  congrArg Host.Outcome.next (asPacket_taken h (doExtend c d))

theorem exec_generate {c : Cmd} {s : State} (h : Taken 0x11 1 c s) (d : CmdData) :
    exec (.generate c d) s = .next (doGenerate c d (acceptedPacket c 1 s)) :=
  congrArg Host.Outcome.next (asPacket_taken h (doGenerate c d))

/-- The fields of an extending PREFILL are in their ranges and its addresses are good (R380). -/
def ExtendFields (c : Cmd) (d : CmdData) : Prop :=
  1 ≤ leAt c.payload 16 4 ∧ leAt c.payload 16 4 ≤ 4194304 ∧ leAt c.payload 20 4 ≤ 16777215
    ∧ 4 * leAt c.payload 20 4 ≤ leAt c.payload 44 4 ∧ d.badAddr = false ∧ leAt c.payload 8 8 % 4 = 0 ∧ leAt c.payload 36 8 % 64 = 0

section
variable {c : Cmd} {d : CmdData} {s : State} (hbinding : bindingStatus s c false = none) (hfault : (brun s c.binding.toNat).fabricFault = false)
include hbinding hfault

theorem doExtend_refused {st : Nat} (h : ExtendFields c d) (hst : extendStatus s c = some st) : doExtend c d s = replyRec c 1 st s := by
  obtain ⟨hn, hmax, hgen, hcap, haddr, htokens, hout⟩ := h
  unfold doExtend
  simp only [hbinding, hst]
  rw [if_neg (by simp [hfault]), if_neg (by omega), if_neg (by simp [haddr, htokens, hout])]

theorem doExtend_accepted (h : ExtendFields c d) (hst : extendStatus s c = none)
    (hvocab : ∀ x ∈ d.tokens.take (leAt c.payload 16 4), x.toNat < plVocab (planOf s c.binding.toNat)) : doExtend c d s =
    extend c (leAt c.payload 16 4) (leAt c.payload 20 4) none (leAt c.payload 36 8) (leAt c.payload 44 4) (leAt c.payload 8 8) s := by
  obtain ⟨hn, hmax, hgen, hcap, haddr, htokens, hout⟩ := h
  have hknown : ¬ (d.tokens.take (leAt c.payload 16 4)).any (fun t => decide (plVocab (planOf s c.binding.toNat) ≤ t.toNat)) = true := by
    simpa only [List.any_eq_true, decide_eq_true_eq, not_exists, not_and, not_le] using hvocab
  unfold doExtend
  simp only [hbinding, hst]
  rw [if_neg (by simp [hfault]), if_neg (by omega), if_neg (by simp [haddr, htokens, hout]), if_neg hknown]

end

/-- The fields of a GENERATE are in their ranges and its addresses are good (R380). -/
def GenerateFields (c : Cmd) (d : CmdData) : Prop :=
  1 ≤ leAt c.payload 8 4 ∧ leAt c.payload 8 4 ≤ 16777215 ∧ 4 * leAt c.payload 8 4 ≤ leAt c.payload 24 4 ∧ d.badAddr = false
    ∧ leAt c.payload 16 8 % 64 = 0

section
variable {c : Cmd} {d : CmdData} {s : State} (hbinding : bindingStatus s c false = none) (hfault : (brun s c.binding.toNat).fabricFault = false)
include hbinding hfault

theorem doGenerate_refused {st : Nat} (h : GenerateFields c d) (hst : extendStatus s c = some st) : doGenerate c d s = replyRec c 1 st s := by
  obtain ⟨hn, hmax, hcap, haddr, hout⟩ := h
  unfold doGenerate
  simp only [hbinding, hst]
  rw [if_neg (by simp [hfault]), if_neg (by omega), if_neg (by simp [haddr, hout])]

theorem doGenerate_accepted (h : GenerateFields c d) (hst : extendStatus s c = none) : doGenerate c d s =
    extend c 0 (leAt c.payload 8 4) (if bitOf (leAt c.payload 0 1) 5 then some (leAt c.payload 4 4) else none)
      (leAt c.payload 16 8) (leAt c.payload 24 4) 0 s := by
  obtain ⟨hn, hmax, hcap, haddr, hout⟩ := h
  unfold doGenerate
  simp only [hbinding, hst]
  rw [if_neg (by simp [hfault]), if_neg (by omega), if_neg (by simp [haddr, hout])]

end

theorem tenantOf_of_extendStatus {c : Cmd} {s : State} (h : extendStatus s c = none) : tenantOf s c.record.toNat = c.binding.toNat := by
  unfold extendStatus at h
  dsimp only at h
  split at h
  next => cases h
  next =>
    split at h
    next => cases h
    next =>
      split at h
      next => cases h
      next htenant => exact congrArg BitVec.toNat (not_not.mp htenant)

/-- What an extension of the command leaves waiting for the next boundary. -/
def extensionOf (c : Cmd) (tokens gen : Nat) (floor : Option Nat) (s : State) : Extension :=
  { tokens, gen, keep := bitOf (leAt c.payload 0 1) 2, floor, behind := (brun s (tenantOf s c.record.toNat)).stageReqs.length }

/-- A record that is extended, before its tokens are read. -/
def extended (c : Cmd) (tokens gen : Nat) (floor : Option Nat) (w : Work) (s : State) : State :=
  modCtxRun c.record.toNat (fun q => { q with extend := some (extensionOf c tokens gen floor s) }) (setWork c.record.toNat (some w) s)

theorem extend_eq (c : Cmd) (tokens gen : Nat) (floor : Option Nat) (outAddr outCap tokensAddr : Nat) (s : State) :
    ∃ w : Work, w.cmd = cmdRef c ∧ w.count = 0 ∧ w.opening = false ∧ extend c tokens gen floor outAddr outCap tokensAddr s =
      if tokens = 0 then extended c tokens gen floor w s else readTokens c.record.toNat (extended c tokens gen floor w s) :=
  ⟨_, rfl, rfl, rfl, rfl⟩

theorem extending_extend {c : Cmd} {tokens gen outAddr outCap tokensAddr : Nat} {floor : Option Nat} {s : State}
    (h : extendStatus s c = none) : Extending c c.record.toNat tokens gen floor s (extend c tokens gen floor outAddr outCap tokensAddr s) := by
  obtain ⟨w, hcmd, hcount, hopening, heq⟩ := extend_eq c tokens gen floor outAddr outCap tokensAddr s
  have hreads : offReads (extend c tokens gen floor outAddr outCap tokensAddr s) = offReads (extended c tokens gen floor w s) := by
    rw [heq]
    split
    · rfl
    · exact offReads_startRead ..
  have hwork : workOf (extended c tokens gen floor w s) c.record.toNat = some w := workOf_setWork_same ..
  have hrun (x : Nat) : ctxRun (extend c tokens gen floor outAddr outCap tokensAddr s) x = ctxRun (extended c tokens gen floor w s) x := by
    unfold ctxRun
    rw [srv_of_offReads hreads]
  refine ⟨?_, ⟨w, ?_, hcmd, hcount, hopening⟩, ?_, fun x hx => ?_, ?_, ?_, ?_, ?_, fun htokens => ?_⟩
  · rw [hrun, extended, ctxRun_modCtxRun_same, extensionOf, tenantOf_of_extendStatus h]
  · unfold workOf
    rw [work_of_offReads hreads]
    exact hwork
  · rw [srv_of_offReads hreads]; rfl
  · rw [hrun, extended, ctxRun_modCtxRun, if_neg hx]; rfl
  · exact memKept_of_eq ((congrArg State.mem hreads).trans rfl) ((congrArg State.memKeys hreads).trans rfl)
  · rw [ten_of_offReads hreads]; rfl
  · rw [out_of_offReads hreads]; rfl
  · exact (congrArg State.hw hreads).trans rfl
  · rw [heq, if_neg htokens]
    exact readsTokens_readTokens ..

end Sys2Proof.Machine

/-- Settles O46: the packet taken reaches `extendStatus`, whose code is answered with the serving state kept, and else `extend`. -/
theorem recordsExtended : Obligations.RecordsExtended := by
  unfold Obligations.RecordsExtended
  rintro c d _ s - rfl hbinding hfault haddr
  have hbinding' : bindingStatus (acceptedPacket c 1 s) c false = none := (bindingStatus_acceptedPacket c 1 false s).trans hbinding
  refine ⟨fun htaken hn hmax hgen hcap htokens hout => ?_, fun htaken hn hmax hcap hout => ?_⟩
  · have hfields : ExtendFields c d := ⟨hn, hmax, hgen, hcap, haddr, htokens, hout⟩
    refine ⟨fun st hst => ⟨_, exec_prefillExtend htaken d, ?_⟩, fun hnone hvocab => ⟨_, exec_prefillExtend htaken d, ?_⟩⟩
    · rw [doExtend_refused hbinding' hfault hfields hst]
      exact ⟨final_replyRec (entryGate_acceptedPacket c 1 s), replyRec_srv .., memKept_replyRec c 1 st (acceptedPacket c 1 s)⟩
    · rw [doExtend_accepted hbinding' hfault hfields hnone hvocab]
      exact extending_extend (s := acceptedPacket c 1 s) hnone
  · have hfields : GenerateFields c d := ⟨hn, hmax, hcap, haddr, hout⟩
    refine ⟨fun st hst => ⟨_, exec_generate htaken d, ?_⟩, fun hnone => ⟨_, exec_generate htaken d, ?_⟩⟩
    · rw [doGenerate_refused hbinding' hfault hfields hst]
      exact ⟨final_replyRec (entryGate_acceptedPacket c 1 s), replyRec_srv .., memKept_replyRec c 1 st (acceptedPacket c 1 s)⟩
    · rw [doGenerate_accepted hbinding' hfault hfields hnone]
      exact extending_extend (s := acceptedPacket c 1 s) hnone
end

section
/-! SUPPORT. Loads (R336, R337): what the steps of an accepted load leave, the entry it makes, and the check that makes a binding RESIDENT. -/

open Sys2Proof Sys2Proof.Machine Sys2Proof.Spec

namespace Sys2Proof.Machine

/-! ### What the steps of a load leave -/

/-- What the steps of a load of binding `b` leave: the entries, REFUSALS, the rings and what holds their entries, and the binding's plan,
core map and command. -/
def loadView (b : Nat) (s : State) : SMap BEntry × W32 × SMap Ring × Bool × List Byte × List Nat × Option CmdRef :=
  (s.ten.entries, s.ten.nRefusal, s.host.rings, s.host.ideHold, (brun s b).plan, (brun s b).coreMap, (brun s b).loadCmd)

variable {b : Nat}

theorem loadView_of_eq {s t : State} (hten : t.ten.entries = s.ten.entries) (hruns : t.ten.runs = s.ten.runs)
    (hrefusal : t.ten.nRefusal = s.ten.nRefusal) (hhost : t.host = s.host) : loadView b t = loadView b s := by
  unfold loadView brun
  rw [hten, hruns, hrefusal, hhost]

theorem loadView_modBrun {f : BRun → BRun} {s : State}
    (hf : ∀ r, (f r).plan = r.plan ∧ (f r).coreMap = r.coreMap ∧ (f r).loadCmd = r.loadCmd) : loadView b (modBrun b f s) = loadView b s := by
  obtain ⟨hplan, hmap, hcmd⟩ := hf (brun s b)
  unfold loadView
  rw [brun_modBrun_same, hplan, hmap, hcmd]
  rfl

theorem loadView_abandonStep (s : State) : loadView b (abandonStep b s) = loadView b s := by
  unfold abandonStep
  rw [forAll_keeps (loadView b), forAll_keeps (loadView b)]
  · exact fun _ _ => rfl
  · exact fun _ _ => rfl

theorem loadView_endStep (s : State) : loadView b (endStep b s) = loadView b s := by
  unfold endStep
  dsimp only
  rw [loadView_modBrun, loadView_abandonStep, forAll_keeps (loadView b)]
  · intro k t
    rw [forAll_keeps (loadView b)]
    · rfl
    · exact fun _ _ => rfl
  · exact fun _ => ⟨rfl, rfl, rfl⟩

theorem loadView_putOf (a : Nat) (bs : List Byte) (s : State) : loadView b (putOf b a bs s) = loadView b s := by
  unfold putOf
  split
  · rfl
  · unfold servingFault ownerFault
    refine (loadView_endStep _).trans (loadView_of_eq ?_ ?_ ?_ ?_)
    · rw [raise_ten]
    · rw [raise_ten]
    · rw [raise_ten]
    · rw [raise_host]

theorem loadView_putFrames (fs : List Nat) (bs : List Byte) (s : State) : loadView b (putFrames b fs bs s) = loadView b s := by
  induction fs generalizing bs s with
  | nil => rfl
  | cons f fs ih =>
    unfold putFrames
    split
    · rfl
    · rw [ih, loadView_putOf]

theorem loadView_allocFrame {q f : Nat} {s t : State} (h : allocFrame b q false s = some (f, t)) : loadView b t = loadView b s := by
  unfold allocFrame at h
  dsimp only at h
  rw [if_neg (by simp)] at h
  split at h
  next => cases h
  next =>
    split at h
    next => cases h
    next g hg =>
      obtain ⟨k, m, hkey⟩ := keyFrame_eq g b (setOwner g (.tenant b) s)
      cases h
      rw [hkey]
      rfl

theorem loadView_allocFrames {q n : Nat} {fs gs : List Nat} {s t : State} (h : allocFrames b q false n fs s = some (gs, t)) :
    loadView b t = loadView b s := by
  induction n generalizing fs s with
  | zero => cases h; rfl
  | succ n ih =>
    unfold allocFrames at h
    split at h
    next => cases h
    next f u hu => exact (ih h).trans (loadView_allocFrame hu)

theorem loadView_takeFrames (n : Nat) (s : State) : loadView b (takeFrames b n s).2 = loadView b s := by
  unfold takeFrames
  cases h : allocFrames b (homeCluster s b / 28) false n [] s with
  | none => rfl
  | some x => exact loadView_allocFrames h

theorem loadView_takeSlot (tid pid : W64) (s : State) : loadView b (takeSlot tid pid s) = loadView b s := by
  unfold takeSlot
  split
  · split <;> rfl
  · rfl

theorem loadView_assignPlane (p : List Byte) (tid : W64) (map : List Nat) (u : PlaneUse) (s : State) :
    loadView b (assignPlane b p tid map u s) = loadView b s := by
  unfold assignPlane
  split
  · rfl
  · dsimp only
    split
    · rfl
    · exact loadView_modBrun fun r => ⟨rfl, rfl, rfl⟩

theorem loadView_startRead (w : ReadFor) (s : State) : loadView b (startRead w s) = loadView b s :=
  (congrArg (loadView b) (offReads_startRead w s) :)

theorem loadView_provision (s : State) : loadView b (provision s) = loadView b s := rfl

/-- A fold that carries frames beside the state keeps what its steps keep of the state. -/
theorem foldl_snd_keeps {α β γ : Type} (p : State → γ) {f : β × State → α → β × State} (h : ∀ x a, p (f x a).2 = p x.2) (l : List α)
    (x : β × State) : p (l.foldl f x).2 = p x.2 := by
  induction l generalizing x with
  | nil => rfl
  | cons a l ih => exact (ih (f x a)).trans (h x a)

theorem entryGate_of_host {c : Cmd} {s t : State} (hrings : t.host.rings = s.host.rings) (hide : t.host.ideHold = s.host.ideHold) :
    entryGate c t = entryGate c s := by
  unfold entryGate ring
  rw [hrings, hide]

/-! ### An accepted load -/

/-- What an accepted load has made by its RESIDENT check: an entry that is LOADING, and what firmware keeps with it. -/
structure Loaded (b : Nat) (c : Cmd) (d : CmdData) (s u : State) : Prop where
  st : (entry u b).st = 1
  tenant : (entry u b).tenant = ldTid c.payload
  planId : (entry u b).planId = plId d.plan
  keyGen : (entry u b).keyGen = look (fun _ => (0 : W32)) s.ten.keys b + 1
  others : ∀ x, x ≠ b → entry u x = entry s x
  plan : (brun u b).plan = d.plan
  coreMap : (brun u b).coreMap = mapWords d.map
  loadCmd : (brun u b).loadCmd = some (cmdRef c)
  refusals : u.ten.nRefusal = s.ten.nRefusal
  gate : entryGate c u = entryGate c s

theorem acceptLoad_eq (b : Nat) (c : Cmd) (d : CmdData) (s : State) : ∃ u, acceptLoad b c d s = checkResident b u ∧ Loaded b c d s u := by
  unfold acceptLoad
  extract_lets pay p map key n hold s1 _ s2 f0 f1 f2 f3 f4 f5 s3 s4 s5 s6 s7 s8 s9 s10
  refine ⟨_, rfl, ?_⟩
  have h0 : f0 = takeFrames b (n.getD 0 0) s2 := rfl
  have h1 : f1 = takeFrames b (n.getD 1 0) f0.2 := rfl
  have h2 : f2 = takeFrames b (n.getD 2 0) f1.2 := rfl
  have h3 : f3 = takeFrames b (n.getD 3 0) f2.2 := rfl
  have h4 : f4 = takeFrames b (n.getD 4 0) f3.2 := rfl
  have h5 : f5 = takeFrames b (n.getD 5 0) f4.2 := rfl
  clear_value f0 f1 f2 f3 f4 f5
  have hframes : loadView b s3 = loadView b s2 := by
    unfold s3
    rw [loadView_modBrun, h5, loadView_takeFrames, h4, loadView_takeFrames, h3, loadView_takeFrames, h2, loadView_takeFrames, h1,
      loadView_takeFrames, h0, loadView_takeFrames]
    exact fun _ => ⟨rfl, rfl, rfl⟩
  clear_value s3
  have hplan : loadView b s6 = loadView b s4 := by
    unfold s6 s5
    split
    · rw [loadView_putFrames, loadView_putFrames]
    · rw [loadView_putFrames, loadView_putFrames, loadView_putFrames]
  clear_value s6
  have hblocks : loadView b s8 = loadView b s6 := by
    unfold s8 s7
    rw [forAll_keeps (loadView b), foldl_snd_keeps (loadView b)]
    · exact fun x a => loadView_putFrames ..
    · exact fun _ _ => rfl
  clear_value s8
  have hplanes : loadView b s10 = loadView b s8 := by
    unfold s10 s9
    rw [forAll_keeps (loadView b), loadView_takeSlot]
    exact fun _ _ => loadView_assignPlane ..
  clear_value s10
  have hread : loadView b (provision (startRead (.load b) s10)) = loadView b s10 :=
    (loadView_provision _).trans (loadView_startRead ..)
  have hview := hread.trans (hplanes.trans (hblocks.trans hplan))
  clear hread hplanes hblocks hplan
  generalize provision (startRead (.load b) s10) = u at hview ⊢
  simp only [loadView, Prod.mk.injEq] at hframes hview
  obtain ⟨hentries, hrefusals, hrings, hide, hplan, hmap, hcmd⟩ := hframes
  obtain ⟨hentries', hrefusals', hrings', hide', hplan', hmap', hcmd'⟩ := hview
  have hrun : brun s2 b = brun s1 b := rfl
  have hentry (x : Nat) : entry u x = if x = b then entry s4 b else entry s x := by
    have hs4 : entry u x = entry s4 x := by unfold entry; rw [hentries']
    have hs3 : entry s3 x = entry s x := by unfold entry; rw [hentries]; rfl
    rw [hs4]
    split
    next hx => rw [hx]
    next hx => unfold s4; rw [entry_setEntry, if_neg hx, hs3]
  have hown : entry u b = entry s4 b := (hentry b).trans (if_pos rfl)
  constructor
  · rw [hown, entry_setEntry_same]
  · rw [hown, entry_setEntry_same]
  · rw [hown, entry_setEntry_same]
  · rw [hown, entry_setEntry_same]
  · exact fun x hx => (hentry x).trans (if_neg hx)
  · exact hplan'.trans (hplan.trans (by rw [hrun, brun_setBrun_same]))
  · exact hmap'.trans (hmap.trans (by rw [hrun, brun_setBrun_same]))
  · exact hcmd'.trans (hcmd.trans (by rw [hrun, brun_setBrun_same]))
  · exact hrefusals'.trans hrefusals
  · exact entryGate_of_host (hrings'.trans hrings) (hide'.trans hide)

/-! ### The check that makes a binding RESIDENT (R337) -/

/-- Every plane a binding was given is READY and adopted. -/
def planesReady (s : State) (b : Nat) : Bool := (brun s b).planes.all fun u => (plane s u.plane).st == 2 && !(plane s u.plane).adopting

/-- What a binding that has become RESIDENT leaves: its command answered, and nothing read for its load. -/
def resident (b : Nat) (s : State) : State :=
  dropReads (· == .load b) (replyOpt (brun s b).loadCmd b 0 0 0
    (modBrun b (fun q => { q with loadCmd := none }) (modEntry b (fun e => { e with st := 2 }) s)))

theorem checkResident_eq {s : State} (h : (entry s b).st = 1) : checkResident b s = if planesReady s b then resident b s else s := by
  unfold checkResident planesReady resident
  simp only [h, true_and]

/-- The binding marked RESIDENT, before its command is answered. -/
def residentMarked (b : Nat) (s : State) : State :=
  modBrun b (fun q => { q with loadCmd := none }) (modEntry b (fun e => { e with st := 2 }) s)

theorem resident_eq (b : Nat) (s : State) :
    resident b s = dropReads (· == .load b) (replyOpt (brun s b).loadCmd b 0 0 0 (residentMarked b s)) := rfl

theorem replyOpt_ten (c : Option CmdRef) (b status reason detail : Nat) (s : State) : (replyOpt c b status reason detail s).ten = s.ten := by
  unfold replyOpt
  split
  · rfl
  · exact finish_ten ..

theorem resident_ten (b : Nat) (s : State) : (resident b s).ten = (residentMarked b s).ten := by
  rw [resident_eq, dropReads_ten, replyOpt_ten]

theorem resident_hw (b : Nat) (s : State) : (resident b s).hw = s.hw := by
  rw [resident_eq, dropReads_hw, replyOpt_hw]
  rfl

theorem entry_resident (b : Nat) (s : State) (x : Nat) :
    entry (resident b s) x = if x = b then { entry s b with st := 2 } else entry s x := by
  have hten : entry (resident b s) x = entry (residentMarked b s) x := by unfold entry; rw [resident_ten]
  rw [hten, residentMarked, entry_modBrun, entry_modEntry]

theorem brun_resident (b : Nat) (s : State) : brun (resident b s) b = { brun s b with loadCmd := none } := by
  have hten : brun (resident b s) b = brun (residentMarked b s) b := by unfold brun; rw [resident_ten]
  rw [hten, residentMarked, brun_modBrun_same]
  rfl

theorem planesReady_of_eq {s t : State} (hplanes : (brun t b).planes = (brun s b).planes) (hhw : t.hw = s.hw) :
    planesReady t b = planesReady s b := by
  unfold planesReady plane
  rw [hplanes, hhw]

theorem final_resident {c : Cmd} {s u : State} (hcmd : (brun u c.binding.toNat).loadCmd = some (cmdRef c)) (hgate : entryGate c u = entryGate c s) :
    Final c 0 0 0 s (resident c.binding.toNat u) := by
  refine final_mono (t := replyOpt (brun u c.binding.toNat).loadCmd c.binding.toNat 0 0 0 (residentMarked c.binding.toNat u)) ?_ ?_
  · rw [hcmd]
    exact final_replyCmd hgate
  · rw [resident_eq, dropReads_out]
    exact List.Subset.refl _

theorem final_of_gate {c : Cmd} {status reason detail : Nat} {s u t : State} (h : Final c status reason detail u t)
    (hgate : entryGate c u = entryGate c s) : Final c status reason detail s t := by
  obtain ⟨hcq, hide⟩ := Prod.ext_iff.mp hgate
  exact fun hcq' hide' => h (hcq.trans hcq') (hide.trans hide')

/-! ### Refusals (R336, R381) -/

theorem final_refuse {c : Cmd} {inc : Option Nat} {r : Refuse} {s u : State} (hgate : entryGate c u = entryGate c s)
    (hbinding : BitVec.ofNat 12 (inc.getD 0xFFF) = c.binding) : Final c 5 r.1 r.2 s (refuse (some (cmdRef c)) inc r u) := by
  rw [refuse_eq]
  refine final_finish (Eq.trans (entryGate_of_host ?_ ?_) hgate) rfl rfl rfl rfl hbinding
  · cases inc <;> rfl
  · cases inc <;> rfl

theorem refuse_ten (c : Option CmdRef) (b : Option Nat) (r : Refuse) (s : State) :
    (refuse c b r s).ten = { (reasonGiven b r s).ten with nRefusal := (reasonGiven b r s).ten.nRefusal + 1 } := by
  rw [refuse_eq, replyOpt_ten]

theorem entry_refuse_some (c : Option CmdRef) (b : Nat) (r : Refuse) (s : State) (x : Nat) : entry (refuse c (some b) r s) x =
    if x = b then { entry s b with lastReason := BitVec.ofNat 8 r.1, lastDetail := BitVec.ofNat 32 r.2 } else entry s x := by
  have hten : entry (refuse c (some b) r s) x = entry (reasonGiven (some b) r s) x := by unfold entry; rw [refuse_ten]
  rw [hten]
  exact entry_modEntry b (fun e => { e with lastReason := BitVec.ofNat 8 r.1, lastDetail := BitVec.ofNat 32 r.2 }) s x

theorem refuse_hw (c : Option CmdRef) (b : Option Nat) (r : Refuse) (s : State) : (refuse c b r s).hw = s.hw := by
  rw [refuse_eq, replyOpt_hw]
  cases b <;> rfl

theorem refuse_lar (c : Option CmdRef) (b : Option Nat) (r : Refuse) (s : State) : (refuse c b r s).lar = s.lar := by
  rw [refuse_eq, replyOpt_lar]
  cases b <;> rfl

/-! ### The checks of a BIND_LOAD, in their order (R336, R366, R376, R380) -/

theorem exec_bindLoad {c : Cmd} {s : State} (h : Taken 0x01 1 c s) (d : CmdData) :
    exec (.bindLoad c d) s = .next (doBindLoad c d (acceptedPacket c 1 s)) :=
  congrArg Host.Outcome.next (asPacket_taken h (doBindLoad c d))

theorem acceptedPacket_priv (c : Cmd) (k : Nat) (s : State) : (ring (acceptedPacket c k s) c.ring).priv = (ring s c.ring).priv := by
  rw [ring_acceptedPacket]

section
variable {c : Cmd} {d : CmdData} {s : State}

theorem doBindLoad_unprivileged (h : (ring s c.ring).priv = false) : doBindLoad c d s = replyCmd (cmdRef c) c.binding.toNat 9 0 0 s := by
  unfold doBindLoad
  simp [h]

theorem doBindLoad_out_of_range (h : (ring s c.ring).priv = true) (hrange : loadRanges c = false) :
    doBindLoad c d s = replyCmd (cmdRef c) c.binding.toNat 7 0 0 s := by
  unfold doBindLoad
  simp [h, hrange]

theorem loadAddrs_iff : loadAddrs c d = true ↔ ¬ (d.badAddr = true ∨ leAt c.payload 8 8 % 64 ≠ 0 ∨ leAt c.payload 24 8 % 64 ≠ 0) := by
  simp [loadAddrs, not_or, and_assoc]

theorem doBindLoad_bad_address (h : (ring s c.ring).priv = true) (hrange : loadRanges c = true) (haddr : loadAddrs c d = false) :
    doBindLoad c d s = replyCmd (cmdRef c) c.binding.toNat 8 0 0 s := by
  have hbad := not_not.mp (mt (loadAddrs_iff (c := c) (d := d)).mpr (Bool.eq_false_iff.mp haddr))
  unfold doBindLoad
  dsimp only
  rw [if_neg (by simp [h]), if_neg (by simp [hrange]), if_pos hbad]

theorem doBindLoad_busy (h : (ring s c.ring).priv = true) (hrange : loadRanges c = true) (haddr : loadAddrs c d = true)
    (hbusy : bindingBusy s c.binding.toNat = true) : doBindLoad c d s = replyCmd (cmdRef c) c.binding.toNat 0x0C 0 0 s := by
  unfold doBindLoad
  dsimp only
  rw [if_neg (by simp [h]), if_neg (by simp [hrange]), if_neg (loadAddrs_iff.mp haddr), if_pos hbusy]

theorem doBindLoad_refused {r : Refuse} (h : (ring s c.ring).priv = true) (hrange : loadRanges c = true) (haddr : loadAddrs c d = true)
    (hfree : bindingBusy s c.binding.toNat = false) (hcheck : loadCheck s c.binding.toNat c d = some r) :
    doBindLoad c d s = refuse (some (cmdRef c)) (some c.binding.toNat) r s := by
  unfold doBindLoad
  simp only [hcheck]
  rw [if_neg (by simp [h]), if_neg (by simp [hrange]), if_neg (loadAddrs_iff.mp haddr), if_neg (Bool.eq_false_iff.mp hfree)]

theorem doBindLoad_accepted (h : (ring s c.ring).priv = true) (hrange : loadRanges c = true) (haddr : loadAddrs c d = true)
    (hfree : bindingBusy s c.binding.toNat = false) (hcheck : loadCheck s c.binding.toNat c d = none) :
    doBindLoad c d s = acceptLoad c.binding.toNat c d s := by
  unfold doBindLoad
  simp only [hcheck]
  rw [if_neg (by simp [h]), if_neg (by simp [hrange]), if_neg (loadAddrs_iff.mp haddr), if_neg (Bool.eq_false_iff.mp hfree)]

/-- An accepted load, whose binding is RESIDENT at once where its planes are READY and adopted. -/
theorem acceptLoad_spec {b : Nat} {t : State} (hb : b = c.binding.toNat) (ht : acceptLoad b c d s = t) :
    (entry t b).st = (if planesReady t b then 2 else 1)
    ∧ (entry t b).tenant = ldTid c.payload ∧ (entry t b).planId = plId d.plan
    ∧ (entry t b).keyGen = look (fun _ => (0 : W32)) s.ten.keys b + 1
    ∧ (brun t b).plan = d.plan ∧ (brun t b).coreMap = mapWords d.map ∧ t.ten.nRefusal = s.ten.nRefusal
    ∧ (∀ x, x ≠ b → entry t x = entry s x) ∧ ((entry t b).st = 2 → Final c 0 0 0 s t) := by
  subst hb
  obtain ⟨u, heq, hu⟩ := acceptLoad_eq c.binding.toNat c d s
  rw [heq, checkResident_eq hu.st] at ht
  by_cases hready : planesReady u c.binding.toNat = true
  · rw [if_pos hready] at ht
    subst ht
    have hentry := entry_resident c.binding.toNat u
    have hown := (hentry c.binding.toNat).trans (if_pos rfl)
    have hrun := brun_resident c.binding.toNat u
    have hplanes : planesReady (resident c.binding.toNat u) c.binding.toNat = planesReady u c.binding.toNat :=
      planesReady_of_eq (by rw [hrun]) (resident_hw ..)
    refine ⟨?_, ?_, ?_, ?_, ?_, ?_, ?_, fun x hx => ?_, fun _ => final_resident hu.loadCmd hu.gate⟩
    · rw [hown, hplanes, if_pos hready]
    · rw [hown]; exact hu.tenant
    · rw [hown]; exact hu.planId
    · rw [hown]; exact hu.keyGen
    · rw [hrun]; exact hu.plan
    · rw [hrun]; exact hu.coreMap
    · rw [resident_ten]; exact hu.refusals
    · rw [hentry, if_neg hx]; exact hu.others x hx
  · rw [if_neg hready] at ht
    subst ht
    refine ⟨hu.st.trans (if_neg hready).symm, hu.tenant, hu.planId, hu.keyGen, hu.plan, hu.coreMap, hu.refusals, hu.others, fun hst => ?_⟩
    rw [hu.st] at hst
    exact absurd hst (by decide)

end

end Sys2Proof.Machine

/-- Settles O41: the checks are made in the order of `doBindLoad`, and an accepted load is what `acceptLoad_spec` says. -/
theorem bindingLoads : Obligations.BindingLoads := by
  unfold Obligations.BindingLoads
  rintro c d _ s htaken rfl
  have hexec := exec_bindLoad htaken d
  have hgate := entryGate_acceptedPacket c 1 s
  have hreplied {status : Nat} (heq : doBindLoad c d (acceptedPacket c 1 s) =
      replyCmd (cmdRef c) c.binding.toNat status 0 0 (acceptedPacket c 1 s)) :
      ∃ t, exec (.bindLoad c d) s = .next t ∧ Final c status 0 0 s t ∧ t.ten = s.ten ∧ t.hw = s.hw ∧ MemKept s t := by
    refine ⟨_, hexec, ?_⟩
    rw [heq]
    exact ⟨final_replyCmd hgate, finish_ten .., finish_hw .., memKept_of_eq (finish_mem ..) (finish_memKeys ..)⟩
  refine ⟨fun hpriv => hreplied (doBindLoad_unprivileged ((acceptedPacket_priv c 1 s).trans hpriv)), fun hpriv => ?_⟩
  replace hpriv := (acceptedPacket_priv c 1 s).trans hpriv
  refine ⟨fun hrange => hreplied (doBindLoad_out_of_range hpriv hrange),
    fun hrange haddr => hreplied (doBindLoad_bad_address hpriv hrange haddr),
    fun hrange haddr hbusy => hreplied (doBindLoad_busy hpriv hrange haddr hbusy),
    fun hrange haddr hfree => ⟨fun r hr => ⟨_, hexec, ?_⟩, fun hnone => ⟨_, hexec, ?_⟩⟩⟩
  · rw [doBindLoad_refused hpriv hrange haddr hfree hr]
    refine ⟨final_refuse hgate (by simp), entry_refuse_some _ c.binding.toNat r (acceptedPacket c 1 s), ?_, ?_, ?_, refuse_hw ..,
      memKept_refuse _ _ r (acceptedPacket c 1 s), refuse_lar ..⟩
    · rw [refuse_ten]; rfl
    · rw [refuse_ten]; rfl
    · rw [refuse_ten]; rfl
  · rw [doBindLoad_accepted hpriv hrange haddr hfree hnone]
    obtain ⟨hst, htenant, hplanId, hkey, hplan, hmap, hrefusal, hothers, hfinal⟩ :=
      acceptLoad_spec (c := c) (d := d) (s := acceptedPacket c 1 s) rfl rfl
    exact ⟨hst, htenant, hplanId, hkey, hplan, hmap, hrefusal, hothers, fun h => final_of_gate (hfinal h) hgate⟩
end

section
/-! SUPPORT. Releases (R335, R347 to R351): the records and frames of a binding that is released, its entry, and planes that are released. -/

open Sys2Proof Sys2Proof.Machine Sys2Proof.Spec

namespace Sys2Proof.Machine

/-- A key whose value is not its default is listed. -/
theorem mem_of_look_ne {α : Type} {d : Nat → α} {m : SMap α} {k : Nat} (h : look d m k ≠ d k) : (k, look d m k) ∈ m := by
  induction m with
  | nil => exact absurd rfl h
  | cons p m ih =>
    unfold look at h ⊢
    split
    next hk => exact hk ▸ List.mem_cons_self ..
    next hk =>
      rw [if_neg hk] at h
      exact List.mem_cons_of_mem p (ih h)

/-! ### Records (R347) -/

theorem mem_recordsOf {s : State} {b r : Nat} (hst : (ctx s r).st ≠ 0) (htenant : (ctx s r).tenant.toNat = b) : r ∈ recordsOf s b := by
  have hne : ctx s r ≠ {} := fun h => hst (by rw [h])
  have hmem : (r, ctx s r) ∈ s.srv.ctx := mem_of_look_ne (d := fun _ => ({} : Ctx)) hne
  refine List.mem_map.mpr ⟨(r, ctx s r), List.mem_filter.mpr ⟨hmem, ?_⟩, rfl⟩
  exact Bool.and_eq_true_iff.mpr ⟨bne_iff_ne.mpr hst, beq_iff_eq.mpr htenant⟩

theorem endWork_ten (r status : Nat) (s : State) : (endWork r status s).ten = s.ten :=
  (eq_of_control (control_endWork r status s)).2.2.2

/-- A record of a binding released: its work ended and its fields cleared. -/
def recordReleased (b status c : Nat) (s : State) : State := bumpHome b 0x804 1 (clearRecord c (endWork c status s))

theorem ctx_recordReleased (b status c : Nat) (s : State) (r : Nat) :
    ctx (recordReleased b status c s) r = if r = c then {} else ctx s r := by
  have hsrv : ctx (recordReleased b status c s) r = ctx (setCtx (endWork c status s) c {}) r := by
    unfold ctx recordReleased bumpHome
    rw [bump_srv, clearRecord_srv_ctx]
  rw [hsrv, ctx_setCtx]
  split
  · rfl
  · unfold ctx
    rw [endWork_srv]

theorem entrySt_modEntry {f : BEntry → BEntry} (hf : ∀ e, (f e).st = e.st) (b : Nat) (s : State) (x : Nat) :
    (entry (modEntry b f s) x).st = (entry s x).st := by
  rw [entry_modEntry]
  split
  next hx => rw [hf, hx]
  next => rfl

theorem entrySt_recordReleased (b status c : Nat) (s : State) (x : Nat) :
    (entry (recordReleased b status c s) x).st = (entry s x).st := by
  have hclear (u : State) : (entry (clearRecord c u) x).st = (entry u x).st := by
    unfold clearRecord
    dsimp only
    rw [entrySt_modEntry]
    · rfl
    · exact fun _ => rfl
  have hten : entry (recordReleased b status c s) x = entry (clearRecord c (endWork c status s)) x := by
    unfold entry recordReleased bumpHome
    rw [bump_ten]
  rw [hten, hclear]
  unfold entry
  rw [endWork_ten]

theorem ctx_releaseRecords {b status r : Nat} {s : State} (h : r ∈ recordsOf s b) : (ctx (releaseRecords b status s) r).st = 0 := by
  refine forAll_reaches (f := recordReleased b status) (P := fun _ => True) (Q := fun t => (ctx t r).st = 0) h trivial
    (fun _ _ _ _ _ => trivial) (fun t _ => ?_) (fun c _ _ t ht => ?_)
  · rw [ctx_recordReleased, if_pos rfl]
  · rw [ctx_recordReleased]
    split
    · rfl
    · exact ht

theorem entrySt_releaseRecords (b status : Nat) (s : State) (x : Nat) : (entry (releaseRecords b status s) x).st = (entry s x).st :=
  forAll_keeps (fun t => (entry t x).st) (recordReleased b status) (fun c t => entrySt_recordReleased b status c t x) _ _

/-! ### Frames (R351) -/

/-- Frame `f` is recorded as binding `b`'s. -/
def owned (b f : Nat) (s : State) : Prop := look (fun _ => FrameOwner.nobody) s.ten.owner f = .tenant b

theorem owned_of_owner {b f : Nat} {s : State} (h : owner s f = .tenant b) : owned b f s := by
  unfold owner at h
  split at h
  · cases h
  · exact h

theorem returnFrame_owner (b f : Nat) (s : State) : ∃ o, (∀ x, o ≠ FrameOwner.tenant x)
    ∧ (returnFrame b false f s).ten.owner = put (fun _ => .nobody) s.ten.owner f o := by
  unfold returnFrame
  simp only [Bool.false_eq_true, if_false, false_and]
  split
  · exact ⟨.firmware, fun x => by simp, rfl⟩
  · exact ⟨.nobody, fun x => by simp, rfl⟩

theorem not_owned_returnFrame {b f g : Nat} {s : State} (h : g = f ∨ ¬ owned b g s) : ¬ owned b g (returnFrame b false f s) := by
  obtain ⟨o, hne, hput⟩ := returnFrame_owner b f s
  unfold owned
  rw [hput, look_put]
  split
  · exact hne b
  next hg => exact h.resolve_left hg

theorem returnFrame_entries (b f : Nat) (s : State) : (returnFrame b false f s).ten.entries = s.ten.entries := by
  unfold returnFrame
  simp only [Bool.false_eq_true, if_false, false_and]
  split <;> rfl

/-- The frames of a binding, given back. -/
def framesReturned (b : Nat) (s : State) : State :=
  forAll ((s.ten.owner.filter fun x => x.2 == .tenant b).map (·.1)) (returnFrame b false) s

theorem releaseFrames_owner (b : Nat) (s : State) : (releaseFrames b s).ten.owner = (framesReturned b s).ten.owner := by
  unfold releaseFrames
  dsimp only
  split <;> rfl

theorem not_owned_releaseFrames (b f : Nat) (s : State) : ¬ owned b f (releaseFrames b s) := by
  have hreturned : ¬ owned b f (framesReturned b s) := by
    by_cases hown : owned b f s
    · have hmem : (f, FrameOwner.tenant b) ∈ s.ten.owner := by
        have hlook : look (fun _ => FrameOwner.nobody) s.ten.owner f = .tenant b := hown
        exact hlook ▸ mem_of_look_ne (d := fun _ => FrameOwner.nobody) (by rw [hlook]; simp)
      have hlisted : f ∈ (s.ten.owner.filter fun x => x.2 == .tenant b).map (·.1) :=
        List.mem_map.mpr ⟨_, List.mem_filter.mpr ⟨hmem, by simp⟩, rfl⟩
      exact forAll_reaches (P := fun _ => True) (Q := fun t => ¬ owned b f t) hlisted trivial (fun _ _ _ _ _ => trivial)
        (fun _ _ => not_owned_returnFrame (.inl rfl)) (fun _ _ _ _ ht => not_owned_returnFrame (.inr ht))
    · exact forAll_invariant (P := fun t => ¬ owned b f t) (fun _ _ _ ht => not_owned_returnFrame (.inr ht)) hown
  unfold owned at *
  rwa [releaseFrames_owner]

theorem entrySt_releaseFrames (b : Nat) (s : State) (x : Nat) : (entry (releaseFrames b s) x).st = (entry s x).st := by
  have hreturned : (entry (framesReturned b s) x).st = (entry s x).st := by
    unfold entry framesReturned
    rw [forAll_keeps (fun t => t.ten.entries) _ fun f t => returnFrame_entries b f t]
  have hmod : (entry (modEntry b (fun e => { e with pageUsed := 0 }) (framesReturned b s)) x).st = (entry s x).st := by
    rw [entrySt_modEntry]
    · exact hreturned
    · exact fun _ => rfl
  unfold releaseFrames
  dsimp only
  split
  · exact hmod
  · exact hmod

theorem releaseFrames_srv (b : Nat) (s : State) : (releaseFrames b s).srv = s.srv := by
  have hreturned : (framesReturned b s).srv = s.srv := forAll_keeps State.srv _ (returnFrame_srv b false) _ s
  unfold releaseFrames
  dsimp only
  split
  · exact hreturned
  · exact hreturned

/-! ### Planes (R348) -/

theorem releasePlane_ten (n : Nat) (s : State) : (releasePlane n s).ten = s.ten := by
  unfold releasePlane
  dsimp only
  split_ifs <;> rfl

theorem releasePlane_srv (n : Nat) (s : State) : (releasePlane n s).srv = s.srv := by
  unfold releasePlane
  dsimp only
  split_ifs <;> rfl

theorem releasePlane_host (n : Nat) (s : State) : (releasePlane n s).host = s.host := by
  unfold releasePlane
  dsimp only
  split_ifs <;> rfl

theorem releasePlane_cores (n : Nat) (s : State) : (releasePlane n s).hw.cores = s.hw.cores := by
  unfold releasePlane
  dsimp only
  split_ifs <;> rfl

theorem dropResidency_ten (tid : W64) (s : State) : (dropResidency tid s).ten = s.ten := by
  unfold dropResidency
  split <;> rfl

theorem dropResidency_srv (tid : W64) (s : State) : (dropResidency tid s).srv = s.srv := by
  unfold dropResidency
  split <;> rfl

theorem dropResidency_host (tid : W64) (s : State) : (dropResidency tid s).host = s.host := by
  unfold dropResidency
  split <;> rfl

theorem dropResidency_hw (tid : W64) (s : State) : (dropResidency tid s).hw = s.hw := by
  unfold dropResidency
  split <;> rfl

/-- A plane is FREE or RETIRED. -/
def freed (s : State) (n : Nat) : Prop := (plane s n).st = 0 ∨ (plane s n).st = 5

theorem freed_freedPlane (n : Nat) (s : State) : freed (freedPlane n s) n := by
  unfold freed freedPlane plane modPlane setPlane
  simp only [look_put_same]
  split
  · exact .inr rfl
  · exact .inl rfl

theorem freed_releasePlane {n : Nat} {s : State} (h : freed s n) (m : Nat) : freed (releasePlane m s) n := by
  by_cases hm : n = m
  · subst hm
    rcases h with hfree | hretired
    · refine .inl ?_
      unfold releasePlane
      extract_lets q writing
      rw [show q.st = 0 from hfree, if_pos rfl]
      split
      · exact hfree
      · rw [plane_modPlane_same]
        exact hfree
    · rw [releasePlane_retired hretired]
      exact .inr hretired
  · unfold freed at *
    rwa [plane_releasePlane_other hm]

/-- A plane with weights on a core that no binding holds, while nothing writes it, is freed. -/
theorem releasePlane_unheld {n : Nat} {s : State} (hst : (plane s n).st = 2 ∨ (plane s n).st = 3 ∨ (plane s n).st = 4)
    (hcore : unheld s (coreOf (engOf n)) = true) (hprog : (engine s (engOf n)).prog = none) : releasePlane n s = freedPlane n s := by
  have hnot : ¬ (plane s n).st = 0 ∧ ¬ (plane s n).st = 1 := by
    rcases hst with h | h | h <;> rw [h] <;> decide
  unfold releasePlane
  simp only [hprog]
  rw [if_neg (by decide), if_neg hnot.1, if_neg hnot.2, if_pos hst, if_pos hcore]

theorem releasePlanes_freed {n : Nat} {l : List Nat} {s : State} (hn : n ∈ l)
    (hst : (plane s n).st = 2 ∨ (plane s n).st = 3 ∨ (plane s n).st = 4) (hcore : unheld s (coreOf (engOf n)) = true)
    (hprog : (engine s (engOf n)).prog = none) : freed (forAll l releasePlane s) n := by
  refine forAll_reaches (P := fun t => plane t n = plane s n ∧ t.hw.cores = s.hw.cores ∧ t.hw.engines = s.hw.engines)
    (Q := fun t => freed t n) hn ⟨rfl, rfl, rfl⟩ (fun m _ hm t ht => ?_) (fun t ht => ?_) (fun m _ _ t ht => freed_releasePlane ht m)
  · obtain ⟨hplane, hcores, hengines⟩ := ht
    exact ⟨(plane_releasePlane_other hm.symm t).trans hplane, (releasePlane_cores m t).trans hcores, (engines_releasePlane m t).trans hengines⟩
  · obtain ⟨hplane, hcores, hengines⟩ := ht
    rw [releasePlane_unheld (hplane ▸ hst)]
    · exact freed_freedPlane n t
    · unfold unheld boundOf core at *
      rwa [hcores]
    · unfold engine at *
      rwa [hengines]

theorem mem_ownedPlanes {s : State} {n : Nat} {tid : W64} (howner : (plane s n).owner = tid) (htid : tid ≠ 0) : n ∈ ownedPlanes s tid := by
  have hne : plane s n ≠ planeReset n := fun h => htid (by rw [← howner, h]; rfl)
  have hmem : (n, plane s n) ∈ s.hw.planes := mem_of_look_ne hne
  refine List.mem_map.mpr ⟨(n, plane s n), List.mem_filter.mpr ⟨hmem, ?_⟩, rfl⟩
  simp [howner]

/-! ### A release (R347, R349) -/

/-- What the last steps of a release leave: the state of binding `b`, the context records and the owners of the frames. -/
def releaseView (b : Nat) (s : State) : BitVec 3 × SMap Ctx × SMap FrameOwner := ((entry s b).st, s.srv.ctx, s.ten.owner)

theorem releaseView_of_eq {b : Nat} {s t : State} (hten : t.ten = s.ten) (hsrv : t.srv = s.srv) : releaseView b t = releaseView b s := by
  unfold releaseView entry
  rw [hten, hsrv]

theorem releaseView_bump (b p off n : Nat) (s : State) : releaseView b (bump p off n s) = releaseView b s :=
  releaseView_of_eq (bump_ten ..) (bump_srv ..)

theorem releaseView_modBrun (b x : Nat) (f : BRun → BRun) (s : State) : releaseView b (modBrun x f s) = releaseView b s := rfl

theorem releaseView_clearOverflow (b : Nat) (s : State) : releaseView b (clearOverflow b s) = releaseView b s := by
  unfold clearOverflow bumpHome
  dsimp only
  split
  · rfl
  · exact (releaseView_bump ..).trans (releaseView_modBrun ..)

theorem replyOpt_srv (c : Option CmdRef) (b status reason detail : Nat) (s : State) : (replyOpt c b status reason detail s).srv = s.srv := by
  unfold replyOpt
  split
  · rfl
  · exact finish_srv ..

theorem releaseView_replies (b : Nat) (l : List StageReq) (s : State) :
    releaseView b (forAll l (fun q s => replyCmd q.cmd b 0 0 0 s) s) = releaseView b s :=
  forAll_keeps (releaseView b) _ (fun _ _ => releaseView_of_eq (finish_ten ..) (finish_srv ..)) _ _

theorem releaseView_releasePlanes (b : Nat) (l : List Nat) (s : State) : releaseView b (forAll l releasePlane s) = releaseView b s :=
  forAll_keeps (releaseView b) _ (fun _ _ => releaseView_of_eq (releasePlane_ten ..) (releasePlane_srv ..)) _ _

/-- The end of a release, where no plane is in use: the entry and what firmware keeps with it go (R349). -/
def emptied (b : Nat) (s : State) : State := provision (replyOpt (brun s b).unbindCmd b 0 0 0 (setBrun (setEntry s b {}) b {}))

theorem checkReleased_cases (b : Nat) (s : State) : checkReleased b s = s ∨ checkReleased b s = emptied b s := by
  unfold checkReleased
  dsimp only
  split
  · exact .inl rfl
  · exact .inr rfl

theorem entry_emptied (b : Nat) (s : State) (x : Nat) : entry (emptied b s) x = if x = b then {} else entry s x := by
  have hten : entry (emptied b s) x = entry (setBrun (setEntry s b {}) b {}) x := by
    unfold emptied
    show entry (replyOpt _ b 0 0 0 _) x = _
    unfold entry
    rw [replyOpt_ten]
  rw [hten, entry_setBrun, entry_setEntry]

theorem emptied_srv (b : Nat) (s : State) : (emptied b s).srv = s.srv := replyOpt_srv ..

theorem emptied_owner (b : Nat) (s : State) : (emptied b s).ten.owner = s.ten.owner := by
  unfold emptied
  show (replyOpt _ b 0 0 0 _).ten.owner = _
  rw [replyOpt_ten]
  rfl

/-- A release: the binding is RELEASING, or EMPTY at once; its records are FREE, and no frame is recorded as its own. -/
theorem startRelease_spec (b : Nat) (s : State) : ((entry (startRelease b s) b).st = 5 ∨ entry (startRelease b s) b = {})
    ∧ (∀ r ∈ recordsOf s b, (ctx (startRelease b s) r).st = 0) ∧ ∀ f, ¬ owned b f (startRelease b s) := by
  unfold startRelease
  extract_lets tid r s1 s2 s3 s4 s5 s6 hw6 s7 s8 s9
  have hmarked : (entry s1 b).st = 5 := by
    unfold s1
    rw [entry_modEntry, if_pos rfl]
  have hrecords : ∀ r ∈ recordsOf s b, (ctx s2 r).st = 0 := fun r hr => ctx_releaseRecords (s := s1) hr
  have hst2 : (entry s2 b).st = 5 := (entrySt_releaseRecords b 3 s1 b).trans hmarked
  clear_value s1 s2
  have h3 : releaseView b s3 = releaseView b s2 := releaseView_replies ..
  have h4 : releaseView b s4 = releaseView b s3 :=
    releaseView_of_eq ((dropReads_ten ..).trans (replyOpt_ten ..)) ((dropReads_srv ..).trans (replyOpt_srv ..))
  clear_value s3 s4
  have hview4 := (releaseView_clearOverflow b s4).trans (h4.trans h3)
  have hst5 : (entry s5 b).st = (entry (clearOverflow b s4) b).st := entrySt_releaseFrames ..
  have hsrv5 : s5.srv = (clearOverflow b s4).srv := releaseFrames_srv ..
  have hframes5 : ∀ f, ¬ owned b f s5 := fun f => not_owned_releaseFrames b f _
  clear_value s5
  have h7 : releaseView b s7 = releaseView b s5 := rfl
  clear_value s7
  have h8 : releaseView b s8 = releaseView b s7 := releaseView_of_eq (dropResidency_ten ..) (dropResidency_srv ..)
  have h9 : releaseView b s9 = releaseView b s8 := releaseView_releasePlanes ..
  clear_value s9
  have hview9 := h9.trans (h8.trans h7)
  simp only [releaseView, Prod.mk.injEq] at hview4 hview9
  obtain ⟨hst4, hctx4, -⟩ := hview4
  obtain ⟨hst9, hctx9, howner9⟩ := hview9
  have hctx : s9.srv.ctx = s2.srv.ctx := by rw [hctx9, hsrv5, hctx4]
  have hst : (entry s9 b).st = 5 := by rw [hst9, hst5, hst4, hst2]
  have hrecords9 : ∀ r ∈ recordsOf s b, (ctx s9 r).st = 0 := fun r hr => by
    unfold ctx at *
    rw [hctx]
    exact hrecords r hr
  have hframes9 : ∀ f, ¬ owned b f s9 := fun f => by
    unfold owned at *
    rw [howner9]
    exact hframes5 f
  rcases checkReleased_cases b s9 with heq | heq
  · rw [heq]
    exact ⟨.inl hst, hrecords9, hframes9⟩
  · rw [heq]
    refine ⟨.inr ((entry_emptied b s9 b).trans (if_pos rfl)), fun r hr => ?_, fun f => ?_⟩
    · unfold ctx at *
      rw [emptied_srv]
      exact hrecords9 r hr
    · unfold owned at *
      rw [emptied_owner]
      exact hframes9 f

/-! ### UNBIND, in the order of its checks (R335, R376) -/

theorem exec_unbind {c : Cmd} {s : State} (h : Taken 0x03 1 c s) : exec (.unbind c) s = .next (doUnbind c (acceptedPacket c 1 s)) :=
  congrArg Host.Outcome.next (asPacket_taken h (doUnbind c))

section
variable {c : Cmd} {s : State}

theorem doUnbind_unprivileged (h : (ring s c.ring).priv = false) : doUnbind c s = replyCmd (cmdRef c) c.binding.toNat 9 0 0 s := by
  unfold doUnbind
  dsimp only
  rw [if_pos (by simp [h])]

theorem doUnbind_record (h : (ring s c.ring).priv = true) (hrec : c.record ≠ 0xFFFFFFFF) :
    doUnbind c s = replyCmd (cmdRef c) c.binding.toNat 7 0 0 s := by
  unfold doUnbind
  dsimp only
  rw [if_neg (by simp [h]), if_pos hrec]

theorem doUnbind_empty (h : (ring s c.ring).priv = true) (hrec : c.record = 0xFFFFFFFF) (hst : (entry s c.binding.toNat).st = 0) :
    doUnbind c s = replyCmd (cmdRef c) c.binding.toNat 9 0 0 s := by
  unfold doUnbind
  dsimp only
  rw [if_neg (by simp [h]), if_neg (not_not.mpr hrec), if_pos hst]

theorem doUnbind_busy (h : (ring s c.ring).priv = true) (hrec : c.record = 0xFFFFFFFF) (hst : (entry s c.binding.toNat).st ≠ 0)
    (hbusy : bindingBusy s c.binding.toNat = true) : doUnbind c s = replyCmd (cmdRef c) c.binding.toNat 0x0C 0 0 s := by
  unfold doUnbind
  dsimp only
  rw [if_neg (by simp [h]), if_neg (not_not.mpr hrec), if_neg hst, if_pos hbusy]

theorem doUnbind_accepted (h : (ring s c.ring).priv = true) (hrec : c.record = 0xFFFFFFFF) (hst : (entry s c.binding.toNat).st ≠ 0)
    (hfree : bindingBusy s c.binding.toNat = false) : doUnbind c s = unbindEntry c.binding.toNat (cmdRef c) s := by
  unfold doUnbind
  dsimp only
  rw [if_neg (by simp [h]), if_neg (not_not.mpr hrec), if_neg hst, if_neg (Bool.eq_false_iff.mp hfree)]

end

/-- The binding, with the command that waits for its release. -/
def unbindNoted (b : Nat) (cmd : CmdRef) (s : State) : State := modBrun b (fun r => { r with unbindCmd := some cmd }) s

section
variable {b : Nat} {s : State} (hpeer : (entry s b).peer = 0xFFF)
include hpeer

/-- An ENABLED binding without a partner leaves by a switch. -/
theorem unbindEntry_enabled (hst : (entry s b).st = 3) (cmd : CmdRef) :
    unbindEntry b cmd s = startSwitch none [b] none [b] (unbindNoted b cmd s) := by
  unfold unbindEntry
  extract_lets q mate s1 on
  have hmate : mate = [] := if_neg fun h => h.1 (by unfold q; rw [hpeer]; rfl)
  have hon : on = [b] := by
    unfold on
    rw [hmate]
    exact List.filter_eq_self.mpr fun x hx => List.mem_singleton.mp hx ▸ beq_iff_eq.mpr hst
  rw [hon, hmate]
  rfl

/-- Any other binding without a partner is released at once. -/
theorem unbindEntry_disabled (hst : (entry s b).st ≠ 3) (cmd : CmdRef) : unbindEntry b cmd s = startRelease b (unbindNoted b cmd s) := by
  unfold unbindEntry
  extract_lets q mate s1 on
  have hmate : mate = [] := if_neg fun h => h.1 (by unfold q; rw [hpeer]; rfl)
  have hon : on = [] := by
    unfold on
    rw [hmate]
    exact List.filter_eq_nil_iff.mpr fun x hx h => hst (List.mem_singleton.mp hx ▸ beq_iff_eq.mp h)
  rw [hon, hmate]
  exact (if_pos rfl).trans (forAll_one b startRelease s1)

end

/-- A switch with nothing incoming waits for its epoch at once, and its outgoing binding is in SWITCHING. -/
theorem startSwitch_unbind (b : Nat) (rel : List Nat) (s : State) : (entry (startSwitch none [b] none rel s) b).st = 4
    ∧ ∃ o, (startSwitch none [b] none rel s).ten.switches = s.ten.switches ++ [o] ∧ o.incoming = none ∧ o.outgoing = [b] ∧ o.release = rel
      ∧ ∃ e, o.epoch = some e := by
  refine ⟨?_, _, rfl, rfl, rfl, rfl, _, rfl⟩
  show (entry (modEntry b (fun e => { e with st := 4 }) (modBrun b (fun r => { r with prev := (entry s b).st }) s)) b).st = 4
  rw [entry_modEntry, if_pos rfl]

/-! ### UNBIND_BY_TENANT (R348, R376) -/

theorem exec_unbindByTenant {c : Cmd} {s : State} (h : Taken 0x03 1 c s) :
    exec (.unbindByTenant c) s = .next (doUnbindByTenant c (acceptedPacket c 1 s)) :=
  congrArg Host.Outcome.next (asPacket_taken h (doUnbindByTenant c))

section
variable {c : Cmd} {s : State}

theorem doUnbindByTenant_bad_field (h : (ring s c.ring).priv = true)
    (hbad : c.record ≠ 0xFFFFFFFF ∨ BitVec.ofNat 64 (leAt c.payload 8 8) = 0 ∨ c.binding ≠ 0xFFF) :
    doUnbindByTenant c s = replyCmd (cmdRef c) c.binding.toNat 7 0 0 s := by
  unfold doUnbindByTenant
  dsimp only
  rw [if_neg (by simp [h]), if_pos hbad]

/-- The planes restored for a tenant that no entry binds, released. -/
def tenantReleased (tid : W64) (s : State) : State := forAll (ownedPlanes s tid) releasePlane (dropResidency tid s)

theorem doUnbindByTenant_unbound (h : (ring s c.ring).priv = true) (hrec : c.record = 0xFFFFFFFF)
    (htid : BitVec.ofNat 64 (leAt c.payload 8 8) ≠ 0) (hbinding : c.binding = 0xFFF)
    (hnone : ∀ b ∈ liveBindings s, (entry s b).tenant ≠ BitVec.ofNat 64 (leAt c.payload 8 8)) :
    doUnbindByTenant c s =
      replyCmd (cmdRef c) c.binding.toNat 0 0 0 (tenantReleased (BitVec.ofNat 64 (leAt c.payload 8 8)) s) := by
  have hfind : (liveBindings s).find? (fun b => (entry s b).tenant == BitVec.ofNat 64 (leAt c.payload 8 8)) = none :=
    List.find?_eq_none.mpr fun b hb => by simpa using hnone b hb
  unfold doUnbindByTenant
  simp only [hfind]
  have hfields : ¬ (c.record ≠ 0xFFFFFFFF ∨ BitVec.ofNat 64 (leAt c.payload 8 8) = 0 ∨ c.binding ≠ 0xFFF) := by
    rintro (hbad | hbad | hbad)
    exacts [hbad hrec, htid hbad, hbad hbinding]
  rw [if_neg (by simp [h]), if_neg hfields, hbinding]
  rfl

end

theorem tenantReleased_ten (tid : W64) (s : State) : (tenantReleased tid s).ten = s.ten :=
  (forAll_keeps State.ten _ releasePlane_ten _ _).trans (dropResidency_ten tid s)

theorem tenantReleased_host (tid : W64) (s : State) : (tenantReleased tid s).host = s.host :=
  (forAll_keeps State.host _ releasePlane_host _ _).trans (dropResidency_host tid s)

theorem freed_tenantReleased {tid : W64} {n : Nat} {s : State} (htid : tid ≠ 0) (howner : (plane s n).owner = tid)
    (hst : (plane s n).st = 2 ∨ (plane s n).st = 3 ∨ (plane s n).st = 4) (hcore : unheld s (coreOf (engOf n)) = true)
    (hprog : (engine s (engOf n)).prog = none) : freed (tenantReleased tid s) n := by
  have hhw := dropResidency_hw tid s
  refine releasePlanes_freed (mem_ownedPlanes howner htid) ?_ ?_ ?_
  · unfold plane
    rw [hhw]
    exact hst
  · unfold unheld boundOf core
    rw [hhw]
    exact hcore
  · unfold engine
    rw [hhw]
    exact hprog

end Sys2Proof.Machine

/-- Settles O44: UNBIND ends in a switch (`unbindEntry_enabled`) or a release (`unbindEntry_disabled`), and UNBIND_BY_TENANT of an unbound
tenant frees its planes. -/
theorem unbindReleases : Obligations.UnbindReleases := by
  unfold Obligations.UnbindReleases
  refine ⟨fun c b s htaken hb => ?_, fun c tid s htaken htid hpriv => ?_⟩
  · subst hb
    have hexec := exec_unbind htaken
    have hreplied {status : Nat} (heq : doUnbind c (acceptedPacket c 1 s) =
        replyCmd (cmdRef c) c.binding.toNat status 0 0 (acceptedPacket c 1 s)) :
        ∃ t, exec (.unbind c) s = .next t ∧ Final c status 0 0 s t ∧ t.ten = s.ten := by
      refine ⟨_, hexec, ?_⟩
      rw [heq]
      exact ⟨final_replyCmd (entryGate_acceptedPacket c 1 s), finish_ten ..⟩
    have hpriv' := acceptedPacket_priv c 1 s
    refine ⟨fun hrefused => ?_, fun hpriv hrec => hreplied (doUnbind_record (hpriv'.trans hpriv) hrec), fun hpriv hrec hst => ?_⟩
    · cases hpriv : (ring s c.ring).priv with
      | false => exact hreplied (doUnbind_unprivileged (hpriv'.trans hpriv))
      | true =>
        obtain ⟨hrec, hst⟩ := hrefused.resolve_left (by simp [hpriv])
        exact hreplied (doUnbind_empty (hpriv'.trans hpriv) hrec hst)
    · refine ⟨fun hbusy => hreplied (doUnbind_busy (hpriv'.trans hpriv) hrec hst hbusy), fun hst3 hpeer => ⟨_, hexec, ?_⟩,
        fun hstates hpeer => ⟨_, hexec, ?_⟩⟩
      · have hfree : bindingBusy (acceptedPacket c 1 s) c.binding.toNat = false := by
          show ((entry s c.binding.toNat).st == 4 || (entry s c.binding.toNat).st == 5) = false
          rw [hst3]; decide
        rw [doUnbind_accepted (hpriv'.trans hpriv) hrec hst hfree, unbindEntry_enabled (s := acceptedPacket c 1 s) hpeer hst3]
        obtain ⟨hst4, o, hswitches, hinc, hout, hrel, hepoch⟩ :=
          startSwitch_unbind c.binding.toNat [c.binding.toNat] (unbindNoted c.binding.toNat (cmdRef c) (acceptedPacket c 1 s))
        exact ⟨hst4, o, hswitches, hinc, hout, hrel ▸ List.mem_singleton_self _, hepoch⟩
      · have hfree : bindingBusy (acceptedPacket c 1 s) c.binding.toNat = false := by
          show ((entry s c.binding.toNat).st == 4 || (entry s c.binding.toNat).st == 5) = false
          rcases hstates with h | h | h <;> rw [h] <;> decide
        have hnot3 : ¬ (entry (acceptedPacket c 1 s) c.binding.toNat).st = 3 := by
          show ¬ (entry s c.binding.toNat).st = 3
          rcases hstates with h | h | h <;> rw [h] <;> decide
        rw [doUnbind_accepted (hpriv'.trans hpriv) hrec hst hfree, unbindEntry_disabled (s := acceptedPacket c 1 s) hpeer hnot3]
        obtain ⟨hentry, hrecords, hframes⟩ :=
          startRelease_spec c.binding.toNat (unbindNoted c.binding.toNat (cmdRef c) (acceptedPacket c 1 s))
        exact ⟨hentry, fun r hr htenant => hrecords r (mem_recordsOf hr htenant), fun f _ _ howner => hframes f (owned_of_owner howner)⟩
  · subst htid
    have hexec := exec_unbindByTenant htaken
    replace hpriv := (acceptedPacket_priv c 1 s).trans hpriv
    refine ⟨fun hbad => ⟨_, hexec, ?_⟩, fun hrec htid hbinding hnone => ⟨_, hexec, ?_⟩⟩
    · rw [doUnbindByTenant_bad_field hpriv hbad]
      exact ⟨final_replyCmd (entryGate_acceptedPacket c 1 s), finish_ten .., finish_hw ..⟩
    · have hhost := tenantReleased_host (BitVec.ofNat 64 (leAt c.payload 8 8)) (acceptedPacket c 1 s)
      rw [doUnbindByTenant_unbound hpriv hrec htid hbinding hnone]
      refine ⟨final_replyCmd ?_, fun x => ?_, fun n howner hst hcore hprog => ?_⟩
      · exact (entryGate_of_host (by rw [hhost]) (by rw [hhost])).trans (entryGate_acceptedPacket c 1 s)
      · unfold replyCmd
        rw [entry_finish]
        unfold entry
        rw [tenantReleased_ten]
        rfl
      · have hfreed := freed_tenantReleased (s := acceptedPacket c 1 s) htid howner hst hcore hprog
        unfold replyCmd
        rw [plane_finish]
        exact hfreed
end

section
/-! SUPPORT. Switches accepted and refused (R335, R338, R339, R341): what tells the other plan parts leaves of the bindings, the bindings a
switch names, its epoch, and the checks in their order. -/

open Sys2Proof Sys2Proof.Machine Sys2Proof.Spec

namespace Sys2Proof.Machine

/-! ### Messages to the part that leads (R311, R312) -/

/-- The binding table and what firmware keeps with it. -/
def bindings (s : State) : SMap BEntry × SMap BRun := (s.ten.entries, s.ten.runs)

theorem entry_of_bindings {s t : State} (h : bindings t = bindings s) (x : Nat) : entry t x = entry s x := by
  unfold entry
  rw [show t.ten.entries = s.ten.entries from congrArg Prod.fst h]

theorem brun_of_bindings {s t : State} (h : bindings t = bindings s) (x : Nat) : brun t x = brun s x := by
  unfold brun
  rw [show t.ten.runs = s.ten.runs from congrArg Prod.snd h]

theorem bindings_sendPlan (code dst : Nat) (q : PlanMsg) (s : State) : bindings (sendPlan code dst q s) = bindings s :=
  (congrArg bindings (offTxns_sendPlan code dst q s) :)

theorem bindings_tellEpoch (q : PlanMsg) (o : Nat) (s : State) : bindings (tellPart 2 q o s) = bindings s := by
  unfold tellPart
  dsimp only
  split
  · rfl
  · exact bindings_sendPlan ..

theorem bindings_leadReady (planId : W64) (part : BitVec 9) (parts : Nat) (s : State) :
    bindings (leadReady planId part parts s) = bindings s := by
  unfold leadReady
  extract_lets o o1 rest e q
  split
  · exact forAll_keeps bindings (tellPart 2 q) (bindings_tellEpoch q) _ _
  · rfl

/-- A part's acceptance, told to the part that leads, leaves the bindings. -/
theorem bindings_tellLead (b : Nat) (s : State) : bindings (tellLead b none s) = bindings s := by
  unfold tellLead
  dsimp only
  split
  · exact bindings_leadReady ..
  · exact bindings_sendPlan ..

theorem out_subset_leadRefusal (planId : W64) (part : BitVec 9) (s : State) : s.out ⊆ (leadRefusal planId part s).out := by
  unfold leadRefusal
  exact (told_leadAbort _ part { s with fab := { s.fab with ops := s.fab.ops.filter fun x => !(x.lead && x.planId == planId) } }).out

/-- A part's refusal, told to the part that leads, only adds to the output. -/
theorem out_subset_tellLead (b : Nat) (r : Refuse) (s : State) : s.out ⊆ (tellLead b (some r) s).out := by
  unfold tellLead
  dsimp only
  split
  · exact out_subset_leadRefusal ..
  · exact (told_sendPlan ..).out

/-! ### The bindings a switch names (R338) -/

/-- A binding enters SWITCHING and keeps the state it held. -/
def entersSwitching (b : Nat) (s : State) : State :=
  modEntry b (fun e => { e with st := 4 }) (modBrun b (fun r => { r with prev := (entry s b).st }) s)

/-- Bindings enter SWITCHING one after the other. -/
def switching (l : List Nat) (s : State) : State := forAll l entersSwitching s

theorem entry_entersSwitching (b x : Nat) (s : State) :
    entry (entersSwitching b s) x = if x = b then { entry s b with st := 4 } else entry s x := by
  unfold entersSwitching
  rw [entry_modEntry, entry_modBrun, entry_modBrun]

theorem brun_entersSwitching (b x : Nat) (s : State) :
    brun (entersSwitching b s) x = if x = b then { brun s b with prev := (entry s b).st } else brun s x := by
  unfold entersSwitching
  rw [brun_modEntry, brun_modBrun]

theorem entry_switching_other {l : List Nat} {x : Nat} (h : x ∉ l) (s : State) : entry (switching l s) x = entry s x := by
  refine forAll_invariant (P := fun t => entry t x = entry s x) (fun b hb t ht => ?_) rfl
  rw [entry_entersSwitching, if_neg (ne_of_mem_of_not_mem hb h).symm]
  exact ht

theorem switching_named {l : List Nat} {x : Nat} (hx : x ∈ l) (hnodup : l.Nodup) (s : State) :
    (entry (switching l s) x).st = 4 ∧ (brun (switching l s) x).prev = (entry s x).st := by
  refine forAll_reaches (P := fun t => entry t x = entry s x) (Q := fun t => (entry t x).st = 4 ∧ (brun t x).prev = (entry s x).st) hx rfl
    (fun b _ hb t ht => ?_) (fun t ht => ⟨?_, ?_⟩) (fun b _ hb t ht => ?_)
  · rw [entry_entersSwitching, if_neg hb.symm]
    exact ht
  · rw [entry_entersSwitching, if_pos rfl]
  · rw [brun_entersSwitching, if_pos rfl]
    exact congrArg BEntry.st ht
  · rw [entry_entersSwitching, brun_entersSwitching, if_neg (hb hnodup).symm, if_neg (hb hnodup).symm]
    exact ht

theorem switching_switches (l : List Nat) (s : State) : (switching l s).ten.switches = s.ten.switches :=
  forAll_keeps (fun t => t.ten.switches) entersSwitching (fun _ _ => rfl) l s

/-! ### An accepted switch (R339) -/

/-- The bindings that a switch with these incoming and outgoing bindings names. -/
def namedBy (s : State) (inc : Option Nat) (outs : List Nat) : List Nat := inc.toList ++ (inc.bind (mateOf s)).toList ++ outs

/-- The incoming binding's plan has more than one part. -/
def multiPart (s : State) (inc : Option Nat) : Bool := match inc with | some b => decide (1 < plParts (planOf s b)) | none => false

/-- The first epoch whose first beat comes at least the lead and 2 beats later. -/
def nextEpoch (s : State) : Nat := ceilDiv (s.fab.sched.toNat + s.fab.lead.toNat + 2) 1024

theorem nextEpoch_spec (s : State) : s.fab.sched.toNat + s.fab.lead.toNat + 2 ≤ 1024 * nextEpoch s
    ∧ 1024 * nextEpoch s < s.fab.sched.toNat + s.fab.lead.toNat + 2 + 1024 := by
  unfold nextEpoch ceilDiv
  omega

/-- The switch that is accepted. -/
def switchFor (inc : Option Nat) (outs : List Nat) (cmd : Option CmdRef) (rel : List Nat) (s : State) : SwitchOp :=
  { incoming := inc, outgoing := outs, cmd := cmd, release := rel, accept := s.fab.sched,
    epoch := if multiPart s inc then none else some (BitVec.ofNat 64 (nextEpoch s)),
    begun := false, failed := none, scrubs := [], planId := match inc with | some b => (entry s b).planId | none => 0
    mate := inc.bind (mateOf s) }

/-- The switch joins those that wait, its bindings in SWITCHING. -/
def switchQueued (inc : Option Nat) (outs : List Nat) (cmd : Option CmdRef) (rel : List Nat) (s : State) : State :=
  { switching (namedBy s inc outs) s with ten := { (switching (namedBy s inc outs) s).ten with
    switches := (switching (namedBy s inc outs) s).ten.switches ++ [switchFor inc outs cmd rel s] } }

theorem startSwitch_cases (inc : Option Nat) (outs : List Nat) (cmd : Option CmdRef) (rel : List Nat) (s : State) :
    startSwitch inc outs cmd rel s = switchQueued inc outs cmd rel s
    ∨ multiPart s inc = true ∧ ∃ b, startSwitch inc outs cmd rel s = tellLead b none (switchQueued inc outs cmd rel s) := by
  cases inc with
  | none => exact .inl rfl
  | some b =>
    by_cases hmulti : multiPart s (some b) = true
    · exact .inr ⟨hmulti, b, if_pos hmulti⟩
    · exact .inl (if_neg hmulti)

theorem bindings_startSwitch (inc : Option Nat) (outs : List Nat) (cmd : Option CmdRef) (rel : List Nat) (s : State) :
    bindings (startSwitch inc outs cmd rel s) = bindings (switching (namedBy s inc outs) s) := by
  rcases startSwitch_cases inc outs cmd rel s with heq | ⟨-, b, heq⟩
  · rw [heq]
    rfl
  · rw [heq, bindings_tellLead]
    rfl

theorem multiPart_of_single {s : State} {inc : Option Nat} (h : ∀ x, inc = some x → plParts (planOf s x) ≤ 1) : multiPart s inc = false := by
  unfold multiPart
  split
  next b => exact decide_eq_false (h b rfl).not_gt
  next => rfl

theorem startSwitch_single {inc : Option Nat} {outs : List Nat} {cmd : Option CmdRef} {rel : List Nat} {s : State}
    (h : multiPart s inc = false) : startSwitch inc outs cmd rel s = switchQueued inc outs cmd rel s := by
  rcases startSwitch_cases inc outs cmd rel s with heq | ⟨hmulti, -⟩
  · exact heq
  · rw [h] at hmulti
    cases hmulti

/-! ### BIND_SWITCH, in the order of its checks (R376, R381) -/

theorem exec_bindSwitch {c : Cmd} {s : State} (h : Taken 0x02 1 c s) :
    exec (.bindSwitch c) s = .next (doBindSwitch c (acceptedPacket c 1 s)) :=
  congrArg Host.Outcome.next (asPacket_taken h (doBindSwitch c))

/-- The incoming binding of a BIND_SWITCH. -/
def incomingOf (c : Cmd) : Option Nat := if c.binding.toNat = 0xFFF then none else some c.binding.toNat

theorem incomingOf_eq (c : Cmd) : incomingOf c = if c.binding = 0xFFF then none else some c.binding.toNat := by
  have hiff : c.binding.toNat = 0xFFF ↔ c.binding = 0xFFF := BitVec.toNat_inj (y := 0xFFF)
  unfold incomingOf
  simp only [hiff]

theorem binding_incomingOf (c : Cmd) : BitVec.ofNat 12 ((incomingOf c).getD 0xFFF) = c.binding := by
  unfold incomingOf
  split
  next h => exact BitVec.eq_of_toNat_eq h.symm
  next => exact BitVec.ofNat_toNat 12 c.binding

/-- The switch is malformed (R338, R376). -/
def switchMalformed (c : Cmd) (s : State) : Prop :=
  c.record ≠ 0xFFFFFFFF ∨ 218 < leAt c.payload 0 2 ∨ c.payload.length < 4 + 2 * (outList c.payload).length
    ∨ ¬ (namedBy s (incomingOf c) (outList c.payload)).Nodup ∨ namedBy s (incomingOf c) (outList c.payload) = []

/-- The switch names no binding it may switch (R335). -/
def switchForeign (c : Cmd) (s : State) : Prop :=
  (ring s c.ring).priv = false ∨ (incomingOf c).isSome = true ∧ (entry s c.binding.toNat).st = 0

theorem switchForeign_iff (c : Cmd) (s : State) : switchForeign c s ↔
    (!(ring s c.ring).priv) = true ∨ (incomingOf c).isSome = true ∧ (entry s c.binding.toNat).st = 0 := by
  unfold switchForeign
  rw [Bool.not_eq_true']

theorem switchMalformed_iff (c : Cmd) (s : State) : switchMalformed c s ↔
    c.record ≠ 0xFFFFFFFF ∨ 218 < leAt c.payload 0 2 ∨ c.payload.length < 4 + 2 * (outList c.payload).length
      ∨ (!decide (namedBy s (incomingOf c) (outList c.payload)).Nodup) = true
      ∨ (namedBy s (incomingOf c) (outList c.payload)).isEmpty = true := by
  unfold switchMalformed
  rw [Bool.not_eq_true', decide_eq_false_iff_not, List.isEmpty_iff]

section
variable {c : Cmd} {s : State}

theorem doBindSwitch_foreign (h : switchForeign c s) : doBindSwitch c s = replyCmd (cmdRef c) c.binding.toNat 9 0 0 s := by
  unfold doBindSwitch
  exact if_pos ((switchForeign_iff c s).mp h)

section
variable (hown : ¬ switchForeign c s)
include hown

theorem doBindSwitch_malformed (h : switchMalformed c s) : doBindSwitch c s = replyCmd (cmdRef c) c.binding.toNat 7 0 0 s := by
  unfold doBindSwitch
  exact (if_neg (mt (switchForeign_iff c s).mpr hown)).trans (if_pos ((switchMalformed_iff c s).mp h))

variable (hformed : ¬ switchMalformed c s)
include hformed

theorem doBindSwitch_busy (h : ∃ x ∈ namedBy s (incomingOf c) (outList c.payload), bindingBusy s x = true) :
    doBindSwitch c s = replyCmd (cmdRef c) c.binding.toNat 0x0C 0 0 s := by
  unfold doBindSwitch
  exact (if_neg (mt (switchForeign_iff c s).mpr hown)).trans ((if_neg (mt (switchMalformed_iff c s).mpr hformed)).trans
    (if_pos (List.any_eq_true.mpr h)))

omit hown hformed in
theorem none_busy {l : List Nat} (h : ∀ x ∈ l, bindingBusy s x = false) : ¬ l.any (bindingBusy s) = true := by
  simpa only [List.any_eq_true, not_exists, not_and, Bool.not_eq_true] using h

variable (hfree : ∀ x ∈ namedBy s (incomingOf c) (outList c.payload), bindingBusy s x = false)
include hfree

theorem doBindSwitch_accepted (h : switchCheck s (incomingOf c) (outList c.payload) = none) :
    doBindSwitch c s = startSwitch (incomingOf c) (outList c.payload) (some (cmdRef c)) [] s := by
  unfold doBindSwitch
  refine (if_neg (mt (switchForeign_iff c s).mpr hown)).trans ((if_neg (mt (switchMalformed_iff c s).mpr hformed)).trans
    ((if_neg (none_busy hfree)).trans ?_))
  split
  next => rfl
  next r hr => cases hr.symm.trans h

/-- A refused switch, whose refusal a member of a multi-part plan tells the part that leads. -/
theorem doBindSwitch_refused {r : Refuse} {t : State} (h : switchCheck s (incomingOf c) (outList c.payload) = some r)
    (ht : doBindSwitch c s = t) : t = refuse (some (cmdRef c)) (incomingOf c) r s
    ∨ ∃ i, incomingOf c = some i ∧ 1 < plParts (planOf s i) ∧ t = tellLead i (some r) (refuse (some (cmdRef c)) (incomingOf c) r s) := by
  unfold doBindSwitch at ht
  replace ht := (if_neg (mt (switchForeign_iff c s).mpr hown)).symm.trans ht
  replace ht := (if_neg (mt (switchMalformed_iff c s).mpr hformed)).symm.trans ht
  replace ht := (if_neg (none_busy hfree)).symm.trans ht
  split at ht
  next hnone => cases hnone.symm.trans h
  next r' hr =>
    obtain rfl := Option.some.inj (hr.symm.trans h)
    dsimp only at ht
    split at ht
    next i hi =>
      split at ht
      next hlead => exact .inr ⟨i, hi, hlead.1, ht.symm⟩
      next => exact .inl ht.symm
    next => exact .inl ht.symm

end
end

theorem switchForeign_acceptedPacket (c : Cmd) (k : Nat) (s : State) : switchForeign c (acceptedPacket c k s) ↔ switchForeign c s := by
  unfold switchForeign
  rw [acceptedPacket_priv]
  rfl

theorem refuse_nRefusal (c : Option CmdRef) (b : Option Nat) (r : Refuse) (s : State) :
    (refuse c b r s).ten.nRefusal = s.ten.nRefusal + 1 := by
  rw [refuse_ten]
  cases b <;> rfl

end Sys2Proof.Machine

/-- Settles O42: the checks are made in the order of `doBindSwitch`; an accepted switch leaves the bindings as `switching` does, whatever it
tells the part that leads. -/
theorem switchesAccepted : Obligations.SwitchesAccepted := by
  unfold Obligations.SwitchesAccepted
  rintro c inc outs s htaken hinc rfl named rfl
  obtain rfl : inc = incomingOf c := hinc.trans (incomingOf_eq c).symm
  have hexec := exec_bindSwitch htaken
  have hgate := entryGate_acceptedPacket c 1 s
  have hreplied {status : Nat} (heq : doBindSwitch c (acceptedPacket c 1 s) =
      replyCmd (cmdRef c) c.binding.toNat status 0 0 (acceptedPacket c 1 s)) :
      ∃ t, exec (.bindSwitch c) s = .next t ∧ Final c status 0 0 s t ∧ t.ten = s.ten := by
    refine ⟨_, hexec, ?_⟩
    rw [heq]
    exact ⟨final_replyCmd hgate, finish_ten ..⟩
  refine ⟨fun hforeign => hreplied (doBindSwitch_foreign ((switchForeign_acceptedPacket c 1 s).mpr hforeign)), fun hpriv hst => ?_⟩
  have hown : ¬ switchForeign c (acceptedPacket c 1 s) := by
    rw [switchForeign_acceptedPacket]
    rintro (h | ⟨hsome, h⟩)
    · rw [hpriv] at h
      cases h
    · exact hst hsome h
  refine ⟨fun hbad => hreplied (doBindSwitch_malformed hown hbad), fun hrec hcount hlen hnodup hne => ?_⟩
  have hformed : ¬ switchMalformed c (acceptedPacket c 1 s) := by
    rintro (h | h | h | h | h)
    exacts [h hrec, hcount.not_gt h, hlen.not_gt h, h hnodup, hne h]
  refine ⟨fun hbusy => hreplied (doBindSwitch_busy hown hformed hbusy), fun hfree =>
    ⟨fun r hr => ⟨_, hexec, ?_⟩, fun hnone => ⟨_, hexec, ?_⟩⟩⟩
  · have hfinal : Final c 5 r.1 r.2 s (refuse (some (cmdRef c)) (incomingOf c) r (acceptedPacket c 1 s)) :=
      final_refuse hgate (binding_incomingOf c)
    rcases doBindSwitch_refused hown hformed hfree hr rfl with heq | ⟨i, hi, hparts, heq⟩
    · rw [heq]
      exact ⟨hfinal, fun _ => ⟨fun x => entrySt_refuse _ _ r (acceptedPacket c 1 s) x, refuse_nRefusal ..⟩⟩
    · rw [heq]
      exact ⟨final_mono hfinal (out_subset_tellLead ..), fun hsingle => absurd hparts (hsingle i hi).not_gt⟩
  · rw [doBindSwitch_accepted hown hformed hfree hnone]
    have hbindings := bindings_startSwitch (incomingOf c) (outList c.payload) (some (cmdRef c)) [] (acceptedPacket c 1 s)
    refine ⟨fun x hx => ?_, fun x hx => ?_, fun hsingle => ?_⟩
    · rw [entry_of_bindings hbindings, brun_of_bindings hbindings]
      exact switching_named hx hnodup (acceptedPacket c 1 s)
    · rw [entry_of_bindings hbindings]
      exact entry_switching_other hx (acceptedPacket c 1 s)
    · have hmulti : multiPart (acceptedPacket c 1 s) (incomingOf c) = false := multiPart_of_single hsingle
      rw [startSwitch_single hmulti]
      refine ⟨switchFor (incomingOf c) (outList c.payload) (some (cmdRef c)) [] (acceptedPacket c 1 s), ?_, rfl, rfl, rfl, rfl, rfl, rfl,
        nextEpoch s, ?_, nextEpoch_spec s⟩
      · unfold switchQueued
        dsimp only
        rw [switching_switches]
        rfl
      · unfold switchFor
        rw [hmulti]
        rfl
end

section
/-! SUPPORT. The epoch of a switch on a core whose waiting substitution names an engine beyond its own 17 (R37, R61, R345). -/

open Sys2Proof Sys2Proof.Machine Sys2Proof.Spec

namespace Sys2Proof.Machine

/-- A pass queued on engine 0 of core 1. -/
def strayPass : QPass := { bits := 0, idx := 0, wide := false, plane := 65 * 17, shadow := false, prim := 65 * 17, at_ := 0 }

/-- Binding 1 comes in at epoch 0 on core 0. -/
def straySwitch : SwitchOp :=
  { incoming := some 1, outgoing := [], cmd := none, release := [], accept := 0, epoch := some 0, begun := false, failed := none,
    scrubs := [], planId := 0 }

/-- Core 0 waits to substitute engine 17, which is engine 0 of core 1, and a pass is queued there on a plane that has a home. -/
def straySubst : State :=
  { State.reset with
    ten := { State.reset.ten with entries := [(1, { st := 4 })], runs := [(1, { coreMap := [0] })], switches := [straySwitch] }
    hw := { clusters := [(0, { st := 0, logical := 0, usable := 18 })]
            cores := [(0, { usable := true, logical := 0, inUse := 0xFFFF, subWait := some 17 })]
            engines := [(17, { queue := [strayPass] })]
            planes := [(65 * 17, { home := some (1, 0, 0, 0, 0) })] } }

theorem straySwitch_due : straySubst.ten.switches.filter (due straySubst) = [straySwitch] := by decide +kernel

theorem mapCores_straySubst : mapCores straySubst 1 = [0] := by decide +kernel

/-- The substitution made at the scrub of core 0 queues the pass of core 1 on core 0's spare engine. -/
theorem spareQueue_straySubst : (engine (beginSwitch straySwitch straySubst) 16).queue ≠ [] := by decide +kernel

theorem exec_switchEpoch_straySubst : exec .switchEpoch straySubst = .next (beginSwitch straySwitch straySubst) := by
  show Host.Outcome.next (forAll (straySubst.ten.switches.filter (due straySubst)) beginSwitch straySubst) = _
  rw [straySwitch_due, forAll_one]

end Sys2Proof.Machine

/-- Refutes O43: its second part says of every state that the engines of a scrubbed core have empty pass queues. At the scrub's window a
substitution that waits is made (R37, R61), and it moves the passes of the engine it names to the core's spare. In `straySubst` the
waiting substitution of core 0 names engine 17, the first of core 1, whose queued pass so reaches the spare of core 0 after its scrub.
`failEngine` itself leaves only engines below 17 to wait, which the statement does not ask for. -/
theorem not_switchEpochScrubs : ¬ Obligations.SwitchEpochScrubs := by
  unfold Obligations.SwitchEpochScrubs
  rintro ⟨-, hepoch, -⟩
  obtain ⟨t, hexec, -, -, -, hscrubbed, -⟩ := hepoch straySwitch [0] straySubst straySwitch_due
    (by decide) (by show [0] = [] ++ mapCores straySubst 1 ++ []; rw [mapCores_straySubst]; rfl)
  obtain rfl := Host.Outcome.next.inj (exec_switchEpoch_straySubst.symm.trans hexec)
  obtain ⟨-, -, -, -, -, -, -, -, -, -, hengines⟩ := hscrubbed 0 (List.mem_singleton_self 0)
  exact spareQueue_straySubst (hengines 16 (by decide)).1
end
